-- ==== Sys2Proof/Word.lean ====
section
/-!
DEFINITION. Word.lean: the word types of the HK8 and nothing else (spec 00 R1: bit 0 is the least significant bit).
-/
namespace Sys2Proof

/-- A byte of memory. -/
abbrev Byte := BitVec 8
/-- One instruction word, one 32-bit register of a lane, one lane mask (02 R32, 04 R81, 06 R136). -/
abbrev Word := BitVec 32
/-- One uniform register, one system register, one scalar operand item (06 R153, 08 R198, 15 R378). -/
abbrev DWord := BitVec 64

end Sys2Proof
end

