-- ==== Sys2Proof/Syntax.lean ====
section
/-!
DEFINITION. Syntax.lean: the abstract syntax. `Instr` has one constructor per row of the opcode table: 226 encoded
instructions, whose arguments are the fields of the word (02 R32, the opcode map of R50), and 79 steps of the machine's
other agents that have no word. A step of that second sort is taken for an `Event`, which says what the step works on;
events stand in the state's inbox until the machine takes them. The types of their arguments come first.
-/
namespace Sys2Proof

/-- A die of the package (01 R12): compute dies CD0-CD7, memory-side dies MD0-MD15. -/
inductive DieId
  | cd (n : Nat)
  | md (n : Nat)
  deriving DecidableEq, Repr

/-- A thread (06 R135): block, warp index 0-31 or 32 for the front thread, and the arm of a split warp. -/
structure ThreadRef where
  blk  : Nat
  warp : Nat
  armE : Bool
  deriving DecidableEq, Repr

/-- One register that returning data writes: a uniform register of the front thread, or one lane of an allotted
vector register (04 R82, 06 R153). -/
structure RegWrite where
  front : Bool
  reg   : Nat
  lane  : Nat
  val   : DWord
  deriving DecidableEq, Repr

/-- What an access needs of a page (11 R285). -/
inductive Access
  | read | write | atom | fetch
  deriving DecidableEq, Repr

/-- Who waits for a table walk (11 R285, 09 R230, R238, 13 R350). -/
inductive WalkFor
  | thread (t : ThreadRef)
  | copy (core id : Nat)
  | log (core id : Nat)
  deriving DecidableEq, Repr

/-- A translation miss (11 R282, R285): the cluster that missed, the context's ASID and level-4 table, the virtual
address, the access and the mode. -/
structure WalkReq where
  cluster : Nat
  asid    : BitVec 16
  l4      : Nat
  va      : Nat
  acc     : Access
  priv    : Bool
  who     : WalkFor
  deriving DecidableEq, Repr

/-- The three engine queues of a core (07 R160). -/
inductive Engine
  | array | tile | rank
  deriving DecidableEq, Repr

/-- A fault record, field by field (15 R372). -/
structure FaultRec where
  code    : Nat
  cls     : Nat
  flags   : Byte
  pc      : BitVec 56
  warp    : Nat
  die     : Nat
  core    : Nat
  blockIx : Word
  taskId  : Word
  chain   : List Word
  addr    : DWord
  engine  : BitVec 16
  ctx     : BitVec 16
  lanes   : Word
  time    : DWord
  deriving DecidableEq, Repr

/-- Where a record goes: to a thread, or to the fault ring of a compute die (15 R371, R377). -/
inductive FaultDest
  | thread (t : ThreadRef)
  | ring (die : Nat)
  deriving DecidableEq, Repr

/-- A waiter of the park table (13 R338): the task it belongs to, if any, and the thread that waits. -/
structure Waiter where
  task : Word
  t    : ThreadRef
  deriving DecidableEq, Repr

/-- An ownership message (11 R275). The type stays a number, since a receiver meets unassigned ones. -/
structure EopMsg where
  typ    : Nat
  flags  : BitVec 4
  kind   : Nat
  status : Nat
  src    : DieId
  id     : Nat
  base   : Nat
  lenm1  : Nat
  devno  : Nat
  home   : Nat
  dieIx  : Nat
  window : Nat
  via    : Option Nat := none   -- 16 R409: the port of this package by which it came in (the model's)
  deriving DecidableEq, Repr

/-- The element operations of atomics, reductions and updates (09 R236, R241, R244). -/
inductive MemOp
  | add | fadd | fmul | swap | cas | and | or | xor | min | max | minn | maxn | fmin | fmax | ld | st
  deriving DecidableEq, Repr

/-- How wide and of what type an element is (02 R52, 09 R236). -/
inductive ElemTy
  | w32 | w64 | bf16x2
  deriving DecidableEq, Repr

/-- The operations on futures, locks and queues (13 R333-R338). -/
inductive ObjOp
  | fwait | ffill | fown | fownQ | lock | unlock | qpop | succ
  deriving DecidableEq, Repr

/-- How an atomic is ordered among `.SC` atomics (10 R258, R259). -/
inductive ScKind
  | none
  | device
  | system (window devno : Nat)
  deriving DecidableEq, Repr

/-- What a request asks of its receiver (09 R241, 13 R328, R336, 12 R314). Addresses are memory keys. -/
inductive ReqBody
  | access (op : MemOp) (ty : ElemTy) (size : Nat) (key : Nat) (v c : DWord) (sc : ScKind)
  | object (op : ObjOp) (key : Nat) (args : List DWord) (w : Waiter)
  | push (key : Nat) (value : DWord) (try_ : Bool) (w : Waiter)
  | launch (queue pa : Nat)
  deriving DecidableEq, Repr

/-- Who gets the answer of a request: registers of a thread that an access writes, or a thread that waits. -/
inductive ReqOwner
  | regs (t : ThreadRef) (pend : Nat) (ws : List RegWrite)
  | waits (t : ThreadRef)
  deriving DecidableEq, Repr

/-- A request (16 R396): its ID, its origin (package and die) and receiver, the instruction and lanes that made it, and for
an `.SC` atomic its ticket, counted from 1, and its place in the receiver's sequence (10 R258). -/
structure Request where
  id     : Nat
  dev    : Nat
  src    : DieId
  dst    : DieId
  owner  : ReqOwner
  body   : ReqBody
  pc     : BitVec 56
  lanes  : Word
  ticket : Nat
  seq    : Nat
  mates  : List (Nat × Nat × Nat) := []  -- 15 R390: the lanes of its instruction, with the key and the bytes of each
  deriving DecidableEq, Repr

/-- What a slot of a flit or of a frame carries (16 R393, 10 R260). -/
inductive Slot
  | eop (dst : DieId) (m : EopMsg)
  | request (r : Request)
  | reply (dst : DieId) (id : Nat) (owner : ReqOwner) (vals : List DWord) (poison : Bool)
  | mark (place n : Nat)
  deriving DecidableEq, Repr

/-- A slotted flit (16 R393); `tries` counts its transmissions (R395), and `epoch` says after how many resyncs of its stream it is
numbered (R396; the model's). -/
structure Flit where
  seq    : Nat
  ack    : Option Nat
  nak    : Bool := false
  resync : Bool
  tries  : Nat
  slots  : List Slot
  epoch  : Nat := 0
  deriving DecidableEq, Repr

/-- One direction of a die link, and the module of the link a flit travels on (16 R392, R394). -/
structure Hop where
  src : DieId
  dst : DieId
  mod : Nat
  deriving DecidableEq, Repr

/-- A scale-up frame (16 R409). -/
structure Frame where
  seq   : Nat
  ack   : Option Nat
  nak   : Bool
  src   : Nat
  dst   : Nat
  stamp : Nat
  slots : List Slot
  deriving DecidableEq, Repr

/-- A register or table place of the management window (16 R407). An aligned doubleword of PORTMAP holds eight entries. -/
inductive RegPlace
  | cd (die num : Nat)
  | md (m num : Nat)
  | pkg (num : Nat)
  | pmc (core i : Nat)
  | pmcfg (core i : Nat)
  | portmap (die i : Nat)
  deriving DecidableEq, Repr

/-- A transaction of the host port (16 R404, R407): reads and writes of device physical addresses, AtomicOps on
BAR2, reads of the management window by name or by their place in BAR0, writes by the host CPU to its own memory or by a pool agent to the
pool (a poisoned one is what a poisoned answer to a read, or the CXL.mem poison indication, stands for: R404, R405), and the host's
pool kill (13 R331; log 50). -/
inductive HostOp
  | read (pa len : Nat)
  | write (pa : Nat) (data : List Byte) (poisoned : Bool)
  | atomic (op : MemOp) (ty : ElemTy) (pa : Nat) (v c : DWord)
  | readReg (r : RegPlace)
  | readHeat (md first : Nat)
  | readCounters (die : DieId) (m : Nat)
  | readChunk (md chunk : Nat)
  | bar0Read (off len : Nat)
  | bar0Write (off : Nat) (v : DWord)
  | readBoot
  | readMail (off len : Nat)
  | mailWrite (off : Nat) (data : List Byte)
  | hostWrite (addr : Nat) (data : List Byte) (poisoned : Bool)
  | poolWrite (addr : Nat) (data : List Byte) (poisoned : Bool)
  | poolKill (die pool : Nat)
  deriving DecidableEq, Repr

/-- What a start meets (17 R418-R423): the rails, the firmware image as loaded (its bytes), and the first unit
that fails its self-test, link training or stack training. -/
structure StartInputs where
  rails    : Bool
  image    : List Byte
  cd0Ok    : Bool
  cd4Ok    : Bool
  selfFail : Option Nat
  linkFail : Option Nat
  stackFail : Option Nat
  deriving DecidableEq, Repr

/-- A due step of an agent and what it works on: one constructor per row of the opcode table that has no word, but for
ILLEGAL_INSTRUCTION, whose constructor of `Instr` holds the refused word. -/
inductive Event
  | loadDataReturn (t : ThreadRef) (id : Nat) (ws : List RegWrite)
  | pageWalk (w : WalkReq)
  | sideLogReplay (core id : Nat)
  | copyLanding (core id : Nat)
  | engineStart (core : Nat) (eng : Engine)
  | engineComplete (core : Nat) (eng : Engine)
  | trapEntry (t : ThreadRef)
  | faultReport (dest : FaultDest) (r : FaultRec)
  | packetFetch (die : Nat)
  | dependencePoll (die : Nat)
  | gangPlacement
  | seniorGang (gang : Nat)
  | taskStart (slot : Nat)
  | adoption (t : ThreadRef) (owner : Word)
  | wake (w : Waiter)
  | parkRetry (t : ThreadRef)
  | preemptSave (die : Nat)
  | restore (gang : Nat)
  | unpickerPass (die : Nat)
  | req (home : Nat) (m : EopMsg)
  | grant (die : Nat) (m : EopMsg)
  | returnMessage (home : Nat) (m : EopMsg)
  | count (home : Nat) (m : EopMsg)
  | pending (die : Nat) (m : EopMsg)
  | reclaim (home : Nat) (m : EopMsg)
  | lost (die : Nat) (m : EopMsg)
  | retack (die : Nat) (m : EopMsg)
  | eopDiscard (ctr : Nat) (m : EopMsg)
  | requestDelivery (die : DieId) (ctr : Nat) (r : Request)
  | sliceBounce (die : Nat) (pa gen : Nat)
  | heatHalving (md : Nat)
  | heatSample (md chunk : Nat)
  | scTicket (r : Request)
  | windowMark (n : Nat)
  | systemScPerform (place n : Nat)
  | cleanAfterRelease (die slot : Nat)
  | flitReceive (h : Hop) (f : Flit) (crcOk : Bool)
  | ackOnlyFlit (h : Hop) (ack : Nat) (nak crcOk : Bool) (epoch : Nat)
  | ackTimer (h : Hop)
  | replayTimeout (h : Hop)
  | errorInterval (die : DieId) (m : Nat)
  | scaleUpFrame (port : Nat) (f : Frame) (crcOk : Bool)
  | trainingEnd (die : DieId) (m : Nat) (lowOk highOk : Bool)
  | retrainEnd (die : DieId) (m : Nat) (lowOk highOk : Bool)
  | l0nIdle (die : DieId) (m : Nat)
  | l1sIdle (die : DieId) (m : Nat)
  | wakeComplete (die : DieId) (m : Nat)
  | wakeTimeout (die : DieId) (m : Nat)
  | unresponsiveTimeout (die : DieId) (m : Nat)
  | hostAccess (h : HostOp)
  | train (die : DieId) (m : Nat)
  | takeDown (die : DieId) (m : Nat)
  | lqbell (die queue : Nat)
  | fltreplay (die : Nat) (v : DWord)
  | preempt (die : Nat) (v : DWord)
  | resume (die : Nat) (v : DWord)
  | timeStep (step : Word)
  | heatctlClr (md : Nat)
  | hclr (md : Nat) (v : DWord)
  | dirtyBitmapReadClear (md chunk : Nat)
  | quiesce (cols : BitVec 4)
  | commit (cols : BitVec 4)
  | release (cols : BitVec 4)
  | abort (cols : BitVec 4)
  | registerWrite (r : RegPlace) (v : DWord)
  | restart (minimal : Bool)
  | clearfail
  | attest (nonce : BitVec 256) (buf : DWord)
  | getcert (buf : DWord)
  | raisefloor (floor : DWord)
  | start (i : StartInputs)
  | startStepTimeout (step unit : Nat)
  | powerWindow (watts tj : Nat)
  | thermalTrip (unit : Nat)
  | fundamentalReset
  | powerLoss
  | chunkDescriptorWrite (md chunk : Nat) (d : BitVec 512)
  | badCommand (code : DWord)
  deriving DecidableEq, Repr

/-- One constructor per row of the opcode table. -/
inductive Instr
  /-- R95: Adds two integer operands per active lane, wrapping or saturating. -/
  | add (d : BitVec 7) (a : BitVec 7) (b : BitVec 7) (sat : BitVec 1) (ty : BitVec 3)
  /-- R95: Subtracts two integer operands per active lane. -/
  | sub (d : BitVec 7) (a : BitVec 7) (b : BitVec 7) (sat : BitVec 1) (ty : BitVec 3)
  /-- R96: Adds a sign-extended 11-bit immediate: modulo 2^32 in a warp, modulo 2^64 in the front stream. -/
  | addi (d : BitVec 7) (a : BitVec 7) (imm : BitVec 11)
  /-- R95: Negates an integer operand. -/
  | neg (d : BitVec 7) (a : BitVec 7) (sat : BitVec 1) (ty : BitVec 3)
  /-- R95: Takes the absolute value of an integer operand. -/
  | abs (d : BitVec 7) (a : BitVec 7) (sat : BitVec 1) (ty : BitVec 3)
  /-- R95: Multiplies two integer operands. -/
  | mul (d : BitVec 7) (a : BitVec 7) (b : BitVec 7) (sat : BitVec 1) (ty : BitVec 3)
  /-- R97: Returns the upper half of the signed product. -/
  | mulh (d : BitVec 7) (a : BitVec 7) (b : BitVec 7) (w : BitVec 1)
  /-- R97: Returns the upper half of the natural product. -/
  | mulhn (d : BitVec 7) (a : BitVec 7) (b : BitVec 7) (w : BitVec 1)
  /-- R95: Forms D + A×B exactly and fits the result once. -/
  | mad (d : BitVec 7) (a : BitVec 7) (b : BitVec 7) (sat : BitVec 1) (ty : BitVec 3)
  /-- R98: Widening multiply-add into a 64-bit pair. -/
  | madw (d : BitVec 7) (a : BitVec 7) (b : BitVec 7) (n : BitVec 1)
  /-- R99: Signed 32-bit division, refused with INT_DIVIDE when an active divisor is zero. -/
  | div (d : BitVec 7) (a : BitVec 7) (b : BitVec 7) (la : BitVec 4)
  /-- R99: Natural 32-bit division. -/
  | divn (d : BitVec 7) (a : BitVec 7) (b : BitVec 7) (la : BitVec 4)
  /-- R99: Signed 32-bit remainder. -/
  | rem (d : BitVec 7) (a : BitVec 7) (b : BitVec 7) (la : BitVec 4)
  /-- R99: Natural 32-bit remainder. -/
  | remn (d : BitVec 7) (a : BitVec 7) (b : BitVec 7) (la : BitVec 4)
  /-- R100: Signed minimum at the given width. -/
  | min (d : BitVec 7) (a : BitVec 7) (b : BitVec 7) (w : BitVec 2)
  /-- R100: Signed maximum at the given width. -/
  | max (d : BitVec 7) (a : BitVec 7) (b : BitVec 7) (w : BitVec 2)
  /-- R100: Natural minimum at the given width. -/
  | minn (d : BitVec 7) (a : BitVec 7) (b : BitVec 7) (w : BitVec 2)
  /-- R100: Natural maximum at the given width. -/
  | maxn (d : BitVec 7) (a : BitVec 7) (b : BitVec 7) (w : BitVec 2)
  /-- R101: Bitwise AND over 32 or 64 bits. -/
  | and (d : BitVec 7) (a : BitVec 7) (b : BitVec 7) (w : BitVec 1)
  /-- R101: Bitwise OR. -/
  | or (d : BitVec 7) (a : BitVec 7) (b : BitVec 7) (w : BitVec 1)
  /-- R101: Bitwise exclusive OR. -/
  | xor (d : BitVec 7) (a : BitVec 7) (b : BitVec 7) (w : BitVec 1)
  /-- R101: Bitwise A AND NOT B. -/
  | andn (d : BitVec 7) (a : BitVec 7) (b : BitVec 7) (w : BitVec 1)
  /-- R101: Bitwise complement. -/
  | not (d : BitVec 7) (a : BitVec 7) (w : BitVec 1)
  /-- R102: Shifts left by a register count. -/
  | shl (d : BitVec 7) (a : BitVec 7) (b : BitVec 7) (w : BitVec 1)
  /-- R102: Shifts right logically by a register count. -/
  | shr (d : BitVec 7) (a : BitVec 7) (b : BitVec 7) (w : BitVec 1)
  /-- R102: Shifts right arithmetically by a register count. -/
  | sar (d : BitVec 7) (a : BitVec 7) (b : BitVec 7) (w : BitVec 1)
  /-- R102: Rotates left by a register count. -/
  | rot (d : BitVec 7) (a : BitVec 7) (b : BitVec 7) (w : BitVec 1)
  /-- R102: Shifts left by an immediate count. -/
  | shli (d : BitVec 7) (a : BitVec 7) (w : BitVec 1) (c : BitVec 6)
  /-- R102: Shifts right logically by an immediate count. -/
  | shri (d : BitVec 7) (a : BitVec 7) (w : BitVec 1) (c : BitVec 6)
  /-- R102: Shifts right arithmetically by an immediate count. -/
  | sari (d : BitVec 7) (a : BitVec 7) (w : BitVec 1) (c : BitVec 6)
  /-- R103: Extracts a bit field, sign-extended. -/
  | bfx (d : BitVec 7) (a : BitVec 7) (b : BitVec 7) (w : BitVec 1)
  /-- R103: Extracts a bit field, zero-extended. -/
  | bfxn (d : BitVec 7) (a : BitVec 7) (b : BitVec 7) (w : BitVec 1)
  /-- R103: Inserts a bit field into D. -/
  | bfi (d : BitVec 7) (a : BitVec 7) (b : BitVec 7) (w : BitVec 1)
  /-- R104: Counts the one bits. -/
  | popc (d : BitVec 7) (a : BitVec 7) (w : BitVec 1)
  /-- R104: Counts the leading zero bits. -/
  | clz (d : BitVec 7) (a : BitVec 7) (w : BitVec 1)
  /-- R104: Counts the trailing zero bits. -/
  | ctz (d : BitVec 7) (a : BitVec 7) (w : BitVec 1)
  /-- R104: Reverses the bit order. -/
  | brev (d : BitVec 7) (a : BitVec 7) (w : BitVec 1)
  /-- R105: Copies a register or a register pair. -/
  | mov (d : BitVec 7) (a : BitVec 7) (w : BitVec 1)
  /-- R105: Writes an 18-bit immediate, sign-extended. -/
  | movi (d : BitVec 7) (imm : BitVec 18)
  /-- R105: Writes the immediate into bits [31:14] and keeps the low bits. -/
  | movh (d : BitVec 7) (imm : BitVec 18)
  /-- R106: Selects A or B per lane under a mask register. -/
  | sel (d : BitVec 7) (a : BitVec 7) (b : BitVec 7) (w : BitVec 1) (k : BitVec 3)
  /-- R107: Computes A + B×s with no fault and no region check. -/
  | lea (d : BitVec 7) (a : BitVec 7) (b : BitVec 7) (sc : BitVec 2)
  /-- R108: Compares integers and sets mask bits of the active lanes. -/
  | cmp (cond : BitVec 4) (k : BitVec 3) (a : BitVec 7) (b : BitVec 7) (ty : BitVec 3)
  /-- R108: Compares with an immediate and sets mask bits. -/
  | cmpi (cond : BitVec 4) (k : BitVec 3) (a : BitVec 7) (imm : BitVec 11)
  /-- R119: Floating-point addition, rounded once under RM. -/
  | fadd (d : BitVec 7) (a : BitVec 7) (b : BitVec 7) (ty : BitVec 2)
  /-- R119: Floating-point subtraction. -/
  | fsub (d : BitVec 7) (a : BitVec 7) (b : BitVec 7) (ty : BitVec 2)
  /-- R119: Floating-point multiplication. -/
  | fmul (d : BitVec 7) (a : BitVec 7) (b : BitVec 7) (ty : BitVec 2)
  /-- R119: Fused multiply-add with D as the addend, rounded once. -/
  | ffma (d : BitVec 7) (a : BitVec 7) (b : BitVec 7) (ty : BitVec 2)
  /-- R120: Returns the lesser operand, with the NaN rules of R120. -/
  | fmin (d : BitVec 7) (a : BitVec 7) (b : BitVec 7) (ty : BitVec 2)
  /-- R120: Returns the greater operand. -/
  | fmax (d : BitVec 7) (a : BitVec 7) (b : BitVec 7) (ty : BitVec 2)
  /-- R120: Clears the sign bit of each element. -/
  | fabs (d : BitVec 7) (a : BitVec 7) (ty : BitVec 2)
  /-- R120: Inverts the sign bit of each element. -/
  | fneg (d : BitVec 7) (a : BitVec 7) (ty : BitVec 2)
  /-- R123: Floating-point compare into mask bits. -/
  | fcmp (cond : BitVec 4) (k : BitVec 3) (a : BitVec 7) (b : BitVec 7) (ty : BitVec 2)
  /-- R124: Writes a one-hot class mask for each element. -/
  | fclass (d : BitVec 7) (a : BitVec 7) (ty : BitVec 2)
  /-- R125: Computes the reciprocal. -/
  | frcp (d : BitVec 7) (a : BitVec 7) (ty : BitVec 2) (la : BitVec 4)
  /-- R125: Computes the reciprocal square root. -/
  | frsq (d : BitVec 7) (a : BitVec 7) (ty : BitVec 2) (la : BitVec 4)
  /-- R125: Computes the square root. -/
  | fsqrt (d : BitVec 7) (a : BitVec 7) (ty : BitVec 2) (la : BitVec 4)
  /-- R125: Computes 2^x. -/
  | fexp2 (d : BitVec 7) (a : BitVec 7) (ty : BitVec 2) (la : BitVec 4)
  /-- R125: Computes log2 x. -/
  | flog2 (d : BitVec 7) (a : BitVec 7) (ty : BitVec 2) (la : BitVec 4)
  /-- R125: Computes the sine, correctly rounded. -/
  | fsin (d : BitVec 7) (a : BitVec 7) (ty : BitVec 2) (la : BitVec 4)
  /-- R125: Computes the cosine, correctly rounded. -/
  | fcos (d : BitVec 7) (a : BitVec 7) (ty : BitVec 2) (la : BitVec 4)
  /-- R121: FP32 division. -/
  | fdivF32 (d : BitVec 7) (a : BitVec 7) (b : BitVec 7) (la : BitVec 4)
  /-- R121: FP64 division on register pairs. -/
  | fdivF64 (d : BitVec 7) (a : BitVec 7) (b : BitVec 7) (la : BitVec 4)
  /-- R122: Multiplies by 2^n. -/
  | fscale (d : BitVec 7) (a : BitVec 7) (b : BitVec 7) (ty : BitVec 2)
  /-- R122: Rounds to an integral value under RM. -/
  | frnd (d : BitVec 7) (a : BitVec 7) (ty : BitVec 2)
  /-- R126: Converts between floating-point formats. -/
  | fcvt (d : BitVec 7) (a : BitVec 7) (sat : BitVec 1) (dfmt : BitVec 4) (sfmt : BitVec 4)
  /-- R127: Converts an integer to a floating-point format. -/
  | icvt (d : BitVec 7) (a : BitVec 7) (dfmt : BitVec 4) (ty : BitVec 3)
  /-- R128: Converts a floating-point value to an integer type. -/
  | ftoi (d : BitVec 7) (a : BitVec 7) (ty : BitVec 3) (sfmt : BitVec 4)
  /-- R129: Writes narrow elements into a packed run. -/
  | pack (d : BitVec 7) (a : BitVec 7) (b : BitVec 7) (part : BitVec 2) (w : BitVec 2)
  /-- R129: Reads narrow elements out of a packed run. -/
  | unpk (d : BitVec 7) (a : BitVec 7) (part : BitVec 2) (w : BitVec 2)
  /-- R130: Forms one plane register across the issuing arm. -/
  | bpsplit (d : BitVec 7) (a : BitVec 7) (j : BitVec 3)
  /-- R131: Rebuilds elements from b plane registers. -/
  | bpjoin (d : BitVec 7) (a : BitVec 7) (n : BitVec 3)
  /-- R132: Adds a dot product of activations with plane-truncated weights. -/
  | bpdot (d : BitVec 7) (a : BitVec 7) (b : BitVec 7) (la : BitVec 4)
  /-- R136: ANDs two mask registers. -/
  | kand (d : BitVec 3) (a : BitVec 3) (b : BitVec 3)
  /-- R136: ORs two mask registers. -/
  | kor (d : BitVec 3) (a : BitVec 3) (b : BitVec 3)
  /-- R136: XORs two mask registers. -/
  | kxor (d : BitVec 3) (a : BitVec 3) (b : BitVec 3)
  /-- R136: Computes Ka AND NOT Kb. -/
  | kandn (d : BitVec 3) (a : BitVec 3) (b : BitVec 3)
  /-- R136: Complements a mask register. -/
  | knot (d : BitVec 3) (a : BitVec 3)
  /-- R136: Copies a mask register. -/
  | kmov (d : BitVec 3) (a : BitVec 3)
  /-- R136: Sets mask bits from non-zero lane values. -/
  | kset (d : BitVec 3) (a : BitVec 7)
  /-- R136: Reads a mask register into a vector register. -/
  | kget (d : BitVec 7) (a : BitVec 3)
  /-- R136: Saves K0–K7 into eight registers. -/
  | ksave (d : BitVec 7)
  /-- R136: Restores K0–K7 from eight registers. -/
  | krest (a : BitVec 7)
  /-- R138: Reads EXM. -/
  | exmget (d : BitVec 7)
  /-- R138: Sets EXM within the path mask. -/
  | exmset (a : BitVec 7)
  /-- R109: Reads a value from an indexed lane. -/
  | shflIdx (d : BitVec 7) (a : BitVec 7) (b : BitVec 7)
  /-- R109: Reads a value from a lower lane. -/
  | shflUp (d : BitVec 7) (a : BitVec 7) (b : BitVec 7)
  /-- R109: Reads a value from a higher lane. -/
  | shflDn (d : BitVec 7) (a : BitVec 7) (b : BitVec 7)
  /-- R109: Reads a value from the lane given by XOR with the lane index. -/
  | shflXor (d : BitVec 7) (a : BitVec 7) (b : BitVec 7)
  /-- R110: Writes whether any active lane has its mask bit set. -/
  | voteAny (d : BitVec 7) (k : BitVec 3)
  /-- R110: Writes whether all active lanes have their mask bit set. -/
  | voteAll (d : BitVec 7) (k : BitVec 3)
  /-- R110: Writes the ballot mask. -/
  | voteBal (d : BitVec 7) (k : BitVec 3)
  /-- R147: Unconditional relative branch. -/
  | bra (off : BitVec 25)
  /-- R142: Branches on a mask register, splitting or serialising paths when the lanes disagree. -/
  | brd (k : BitVec 3) (rec : BitVec 11) (tgt : BitVec 11)
  /-- R146: Ends the current path as if it had reached its reconvergence address. -/
  | rcv
  /-- R147: Pushes a call entry and branches. -/
  | call (off : BitVec 25)
  /-- R147: Pops a call entry and returns to it. -/
  | ret
  /-- R147: Jumps to a 64-bit register target. -/
  | jmpi (a : BitVec 7)
  /-- R148: Ends the lanes of the path mask, or ends the front thread; region registers are emptied at thread exit. -/
  | exit
  /-- R147: Does nothing. -/
  | nop
  /-- R155: Front-stream conditional branch on a uniform register. -/
  | bru (d : BitVec 7) (cond : BitVec 2) (off : BitVec 16)
  /-- R87: Reads a special register. -/
  | rds (d : BitVec 7) (n : BitVec 12)
  /-- R85: Sets the window base WB to 16×k. -/
  | win (k : BitVec 11)
  /-- R115: Writes the selected bits of FMT. -/
  | setf (a : BitVec 7) (b : BitVec 7)
  /-- R115: Reads FMT. -/
  | getf (d : BitVec 7)
  /-- R115: Reads the sticky flags and clears the selected ones. -/
  | flags (d : BitVec 7) (a : BitVec 7)
  /-- R156: Writes a uniform mirror from a uniform register. -/
  | yset (n : BitVec 3) (a : BitVec 7)
  /-- R154: Sets the front window base SWB. -/
  | swin (b : BitVec 2)
  /-- R379: Reads a system register. -/
  | csrr (d : BitVec 7) (n : BitVec 12)
  /-- R379: Writes a system register; privileged. -/
  | csrw (d : BitVec 7) (n : BitVec 12)
  /-- R379: Writes old OR v into a system register. -/
  | csrwSet (d : BitVec 7) (n : BitVec 12)
  /-- R379: Writes old AND NOT v into a system register. -/
  | csrwClr (d : BitVec 7) (n : BitVec 12)
  /-- R403: Wakes the sleeping links on the route to a target die. -/
  | lwake (a : BitVec 7)
  /-- R287: Invalidates translations and matching L1 lines throughout the partition; privileged. -/
  | tlbinv (a : BitVec 7) (b : BitVec 7)
  /-- R226: Loads 32 bits through a region register. -/
  | ld32 (d : BitVec 7) (rg : BitVec 5) (idx : BitVec 7) (sc : BitVec 2) (la : BitVec 4)
  /-- R226: Loads 64 bits. -/
  | ld64 (d : BitVec 7) (rg : BitVec 5) (idx : BitVec 7) (sc : BitVec 2) (la : BitVec 4)
  /-- R226: Loads a byte, sign-extended. -/
  | ldI8 (d : BitVec 7) (rg : BitVec 5) (idx : BitVec 7) (sc : BitVec 2) (la : BitVec 4)
  /-- R226: Loads a byte, zero-extended. -/
  | ldN8 (d : BitVec 7) (rg : BitVec 5) (idx : BitVec 7) (sc : BitVec 2) (la : BitVec 4)
  /-- R226: Loads 16 bits, sign-extended. -/
  | ldI16 (d : BitVec 7) (rg : BitVec 5) (idx : BitVec 7) (sc : BitVec 2) (la : BitVec 4)
  /-- R226: Loads 16 bits, zero-extended. -/
  | ldN16 (d : BitVec 7) (rg : BitVec 5) (idx : BitVec 7) (sc : BitVec 2) (la : BitVec 4)
  /-- R226: Stores 32 bits through an E region. -/
  | st32 (d : BitVec 7) (rg : BitVec 5) (idx : BitVec 7) (sc : BitVec 2) (la : BitVec 4)
  /-- R226: Stores 64 bits. -/
  | st64 (d : BitVec 7) (rg : BitVec 5) (idx : BitVec 7) (sc : BitVec 2) (la : BitVec 4)
  /-- R226: Stores a byte. -/
  | st8 (d : BitVec 7) (rg : BitVec 5) (idx : BitVec 7) (sc : BitVec 2) (la : BitVec 4)
  /-- R226: Stores 16 bits. -/
  | st16 (d : BitVec 7) (rg : BitVec 5) (idx : BitVec 7) (sc : BitVec 2) (la : BitVec 4)
  /-- R227: Loads 32 bits without filling L1. -/
  | ldn (d : BitVec 7) (rg : BitVec 5) (idx : BitVec 7) (sc : BitVec 2) (la : BitVec 4)
  /-- R227: Stores 32 bits without filling L1. -/
  | stn (d : BitVec 7) (rg : BitVec 5) (idx : BitVec 7) (sc : BitVec 2) (la : BitVec 4)
  /-- R228: Loads the top p planes of a bit-plane array. -/
  | ldbp (d : BitVec 7) (rg : BitVec 5) (idx : BitVec 7) (sc : BitVec 2) (la : BitVec 4)
  /-- R229: Stores the bits that the next register enables. -/
  | stbe (d : BitVec 7) (rg : BitVec 5) (idx : BitVec 7) (sc : BitVec 2) (la : BitVec 4)
  /-- R233: Copies bytes between regions on the copy path. -/
  | cpy (d : BitVec 5) (a : BitVec 5) (b : BitVec 7)
  /-- R234: Makes a gather/scatter copy of one element per lane. -/
  | cpyg (d : BitVec 5) (a : BitVec 5) (b : BitVec 7)
  /-- R235: Copies bytes into the shadow exchange bank of a cluster block. -/
  | xst (d : BitVec 5) (a : BitVec 5) (b : BitVec 7)
  /-- R236: Updates a word in place at the level that owns it. -/
  | dupd (d : BitVec 5) (a : BitVec 7) (b : BitVec 7)
  /-- R239: Prefetches a range into a cache level. -/
  | pref (a : BitVec 5) (b : BitVec 7)
  /-- R239: Asks the homes to hold or release a range in the memory-side cache. -/
  | res (a : BitVec 5) (b : BitVec 7)
  /-- R237: Holds the thread until the scratch lines of a range are present. -/
  | pwait (a : BitVec 5) (b : BitVec 7)
  /-- R200: Requests a borrow of kind E, S, A or Y, waiting or with .TRY. -/
  | borrow (d : BitVec 5) (a : BitVec 7) (b : BitVec 7) (tr : BitVec 1) (k : BitVec 2)
  /-- R201: Downgrades an E borrow to S. -/
  | reborrowS (d : BitVec 5) (b : BitVec 7)
  /-- R201: Upgrades a sole S borrow to E, or answers BUSY. -/
  | reborrowE (d : BitVec 5) (b : BitVec 7)
  /-- R202: Cuts a borrow into children and hands them to threads of the block. -/
  | split (d : BitVec 5) (a : BitVec 5) (b : BitVec 7) (eq : BitVec 1) (n : BitVec 3)
  /-- R203: Hands copies of an S borrow to up to 8 targets. -/
  | share (d : BitVec 5) (a : BitVec 5) (b : BitVec 7)
  /-- R204: Returns a child to its parent, as a release. -/
  | give (a : BitVec 5)
  /-- R205: Waits until every child is back, then clears SPLITP. -/
  | join (a : BitVec 5)
  /-- R206: Gives up a borrow, with write-back and return to its arbiter. -/
  | returnR (a : BitVec 5)
  /-- R207: Reads all 128 bits of a region register. -/
  | rginfo (d : BitVec 7) (a : BitVec 5)
  /-- R208: Moves a borrow between two region registers. -/
  | rgmov (d : BitVec 5) (a : BitVec 5)
  /-- R209: Empties a LOST region register and frees its entry; privileged. -/
  | rgclr (a : BitVec 5)
  /-- R209: Clears the taint of an E borrow at its home; privileged. -/
  | rgclrTaint (a : BitVec 5)
  /-- R241: Atomic integer add at the home. -/
  | atomAdd (d : BitVec 7) (w : BitVec 2) (rg : BitVec 5) (ord : BitVec 3) (scope : BitVec 3)
  /-- R241: Atomic floating-point add. -/
  | atomFadd (d : BitVec 7) (w : BitVec 2) (rg : BitVec 5) (ord : BitVec 3) (scope : BitVec 3)
  /-- R241: Atomic swap. -/
  | atomSwap (d : BitVec 7) (w : BitVec 2) (rg : BitVec 5) (ord : BitVec 3) (scope : BitVec 3)
  /-- R241: Atomic compare and swap. -/
  | atomCas (d : BitVec 7) (w : BitVec 2) (rg : BitVec 5) (ord : BitVec 3) (scope : BitVec 3)
  /-- R241: Atomic AND. -/
  | atomAnd (d : BitVec 7) (w : BitVec 2) (rg : BitVec 5) (ord : BitVec 3) (scope : BitVec 3)
  /-- R241: Atomic OR. -/
  | atomOr (d : BitVec 7) (w : BitVec 2) (rg : BitVec 5) (ord : BitVec 3) (scope : BitVec 3)
  /-- R241: Atomic XOR. -/
  | atomXor (d : BitVec 7) (w : BitVec 2) (rg : BitVec 5) (ord : BitVec 3) (scope : BitVec 3)
  /-- R241: Atomic signed minimum. -/
  | atomMin (d : BitVec 7) (w : BitVec 2) (rg : BitVec 5) (ord : BitVec 3) (scope : BitVec 3)
  /-- R241: Atomic signed maximum. -/
  | atomMax (d : BitVec 7) (w : BitVec 2) (rg : BitVec 5) (ord : BitVec 3) (scope : BitVec 3)
  /-- R241: Atomic natural minimum. -/
  | atomMinn (d : BitVec 7) (w : BitVec 2) (rg : BitVec 5) (ord : BitVec 3) (scope : BitVec 3)
  /-- R241: Atomic natural maximum. -/
  | atomMaxn (d : BitVec 7) (w : BitVec 2) (rg : BitVec 5) (ord : BitVec 3) (scope : BitVec 3)
  /-- R241: Atomic load at the home. -/
  | atomLd (d : BitVec 7) (w : BitVec 2) (rg : BitVec 5) (ord : BitVec 3) (scope : BitVec 3)
  /-- R241: Atomic store at the home. -/
  | atomSt (d : BitVec 7) (w : BitVec 2) (rg : BitVec 5) (ord : BitVec 3) (scope : BitVec 3)
  /-- R244: Reduces an integer add into an A-borrow partial. -/
  | redAdd (d : BitVec 7) (w : BitVec 2) (rg : BitVec 5) (ord : BitVec 3) (scope : BitVec 3)
  /-- R244: Reduces a floating-point add into a partial. -/
  | redFadd (d : BitVec 7) (w : BitVec 2) (rg : BitVec 5) (ord : BitVec 3) (scope : BitVec 3)
  /-- R244: Reduces a signed minimum. -/
  | redMin (d : BitVec 7) (w : BitVec 2) (rg : BitVec 5) (ord : BitVec 3) (scope : BitVec 3)
  /-- R244: Reduces a signed maximum. -/
  | redMax (d : BitVec 7) (w : BitVec 2) (rg : BitVec 5) (ord : BitVec 3) (scope : BitVec 3)
  /-- R244: Reduces a floating-point minimum. -/
  | redFmin (d : BitVec 7) (w : BitVec 2) (rg : BitVec 5) (ord : BitVec 3) (scope : BitVec 3)
  /-- R244: Reduces a floating-point maximum. -/
  | redFmax (d : BitVec 7) (w : BitVec 2) (rg : BitVec 5) (ord : BitVec 3) (scope : BitVec 3)
  /-- R244: Reduces a bitwise AND. -/
  | redAnd (d : BitVec 7) (w : BitVec 2) (rg : BitVec 5) (ord : BitVec 3) (scope : BitVec 3)
  /-- R244: Reduces a bitwise OR. -/
  | redOr (d : BitVec 7) (w : BitVec 2) (rg : BitVec 5) (ord : BitVec 3) (scope : BitVec 3)
  /-- R244: Reduces a bitwise XOR. -/
  | redXor (d : BitVec 7) (w : BitVec 2) (rg : BitVec 5) (ord : BitVec 3) (scope : BitVec 3)
  /-- R244: Reduces a natural minimum. -/
  | redMinn (d : BitVec 7) (w : BitVec 2) (rg : BitVec 5) (ord : BitVec 3) (scope : BitVec 3)
  /-- R244: Reduces a natural maximum. -/
  | redMaxn (d : BitVec 7) (w : BitVec 2) (rg : BitVec 5) (ord : BitVec 3) (scope : BitVec 3)
  /-- R245: Orders the thread's earlier memory operations before its later ones at a scope. -/
  | fence (scope : BitVec 3)
  /-- R171: Matrix multiply-accumulate into a tile. -/
  | mma (d : BitVec 5) (c : BitVec 7) (sat : BitVec 1) (la : BitVec 4)
  /-- R172: Block-scaled matrix multiply-accumulate. -/
  | mmas (d : BitVec 5) (c : BitVec 7) (la : BitVec 4)
  /-- R173: INT8 by bit-plane weight multiply-accumulate. -/
  | mbp (d : BitVec 5) (c : BitVec 7) (mid : BitVec 1) (sat : BitVec 1) (la : BitVec 4)
  /-- R174: Zeroes a tile. -/
  | mzero (d : BitVec 5) (la : BitVec 4)
  /-- R174: Loads a tile from scratch. -/
  | mld (d : BitVec 5) (n : BitVec 5) (c : BitVec 7) (la : BitVec 4)
  /-- R174: Stores a tile to scratch. -/
  | mst (n : BitVec 5) (src : BitVec 5) (c : BitVec 7) (la : BitVec 4)
  /-- R174: Copies one tile to another. -/
  | mcpy (d : BitVec 5) (src : BitVec 5) (la : BitVec 4)
  /-- R174: Converts tile rows and packs them into scratch. -/
  | mcvt (n : BitVec 5) (src : BitVec 5) (c : BitVec 7) (la : BitVec 4)
  /-- R175: Transposes a tile. -/
  | mtrn (d : BitVec 5) (src : BitVec 5) (la : BitVec 4)
  /-- R175: Permutes the rows of a tile. -/
  | mperm (d : BitVec 5) (src : BitVec 5) (c : BitVec 7) (la : BitVec 4)
  /-- R175: Sums the rows of a tile into column 0. -/
  | mrsum (d : BitVec 5) (src : BitVec 5) (c : BitVec 7) (la : BitVec 4)
  /-- R176: Front arrival on a block barrier, then a wait for its phase; the operand-ready fence. -/
  | mrdy (b : BitVec 5)
  /-- R176: Waits until a tile is not in flight. -/
  | mwait (d : BitVec 5)
  /-- R176: Reads the tile status bits. -/
  | mstat (e : BitVec 5) (c : BitVec 7) (la : BitVec 4)
  /-- R178: Ranks a scratch vector into a rank list. -/
  | rank (d : BitVec 5) (src : BitVec 5) (c : BitVec 7) (ty : BitVec 2) (la : BitVec 4)
  /-- R179: Multiplies rank lists against a weight window into a tile. -/
  | rmma (d : BitVec 5) (src : BitVec 5) (c : BitVec 7) (tie : BitVec 1) (la : BitVec 4)
  /-- R180: Rebuilds a dense vector from a rank list. -/
  | rtv (d : BitVec 5) (src : BitVec 5) (c : BitVec 7) (la : BitVec 4)
  /-- R181: Copies a rank list to an exchange or global region. -/
  | rlst (d : BitVec 5) (src : BitVec 5) (c : BitVec 7) (la : BitVec 4)
  /-- R295: Loads entries of the rank-attenuation table. -/
  | ratl (src : BitVec 5) (c : BitVec 7) (la : BitVec 4)
  /-- R295: Loads entries of the reconstruction table. -/
  | rrcl (src : BitVec 5) (c : BitVec 7) (la : BitVec 4)
  /-- R329: Spawns a task into a pool. -/
  | tspawn (d : BitVec 7) (a : BitVec 7) (b : BitVec 7)
  /-- R330: Ends the running task, filling its future and decreasing its successor counter. -/
  | tret (a : BitVec 7)
  /-- R338: Waits on a future through a check-and-register. -/
  | fwait (d : BitVec 7) (a : BitVec 5) (b : BitVec 7)
  /-- R333: Fills a future FULL or ERROR and wakes its waiters. -/
  | ffill (d : BitVec 7) (a : BitVec 5) (b : BitVec 7)
  /-- R334: Claims or releases a future, or sets a queue's producer. -/
  | fown (d : BitVec 7) (a : BitVec 5) (b : BitVec 7)
  /-- R335: Takes a lock or waits on it. -/
  | lock (d : BitVec 7) (a : BitVec 5) (b : BitVec 7)
  /-- R335: Releases a lock and wakes its waiters. -/
  | unlock (d : BitVec 7) (a : BitVec 5) (b : BitVec 7)
  /-- R336: Pushes a value onto a queue named by its ID. -/
  | qpush (d : BitVec 7) (a : BitVec 7) (b : BitVec 7)
  /-- R337: Pops a queue entry or waits for one. -/
  | qpop (d : BitVec 7) (a : BitVec 5) (b : BitVec 7)
  /-- R332: Decreases a successor counter, releasing a deferred task at zero. -/
  | succ (d : BitVec 7) (a : BitVec 5) (b : BitVec 7)
  /-- R314: Pushes a launch packet into a queue from a running thread. -/
  | launch (d : BitVec 7) (a : BitVec 7) (b : BitVec 7)
  /-- R313: Makes the thread not ready for 16 clocks. -/
  | yield
  /-- R309: Appends a decision-queue entry for a set of warps. -/
  | dqpush (a : BitVec 7) (b : BitVec 7)
  /-- R309: Pops the warp's next decision-queue entry. -/
  | dqpop (d : BitVec 7)
  /-- R311: Producer arrival on a bobbin slot. -/
  | srput (b : BitVec 3)
  /-- R311: Waits until the consumer cursor's slot is filled. -/
  | srwaitC (d : BitVec 7) (b : BitVec 3)
  /-- R311: Waits until the producer cursor's slot is empty. -/
  | srwaitP (d : BitVec 7) (b : BitVec 3)
  /-- R311: Consumer release of a bobbin slot. -/
  | srrel (b : BitVec 3)
  /-- R359: Arrives at a barrier and returns the token. -/
  | barArr (d : BitVec 7) (lev : BitVec 2) (n : BitVec 4)
  /-- R359: Waits until the barrier's phase count differs from the token. -/
  | barWait (a : BitVec 7) (lev : BitVec 2) (n : BitVec 4)
  /-- R359: Arrives at a barrier and waits for its phase. -/
  | barSync (d : BitVec 7) (lev : BitVec 2) (n : BitVec 4)
  /-- R359: Sets the membership of a block barrier. -/
  | barSet (a : BitVec 7) (n : BitVec 4)
  /-- R363: Reads a copy-completion counter. -/
  | cntRd (d : BitVec 7) (c : BitVec 4)
  /-- R363: Waits until a copy-completion counter reaches a value. -/
  | cntWait (a : BitVec 7) (c : BitVec 4)
  /-- R363: Clears a copy-completion counter. -/
  | cntClr (c : BitVec 4)
  /-- R366: Reads the time base. -/
  | time (d : BitVec 7)
  /-- R366: Reads the window number and K. -/
  | winw (d : BitVec 7)
  /-- R370: Reads a performance counter. -/
  | perf (d : BitVec 7) (a : BitVec 7)
  /-- R381: Raises SOFTWARE_TRAP. -/
  | trap (n : BitVec 14)
  /-- R381: Raises SUPERVISOR_CALL. -/
  | svc (n : BitVec 14)
  /-- R383: Ends a trap handler, restoring the set-aside register or exiting. -/
  | rft
  /-- R381: Raises BREAKPOINT. -/
  | brk (n : BitVec 14)
  /-- R382: Kills a block or a task. -/
  | killb (d : BitVec 7) (a : BitVec 7)
  /-- R46: Predicates the following words by a captured mask; legal in minimal mode only. -/
  | pblk (k : BitVec 3) (n : BitVec 3) (pat : BitVec 8)
  /-- R50: Issue of a word with an unassigned major, or with a 1 in an unused bit, which is refused with ILLEGAL_INSTRUCTION. -/
  | illegalInstruction (w : Word)
  /-- R82: The data of an issued load or atomic returns and is written to its destination. -/
  | loadDataReturn
  /-- R285: A translation miss completes its table walk, filling the TLB or raising a fault. -/
  | pageWalk
  /-- R350: A side-log entry replays once its pages are mapped. -/
  | sideLogReplay
  /-- R232: A copy-path transfer lands; the last one completes the command and counts it. -/
  | copyLanding
  /-- R160: A queued matrix, tile-port or rank instruction starts on its engine and frees its queue slot. -/
  | engineStart
  /-- R159: An engine instruction completes, updating the tile status. -/
  | engineComplete
  /-- R375: A deliverable fault enters the thread's handler or is made fatal. -/
  | trapEntry
  /-- R373: An imprecise fault report arrives for a thread, or goes to the fault ring. -/
  | faultReport
  /-- R299: A packet reaches the head of its queue and is checked. -/
  | packetFetch
  /-- R303: The fetcher re-reads a head packet's dependence counter. -/
  | dependencePoll
  /-- R305: The arbiter places a waiting gang once it fits. -/
  | gangPlacement
  /-- R306: A gang that has waited 100 µs becomes senior and gets a target. -/
  | seniorGang
  /-- R342: An idle pool slot takes a READY chain or a queued task. -/
  | taskStart
  /-- R339: The task unit answers a wait with an owner by adopting, holding or parking. -/
  | adoption
  /-- R341: A wake reaches a recorded waiter. -/
  | wake
  /-- R338: A waiter held for want of a park-table entry re-sends its check every 1,024 ns. -/
  | parkRetry
  /-- R386: The save handler saves a stopped gang into its frame. -/
  | preemptSave
  /-- R386: A saved gang is placed again and its frame written back. -/
  | restore
  /-- R279: The unpicker walks the die table for dead contexts and reclaims their entries. -/
  | unpickerPass
  /-- R273: A home takes a borrow request for a piece. -/
  | req
  /-- R277: A holder die takes a grant or refusal of a piece. -/
  | grant
  /-- R278: A home takes a returned piece, frees the entry and sends RETACK. -/
  | returnMessage
  /-- R275: A home records a proxy's new local count. -/
  | count
  /-- R277: A holder die takes a writer-pending or flush notice. -/
  | pending
  /-- R278: A home takes a return for a killed holder, or a taint clear. -/
  | reclaim
  /-- R277: A requester die takes a LOST reply, ending the request. -/
  | lost
  /-- R277: A holder die takes the acknowledgement of a returned piece. -/
  | retack
  /-- R275: An ownership message with an unassigned type is discarded and counted. -/
  | eopDiscard
  /-- R396: A request reaches its receiving die and is performed or dropped as a duplicate. -/
  | requestDelivery
  /-- R293: An L2 request of an older slice-map generation is rehashed or bounced. -/
  | sliceBounce
  /-- R367: Every 2^DL2 requests, every heat counter of the die is halved. -/
  | heatHalving
  /-- R367: Every 2^H requests, the heat counter of the request's chunk rises by 1. -/
  | heatSample
  /-- R258: The ticket sequencer hands a .SC atomic its ticket and sequence number. -/
  | scTicket
  /-- R260: At each window start the sequencer hands every place a window mark. -/
  | windowMark
  /-- R260: A place reaches a window mark and performs the due .SYSTEM .SC atomics as one group. -/
  | systemScPerform
  /-- R262: Local time reaches a grant's clean-after stamp and held loads proceed. -/
  | cleanAfterRelease
  /-- R394: A slotted flit arrives, is CRC-checked and delivered in SEQ order, or triggers a NAK. -/
  | flitReceive
  /-- R447: A flit with no valid slot carries acknowledgements only. -/
  | ackOnlyFlit
  /-- R394: An acknowledgement is sent every 16 flits or 50 ns. -/
  | ackTimer
  /-- R394: No acknowledgement for 1 µs makes the transmitter replay. -/
  | replayTimeout
  /-- R395: At each 2^20 ns interval the module's CRC failure count restarts. -/
  | errorInterval
  /-- R409: A scale-up Ethernet frame arrives and its slots are handled. -/
  | scaleUpFrame
  /-- R397: Link training ends in L0, degraded L0 or DOWN. -/
  | trainingEnd
  /-- R397: A retrain ends in degraded L0 with resync, or in DOWN. -/
  | retrainEnd
  /-- R397: An idle module enters L0N after the L0N interval. -/
  | l0nIdle
  /-- R397: An idle module enters L1S after the L1S interval. -/
  | l1sIdle
  /-- R397: A waking module reaches full width and returns to L0. -/
  | wakeComplete
  /-- R397: A wake that lasts 4,000 ns takes the module DOWN. -/
  | wakeTimeout
  /-- R397: No acknowledgement for 200,000 ns takes the module DOWN. -/
  | unresponsiveTimeout
  /-- R404: A host-port access to device memory or an AtomicOp arrives. -/
  | hostAccess
  /-- R399: An LKST CMD write of 1 starts training of a DOWN module. -/
  | train
  /-- R399: An LKST CMD write of 2 takes the module DOWN. -/
  | takeDown
  /-- R302: A doorbell write marks a launch queue as having work. -/
  | lqbell
  /-- R377: A write makes held PAGE_NOT_PRESENT accesses retry their translation. -/
  | fltreplay
  /-- R385: A PREEMPT write with GO requests the save of a context's gang. -/
  | preempt
  /-- R385: A RESUME write releases a held gang for restore. -/
  | resume
  /-- R364: A non-zero TBADJ STEP write moves the time base forward. -/
  | timeStep
  /-- R368: A HEATCTL write with CLR sets every heat counter of the die to 0. -/
  | heatctlClr
  /-- R408: An HCLR write frees a LOST home or proxy entry. -/
  | hclr
  /-- R289: A host read of a dirty bitmap returns it and clears it indivisibly. -/
  | dirtyBitmapReadClear
  /-- R417: PARTCMD QUIESCE stops new work on the affected dies and stages their writes. -/
  | quiesce
  /-- R417: PARTCMD COMMIT drains, checks and applies the staged partition values. -/
  | commit
  /-- R417: PARTCMD RELEASE lets the new partitions take work. -/
  | release
  /-- R417: PARTCMD ABORT discards the staged values and resumes the old partitions. -/
  | abort
  /-- R4: A write to a system register with no row of its own, under its field access codes. -/
  | registerWrite
  /-- R426: The mailbox RESTART command restarts the package, normal or minimal. -/
  | restart
  /-- R422: The mailbox CLEARFAIL command sets FCNT to 0. -/
  | clearfail
  /-- R427: The mailbox ATTEST command writes a signed attestation report. -/
  | attest
  /-- R426: The mailbox GETCERT command writes the identity and attestation certificates. -/
  | getcert
  /-- R420: The mailbox RAISEFLOOR command blows rollback fuses up to the new floor. -/
  | raisefloor
  /-- R418: Leaving reset with rails in regulation runs the start sequence. -/
  | start
  /-- R418: A start step that overruns its bound fails the start with reason 7. -/
  | startStepTimeout
  /-- R428: At the end of each 1 ms window the governor sets the throttle duty. -/
  | powerWindow
  /-- R428: A junction at 115 °C removes the core rails and stops the package. -/
  | thermalTrip
  /-- R418: A PCIe fundamental reset stops the package and holds it in reset until the next start. -/
  | fundamentalReset
  /-- R419: Loss of power stops the package, leaving the boot status block as its last complete copy and any in-progress flag set. -/
  | powerLoss
  /-- R291: A host write to a chunk descriptor in the management window adds reserve or changes compression, releasing writes held by OVERFLOW. -/
  | chunkDescriptorWrite
  /-- R426: A mailbox command word with an unassigned code is answered with status BAD_COMMAND. -/
  | badCommand
  deriving DecidableEq, Repr

/-- The table row of a due step. -/
def Event.instr : Event → Instr
  | .loadDataReturn .. => .loadDataReturn
  | .pageWalk .. => .pageWalk
  | .sideLogReplay .. => .sideLogReplay
  | .copyLanding .. => .copyLanding
  | .engineStart .. => .engineStart
  | .engineComplete .. => .engineComplete
  | .trapEntry .. => .trapEntry
  | .faultReport .. => .faultReport
  | .packetFetch .. => .packetFetch
  | .dependencePoll .. => .dependencePoll
  | .gangPlacement => .gangPlacement
  | .seniorGang .. => .seniorGang
  | .taskStart .. => .taskStart
  | .adoption .. => .adoption
  | .wake .. => .wake
  | .parkRetry .. => .parkRetry
  | .preemptSave .. => .preemptSave
  | .restore .. => .restore
  | .unpickerPass .. => .unpickerPass
  | .req .. => .req
  | .grant .. => .grant
  | .returnMessage .. => .returnMessage
  | .count .. => .count
  | .pending .. => .pending
  | .reclaim .. => .reclaim
  | .lost .. => .lost
  | .retack .. => .retack
  | .eopDiscard .. => .eopDiscard
  | .requestDelivery .. => .requestDelivery
  | .sliceBounce .. => .sliceBounce
  | .heatHalving .. => .heatHalving
  | .heatSample .. => .heatSample
  | .scTicket .. => .scTicket
  | .windowMark .. => .windowMark
  | .systemScPerform .. => .systemScPerform
  | .cleanAfterRelease .. => .cleanAfterRelease
  | .flitReceive .. => .flitReceive
  | .ackOnlyFlit .. => .ackOnlyFlit
  | .ackTimer .. => .ackTimer
  | .replayTimeout .. => .replayTimeout
  | .errorInterval .. => .errorInterval
  | .scaleUpFrame .. => .scaleUpFrame
  | .trainingEnd .. => .trainingEnd
  | .retrainEnd .. => .retrainEnd
  | .l0nIdle .. => .l0nIdle
  | .l1sIdle .. => .l1sIdle
  | .wakeComplete .. => .wakeComplete
  | .wakeTimeout .. => .wakeTimeout
  | .unresponsiveTimeout .. => .unresponsiveTimeout
  | .hostAccess .. => .hostAccess
  | .train .. => .train
  | .takeDown .. => .takeDown
  | .lqbell .. => .lqbell
  | .fltreplay .. => .fltreplay
  | .preempt .. => .preempt
  | .resume .. => .resume
  | .timeStep .. => .timeStep
  | .heatctlClr .. => .heatctlClr
  | .hclr .. => .hclr
  | .dirtyBitmapReadClear .. => .dirtyBitmapReadClear
  | .quiesce .. => .quiesce
  | .commit .. => .commit
  | .release .. => .release
  | .abort .. => .abort
  | .registerWrite .. => .registerWrite
  | .restart .. => .restart
  | .clearfail => .clearfail
  | .attest .. => .attest
  | .getcert .. => .getcert
  | .raisefloor .. => .raisefloor
  | .start .. => .start
  | .startStepTimeout .. => .startStepTimeout
  | .powerWindow .. => .powerWindow
  | .thermalTrip .. => .thermalTrip
  | .fundamentalReset => .fundamentalReset
  | .powerLoss => .powerLoss
  | .chunkDescriptorWrite .. => .chunkDescriptorWrite
  | .badCommand .. => .badCommand

end Sys2Proof
end

