-- ==== Sys2Proof/Decode.lean ====
section
/-!
DEFINITION. Decode.lean: from words to instructions and back. The encodings of R32, R50-R52 and of the chapters' own
encoding tables, one `Row` each: the fixed bits (every bit that an instruction does not use is fixed at 0, R33) and the
places of its fields. A word that matches no row is rejected by name; issue refuses it with ILLEGAL_INSTRUCTION (R33,
R50). Field values that R50 calls illegal are the business of `Instr.wellFormed`.
-/
namespace Sys2Proof

/-- One encoded row: the value of the fixed bits, the mask of the fixed bits, the fields as (lowest bit, width), and
the instruction that the field values make. -/
structure Row where
  pat    : Nat
  mask   : Nat
  fields : List (Nat × Nat)
  build  : List Nat → Option Instr

/-- The `len` bits of `w` from bit `lo` up (R1). -/
def bitsAt (w : Nat) (f : Nat × Nat) : Nat := (w >>> f.1) % 2 ^ f.2

/-- The field values laid into their places. -/
def placeFields : List (Nat × Nat) → List Nat → Nat
  | f :: fs, v :: vs => (v <<< f.1) ||| placeFields fs vs
  | _, _ => 0

/-- The word of a row with the given field values. -/
def Row.word (r : Row) (vs : List Nat) : Word := BitVec.ofNat 32 (r.pat ||| placeFields r.fields vs)

/-- Whether a word has the row's fixed bits. -/
def Row.fits (r : Row) (w : Nat) : Bool := (w &&& r.mask) == r.pat

/-- ADD (R95) -/
def rowAdd : Row := ⟨0x02000000, 0xFE000000, [(18, 7), (11, 7), (4, 7), (3, 1), (0, 3)], fun | [d, a, b, sat, ty] => some (.add (.ofNat _ d) (.ofNat _ a) (.ofNat _ b) (.ofNat _ sat) (.ofNat _ ty)) | _ => none⟩
/-- SUB (R95) -/
def rowSub : Row := ⟨0x04000000, 0xFE000000, [(18, 7), (11, 7), (4, 7), (3, 1), (0, 3)], fun | [d, a, b, sat, ty] => some (.sub (.ofNat _ d) (.ofNat _ a) (.ofNat _ b) (.ofNat _ sat) (.ofNat _ ty)) | _ => none⟩
/-- ADDI (R96) -/
def rowAddi : Row := ⟨0x06000000, 0xFE000000, [(18, 7), (11, 7), (0, 11)], fun | [d, a, imm] => some (.addi (.ofNat _ d) (.ofNat _ a) (.ofNat _ imm)) | _ => none⟩
/-- NEG (R95) -/
def rowNeg : Row := ⟨0x08000000, 0xFE0007F0, [(18, 7), (11, 7), (3, 1), (0, 3)], fun | [d, a, sat, ty] => some (.neg (.ofNat _ d) (.ofNat _ a) (.ofNat _ sat) (.ofNat _ ty)) | _ => none⟩
/-- ABS (R95) -/
def rowAbs : Row := ⟨0x0A000000, 0xFE0007F0, [(18, 7), (11, 7), (3, 1), (0, 3)], fun | [d, a, sat, ty] => some (.abs (.ofNat _ d) (.ofNat _ a) (.ofNat _ sat) (.ofNat _ ty)) | _ => none⟩
/-- MUL (R95) -/
def rowMul : Row := ⟨0x0C000000, 0xFE000000, [(18, 7), (11, 7), (4, 7), (3, 1), (0, 3)], fun | [d, a, b, sat, ty] => some (.mul (.ofNat _ d) (.ofNat _ a) (.ofNat _ b) (.ofNat _ sat) (.ofNat _ ty)) | _ => none⟩
/-- MULH (R97) -/
def rowMulh : Row := ⟨0x0E000000, 0xFE00000D, [(18, 7), (11, 7), (4, 7), (1, 1)], fun | [d, a, b, w] => some (.mulh (.ofNat _ d) (.ofNat _ a) (.ofNat _ b) (.ofNat _ w)) | _ => none⟩
/-- MULHN (R97) -/
def rowMulhn : Row := ⟨0x10000001, 0xFE00000D, [(18, 7), (11, 7), (4, 7), (1, 1)], fun | [d, a, b, w] => some (.mulhn (.ofNat _ d) (.ofNat _ a) (.ofNat _ b) (.ofNat _ w)) | _ => none⟩
/-- MAD (R95) -/
def rowMad : Row := ⟨0x12000000, 0xFE000000, [(18, 7), (11, 7), (4, 7), (3, 1), (0, 3)], fun | [d, a, b, sat, ty] => some (.mad (.ofNat _ d) (.ofNat _ a) (.ofNat _ b) (.ofNat _ sat) (.ofNat _ ty)) | _ => none⟩
/-- MADW (R98) -/
def rowMadw : Row := ⟨0x14000000, 0xFE00000E, [(18, 7), (11, 7), (4, 7), (0, 1)], fun | [d, a, b, n] => some (.madw (.ofNat _ d) (.ofNat _ a) (.ofNat _ b) (.ofNat _ n)) | _ => none⟩
/-- DIV (R99) -/
def rowDiv : Row := ⟨0x16000000, 0xFE000000, [(18, 7), (11, 7), (4, 7), (0, 4)], fun | [d, a, b, la] => some (.div (.ofNat _ d) (.ofNat _ a) (.ofNat _ b) (.ofNat _ la)) | _ => none⟩
/-- DIVN (R99) -/
def rowDivn : Row := ⟨0x18000000, 0xFE000000, [(18, 7), (11, 7), (4, 7), (0, 4)], fun | [d, a, b, la] => some (.divn (.ofNat _ d) (.ofNat _ a) (.ofNat _ b) (.ofNat _ la)) | _ => none⟩
/-- REM (R99) -/
def rowRem : Row := ⟨0x1A000000, 0xFE000000, [(18, 7), (11, 7), (4, 7), (0, 4)], fun | [d, a, b, la] => some (.rem (.ofNat _ d) (.ofNat _ a) (.ofNat _ b) (.ofNat _ la)) | _ => none⟩
/-- REMN (R99) -/
def rowRemn : Row := ⟨0x1C000000, 0xFE000000, [(18, 7), (11, 7), (4, 7), (0, 4)], fun | [d, a, b, la] => some (.remn (.ofNat _ d) (.ofNat _ a) (.ofNat _ b) (.ofNat _ la)) | _ => none⟩
/-- MIN (R100) -/
def rowMin : Row := ⟨0x1E000000, 0xFE00000C, [(18, 7), (11, 7), (4, 7), (0, 2)], fun | [d, a, b, w] => some (.min (.ofNat _ d) (.ofNat _ a) (.ofNat _ b) (.ofNat _ w)) | _ => none⟩
/-- MAX (R100) -/
def rowMax : Row := ⟨0x1E000004, 0xFE00000C, [(18, 7), (11, 7), (4, 7), (0, 2)], fun | [d, a, b, w] => some (.max (.ofNat _ d) (.ofNat _ a) (.ofNat _ b) (.ofNat _ w)) | _ => none⟩
/-- MINN (R100) -/
def rowMinn : Row := ⟨0x1E000008, 0xFE00000C, [(18, 7), (11, 7), (4, 7), (0, 2)], fun | [d, a, b, w] => some (.minn (.ofNat _ d) (.ofNat _ a) (.ofNat _ b) (.ofNat _ w)) | _ => none⟩
/-- MAXN (R100) -/
def rowMaxn : Row := ⟨0x1E00000C, 0xFE00000C, [(18, 7), (11, 7), (4, 7), (0, 2)], fun | [d, a, b, w] => some (.maxn (.ofNat _ d) (.ofNat _ a) (.ofNat _ b) (.ofNat _ w)) | _ => none⟩
/-- AND (R101) -/
def rowAnd : Row := ⟨0x20000000, 0xFE000007, [(18, 7), (11, 7), (4, 7), (3, 1)], fun | [d, a, b, w] => some (.and (.ofNat _ d) (.ofNat _ a) (.ofNat _ b) (.ofNat _ w)) | _ => none⟩
/-- OR (R101) -/
def rowOr : Row := ⟨0x20000001, 0xFE000007, [(18, 7), (11, 7), (4, 7), (3, 1)], fun | [d, a, b, w] => some (.or (.ofNat _ d) (.ofNat _ a) (.ofNat _ b) (.ofNat _ w)) | _ => none⟩
/-- XOR (R101) -/
def rowXor : Row := ⟨0x20000002, 0xFE000007, [(18, 7), (11, 7), (4, 7), (3, 1)], fun | [d, a, b, w] => some (.xor (.ofNat _ d) (.ofNat _ a) (.ofNat _ b) (.ofNat _ w)) | _ => none⟩
/-- ANDN (R101) -/
def rowAndn : Row := ⟨0x20000003, 0xFE000007, [(18, 7), (11, 7), (4, 7), (3, 1)], fun | [d, a, b, w] => some (.andn (.ofNat _ d) (.ofNat _ a) (.ofNat _ b) (.ofNat _ w)) | _ => none⟩
/-- NOT (R101) -/
def rowNot : Row := ⟨0x20000004, 0xFE0007F7, [(18, 7), (11, 7), (3, 1)], fun | [d, a, w] => some (.not (.ofNat _ d) (.ofNat _ a) (.ofNat _ w)) | _ => none⟩
/-- SHL (R102) -/
def rowShl : Row := ⟨0x22000000, 0xFE00000B, [(18, 7), (11, 7), (4, 7), (2, 1)], fun | [d, a, b, w] => some (.shl (.ofNat _ d) (.ofNat _ a) (.ofNat _ b) (.ofNat _ w)) | _ => none⟩
/-- SHR (R102) -/
def rowShr : Row := ⟨0x22000001, 0xFE00000B, [(18, 7), (11, 7), (4, 7), (2, 1)], fun | [d, a, b, w] => some (.shr (.ofNat _ d) (.ofNat _ a) (.ofNat _ b) (.ofNat _ w)) | _ => none⟩
/-- SAR (R102) -/
def rowSar : Row := ⟨0x22000002, 0xFE00000B, [(18, 7), (11, 7), (4, 7), (2, 1)], fun | [d, a, b, w] => some (.sar (.ofNat _ d) (.ofNat _ a) (.ofNat _ b) (.ofNat _ w)) | _ => none⟩
/-- ROT (R102) -/
def rowRot : Row := ⟨0x22000003, 0xFE00000B, [(18, 7), (11, 7), (4, 7), (2, 1)], fun | [d, a, b, w] => some (.rot (.ofNat _ d) (.ofNat _ a) (.ofNat _ b) (.ofNat _ w)) | _ => none⟩
/-- SHLI (R102) -/
def rowShli : Row := ⟨0x24000000, 0xFE000780, [(18, 7), (11, 7), (6, 1), (0, 6)], fun | [d, a, w, c] => some (.shli (.ofNat _ d) (.ofNat _ a) (.ofNat _ w) (.ofNat _ c)) | _ => none⟩
/-- SHRI (R102) -/
def rowShri : Row := ⟨0x26000000, 0xFE000780, [(18, 7), (11, 7), (6, 1), (0, 6)], fun | [d, a, w, c] => some (.shri (.ofNat _ d) (.ofNat _ a) (.ofNat _ w) (.ofNat _ c)) | _ => none⟩
/-- SARI (R102) -/
def rowSari : Row := ⟨0x28000000, 0xFE000780, [(18, 7), (11, 7), (6, 1), (0, 6)], fun | [d, a, w, c] => some (.sari (.ofNat _ d) (.ofNat _ a) (.ofNat _ w) (.ofNat _ c)) | _ => none⟩
/-- BFX (R103) -/
def rowBfx : Row := ⟨0x2A000000, 0xFE00000B, [(18, 7), (11, 7), (4, 7), (2, 1)], fun | [d, a, b, w] => some (.bfx (.ofNat _ d) (.ofNat _ a) (.ofNat _ b) (.ofNat _ w)) | _ => none⟩
/-- BFXN (R103) -/
def rowBfxn : Row := ⟨0x2A000001, 0xFE00000B, [(18, 7), (11, 7), (4, 7), (2, 1)], fun | [d, a, b, w] => some (.bfxn (.ofNat _ d) (.ofNat _ a) (.ofNat _ b) (.ofNat _ w)) | _ => none⟩
/-- BFI (R103) -/
def rowBfi : Row := ⟨0x2A000002, 0xFE00000B, [(18, 7), (11, 7), (4, 7), (2, 1)], fun | [d, a, b, w] => some (.bfi (.ofNat _ d) (.ofNat _ a) (.ofNat _ b) (.ofNat _ w)) | _ => none⟩
/-- POPC (R104) -/
def rowPopc : Row := ⟨0x2C000000, 0xFE0007FB, [(18, 7), (11, 7), (2, 1)], fun | [d, a, w] => some (.popc (.ofNat _ d) (.ofNat _ a) (.ofNat _ w)) | _ => none⟩
/-- CLZ (R104) -/
def rowClz : Row := ⟨0x2C000001, 0xFE0007FB, [(18, 7), (11, 7), (2, 1)], fun | [d, a, w] => some (.clz (.ofNat _ d) (.ofNat _ a) (.ofNat _ w)) | _ => none⟩
/-- CTZ (R104) -/
def rowCtz : Row := ⟨0x2C000002, 0xFE0007FB, [(18, 7), (11, 7), (2, 1)], fun | [d, a, w] => some (.ctz (.ofNat _ d) (.ofNat _ a) (.ofNat _ w)) | _ => none⟩
/-- BREV (R104) -/
def rowBrev : Row := ⟨0x2C000003, 0xFE0007FB, [(18, 7), (11, 7), (2, 1)], fun | [d, a, w] => some (.brev (.ofNat _ d) (.ofNat _ a) (.ofNat _ w)) | _ => none⟩
/-- MOV (R105) -/
def rowMov : Row := ⟨0x2E000000, 0xFE0007FE, [(18, 7), (11, 7), (0, 1)], fun | [d, a, w] => some (.mov (.ofNat _ d) (.ofNat _ a) (.ofNat _ w)) | _ => none⟩
/-- MOVI (R105) -/
def rowMovi : Row := ⟨0x30000000, 0xFE000000, [(18, 7), (0, 18)], fun | [d, imm] => some (.movi (.ofNat _ d) (.ofNat _ imm)) | _ => none⟩
/-- MOVH (R105) -/
def rowMovh : Row := ⟨0x32000000, 0xFE000000, [(18, 7), (0, 18)], fun | [d, imm] => some (.movh (.ofNat _ d) (.ofNat _ imm)) | _ => none⟩
/-- SEL (R106) -/
def rowSel : Row := ⟨0x34000000, 0xFE000000, [(18, 7), (11, 7), (4, 7), (3, 1), (0, 3)], fun | [d, a, b, w, k] => some (.sel (.ofNat _ d) (.ofNat _ a) (.ofNat _ b) (.ofNat _ w) (.ofNat _ k)) | _ => none⟩
/-- LEA (R107) -/
def rowLea : Row := ⟨0x36000000, 0xFE00000C, [(18, 7), (11, 7), (4, 7), (0, 2)], fun | [d, a, b, sc] => some (.lea (.ofNat _ d) (.ofNat _ a) (.ofNat _ b) (.ofNat _ sc)) | _ => none⟩
/-- CMP (R108) -/
def rowCmp : Row := ⟨0x38000000, 0xFE000008, [(21, 4), (18, 3), (11, 7), (4, 7), (0, 3)], fun | [cond, k, a, b, ty] => some (.cmp (.ofNat _ cond) (.ofNat _ k) (.ofNat _ a) (.ofNat _ b) (.ofNat _ ty)) | _ => none⟩
/-- CMPI (R108) -/
def rowCmpi : Row := ⟨0x3A000000, 0xFE000000, [(21, 4), (18, 3), (11, 7), (0, 11)], fun | [cond, k, a, imm] => some (.cmpi (.ofNat _ cond) (.ofNat _ k) (.ofNat _ a) (.ofNat _ imm)) | _ => none⟩
/-- FADD (R119) -/
def rowFadd : Row := ⟨0x40000000, 0xFE00000C, [(18, 7), (11, 7), (4, 7), (0, 2)], fun | [d, a, b, ty] => some (.fadd (.ofNat _ d) (.ofNat _ a) (.ofNat _ b) (.ofNat _ ty)) | _ => none⟩
/-- FSUB (R119) -/
def rowFsub : Row := ⟨0x42000000, 0xFE00000C, [(18, 7), (11, 7), (4, 7), (0, 2)], fun | [d, a, b, ty] => some (.fsub (.ofNat _ d) (.ofNat _ a) (.ofNat _ b) (.ofNat _ ty)) | _ => none⟩
/-- FMUL (R119) -/
def rowFmul : Row := ⟨0x44000000, 0xFE00000C, [(18, 7), (11, 7), (4, 7), (0, 2)], fun | [d, a, b, ty] => some (.fmul (.ofNat _ d) (.ofNat _ a) (.ofNat _ b) (.ofNat _ ty)) | _ => none⟩
/-- FFMA (R119) -/
def rowFfma : Row := ⟨0x46000000, 0xFE00000C, [(18, 7), (11, 7), (4, 7), (0, 2)], fun | [d, a, b, ty] => some (.ffma (.ofNat _ d) (.ofNat _ a) (.ofNat _ b) (.ofNat _ ty)) | _ => none⟩
/-- FMIN (R120) -/
def rowFmin : Row := ⟨0x48000000, 0xFE00000C, [(18, 7), (11, 7), (4, 7), (0, 2)], fun | [d, a, b, ty] => some (.fmin (.ofNat _ d) (.ofNat _ a) (.ofNat _ b) (.ofNat _ ty)) | _ => none⟩
/-- FMAX (R120) -/
def rowFmax : Row := ⟨0x48000004, 0xFE00000C, [(18, 7), (11, 7), (4, 7), (0, 2)], fun | [d, a, b, ty] => some (.fmax (.ofNat _ d) (.ofNat _ a) (.ofNat _ b) (.ofNat _ ty)) | _ => none⟩
/-- FABS (R120) -/
def rowFabs : Row := ⟨0x4A000000, 0xFE0007FC, [(18, 7), (11, 7), (0, 2)], fun | [d, a, ty] => some (.fabs (.ofNat _ d) (.ofNat _ a) (.ofNat _ ty)) | _ => none⟩
/-- FNEG (R120) -/
def rowFneg : Row := ⟨0x4A000004, 0xFE0007FC, [(18, 7), (11, 7), (0, 2)], fun | [d, a, ty] => some (.fneg (.ofNat _ d) (.ofNat _ a) (.ofNat _ ty)) | _ => none⟩
/-- FCMP (R123) -/
def rowFcmp : Row := ⟨0x4C000000, 0xFE00000C, [(21, 4), (18, 3), (11, 7), (4, 7), (0, 2)], fun | [cond, k, a, b, ty] => some (.fcmp (.ofNat _ cond) (.ofNat _ k) (.ofNat _ a) (.ofNat _ b) (.ofNat _ ty)) | _ => none⟩
/-- FCLASS (R124) -/
def rowFclass : Row := ⟨0x4E000000, 0xFE0007FC, [(18, 7), (11, 7), (0, 2)], fun | [d, a, ty] => some (.fclass (.ofNat _ d) (.ofNat _ a) (.ofNat _ ty)) | _ => none⟩
/-- FRCP (R125) -/
def rowFrcp : Row := ⟨0x50000000, 0xFE0004F0, [(18, 7), (11, 7), (8, 2), (0, 4)], fun | [d, a, ty, la] => some (.frcp (.ofNat _ d) (.ofNat _ a) (.ofNat _ ty) (.ofNat _ la)) | _ => none⟩
/-- FRSQ (R125) -/
def rowFrsq : Row := ⟨0x50000010, 0xFE0004F0, [(18, 7), (11, 7), (8, 2), (0, 4)], fun | [d, a, ty, la] => some (.frsq (.ofNat _ d) (.ofNat _ a) (.ofNat _ ty) (.ofNat _ la)) | _ => none⟩
/-- FSQRT (R125) -/
def rowFsqrt : Row := ⟨0x50000020, 0xFE0004F0, [(18, 7), (11, 7), (8, 2), (0, 4)], fun | [d, a, ty, la] => some (.fsqrt (.ofNat _ d) (.ofNat _ a) (.ofNat _ ty) (.ofNat _ la)) | _ => none⟩
/-- FEXP2 (R125) -/
def rowFexp2 : Row := ⟨0x50000030, 0xFE0004F0, [(18, 7), (11, 7), (8, 2), (0, 4)], fun | [d, a, ty, la] => some (.fexp2 (.ofNat _ d) (.ofNat _ a) (.ofNat _ ty) (.ofNat _ la)) | _ => none⟩
/-- FLOG2 (R125) -/
def rowFlog2 : Row := ⟨0x50000040, 0xFE0004F0, [(18, 7), (11, 7), (8, 2), (0, 4)], fun | [d, a, ty, la] => some (.flog2 (.ofNat _ d) (.ofNat _ a) (.ofNat _ ty) (.ofNat _ la)) | _ => none⟩
/-- FSIN (R125) -/
def rowFsin : Row := ⟨0x50000050, 0xFE0004F0, [(18, 7), (11, 7), (8, 2), (0, 4)], fun | [d, a, ty, la] => some (.fsin (.ofNat _ d) (.ofNat _ a) (.ofNat _ ty) (.ofNat _ la)) | _ => none⟩
/-- FCOS (R125) -/
def rowFcos : Row := ⟨0x50000060, 0xFE0004F0, [(18, 7), (11, 7), (8, 2), (0, 4)], fun | [d, a, ty, la] => some (.fcos (.ofNat _ d) (.ofNat _ a) (.ofNat _ ty) (.ofNat _ la)) | _ => none⟩
/-- FDIV_F32 (R121) -/
def rowFdivF32 : Row := ⟨0x52000000, 0xFE000000, [(18, 7), (11, 7), (4, 7), (0, 4)], fun | [d, a, b, la] => some (.fdivF32 (.ofNat _ d) (.ofNat _ a) (.ofNat _ b) (.ofNat _ la)) | _ => none⟩
/-- FDIV_F64 (R121) -/
def rowFdivF64 : Row := ⟨0x54000000, 0xFE000000, [(18, 7), (11, 7), (4, 7), (0, 4)], fun | [d, a, b, la] => some (.fdivF64 (.ofNat _ d) (.ofNat _ a) (.ofNat _ b) (.ofNat _ la)) | _ => none⟩
/-- FSCALE (R122) -/
def rowFscale : Row := ⟨0x56000000, 0xFE00000C, [(18, 7), (11, 7), (4, 7), (0, 2)], fun | [d, a, b, ty] => some (.fscale (.ofNat _ d) (.ofNat _ a) (.ofNat _ b) (.ofNat _ ty)) | _ => none⟩
/-- FRND (R122) -/
def rowFrnd : Row := ⟨0x56000004, 0xFE0007FC, [(18, 7), (11, 7), (0, 2)], fun | [d, a, ty] => some (.frnd (.ofNat _ d) (.ofNat _ a) (.ofNat _ ty)) | _ => none⟩
/-- FCVT (R126) -/
def rowFcvt : Row := ⟨0x58000000, 0xFE000600, [(18, 7), (11, 7), (8, 1), (4, 4), (0, 4)], fun | [d, a, sat, dfmt, sfmt] => some (.fcvt (.ofNat _ d) (.ofNat _ a) (.ofNat _ sat) (.ofNat _ dfmt) (.ofNat _ sfmt)) | _ => none⟩
/-- ICVT (R127) -/
def rowIcvt : Row := ⟨0x5A000000, 0xFE000708, [(18, 7), (11, 7), (4, 4), (0, 3)], fun | [d, a, dfmt, ty] => some (.icvt (.ofNat _ d) (.ofNat _ a) (.ofNat _ dfmt) (.ofNat _ ty)) | _ => none⟩
/-- FTOI (R128) -/
def rowFtoi : Row := ⟨0x5C000000, 0xFE000780, [(18, 7), (11, 7), (4, 3), (0, 4)], fun | [d, a, ty, sfmt] => some (.ftoi (.ofNat _ d) (.ofNat _ a) (.ofNat _ ty) (.ofNat _ sfmt)) | _ => none⟩
/-- PACK (R129) -/
def rowPack : Row := ⟨0x5E000000, 0xFE000000, [(18, 7), (11, 7), (4, 7), (2, 2), (0, 2)], fun | [d, a, b, part, w] => some (.pack (.ofNat _ d) (.ofNat _ a) (.ofNat _ b) (.ofNat _ part) (.ofNat _ w)) | _ => none⟩
/-- UNPK (R129) -/
def rowUnpk : Row := ⟨0x60000000, 0xFE0007F0, [(18, 7), (11, 7), (2, 2), (0, 2)], fun | [d, a, part, w] => some (.unpk (.ofNat _ d) (.ofNat _ a) (.ofNat _ part) (.ofNat _ w)) | _ => none⟩
/-- BPSPLIT (R130) -/
def rowBpsplit : Row := ⟨0x62000000, 0xFE0007F8, [(18, 7), (11, 7), (0, 3)], fun | [d, a, j] => some (.bpsplit (.ofNat _ d) (.ofNat _ a) (.ofNat _ j)) | _ => none⟩
/-- BPJOIN (R131) -/
def rowBpjoin : Row := ⟨0x64000000, 0xFE0007F8, [(18, 7), (11, 7), (0, 3)], fun | [d, a, n] => some (.bpjoin (.ofNat _ d) (.ofNat _ a) (.ofNat _ n)) | _ => none⟩
/-- BPDOT (R132) -/
def rowBpdot : Row := ⟨0x66000000, 0xFE000000, [(18, 7), (11, 7), (4, 7), (0, 4)], fun | [d, a, b, la] => some (.bpdot (.ofNat _ d) (.ofNat _ a) (.ofNat _ b) (.ofNat _ la)) | _ => none⟩
/-- KAND (R136) -/
def rowKand : Row := ⟨0x68000000, 0xFFE3C78F, [(18, 3), (11, 3), (4, 3)], fun | [d, a, b] => some (.kand (.ofNat _ d) (.ofNat _ a) (.ofNat _ b)) | _ => none⟩
/-- KOR (R136) -/
def rowKor : Row := ⟨0x68000001, 0xFFE3C78F, [(18, 3), (11, 3), (4, 3)], fun | [d, a, b] => some (.kor (.ofNat _ d) (.ofNat _ a) (.ofNat _ b)) | _ => none⟩
/-- KXOR (R136) -/
def rowKxor : Row := ⟨0x68000002, 0xFFE3C78F, [(18, 3), (11, 3), (4, 3)], fun | [d, a, b] => some (.kxor (.ofNat _ d) (.ofNat _ a) (.ofNat _ b)) | _ => none⟩
/-- KANDN (R136) -/
def rowKandn : Row := ⟨0x68000003, 0xFFE3C78F, [(18, 3), (11, 3), (4, 3)], fun | [d, a, b] => some (.kandn (.ofNat _ d) (.ofNat _ a) (.ofNat _ b)) | _ => none⟩
/-- KNOT (R136) -/
def rowKnot : Row := ⟨0x68000004, 0xFFE3C7FF, [(18, 3), (11, 3)], fun | [d, a] => some (.knot (.ofNat _ d) (.ofNat _ a)) | _ => none⟩
/-- KMOV (R136) -/
def rowKmov : Row := ⟨0x68000005, 0xFFE3C7FF, [(18, 3), (11, 3)], fun | [d, a] => some (.kmov (.ofNat _ d) (.ofNat _ a)) | _ => none⟩
/-- KSET (R136) -/
def rowKset : Row := ⟨0x6A000000, 0xFFE007FF, [(18, 3), (11, 7)], fun | [d, a] => some (.kset (.ofNat _ d) (.ofNat _ a)) | _ => none⟩
/-- KGET (R136) -/
def rowKget : Row := ⟨0x6A000001, 0xFE03C7FF, [(18, 7), (11, 3)], fun | [d, a] => some (.kget (.ofNat _ d) (.ofNat _ a)) | _ => none⟩
/-- KSAVE (R136) -/
def rowKsave : Row := ⟨0x6A000002, 0xFE03FFFF, [(18, 7)], fun | [d] => some (.ksave (.ofNat _ d)) | _ => none⟩
/-- KREST (R136) -/
def rowKrest : Row := ⟨0x6A000003, 0xFFFC07FF, [(11, 7)], fun | [a] => some (.krest (.ofNat _ a)) | _ => none⟩
/-- EXMGET (R138) -/
def rowExmget : Row := ⟨0x6C000000, 0xFE03FFFF, [(18, 7)], fun | [d] => some (.exmget (.ofNat _ d)) | _ => none⟩
/-- EXMSET (R138) -/
def rowExmset : Row := ⟨0x6C000001, 0xFFFC07FF, [(11, 7)], fun | [a] => some (.exmset (.ofNat _ a)) | _ => none⟩
/-- SHFL_IDX (R109) -/
def rowShflIdx : Row := ⟨0x6E000000, 0xFE00000F, [(18, 7), (11, 7), (4, 7)], fun | [d, a, b] => some (.shflIdx (.ofNat _ d) (.ofNat _ a) (.ofNat _ b)) | _ => none⟩
/-- SHFL_UP (R109) -/
def rowShflUp : Row := ⟨0x6E000001, 0xFE00000F, [(18, 7), (11, 7), (4, 7)], fun | [d, a, b] => some (.shflUp (.ofNat _ d) (.ofNat _ a) (.ofNat _ b)) | _ => none⟩
/-- SHFL_DN (R109) -/
def rowShflDn : Row := ⟨0x6E000002, 0xFE00000F, [(18, 7), (11, 7), (4, 7)], fun | [d, a, b] => some (.shflDn (.ofNat _ d) (.ofNat _ a) (.ofNat _ b)) | _ => none⟩
/-- SHFL_XOR (R109) -/
def rowShflXor : Row := ⟨0x6E000003, 0xFE00000F, [(18, 7), (11, 7), (4, 7)], fun | [d, a, b] => some (.shflXor (.ofNat _ d) (.ofNat _ a) (.ofNat _ b)) | _ => none⟩
/-- VOTE_ANY (R110) -/
def rowVoteAny : Row := ⟨0x70000000, 0xFE03C7FF, [(18, 7), (11, 3)], fun | [d, k] => some (.voteAny (.ofNat _ d) (.ofNat _ k)) | _ => none⟩
/-- VOTE_ALL (R110) -/
def rowVoteAll : Row := ⟨0x70000001, 0xFE03C7FF, [(18, 7), (11, 3)], fun | [d, k] => some (.voteAll (.ofNat _ d) (.ofNat _ k)) | _ => none⟩
/-- VOTE_BAL (R110) -/
def rowVoteBal : Row := ⟨0x70000002, 0xFE03C7FF, [(18, 7), (11, 3)], fun | [d, k] => some (.voteBal (.ofNat _ d) (.ofNat _ k)) | _ => none⟩
/-- BRA (R147) -/
def rowBra : Row := ⟨0x78000000, 0xFE000000, [(0, 25)], fun | [off] => some (.bra (.ofNat _ off)) | _ => none⟩
/-- BRD (R142) -/
def rowBrd : Row := ⟨0x7A000000, 0xFE000000, [(22, 3), (11, 11), (0, 11)], fun | [k, rec, tgt] => some (.brd (.ofNat _ k) (.ofNat _ rec) (.ofNat _ tgt)) | _ => none⟩
/-- RCV (R146) -/
def rowRcv : Row := ⟨0x7C000000, 0xFFFFFFFF, [], fun | [] => some .rcv | _ => none⟩
/-- CALL (R147) -/
def rowCall : Row := ⟨0x7E000000, 0xFE000000, [(0, 25)], fun | [off] => some (.call (.ofNat _ off)) | _ => none⟩
/-- RET (R147) -/
def rowRet : Row := ⟨0x80000000, 0xFFFFFFFF, [], fun | [] => some .ret | _ => none⟩
/-- JMPI (R147) -/
def rowJmpi : Row := ⟨0x82000000, 0xFFFC07FF, [(11, 7)], fun | [a] => some (.jmpi (.ofNat _ a)) | _ => none⟩
/-- EXIT (R148) -/
def rowExit : Row := ⟨0x84000000, 0xFFFFFFFF, [], fun | [] => some .exit | _ => none⟩
/-- NOP (R147) -/
def rowNop : Row := ⟨0x86000000, 0xFFFFFFFF, [], fun | [] => some .nop | _ => none⟩
/-- BRU (R155) -/
def rowBru : Row := ⟨0x88000000, 0xFE000000, [(18, 7), (16, 2), (0, 16)], fun | [d, cond, off] => some (.bru (.ofNat _ d) (.ofNat _ cond) (.ofNat _ off)) | _ => none⟩
/-- RDS (R87) -/
def rowRds : Row := ⟨0x90000000, 0xFE00003F, [(18, 7), (6, 12)], fun | [d, n] => some (.rds (.ofNat _ d) (.ofNat _ n)) | _ => none⟩
/-- WIN (R85) -/
def rowWin : Row := ⟨0x92000000, 0xFFFFF800, [(0, 11)], fun | [k] => some (.win (.ofNat _ k)) | _ => none⟩
/-- SETF (R115) -/
def rowSetf : Row := ⟨0x94000000, 0xFFFC000F, [(11, 7), (4, 7)], fun | [a, b] => some (.setf (.ofNat _ a) (.ofNat _ b)) | _ => none⟩
/-- GETF (R115) -/
def rowGetf : Row := ⟨0x94000001, 0xFE03FFFF, [(18, 7)], fun | [d] => some (.getf (.ofNat _ d)) | _ => none⟩
/-- FLAGS (R115) -/
def rowFlags : Row := ⟨0x94000002, 0xFE0007FF, [(18, 7), (11, 7)], fun | [d, a] => some (.flags (.ofNat _ d) (.ofNat _ a)) | _ => none⟩
/-- YSET (R156) -/
def rowYset : Row := ⟨0x96000000, 0xFFE007FF, [(18, 3), (11, 7)], fun | [n, a] => some (.yset (.ofNat _ n) (.ofNat _ a)) | _ => none⟩
/-- SWIN (R154) -/
def rowSwin : Row := ⟨0x98000000, 0xFFFFFFFC, [(0, 2)], fun | [b] => some (.swin (.ofNat _ b)) | _ => none⟩
/-- CSRR (R379) -/
def rowCsrr : Row := ⟨0x9A000000, 0xFE00003F, [(18, 7), (6, 12)], fun | [d, n] => some (.csrr (.ofNat _ d) (.ofNat _ n)) | _ => none⟩
/-- CSRW (R379) -/
def rowCsrw : Row := ⟨0x9C000000, 0xFE00003F, [(18, 7), (6, 12)], fun | [d, n] => some (.csrw (.ofNat _ d) (.ofNat _ n)) | _ => none⟩
/-- CSRW_SET (R379) -/
def rowCsrwSet : Row := ⟨0x9C000001, 0xFE00003F, [(18, 7), (6, 12)], fun | [d, n] => some (.csrwSet (.ofNat _ d) (.ofNat _ n)) | _ => none⟩
/-- CSRW_CLR (R379) -/
def rowCsrwClr : Row := ⟨0x9C000002, 0xFE00003F, [(18, 7), (6, 12)], fun | [d, n] => some (.csrwClr (.ofNat _ d) (.ofNat _ n)) | _ => none⟩
/-- LWAKE (R403) -/
def rowLwake : Row := ⟨0x9E000000, 0xFFFC07FF, [(11, 7)], fun | [a] => some (.lwake (.ofNat _ a)) | _ => none⟩
/-- TLBINV (R287) -/
def rowTlbinv : Row := ⟨0x9E000001, 0xFFFC000F, [(11, 7), (4, 7)], fun | [a, b] => some (.tlbinv (.ofNat _ a) (.ofNat _ b)) | _ => none⟩
/-- LD_32 (R226) -/
def rowLd32 : Row := ⟨0xA0000000, 0xFE000000, [(18, 7), (13, 5), (6, 7), (4, 2), (0, 4)], fun | [d, rg, idx, sc, la] => some (.ld32 (.ofNat _ d) (.ofNat _ rg) (.ofNat _ idx) (.ofNat _ sc) (.ofNat _ la)) | _ => none⟩
/-- LD_64 (R226) -/
def rowLd64 : Row := ⟨0xA2000000, 0xFE000000, [(18, 7), (13, 5), (6, 7), (4, 2), (0, 4)], fun | [d, rg, idx, sc, la] => some (.ld64 (.ofNat _ d) (.ofNat _ rg) (.ofNat _ idx) (.ofNat _ sc) (.ofNat _ la)) | _ => none⟩
/-- LD_I8 (R226) -/
def rowLdI8 : Row := ⟨0xA4000000, 0xFE000000, [(18, 7), (13, 5), (6, 7), (4, 2), (0, 4)], fun | [d, rg, idx, sc, la] => some (.ldI8 (.ofNat _ d) (.ofNat _ rg) (.ofNat _ idx) (.ofNat _ sc) (.ofNat _ la)) | _ => none⟩
/-- LD_N8 (R226) -/
def rowLdN8 : Row := ⟨0xA6000000, 0xFE000000, [(18, 7), (13, 5), (6, 7), (4, 2), (0, 4)], fun | [d, rg, idx, sc, la] => some (.ldN8 (.ofNat _ d) (.ofNat _ rg) (.ofNat _ idx) (.ofNat _ sc) (.ofNat _ la)) | _ => none⟩
/-- LD_I16 (R226) -/
def rowLdI16 : Row := ⟨0xA8000000, 0xFE000000, [(18, 7), (13, 5), (6, 7), (4, 2), (0, 4)], fun | [d, rg, idx, sc, la] => some (.ldI16 (.ofNat _ d) (.ofNat _ rg) (.ofNat _ idx) (.ofNat _ sc) (.ofNat _ la)) | _ => none⟩
/-- LD_N16 (R226) -/
def rowLdN16 : Row := ⟨0xAA000000, 0xFE000000, [(18, 7), (13, 5), (6, 7), (4, 2), (0, 4)], fun | [d, rg, idx, sc, la] => some (.ldN16 (.ofNat _ d) (.ofNat _ rg) (.ofNat _ idx) (.ofNat _ sc) (.ofNat _ la)) | _ => none⟩
/-- ST_32 (R226) -/
def rowSt32 : Row := ⟨0xAC000000, 0xFE000000, [(18, 7), (13, 5), (6, 7), (4, 2), (0, 4)], fun | [d, rg, idx, sc, la] => some (.st32 (.ofNat _ d) (.ofNat _ rg) (.ofNat _ idx) (.ofNat _ sc) (.ofNat _ la)) | _ => none⟩
/-- ST_64 (R226) -/
def rowSt64 : Row := ⟨0xAE000000, 0xFE000000, [(18, 7), (13, 5), (6, 7), (4, 2), (0, 4)], fun | [d, rg, idx, sc, la] => some (.st64 (.ofNat _ d) (.ofNat _ rg) (.ofNat _ idx) (.ofNat _ sc) (.ofNat _ la)) | _ => none⟩
/-- ST_8 (R226) -/
def rowSt8 : Row := ⟨0xB0000000, 0xFE000000, [(18, 7), (13, 5), (6, 7), (4, 2), (0, 4)], fun | [d, rg, idx, sc, la] => some (.st8 (.ofNat _ d) (.ofNat _ rg) (.ofNat _ idx) (.ofNat _ sc) (.ofNat _ la)) | _ => none⟩
/-- ST_16 (R226) -/
def rowSt16 : Row := ⟨0xB2000000, 0xFE000000, [(18, 7), (13, 5), (6, 7), (4, 2), (0, 4)], fun | [d, rg, idx, sc, la] => some (.st16 (.ofNat _ d) (.ofNat _ rg) (.ofNat _ idx) (.ofNat _ sc) (.ofNat _ la)) | _ => none⟩
/-- LDN (R227) -/
def rowLdn : Row := ⟨0xB4000000, 0xFE000000, [(18, 7), (13, 5), (6, 7), (4, 2), (0, 4)], fun | [d, rg, idx, sc, la] => some (.ldn (.ofNat _ d) (.ofNat _ rg) (.ofNat _ idx) (.ofNat _ sc) (.ofNat _ la)) | _ => none⟩
/-- STN (R227) -/
def rowStn : Row := ⟨0xB6000000, 0xFE000000, [(18, 7), (13, 5), (6, 7), (4, 2), (0, 4)], fun | [d, rg, idx, sc, la] => some (.stn (.ofNat _ d) (.ofNat _ rg) (.ofNat _ idx) (.ofNat _ sc) (.ofNat _ la)) | _ => none⟩
/-- LDBP (R228) -/
def rowLdbp : Row := ⟨0xB8000000, 0xFE000000, [(18, 7), (13, 5), (6, 7), (4, 2), (0, 4)], fun | [d, rg, idx, sc, la] => some (.ldbp (.ofNat _ d) (.ofNat _ rg) (.ofNat _ idx) (.ofNat _ sc) (.ofNat _ la)) | _ => none⟩
/-- STBE (R229) -/
def rowStbe : Row := ⟨0xBA000000, 0xFE000000, [(18, 7), (13, 5), (6, 7), (4, 2), (0, 4)], fun | [d, rg, idx, sc, la] => some (.stbe (.ofNat _ d) (.ofNat _ rg) (.ofNat _ idx) (.ofNat _ sc) (.ofNat _ la)) | _ => none⟩
/-- CPY (R233) -/
def rowCpy : Row := ⟨0xBC000000, 0xFF83000F, [(18, 5), (11, 5), (4, 7)], fun | [d, a, b] => some (.cpy (.ofNat _ d) (.ofNat _ a) (.ofNat _ b)) | _ => none⟩
/-- CPYG (R234) -/
def rowCpyg : Row := ⟨0xBC000001, 0xFF83000F, [(18, 5), (11, 5), (4, 7)], fun | [d, a, b] => some (.cpyg (.ofNat _ d) (.ofNat _ a) (.ofNat _ b)) | _ => none⟩
/-- XST (R235) -/
def rowXst : Row := ⟨0xBC000002, 0xFF83000F, [(18, 5), (11, 5), (4, 7)], fun | [d, a, b] => some (.xst (.ofNat _ d) (.ofNat _ a) (.ofNat _ b)) | _ => none⟩
/-- DUPD (R236) -/
def rowDupd : Row := ⟨0xBC000003, 0xFF80000F, [(18, 5), (11, 7), (4, 7)], fun | [d, a, b] => some (.dupd (.ofNat _ d) (.ofNat _ a) (.ofNat _ b)) | _ => none⟩
/-- PREF (R239) -/
def rowPref : Row := ⟨0xBC000004, 0xFFFF000F, [(11, 5), (4, 7)], fun | [a, b] => some (.pref (.ofNat _ a) (.ofNat _ b)) | _ => none⟩
/-- RES (R239) -/
def rowRes : Row := ⟨0xBC000005, 0xFFFF000F, [(11, 5), (4, 7)], fun | [a, b] => some (.res (.ofNat _ a) (.ofNat _ b)) | _ => none⟩
/-- PWAIT (R237) -/
def rowPwait : Row := ⟨0xBC000006, 0xFFFF000F, [(11, 5), (4, 7)], fun | [a, b] => some (.pwait (.ofNat _ a) (.ofNat _ b)) | _ => none⟩
/-- BORROW (R200) -/
def rowBorrow : Row := ⟨0xC0000000, 0xFF800008, [(18, 5), (11, 7), (4, 7), (2, 1), (0, 2)], fun | [d, a, b, tr, k] => some (.borrow (.ofNat _ d) (.ofNat _ a) (.ofNat _ b) (.ofNat _ tr) (.ofNat _ k)) | _ => none⟩
/-- REBORROW_S (R201) -/
def rowReborrowS : Row := ⟨0xC2000000, 0xFF83F80F, [(18, 5), (4, 7)], fun | [d, b] => some (.reborrowS (.ofNat _ d) (.ofNat _ b)) | _ => none⟩
/-- REBORROW_E (R201) -/
def rowReborrowE : Row := ⟨0xC2000001, 0xFF83F80F, [(18, 5), (4, 7)], fun | [d, b] => some (.reborrowE (.ofNat _ d) (.ofNat _ b)) | _ => none⟩
/-- SPLIT (R202) -/
def rowSplit : Row := ⟨0xC4000000, 0xFF830000, [(18, 5), (11, 5), (4, 7), (3, 1), (0, 3)], fun | [d, a, b, eq, n] => some (.split (.ofNat _ d) (.ofNat _ a) (.ofNat _ b) (.ofNat _ eq) (.ofNat _ n)) | _ => none⟩
/-- SHARE (R203) -/
def rowShare : Row := ⟨0xC6000000, 0xFF83000F, [(18, 5), (11, 5), (4, 7)], fun | [d, a, b] => some (.share (.ofNat _ d) (.ofNat _ a) (.ofNat _ b)) | _ => none⟩
/-- GIVE (R204) -/
def rowGive : Row := ⟨0xC8000000, 0xFFFF07FF, [(11, 5)], fun | [a] => some (.give (.ofNat _ a)) | _ => none⟩
/-- JOIN (R205) -/
def rowJoin : Row := ⟨0xCA000000, 0xFFFF07FF, [(11, 5)], fun | [a] => some (.join (.ofNat _ a)) | _ => none⟩
/-- RETURN (R206) -/
def rowReturnR : Row := ⟨0xCC000000, 0xFFFF07FF, [(11, 5)], fun | [a] => some (.returnR (.ofNat _ a)) | _ => none⟩
/-- RGINFO (R207) -/
def rowRginfo : Row := ⟨0xCE000000, 0xFE0307FF, [(18, 7), (11, 5)], fun | [d, a] => some (.rginfo (.ofNat _ d) (.ofNat _ a)) | _ => none⟩
/-- RGMOV (R208) -/
def rowRgmov : Row := ⟨0xCE000001, 0xFF8307FF, [(18, 5), (11, 5)], fun | [d, a] => some (.rgmov (.ofNat _ d) (.ofNat _ a)) | _ => none⟩
/-- RGCLR (R209) -/
def rowRgclr : Row := ⟨0xCE000002, 0xFFFF07FF, [(11, 5)], fun | [a] => some (.rgclr (.ofNat _ a)) | _ => none⟩
/-- RGCLR_TAINT (R209) -/
def rowRgclrTaint : Row := ⟨0xCE000012, 0xFFFF07FF, [(11, 5)], fun | [a] => some (.rgclrTaint (.ofNat _ a)) | _ => none⟩
/-- ATOM_ADD (R241) -/
def rowAtomAdd : Row := ⟨0xD0000000, 0xFE00001F, [(18, 7), (16, 2), (11, 5), (8, 3), (5, 3)], fun | [d, w, rg, ord, scope] => some (.atomAdd (.ofNat _ d) (.ofNat _ w) (.ofNat _ rg) (.ofNat _ ord) (.ofNat _ scope)) | _ => none⟩
/-- ATOM_FADD (R241) -/
def rowAtomFadd : Row := ⟨0xD0000001, 0xFE00001F, [(18, 7), (16, 2), (11, 5), (8, 3), (5, 3)], fun | [d, w, rg, ord, scope] => some (.atomFadd (.ofNat _ d) (.ofNat _ w) (.ofNat _ rg) (.ofNat _ ord) (.ofNat _ scope)) | _ => none⟩
/-- ATOM_SWAP (R241) -/
def rowAtomSwap : Row := ⟨0xD0000002, 0xFE00001F, [(18, 7), (16, 2), (11, 5), (8, 3), (5, 3)], fun | [d, w, rg, ord, scope] => some (.atomSwap (.ofNat _ d) (.ofNat _ w) (.ofNat _ rg) (.ofNat _ ord) (.ofNat _ scope)) | _ => none⟩
/-- ATOM_CAS (R241) -/
def rowAtomCas : Row := ⟨0xD0000003, 0xFE00001F, [(18, 7), (16, 2), (11, 5), (8, 3), (5, 3)], fun | [d, w, rg, ord, scope] => some (.atomCas (.ofNat _ d) (.ofNat _ w) (.ofNat _ rg) (.ofNat _ ord) (.ofNat _ scope)) | _ => none⟩
/-- ATOM_AND (R241) -/
def rowAtomAnd : Row := ⟨0xD0000004, 0xFE00001F, [(18, 7), (16, 2), (11, 5), (8, 3), (5, 3)], fun | [d, w, rg, ord, scope] => some (.atomAnd (.ofNat _ d) (.ofNat _ w) (.ofNat _ rg) (.ofNat _ ord) (.ofNat _ scope)) | _ => none⟩
/-- ATOM_OR (R241) -/
def rowAtomOr : Row := ⟨0xD0000005, 0xFE00001F, [(18, 7), (16, 2), (11, 5), (8, 3), (5, 3)], fun | [d, w, rg, ord, scope] => some (.atomOr (.ofNat _ d) (.ofNat _ w) (.ofNat _ rg) (.ofNat _ ord) (.ofNat _ scope)) | _ => none⟩
/-- ATOM_XOR (R241) -/
def rowAtomXor : Row := ⟨0xD0000006, 0xFE00001F, [(18, 7), (16, 2), (11, 5), (8, 3), (5, 3)], fun | [d, w, rg, ord, scope] => some (.atomXor (.ofNat _ d) (.ofNat _ w) (.ofNat _ rg) (.ofNat _ ord) (.ofNat _ scope)) | _ => none⟩
/-- ATOM_MIN (R241) -/
def rowAtomMin : Row := ⟨0xD0000007, 0xFE00001F, [(18, 7), (16, 2), (11, 5), (8, 3), (5, 3)], fun | [d, w, rg, ord, scope] => some (.atomMin (.ofNat _ d) (.ofNat _ w) (.ofNat _ rg) (.ofNat _ ord) (.ofNat _ scope)) | _ => none⟩
/-- ATOM_MAX (R241) -/
def rowAtomMax : Row := ⟨0xD0000008, 0xFE00001F, [(18, 7), (16, 2), (11, 5), (8, 3), (5, 3)], fun | [d, w, rg, ord, scope] => some (.atomMax (.ofNat _ d) (.ofNat _ w) (.ofNat _ rg) (.ofNat _ ord) (.ofNat _ scope)) | _ => none⟩
/-- ATOM_MINN (R241) -/
def rowAtomMinn : Row := ⟨0xD0000009, 0xFE00001F, [(18, 7), (16, 2), (11, 5), (8, 3), (5, 3)], fun | [d, w, rg, ord, scope] => some (.atomMinn (.ofNat _ d) (.ofNat _ w) (.ofNat _ rg) (.ofNat _ ord) (.ofNat _ scope)) | _ => none⟩
/-- ATOM_MAXN (R241) -/
def rowAtomMaxn : Row := ⟨0xD000000A, 0xFE00001F, [(18, 7), (16, 2), (11, 5), (8, 3), (5, 3)], fun | [d, w, rg, ord, scope] => some (.atomMaxn (.ofNat _ d) (.ofNat _ w) (.ofNat _ rg) (.ofNat _ ord) (.ofNat _ scope)) | _ => none⟩
/-- ATOM_LD (R241) -/
def rowAtomLd : Row := ⟨0xD000000B, 0xFE00001F, [(18, 7), (16, 2), (11, 5), (8, 3), (5, 3)], fun | [d, w, rg, ord, scope] => some (.atomLd (.ofNat _ d) (.ofNat _ w) (.ofNat _ rg) (.ofNat _ ord) (.ofNat _ scope)) | _ => none⟩
/-- ATOM_ST (R241) -/
def rowAtomSt : Row := ⟨0xD000000C, 0xFE00001F, [(18, 7), (16, 2), (11, 5), (8, 3), (5, 3)], fun | [d, w, rg, ord, scope] => some (.atomSt (.ofNat _ d) (.ofNat _ w) (.ofNat _ rg) (.ofNat _ ord) (.ofNat _ scope)) | _ => none⟩
/-- RED_ADD (R244) -/
def rowRedAdd : Row := ⟨0xD2000000, 0xFE00001F, [(18, 7), (16, 2), (11, 5), (8, 3), (5, 3)], fun | [d, w, rg, ord, scope] => some (.redAdd (.ofNat _ d) (.ofNat _ w) (.ofNat _ rg) (.ofNat _ ord) (.ofNat _ scope)) | _ => none⟩
/-- RED_FADD (R244) -/
def rowRedFadd : Row := ⟨0xD2000001, 0xFE00001F, [(18, 7), (16, 2), (11, 5), (8, 3), (5, 3)], fun | [d, w, rg, ord, scope] => some (.redFadd (.ofNat _ d) (.ofNat _ w) (.ofNat _ rg) (.ofNat _ ord) (.ofNat _ scope)) | _ => none⟩
/-- RED_MIN (R244) -/
def rowRedMin : Row := ⟨0xD2000002, 0xFE00001F, [(18, 7), (16, 2), (11, 5), (8, 3), (5, 3)], fun | [d, w, rg, ord, scope] => some (.redMin (.ofNat _ d) (.ofNat _ w) (.ofNat _ rg) (.ofNat _ ord) (.ofNat _ scope)) | _ => none⟩
/-- RED_MAX (R244) -/
def rowRedMax : Row := ⟨0xD2000003, 0xFE00001F, [(18, 7), (16, 2), (11, 5), (8, 3), (5, 3)], fun | [d, w, rg, ord, scope] => some (.redMax (.ofNat _ d) (.ofNat _ w) (.ofNat _ rg) (.ofNat _ ord) (.ofNat _ scope)) | _ => none⟩
/-- RED_FMIN (R244) -/
def rowRedFmin : Row := ⟨0xD2000004, 0xFE00001F, [(18, 7), (16, 2), (11, 5), (8, 3), (5, 3)], fun | [d, w, rg, ord, scope] => some (.redFmin (.ofNat _ d) (.ofNat _ w) (.ofNat _ rg) (.ofNat _ ord) (.ofNat _ scope)) | _ => none⟩
/-- RED_FMAX (R244) -/
def rowRedFmax : Row := ⟨0xD2000005, 0xFE00001F, [(18, 7), (16, 2), (11, 5), (8, 3), (5, 3)], fun | [d, w, rg, ord, scope] => some (.redFmax (.ofNat _ d) (.ofNat _ w) (.ofNat _ rg) (.ofNat _ ord) (.ofNat _ scope)) | _ => none⟩
/-- RED_AND (R244) -/
def rowRedAnd : Row := ⟨0xD2000006, 0xFE00001F, [(18, 7), (16, 2), (11, 5), (8, 3), (5, 3)], fun | [d, w, rg, ord, scope] => some (.redAnd (.ofNat _ d) (.ofNat _ w) (.ofNat _ rg) (.ofNat _ ord) (.ofNat _ scope)) | _ => none⟩
/-- RED_OR (R244) -/
def rowRedOr : Row := ⟨0xD2000007, 0xFE00001F, [(18, 7), (16, 2), (11, 5), (8, 3), (5, 3)], fun | [d, w, rg, ord, scope] => some (.redOr (.ofNat _ d) (.ofNat _ w) (.ofNat _ rg) (.ofNat _ ord) (.ofNat _ scope)) | _ => none⟩
/-- RED_XOR (R244) -/
def rowRedXor : Row := ⟨0xD2000008, 0xFE00001F, [(18, 7), (16, 2), (11, 5), (8, 3), (5, 3)], fun | [d, w, rg, ord, scope] => some (.redXor (.ofNat _ d) (.ofNat _ w) (.ofNat _ rg) (.ofNat _ ord) (.ofNat _ scope)) | _ => none⟩
/-- RED_MINN (R244) -/
def rowRedMinn : Row := ⟨0xD2000009, 0xFE00001F, [(18, 7), (16, 2), (11, 5), (8, 3), (5, 3)], fun | [d, w, rg, ord, scope] => some (.redMinn (.ofNat _ d) (.ofNat _ w) (.ofNat _ rg) (.ofNat _ ord) (.ofNat _ scope)) | _ => none⟩
/-- RED_MAXN (R244) -/
def rowRedMaxn : Row := ⟨0xD200000A, 0xFE00001F, [(18, 7), (16, 2), (11, 5), (8, 3), (5, 3)], fun | [d, w, rg, ord, scope] => some (.redMaxn (.ofNat _ d) (.ofNat _ w) (.ofNat _ rg) (.ofNat _ ord) (.ofNat _ scope)) | _ => none⟩
/-- FENCE (R245) -/
def rowFence : Row := ⟨0xD4000000, 0xFFFFFFF8, [(0, 3)], fun | [scope] => some (.fence (.ofNat _ scope)) | _ => none⟩
/-- MMA (R171) -/
def rowMma : Row := ⟨0xE0000000, 0xFE0F80E0, [(20, 5), (8, 7), (4, 1), (0, 4)], fun | [d, c, sat, la] => some (.mma (.ofNat _ d) (.ofNat _ c) (.ofNat _ sat) (.ofNat _ la)) | _ => none⟩
/-- MMAS (R172) -/
def rowMmas : Row := ⟨0xE2000000, 0xFE0F80F0, [(20, 5), (8, 7), (0, 4)], fun | [d, c, la] => some (.mmas (.ofNat _ d) (.ofNat _ c) (.ofNat _ la)) | _ => none⟩
/-- MBP (R173) -/
def rowMbp : Row := ⟨0xE4000000, 0xFE0F80C0, [(20, 5), (8, 7), (5, 1), (4, 1), (0, 4)], fun | [d, c, mid, sat, la] => some (.mbp (.ofNat _ d) (.ofNat _ c) (.ofNat _ mid) (.ofNat _ sat) (.ofNat _ la)) | _ => none⟩
/-- MZERO (R174) -/
def rowMzero : Row := ⟨0xE6000000, 0xFE0FFFF0, [(20, 5), (0, 4)], fun | [d, la] => some (.mzero (.ofNat _ d) (.ofNat _ la)) | _ => none⟩
/-- MLD (R174) -/
def rowMld : Row := ⟨0xE6000010, 0xFE0000F0, [(20, 5), (15, 5), (8, 7), (0, 4)], fun | [d, n, c, la] => some (.mld (.ofNat _ d) (.ofNat _ n) (.ofNat _ c) (.ofNat _ la)) | _ => none⟩
/-- MST (R174) -/
def rowMst : Row := ⟨0xE6000020, 0xFE0000F0, [(20, 5), (15, 5), (8, 7), (0, 4)], fun | [n, src, c, la] => some (.mst (.ofNat _ n) (.ofNat _ src) (.ofNat _ c) (.ofNat _ la)) | _ => none⟩
/-- MCPY (R174) -/
def rowMcpy : Row := ⟨0xE6000030, 0xFE007FF0, [(20, 5), (15, 5), (0, 4)], fun | [d, src, la] => some (.mcpy (.ofNat _ d) (.ofNat _ src) (.ofNat _ la)) | _ => none⟩
/-- MCVT (R174) -/
def rowMcvt : Row := ⟨0xE6000040, 0xFE0000F0, [(20, 5), (15, 5), (8, 7), (0, 4)], fun | [n, src, c, la] => some (.mcvt (.ofNat _ n) (.ofNat _ src) (.ofNat _ c) (.ofNat _ la)) | _ => none⟩
/-- MTRN (R175) -/
def rowMtrn : Row := ⟨0xE8000000, 0xFE007FF0, [(20, 5), (15, 5), (0, 4)], fun | [d, src, la] => some (.mtrn (.ofNat _ d) (.ofNat _ src) (.ofNat _ la)) | _ => none⟩
/-- MPERM (R175) -/
def rowMperm : Row := ⟨0xE8000010, 0xFE0000F0, [(20, 5), (15, 5), (8, 7), (0, 4)], fun | [d, src, c, la] => some (.mperm (.ofNat _ d) (.ofNat _ src) (.ofNat _ c) (.ofNat _ la)) | _ => none⟩
/-- MRSUM (R175) -/
def rowMrsum : Row := ⟨0xE8000020, 0xFE0000F0, [(20, 5), (15, 5), (8, 7), (0, 4)], fun | [d, src, c, la] => some (.mrsum (.ofNat _ d) (.ofNat _ src) (.ofNat _ c) (.ofNat _ la)) | _ => none⟩
/-- MRDY (R176) -/
def rowMrdy : Row := ⟨0xEA000000, 0xFE0FFFFF, [(20, 5)], fun | [b] => some (.mrdy (.ofNat _ b)) | _ => none⟩
/-- MWAIT (R176) -/
def rowMwait : Row := ⟨0xEA000010, 0xFE0FFFFF, [(20, 5)], fun | [d] => some (.mwait (.ofNat _ d)) | _ => none⟩
/-- MSTAT (R176) -/
def rowMstat : Row := ⟨0xEA000020, 0xFFF000F0, [(15, 5), (8, 7), (0, 4)], fun | [e, c, la] => some (.mstat (.ofNat _ e) (.ofNat _ c) (.ofNat _ la)) | _ => none⟩
/-- RANK (R178) -/
def rowRank : Row := ⟨0xF0000000, 0xFE0000C0, [(20, 5), (15, 5), (8, 7), (4, 2), (0, 4)], fun | [d, src, c, ty, la] => some (.rank (.ofNat _ d) (.ofNat _ src) (.ofNat _ c) (.ofNat _ ty) (.ofNat _ la)) | _ => none⟩
/-- RMMA (R179) -/
def rowRmma : Row := ⟨0xF2000000, 0xFE0000E0, [(20, 5), (15, 5), (8, 7), (4, 1), (0, 4)], fun | [d, src, c, tie, la] => some (.rmma (.ofNat _ d) (.ofNat _ src) (.ofNat _ c) (.ofNat _ tie) (.ofNat _ la)) | _ => none⟩
/-- RTV (R180) -/
def rowRtv : Row := ⟨0xF4000000, 0xFE0000F0, [(20, 5), (15, 5), (8, 7), (0, 4)], fun | [d, src, c, la] => some (.rtv (.ofNat _ d) (.ofNat _ src) (.ofNat _ c) (.ofNat _ la)) | _ => none⟩
/-- RLST (R181) -/
def rowRlst : Row := ⟨0xF4000010, 0xFE0000F0, [(20, 5), (15, 5), (8, 7), (0, 4)], fun | [d, src, c, la] => some (.rlst (.ofNat _ d) (.ofNat _ src) (.ofNat _ c) (.ofNat _ la)) | _ => none⟩
/-- RATL (R295) -/
def rowRatl : Row := ⟨0xF4000020, 0xFFF000F0, [(15, 5), (8, 7), (0, 4)], fun | [src, c, la] => some (.ratl (.ofNat _ src) (.ofNat _ c) (.ofNat _ la)) | _ => none⟩
/-- RRCL (R295) -/
def rowRrcl : Row := ⟨0xF4000030, 0xFFF000F0, [(15, 5), (8, 7), (0, 4)], fun | [src, c, la] => some (.rrcl (.ofNat _ src) (.ofNat _ c) (.ofNat _ la)) | _ => none⟩
/-- TSPAWN (R329) -/
def rowTspawn : Row := ⟨0xF6000000, 0xFE00000F, [(18, 7), (11, 7), (4, 7)], fun | [d, a, b] => some (.tspawn (.ofNat _ d) (.ofNat _ a) (.ofNat _ b)) | _ => none⟩
/-- TRET (R330) -/
def rowTret : Row := ⟨0xF6000001, 0xFFFC07FF, [(11, 7)], fun | [a] => some (.tret (.ofNat _ a)) | _ => none⟩
/-- FWAIT (R338) -/
def rowFwait : Row := ⟨0xF6000002, 0xFE03000F, [(18, 7), (11, 5), (4, 7)], fun | [d, a, b] => some (.fwait (.ofNat _ d) (.ofNat _ a) (.ofNat _ b)) | _ => none⟩
/-- FFILL (R333) -/
def rowFfill : Row := ⟨0xF6000003, 0xFE03000F, [(18, 7), (11, 5), (4, 7)], fun | [d, a, b] => some (.ffill (.ofNat _ d) (.ofNat _ a) (.ofNat _ b)) | _ => none⟩
/-- FOWN (R334) -/
def rowFown : Row := ⟨0xF6000004, 0xFE03000F, [(18, 7), (11, 5), (4, 7)], fun | [d, a, b] => some (.fown (.ofNat _ d) (.ofNat _ a) (.ofNat _ b)) | _ => none⟩
/-- LOCK (R335) -/
def rowLock : Row := ⟨0xF6000005, 0xFE03000F, [(18, 7), (11, 5), (4, 7)], fun | [d, a, b] => some (.lock (.ofNat _ d) (.ofNat _ a) (.ofNat _ b)) | _ => none⟩
/-- UNLOCK (R335) -/
def rowUnlock : Row := ⟨0xF6000006, 0xFE03000F, [(18, 7), (11, 5), (4, 7)], fun | [d, a, b] => some (.unlock (.ofNat _ d) (.ofNat _ a) (.ofNat _ b)) | _ => none⟩
/-- QPUSH (R336) -/
def rowQpush : Row := ⟨0xF6000007, 0xFE00000F, [(18, 7), (11, 7), (4, 7)], fun | [d, a, b] => some (.qpush (.ofNat _ d) (.ofNat _ a) (.ofNat _ b)) | _ => none⟩
/-- QPOP (R337) -/
def rowQpop : Row := ⟨0xF6000008, 0xFE03000F, [(18, 7), (11, 5), (4, 7)], fun | [d, a, b] => some (.qpop (.ofNat _ d) (.ofNat _ a) (.ofNat _ b)) | _ => none⟩
/-- SUCC (R332) -/
def rowSucc : Row := ⟨0xF6000009, 0xFE03000F, [(18, 7), (11, 5), (4, 7)], fun | [d, a, b] => some (.succ (.ofNat _ d) (.ofNat _ a) (.ofNat _ b)) | _ => none⟩
/-- LAUNCH (R314) -/
def rowLaunch : Row := ⟨0xF600000A, 0xFE00000F, [(18, 7), (11, 7), (4, 7)], fun | [d, a, b] => some (.launch (.ofNat _ d) (.ofNat _ a) (.ofNat _ b)) | _ => none⟩
/-- YIELD (R313) -/
def rowYield : Row := ⟨0xF600000B, 0xFFFFFFFF, [], fun | [] => some .yield | _ => none⟩
/-- DQPUSH (R309) -/
def rowDqpush : Row := ⟨0xF8000000, 0xFFFC000F, [(11, 7), (4, 7)], fun | [a, b] => some (.dqpush (.ofNat _ a) (.ofNat _ b)) | _ => none⟩
/-- DQPOP (R309) -/
def rowDqpop : Row := ⟨0xF8000001, 0xFE03FFFF, [(18, 7)], fun | [d] => some (.dqpop (.ofNat _ d)) | _ => none⟩
/-- SRPUT (R311) -/
def rowSrput : Row := ⟨0xF8000002, 0xFFFFFF8F, [(4, 3)], fun | [b] => some (.srput (.ofNat _ b)) | _ => none⟩
/-- SRWAIT_C (R311) -/
def rowSrwaitC : Row := ⟨0xF8000003, 0xFE03FF8F, [(18, 7), (4, 3)], fun | [d, b] => some (.srwaitC (.ofNat _ d) (.ofNat _ b)) | _ => none⟩
/-- SRWAIT_P (R311) -/
def rowSrwaitP : Row := ⟨0xF8000083, 0xFE03FF8F, [(18, 7), (4, 3)], fun | [d, b] => some (.srwaitP (.ofNat _ d) (.ofNat _ b)) | _ => none⟩
/-- SRREL (R311) -/
def rowSrrel : Row := ⟨0xF8000004, 0xFFFFFF8F, [(4, 3)], fun | [b] => some (.srrel (.ofNat _ b)) | _ => none⟩
/-- BAR_ARR (R359) -/
def rowBarArr : Row := ⟨0xFA000000, 0xFE03F90F, [(18, 7), (9, 2), (4, 4)], fun | [d, lev, n] => some (.barArr (.ofNat _ d) (.ofNat _ lev) (.ofNat _ n)) | _ => none⟩
/-- BAR_WAIT (R359) -/
def rowBarWait : Row := ⟨0xFA000001, 0xFFFC010F, [(11, 7), (9, 2), (4, 4)], fun | [a, lev, n] => some (.barWait (.ofNat _ a) (.ofNat _ lev) (.ofNat _ n)) | _ => none⟩
/-- BAR_SYNC (R359) -/
def rowBarSync : Row := ⟨0xFA000002, 0xFE03F90F, [(18, 7), (9, 2), (4, 4)], fun | [d, lev, n] => some (.barSync (.ofNat _ d) (.ofNat _ lev) (.ofNat _ n)) | _ => none⟩
/-- BAR_SET (R359) -/
def rowBarSet : Row := ⟨0xFA000003, 0xFFFC070F, [(11, 7), (4, 4)], fun | [a, n] => some (.barSet (.ofNat _ a) (.ofNat _ n)) | _ => none⟩
/-- CNT_RD (R363) -/
def rowCntRd : Row := ⟨0xFA000004, 0xFE03FF0F, [(18, 7), (4, 4)], fun | [d, c] => some (.cntRd (.ofNat _ d) (.ofNat _ c)) | _ => none⟩
/-- CNT_WAIT (R363) -/
def rowCntWait : Row := ⟨0xFA000005, 0xFFFC070F, [(11, 7), (4, 4)], fun | [a, c] => some (.cntWait (.ofNat _ a) (.ofNat _ c)) | _ => none⟩
/-- CNT_CLR (R363) -/
def rowCntClr : Row := ⟨0xFA000006, 0xFFFFFF0F, [(4, 4)], fun | [c] => some (.cntClr (.ofNat _ c)) | _ => none⟩
/-- TIME (R366) -/
def rowTime : Row := ⟨0xFA000007, 0xFE03FFFF, [(18, 7)], fun | [d] => some (.time (.ofNat _ d)) | _ => none⟩
/-- WINW (R366) -/
def rowWinw : Row := ⟨0xFA000008, 0xFE03FFFF, [(18, 7)], fun | [d] => some (.winw (.ofNat _ d)) | _ => none⟩
/-- PERF (R370) -/
def rowPerf : Row := ⟨0xFA000009, 0xFE0007FF, [(18, 7), (11, 7)], fun | [d, a] => some (.perf (.ofNat _ d) (.ofNat _ a)) | _ => none⟩
/-- TRAP (R381) -/
def rowTrap : Row := ⟨0xFC000000, 0xFFFC000F, [(4, 14)], fun | [n] => some (.trap (.ofNat _ n)) | _ => none⟩
/-- SVC (R381) -/
def rowSvc : Row := ⟨0xFC000001, 0xFFFC000F, [(4, 14)], fun | [n] => some (.svc (.ofNat _ n)) | _ => none⟩
/-- RFT (R383) -/
def rowRft : Row := ⟨0xFC000002, 0xFFFFFFFF, [], fun | [] => some .rft | _ => none⟩
/-- BRK (R381) -/
def rowBrk : Row := ⟨0xFC000003, 0xFFFC000F, [(4, 14)], fun | [n] => some (.brk (.ofNat _ n)) | _ => none⟩
/-- KILLB (R382) -/
def rowKillb : Row := ⟨0xFC000004, 0xFE0007FF, [(18, 7), (11, 7)], fun | [d, a] => some (.killb (.ofNat _ d) (.ofNat _ a)) | _ => none⟩
/-- PBLK (R46) -/
def rowPblk : Row := ⟨0xFE000000, 0xFE0007FF, [(22, 3), (19, 3), (11, 8)], fun | [k, n, pat] => some (.pblk (.ofNat _ k) (.ofNat _ n) (.ofNat _ pat)) | _ => none⟩

def rowsInt : List Row :=
  [rowAdd, rowSub, rowAddi, rowNeg, rowAbs, rowMul, rowMulh, rowMulhn,
   rowMad, rowMadw, rowDiv, rowDivn, rowRem, rowRemn, rowMin, rowMax,
   rowMinn, rowMaxn, rowAnd, rowOr, rowXor, rowAndn, rowNot, rowShl,
   rowShr, rowSar, rowRot, rowShli, rowShri, rowSari, rowBfx, rowBfxn,
   rowBfi, rowPopc, rowClz, rowCtz, rowBrev, rowMov, rowMovi, rowMovh,
   rowSel, rowLea]
def rowsFloat : List Row :=
  [rowCmp, rowCmpi, rowFadd, rowFsub, rowFmul, rowFfma, rowFmin, rowFmax,
   rowFabs, rowFneg, rowFcmp, rowFclass, rowFrcp, rowFrsq, rowFsqrt, rowFexp2,
   rowFlog2, rowFsin, rowFcos, rowFdivF32, rowFdivF64, rowFscale, rowFrnd, rowFcvt,
   rowIcvt, rowFtoi, rowPack, rowUnpk, rowBpsplit]
def rowsMask : List Row :=
  [rowBpjoin, rowBpdot, rowKand, rowKor, rowKxor, rowKandn, rowKnot, rowKmov,
   rowKset, rowKget, rowKsave, rowKrest, rowExmget, rowExmset, rowShflIdx, rowShflUp,
   rowShflDn, rowShflXor, rowVoteAny, rowVoteAll, rowVoteBal, rowBra]
def rowsFlow : List Row :=
  [rowBrd, rowRcv, rowCall, rowRet, rowJmpi, rowExit, rowNop, rowBru,
   rowRds, rowWin, rowSetf, rowGetf, rowFlags, rowYset, rowSwin, rowCsrr,
   rowCsrw, rowCsrwSet, rowCsrwClr, rowLwake, rowTlbinv, rowLd32]
def rowsMem : List Row :=
  [rowLd64, rowLdI8, rowLdN8, rowLdI16, rowLdN16, rowSt32, rowSt64, rowSt8,
   rowSt16, rowLdn, rowStn, rowLdbp, rowStbe, rowCpy, rowCpyg, rowXst,
   rowDupd, rowPref, rowRes, rowPwait, rowBorrow, rowReborrowS, rowReborrowE]
def rowsReg : List Row :=
  [rowSplit, rowShare, rowGive, rowJoin, rowReturnR, rowRginfo, rowRgmov, rowRgclr,
   rowRgclrTaint, rowAtomAdd, rowAtomFadd, rowAtomSwap]
def rowsAtom : List Row :=
  [rowAtomCas, rowAtomAnd, rowAtomOr, rowAtomXor, rowAtomMin, rowAtomMax, rowAtomMinn, rowAtomMaxn,
   rowAtomLd, rowAtomSt, rowRedAdd, rowRedFadd, rowRedMin, rowRedMax, rowRedFmin, rowRedFmax,
   rowRedAnd, rowRedOr, rowRedXor, rowRedMinn, rowRedMaxn, rowFence, rowMma, rowMmas,
   rowMbp]
def rowsMat : List Row :=
  [rowMzero, rowMld, rowMst, rowMcpy, rowMcvt, rowMtrn, rowMperm, rowMrsum,
   rowMrdy, rowMwait, rowMstat, rowRank, rowRmma, rowRtv, rowRlst, rowRatl,
   rowRrcl, rowTspawn, rowTret, rowFwait, rowFfill]
def rowsTask : List Row :=
  [rowFown, rowLock, rowUnlock, rowQpush, rowQpop, rowSucc, rowLaunch, rowYield,
   rowDqpush, rowDqpop, rowSrput, rowSrwaitC, rowSrwaitP, rowSrrel, rowBarArr, rowBarWait,
   rowBarSync, rowBarSet, rowCntRd, rowCntWait, rowCntClr, rowTime, rowWinw, rowPerf,
   rowTrap, rowSvc, rowRft, rowBrk, rowKillb]
def rowsPred : List Row :=
  [rowPblk]
/-- The encoded rows of the opcode table, in its order. -/
def rows : List Row :=
  rowsInt ++ rowsFloat ++ rowsMask ++ rowsFlow ++ rowsMem ++ rowsReg ++ rowsAtom ++ rowsMat ++ rowsTask ++ rowsPred

/-- Why a word is no instruction (R33, R50). -/
inductive DecodeError
  | unassignedMajor
  | unlistedField
  | shortInput
  deriving DecidableEq, Repr

/-- The majors that the opcode map assigns (R50). -/
def majorAssigned (m : Nat) : Bool := rows.any (fun r => r.pat >>> 25 == m)

/-- The instruction of a word (R32, R50), or none. -/
def decodeWord (w : Word) : Option Instr :=
  match rows.find? (fun r => r.fits w.toNat) with
  | some r => r.build (r.fields.map (bitsAt w.toNat))
  | none => none

/-- The little-endian word at the head of a byte list (R32, R59). -/
def wordOfBytes (b0 b1 b2 b3 : Byte) : Word := b3 ++ b2 ++ b1 ++ b0

/-- Decoding, total on any bytes: the instruction and the bytes after it, or the name of the reason. -/
def decode : List Byte → Except DecodeError (Instr × List Byte)
  | b0 :: b1 :: b2 :: b3 :: rest =>
    let w := wordOfBytes b0 b1 b2 b3
    match decodeWord w with
    | some i => .ok (i, rest)
    | none => if majorAssigned (w.toNat >>> 25) then .error .unlistedField else .error .unassignedMajor
  | _ => .error .shortInput

/-- The bytes of a word as memory holds them (R32: little-endian). -/
def wordBytes (w : Word) : List Byte :=
  [w.extractLsb' 0 8, w.extractLsb' 8 8, w.extractLsb' 16 8, w.extractLsb' 24 8]

/-- What the decoder reads from an instruction whose bits are `w` as the opcode table numbers them. Every instruction is
one 32-bit word (R32). -/
def decodeTableWord (nbits w : Nat) : Option Instr :=
  match decode (wordBytes (BitVec.ofNat 32 (w % 2 ^ nbits))) with
  | .ok (i, _) => some i
  | .error _ => none

/-- The word of an instruction; none for a step that has no word. -/
def encode : Instr → Option Word
  | .add d a b sat ty => some (rowAdd.word [d.toNat, a.toNat, b.toNat, sat.toNat, ty.toNat])
  | .sub d a b sat ty => some (rowSub.word [d.toNat, a.toNat, b.toNat, sat.toNat, ty.toNat])
  | .addi d a imm => some (rowAddi.word [d.toNat, a.toNat, imm.toNat])
  | .neg d a sat ty => some (rowNeg.word [d.toNat, a.toNat, sat.toNat, ty.toNat])
  | .abs d a sat ty => some (rowAbs.word [d.toNat, a.toNat, sat.toNat, ty.toNat])
  | .mul d a b sat ty => some (rowMul.word [d.toNat, a.toNat, b.toNat, sat.toNat, ty.toNat])
  | .mulh d a b w => some (rowMulh.word [d.toNat, a.toNat, b.toNat, w.toNat])
  | .mulhn d a b w => some (rowMulhn.word [d.toNat, a.toNat, b.toNat, w.toNat])
  | .mad d a b sat ty => some (rowMad.word [d.toNat, a.toNat, b.toNat, sat.toNat, ty.toNat])
  | .madw d a b n => some (rowMadw.word [d.toNat, a.toNat, b.toNat, n.toNat])
  | .div d a b la => some (rowDiv.word [d.toNat, a.toNat, b.toNat, la.toNat])
  | .divn d a b la => some (rowDivn.word [d.toNat, a.toNat, b.toNat, la.toNat])
  | .rem d a b la => some (rowRem.word [d.toNat, a.toNat, b.toNat, la.toNat])
  | .remn d a b la => some (rowRemn.word [d.toNat, a.toNat, b.toNat, la.toNat])
  | .min d a b w => some (rowMin.word [d.toNat, a.toNat, b.toNat, w.toNat])
  | .max d a b w => some (rowMax.word [d.toNat, a.toNat, b.toNat, w.toNat])
  | .minn d a b w => some (rowMinn.word [d.toNat, a.toNat, b.toNat, w.toNat])
  | .maxn d a b w => some (rowMaxn.word [d.toNat, a.toNat, b.toNat, w.toNat])
  | .and d a b w => some (rowAnd.word [d.toNat, a.toNat, b.toNat, w.toNat])
  | .or d a b w => some (rowOr.word [d.toNat, a.toNat, b.toNat, w.toNat])
  | .xor d a b w => some (rowXor.word [d.toNat, a.toNat, b.toNat, w.toNat])
  | .andn d a b w => some (rowAndn.word [d.toNat, a.toNat, b.toNat, w.toNat])
  | .not d a w => some (rowNot.word [d.toNat, a.toNat, w.toNat])
  | .shl d a b w => some (rowShl.word [d.toNat, a.toNat, b.toNat, w.toNat])
  | .shr d a b w => some (rowShr.word [d.toNat, a.toNat, b.toNat, w.toNat])
  | .sar d a b w => some (rowSar.word [d.toNat, a.toNat, b.toNat, w.toNat])
  | .rot d a b w => some (rowRot.word [d.toNat, a.toNat, b.toNat, w.toNat])
  | .shli d a w c => some (rowShli.word [d.toNat, a.toNat, w.toNat, c.toNat])
  | .shri d a w c => some (rowShri.word [d.toNat, a.toNat, w.toNat, c.toNat])
  | .sari d a w c => some (rowSari.word [d.toNat, a.toNat, w.toNat, c.toNat])
  | .bfx d a b w => some (rowBfx.word [d.toNat, a.toNat, b.toNat, w.toNat])
  | .bfxn d a b w => some (rowBfxn.word [d.toNat, a.toNat, b.toNat, w.toNat])
  | .bfi d a b w => some (rowBfi.word [d.toNat, a.toNat, b.toNat, w.toNat])
  | .popc d a w => some (rowPopc.word [d.toNat, a.toNat, w.toNat])
  | .clz d a w => some (rowClz.word [d.toNat, a.toNat, w.toNat])
  | .ctz d a w => some (rowCtz.word [d.toNat, a.toNat, w.toNat])
  | .brev d a w => some (rowBrev.word [d.toNat, a.toNat, w.toNat])
  | .mov d a w => some (rowMov.word [d.toNat, a.toNat, w.toNat])
  | .movi d imm => some (rowMovi.word [d.toNat, imm.toNat])
  | .movh d imm => some (rowMovh.word [d.toNat, imm.toNat])
  | .sel d a b w k => some (rowSel.word [d.toNat, a.toNat, b.toNat, w.toNat, k.toNat])
  | .lea d a b sc => some (rowLea.word [d.toNat, a.toNat, b.toNat, sc.toNat])
  | .cmp cond k a b ty => some (rowCmp.word [cond.toNat, k.toNat, a.toNat, b.toNat, ty.toNat])
  | .cmpi cond k a imm => some (rowCmpi.word [cond.toNat, k.toNat, a.toNat, imm.toNat])
  | .fadd d a b ty => some (rowFadd.word [d.toNat, a.toNat, b.toNat, ty.toNat])
  | .fsub d a b ty => some (rowFsub.word [d.toNat, a.toNat, b.toNat, ty.toNat])
  | .fmul d a b ty => some (rowFmul.word [d.toNat, a.toNat, b.toNat, ty.toNat])
  | .ffma d a b ty => some (rowFfma.word [d.toNat, a.toNat, b.toNat, ty.toNat])
  | .fmin d a b ty => some (rowFmin.word [d.toNat, a.toNat, b.toNat, ty.toNat])
  | .fmax d a b ty => some (rowFmax.word [d.toNat, a.toNat, b.toNat, ty.toNat])
  | .fabs d a ty => some (rowFabs.word [d.toNat, a.toNat, ty.toNat])
  | .fneg d a ty => some (rowFneg.word [d.toNat, a.toNat, ty.toNat])
  | .fcmp cond k a b ty => some (rowFcmp.word [cond.toNat, k.toNat, a.toNat, b.toNat, ty.toNat])
  | .fclass d a ty => some (rowFclass.word [d.toNat, a.toNat, ty.toNat])
  | .frcp d a ty la => some (rowFrcp.word [d.toNat, a.toNat, ty.toNat, la.toNat])
  | .frsq d a ty la => some (rowFrsq.word [d.toNat, a.toNat, ty.toNat, la.toNat])
  | .fsqrt d a ty la => some (rowFsqrt.word [d.toNat, a.toNat, ty.toNat, la.toNat])
  | .fexp2 d a ty la => some (rowFexp2.word [d.toNat, a.toNat, ty.toNat, la.toNat])
  | .flog2 d a ty la => some (rowFlog2.word [d.toNat, a.toNat, ty.toNat, la.toNat])
  | .fsin d a ty la => some (rowFsin.word [d.toNat, a.toNat, ty.toNat, la.toNat])
  | .fcos d a ty la => some (rowFcos.word [d.toNat, a.toNat, ty.toNat, la.toNat])
  | .fdivF32 d a b la => some (rowFdivF32.word [d.toNat, a.toNat, b.toNat, la.toNat])
  | .fdivF64 d a b la => some (rowFdivF64.word [d.toNat, a.toNat, b.toNat, la.toNat])
  | .fscale d a b ty => some (rowFscale.word [d.toNat, a.toNat, b.toNat, ty.toNat])
  | .frnd d a ty => some (rowFrnd.word [d.toNat, a.toNat, ty.toNat])
  | .fcvt d a sat dfmt sfmt => some (rowFcvt.word [d.toNat, a.toNat, sat.toNat, dfmt.toNat, sfmt.toNat])
  | .icvt d a dfmt ty => some (rowIcvt.word [d.toNat, a.toNat, dfmt.toNat, ty.toNat])
  | .ftoi d a ty sfmt => some (rowFtoi.word [d.toNat, a.toNat, ty.toNat, sfmt.toNat])
  | .pack d a b part w => some (rowPack.word [d.toNat, a.toNat, b.toNat, part.toNat, w.toNat])
  | .unpk d a part w => some (rowUnpk.word [d.toNat, a.toNat, part.toNat, w.toNat])
  | .bpsplit d a j => some (rowBpsplit.word [d.toNat, a.toNat, j.toNat])
  | .bpjoin d a n => some (rowBpjoin.word [d.toNat, a.toNat, n.toNat])
  | .bpdot d a b la => some (rowBpdot.word [d.toNat, a.toNat, b.toNat, la.toNat])
  | .kand d a b => some (rowKand.word [d.toNat, a.toNat, b.toNat])
  | .kor d a b => some (rowKor.word [d.toNat, a.toNat, b.toNat])
  | .kxor d a b => some (rowKxor.word [d.toNat, a.toNat, b.toNat])
  | .kandn d a b => some (rowKandn.word [d.toNat, a.toNat, b.toNat])
  | .knot d a => some (rowKnot.word [d.toNat, a.toNat])
  | .kmov d a => some (rowKmov.word [d.toNat, a.toNat])
  | .kset d a => some (rowKset.word [d.toNat, a.toNat])
  | .kget d a => some (rowKget.word [d.toNat, a.toNat])
  | .ksave d => some (rowKsave.word [d.toNat])
  | .krest a => some (rowKrest.word [a.toNat])
  | .exmget d => some (rowExmget.word [d.toNat])
  | .exmset a => some (rowExmset.word [a.toNat])
  | .shflIdx d a b => some (rowShflIdx.word [d.toNat, a.toNat, b.toNat])
  | .shflUp d a b => some (rowShflUp.word [d.toNat, a.toNat, b.toNat])
  | .shflDn d a b => some (rowShflDn.word [d.toNat, a.toNat, b.toNat])
  | .shflXor d a b => some (rowShflXor.word [d.toNat, a.toNat, b.toNat])
  | .voteAny d k => some (rowVoteAny.word [d.toNat, k.toNat])
  | .voteAll d k => some (rowVoteAll.word [d.toNat, k.toNat])
  | .voteBal d k => some (rowVoteBal.word [d.toNat, k.toNat])
  | .bra off => some (rowBra.word [off.toNat])
  | .brd k rec tgt => some (rowBrd.word [k.toNat, rec.toNat, tgt.toNat])
  | .rcv => some (rowRcv.word [])
  | .call off => some (rowCall.word [off.toNat])
  | .ret => some (rowRet.word [])
  | .jmpi a => some (rowJmpi.word [a.toNat])
  | .exit => some (rowExit.word [])
  | .nop => some (rowNop.word [])
  | .bru d cond off => some (rowBru.word [d.toNat, cond.toNat, off.toNat])
  | .rds d n => some (rowRds.word [d.toNat, n.toNat])
  | .win k => some (rowWin.word [k.toNat])
  | .setf a b => some (rowSetf.word [a.toNat, b.toNat])
  | .getf d => some (rowGetf.word [d.toNat])
  | .flags d a => some (rowFlags.word [d.toNat, a.toNat])
  | .yset n a => some (rowYset.word [n.toNat, a.toNat])
  | .swin b => some (rowSwin.word [b.toNat])
  | .csrr d n => some (rowCsrr.word [d.toNat, n.toNat])
  | .csrw d n => some (rowCsrw.word [d.toNat, n.toNat])
  | .csrwSet d n => some (rowCsrwSet.word [d.toNat, n.toNat])
  | .csrwClr d n => some (rowCsrwClr.word [d.toNat, n.toNat])
  | .lwake a => some (rowLwake.word [a.toNat])
  | .tlbinv a b => some (rowTlbinv.word [a.toNat, b.toNat])
  | .ld32 d rg idx sc la => some (rowLd32.word [d.toNat, rg.toNat, idx.toNat, sc.toNat, la.toNat])
  | .ld64 d rg idx sc la => some (rowLd64.word [d.toNat, rg.toNat, idx.toNat, sc.toNat, la.toNat])
  | .ldI8 d rg idx sc la => some (rowLdI8.word [d.toNat, rg.toNat, idx.toNat, sc.toNat, la.toNat])
  | .ldN8 d rg idx sc la => some (rowLdN8.word [d.toNat, rg.toNat, idx.toNat, sc.toNat, la.toNat])
  | .ldI16 d rg idx sc la => some (rowLdI16.word [d.toNat, rg.toNat, idx.toNat, sc.toNat, la.toNat])
  | .ldN16 d rg idx sc la => some (rowLdN16.word [d.toNat, rg.toNat, idx.toNat, sc.toNat, la.toNat])
  | .st32 d rg idx sc la => some (rowSt32.word [d.toNat, rg.toNat, idx.toNat, sc.toNat, la.toNat])
  | .st64 d rg idx sc la => some (rowSt64.word [d.toNat, rg.toNat, idx.toNat, sc.toNat, la.toNat])
  | .st8 d rg idx sc la => some (rowSt8.word [d.toNat, rg.toNat, idx.toNat, sc.toNat, la.toNat])
  | .st16 d rg idx sc la => some (rowSt16.word [d.toNat, rg.toNat, idx.toNat, sc.toNat, la.toNat])
  | .ldn d rg idx sc la => some (rowLdn.word [d.toNat, rg.toNat, idx.toNat, sc.toNat, la.toNat])
  | .stn d rg idx sc la => some (rowStn.word [d.toNat, rg.toNat, idx.toNat, sc.toNat, la.toNat])
  | .ldbp d rg idx sc la => some (rowLdbp.word [d.toNat, rg.toNat, idx.toNat, sc.toNat, la.toNat])
  | .stbe d rg idx sc la => some (rowStbe.word [d.toNat, rg.toNat, idx.toNat, sc.toNat, la.toNat])
  | .cpy d a b => some (rowCpy.word [d.toNat, a.toNat, b.toNat])
  | .cpyg d a b => some (rowCpyg.word [d.toNat, a.toNat, b.toNat])
  | .xst d a b => some (rowXst.word [d.toNat, a.toNat, b.toNat])
  | .dupd d a b => some (rowDupd.word [d.toNat, a.toNat, b.toNat])
  | .pref a b => some (rowPref.word [a.toNat, b.toNat])
  | .res a b => some (rowRes.word [a.toNat, b.toNat])
  | .pwait a b => some (rowPwait.word [a.toNat, b.toNat])
  | .borrow d a b tr k => some (rowBorrow.word [d.toNat, a.toNat, b.toNat, tr.toNat, k.toNat])
  | .reborrowS d b => some (rowReborrowS.word [d.toNat, b.toNat])
  | .reborrowE d b => some (rowReborrowE.word [d.toNat, b.toNat])
  | .split d a b eq n => some (rowSplit.word [d.toNat, a.toNat, b.toNat, eq.toNat, n.toNat])
  | .share d a b => some (rowShare.word [d.toNat, a.toNat, b.toNat])
  | .give a => some (rowGive.word [a.toNat])
  | .join a => some (rowJoin.word [a.toNat])
  | .returnR a => some (rowReturnR.word [a.toNat])
  | .rginfo d a => some (rowRginfo.word [d.toNat, a.toNat])
  | .rgmov d a => some (rowRgmov.word [d.toNat, a.toNat])
  | .rgclr a => some (rowRgclr.word [a.toNat])
  | .rgclrTaint a => some (rowRgclrTaint.word [a.toNat])
  | .atomAdd d w rg ord scope => some (rowAtomAdd.word [d.toNat, w.toNat, rg.toNat, ord.toNat, scope.toNat])
  | .atomFadd d w rg ord scope => some (rowAtomFadd.word [d.toNat, w.toNat, rg.toNat, ord.toNat, scope.toNat])
  | .atomSwap d w rg ord scope => some (rowAtomSwap.word [d.toNat, w.toNat, rg.toNat, ord.toNat, scope.toNat])
  | .atomCas d w rg ord scope => some (rowAtomCas.word [d.toNat, w.toNat, rg.toNat, ord.toNat, scope.toNat])
  | .atomAnd d w rg ord scope => some (rowAtomAnd.word [d.toNat, w.toNat, rg.toNat, ord.toNat, scope.toNat])
  | .atomOr d w rg ord scope => some (rowAtomOr.word [d.toNat, w.toNat, rg.toNat, ord.toNat, scope.toNat])
  | .atomXor d w rg ord scope => some (rowAtomXor.word [d.toNat, w.toNat, rg.toNat, ord.toNat, scope.toNat])
  | .atomMin d w rg ord scope => some (rowAtomMin.word [d.toNat, w.toNat, rg.toNat, ord.toNat, scope.toNat])
  | .atomMax d w rg ord scope => some (rowAtomMax.word [d.toNat, w.toNat, rg.toNat, ord.toNat, scope.toNat])
  | .atomMinn d w rg ord scope => some (rowAtomMinn.word [d.toNat, w.toNat, rg.toNat, ord.toNat, scope.toNat])
  | .atomMaxn d w rg ord scope => some (rowAtomMaxn.word [d.toNat, w.toNat, rg.toNat, ord.toNat, scope.toNat])
  | .atomLd d w rg ord scope => some (rowAtomLd.word [d.toNat, w.toNat, rg.toNat, ord.toNat, scope.toNat])
  | .atomSt d w rg ord scope => some (rowAtomSt.word [d.toNat, w.toNat, rg.toNat, ord.toNat, scope.toNat])
  | .redAdd d w rg ord scope => some (rowRedAdd.word [d.toNat, w.toNat, rg.toNat, ord.toNat, scope.toNat])
  | .redFadd d w rg ord scope => some (rowRedFadd.word [d.toNat, w.toNat, rg.toNat, ord.toNat, scope.toNat])
  | .redMin d w rg ord scope => some (rowRedMin.word [d.toNat, w.toNat, rg.toNat, ord.toNat, scope.toNat])
  | .redMax d w rg ord scope => some (rowRedMax.word [d.toNat, w.toNat, rg.toNat, ord.toNat, scope.toNat])
  | .redFmin d w rg ord scope => some (rowRedFmin.word [d.toNat, w.toNat, rg.toNat, ord.toNat, scope.toNat])
  | .redFmax d w rg ord scope => some (rowRedFmax.word [d.toNat, w.toNat, rg.toNat, ord.toNat, scope.toNat])
  | .redAnd d w rg ord scope => some (rowRedAnd.word [d.toNat, w.toNat, rg.toNat, ord.toNat, scope.toNat])
  | .redOr d w rg ord scope => some (rowRedOr.word [d.toNat, w.toNat, rg.toNat, ord.toNat, scope.toNat])
  | .redXor d w rg ord scope => some (rowRedXor.word [d.toNat, w.toNat, rg.toNat, ord.toNat, scope.toNat])
  | .redMinn d w rg ord scope => some (rowRedMinn.word [d.toNat, w.toNat, rg.toNat, ord.toNat, scope.toNat])
  | .redMaxn d w rg ord scope => some (rowRedMaxn.word [d.toNat, w.toNat, rg.toNat, ord.toNat, scope.toNat])
  | .fence scope => some (rowFence.word [scope.toNat])
  | .mma d c sat la => some (rowMma.word [d.toNat, c.toNat, sat.toNat, la.toNat])
  | .mmas d c la => some (rowMmas.word [d.toNat, c.toNat, la.toNat])
  | .mbp d c mid sat la => some (rowMbp.word [d.toNat, c.toNat, mid.toNat, sat.toNat, la.toNat])
  | .mzero d la => some (rowMzero.word [d.toNat, la.toNat])
  | .mld d n c la => some (rowMld.word [d.toNat, n.toNat, c.toNat, la.toNat])
  | .mst n src c la => some (rowMst.word [n.toNat, src.toNat, c.toNat, la.toNat])
  | .mcpy d src la => some (rowMcpy.word [d.toNat, src.toNat, la.toNat])
  | .mcvt n src c la => some (rowMcvt.word [n.toNat, src.toNat, c.toNat, la.toNat])
  | .mtrn d src la => some (rowMtrn.word [d.toNat, src.toNat, la.toNat])
  | .mperm d src c la => some (rowMperm.word [d.toNat, src.toNat, c.toNat, la.toNat])
  | .mrsum d src c la => some (rowMrsum.word [d.toNat, src.toNat, c.toNat, la.toNat])
  | .mrdy b => some (rowMrdy.word [b.toNat])
  | .mwait d => some (rowMwait.word [d.toNat])
  | .mstat e c la => some (rowMstat.word [e.toNat, c.toNat, la.toNat])
  | .rank d src c ty la => some (rowRank.word [d.toNat, src.toNat, c.toNat, ty.toNat, la.toNat])
  | .rmma d src c tie la => some (rowRmma.word [d.toNat, src.toNat, c.toNat, tie.toNat, la.toNat])
  | .rtv d src c la => some (rowRtv.word [d.toNat, src.toNat, c.toNat, la.toNat])
  | .rlst d src c la => some (rowRlst.word [d.toNat, src.toNat, c.toNat, la.toNat])
  | .ratl src c la => some (rowRatl.word [src.toNat, c.toNat, la.toNat])
  | .rrcl src c la => some (rowRrcl.word [src.toNat, c.toNat, la.toNat])
  | .tspawn d a b => some (rowTspawn.word [d.toNat, a.toNat, b.toNat])
  | .tret a => some (rowTret.word [a.toNat])
  | .fwait d a b => some (rowFwait.word [d.toNat, a.toNat, b.toNat])
  | .ffill d a b => some (rowFfill.word [d.toNat, a.toNat, b.toNat])
  | .fown d a b => some (rowFown.word [d.toNat, a.toNat, b.toNat])
  | .lock d a b => some (rowLock.word [d.toNat, a.toNat, b.toNat])
  | .unlock d a b => some (rowUnlock.word [d.toNat, a.toNat, b.toNat])
  | .qpush d a b => some (rowQpush.word [d.toNat, a.toNat, b.toNat])
  | .qpop d a b => some (rowQpop.word [d.toNat, a.toNat, b.toNat])
  | .succ d a b => some (rowSucc.word [d.toNat, a.toNat, b.toNat])
  | .launch d a b => some (rowLaunch.word [d.toNat, a.toNat, b.toNat])
  | .yield => some (rowYield.word [])
  | .dqpush a b => some (rowDqpush.word [a.toNat, b.toNat])
  | .dqpop d => some (rowDqpop.word [d.toNat])
  | .srput b => some (rowSrput.word [b.toNat])
  | .srwaitC d b => some (rowSrwaitC.word [d.toNat, b.toNat])
  | .srwaitP d b => some (rowSrwaitP.word [d.toNat, b.toNat])
  | .srrel b => some (rowSrrel.word [b.toNat])
  | .barArr d lev n => some (rowBarArr.word [d.toNat, lev.toNat, n.toNat])
  | .barWait a lev n => some (rowBarWait.word [a.toNat, lev.toNat, n.toNat])
  | .barSync d lev n => some (rowBarSync.word [d.toNat, lev.toNat, n.toNat])
  | .barSet a n => some (rowBarSet.word [a.toNat, n.toNat])
  | .cntRd d c => some (rowCntRd.word [d.toNat, c.toNat])
  | .cntWait a c => some (rowCntWait.word [a.toNat, c.toNat])
  | .cntClr c => some (rowCntClr.word [c.toNat])
  | .time d => some (rowTime.word [d.toNat])
  | .winw d => some (rowWinw.word [d.toNat])
  | .perf d a => some (rowPerf.word [d.toNat, a.toNat])
  | .trap n => some (rowTrap.word [n.toNat])
  | .svc n => some (rowSvc.word [n.toNat])
  | .rft => some (rowRft.word [])
  | .brk n => some (rowBrk.word [n.toNat])
  | .killb d a => some (rowKillb.word [d.toNat, a.toNat])
  | .pblk k n pat => some (rowPblk.word [k.toNat, n.toNat, pat.toNat])
  | .loadDataReturn => none
  | .pageWalk => none
  | .sideLogReplay => none
  | .copyLanding => none
  | .engineStart => none
  | .engineComplete => none
  | .trapEntry => none
  | .faultReport => none
  | .packetFetch => none
  | .dependencePoll => none
  | .gangPlacement => none
  | .seniorGang => none
  | .taskStart => none
  | .adoption => none
  | .wake => none
  | .parkRetry => none
  | .preemptSave => none
  | .restore => none
  | .unpickerPass => none
  | .req => none
  | .grant => none
  | .returnMessage => none
  | .count => none
  | .pending => none
  | .reclaim => none
  | .lost => none
  | .retack => none
  | .eopDiscard => none
  | .requestDelivery => none
  | .sliceBounce => none
  | .heatHalving => none
  | .heatSample => none
  | .scTicket => none
  | .windowMark => none
  | .systemScPerform => none
  | .cleanAfterRelease => none
  | .flitReceive => none
  | .ackOnlyFlit => none
  | .ackTimer => none
  | .replayTimeout => none
  | .errorInterval => none
  | .scaleUpFrame => none
  | .trainingEnd => none
  | .retrainEnd => none
  | .l0nIdle => none
  | .l1sIdle => none
  | .wakeComplete => none
  | .wakeTimeout => none
  | .unresponsiveTimeout => none
  | .hostAccess => none
  | .train => none
  | .takeDown => none
  | .lqbell => none
  | .fltreplay => none
  | .preempt => none
  | .resume => none
  | .timeStep => none
  | .heatctlClr => none
  | .hclr => none
  | .dirtyBitmapReadClear => none
  | .quiesce => none
  | .commit => none
  | .release => none
  | .abort => none
  | .registerWrite => none
  | .restart => none
  | .clearfail => none
  | .attest => none
  | .getcert => none
  | .raisefloor => none
  | .start => none
  | .startStepTimeout => none
  | .powerWindow => none
  | .thermalTrip => none
  | .illegalInstruction _ => none
  | .fundamentalReset => none
  | .powerLoss => none
  | .chunkDescriptorWrite => none
  | .badCommand => none

end Sys2Proof
end

