-- ==== Sys2Proof/Machine/State.lean ====
section
/-!
DEFINITION. Machine/State.lean: the state of the HK8 as plain data, the reasons a step can stop, and the state right
after reset. Every item that a chapter's inventory names has its field here; the rule stands beside it. Sparse arrays
are lists of (index, value) pairs in one canonical form: indices strictly rising, no entry equal to the value that an
unlisted index reads as (Laws/Maps.lean).
-/
namespace Sys2Proof.Machine

/-- A sparse array of words: an unlisted index reads 0. Memory is such a list of `Host.Cell`s. -/
abbrev Cells (w : Nat) := List (Nat × BitVec w)
/-- A finite map with natural-number keys: an unlisted key has no value. -/
abbrev KMap (α : Type) := List (Nat × α)

/-! ## Threads -/

/-- The roles of warps (01 R26). -/
inductive Role
  | matrix | copy | vector
  deriving DecidableEq, Repr

/-- A region register (08 R187). Kind 0 is the empty register. -/
structure Region where
  kind   : BitVec 3
  space  : BitVec 2
  splitp : Bool
  taint  : Bool
  lost   : Bool
  wpseen : Bool
  save   : Bool                 -- 15 R375: the thread's trap slot in the save area, whose borrow no table holds
  nsplit : BitVec 4
  child  : BitVec 3
  parent : BitVec 12
  slot   : BitVec 16
  lenm1  : BitVec 34
  base   : BitVec 49
  deriving DecidableEq, Repr

/-- The predicate-block state of R46 and R48: words left, pattern from the next word on, captured mask. -/
structure Pblk where
  left    : Nat
  pattern : Byte
  kcap    : Word
  deriving DecidableEq, Repr

/-- A register that the lookahead promise and the scoreboard count (02 R41): an allotted vector register, or a uniform
register of the front thread. -/
inductive RegId
  | v (n : Nat)
  | s (n : Nat)
  deriving DecidableEq, Repr

/-- A lookahead window still open (02 R41-R43): covered instructions left, registers read, registers written with the
values that their lanes held before. -/
structure LookWin where
  left   : Nat
  reads  : List RegId
  writes : List (RegId × List DWord)
  deriving DecidableEq, Repr

/-- What a thread waits for (12 R312). A condition is looked at again whenever the thread might be chosen; an answer is
brought by a step. -/
inductive Wait
  | dqEntry                                    -- 12 R309: an entry for the warp
  | dqRoom                                     -- 12 R309: room in the queue
  | bobFull (b : Nat)                          -- 12 R311: SRWAIT.C, SRREL
  | bobFree (b : Nat)                          -- 12 R311: SRWAIT.P, SRPUT
  | barrier (lvl num : Nat) (tok : Word)       -- 14 R359
  | counter (c : Nat) (n : Word)               -- 14 R359
  | lines (first last : Nat)                   -- 09 R219, R237: scratch lines present
  | join (rg : Nat)                            -- 08 R205
  | borrow (entry : Nat)                       -- 08 R200: the die or scratch entry
  | convert (entry : Nat) (rg : Nat)           -- 08 R201
  | returned (entry : Nat)                     -- 08 R206: RETACKs
  | walk                                       -- 11 R285: a table walk under way
  | page (die : Nat) (asid : BitVec 16)        -- 09 R230: until FLTREPLAY
  | logRoom                                    -- 13 R351
  | logDrain (entry : Nat)                     -- 13 R349: until the entry is performed
  | performed                                  -- 10 R254: earlier operations
  | reply                                      -- 09 R241, 13 R328: an answer
  | object                                     -- 13 R338: recorded in the park table
  | parkRoom                                   -- 13 R338: the park table is full
  | noFrame                                    -- 13 R339: no free frame
  | engineRoom (eng : Engine)                  -- 07 R160
  | bquarter                                   -- 07 R169: register writes of the MATRIX warps
  | tiles (mask : Word)                        -- 07 R176
  | window (start : Nat)                       -- 10 R261: local time
  | stamp (slot : Nat)                         -- 10 R262
  | otherArm                                   -- 06 R145: stopped at the split
  | trapOther                                  -- 15 R375: the other arm is in its handler
  | scoreboard                                 -- 02 R41
  | trapping                                   -- 15 R375: TRAP_ENTRY is due
  | forever                                    -- 15 R382 mode 0 while its block dies
  | fetchPage (die : Nat) (asid : BitVec 16)   -- 15 R371: instruction fetch
  | landed                                     -- 14 R355: the block's XST and RLST
  | through (g : Region)                       -- 08 R204, R206: accesses through a borrow, the thread's own performed
  | tableRoom (space : Nat)                    -- 08 R200: a free entry
  | behind (order : Nat)                       -- 11 R274: the request of a proxy with a writer pending
  | drained                                    -- 13 R330: the block's issued work
  | gone (blk : Nat)                           -- 15 R382: a killed block or task
  | pathEnd                                    -- 06 R145: the path's register writes
  | again                                      -- over: the instruction issues again
  deriving DecidableEq, Repr

/-- A wait with the instruction that waits, what it has already done, and the answer that has come. -/
structure Hold where
  wait   : Wait
  ins    : Option Instr
  stage  : Nat
  answer : Option (List DWord)
  dq     : Option DWord         -- the decision-queue entry that it popped (02 R38)
  dqSeq  : Nat := 0             -- which entry that is; 0 the all-ones entry of 12 R309
  ended  : Bool := false        -- 12 R312: the wait was over at the last clock
  rgn    : List (Nat × Region) := []  -- 08 R192: the region registers that it named, as they were checked
  deriving DecidableEq, Repr

/-- One outstanding register write of an issued instruction (02 R41: the scoreboard). -/
structure Pend where
  id     : Nat
  regs   : List RegId
  memOp  : Bool
  rg     : Option Region        -- 08 R192: the region that it accesses
  hits   : Nat := 0             -- 15 R389: watchpoints that it has reported, bit 4m + w for watchpoint w of memory-side die m
  loose  : List RegId := []     -- 02 R43: registers whose promise a later instruction breaks: old or new, lane by lane
  grp    : Nat := 0             -- 15 R389: the ATOM that the lanes' writes belong to; 0 none
  far    : List (Nat × Nat × Nat) := []  -- 16 R398: what a load asked of a home: lane, address, home
  pc     : BitVec 56 := 0
  deriving DecidableEq, Repr

/-- A thread (06 R135): the front thread, an unsplit warp, or an arm. -/
structure Thread where
  pc       : BitVec 56          -- 02 R32
  exm      : Word               -- 06 R138
  path     : Word               -- 06 R135
  fmt      : Word               -- 05 R111
  wins     : List LookWin       -- 02 R41
  pends    : List Pend          -- 02 R41, 10 R254
  pblk     : Option Pblk        -- 02 R46
  hold     : Option Hold        -- 12 R312
  prodCur  : List (Nat × Bool)  -- 12 R310: producer cursors of the 8 bobbins
  consCur  : List (Nat × Bool)  -- 12 R310
  readyAt  : Nat                -- 12 R312: clock at which it became ready
  passed   : Nat                -- 12 R312: clocks passed over
  trap     : Bool               -- 15 R384: trap mode
  trpc     : DWord              -- 15 R378
  trctl    : DWord              -- 15 R378
  trpcSet  : BitVec 56          -- 15 R383: the value that trap entry set
  pblkSave : Option Pblk        -- 02 R48
  wskip    : Bool               -- 15 R378, R383
  record   : Option FaultRec    -- 15 R374: the undelivered record
  later    : Option FaultRec    -- 15 R373: the class-I record that it holds behind a class-P one, until that one's handler ends
  kept     : Option Hold        -- 14 R362, 15 R375: the barrier wait that its handler interrupts
  sentWin  : Option Nat         -- 10 R261: latest window of a write to another package
  redo     : Option Nat         -- 02 R38: the entry that an abandoned instruction had popped and pops again
  wbUse    : Option (BitVec 10) -- 04 R85, R86: the `WB` that its instruction maps with, where it is not the warp's
  live     : Bool               -- the arm, or the thread, exists and has not exited
  deriving DecidableEq, Repr

/-! ## Warps, front threads, blocks -/

/-- Kinds and logical stacks of divergence-stack entries (06 R140). -/
inductive StackKind
  | reconverge | pending | call | split
  deriving DecidableEq, Repr
inductive LogStack
  | warp | armT | armE | front
  deriving DecidableEq, Repr

/-- A divergence-stack entry (06 R140). -/
structure StackEntry where
  kind : StackKind
  log  : LogStack
  pc   : BitVec 56
  mask : Word
  fmt  : Word
  deriving DecidableEq, Repr

/-- A warp (04 R81, R84; 06 R136-R145; 08 R187). -/
structure Warp where
  role    : Role                -- 01 R26
  allot   : Nat                 -- 04 R81
  wb      : BitVec 10           -- 04 R84
  k       : List Word           -- 06 R136: K0-K7
  v       : Cells 32            -- 04 R81: register r of lane l at 32r + l
  g       : KMap Region         -- 08 R187: G0-G31, unlisted empty
  stack   : List StackEntry     -- 06 R140: newest first
  held    : Nat                 -- 06 R141: entries in hardware
  split   : Bool                -- 06 R142
  exited  : Word                -- 06 R148
  t       : Thread              -- the whole warp, or arm T
  e       : Thread              -- arm E
  aside   : Region              -- 15 R375: the set-aside G31
  trapE   : Option Bool         -- 15 R375: which arm is in a handler
  since   : Nat                 -- 10 R250: what is numbered below it was issued before the last split or merge
  deriving DecidableEq, Repr

/-- The front thread (06 R153, R154; 08 R187). -/
structure Front where
  th     : Thread
  s      : Cells 64             -- 06 R153: S0-S191
  swb    : Nat                  -- 06 R154: 0, 32 or 64
  b      : KMap Region          -- 08 R187: B0-B15, unlisted empty
  stack  : List StackEntry      -- 06 R140: newest first
  held   : Nat
  aside  : Region               -- 15 R375: the set-aside B15
  deriving DecidableEq, Repr

/-- A decision-queue entry (12 R308, 15 R387). -/
structure DqEntry where
  value  : DWord
  target : Word
  popped : Word
  seq    : Nat := 0             -- its place in the order of pushes (the model's)
  deriving DecidableEq, Repr

/-- A slot of a bobbin (12 R310). -/
structure BobSlot where
  f    : Bool
  e    : Bool
  prod : Nat
  cons : Nat
  deriving DecidableEq, Repr

/-- A barrier (14 R352): members and arrivals are thread slots; at the block level bit w of a warp and bit 32 of the
front thread, at the other levels the block's position in the instance. -/
structure Barrier where
  c       : Word
  members : List Nat
  arrived : List Nat
  pending : Option (List Nat)   -- 14 R359: BAR.SET for the next phase
  broken  : Bool                -- 14 R356
  entry   : Bool                -- 14 R357: holds a core entry
  used    : Nat                 -- 14 R357: last use
  deriving DecidableEq, Repr

/-- The context descriptor of a block (12 R298). -/
structure CtxDesc where
  l4pa   : Nat
  asid   : BitVec 16
  dbg    : Bool
  saveva : Nat
  trapva : BitVec 56
  deriving DecidableEq, Repr

/-- The allotment class of a block: packet bytes 43-95 (12 R297). -/
structure Allot where
  dqd     : Nat
  tiles   : Nat
  bars    : Nat
  bobs    : Nat
  slots   : Nat
  quorum  : List (Nat × Nat)           -- producer, consumer
  roles   : List (Role × Nat)          -- role and registers of each warp, in warp order
  scratch : Nat
  xbytes  : Nat
  deriving DecidableEq, Repr

/-- A queued or running instruction of an engine (07 R160): the instruction, and what it read at issue. -/
structure EngineOp where
  id      : Nat
  blk     : Nat
  ins     : Instr
  pc      : BitVec 56
  desc    : DWord
  desc2   : DWord               -- 07 R165: the register after RMMA's descriptor
  regions : List Region
  quarter : List Nat            -- 07 R168, R169: the B registers of lane l of MATRIX warp q at 32q + l, as one run
  reads   : List (Nat × Nat)    -- 07 R162: scratch bytes that it reads, as (position, length)
  writes  : List (Nat × Nat)    -- 07 R162: scratch bytes that it writes
  lines   : List Nat            -- 07 R162: presence bits that it owes
  wild    : Bool                -- 07 R161: its source tile was in flight
  started : Bool
  src     : List (List Byte)    -- the bytes of `reads` at the start
  bad     : List Nat            -- 07 R184: poisoned scratch sectors among them
  fail    : List Nat            -- 07 R184: those among them whose check value failed as they were read
  deriving DecidableEq, Repr

/-- A block (01 R25, R28; 12 R307), resident in a slot of a core or saved in a frame. -/
structure Block where
  die     : Nat
  core    : Nat
  slot    : Nat                 -- 01 R28: block slot of the core, or pool slot order
  home    : Bool                -- resident
  ctx     : BitVec 16           -- 11 R270
  pkt     : Nat                 -- the launch packet
  desc    : CtxDesc
  allot   : Allot
  scrBase : Nat                 -- 12 R304: where its scratch run stands in the core
  blockIx : Word                -- 04 R88
  clIx    : Nat
  clusIx  : Word
  gridM1  : Word
  clusz   : Nat
  coop    : Bool
  grp     : Nat                 -- 14 R352: its die group, by the die of its placement
  task    : Option Word         -- 13 R317: the running task's ID
  below   : Option Nat          -- 13 R321: the block saved beneath in the chain
  frame   : Option Nat          -- 13 R318: frame index of the task
  frameVa : Nat                 -- 15 R387
  frameKeys : List Nat          -- 15 R387: held translations of its first 256 KiB, by 16 KiB page
  warps   : List Warp
  front   : Front
  y       : List DWord          -- 06 R156
  scratch : Cells 8             -- 09 R215
  absent  : KMap Nat            -- 09 R218: lines absent, with the commands still owing them
  swapped : Bool                -- 09 R217: bank 1 is live
  spoison : List Nat            -- 09 R223: poisoned scratch sectors
  ssums   : KMap (BitVec 16)            -- 09 R222: check values of scratch sectors that are not those of their bytes
  tile    : Cells 32            -- 07 R157: element (i, j) of tile t at 4096t + 64i + j
  tvalid  : Word                -- 07 R158
  tdirty  : Word
  bheld   : List (Nat × Nat × Nat)  -- 07 R169: tile, first B register and their number, until its MWAIT
  dq      : List DqEntry        -- oldest first
  bobs    : List (List BobSlot) -- 12 R310
  bars    : List Barrier        -- 14 R352
  counts  : List Word           -- 14 R363
  attUsed : Bool                -- 11 R294
  recUsed : Bool
  attSave : Cells 16            -- 11 R296: the copies of the rank tables that its frame holds
  recSave : Cells 16
  started : Bool                -- 08 R189: the borrow of B1 is settled
  argReq  : Bool                -- 08 R189: the borrow of B1 is asked for
  ending  : Bool                -- 13 R330, 15 R382: threads stop, no more issue
  killed  : Option Nat          -- 15 R382: the fault code of a kill
  deriving DecidableEq, Repr

/-! ## Cores and clusters -/

/-- Partial of one 4-byte element of an update-only line (09 R221). -/
structure Partial where
  elem : Nat
  op   : MemOp
  ty   : ElemTy
  val  : DWord
  deriving DecidableEq, Repr

inductive LineState
  | clean | dirty | update
  deriving DecidableEq, Repr

/-- An L1 line (09 R220, R221): 128 bytes under the slot of the borrow it was filled under. `core` counts over the
package: 128 × die + core. -/
structure L1Line where
  core   : Nat
  asid   : BitVec 16
  glb    : Bool                 -- 11 R287: filled through a `GLB` leaf
  shared : Bool                 -- die-shared space
  line   : Nat                  -- virtual address, or die-shared offset, div 128
  phys   : Nat                  -- memory key div 128
  slot   : Nat
  st     : LineState
  data   : List Byte
  poison : Nat                  -- bit 0, bit 1: its two sectors
  sums   : KMap (BitVec 16)     -- 09 R222: check values that are not those of the bytes, by sector 0, 1
  parts  : List Partial
  who    : List ThreadRef       -- 10 R261: threads whose writes in it are not sent yet
  deriving DecidableEq, Repr

/-- An L2 line (09 R220). -/
structure L2Line where
  die    : Nat
  slice  : Nat                  -- 11 R292: the slice that holds it
  phys   : Nat
  dirty  : Bool
  data   : List Byte
  poison : Nat
  sums   : KMap (BitVec 16)
  who    : List ThreadRef
  deriving DecidableEq, Repr

/-- A side-log entry (13 R348): one whole instruction with every active lane's offset, data and enables. -/
structure LogEntry where
  id      : Nat
  t       : ThreadRef
  ctx     : Nat                 -- block
  pc      : BitVec 56
  region  : Region
  ins     : Instr
  lanes   : List (Nat × Nat × DWord × DWord)   -- lane, offset, data, enables
  counter : Option Nat
  priv    : Bool
  waits   : Bool                -- a page fault is out
  deriving DecidableEq, Repr

/-- A copy-path command (09 R232): what is left of it to move, as (source offset, destination offset, bytes). -/
structure CopyCmd where
  id      : Nat
  t       : ThreadRef
  pc      : BitVec 56
  ins     : Instr
  src     : Region
  dst     : Region
  moves   : List (Nat × Nat × Nat)  -- in scratch, positions in the allotment
  vals    : List (Nat × DWord)  -- DUPD: (offset, operand) in lane order
  op      : Nat
  ty      : Nat
  target  : Nat                 -- block that receives
  counter : Option Nat
  lines   : List Nat            -- presence bits that it owes
  priv    : Bool
  paused  : Option (Nat × BitVec 16)   -- 09 R238: until FLTREPLAY
  act     : Word                -- lanes that issued it
  hits    : Nat                 -- 15 R389: watchpoints that it has reported: bits 0-3 its die's, then 4 for each memory-side die
  lanes   : List (Nat × Nat × Nat × Nat) := []  -- 15 R372: CPYG, DUPD: each lane's places (source, destination, bytes)
  deriving DecidableEq, Repr

/-- A TLB entry of a cluster (11 R286): its ASID unless global, virtual and physical page, log2 of its size. -/
structure TlbEntry where
  cluster : Nat
  asid    : BitVec 16
  glb     : Bool
  va      : Nat
  pa      : Nat
  bits    : Nat
  perm    : BitVec 4                    -- USR, XP, WR, RD
  deriving DecidableEq, Repr

/-! ## Compute dies -/

inductive EntryState
  | free | requesting | held | returning | lost | abandoned | taintmark | waiting
  deriving DecidableEq, Repr

/-- What a die entry does for the thread that waits on it (08 R200, R201, R206; 11 R279). -/
inductive EntryUser
  | none
  | thread (t : ThreadRef) (rg : Nat)
  | args (blk : Nat)                    -- 08 R189: B1 of a block
  | undo                                -- 08 R201: pieces converted back
  | ended (blk : Nat)                   -- 08 R206, R211: a block that has given it back and does not wait
  deriving DecidableEq, Repr

/-- A piece of a borrow (11 R270, R272): its home (0-15 the memory-side dies, 16 the proxy table, 17 + d another
package), the physical unit, its length minus 1, the home entry index, whether it is granted, and whether it is done with:
returned, behind a lost link, or never to be asked for. The pieces are what the list at `PLIST` holds. -/
structure Piece where
  home    : Nat
  base    : Nat
  lenm1   : Nat
  ix      : Nat
  granted : Bool
  gone    : Bool := false
  deriving DecidableEq, Repr

/-- A die ownership-table entry (11 R270). -/
structure DieEntry where
  kind   : Nat
  state  : EntryState
  wp     : Bool
  taint  : Bool
  space  : Nat                          -- 0 global, 1 die-shared; 2 scratch, 3 exchange in a core's table
  proxy  : Bool
  base   : Nat
  lenm1  : Nat
  lcount : Nat
  ctx    : Nat
  core   : Nat
  blk    : Nat
  pieces : List Piece
  plist  : Nat                          -- address of the piece list in the die's reserved memory
  back   : Nat                          -- 08 R201: pieces that are converted back to S
  try_   : Bool
  user   : EntryUser
  order  : Nat                          -- arrival, for waiting requests (08 R194)
  status : Nat                          -- answer of a failed request
  want   : Nat                          -- 08 R201: the kind a conversion asks for
  stamp  : Nat                          -- 10 R262: clean-after stamp
  deriving DecidableEq, Repr

/-- A core's shared units (01 R17). -/
structure Core where
  scratchTab : KMap DieEntry            -- 11 R269: the 64 scratch entries
  room       : List ThreadRef           -- 08 R194, R200: requests that wait for a free entry, oldest first
  log        : List LogEntry            -- 13 R348, oldest first
  array      : List EngineOp            -- 07 R160, oldest first
  tile       : List EngineOp
  rank       : List EngineOp
  copies     : List CopyCmd             -- 09 R232
  att        : Cells 16                 -- 11 R294
  recon      : Cells 16
  pmc        : List (BitVec 48)         -- 14 R370
  pmcfg      : List DWord
  lastFront  : Nat                      -- 12 R312: round robin of the front port
  deriving DecidableEq, Repr

/-- A compute die (01 R15). -/
structure Cd where
  entries  : KMap DieEntry              -- 11 R270
  queued   : List (Nat × ThreadRef)     -- 11 R274: S requests that wait behind a proxy (its `order`), oldest first
  room     : List ThreadRef             -- 08 R200: requests that wait for a free entry, oldest first
  dead     : List Nat                   -- 11 R279: dead contexts (block numbers)
  marks    : List Nat                   -- 11 R280: entries of dead contexts that wait to become taint marks
  shared   : Cells 8                    -- 09 R215: die-shared memory
  shpoison : List Nat                   -- 09 R223
  shsums   : KMap (BitVec 16)                   -- 09 R222
  regs     : KMap DWord                 -- system registers whose value differs from the reset value
  staged   : KMap DWord                 -- 16 R417
  portmap  : Cells 8                    -- 16 R410
  slice    : Cells 8                    -- 11 R292: rows that differ from the reset map
  sliceOld : KMap (Cells 8)             -- 11 R293: the maps of older generations
  faults   : List FaultRec              -- 15 R377: records that wait for the ring
  active   : List Nat                   -- 12 R303: active queues, in round-robin order
  bells    : List Nat                   -- 12 R303: queues that wait for a place
  stuck    : List (Nat × BitVec 16)     -- 12 R298, R303: queues whose head waits for a page of an ASID
  retry    : List (BitVec 16 × Event)   -- 13 R320: steps of the units that wait for a page of an ASID
  park     : List (Nat × ObjOp × Waiter) -- 13 R338: die-shared objects
  saving   : List Nat                   -- 15 R385: blocks being saved
  parking  : List Nat                   -- 13 R339, R340: blocks whose chain is about to leave the slot or to be helped
  quiet    : Bool                       -- 16 R417: quiesced
  modules  : KMap DWord                 -- 16 R399: LKST of the die's modules
  deriving DecidableEq, Repr

/-! ## Memory-side dies -/

/-- A home or proxy table entry (11 R271). -/
structure HomeEntry where
  kind    : Nat
  state   : EntryState
  wp      : Bool
  base    : Nat
  lenm1   : Nat
  rcount  : Nat
  devno   : Nat
  cd      : Nat
  hslot   : Nat
  lastwb  : Nat                         -- low 32 bits of the window
  try_    : Bool
  next    : Option Nat                  -- NV, NEXT: the entry that waits after it
  via     : Option Nat                  -- the port by which its holder's messages come, if of another package (the model's)
  order   : Nat                         -- place in the order of arrival
  deriving DecidableEq, Repr

/-- A chunk descriptor (11 R290): enable, sector-area base, sectors, reserve. -/
structure Chunk where
  raw     : BitVec 512
  enable  : Bool
  base    : Nat
  sectors : Nat
  reserve : Nat
  deriving DecidableEq, Repr

/-- A line of the memory-side cache (09 R220): its place in the stack, address div 128. Its bytes stand in the memory of the
machine, which holds each byte once, in the cache or behind it. -/
structure MsLine where
  line  : Nat
  dirty : Bool
  deriving DecidableEq, Repr

/-- A memory-side die (01 R18). -/
structure Md where
  lines    : List MsLine                -- 09 R220: valid lines of the memory-side cache, newest first
  home     : KMap HomeEntry             -- 11 R271
  port     : List EopMsg                -- 11 R273: REQs that wait for a free entry
  wrote    : List (Nat × Nat × Nat)     -- 10 R262: write-backs by a return: base, length minus 1, window
  dirty    : KMap (BitVec 512)          -- 11 R289: dirty bitmaps, unlisted 0
  chunks   : KMap Chunk                 -- 11 R290
  gmeta    : KMap DWord                 -- 11 R290: metadata of granules
  metaHit  : List Nat                   -- 11 R291: the metadata cache, newest first
  overflow : List (Nat × List Byte × Option ThreadRef) -- 11 R291: writes held: key, bytes, the thread that sent it
  stalled  : List Request               -- 11 R291: requests that wait for a granule
  heat     : Cells 16                   -- 14 R367
  accesses : Nat                        -- 14 R367: n
  heatctl  : DWord                      -- 14 R368
  counters : List DWord                 -- 14 R369: CINCOMP, CMDMISS, COVFL, CDCHK
  wp       : KMap DWord                 -- 15 R389
  modules  : KMap DWord                 -- 16 R399
  held     : List (Nat × Nat × Nat)     -- 09 R239: RES holds (block, first line, lines)
  park     : List (Nat × ObjOp × Waiter) -- 13 R338
  portSeq  : Nat                        -- 16 R409: next SEQ
  portBuf  : List Frame                 -- 16 R409: the replay buffer, 256 frames
  portWait : List (Nat × List Slot)     -- 16 R409: what waits for room in it, by device
  portRx   : Nat
  portUp   : Bool
  portTries : Nat                       -- 16 R409: resends since the last progress
  portEarly : List Frame := []          -- 16 R409, R394: frames that came before one of lower SEQ
  portBad  : Option Nat := none         -- the SEQ that failed: what is later is discarded until it comes again
  portUnacked : Nat := 0                -- received since the last acknowledgement
  portPeer : Nat := 0                   -- 16 R409: the package that the last frame came from
  deriving DecidableEq, Repr

/-- A place that performs `.SC` atomics (10 R258, R260): 0-15 the home atomic units, 16 MD0's host path, 17 MD8's
pool unit, 32 + d the banks of compute die d. -/
structure ScPlace where
  next    : Nat                         -- next sequence number to hand out
  perform : Nat                         -- next sequence number to perform
  early   : List Request                -- arrived, not yet performed
  system  : List Request                -- `.SYSTEM` atomics, waiting for their mark
  marks   : List (Nat × Nat)            -- (window, sequence number it stands at)
  deriving DecidableEq, Repr

/-! ## Links -/

/-- One direction of a link (16 R394-R396). -/
structure Stream where
  tx       : Nat                        -- next SEQ
  buf      : List Flit                  -- replay buffer, oldest first
  queue    : List Slot                  -- slots that wait for a module or for room
  rx       : Nat                        -- next SEQ to deliver
  early    : List Flit
  discard  : Option Nat                 -- the SEQ that failed its CRC: what is later is discarded until it comes again
  unacked  : Nat                        -- delivered since the last acknowledgement
  ackDue   : Option Bool := none        -- 16 R402: its acknowledgement, or NAK, that waits for a module
  again    : Bool := false              -- 16 R402: its replay buffer is to be sent again, and waits for a module
  epoch    : Nat := 0                   -- 16 R396: resyncs since the link came up
  was      : Option Nat := none         -- 16 R396: the next SEQ of the numbering before the last resync, for what is still on its way
  deriving DecidableEq, Repr

/-- Receiver's memory of requests by origin (16 R396): highest ID, and the last 1,024 with their replies. -/
structure Filter where
  top  : Nat
  seen : List (Nat × Option (List DWord × Bool))
  deriving DecidableEq, Repr

/-! ## Work -/

/-- A launch packet taken from its queue and not ended (12 R297-R300). -/
structure Packet where
  pa       : Nat
  queue    : Nat
  die      : Nat                        -- home die of the queue
  desc     : CtxDesc
  frontImg : BitVec 56
  warpImg  : BitVec 56
  entries  : List Nat                   -- entry offset of each warp
  argBase  : Nat
  argLen   : Nat
  gridM1   : Nat
  clusz    : Nat
  coop     : Bool
  task     : Bool
  prio     : Nat
  dieMask  : Byte
  allot    : Allot
  doneAddr : Nat
  next     : Nat                        -- next cluster to place
  lastDie  : Nat                        -- die after the one that took the last gang
  placed   : Nat                        -- blocks placed
  ended    : Nat                        -- blocks ended
  ndone    : Nat
  nkilled  : Bool
  taken    : Nat                        -- order of taking
  owed     : Bool                       -- ended, its DONEADDR still to count (12 R300)
  deriving DecidableEq, Repr

/-- A gang that waits for placement, new or saved (12 R305, R306; 15 R386). -/
structure Gang where
  pkt    : Nat
  blocks : List Nat                     -- saved blocks; empty for the packet's next gang
  hold   : Bool                         -- 15 R385
  senior : Option Nat                   -- order of becoming senior
  target : Option Nat                   -- hardware cluster 16 × die + cluster; none: the partition
  stuck  : Bool                         -- 15 R387, 13 R316: waits for a page
  since  : Nat                          -- 12 R306: local time at which it began to wait
  deriving DecidableEq, Repr

inductive TaskState
  | deferred | queued | running | parked | ready | nested
  deriving DecidableEq, Repr

/-- A task-table entry (13 R318). -/
structure Task where
  st    : TaskState
  rec_  : Nat
  id    : Word
  frame : Option Nat
  blk   : Option Nat                    -- its block, running or saved
  prio  : Nat
  order : Nat                           -- order of queueing or of becoming ready
  waits : Option (Nat × ObjOp)          -- 13 R344: what it is PARKED for
  deriving DecidableEq, Repr

/-- A pool (13 R316). Pools are kept by 1,024 × lowest die of their partition + index. -/
structure Pool where
  pkt     : Nat
  die     : Nat
  keys    : List Nat                    -- 13 R318: held translations of its header and task table, by 16 KiB page
  heads   : List Nat                    -- 13 R318, R319: run-queue heads and tails of priorities 0-3, record addresses
  tails   : List Nat
  late    : List Nat                    -- 13 R320: entries to queue once a page of the queue's links is there
  desc    : CtxDesc                     -- 13 R318: of the save area
  allot   : Allot
  tcap    : Nat                         -- TCAPL2
  nframe  : Nat
  gens    : KMap Nat                    -- next generation of each entry
  tasks   : KMap Task                   -- by entry; unlisted FREE
  slots   : List (Nat × Nat × Nat)      -- core, block slot and scratch base of each pool slot
  live    : Nat
  noframe : Nat
  ntret   : Nat
  nkill   : Nat
  rescan  : Bool
  placed  : Bool
  killed  : Bool                        -- 13 R331, R346: ended by the host
  deriving DecidableEq, Repr

/-- The phase of the package (17 R418). -/
inductive Phase
  | inReset | ready | failed | off
  deriving DecidableEq, Repr

/-- What the device sends out (16 R404): MSI-X vectors, answers to host reads, scale-up frames, host events, and the
reports and certificates of the mailbox. -/
inductive Output
  | msix (v : Nat)
  | answer (data : List Byte) (poisoned : Bool)
  | regAnswer (v : DWord)
  | frame (port : Nat) (f : Frame)
  | event (die : DieId) (link : DieId × DieId) (entries first : Nat)
  deriving DecidableEq, Repr

/-- A copy of the boot status block (17 R422, R425). -/
structure Boot where
  fcnt     : Nat
  progress : Bool
  seqByte  : Byte
  history  : List (Nat × Nat × Nat)
  lastOk   : DWord
  deriving DecidableEq, Repr

/-- The Gotile controller and the package registers (17; 16 R401, R410, R416; 14 R364, R365). -/
structure Pkg where
  phase    : Phase
  step     : Nat                        -- 17 R418: step of the start under way, 0 none
  wantMin  : Bool                       -- 17 R423: the RESTART carried the minimal flag
  minimal  : Bool
  mdie     : Nat
  bootwhy  : DWord
  fcnt     : Nat                        -- 17 R425, and the fields after it
  progress : Bool
  seqByte  : Byte
  history  : List (Nat × Nat × Nat)     -- reason, step, unit, newest first
  version  : DWord
  lastOk   : DWord
  digest   : List Byte                  -- d of R420
  spare    : Option Boot                -- 17 R422: the other copy of the boot status block; none where it is not valid
  bootAt   : Nat                        -- the clock of the last write of the block (the model's)
  secretOpen : Bool                     -- 17 R421: the identity secret can be read
  attKey   : Option (List Byte)         -- 17 R421: the attestation key, private
  attCert  : List Byte                  -- 17 R421: its certificate, signed with the identity key
  fuses    : Nat
  mail     : Cells 8                    -- 17 R426: the 4 KiB but the status word
  mailStat : Nat
  mailBusy : Bool
  timeNs   : DWord                      -- 14 R364
  timeFrac : Nat                        -- 14 R364: the part of the next ns that has passed, in 10^-9 ns
  tbadj    : DWord
  wlen     : DWord
  linkpol  : DWord
  devno    : DWord
  partcmd  : DWord
  stage    : Nat                        -- 16 R417: 0 none, 1 quiesced, 2 committed
  stageCols : BitVec 4
  pwrlim   : DWord
  pwrstat  : DWord
  ticket   : Nat                        -- 10 R258: device ticket
  deriving DecidableEq, Repr

/-- The machine. -/
structure State where
  mem     : List Host.Cell              -- stacks, host, pool, other packages, by memory key
  poison  : List Nat                    -- poisoned sectors of memory, by key div 64
  sums    : KMap (BitVec 16)                    -- 09 R222: check values of sectors that are not those of their bytes
  blocks  : KMap Block
  cores   : KMap Core                   -- by 128 × die + core; unlisted at reset
  l1      : List L1Line
  l2      : List L2Line
  tlb     : List TlbEntry
  cds     : List Cd
  mds     : List Md
  proxy   : Md                          -- the MD0 proxy table and the host path's state
  clBars  : KMap (List Barrier)         -- 14 R352: by 2^32 × packet + cluster in the grid
  dieBars : KMap (List Barrier)         -- by 8 × packet + die
  grBars  : KMap (List Barrier)         -- by packet
  places  : KMap ScPlace                -- 10 R258
  streams : KMap Stream                 -- by 32 × source + destination
  modCtr  : KMap (List DWord)           -- 16 R400: counter blocks, by 16 × die + module; ports from 512
  modErr  : KMap Nat                    -- 16 R395: CRC failures of the interval
  idlePol : KMap DWord                  -- 16 R401: LINKPOL as it stood when a module's idle period began
  filters : KMap Filter                 -- 16 R396: by 32 × receiver + origin
  nextReq : KMap Nat                    -- 16 R396: running count by origin die
  waitReq : List Request                -- requests without their answer
  packets : KMap Packet
  gangs   : KMap Gang
  pools   : KMap Pool
  pkg     : Pkg
  inbox   : List Event                  -- due steps, oldest first (the model's)
  due     : Option Event                -- the step being taken (the model's)
  cur     : Option ThreadRef            -- the thread that issues (the model's)
  reported : List Nat                   -- 15 R389: watchpoints that the store being performed has reported; empty between steps
  clock   : Nat                         -- steps taken (the model's)
  free    : Nat                         -- selects the next free value (the model's)
  fresh   : Nat                         -- next number for blocks, commands, gangs (the model's)
  out     : List Output                 -- newest first
  deriving DecidableEq, Repr

/-- Why the machine stops with a fault. -/
inductive Fault
  /-- Raised by the meaning of an encoded instruction when no live thread issues it. Safe: `step` never does this; the
  spec gives an instruction without a thread no effect. -/
  | noThread
  deriving DecidableEq, Repr

/-- Why an instruction has no meaning. -/
inductive Refusal
  /-- Raised by an arm of `exec` whose instruction has no meaning yet. Safe. -/
  | notModelled (mnemonic : String)
  deriving DecidableEq, Repr

/-! ## Reset -/

/-- A compute die after reset: every table free, every register at its reset value (the reset columns of R240, R302,
R325, R369, R377, R385, R389, R399, R412-R414). -/
def Cd.reset : Cd :=
  { entries := [], queued := [], room := [], dead := [], marks := [], shared := [], shpoison := [], shsums := [], regs := [], staged := [], portmap := [],
    slice := [], sliceOld := [], faults := [], active := [], bells := [], stuck := [], retry := [], park := [], saving := [], parking := [],
    quiet := false, modules := [] }

/-- A memory-side die after reset (14 R367-R369: counters 0, HEATCTL `DL2` 20 and `H` 6). -/
def Md.reset : Md :=
  { lines := [], home := [], port := [], wrote := [], dirty := [], chunks := [], gmeta := [], metaHit := [],
    overflow := [], stalled := [], heat := [],
    accesses := 0, heatctl := 0x0000_0014_0000_0006, counters := [0, 0, 0, 0], wp := [], modules := [], held := [],
    park := [], portSeq := 0, portBuf := [], portWait := [], portRx := 0, portUp := false, portTries := 0 }

/-- The package after reset: held in reset until START (17 R418); WLEN `K` 10 (14 R365), LINKPOL `ETHR` 16 (16 R401),
PWRLIM 3,000 (17 R428), the rest 0. DESIGN CHOICE (log 9): the boot status block and the fuses are blank. -/
def Pkg.reset : Pkg :=
  { phase := .inReset, step := 0, wantMin := false, minimal := false, mdie := 0, bootwhy := 0, fcnt := 0, progress := false, seqByte := 0,
    history := [], version := 0, lastOk := 0, digest := [], spare := none, bootAt := 0,
    secretOpen := true, attKey := none, attCert := [], fuses := 0, mail := [], mailStat := 0, mailBusy := false, timeNs := 0,
    timeFrac := 0, tbadj := 0, wlen := 10, linkpol := 0x0010_0000_0000_0000, devno := 0, partcmd := 0, stage := 0, stageCols := 0,
    pwrlim := 3000, pwrstat := 0, ticket := 0 }

/-- The machine right after reset: nothing resident, nothing mapped, memory with nothing listed. -/
def State.reset : State :=
  { mem := [], poison := [], sums := [], blocks := [], cores := [], l1 := [], l2 := [], tlb := [],
    cds := List.replicate 8 Cd.reset, mds := List.replicate 16 Md.reset, proxy := Md.reset, clBars := [], dieBars := [],
    grBars := [], places := [], streams := [], modCtr := [], modErr := [], idlePol := [], filters := [], nextReq := [], waitReq := [],
    packets := [], gangs := [], pools := [], pkg := Pkg.reset, inbox := [], due := none, cur := none, reported := [],
    clock := 0, free := 0, fresh := 0, out := [] }

end Sys2Proof.Machine
end

