-- ==== Sys2Proof/Machine/Maps.lean ====
section
/-!
DEFINITION. Machine/Maps.lean: reading and writing the two kinds of sparse list that the state is made of.
-/
namespace Sys2Proof.Machine

/-- The value at a key, if listed. -/
def kget {α : Type} (m : KMap α) (k : Nat) : Option α :=
  match m with
  | [] => none
  | (j, x) :: r => if j = k then some x else kget r k

/-- Puts an entry before the first larger key. -/
def kins {α : Type} (m : KMap α) (k : Nat) (v : α) : KMap α :=
  match m with
  | [] => [(k, v)]
  | (j, x) :: r => if k < j then (k, v) :: (j, x) :: r else (j, x) :: kins r k v

/-- Takes a key out. -/
def kdel {α : Type} (m : KMap α) (k : Nat) : KMap α := m.filter (fun e => e.1 != k)

/-- Sets the value at a key. -/
def kset {α : Type} (m : KMap α) (k : Nat) (v : α) : KMap α := kins (kdel m k) k v

/-- Changes the value at a listed key. -/
def kupd {α : Type} (m : KMap α) (k : Nat) (f : α → α) : KMap α :=
  m.map (fun e => if e.1 = k then (e.1, f e.2) else e)

/-- The lowest unlisted key at or after `base`, below `size`, wrapping round; none when every key is listed. -/
def kfree {α : Type} (m : KMap α) (base size : Nat) : Option Nat :=
  ((List.range' (base % size) (m.length + 1)).map (· % size)).find? (fun k => k < size && (kget m k).isNone)

/-- The value of a sparse array at an index; an unlisted index reads 0. -/
def cget {w : Nat} (m : Cells w) (k : Nat) : BitVec w := (kget m k).getD 0

/-- Writes a sparse array; writing 0 takes the entry out, so that equal arrays are equal lists. -/
def cset {w : Nat} (m : Cells w) (k : Nat) (v : BitVec w) : Cells w :=
  if v = 0 then kdel m k else kset m k v

/-- `n` consecutive elements. -/
def cread {w : Nat} (m : Cells w) (k n : Nat) : List (BitVec w) := (List.range n).map (fun i => cget m (k + i))

/-- Writes consecutive elements. -/
def cwrite {w : Nat} (m : Cells w) (k : Nat) : List (BitVec w) → Cells w
  | [] => m
  | v :: vs => cwrite (cset m k v) (k + 1) vs

/-- The canonical form: keys strictly rising, no entry equal to 0. -/
def Cells.wf {w : Nat} (m : Cells w) : Bool :=
  match m with
  | [] => true
  | [(_, v)] => v != 0
  | (j, v) :: (k, x) :: r => v != 0 && (j < k) && Cells.wf ((k, x) :: r)

/-- Changes element `i` of a list. -/
def lset {α : Type} (l : List α) (i : Nat) (f : α → α) : List α :=
  match l, i with
  | [], _ => []
  | x :: r, 0 => f x :: r
  | x :: r, i + 1 => x :: lset r i f

/-- Whether the memory is in canonical form. -/
abbrev Memory.wf (m : List Host.Cell) : Prop := Cells.wf (w := 8) m = true

end Sys2Proof.Machine
end

