-- ==== Sys2Proof/Machine/Bytes.lean ====
section
/-!
DEFINITION. Machine/Bytes.lean: bit fields, sign extension and little-endian byte order (00 R1, 03 R59).
-/
namespace Sys2Proof.Machine

/-- The bits [hi:lo] of a 64-bit word as a number (R1). -/
def fld (v : DWord) (hi lo : Nat) : Nat := (v.toNat >>> lo) % 2 ^ (hi + 1 - lo)

/-- Bit `i` of a 64-bit word. -/
def bitOf (v : DWord) (i : Nat) : Bool := v.getLsbD i

/-- Bit `i` of a lane mask. -/
def lane (m : Word) (i : Nat) : Bool := m.getLsbD i

/-- A 64-bit word with the bits [hi:lo] replaced. -/
def setFld (v : DWord) (hi lo x : Nat) : DWord :=
  BitVec.ofNat 64 (v.toNat - (fld v hi lo <<< lo) + ((x % 2 ^ (hi + 1 - lo)) <<< lo))

/-- A number as a signed integer of `w` bits. -/
def sgn (w n : Nat) : Int := if 2 * (n % 2 ^ w) < 2 ^ w then (n % 2 ^ w : Nat) else (n % 2 ^ w : Nat) - (2 ^ w : Nat)

/-- An integer reduced to `w` bits. -/
def wrap (w : Nat) (x : Int) : Nat := (x % (2 ^ w : Nat)).toNat

/-- The `n` bytes of a number, least significant first (R59). -/
def leBytes : Nat → Nat → List Byte
  | 0, _ => []
  | n + 1, v => BitVec.ofNat 8 v :: leBytes n (v / 256)

/-- The number of a little-endian byte list (R59). -/
def leNat : List Byte → Nat
  | [] => 0
  | b :: r => b.toNat + 256 * leNat r

/-- The number in `n` bytes from byte `o` of a record. -/
def recNum (bs : List Byte) (o n : Nat) : Nat := leNat ((bs.drop o).take n)

/-- The lanes of a mask in increasing order. -/
def lanesOf (m : Word) : List Nat := (List.range 32).filter (fun i => lane m i)

/-- The mask with one lane. -/
def laneBit (i : Nat) : Word := BitVec.ofNat 32 (2 ^ i)

/-- The mask of a list of lanes. -/
def maskOf (l : List Nat) : Word := l.foldl (fun m i => m ||| laneBit i) 0

/-- Rounds up to a multiple. -/
def upTo (m n : Nat) : Nat := (n + m - 1) / m * m

/-- Splits an access of `len` bytes at `off` at the multiples of `unit`: (offset, length) of each part; `fuel` bounds
the number of parts. -/
def chunks (unit : Nat) : Nat → Nat → Nat → List (Nat × Nat)
  | 0, _, _ => []
  | fuel + 1, off, len =>
    if len = 0 then []
    else
      let n := min len (unit - off % unit)
      (off, n) :: chunks unit fuel (off + n) (len - n)

/-- The check value of a sector: CRC-16 with generator 0x1_8BB7, initial value 0, no reflection (09 R222). -/
def crc16 (bs : List Byte) : BitVec 16 :=
  bs.foldl (fun (c : BitVec 16) (b : Byte) =>
    (List.range 8).foldl (fun (c : BitVec 16) _ =>
      if c.getLsbD 15 then (c <<< (1 : Nat)) ^^^ 0x8BB7#16 else c <<< (1 : Nat))
      (c ^^^ (b.setWidth 16 <<< (8 : Nat)))) 0#16

/-- Whether a check value that is held beside a sector fails; where none is listed, it is that of the bytes (09 R222). -/
def checkFails (held : Option (BitVec 16)) (bs : List Byte) : Bool :=
  match held with
  | some v => v != crc16 bs
  | none => false

end Sys2Proof.Machine
end

