-- ==== Sys2Proof/Machine/Float.lean ====
section
/-!
DEFINITION. Machine/Float.lean: the floating-point formats and their arithmetic (03 R61-R69). A finite value is an exact
dyadic number; every operation forms the exact result, or the exact result with its tail jammed into one lowest bit,
and rounds once.
-/
namespace Sys2Proof.Machine

/-! ## Formats -/

/-- A format of R61 with `e` exponent and `m` fraction bits. `ieee`: the all-ones exponent is reserved for infinities and
NaNs (R62); `e4m3`: the two all-ones codes are NaN. -/
structure Fmt where
  e    : Nat
  m    : Nat
  ieee : Bool
  e4m3 : Bool
  deriving DecidableEq, Repr

def fp32 : Fmt := { e := 8, m := 23, ieee := true, e4m3 := false }
def fp64 : Fmt := { e := 11, m := 52, ieee := true, e4m3 := false }
def fp16 : Fmt := { e := 5, m := 10, ieee := true, e4m3 := false }
def bf16 : Fmt := { e := 8, m := 7, ieee := true, e4m3 := false }
def fpE4M3 : Fmt := { e := 4, m := 3, ieee := false, e4m3 := true }
def fpE5M2 : Fmt := { e := 5, m := 2, ieee := true, e4m3 := false }
def fpE3M2 : Fmt := { e := 3, m := 2, ieee := false, e4m3 := false }
def fpE2M3 : Fmt := { e := 2, m := 3, ieee := false, e4m3 := false }
def fpE2M1 : Fmt := { e := 2, m := 1, ieee := false, e4m3 := false }

/-- Bits of a value of the format. -/
def Fmt.width (f : Fmt) : Nat := 1 + f.e + f.m
def Fmt.bias (f : Fmt) : Int := 2 ^ (f.e - 1) - 1
/-- The code of the largest finite magnitude (R61). -/
def Fmt.maxCode (f : Fmt) : Nat :=
  if f.ieee then (2 ^ f.e - 1) * 2 ^ f.m - 1 else if f.e4m3 then 2 ^ (f.e + f.m) - 2 else 2 ^ (f.e + f.m) - 1
/-- The code of +∞ (R62). -/
def Fmt.infCode (f : Fmt) : Nat := (2 ^ f.e - 1) * 2 ^ f.m
/-- The canonical quiet NaN (R63). -/
def Fmt.nanCode (f : Fmt) : Nat := if f.e4m3 then 0x7F else f.infCode + 2 ^ (f.m - 1)
/-- Puts the sign bit on a magnitude code. -/
def Fmt.signed (f : Fmt) (neg : Bool) (code : Nat) : Nat := code + if neg then 2 ^ (f.e + f.m) else 0

/-- What a code stands for (R61, R62); a finite value is (−1)^neg · mant · 2^exp. -/
inductive FVal
  | nan (signalling : Bool)
  | inf (neg : Bool)
  | fin (neg : Bool) (mant : Nat) (exp : Int)
  deriving DecidableEq, Repr

def Fmt.val (f : Fmt) (x : Nat) : FVal :=
  let neg := x.testBit (f.e + f.m)
  let e := x / 2 ^ f.m % 2 ^ f.e
  let m := x % 2 ^ f.m
  if f.ieee && e == 2 ^ f.e - 1 then (if m = 0 then .inf neg else .nan (!m.testBit (f.m - 1)))
  else if f.e4m3 && e == 2 ^ f.e - 1 && m == 2 ^ f.m - 1 then .nan false
  else if e = 0 then .fin neg m (1 - f.bias - f.m)
  else .fin neg (2 ^ f.m + m) (e - f.bias - f.m)

/-! ## Flags (R69) -/

def flNX : Nat := 1
def flUF : Nat := 2
def flOF : Nat := 4
def flDZ : Nat := 8
def flNV : Nat := 16

/-! ## Rounding -/

/-- Whether the magnitude rounds up: mode 0 RNE, 1 RTZ, 2 RUP, 3 RDN; `sig` is the lower candidate, `rem` of `2^r` what it
leaves out (R65). -/
def roundsUp (rm : Nat) (neg : Bool) (sig rem r : Nat) : Bool :=
  if rem = 0 then false
  else match rm with
    | 0 => 2 ^ r < 2 * rem || (2 * rem == 2 ^ r && sig % 2 == 1)
    | 1 => false
    | 2 => !neg
    | _ => neg

/-- mant · 2^exp at quantum 2^q: the rounded multiple, and whether it is inexact. -/
def quantize (rm : Nat) (neg : Bool) (mant : Nat) (exp q : Int) : Nat × Bool :=
  if q ≤ exp then (mant <<< (exp - q).toNat, false)
  else
    let r := (q - exp).toNat
    let sig := mant >>> r
    let rem := mant % 2 ^ r
    (if roundsUp rm neg sig rem r then sig + 1 else sig, rem != 0)

/-- The code and flags of the exact value (−1)^neg · mant · 2^exp in a format; `sat` is the saturation mode of a conversion
(R65, R66, R68). -/
def Fmt.round (f : Fmt) (rm : Nat) (sat neg : Bool) (mant : Nat) (exp : Int) : Nat × Nat :=
  if mant = 0 then (f.signed neg 0, 0)
  else
    let top : Int := Nat.log2 mant + exp
    let emin := 1 - f.bias
    let q := max top emin - f.m
    let (sig, inexact) := quantize rm neg mant exp q
    -- the code grows by one fraction step per unit of `sig`, through subnormals, normals and the carry
    let code := (((q + f.m + f.bias) * 2 ^ f.m : Int) + sig - 2 ^ f.m).toNat
    if f.maxCode < code then
      let inf := if f.ieee then f.signed neg f.infCode else f.nanCode
      let big := f.signed neg f.maxCode
      let r :=
        if !f.ieee && !f.e4m3 then big
        else if sat then big
        else match rm with
          | 0 => inf
          | 1 => big
          | 2 => if neg then big else inf
          | _ => if neg then inf else big
      (r, flOF + flNX)
    else
      let (wide, _) := quantize rm neg mant exp (top - f.m)
      let tiny := (Nat.log2 wide : Int) + (top - f.m) < emin
      (f.signed neg code, if inexact then (if tiny then flUF + flNX else flNX) else 0)

/-- A value whose exact size lies strictly between mant · 2^exp and (mant + 1) · 2^exp, with an odd last bit in its
place. -/
def jam (mant : Nat) (exact : Bool) : Nat := 2 * mant + if exact then 0 else 1

/-! ## Arithmetic -/

/-- Whether an operand raises the invalid flag (R63). -/
def FVal.snan : FVal → Bool
  | .nan s => s
  | _ => false
def FVal.isNan : FVal → Bool
  | .nan _ => true
  | _ => false

/-- Flags and code of a NaN result. -/
def Fmt.nanOut (f : Fmt) (nv : Bool) : Nat × Nat := (f.nanCode, if nv then flNV else 0)

/-- A finite value as a signed integer at exponent `e`, not above its own. -/
def atExp (neg : Bool) (mant : Nat) (exp e : Int) : Int :=
  let n : Int := (mant <<< (exp - e).toNat : Nat)
  if neg then -n else n

/-- The exact sum of two finite values: sign, size and exponent; the sign of an exact zero follows R65. -/
def addFin (rm : Nat) (n1 : Bool) (m1 : Nat) (e1 : Int) (n2 : Bool) (m2 : Nat) (e2 : Int) : Bool × Nat × Int :=
  let e := min e1 e2
  let s := atExp n1 m1 e1 e + atExp n2 m2 e2 e
  if s = 0 then (if n1 = n2 then n1 else rm == 3, 0, e) else (s < 0, s.natAbs, e)

/-- A + B (R119). -/
def Fmt.add (f : Fmt) (rm : Nat) (a b : FVal) : Nat × Nat :=
  match a, b with
  | .nan s, y => f.nanOut (s || y.snan)
  | _, .nan s => f.nanOut s
  | .inf n, .inf k => if n = k then (f.signed n f.infCode, 0) else f.nanOut true
  | .inf n, .fin .. => (f.signed n f.infCode, 0)
  | .fin .., .inf k => (f.signed k f.infCode, 0)
  | .fin n1 m1 e1, .fin n2 m2 e2 =>
    let (n, m, e) := addFin rm n1 m1 e1 n2 m2 e2
    f.round rm false n m e

/-- The negated value. -/
def FVal.neg : FVal → FVal
  | .nan s => .nan s
  | .inf n => .inf !n
  | .fin n m e => .fin (!n) m e

/-- The exact product, or none where it is 0 × ∞ (R119). -/
def FVal.mul (a b : FVal) : Option FVal :=
  match a, b with
  | .nan s, y => some (.nan (s || y.snan))
  | x, .nan s => some (.nan (s || x.snan))
  | .inf n, .inf k => some (.inf (n != k))
  | .inf n, .fin k m _ => if m = 0 then none else some (.inf (n != k))
  | .fin n m _, .inf k => if m = 0 then none else some (.inf (n != k))
  | .fin n m e, .fin k p d => some (.fin (n != k) (m * p) (e + d))

/-- A × B (R119). -/
def Fmt.mul (f : Fmt) (rm : Nat) (a b : FVal) : Nat × Nat :=
  match a.mul b with
  | none => f.nanOut true
  | some (.nan s) => f.nanOut s
  | some (.inf n) => (f.signed n f.infCode, 0)
  | some (.fin n m e) => f.round rm false n m e

/-- A × B + D, rounded once; 0 × ∞ is invalid whatever D is (R119). -/
def Fmt.fma (f : Fmt) (rm : Nat) (a b d : FVal) : Nat × Nat :=
  match a.mul b with
  | none => f.nanOut true
  | some (.nan s) => f.nanOut (s || d.snan)
  | some p => f.add rm p d

/-- A / B (R121). -/
def Fmt.div (f : Fmt) (rm : Nat) (a b : FVal) : Nat × Nat :=
  match a, b with
  | .nan s, y => f.nanOut (s || y.snan)
  | _, .nan s => f.nanOut s
  | .inf _, .inf _ => f.nanOut true
  | .inf n, .fin k _ _ => (f.signed (n != k) f.infCode, 0)
  | .fin n _ _, .inf k => (f.signed (n != k) 0, 0)
  | .fin n m e, .fin k p d =>
    if p = 0 then (if m = 0 then f.nanOut true else (f.signed (n != k) f.infCode, flDZ))
    else if m = 0 then (f.signed (n != k) 0, 0)
    else
      let s := Nat.log2 p + f.m + 4
      let num := m <<< s
      f.round rm false (n != k) (jam (num / p) (num % p == 0)) (e - d - s - 1)

/-- The integer square root by bits, `i` bits still to try. -/
def isqrtGo (n : Nat) : Nat → Nat → Nat
  | 0, r => r
  | i + 1, r =>
    let c := r + 2 ^ i
    isqrtGo n i (if c * c ≤ n then c else r)
/-- The integer square root. -/
def isqrt (n : Nat) : Nat := isqrtGo n (Nat.log2 n / 2 + 1) 0

/-- √x (R125). -/
def Fmt.sqrt (f : Fmt) (rm : Nat) (a : FVal) : Nat × Nat :=
  match a with
  | .nan s => f.nanOut s
  | .inf n => if n then f.nanOut true else (f.infCode, 0)
  | .fin n m e =>
    if m = 0 then (f.signed n 0, 0)
    else if n then f.nanOut true
    else
      let s := 2 * (f.m + 4) + if (e % 2) = 0 then 0 else 1
      let x := m <<< s
      let r := isqrt x
      f.round rm false false (jam r (r * r == x)) ((e - s) / 2 - 1)

/-- 1/√x (R125). -/
def Fmt.rsqrt (f : Fmt) (rm : Nat) (a : FVal) : Nat × Nat :=
  match a with
  | .nan s => f.nanOut s
  | .inf n => if n then f.nanOut true else (0, 0)
  | .fin n m e =>
    if m = 0 then (f.signed n f.infCode, flDZ)
    else if n then f.nanOut true
    else
      -- m · 2^e with an even exponent; r = ⌊2^k / √m'⌋
      let (m', e') := if e % 2 = 0 then (m, e) else (2 * m, e - 1)
      let k := Nat.log2 m' + f.m + 4
      let r := isqrt (2 ^ (2 * k) / m')
      f.round rm false false (jam r (r * r * m' == 2 ^ (2 * k))) (-(e' / 2) - k - 1)

/-- Order of two values that are no NaN: −0 below +0 where `zeros`, equal otherwise. -/
def FVal.le (zeros : Bool) (a b : FVal) : Bool :=
  match a, b with
  | .inf n, .inf k => n || !k
  | .inf n, _ => n
  | _, .inf k => !k
  | .fin n1 m1 e1, .fin n2 m2 e2 =>
    let e := min e1 e2
    let x := atExp n1 m1 e1 e
    let y := atExp n2 m2 e2 e
    if zeros && m1 == 0 && m2 == 0 then n1 || !n2 else decide (x ≤ y)
  | _, _ => false

/-- FMIN, FMAX (R120): the code and flags. -/
def Fmt.minmax (f : Fmt) (max_ : Bool) (x y : Nat) : Nat × Nat :=
  let a := f.val x
  let b := f.val y
  let nv := if a.snan || b.snan then flNV else 0
  match a.isNan, b.isNan with
  | true, true => (f.nanCode, nv)
  | true, false => (y, nv)
  | false, true => (x, nv)
  | false, false => (if a.le true b then (if max_ then y else x) else (if max_ then x else y), 0)

/-- A relation of R123 by its code, and whether NV is set. -/
def fcompare (cond : Nat) (a b : FVal) : Bool × Bool :=
  let un := a.isNan || b.isNan
  let sn := a.snan || b.snan
  let le := a.le false b
  let ge := b.le false a
  match cond with
  | 0 => (!un && le && ge, sn)
  | 1 => (un || !(le && ge), sn)
  | 2 => (!un && le && !ge, un)
  | 3 => (!un && le, un)
  | 4 => (!un && ge && !le, un)
  | 5 => (!un && ge, un)
  | 6 => (un, sn)
  | _ => (!un, sn)

/-- The class mask of R124. -/
def Fmt.classOf (f : Fmt) (x : Nat) : Nat :=
  match f.val x with
  | .nan s => if s then 2 ^ 8 else 2 ^ 9
  | .inf n => if n then 2 ^ 0 else 2 ^ 7
  | .fin n m _ =>
    if m = 0 then (if n then 2 ^ 3 else 2 ^ 4)
    else if m < 2 ^ f.m then (if n then 2 ^ 2 else 2 ^ 5)
    else (if n then 2 ^ 1 else 2 ^ 6)

/-- A × 2^n (R122). A power beyond 5,000 takes every value of every format past its range, as 5,000 does. -/
def Fmt.scale (f : Fmt) (rm : Nat) (a : FVal) (n : Int) : Nat × Nat :=
  match a with
  | .nan s => f.nanOut s
  | .inf n => (f.signed n f.infCode, 0)
  | .fin s m e => f.round rm false s m (e + max (-5000) (min 5000 n))

/-- A finite value rounded to an integer (R122, R128): its size, and whether it changed. -/
def toIntegral (rm : Nat) (neg : Bool) (m : Nat) (e : Int) : Nat × Bool := quantize rm neg m e 0

/-- FRND (R122). -/
def Fmt.rnd (f : Fmt) (rm : Nat) (x : Nat) : Nat × Nat :=
  match f.val x with
  | .nan s => f.nanOut s
  | .inf n => (f.signed n f.infCode, 0)
  | .fin n m e =>
    if 0 ≤ e then (x, 0)
    else
      let (k, ch) := toIntegral rm n m e
      ((f.round 0 false n k 0).1, if ch then flNX else 0)

/-! ## Transcendentals (R125)

The exact result is irrational wherever it is not one of the exact cases below, so a value with its tail jammed rounds as
the real one does once enough bits stand before the jam. The series are carried to 640 bits; what that rests on is log
10. -/

/-- Fraction bits of the fixed-point numbers below. -/
def fixP : Nat := 640

/-- Sum of x^(2i+1) / (2i+1) with alternating or equal signs: arctan or artanh of 1/q. -/
def atanGo (alt : Bool) (qq : Nat) : Nat → Nat → Nat → Bool → Int
  | 0, _, _, _ => 0
  | fuel + 1, term, k, neg =>
    if term = 0 then 0
    else
      let t : Int := (term / k : Nat)
      (if neg then -t else t) + atanGo alt qq fuel (term / qq) (k + 2) (alt && !neg)

/-- π at 640 fraction bits, 16 arctan(1/5) − 4 arctan(1/239). -/
def fixPi : Nat :=
  ((16 * atanGo true 25 400 (2 ^ (fixP + 16) / 5) 1 false
    - 4 * atanGo true (239 * 239) 400 (2 ^ (fixP + 16) / 239) 1 false) / 2 ^ 16).toNat
/-- ln 2 = 2 artanh(1/3). -/
def fixLn2 : Nat := ((2 * atanGo false 9 400 (2 ^ (fixP + 16) / 3) 1 false) / 2 ^ 16).toNat

/-- e^x − 1 for fixed-point x in [0, 1): the terms x^k / k!. -/
def expGo (x : Nat) : Nat → Nat → Nat → Nat
  | 0, _, _ => 0
  | fuel + 1, term, k => if term = 0 then 0 else term + expGo x fuel (term * x / 2 ^ fixP / (k + 1)) (k + 1)

/-- 2^x for finite x = ±m · 2^e that is no integer: size and exponent of the jammed result. -/
def exp2Fix (neg : Bool) (m : Nat) (e : Int) : Nat × Int :=
  -- x at 640 fraction bits; beyond ±2,000 every format overflows or is below half its smallest value
  let big := (Nat.log2 m : Int) + e > 11
  if big then (jam (2 ^ 600) false, if neg then -3000 - 600 else 3000 - 600)
  else
    let n : Nat := if 0 ≤ e + fixP then m <<< (e + fixP).toNat else m >>> (-(e + fixP)).toNat
    let x : Int := if neg then -(n : Int) else n
    let i := x / 2 ^ fixP
    let fr := (x % (2 ^ fixP : Nat)).toNat
    let y := fr * fixLn2 / 2 ^ fixP
    -- a tail below the last fraction bit still lifts the result above the power of two
    (jam (2 ^ fixP + expGo y 400 y 1) false, i - fixP - 1)

/-- log2 of m · 2^e, m no power of two: sign, size and exponent of the jammed result. -/
def log2Fix (m : Nat) (e : Int) : Bool × Nat × Int :=
  let l := Nat.log2 m
  let p := fixP + 16
  -- z = (y − 1)/(y + 1), y = m / 2^l in (1, 2); ln y = 2 artanh z
  let z := ((m - 2 ^ l) <<< p) / (m + 2 ^ l)
  let rec go : Nat → Nat → Nat → Nat
    | 0, _, _ => 0
    | fuel + 1, t, k => if t = 0 then 0 else t / k + go fuel (t * z / 2 ^ p * z / 2 ^ p) (k + 2)
  let ln := 2 * go 400 z 1 / 2 ^ 16
  let fr := (ln <<< fixP) / fixLn2
  let v : Int := (l + e) * 2 ^ fixP + fr
  if v < 0 then (true, jam ((-v).toNat - 1) false, -(fixP : Int) - 1) else (false, jam v.toNat false, -(fixP : Int) - 1)

/-- sin or cos of a fixed-point angle in [0, π/2) by its series from x^k / k!. -/
def trigGo (xx : Nat) : Nat → Nat → Nat → Bool → Int
  | 0, _, _, _ => 0
  | fuel + 1, term, k, neg =>
    if term = 0 then 0
    else (if neg then -(term : Int) else (term : Int)) +
      trigGo xx fuel (term * xx / 2 ^ fixP / ((k + 1) * (k + 2))) (k + 2) !neg

/-- sin (`cos` false) or cos of ±m · 2^e ≠ 0: sign, size and exponent of the jammed result. The argument is reduced by
the quarter turns of a π with as many bits as the F32 range needs (R125). -/
def trigFix (cos neg : Bool) (m : Nat) (e : Int) : Bool × Nat × Int :=
  let x : Nat := if 0 ≤ e + fixP then m <<< (e + fixP).toNat else m >>> (-(e + fixP)).toNat
  let half := fixPi / 2
  let q := x / half
  let r := x % half
  let rr := r * r / 2 ^ fixP
  let useCos := cos == (q % 2 == 0)
  let v := if useCos then trigGo rr 400 (2 ^ fixP) 0 false else trigGo rr 400 r 1 false
  -- signs by quarter turn: sin + + − −, cos + − − +
  let minus := if cos then q % 4 == 1 || q % 4 == 2 else (q % 4 == 2 || q % 4 == 3) != neg
  (minus, jam v.toNat false, -(fixP : Int) - 1)

/-- FEXP2 (R125). -/
def Fmt.exp2 (f : Fmt) (rm : Nat) (a : FVal) : Nat × Nat :=
  match a with
  | .nan s => f.nanOut s
  | .inf n => (if n then 0 else f.infCode, 0)
  | .fin n m e =>
    if m = 0 then f.round rm false false 1 0
    else
      let (k, ch) := toIntegral 1 n m e
      if !ch then f.round rm false false 1 (if n then -(min k 5000 : Nat) else (min k 5000 : Nat))
      else
        let (v, ex) := exp2Fix n m e
        f.round rm false false v ex

/-- FLOG2 (R125). -/
def Fmt.log2 (f : Fmt) (rm : Nat) (a : FVal) : Nat × Nat :=
  match a with
  | .nan s => f.nanOut s
  | .inf n => if n then f.nanOut true else (f.infCode, 0)
  | .fin n m e =>
    if m = 0 then (f.signed true f.infCode, flDZ)
    else if n then f.nanOut true
    else if m = 2 ^ Nat.log2 m then
      let v : Int := Nat.log2 m + e
      f.round rm false (v < 0) v.natAbs 0
    else
      let (s, v, ex) := log2Fix m e
      f.round rm false s v ex

/-- FSIN, FCOS in F32, under RNE (R125). -/
def Fmt.trig (f : Fmt) (cos : Bool) (a : FVal) : Nat × Nat :=
  match a with
  | .nan s => f.nanOut s
  | .inf _ => f.nanOut true
  | .fin n m e =>
    if m = 0 then (if cos then f.round 0 false false 1 0 else (f.signed n 0, 0))
    else
      let (s, v, ex) := trigFix cos n m e
      f.round 0 false s v ex

/-! ## Elements of memory operations (09 R221, R236, R241; 03 R80: always RNE) -/

def floatBits (f : Fmt) (op : MemOp) (x y : Nat) : Nat :=
  match op with
  | .fadd => (f.add 0 (f.val x) (f.val y)).1
  | .fmul => (f.mul 0 (f.val x) (f.val y)).1
  | .fmin => (f.minmax false x y).1
  | _ => (f.minmax true x y).1

/-- A floating-point element operation: FP32, FP64 by size, or a BF16 pair. -/
def floatElem (op : MemOp) (ty : ElemTy) (size : Nat) (a b : DWord) : DWord :=
  let x := a.toNat
  let y := b.toNat
  BitVec.ofNat 64 (match ty with
    | .bf16x2 => floatBits bf16 op (x % 2 ^ 16) (y % 2 ^ 16)
                  + 2 ^ 16 * floatBits bf16 op (x / 2 ^ 16 % 2 ^ 16) (y / 2 ^ 16 % 2 ^ 16)
    | _ => if size = 8 then floatBits fp64 op x y else floatBits fp32 op (x % 2 ^ 32) (y % 2 ^ 32))

end Sys2Proof.Machine
end

