-- ==== Sys2Proof/Machine/Elem.lean ====
section
/-!
DEFINITION. Machine/Elem.lean: the element operations of atomics, reductions and updates (09 R221, R236, R241, R244):
what a memory element becomes. Floating-point elements follow Float.lean.
-/
namespace Sys2Proof.Machine

/-- The new value of an element of `size` bytes that holds `old`, under operand `v` and, for CAS, new value `c`
(09 R241, R236). -/
def elemOp (op : MemOp) (ty : ElemTy) (size : Nat) (old v c : DWord) : DWord :=
  let w := 8 * size
  let o := old.toNat % 2 ^ w
  let x := v.toNat % 2 ^ w
  let mk := fun (n : Nat) => BitVec.ofNat 64 (n % 2 ^ w)
  match op with
  | .add => mk (o + x)
  | .swap | .st => mk x
  | .cas => if o = x then mk c.toNat else mk o
  | .and => mk (o &&& x)
  | .or => mk (o ||| x)
  | .xor => mk (o ^^^ x)
  | .min => if sgn w x < sgn w o then mk x else mk o
  | .max => if sgn w o < sgn w x then mk x else mk o
  | .minn => mk (min o x)
  | .maxn => mk (max o x)
  | .ld => mk o
  | .fadd | .fmul | .fmin | .fmax => floatElem op ty size (mk o) (mk x)

end Sys2Proof.Machine
end

