-- ==== Sys2Proof/Config.lean ====
section
/-!
DEFINITION. Config.lean: what one device fixes and the spec does not give. Every constant is opaque: nothing in Lean can
evaluate one or prove a value of it, so a theorem about the model holds for every value.
-/
namespace Sys2Proof.Config

/-- The n-th free truth value: which of two allowed outcomes the device takes (log 2: R43, R86, R217, R314). -/
opaque freeBool : Nat → Bool
/-- The n-th free number: the device's choice among free table entries, context numbers and threads (log 2: R269). -/
opaque freeNat : Nat → Nat
/-- The n-th unpredictable value (R8; log 2). -/
opaque freeWord : Nat → DWord

/-- Whether an access at a clock to a virtual address in a 2 MiB run is translated through the run's first entry (11 R284; log
71). -/
opaque wholeRun : Nat → Nat → Bool

/-- What `SLOT` reads as in a register that holds a thread's trap slot: the spec gives its borrow no table entry (08 R189; log
2). -/
opaque trapSlot : BitVec 16

/-- The fields of a 64-byte chunk descriptor: enable, base, sectors, reserve. The spec gives no bit of it a place (11
R290; log 31). -/
opaque chunkFields : BitVec 512 → Bool × Nat × Nat × Nat

/-- SHAKE256 of a message, `n` output bytes (17 R420, R427; an external standard, log 12). -/
opaque shake256 : List Byte → Nat → List Byte
/-- SLH-DSA-SHAKE-256s verification: key, message, signature (17 R420; log 12). -/
opaque slhVerify : List Byte → List Byte → List Byte → Bool
/-- The SLH-DSA-SHAKE-256s signature of a message by a private key (17 R421, R427; log 12). -/
opaque slhSign : List Byte → List Byte → List Byte
/-- The identity secret that the fuses hold, and the private identity key (17 R421). -/
opaque identitySecret : List Byte
opaque identityKey : List Byte
/-- The attestation key pair, private and public, that the ROM derives from the identity secret and an image's digest (17 R421; log
12). -/
opaque deriveKey : List Byte → List Byte → List Byte × List Byte
/-- What a certificate of a public key says, before its signature (17 R421; log 12). -/
opaque certBody : List Byte → List Byte
/-- The certificate of the identity key, from flash (17 R421). -/
opaque identityCert : List Byte
/-- The digest of the firmware key that the fuses hold (17 R420). -/
opaque keyDigest : List Byte
/-- The serial number of the package, 16 bytes (17 R427). -/
opaque serial : List Byte
end Sys2Proof.Config
end

