-- ==== Sys2Proof/Machine/Ops.lean ====
section
/-!
DEFINITION. Machine/Ops.lean: the named operations over the state: threads and registers, system registers, physical
addresses (16 R406, R413), translation (11 R282-R286), memory at its home, faults and trap entry (15 R371-R384).
-/
namespace Sys2Proof.Machine

/-! ## Empty values -/

/-- The empty region register: 0 in every field (08 R187). -/
def Region.empty : Region :=
  { kind := 0, space := 0, splitp := false, taint := false, lost := false, wpseen := false, save := false, nsplit := 0, child := 0,
    parent := 0, slot := 0, lenm1 := 0, base := 0 }

/-- A core after reset: empty queues and tables, rank tables 0x0000 (11 R296). -/
def Core.reset : Core :=
  { scratchTab := [], room := [], log := [], array := [], tile := [], rank := [], copies := [], att := [], recon := [],
    pmc := List.replicate 8 0, pmcfg := List.replicate 8 0, lastFront := 0 }

/-- A stream after training: SEQ 0 at both ends (log 9). -/
def Stream.reset : Stream :=
  { tx := 0, buf := [], queue := [], rx := 0, early := [], discard := none, unacked := 0 }

/-! ## Fields of the state -/

def State.core (s : State) (c : Nat) : Core := (kget s.cores c).getD Core.reset
def State.updCore (s : State) (c : Nat) (f : Core → Core) : State := { s with cores := kset s.cores c (f (s.core c)) }
def State.cd (s : State) (d : Nat) : Cd := s.cds.getD d Cd.reset
def State.updCd (s : State) (d : Nat) (f : Cd → Cd) : State := { s with cds := lset s.cds d f }
/-- Home `h`: a memory-side die 0-15, or 16 for the proxy table on MD0. -/
def State.md (s : State) (h : Nat) : Md := if h = 16 then s.proxy else s.mds.getD h Md.reset
def State.updMd (s : State) (h : Nat) (f : Md → Md) : State :=
  if h = 16 then { s with proxy := f s.proxy } else { s with mds := lset s.mds h f }
def State.blk? (s : State) (b : Nat) : Option Block := kget s.blocks b
def State.updBlk (s : State) (b : Nat) (f : Block → Block) : State := { s with blocks := kupd s.blocks b f }
def State.setPkg (s : State) (f : Pkg → Pkg) : State := { s with pkg := f s.pkg }
def State.stream (s : State) (k : Nat) : Stream := (kget s.streams k).getD Stream.reset
def State.updStream (s : State) (k : Nat) (f : Stream → Stream) : State :=
  { s with streams := kset s.streams k (f (s.stream k)) }

/-- Makes a step due. -/
def State.post (s : State) (i : Event) : State := { s with inbox := s.inbox ++ [i] }
def State.postAll (s : State) (is : List Event) : State := { s with inbox := s.inbox ++ is }
def State.emit (s : State) (o : Output) : State := { s with out := o :: s.out }

/-- The i-th free value of the n-th choice: every pair has a number of its own. -/
def nth (n i : Nat) : Nat := 2 ^ i * (2 * n + 1)
/-- The next free value's index, and the state after taking it. -/
def State.takeFree (s : State) : Nat × State := (s.free, { s with free := s.free + 1 })
/-- A number of the model's own for a block, command or gang. -/
def State.takeFresh (s : State) : Nat × State := (s.fresh, { s with fresh := s.fresh + 1 })

/-- One of a list, of the device's choice. -/
def State.pickOne {α : Type} (s : State) (l : List α) : Option α × State :=
  if l.isEmpty then (none, s)
  else
    let (n, s) := s.takeFree
    (l[Config.freeNat (nth n 0) % l.length]?, s)

/-- Package-wide number of a block's core. -/
def Block.coreIx (b : Block) : Nat := 128 * b.die + b.core
/-- Package-wide number of a core's hardware cluster (01 R15). -/
def clusterOf (core : Nat) : Nat := core / 8

/-! ## Threads -/

def Block.thread? (b : Block) (warp : Nat) (armE : Bool) : Option Thread :=
  if warp = 32 then some b.front.th
  else (b.warps[warp]?).map (fun w => if armE then w.e else w.t)

def Block.updWarp (b : Block) (w : Nat) (f : Warp → Warp) : Block := { b with warps := lset b.warps w f }

def Block.updThread (b : Block) (warp : Nat) (armE : Bool) (f : Thread → Thread) : Block :=
  if warp = 32 then { b with front := { b.front with th := f b.front.th } }
  else b.updWarp warp (fun w => if armE then { w with e := f w.e } else { w with t := f w.t })

def State.thread? (s : State) (t : ThreadRef) : Option Thread := (s.blk? t.blk).bind (fun b => b.thread? t.warp t.armE)
def State.updThread (s : State) (t : ThreadRef) (f : Thread → Thread) : State :=
  s.updBlk t.blk (fun b => b.updThread t.warp t.armE f)
def State.updWarp (s : State) (t : ThreadRef) (f : Warp → Warp) : State :=
  s.updBlk t.blk (fun b => b.updWarp t.warp f)
def State.updFront (s : State) (b : Nat) (f : Front → Front) : State :=
  s.updBlk b (fun x => { x with front := f x.front })

def Block.mapThreads (b : Block) (f : Thread → Thread) : Block :=
  { b with warps := b.warps.map (fun w => { w with t := f w.t, e := f w.e }), front := { b.front with th := f b.front.th } }

/-- A block starts: its threads are ready from this clock on (08 R189; 12 R307, R312). -/
def State.begin (s : State) (bk : Nat) : State :=
  s.updBlk bk (fun b => { b.mapThreads (fun th => { th with readyAt := s.clock }) with started := true })

/-- Every thread of a block changes, by warp (32 for the front thread) and arm. -/
def Block.mapNamed (b : Block) (f : Nat → Bool → Thread → Thread) : Block :=
  { b with warps := ((List.range b.warps.length).zip b.warps).map (fun x =>
             { x.2 with t := f x.1 false x.2.t, e := f x.1 true x.2.e })
           front := { b.front with th := f 32 false b.front.th } }

/-- Every live thread of a block. -/
def Block.threads (b : Block) : List (Nat × Bool × Thread) :=
  ((List.range b.warps.length).flatMap (fun w =>
    match b.warps[w]? with
    | some x => (if x.t.live then [(w, false, x.t)] else []) ++ (if x.split && x.e.live then [(w, true, x.e)] else [])
    | none => [])) ++ (if b.front.th.live then [(32, false, b.front.th)] else [])

/-- Warps of the block that have not exited. -/
def Block.liveWarps (b : Block) : Word :=
  maskOf ((List.range b.warps.length).filter (fun w => ((b.warps[w]?).map (fun x => x.exited != 0xFFFF_FFFF)).getD false))

/-- A thread's new wait. -/
def State.setHold (s : State) (t : ThreadRef) (h : Option Hold) : State := s.updThread t (fun th => { th with hold := h })

/-- A thread becomes ready: its wait ends (12 R312). -/
def State.unhold (s : State) (t : ThreadRef) : State :=
  s.updThread t (fun th => { th with hold := none, readyAt := s.clock })

/-- The answer of a waiting thread's instruction comes. -/
def State.answer (s : State) (t : ThreadRef) (vals : List DWord) : State :=
  s.updThread t (fun th => { th with hold := th.hold.map (fun h => { h with answer := some vals }) })

/-- Whether what thread `u` issued under the number `id` stands in the program order of thread `t`: its own, or what its
warp issued before it last split or merged (10 R250). -/
def State.orderedBy (s : State) (t u : ThreadRef) (id : Nat) : Bool :=
  u == t || (u.blk == t.blk && u.warp == t.warp
    && (((s.blk? t.blk).bind (fun b => b.warps[t.warp]?)).map (fun w => decide (id < w.since))).getD false)

/-! ## Registers -/

def Warp.vget (w : Warp) (r lane : Nat) : Word := cget w.v (32 * r + lane)
def Warp.vset (w : Warp) (r lane : Nat) (x : Word) : Warp := { w with v := cset w.v (32 * r + lane) x }
def Front.sget (f : Front) (r : Nat) : DWord := cget f.s r
def Front.sset (f : Front) (r : Nat) (x : DWord) : Front := { f with s := cset f.s r x }
def Warp.kreg (w : Warp) (i : Nat) : Word := w.k.getD i 0

/-- A region register of a thread: `G` of a warp, `B` of the front thread (02 R40). -/
def Block.region (b : Block) (warp r : Nat) : Region :=
  if warp = 32 then (kget b.front.b r).getD Region.empty
  else ((b.warps[warp]?).bind (fun w => kget w.g r)).getD Region.empty

/-- Writes a region register; the empty register is unlisted. -/
def Block.setRegion (b : Block) (warp r : Nat) (x : Region) : Block :=
  let put (m : KMap Region) : KMap Region := if x = Region.empty then kdel m r else kset m r x
  if warp = 32 then { b with front := { b.front with b := put b.front.b } }
  else b.updWarp warp (fun w => { w with g := put w.g })

/-- Writes of returning data (04 R82, 06 R153). -/
def applyWrite (b : Block) (warp : Nat) (w : RegWrite) : Block :=
  if w.front then { b with front := b.front.sset w.reg w.val }
  else b.updWarp warp (fun x => x.vset w.reg w.lane (w.val.setWidth 32))

/-- B registers of a MATRIX warp that writes reach while an array instruction holds them (07 R169). -/
def Block.spoiled (b : Block) (warp : Nat) (ws : List RegWrite) : List Nat :=
  match b.warps[warp]? with
  | some w =>
    if w.role = .matrix then
      ((ws.filter (fun x => !x.front && b.bheld.any (fun h => decide (h.2.1 ≤ x.reg ∧ x.reg < h.2.1 + h.2.2)))).map (·.reg)).dedup
    else []
  | none => []

/-- The written lanes of a held register take unpredictable values (07 R169, 04 R82); no other lane changes (R8). -/
def State.spoil (s : State) (t : ThreadRef) (r : Nat) (ws : List RegWrite) : State :=
  let (n, s) := s.takeFree
  s.updBlk t.blk (fun b => b.updWarp t.warp (fun w =>
    (ws.filter (fun x => !x.front && x.reg == r)).foldl (fun w x =>
      w.vset r x.lane ((Config.freeWord (nth n x.lane)).setWidth 32)) w))

/-- Register writes of a thread take effect; a lane of a held B register that is written becomes unpredictable from then on
(07 R169). -/
def State.applyWrites (s : State) (t : ThreadRef) (ws : List RegWrite) : State :=
  let spoiled := ((s.blk? t.blk).map (fun b => b.spoiled t.warp ws)).getD []
  spoiled.foldl (fun s r => s.spoil t r ws) (s.updBlk t.blk (fun b => ws.foldl (fun b w => applyWrite b t.warp w) b))

/-! ## System registers -/

/-- Reset values of the compute-die registers (16 R412-R414; every other one is 0). -/
def cdRegReset (num : Nat) : DWord :=
  if num = 0x300 then 0xF007_0420_0000_0000
  else if num = 0x301 then 0xFEDC_BA98_7654_3210
  else if num = 0x303 then 3
  else if num = 0x305 then 1
  else 0

def State.cdReg (s : State) (d num : Nat) : DWord := (kget (s.cd d).regs num).getD (cdRegReset num)
/-- Sets a compute-die register; the map lists only values that differ from reset. -/
def State.setCdReg (s : State) (d num : Nat) (v : DWord) : State :=
  s.updCd d (fun c => { c with regs := if v = cdRegReset num then kdel c.regs num else kset c.regs num v })
def State.addCdReg (s : State) (d num : Nat) : State := s.setCdReg d num (s.cdReg d num + 1)

/-- Adds 1 to a counter of a module or port counter block (16 R400). -/
def State.bump (s : State) (ctr i : Nat) : State :=
  let l := (kget s.modCtr ctr).getD (List.replicate 8 0)
  { s with modCtr := kset s.modCtr ctr (lset l i (· + 1)) }

/-- Key of a die in stream, filter and module maps. -/
def dieIx : DieId → Nat
  | .cd n => n
  | .md n => 8 + n

/-! ## Partitions and physical addresses -/

/-- Columns of the partition that die `d` belongs to (16 R412; 17 R423 in minimal mode). -/
def State.cols (s : State) (d : Nat) : Nat := if s.pkg.minimal then 1 else fld (s.cdReg d 0x300) 63 60
/-- log2 of the interleave granule (16 R412). -/
def State.granule (s : State) (d : Nat) : Nat := 14 + fld (s.cdReg d 0x300) 51 48
/-- Die-shared eighths (16 R412). -/
def State.eighths (s : State) (d : Nat) : Nat := fld (s.cdReg d 0x300) 47 44
/-- Memory-side dies of the partition (16 R406, R411; one in minimal mode, 17 R423). -/
def State.mdCount (s : State) (d : Nat) : Nat :=
  if s.pkg.minimal then 1 else 4 * ((List.range 4).filter (fun c => (s.cols d).testBit c)).length
/-- Compute dies of the partition of `d`, in increasing order (01 R13, 16 R411; 17 R423). -/
def State.partDies (s : State) (d : Nat) : List Nat :=
  if s.pkg.minimal then [s.pkg.mdie] else (List.range 8).filter (fun n => (s.cols d).testBit (n % 4))
/-- The column of a memory-side die (01 R13). -/
def mdColumn (m : Nat) : Nat := (m % 8) / 2
/-- Memory-side dies of the partition. -/
def State.partMds (s : State) (d : Nat) : List Nat :=
  if s.pkg.minimal then [0] else (List.range 16).filter (fun m => (s.cols d).testBit (mdColumn m))

/-- XOR of the nibbles of a number (16 R413). -/
def nibbleXor : Nat → Nat → Nat
  | 0, _ => 0
  | n + 1, q => (q % 16) ^^^ nibbleXor n (q / 16)

/-- Places of the memory keys: 0-15 the stacks, 16 host memory, 17 pool memory, 18 + d package d. -/
def placeKey (place a : Nat) : Nat := place * 2 ^ 48 + a
def keyPlace (k : Nat) : Nat := k / 2 ^ 48
def keyAddr (k : Nat) : Nat := k % 2 ^ 48

/-- The memory key of a physical address seen from compute die `d`, or none where the map has no target (16 R406,
R413). -/
def State.paKey (s : State) (d pa : Nat) : Option Nat :=
  let n := s.mdCount d
  if pa < n * 98048 * 2 ^ 20 then
    let g := s.granule d
    let q := pa >>> g
    let m := (fld (s.cdReg d 0x301) 63 0 >>> (4 * (nibbleXor 16 q % n))) % 16
    some (placeKey m (((q / n) <<< g) + pa % 2 ^ g))
  else if pa >>> 48 = 1 then some (placeKey 16 (pa % 2 ^ 48))
  else if pa >>> 48 = 2 then some (placeKey 17 (pa % 2 ^ 48))
  else if pa >>> 49 = 4 then
    let dev := (pa >>> 41) % 2 ^ 8
    if dev = fld s.pkg.devno 7 0 ∧ pa % 2 ^ 41 < n * 98048 * 2 ^ 20 then
      let p := pa % 2 ^ 41
      let g := s.granule d
      let q := p >>> g
      let m := (fld (s.cdReg d 0x301) 63 0 >>> (4 * (nibbleXor 16 q % n))) % 16
      some (placeKey m (((q / n) <<< g) + p % 2 ^ g))
    else if dev = fld s.pkg.devno 7 0 then none
    else some (placeKey (18 + dev) (pa % 2 ^ 41))
  else none

/-- The home of a memory key: a memory-side die, the proxy table (16), or 17 + d for package d (08 R193, 11 R272). -/
def keyHome (k : Nat) : Nat :=
  let p := keyPlace k
  if p < 16 then p else if p < 18 then 16 else p - 1

/-- The die that a message for a home goes to (01 R14, 16 R410): for another package, the port's memory-side die of
the sender's PORTMAP. -/
def State.homeDie (s : State) (d home : Nat) : DieId :=
  if home < 16 then .md home else if home = 16 then .md 0
  else .md ((cget (s.cd d).portmap (home - 17)).toNat % 16)

/-! ## Routes and modules -/

/-- One compute-die step along a row towards a column (01 R14). -/
def rowStep (n col : Nat) : Nat := if n % 4 < col then n + 1 else n - 1

/-- Dies of the way along a row from compute die `n` to column `col`, `n` left out. -/
def rowPath : Nat → Nat → Nat → List DieId
  | 0, _, _ => []
  | fuel + 1, n, col => if n % 4 = col then [] else .cd (rowStep n col) :: rowPath fuel (rowStep n col) col

/-- The route of a message, source and target included (01 R14). -/
def route : DieId → DieId → List DieId
  | .cd a, .cd b => .cd a :: rowPath 4 a (b % 4) ++ (if a / 4 = b / 4 then [] else [.cd b])
  | .cd a, .md m => .cd a :: rowPath 4 a (mdColumn m) ++ [.md m]
  | .md m, .cd a => .md m :: (.cd (4 * (a / 4) + mdColumn m)) :: rowPath 4 (4 * (a / 4) + mdColumn m) (a % 4)
  | .md m, .md n => if m = n then [.md m] else
      .md m :: (.cd (mdColumn m)) :: rowPath 4 (mdColumn m) (mdColumn n) ++ [.md n]

/-- The die after `here` on the way to `dst`. -/
def nextHop (here dst : DieId) : Option DieId := (route here dst)[1]?

/-- The memory-side dies of a column in increasing order (01 R13). -/
def columnMds (c : Nat) : List Nat := [2 * c, 2 * c + 1, 8 + 2 * c, 9 + 2 * c]
/-- The compute neighbours of a compute die in increasing order (01 R13). -/
def cdNeighbours (n : Nat) : List Nat :=
  (List.range 8).filter (fun k => (k / 4 = n / 4 ∧ (k + 1 = n ∨ n + 1 = k)) ∨ (k % 4 = n % 4 ∧ k ≠ n))

/-- The index of the link of a die towards a neighbour (16 R392). -/
def linkIx : DieId → DieId → Option Nat
  | .cd a, .md m => (columnMds (a % 4)).idxOf? m
  | .cd a, .cd b => ((cdNeighbours a).idxOf? b).map (4 + ·)
  | .md m, .cd a => if a % 4 = mdColumn m then some (a / 4) else none
  | .md _, .md _ => none

/-- The die at the other end of a link (16 R392). -/
def linkPeer : DieId → Nat → Option DieId
  | .cd a, i => if i < 4 then ((columnMds (a % 4))[i]?).map .md else ((cdNeighbours a)[i - 4]?).map .cd
  | .md m, i => if i < 2 then some (.cd (4 * i + mdColumn m)) else none

/-- LKST of a module (16 R399). -/
def State.lkst (s : State) (d : DieId) (m : Nat) : DWord :=
  match d with
  | .cd n => (kget (s.cd n).modules m).getD 0
  | .md n => (kget (s.md n).modules m).getD 0
def State.setLkst (s : State) (d : DieId) (m : Nat) (v : DWord) : State :=
  let put (k : KMap DWord) : KMap DWord := if v = 0 then kdel k m else kset k m v
  match d with
  | .cd n => s.updCd n (fun c => { c with modules := put c.modules })
  | .md n => s.updMd n (fun c => { c with modules := put c.modules })

/-- State of a module: 0 DOWN, 1 TRAIN, 2 L0, 3 L0N, 4 L1S, 5 WAKE, 6 RETRAIN (16 R399). -/
def State.modState (s : State) (d : DieId) (m : Nat) : Nat := fld (s.lkst d m) 63 61

/-- Whether a link has left DOWN and TRAIN: a flit sent on it is carried, at once or after a wake (16 R397, R398). -/
def State.linkUp (s : State) (a b : DieId) : Bool :=
  match linkIx a b with
  | some i => s.modState a (2 * i) ≥ 2 && s.modState a (2 * i + 1) ≥ 2
  | none => false

/-- Whether a compute die stands inside the seams of a partition (16 R414, R415). -/
def State.inSeams (s : State) (own d : Nat) : Bool :=
  fld (s.cdReg own 0x302) 1 0 ≤ d % 4 && d % 4 ≤ fld (s.cdReg own 0x303) 1 0

/-- Whether every link of a route is up. -/
def State.routeUp (s : State) : List DieId → Bool
  | a :: b :: r => s.linkUp a b && s.routeUp (b :: r)
  | _ => true

/-- Whether a route from compute die `d` enters a compute die outside the seams; package-service traffic is exempt
(16 R415). -/
def State.routeInside (s : State) (d : Nat) (r : List DieId) : Bool :=
  r.all (fun x => match x with | .cd n => s.inSeams d n | .md _ => true)

/-- Whether compute die `d` can reach a home: the links of the route, the seams, and for another package the port of
PORTMAP (16 R398, R410, R415). -/
def State.homeReach (s : State) (d home : Nat) : Bool :=
  let r := route (.cd d) (s.homeDie d home)
  s.routeUp r && (home = 16 || s.routeInside d r)
    && (home < 17 || ((cget (s.cd d).portmap (home - 17)).getLsbD 7
          && (s.partMds d).contains ((cget (s.cd d).portmap (home - 17)).toNat % 16)
          && (s.md ((cget (s.cd d).portmap (home - 17)).toNat % 16)).portUp))

/-- Whether compute die `d` can reach the home of a memory key; host memory lies behind MD0, the pool behind MD8. -/
def State.keyReach (s : State) (d k : Nat) : Bool :=
  if keyPlace k = 17 then s.routeUp (route (.cd d) (.md 8)) else s.homeReach d (keyHome k)

/-! ## Memory at its home -/

/-- The 2 MiB chunk of a stack address. -/
def chunkOf (k : Nat) : Nat := keyAddr k >>> 21

/-- A 128-byte request reaches the home of a memory key: its access number, and the heat steps that it causes
(14 R367). Host and pool memory have no heat counters. -/
def State.touch (s : State) (k : Nat) : State :=
  let m := keyPlace k
  if m < 16 then
    let d := s.md m
    let n := d.accesses
    let s := s.updMd m (fun d => { d with accesses := d.accesses + 1 })
    if fld d.heatctl 62 62 = 1 then
      let s := if n ≠ 0 ∧ n % 2 ^ fld d.heatctl 37 32 = 0 then s.post (.heatHalving m) else s
      if n % 2 ^ fld d.heatctl 3 0 = 0 then s.post (.heatSample m (chunkOf k)) else s
    else s
  else s

/-- Sets the dirty-bitmap bit of the 4 KiB granule (11 R289). -/
def State.markDirty (s : State) (k : Nat) : State :=
  let m := keyPlace k
  if m < 16 then
    s.updMd m (fun d =>
      let b := (kget d.dirty (chunkOf k)).getD 0
      { d with dirty := kset d.dirty (chunkOf k) (b ||| BitVec.ofNat 512 (2 ^ ((keyAddr k >>> 12) % 512))) })
  else s

/-- The sectors (64 bytes) that `n` bytes at `k` touch. -/
def sectorsOf (k n : Nat) : List Nat := if n = 0 then [] else List.range' (k / 64) ((k + n - 1) / 64 - k / 64 + 1)

/-- Whether a write covers a sector whole, and whether it touches it. -/
def coversSector (k n x : Nat) : Bool := k ≤ 64 * x && 64 * x + 64 ≤ k + n
def touchesSector (k n x : Nat) : Bool := k < 64 * x + 64 && 64 * x < k + n

/-- Stores bytes: a sector covered whole loses its poison, and every sector written gets the check value of its bytes (09
R222, R223). -/
def State.memPut (s : State) (k : Nat) (bs : List Byte) : State :=
  { s with mem := cwrite s.mem k bs, poison := s.poison.filter (fun x => !coversSector k bs.length x),
           sums := s.sums.filter (fun x => !touchesSector k bs.length x.1) }

/-- Marks sectors poisoned. -/
def State.addPoison (s : State) (xs : List Nat) : State :=
  { s with poison := s.poison ++ xs.filter (fun x => !s.poison.contains x) }

/-- The poison bits of the two sectors of a line, and the check values that are not those of their bytes. -/
def State.linePoison (s : State) (line : Nat) : Nat :=
  (if s.poison.contains (2 * line) then 1 else 0) + (if s.poison.contains (2 * line + 1) then 2 else 0)
def State.lineSums (s : State) (line : Nat) : KMap (BitVec 16) :=
  [0, 1].filterMap (fun i => (kget s.sums (2 * line + i)).map (fun v => (i, v)))

/-- A line's poison and check values stand with its bytes in memory again. -/
def State.markLine (s : State) (line poison : Nat) (sums : KMap (BitVec 16)) : State :=
  let s := s.addPoison ([0, 1].filterMap (fun i => if poison.testBit i then some (2 * line + i) else none))
  { s with sums := sums.foldl (fun m x => kset m (2 * line + x.1) x.2) s.sums }

/-- Sectors of memory whose check value fails where they are read (09 R222). -/
def State.failing (s : State) (k n : Nat) : List Nat :=
  (sectorsOf k n).filter (fun x => !s.poison.contains x && checkFails (kget s.sums x) (cread s.mem (64 * x) 64))

/-! ### The memory-side cache (09 R220, R239) -/

/-- Lines of a memory-side cache: 128 MiB (01 R12). -/
def cacheRoom : Nat := 1048576

/-- Whether a RES hold keeps a line in its cache (09 R239). -/
def Md.holds (d : Md) (line : Nat) : Bool := d.held.any (fun h => h.2.1 ≤ line && line < h.2.1 + h.2.2)

/-- A line of device memory enters the memory-side cache of its die, or is found there; a full cache first gives up a line that
no RES holds, of the device's choice (09 R220, R239; log 8). Written-back data makes it dirty. -/
def State.cacheLine (s : State) (k : Nat) (dirty : Bool) : State :=
  let m := keyPlace k
  let a := keyAddr k / 128
  if 16 ≤ m then s
  else if (s.md m).lines.any (fun x => x.line == a) then
    s.updMd m (fun d => { d with lines := d.lines.map (fun x => if x.line = a then { x with dirty := x.dirty || dirty } else x) })
  else
    let s := if cacheRoom ≤ (s.md m).lines.length then
        match s.pickOne ((s.md m).lines.filter (fun x => !(s.md m).holds x.line)) with
        | (some v, s) => s.updMd m (fun d => { d with lines := d.lines.filter (fun x => x.line != v.line) })
        | (none, s) => s
      else s
    s.updMd m (fun d => { d with lines := { line := a, dirty := dirty } :: d.lines })

/-! ### Compression (11 R290, R291) -/

/-- Whether a write to a compressed granule is held at its die (11 R291). -/
def State.overflowed (s : State) (k : Nat) : Bool :=
  keyPlace k < 16 && (s.md (keyPlace k)).overflow.any (fun o => o.1 >>> 12 == k >>> 12)

/-- The metadata entry of a granule is looked up; a miss of the 4,096-entry cache is counted, and a full one gives up an entry of
the device's choice (11 R291; log 8). -/
def State.metaLookup (s : State) (m g : Nat) : State :=
  if (s.md m).metaHit.contains g then s
  else
    let s := if 4096 ≤ (s.md m).metaHit.length then
        match s.pickOne (s.md m).metaHit with
        | (some v, s) => s.updMd m (fun d => { d with metaHit := d.metaHit.filter (· != v) })
        | (none, s) => s
      else s
    s.updMd m (fun d => { d with metaHit := g :: d.metaHit, counters := lset d.counters 1 (· + 1) })

/-- Sectors and their indices in a granule's metadata: `raw` at [63], the number minus 1 at [62:61], four 11-bit indices (11
R290). -/
def metaSectors (v : DWord) : List Nat :=
  (List.range (fld v 62 61 + 1)).map (fun i => fld v (11 * i + 10) (11 * i))
def metaOf (sectors : List Nat) : DWord :=
  BitVec.ofNat 64 ((if sectors.length = 4 then 2 ^ 63 else 0) + (sectors.length - 1) * 2 ^ 61
    + ((List.range sectors.length).zip sectors).foldl (fun n x => n + (x.2 % 2048) * 2 ^ (11 * x.1)) 0)

/-- Sectors of a chunk's area that no granule of it holds. -/
def Md.freeSectors (d : Md) (chunk : Nat) (c : Chunk) : List Nat :=
  let used := (d.gmeta.filter (fun x => x.1 / 512 == chunk)).flatMap (fun x => metaSectors x.2)
  (List.range c.sectors).filter (fun i => !used.contains i)

/-- The granule of a write is packed into as many 1 KiB sectors as the engine's code needs, a number that the spec leaves open;
more of them come from the reserve, of the device's choice. Answers whether it found room (11 R290, R291; log 2). DESIGN CHOICE (log
100): a reserve that is not 0 but too small for the write is OVERFLOW too, since the write cannot be stored. -/
def State.packGranule (s : State) (k : Nat) : Bool × State :=
  let m := keyPlace k
  match (if m < 16 then kget (s.md m).chunks (chunkOf k) else none) with
  | none => (true, s)
  | some c =>
    if !c.enable then (true, s)
    else
      let g := keyAddr k >>> 12
      let s := s.metaLookup m g
      let (f, s) := s.takeFree
      let need := 1 + Config.freeNat (nth f 0) % 4
      let have_ := ((kget (s.md m).gmeta g).map metaSectors).getD []
      let more := need - have_.length
      let loose := (s.md m).freeSectors (chunkOf k) c
      if more ≤ c.reserve ∧ more ≤ loose.length then
        let pick := (List.range more).foldl (fun (x : List Nat × List Nat) i =>
          match x.2[Config.freeNat (nth f (i + 1)) % x.2.length]? with
          | some v => (x.1 ++ [v], x.2.filter (· != v))
          | none => x) (have_, loose)
        (true, s.updMd m (fun d =>
          { d with
            chunks := kset d.chunks (chunkOf k) { c with reserve := c.reserve - more }
            gmeta := kset d.gmeta g (metaOf pick.1)
            counters := if need = 4 then lset d.counters 0 (· + 1) else d.counters }))
      else (false, (s.updMd m (fun d => { d with counters := lset d.counters 2 (· + 1) })).emit (.msix 8))

/-- A write that has reached its home is performed: its granule is packed, its bytes are stored, and the granule is marked; where no
sector is free, or earlier writes of the granule are held, it is held, and memory keeps its bytes (11 R289, R291). -/
def State.settleWrite (s : State) (k : Nat) (bs : List Byte) (who : Option ThreadRef) : State :=
  let hold := fun (s : State) => s.updMd (keyPlace k) (fun d => { d with overflow := d.overflow ++ [(k, bs, who)] })
  if s.overflowed k then hold s
  else
    match s.packGranule k with
    | (true, s) => ((s.cacheLine k true).memPut k bs).markDirty k
    | (false, s) => hold s

/-! ### Reads and writes at the home -/

/-- k of a window of 2^k ns (14 R365), and the window in which local time stands (10 R261). -/
def State.winK (s : State) : Nat := fld s.pkg.wlen 3 0
def State.window (s : State) : Nat := s.pkg.timeNs.toNat / 2 ^ s.winK

/-- Whether a memory key is in another package. -/
def foreignKey (k : Nat) : Bool := decide (18 ≤ keyPlace k ∧ keyPlace k < 512)

/-- The other arm of a split warp. -/
def otherArm (t : ThreadRef) : ThreadRef := { t with armE := !t.armE }

/-- A thread, or since a merge or a split the other arm of its warp, has sent a write to another package in this window (10 R261;
log 90). -/
def State.sentNow (s : State) (t : ThreadRef) : State :=
  let note := fun (th : Thread) => { th with sentWin := some s.window }
  (s.updThread t note).updThread (otherArm t) note

/-- A write to another package leaves a port: its threads have sent it in this window (10 R261). -/
def State.sentFor (s : State) (k : Nat) (who : List ThreadRef) : State :=
  if foreignKey k then who.foldl (fun s t => s.sentNow t) s else s

/-- A write within one line reaches its home: counted, and performed there. -/
def State.homeWriteLine (s : State) (k : Nat) (bs : List Byte) : State :=
  ((s.touch k).sentFor k s.cur.toList).settleWrite k bs s.cur

/-- A write reaches its home, line by line. -/
def State.homeWrite (s : State) (k : Nat) (bs : List Byte) : State :=
  (chunks 128 (bs.length / 128 + 2) k bs.length).foldl (fun s c =>
    s.homeWriteLine c.1 ((bs.drop (c.1 - k)).take c.2)) s

/-- A read within one line reaches its home. A sector of an enabled chunk whose check value fails after decompression is a
DECOMPRESS_CHECK: the sectors of its granule are poisoned (09 R222, 11 R291). Answers the keys of such sectors, for the
CHECK_MISMATCH report. -/
def State.homeRead (s : State) (k n : Nat) : List Byte × List Nat × State :=
  let m := keyPlace k
  let s := (s.touch k).cacheLine k false
  if m < 16 && ((kget (s.md m).chunks (chunkOf k)).map (·.enable)).getD false then
    let s := s.metaLookup m (keyAddr k >>> 12)
    let bad := s.failing k n
    if bad.isEmpty then (cread s.mem k n, [], s)
    else
      let s := s.updMd m (fun d => { d with counters := lset d.counters 3 (· + 1) })
      (cread s.mem k n, bad, s.addPoison (sectorsOf (k / 4096 * 4096) 4096))
  else (cread s.mem k n, [], s)

/-! ## Faults -/

/-- Helper chain of a block's task: the IDs of the tasks beneath it, the slot's bottom task first (13 R345). -/
def State.chainIds (s : State) : Nat → Option Nat → List Word
  | 0, _ => []
  | _, none => []
  | fuel + 1, some b =>
    match s.blk? b with
    | some x => s.chainIds fuel x.below ++ [x.task.getD 0xFFFF_FFFF]
    | none => []

/-- A fault record of a thread (15 R372). -/
def State.record (s : State) (t : ThreadRef) (code cls : Nat) (pc : BitVec 56) (addr : Nat) (lanes : Word)
    (engine : Nat) : FaultRec :=
  let b := s.blk? t.blk
  let th := s.thread? t
  let ids := (s.chainIds 4 (b.bind (·.below))).take 4
  { code := code, cls := cls,
    flags := BitVec.ofNat 8 ((if t.armE then 1 else 0) + (if t.warp = 32 then 2 else 0)
      + (if (th.map (·.trap)).getD false then 4 else 0)),
    pc := pc, warp := t.warp, die := (b.map (·.die)).getD 0, core := (b.map (·.core)).getD 0,
    blockIx := (b.map (·.blockIx)).getD 0, taskId := ((b.bind (·.task))).getD 0xFFFF_FFFF,
    chain := ids ++ List.replicate (4 - ids.length) 0xFFFF_FFFF, addr := BitVec.ofNat 64 addr,
    engine := BitVec.ofNat 16 (if engine = 0 then (b.map (fun x => x.die * 256 + x.core)).getD 0 else engine),
    ctx := (b.map (·.ctx)).getD 0, lanes := if t.warp = 32 then 0 else lanes,
    time := s.pkg.timeNs }

/-- A record of a unit, with no instruction (15 R372). -/
def State.unitRecord (s : State) (die code cls addr engine : Nat) (ctx : BitVec 16) : FaultRec :=
  { code := code, cls := cls, flags := 0, pc := 0, warp := 0, die := die, core := 0, blockIx := 0,
    taskId := 0xFFFF_FFFF, chain := List.replicate 4 0xFFFF_FFFF, addr := BitVec.ofNat 64 addr,
    engine := BitVec.ofNat 16 engine, ctx := ctx, lanes := 0, time := s.pkg.timeNs }

/-- The 64 bytes of a record (15 R372). -/
def recBytes (r : FaultRec) : List Byte :=
  leBytes 2 r.code ++ leBytes 1 r.cls ++ [r.flags] ++ leBytes 8 r.pc.toNat ++ leBytes 1 r.warp ++ leBytes 1 r.die
    ++ leBytes 2 r.core ++ leBytes 4 r.blockIx.toNat ++ leBytes 4 r.taskId.toNat
    ++ (r.chain.take 4).flatMap (fun x => leBytes 4 x.toNat) ++ leBytes 8 r.addr.toNat ++ leBytes 2 r.engine.toNat
    ++ leBytes 2 r.ctx.toNat ++ leBytes 4 r.lanes.toNat ++ leBytes 8 r.time.toNat

/-- Writes waiting records into the ring of a compute die while it has room (15 R377), one MSI-X signal each (16
R404). -/
def State.ringDrain (s : State) (die : Nat) : Nat → State
  | 0 => s
  | fuel + 1 =>
    match (s.cd die).faults with
    | [] => s
    | r :: rest =>
      let ring := s.cdReg die 0x3B0
      let ptr := s.cdReg die 0x3B1
      let sz := fld ring 4 0
      let used := (fld ptr 63 32 + 2 ^ 32 - fld ptr 31 0) % 2 ^ 32
      let entry := ((fld ring 51 12) <<< 12) + 64 * (fld ptr 63 32 % 2 ^ sz)
      match (if 4 ≤ sz ∧ sz ≤ 16 ∧ used < 2 ^ sz then s.paKey die entry else none) with
      | none => s
      | some k =>
        let s := s.homeWrite k (recBytes r)
        let s := s.updCd die (fun c => { c with faults := rest })
        let s := s.setCdReg die 0x3B1 (setFld ptr 63 32 (fld ptr 63 32 + 1))
        (s.emit (.msix die)).ringDrain die fuel

/-- A record goes to a fault ring; it waits in its unit while the ring is full (15 R377). -/
def State.ringPut (s : State) (die : Nat) (r : FaultRec) : State :=
  (s.updCd die (fun c => { c with faults := c.faults ++ [r] })).ringDrain die 64

/-- The compute die whose ring takes the records of memory-side dies and links: the lowest of the partition
(15 R377). -/
def State.ringDie (s : State) (d : DieId) : Nat :=
  match d with
  | .cd n => ((s.partDies n).head?).getD n
  | .md m => ((s.partDies (mdColumn m)).head?).getD 0

/-! ## Translation -/

/-- What a walk finds (11 R285). -/
inductive WalkRes
  | leaf (e : TlbEntry)
  | notPresent
  | protection
  deriving DecidableEq, Repr

/-- The first entry of a 2 MiB run, where it can stand for the whole run: a valid level-1 leaf with `CONT` and a frame aligned to
2 MiB (11 R284). -/
def State.runHead (s : State) (die table ix : Nat) : Option DWord :=
  (s.paKey die (table + 8 * (ix / 128 * 128))).bind (fun k =>
    let e := BitVec.ofNat 64 (leNat (cread s.mem k 8))
    if bitOf e 0 && bitOf e 1 && bitOf e 6 && fld e 13 8 == 0 && !(bitOf e 3 && !bitOf e 2) && (fld e 51 14 <<< 14) % 2 ^ 21 == 0
    then some e else none)

/-- A leaf as the TLB holds it. -/
def leafOf (asid : BitVec 16) (e : DWord) (va bits : Nat) : TlbEntry :=
  { cluster := 0, asid := asid, glb := bitOf e 7, va := (va >>> bits) <<< bits, pa := fld e 51 14 <<< 14, bits := bits,
    perm := BitVec.ofNat 4 (fld e 5 2) }

/-- Walks the tables from `level` down (11 R282-R285). `table` is the physical address of the level's table. An entry with `CONT`
is used itself, or through the first entry of its run, extended to 2 MiB, as the device chooses for the access (R284; log 71). -/
def State.walk (s : State) (die : Nat) (asid : BitVec 16) (va : Nat) : Nat → Nat → WalkRes
  | 0, _ => .protection
  | level + 1, table =>
    let shift := 14 + 11 * level
    let ix := if level = 3 then (va >>> 47) % 512 else (va >>> shift) % 2048
    match s.paKey die (table + 8 * ix) with
    | none => .protection
    | some k =>
      let e := BitVec.ofNat 64 (leNat (cread s.mem k 8))
      let pa := fld e 51 14 <<< 14
      if !bitOf e 0 then .notPresent
      else if fld e 13 8 ≠ 0 ∨ (bitOf e 3 && !bitOf e 2) then .protection
      else if bitOf e 1 then
        if level = 3 ∨ pa % 2 ^ shift ≠ 0 then .protection
        else if level = 0 ∧ bitOf e 6 then
          match (if Config.wholeRun s.clock va then s.runHead die table ix else none) with
          | some h => .leaf (leafOf asid h va 21)
          | none => .leaf (leafOf asid e va shift)
        else .leaf (leafOf asid e va shift)
      else if level = 0 then .protection
      else s.walk die asid va level pa

/-- Whether any memory-side die holds writes for want of reserve (11 R291). -/
def State.anyHeld (s : State) : Bool := s.mds.any (fun d => !d.overflow.isEmpty)

/-- The table entries that a walk reads, by their keys (11 R282, R285). -/
def State.walkKeys (s : State) (die va : Nat) : Nat → Nat → List Nat
  | 0, _ => []
  | level + 1, table =>
    let ix := if level = 3 then (va >>> 47) % 512 else (va >>> (14 + 11 * level)) % 2048
    match s.paKey die (table + 8 * ix) with
    | none => []
    | some k =>
      let e := BitVec.ofNat 64 (leNat (cread s.mem k 8))
      k :: (if bitOf e 0 && !bitOf e 1 then s.walkKeys die va level (fld e 51 14 <<< 14) else [])

/-- Whether a leaf's permissions, [3] `USR`, [2] `XP`, [1] `WR`, [0] `RD`, allow an access (11 R285). -/
def permOk (p : BitVec 4) (acc : Access) (priv : Bool) : Bool :=
  (match acc with
   | .read => p.getLsbD 0
   | .write => p.getLsbD 1
   | .atom => p.getLsbD 0 && p.getLsbD 1
   | .fetch => p.getLsbD 2)
  && (priv || p.getLsbD 3)

/-- Outcome of a translation: the memory key, a TLB miss, a page that is not there, or a refusal. -/
inductive Tr
  | hit (key : Nat)
  | miss
  | absent
  | prot
  deriving DecidableEq, Repr

/-- The leaf used for an address: permissions, then the target of its physical address (11 R285, 16 R406). -/
def State.useLeaf (s : State) (die : Nat) (e : TlbEntry) (va : Nat) (acc : Access) (priv : Bool) : Tr :=
  if permOk e.perm acc priv then
    match s.paKey die (e.pa + va % 2 ^ e.bits) with
    | some k => .hit k
    | none => .prot
  else .prot

/-- The TLB entry of a cluster for an address (11 R286). -/
def State.tlbFind (s : State) (cluster : Nat) (asid : BitVec 16) (va : Nat) : Option TlbEntry :=
  s.tlb.find? (fun e => e.cluster == cluster && (e.glb || e.asid == asid) && (e.va >>> e.bits == va >>> e.bits))

/-- Translation at the cluster TLB (11 R286). -/
def State.translate (s : State) (b : Block) (va : Nat) (acc : Access) (priv : Bool) : Tr :=
  match s.tlbFind (clusterOf b.coreIx) b.desc.asid va with
  | some e => s.useLeaf b.die e va acc priv
  | none => .miss

/-- Translation by a walk at once, for the units that read memory at its home: instruction fetch, the launch fetcher,
the task unit, the save handler (12 R298, 13 R320, 15 R387). A TLB hit is used where there is one. -/
def State.translateNow (s : State) (die cluster : Nat) (d : CtxDesc) (va : Nat) (acc : Access) (priv : Bool) : Tr :=
  match s.tlbFind cluster d.asid va with
  | some e => s.useLeaf die e va acc priv
  | none =>
    match s.walk die d.asid va 4 d.l4pa with
    | .leaf e => s.useLeaf die e va acc priv
    | .notPresent => .absent
    | .protection => .prot

/-- Whether what a unit reads at a virtual address is held at its home for reserve, the table entries on the way to it or the bytes
themselves: the read waits (11 R291). -/
def State.readHeld (s : State) (die cluster : Nat) (d : CtxDesc) (va : Nat) (acc : Access) (priv : Bool) : Bool :=
  s.anyHeld &&
    (((s.tlbFind cluster d.asid va).isNone && (s.walkKeys die va 4 d.l4pa).any s.overflowed)
      || (match s.translateNow die cluster d va acc priv with
          | .hit k => s.overflowed k
          | _ => false))

/-- A page-table walk reaches the homes of the tables: each entry that it reads is a request of its own, in the memory-side cache (11
R285, 14 R367). -/
def State.walkHome (s : State) (die va l4 : Nat) : State :=
  (s.walkKeys die va 4 l4).foldl (fun s k => (s.touch k).cacheLine k false) s

/-- The walks that translating a range takes, one for each page that the cluster TLB does not hold (11 R286). -/
def State.walkRange (s : State) (die cluster : Nat) (d : CtxDesc) (va len : Nat) : State :=
  ((chunks (2 ^ 14) (len / 2 ^ 14 + 2) va len).filter (fun c => (s.tlbFind cluster d.asid c.1).isNone)).foldl (fun s c =>
    s.walkHome die c.1 d.l4pa) s

/-- The cluster TLB takes a translation. It holds 4,096 (11 R286); which one a full TLB gives up, the spec does not say: it is the
device's choice (log 8). -/
def State.tlbFill (s : State) (cluster : Nat) (e : TlbEntry) : State :=
  let mine := s.tlb.filter (fun x => x.cluster == cluster)
  let s := if 4096 ≤ mine.length then
      match s.pickOne mine with
      | (some v, s) => { s with tlb := s.tlb.filter (· != v) }
      | (none, s) => s
    else s
  { s with tlb := { e with cluster := cluster } :: s.tlb }

/-! ## The frame -/

/-- The memory key of an offset in the held part of a block's frame (15 R387). -/
def Block.frameKey (b : Block) (off : Nat) : Option Nat := (b.frameKeys[off / 2 ^ 14]?).map (· + off % 2 ^ 14)

/-- Replaces bytes of a cached line. -/
def patchLine (line : Nat) (data : List Byte) (k : Nat) (bs : List Byte) : List Byte :=
  (List.range 128).map (fun i =>
    let a := 128 * line + i
    if k ≤ a ∧ a < k + bs.length then bs.getD (a - k) 0 else data.getD i 0)

/-- What a write of `n` bytes at `k` leaves of a line's poison and of its failing check values (09 R222, R223). -/
def clearPoison (line poison k n : Nat) : Nat :=
  (if poison.testBit 0 && !coversSector k n (2 * line) then 1 else 0)
    + (if poison.testBit 1 && !coversSector k n (2 * line + 1) then 2 else 0)
def clearSums (line : Nat) (sums : KMap (BitVec 16)) (k n : Nat) : KMap (BitVec 16) :=
  sums.filter (fun x => !touchesSector k n (2 * line + x.1))

/-- A cached line with bytes written; `line` is the line as the address `k` counts. -/
def L1Line.patched (x : L1Line) (line k : Nat) (bs : List Byte) : L1Line :=
  { x with data := patchLine line x.data k bs, poison := clearPoison line x.poison k bs.length,
           sums := clearSums line x.sums k bs.length }
def L2Line.patched (x : L2Line) (k : Nat) (bs : List Byte) : L2Line :=
  { x with data := patchLine x.phys x.data k bs, poison := clearPoison x.phys x.poison k bs.length,
           sums := clearSums x.phys x.sums k bs.length }

/-- Writes memory and every cached copy of the bytes: what a unit of the device stores for a context (15 R375, R387), and what
the host or a pool agent writes to its own memory (10 R267). -/
def State.putAll (s : State) (k : Nat) (bs : List Byte) : State :=
  let hits := fun line => 128 * line < k + bs.length && k < 128 * line + 128
  let s := s.homeWrite k bs
  { s with l1 := s.l1.map (fun x => if !x.shared && hits x.phys && x.st != .update
                                    then x.patched x.phys k bs else x)
           l2 := s.l2.map (fun x => if hits x.phys then x.patched k bs else x) }

/-- Stores bytes into the frame of a block. -/
def State.framePut (s : State) (b : Block) (off : Nat) (bs : List Byte) : State :=
  match b.frameKey off with
  | some k => s.putAll k bs
  | none => s

/-- Offset of a thread's trap slot in the frame (15 R387). -/
def trapOff (warp : Nat) : Nat := if warp = 32 then 0x14000 else 0x20000 + 0x1000 * warp

/-- The tag of the L1 lines filled through a region (08 R196), and the index of its table entry: its SLOT. The borrow of the
save area is never arbitrated (R189) and shares no tag with an entry. -/
def Region.tag (g : Region) : Nat := if g.save then 65536 else g.slot.toNat

/-- A region register over a range (08 R187). -/
def Region.mk' (kind space slot base len : Nat) : Region :=
  { Region.empty with kind := BitVec.ofNat 3 kind, space := BitVec.ofNat 2 space, slot := BitVec.ofNat 16 slot,
                      lenm1 := BitVec.ofNat 34 (len / 128 - 1), base := BitVec.ofNat 49 (base / 128) }

/-- The region register that trap entry fills: kind E, global, 4 KiB at the trap slot (15 R375, 08 R189). -/
def trapRegion (b : Block) (warp : Nat) : Region :=
  { Region.mk' 1 0 Config.trapSlot.toNat (b.frameVa + trapOff warp) 4096 with save := true }

/-! ## Kills -/

/-- A block or its running task is killed: its threads stop, and the unpicker takes the rest (15 R382, 13 R346).
`code` is the fault code that ends it. -/
def State.startKill (s : State) (blk code : Nat) : State :=
  match s.blk? blk with
  | none => s
  | some b =>
    if b.killed.isSome then s
    else
      let s := s.updBlk blk (fun b => { b with ending := true, killed := some code })
      let s := s.updCd b.die (fun c => { c with dead := c.dead ++ [blk] })
      s.post (.unpickerPass b.die)

/-! ## Taking an exception and returning from it -/

/-- Whether a warp has an entry of its block's decision queue still to pop (12 R308). -/
def DqEntry.unpopped (e : DqEntry) (warp : Nat) : Bool := lane e.target warp && !lane e.popped warp

/-- An instruction that is refused after its pop, or abandoned, gives its entry back to the warp (02 R38). The all-ones entry that
follows the front thread's exit stands in no queue (12 R309). -/
def Block.undoPop (b : Block) (warp seq : Nat) (v : DWord) : Block :=
  if seq = 0 then b
  else if b.dq.any (fun e => e.seq == seq) then
    { b with dq := b.dq.map (fun e => if e.seq = seq then { e with popped := e.popped &&& ~~~laneBit warp } else e) }
  else
    { b with dq := b.dq.filter (fun e => decide (e.seq < seq)) ++ [{ value := v, target := laneBit warp, popped := 0, seq := seq }]
                    ++ b.dq.filter (fun e => decide (seq < e.seq)) }

/-- The pop of an instruction that a thread held is undone; it pops the same entry when it issues again (02 R38). -/
def Block.giveBack (b : Block) (warp : Nat) (armE : Bool) (seq : Nat) (v : DWord) : Block :=
  (b.undoPop warp seq v).updThread warp armE (fun th => { th with redo := some seq })

/-- Whether a thread waits for the phase of a barrier at which it has arrived: it waits again, without arriving again, after what
interrupts it (14 R362). -/
def Hold.phase (h : Hold) : Bool :=
  match h.wait with
  | .barrier _ _ _ => true
  | .bquarter => h.stage == 2
  | _ => false

/-- Trap entry for thread `t` with record `r`, its issued instructions being complete (15 R375). In trap mode, or with
TRAPVA 0, the fault is fatal. Otherwise the record goes to the trap slot; TRPC, TRCTL and the set-aside register are
set; the thread enters trap mode at TRAPVA. -/
def State.enterTrap (s : State) (t : ThreadRef) (r : FaultRec) : State :=
  match s.blk? t.blk, s.thread? t with
  | some b, some th =>
    if th.trap || b.desc.trapva == 0 then
      let s := s.updThread t (fun th => { th with record := th.later, later := none })
      (s.ringPut b.die { r with cls := 4 }).startKill t.blk r.code
    else
      let s := s.framePut b (trapOff t.warp) (recBytes r)
      let trpc := if r.code = 31 ∨ r.code = 32 then th.pc + 4 else th.pc
      let rg := if t.warp = 32 then 15 else 31
      let s := s.updBlk t.blk (fun b =>
        let old := b.region t.warp rg
        let b := if t.warp = 32 then { b with front := { b.front with aside := old } }
                 else b.updWarp t.warp (fun w => { w with aside := old, trapE := some t.armE })
        b.setRegion t.warp rg (trapRegion b t.warp))
      -- an instruction that has not issued issues again after the handler; a wait for a phase goes on (14 R362)
      let s := match th.hold with
        | some h => (match (if h.phase then none else h.dq) with
          | some v => s.updBlk t.blk (fun b => b.giveBack t.warp t.armE h.dqSeq v)
          | none => s)
        | none => s
      s.updThread t (fun th =>
        { th with record := none, kept := th.hold.filter Hold.phase, hold := none, wins := [], trap := true, trpc := trpc.setWidth 64, trpcSet := trpc,
                  trctl := if th.pblk.isSome then 1 else 0, pblkSave := th.pblk, pblk := none,
                  pc := b.desc.trapva, readyAt := s.clock, wskip := false, wbUse := none })
  | _, _ => s

/-- Whether an instruction that waits has issued and is under way: it is carried through before a handler runs (02 R42, 04
R83). One held in a wait before its first effect has not issued (12 R312; log 68), and an EXIT that is held has none: a report that
comes meanwhile is taken before it (24 R453). -/
def Hold.issued (h : Hold) : Bool :=
  h.ins.isSome && h.ins != some .exit && (match h.wait with
    | .dqEntry | .dqRoom | .bobFull _ | .bobFree _ | .barrier _ _ _ | .counter _ _ | .join _ | .engineRoom _ | .bquarter
    | .tiles _ | .landed | .forever => false
    | _ => true)

/-- Whether a thread has neither an owed register write nor an instruction under way. -/
def Thread.settled (th : Thread) : Bool := th.pends.isEmpty && !((th.hold.map Hold.issued).getD false)

/-- Whether every thread of `t`'s warp (the front thread alone) has its issued instructions complete (02 R42, 04 R83). -/
def Block.quietWarp (b : Block) (warp : Nat) : Bool :=
  if warp = 32 then b.front.th.settled
  else ((b.warps[warp]?).map (fun w => w.t.settled && w.e.settled)).getD true

/-- Whether the other arm of the warp is in its handler (15 R375). -/
def Block.otherInTrap (b : Block) (t : ThreadRef) : Bool :=
  t.warp != 32 && ((b.warps[t.warp]?).map (fun w => w.trapE == some (!t.armE))).getD false

/-- Whether a pre-empt request is pending for a block: it is taken before any fault (15 R373). -/
def State.beingSaved (s : State) (bk : Nat) : Bool := s.cds.any (fun c => c.saving.contains bk)

/-- Whether a thread has exited, or its block has been killed: a fault of it goes to the ring as class H (15 R374). -/
def State.threadGone (s : State) (t : ThreadRef) : Bool :=
  !(((s.thread? t).map (·.live)).getD false) || ((s.blk? t.blk).bind (·.killed)).isSome

/-- A precise fault at issue: trap entry at once where nothing is outstanding in the warp and no arm of it is in a
handler or owed one first; otherwise the record waits for TRAP_ENTRY or for the other arm's RFT (15 R373, R375). Where a pre-empt
request is pending it is taken first: the instruction issues again after the restore, and faults then (R373). -/
def State.takeTrap (s : State) (t : ThreadRef) (r : FaultRec) : State :=
  match s.blk? t.blk with
  | none => s
  | some b =>
    if b.killed.isSome then s.ringPut b.die { r with cls := 3 }
    else if s.beingSaved t.blk then s
    else
      -- a class-I record that the thread already holds is delivered after the precise one (15 R373 item 2)
      let s := s.updThread t (fun th =>
        { th with record := some r, later := th.record, hold := some { wait := .trapping, ins := none, stage := 0, answer := none,
                                                                       dq := none } })
      if b.otherInTrap t then s
      else if b.quietWarp t.warp && (t.warp == 32 || ((s.thread? (otherArm t)).bind (·.record)).isNone) then s.enterTrap t r
      else s.post (.trapEntry t)

/-- Return from a handler: the set-aside register goes back, a class-I record that was held behind the handler's is pending, a wait
for a phase that the handler interrupted goes on where the thread returns to it, trap mode ends, PC := TRPC with the predicate-block
state where TRPC is still the one that trap entry set (15 R383, 02 R48). TRPC and TRCTL keep their values (15 R384). -/
def State.leaveTrap (s : State) (t : ThreadRef) : State :=
  let rg := if t.warp = 32 then 15 else 31
  let s := s.updBlk t.blk (fun b =>
    let old := if t.warp = 32 then b.front.aside else ((b.warps[t.warp]?).map (·.aside)).getD Region.empty
    let b := b.setRegion t.warp rg old
    if t.warp = 32 then { b with front := { b.front with aside := Region.empty } }
    else b.updWarp t.warp (fun w => { w with aside := Region.empty, trapE := none }))
  s.updThread t (fun th =>
    let pc := th.trpc.setWidth 56
    { th with trap := false, pc := pc, pblk := if bitOf th.trctl 0 && pc == th.trpcSet then th.pblkSave else none,
              pblkSave := none, wskip := bitOf th.trctl 1, readyAt := s.clock, kept := none,
              hold := if pc = th.trpcSet then th.kept else none,
              record := th.record.orElse (fun _ => th.later), later := none })

/-- An imprecise record for a thread: pending, and delivered at its next boundary; a second one, or one for a thread
that is gone, goes to the ring as class H (15 R374). -/
def State.postFault (s : State) (t : ThreadRef) (r : FaultRec) : State :=
  match s.thread? t with
  | some th =>
    if s.threadGone t then s.ringPut r.die { r with cls := 3 }
    else if th.record.isSome || th.later.isSome then s.ringPut r.die { r with cls := 3, flags := r.flags ||| 8 }
    else (s.updThread t (fun th => { th with record := some r })).post (.trapEntry t)
  | none => s.ringPut r.die { r with cls := 3 }

end Sys2Proof.Machine
end

