-- ==== Sys2Proof/Machine/MemPath.lean ====
section
/-!
DEFINITION. Machine/MemPath.lean: the levels between a lane and a byte (09 R215-R223): scratch and exchange, die-shared
memory, L1 lines by slot, L2 lines by physical address, and the home; watchpoints at the home (15 R389, R390).
-/
namespace Sys2Proof.Machine

/-! ## Reports from a home -/

/-- An imprecise record goes to the issuing thread, or to the ring where no live thread issued the access. -/
def State.report (s : State) (who : Option ThreadRef) (pc : BitVec 56) (code addr engine : Nat) (lanes : Word)
    (home : Nat) : State :=
  match who with
  | some t =>
    match s.thread? t with
    | some _ => s.postFault t (s.record t code 1 pc addr lanes engine)
    | none => s.ringPut (s.ringDie (.md home)) (s.unitRecord (s.ringDie (.md home)) code 3 addr engine 0)
  | none => s.ringPut (s.ringDie (.md home)) (s.unitRecord (s.ringDie (.md home)) code 3 addr engine 0)

/-- What an access belongs to: nothing else, the store that is being performed, an outstanding instruction of its thread, or a
command of a core. -/
inductive Part
  | one
  | inst
  | pend (id : Nat)
  | copy (core id : Nat)
  deriving DecidableEq, Repr

/-- Who is named by a report on an access: the thread, its lanes that touch a byte, and what the access belongs to (15 R372,
R389, R390). -/
abbrev Who := Option (ThreadRef × (Nat → Word) × Part)
/-- The lanes that touch any of `n` bytes from `a`. -/
def Who.over (w : Who) (a n : Nat) : Word :=
  match w with
  | some x => (List.range n).foldl (fun m i => m ||| x.2.1 (a + i)) 0
  | none => 0
/-- The same with its bytes named from another origin: byte `k` here is byte `a` there. -/
def Who.moved (w : Who) (a k : Nat) : Who := w.map (fun x => (x.1, (fun i => x.2.1 (i + a - k)), x.2.2))

/-- A mark among those of an instruction or command: whether it is set already, and the marks with it set. -/
def markBit (hits bit : Nat) : Bool × Nat := (hits.testBit bit, if hits.testBit bit then hits else hits + 2 ^ bit)

/-- One instruction or command makes at most one report per watchpoint (15 R389): whether it has made that of watchpoint `bit` of
the memory-side dies, and the state in which it has. -/
def State.reportOnce (s : State) (who : Who) (bit : Nat) : Bool × State :=
  match who with
  | some (t, _, .pend id) =>
    let own := (s.thread? t).bind (fun th => th.pends.find? (fun p => p.id == id))
    let grp := (own.map (·.grp)).getD 0
    ((own.map (fun p => (markBit p.hits bit).1)).getD false,
     s.updThread t (fun th => { th with pends := th.pends.map (fun (p : Pend) =>
       if p.id = id || (grp != 0 && p.grp == grp) then { p with hits := (markBit p.hits bit).2 } else p) }))
  | some (_, _, .inst) => (s.reported.contains bit, { s with reported := if s.reported.contains bit then s.reported else bit :: s.reported })
  | some (_, _, .copy core id) =>
    (((((s.core core).copies.find? (fun x => x.id == id)).map (fun x => (markBit x.hits (4 + bit)).1)).getD false),
     s.updCore core (fun c => { c with copies := c.copies.map (fun (x : CopyCmd) =>
       if x.id = id then { x with hits := (markBit x.hits (4 + bit)).2 } else x) }))
  | _ => (false, s)

/-- The store that was being performed is over: the next one makes its own reports. -/
def State.seen (s : State) : State := { s with reported := [] }

/-- Bytes of a watchpoint's range that an access of `n` bytes at `a` touches (15 R389). -/
def wpBytes (addr mask : DWord) (a n : Nat) : List Nat :=
  let base := fld addr 55 4 * 16
  ((List.range 16).filter (fun i => bitOf mask i && a ≤ base + i && base + i < a + n)).map (base + ·)

/-- `HITS` rises by 1, saturating at 0xFFFF (15 R389). -/
def addHit (ctl : DWord) : DWord := setFld ctl 15 0 (min (fld ctl 15 0 + 1) 0xFFFF)

/-- The physical address that the interleave puts at a stack address of memory-side die `m` (the inverse of 16 R413),
under the partition of its column. -/
def State.stackPa (s : State) (m a : Nat) : Nat :=
  let d := s.ringDie (.md m)
  let n := s.mdCount d
  let g := s.granule d
  let q0 := (a >>> g) * n
  let q := ((List.range n).find? (fun j =>
    (fld (s.cdReg d 0x301) 63 0 >>> (4 * (nibbleXor 16 (q0 + j) % n))) % 16 == m)).getD 0 + q0
  (q <<< g) + a % 2 ^ g

/-- Physical address of a sector of memory, by its key div 64. -/
def State.sectorPa (s : State) (x : Nat) : Nat :=
  let m := keyPlace (64 * x)
  let a := keyAddr (64 * x)
  if m < 16 then s.stackPa m a else if m = 16 then 2 ^ 48 + a else if m = 17 then 2 ^ 49 + a
  else 2 ^ 51 + (m - 18) * 2 ^ 41 + a

/-- The watchpoints of a memory-side die look at an access that reaches it; `kind` is the control bit, 62 reads, 61
writes, 60 atomics. Addresses are physical (15 R389, R390; 24 R452). -/
def State.homeWatch (s : State) (k n kind : Nat) (who : Who) (pc : BitVec 56) : State :=
  let m := keyPlace k
  if m < 16 then
    (List.range 4).foldl (fun s w =>
      let d := s.md m
      let ctl := (kget d.wp (8 + w)).getD 0
      let pa := s.stackPa m (keyAddr k)
      let bytes := wpBytes ((kget d.wp w).getD 0) ((kget d.wp (4 + w)).getD 0)
      match bytes pa n with
      | h :: _ =>
        let (made, s') := s.reportOnce who (4 * m + w)
        if bitOf ctl 63 && bitOf ctl kind && !made then
          let s := s'.updMd m (fun d => { d with wp := kset d.wp (8 + w) (addHit ctl) })
          let at_ := BitVec.ofNat 8 (16 * w + 64)
          -- the bytes of the range that a lane of the access touches
          let mine := (bytes 0 (2 ^ 64)).filter (fun b => who.over (k + b - pa) 1 != 0)
          let a := (mine.head?).getD h
          let lanes := mine.foldl (fun x b => x ||| who.over (k + b - pa) 1) 0
          match who with
          | some (t, _, _) =>
            let r := s.record t 26 1 pc a lanes (8 * 4096 + m % 16 * 256)
            s.postFault t { r with flags := r.flags ||| at_ }
          | none => s.ringPut (s.ringDie (.md m))
                      { s.unitRecord (s.ringDie (.md m)) 26 3 a (8 * 4096 + m % 16 * 256) 0 with
                        flags := at_ }
        else s
      | [] => s) s
  else s

/-! ## Die-shared memory -/

/-- Where a die-shared byte stands in the die's slices, each of 1 MiB: its 128-byte unit u in slice u mod 192, at unit u div 192
of the slice's die-shared part (09 R216). -/
def sharedAt (o : Nat) : Nat := (o / 128 % 192) * 2 ^ 20 + o / 128 / 192 * 128 + o % 128

def State.sharedRead (s : State) (die off n : Nat) : List Byte :=
  (chunks 128 (n / 128 + 2) off n).flatMap (fun c => cread (s.cd die).shared (sharedAt c.1) c.2)
/-- Writes die-shared bytes; a sector covered whole loses its poison, a sector written gets its check value. -/
def State.sharedPut (s : State) (die off : Nat) (bs : List Byte) : State :=
  s.updCd die (fun c => { c with
    shared := (chunks 128 (bs.length / 128 + 2) off bs.length).foldl (fun m x =>
      cwrite m (sharedAt x.1) ((bs.drop (x.1 - off)).take x.2)) c.shared
    shpoison := c.shpoison.filter (fun x => !coversSector off bs.length x)
    shsums := c.shsums.filter (fun x => !touchesSector off bs.length x.1) })

/-- Poison bits and failing check values of a die-shared line. -/
def Cd.linePoison (c : Cd) (line : Nat) : Nat :=
  (if c.shpoison.contains (2 * line) then 1 else 0) + (if c.shpoison.contains (2 * line + 1) then 2 else 0)
def Cd.lineSums (c : Cd) (line : Nat) : KMap (BitVec 16) :=
  [0, 1].filterMap (fun i => (kget c.shsums (2 * line + i)).map (fun v => (i, v)))
/-- A die-shared line's poison and check values stand with its bytes at the bank again. -/
def Cd.markLine (c : Cd) (line poison : Nat) (sums : KMap (BitVec 16)) : Cd :=
  { c with
    shpoison := (c.shpoison ++ [0, 1].filterMap (fun i => if poison.testBit i then some (2 * line + i) else none)).dedup
    shsums := sums.foldl (fun m x => kset m (2 * line + x.1) x.2) c.shsums }

/-- Die-shared sectors whose check value fails where they are read (09 R222). -/
def State.sharedFailing (s : State) (die off n : Nat) : List Nat :=
  (sectorsOf off n).filter (fun x => !(s.cd die).shpoison.contains x
    && checkFails (kget (s.cd die).shsums x) (s.sharedRead die (64 * x) 64))

/-! ## Lines as they are cached -/

/-- What a line holds: its bytes, the poison of its two sectors, and the check values that are not those of their bytes. -/
structure LineData where
  data   : List Byte
  poison : Nat
  sums   : KMap (BitVec 16)
  deriving DecidableEq, Repr

/-- The sectors 0 and 1 of a line, among those that `n` bytes at `a` touch, whose check value fails (09 R222). -/
def LineData.failing (x : LineData) (a n : Nat) : List Nat :=
  [0, 1].filter (fun i => touchesSector (a % 128) n i && !x.poison.testBit i
    && checkFails (kget x.sums i) ((x.data.drop (64 * i)).take 64))

/-- Whether `n` bytes at `a` touch a poisoned sector of a line. -/
def LineData.poisoned (x : LineData) (a n : Nat) : Bool :=
  [0, 1].any (fun i => touchesSector (a % 128) n i && x.poison.testBit i)

/-- A whole line reaches its home. Where it leaves by a port, its sectors are checked first (09 R222). -/
def State.lineHome (s : State) (line : Nat) (x : LineData) (who : List ThreadRef) : State :=
  let k := 128 * line
  let s := ((s.homeWatch k 128 61 none 0).sentFor k who).homeWrite k x.data
  if keyPlace k < 16 then s.markLine line x.poison x.sums
  else
    let bad := x.failing 0 128
    let s := bad.foldl (fun s i => s.report none 0 24 (s.sectorPa (2 * line + i)) 0 0 (keyPlace k)) s
    s.markLine line (bad.foldl (fun p i => p ||| 2 ^ i) x.poison) []

/-! ## L2 -/

/-- The row of a physical line in the slice map (11 R292). -/
def sliceRow (pa : Nat) : Nat :=
  ((pa >>> 7) % 2 ^ 16 ^^^ (pa >>> 23) % 2 ^ 16 ^^^ (pa >>> 39) % 2 ^ 13) % 768

/-- The slice that a map of a die names for a physical address; the map lists rows that differ from the default, row n to slice
n mod 192 (11 R292). -/
def sliceIn (map : Cells 8) (pa : Nat) : Nat := ((kget map (sliceRow pa)).map (·.toNat)).getD (sliceRow pa % 192)

/-- The slice of a physical line, by its key div 128. -/
def State.sliceOf (s : State) (die line : Nat) : Nat := sliceIn (s.cd die).slice (s.sectorPa (2 * line))

/-- Lines that a slice of a die's L2 holds at most: 8 − e eighths of its 1 MiB (01 R16). -/
def State.l2Room (s : State) (die : Nat) : Nat := 1024 * (8 - s.eighths die)

/-- A line in the die's L2: a request goes to the slice that the map names (11 R292). -/
def State.l2Find (s : State) (die line : Nat) : Option L2Line :=
  s.l2.find? (fun x => x.die == die && x.phys == line && x.slice == s.sliceOf die line)

def L2Line.content (x : L2Line) : LineData := { data := x.data, poison := x.poison, sums := x.sums }
def L2Line.same (x y : L2Line) : Bool := x.die == y.die && x.phys == y.phys && x.slice == y.slice

/-- An L2 line leaves, dirty data to its home (09 R220). -/
def State.l2Drop (s : State) (x : L2Line) : State :=
  let s := { s with l2 := s.l2.filter (fun y => !x.same y) }
  if x.dirty then s.lineHome x.phys x.content x.who else s

/-- Adds an L2 line; a full slice first gives up a line of the device's choice (09 R220; log 8). -/
def State.l2Add (s : State) (x : L2Line) : State :=
  let mine := s.l2.filter (fun y => y.die == x.die && y.slice == x.slice)
  let s := if s.l2Room x.die ≤ mine.length then
      match s.pickOne mine with
      | (some v, s) => s.l2Drop v
      | (none, s) => s
    else s
  { s with l2 := x :: s.l2 }

/-- The 128 bytes of a physical line as a compute die reads them: from its L2, or from the home, filling L2 where the
die has ways (09 R220, 11 R292). Answers the line, and the sectors that a DECOMPRESS_CHECK has poisoned. -/
def State.lineRead (s : State) (die line : Nat) (who : Who) (pc : BitVec 56) : LineData × List Nat × State :=
  match s.l2Find die line with
  | some x => (x.content, [], s)
  | none =>
    let s := s.homeWatch (128 * line) 128 62 who pc
    let (data, bad, s) := s.homeRead (128 * line) 128
    let x : LineData := { data := data, poison := s.linePoison line, sums := s.lineSums line }
    let s := if s.eighths die < 8 then
        s.l2Add { die := die, slice := s.sliceOf die line, phys := line, dirty := false, data := data, poison := x.poison,
                  sums := x.sums, who := [] }
      else s
    (x, bad, s)

/-- Bytes written at L2 level: into the die's L2 line, fetched if absent and not written whole, or to the home of a die without
L2 ways (09 R227, 11 R292). -/
def State.lineWrite (s : State) (die k : Nat) (bs : List Byte) (ts : List ThreadRef) (who : Who) (pc : BitVec 56) : State :=
  let line := k / 128
  if s.eighths die < 8 then
    let s := if k = 128 * line ∧ bs.length = 128 then
        (match s.l2Find die line with
         | some _ => s
         | none => s.l2Add { die := die, slice := s.sliceOf die line, phys := line, dirty := true, data := bs, poison := 0,
                             sums := [], who := [] })
      else (s.lineRead die line who pc).2.2
    { s with l2 := s.l2.map (fun x =>
        if x.die == die && x.phys == line && x.slice == s.sliceOf die line then
          { x.patched k bs with dirty := true, who := (x.who ++ ts).dedup }
        else x) }
  else ((s.homeWatch k bs.length 61 who pc).sentFor k ts).homeWrite k bs

/-- A whole line written at L2 level, with its poison and check values. -/
def State.lineBack (s : State) (die line : Nat) (x : LineData) (who : List ThreadRef) : State :=
  if s.eighths die < 8 then
    let s := s.lineWrite die (128 * line) x.data who none 0
    { s with l2 := s.l2.map (fun y =>
        if y.die == die && y.phys == line && y.slice == s.sliceOf die line then { y with poison := x.poison, sums := x.sums }
        else y) }
  else s.lineHome line x who

/-- The L2 lines of a run of physical lines: written back where dirty and `wb`, then dropped where `drop` (08 R196). -/
def State.l2Walk (s : State) (die first n : Nat) (wb drop : Bool) : State :=
  (s.l2.filter (fun x => x.die == die && first ≤ x.phys && x.phys < first + n)).foldl (fun s x =>
    let s := if wb && x.dirty then s.lineHome x.phys x.content x.who else s
    if drop then { s with l2 := s.l2.filter (fun y => !x.same y) }
    else { s with l2 := s.l2.map (fun y => if x.same y then { y with dirty := false, who := [] } else y) }) s

/-! ## L1 -/

def State.l1Find (s : State) (core : Nat) (asid : BitVec 16) (shared : Bool) (slot line : Nat) : Option L1Line :=
  s.l1.find? (fun x => x.core == core && x.asid == asid && x.shared == shared && x.slot == slot && x.line == line)

def L1Line.same (x y : L1Line) : Bool :=
  x.core == y.core && x.asid == y.asid && x.shared == y.shared && x.slot == y.slot && x.line == y.line
def L1Line.content (x : L1Line) : LineData := { data := x.data, poison := x.poison, sums := x.sums }

/-- Changes an L1 line. -/
def State.l1Upd (s : State) (x : L1Line) (f : L1Line → L1Line) : State :=
  { s with l1 := s.l1.map (fun y => if x.same y then f y else y) }

/-- Combines the partials of an update-only line at its home or bank, element by element; the line is one request (09 R221, 14
R367). DESIGN CHOICE (log 98): R223 names DUPD and atomics; a combination on a poisoned sector is performed, leaves it poisoned and is
not reported. -/
def State.combine (s : State) (x : L1Line) : State :=
  let die := x.core / 128
  let s := if x.shared || x.parts.isEmpty then s else s.touch (128 * x.phys)
  x.parts.foldl (fun s p =>
    let n := match p.ty with | .w64 => 8 | _ => 4
    if x.shared then
      let off := 128 * x.line + 4 * p.elem
      let old := BitVec.ofNat 64 (leNat (s.sharedRead die off n))
      s.sharedPut die off (leBytes n (elemOp p.op p.ty n old p.val 0).toNat)
    else
      let k := 128 * x.phys + 4 * p.elem
      let s := s.homeWatch k n 60 none 0
      let old := BitVec.ofNat 64 (leNat (cread s.mem k n))
      (s.sentFor k x.who).settleWrite k (leBytes n (elemOp p.op p.ty n old p.val 0).toNat) (x.who.head?)) s

/-- A dirty or update-only L1 line is written back: to its bank, to L2, or combined (08 R196, 09 R220, R221). -/
def State.l1Back (s : State) (x : L1Line) : State :=
  match x.st with
  | .clean => s
  | .update => s.combine x
  | .dirty =>
    if x.shared then
      (s.sharedPut (x.core / 128) (128 * x.line) x.data).updCd (x.core / 128) (fun c => c.markLine x.line x.poison x.sums)
    else s.lineBack (x.core / 128) x.phys x.content x.who

/-- Lines that an L1 holds: 256 KiB (09 R220). -/
def l1Room : Nat := 2048

/-- Before an L1 is filled with a physical line, its copy of that line under another virtual tag, the ASID and the address (09
R220), is written back and invalidated (11 R286). -/
def State.l1Alias (s : State) (core : Nat) (asid : BitVec 16) (phys line : Nat) : State :=
  let clash := s.l1.filter (fun y => y.core == core && !y.shared && y.phys == phys && (y.line != line || y.asid != asid))
  let s := clash.foldl (fun s y => s.l1Back y) s
  { s with l1 := s.l1.filter (fun y => !(clash.any (fun z => z.same y))) }

/-- Adds an L1 line; a full L1 first evicts a line of the device's choice (09 R220; log 8). -/
def State.l1Add (s : State) (x : L1Line) : State :=
  let mine := s.l1.filter (fun y => y.core == x.core)
  let s := if l1Room ≤ mine.length then
      match s.pickOne mine with
      | (some v, s) =>
        let s := s.l1Back v
        { s with l1 := s.l1.filter (fun y => !v.same y) }
      | (none, s) => s
    else s
  { s with l1 := x :: s.l1 }

/-- Every L1 line of a slot in a core (08 R196: an L1 line is tagged with its SLOT). Borrows of die-shared and global
space share one die table, so a slot names lines of one borrow. -/
def State.l1Slot (s : State) (core slot : Nat) : List L1Line := s.l1.filter (fun x => x.core == core && x.slot == slot)

/-- Invalidates the lines of a slot in a core, without write-back. -/
def State.l1Drop (s : State) (core slot : Nat) : State :=
  { s with l1 := s.l1.filter (fun x => !(x.core == core && x.slot == slot)) }

/-- Writes back the dirty lines and flushes the partials of a slot; lines stay valid and clean, partials are gone
(08 R196, R201, R206). -/
def State.l1Flush (s : State) (core slot : Nat) : State :=
  let s' := (s.l1Slot core slot).foldl (fun s x => s.l1Back x) s
  { s' with l1 := (s'.l1.filter (fun x => !(x.core == core && x.slot == slot && x.st == .update))).map (fun x =>
      if x.core == core && x.slot == slot && x.st == .dirty then { x with st := .clean, who := [] } else x) }

/-! ## Scratch and exchange -/

/-- Byte offset in the scratch allotment of offset `o` of a scratch or exchange region; exchange reaches the live bank
(09 R217). -/
def Block.scratchOff (b : Block) (space o : Nat) : Nat :=
  if space = 3 then b.allot.scratch - b.allot.xbytes + (if b.swapped then b.allot.xbytes / 2 else 0) + o else o

/-- Writes scratch bytes; a sector covered whole loses its poison, a sector written gets its check value (09 R222, R223). -/
def Block.scratchPut (b : Block) (o : Nat) (bs : List Byte) : Block :=
  { b with scratch := cwrite b.scratch o bs
           spoison := b.spoison.filter (fun x => !coversSector o bs.length x)
           ssums := b.ssums.filter (fun x => !touchesSector o bs.length x.1) }

/-- Scratch sectors whose check value fails where they are read (09 R222). -/
def Block.scratchFailing (b : Block) (o n : Nat) : List Nat :=
  (sectorsOf o n).filter (fun x => !b.spoison.contains x && checkFails (kget b.ssums x) (cread b.scratch (64 * x) 64))

/-- Absent lines among those that `n` bytes at `o` touch (09 R218, R219). -/
def Block.absentIn (b : Block) (o n : Nat) : Bool :=
  n != 0 && b.absent.any (fun e => o / 128 ≤ e.1 && e.1 ≤ (o + n - 1) / 128)

/-! ## One element, as a thread or an engine reaches it -/

/-- Byte address of offset `o` of a region in its space (08 R188). -/
def Region.addr (g : Region) (o : Nat) : Nat := 128 * g.base.toNat + o

/-- What stands against an access before it can be performed. -/
inductive Bar
  | none
  | lines (first last : Nat)      -- 09 R219: absent scratch lines
  | miss (va : Nat)               -- 11 R285: a table walk is needed
  | prot (va : Nat)               -- PAGE_PROTECTION
  | down (va : Nat)               -- 16 R398: a link of the route is down
  | overflow                      -- 11 R291: the granule waits for reserve
  deriving DecidableEq, Repr

/-- Whether a region's accesses go through cache lines: E and S in global and die-shared space (09 R220). -/
def Region.cached (g : Region) : Bool := g.space.toNat ≤ 1 && (g.kind == 1 || g.kind == 2)

/-- The L1 line of a core that holds byte address `a` of a region: its ASID, address and slot agree (09 R220, 08 R196). -/
def State.lineOf (s : State) (b : Block) (g : Region) (a : Nat) : Option L1Line :=
  s.l1Find b.coreIx b.desc.asid (g.space == 1) g.tag (a / 128)

/-- What stands against an access of `n` bytes at offset `o` of a region by a thread or engine of block `b`. Only L1
misses are translated (11 R286). -/
def State.barOf (s : State) (b : Block) (g : Region) (o n : Nat) (acc : Access) (priv : Bool) : Bar :=
  let a := g.addr o
  if 2 ≤ g.space.toNat then
    let x := b.scratchOff g.space.toNat a
    if b.absentIn x n then .lines (x / 128) ((x + n - 1) / 128) else .none
  else if g.space == 1 then .none
  else if g.cached && (s.lineOf b g a).isSome then .none
  else
    match s.translate b a acc priv with
    | .hit k => if !s.keyReach b.die k then .down a else if s.overflowed k then .overflow else .none
    | .miss => .miss a
    | .absent => .miss a
    | .prot => .prot a

/-- A line of L1 for a region, clean and with no partials. -/
def newLine (b : Block) (g : Region) (a phys : Nat) (glb : Bool) (x : LineData) : L1Line :=
  { core := b.coreIx, asid := b.desc.asid, glb := glb, shared := g.space == 1, line := a / 128, phys := phys,
    slot := g.tag, st := .clean, data := x.data, poison := x.poison, sums := x.sums, parts := [], who := [] }

/-- Whether the TLB translates an address through a `GLB` leaf. -/
def State.glbOf (s : State) (b : Block) (a : Nat) : Bool :=
  ((s.tlbFind (clusterOf b.coreIx) b.desc.asid a).map (·.glb)).getD false

/-- The line that holds byte address `a` of a cached region: in L1, at the die-shared bank, in L2 or at the home; an L1 line is
filled where `fill` says so (09 R220, R227; 11 R286). Answers the line and the sectors that a DECOMPRESS_CHECK has
poisoned. -/
def State.lineFor (s : State) (b : Block) (g : Region) (a : Nat) (acc : Access) (priv fill : Bool) (who : Who)
    (pc : BitVec 56) : LineData × List Nat × State :=
  match s.lineOf b g a with
  | some x => (x.content, [], s)
  | none =>
    if g.space == 1 then
      let x : LineData := { data := s.sharedRead b.die (a / 128 * 128) 128, poison := (s.cd b.die).linePoison (a / 128),
                            sums := (s.cd b.die).lineSums (a / 128) }
      (x, [], if fill then s.l1Add (newLine b g a 0 false x) else s)
    else
      match s.translate b a acc priv with
      | .hit k =>
        let s := if fill then s.l1Alias b.coreIx b.desc.asid (k / 128) (a / 128) else s
        let (x, bad, s) := s.lineRead b.die (k / 128) (who.moved a k) pc
        (x, bad, if fill then s.l1Add (newLine b g a (k / 128) (s.glbOf b a) x) else s)
      | _ => ({ data := [], poison := 0, sums := [] }, [], s)

/-- CHECK_MISMATCH, once for each sector, with its address in the region (09 R222). -/
def State.mismatch (s : State) (who : Who) (pc : BitVec 56) (sectors : List Nat) (home : Nat) : State :=
  sectors.foldl (fun s x => s.report (who.map (·.1)) pc 24 (64 * x) 0 (who.over (64 * x) 64) home) s

/-- A line that a read has found failing takes the poison of its sectors `is`: in L1, in L2 and at the home, at each where it
stands so (09 R222: once for the sector). -/
def State.poisonLine (s : State) (b : Block) (g : Region) (a : Nat) (acc : Access) (priv : Bool) (is : List Nat) : State :=
  let p := is.foldl (fun p i => p ||| 2 ^ i) 0
  let s := match s.lineOf b g a with
    | some x => s.l1Upd x (fun x => { x with poison := x.poison ||| p })
    | none => s
  if g.space == 1 then
    s.updCd b.die (fun c => c.markLine (a / 128) p [])
  else
    match s.translate b a acc priv with
    | .hit k =>
      let s := match s.l2Find b.die (k / 128) with
        | some x => { s with l2 := s.l2.map (fun y => if x.same y then { y with poison := y.poison ||| p } else y) }
        | none => s
      -- the home, where the sector fails there too: a later reader finds poison
      let there := (s.failing (128 * (k / 128)) 128).filter (fun x => is.contains (x % 2))
      s.addPoison (if (s.l2Find b.die (k / 128)).isSome then there else is.map (fun i => 2 * (k / 128) + i))
    | _ => s

/-- Reads `n` bytes at offset `o` of a region, within one line, nothing standing against it: the bytes, whether a sector of them
is poisoned, and the state. The sectors are checked as they are read (09 R222). `fill` is false for LDN and the copy path,
which leave L1 as it is (09 R227). -/
def State.readAt (s : State) (bk : Nat) (b : Block) (g : Region) (o n : Nat) (acc : Access) (priv fill : Bool)
    (who : Who) (pc : BitVec 56) : List Byte × Bool × State :=
  let a := g.addr o
  if 2 ≤ g.space.toNat then
    let b := (s.blk? bk).getD b
    let x := b.scratchOff g.space.toNat a
    let bad := b.scratchFailing x n
    let s := if bad.isEmpty then s else
      (s.updBlk bk (fun b => { b with spoison := (b.spoison ++ bad).dedup })).mismatch (who.moved a x) pc bad 0
    (cread b.scratch x n, !bad.isEmpty || (sectorsOf x n).any b.spoison.contains, s)
  else if g.cached then
    let (x, gone, s) := s.lineFor b g a acc priv fill who pc
    let bad := x.failing a n
    let s := if bad.isEmpty then s else s.poisonLine b g a acc priv bad
    let s := s.mismatch who pc ((gone.map (fun i => i % 2) ++ bad).dedup.map (fun i => 2 * (a / 128) + i)) (b.die % 4 * 2)
    ((x.data.drop (a % 128)).take n, !bad.isEmpty || x.poisoned a n, s)
  else if g.space == 1 then
    let bad := s.sharedFailing b.die a n
    let s := if bad.isEmpty then s else
      (s.updCd b.die (fun c => { c with shpoison := (c.shpoison ++ bad).dedup })).mismatch who pc bad (b.die % 4 * 2)
    (s.sharedRead b.die a n, (sectorsOf a n).any (s.cd b.die).shpoison.contains, s)
  else
    match s.translate b a acc priv with
    | .hit k =>
      let s := s.homeWatch k n 62 (who.moved a k) pc
      let (bs, gone, s) := s.homeRead k n
      let bad := (gone ++ s.failing k n).dedup
      let s := (s.addPoison bad).mismatch who pc (bad.map (fun x => x + a / 64 - k / 64)) (keyPlace k)
      (bs, (sectorsOf k n).any s.poison.contains, s)
    | _ => ([], false, s)

/-- The bytes that a partial write merges with, at the level that holds the sector whole: they go to no register, and are not
checked (09 R222, R224). -/
def State.peekAt (s : State) (bk : Nat) (b : Block) (g : Region) (o n : Nat) (acc : Access) (priv fill : Bool) (who : Who)
    (pc : BitVec 56) : List Byte × State :=
  let a := g.addr o
  if 2 ≤ g.space.toNat then (cread ((s.blk? bk).getD b).scratch (b.scratchOff g.space.toNat a) n, s)
  else
    let (x, _, s) := s.lineFor b g a acc priv fill who pc
    ((x.data.drop (a % 128)).take n, s)

/-- Merges data into old bytes under bit enables (09 R224). -/
def mergeBits (old data en : Byte) : Byte := (old &&& ~~~en) ||| (data &&& en)

/-- Whether the line at a byte address of a region lies in host or pool memory: what a thread writes there is performed when the
port accepts it, and reads return what the memory holds (10 R267; log 72). -/
def portKey (k : Nat) : Bool := keyPlace k == 16 || keyPlace k == 17

/-- Writes bytes at offset `o` of a region, within one line, nothing standing against it. `fill` is false for STN and the copy
path: an absent line is written at the level that holds the sector whole (09 R224, R227). -/
def State.writeAt (s : State) (bk : Nat) (b : Block) (g : Region) (o : Nat) (bs : List Byte) (acc : Access)
    (priv fill : Bool) (who : Who) (pc : BitVec 56) : State :=
  let a := g.addr o
  -- release sides do not wait for the copy path (10 R254)
  let ts := match who with
    | some (_, _, .copy _ _) | none => []
    | some (t, _, _) => [t]
  if 2 ≤ g.space.toNat then s.updBlk bk (fun b => b.scratchPut (b.scratchOff g.space.toNat a) bs)
  else
    let put := fun (s : State) =>
      match s.lineOf b g a with
      | none => s
      | some x =>
        let s := s.l1Upd x (fun x => { x.patched (a / 128) a bs with st := .dirty, who := (x.who ++ ts).dedup })
        if !x.shared && portKey (128 * x.phys) then s.homeWrite (128 * x.phys + a % 128) bs else s
    if (s.lineOf b g a).isSome then put s
    else if g.space == 1 && !fill then s.sharedPut b.die a bs
    else if fill then put (s.lineFor b g a acc priv true who pc).2.2
    else
      match s.translate b a acc priv with
      | .hit k =>
        let s := s.lineWrite b.die k bs ts (who.moved a k) pc
        if portKey k && s.eighths b.die < 8 then s.homeWrite k bs else s
      | _ => s

end Sys2Proof.Machine
end

