-- ==== Sys2Proof/Machine/Links.lean ====
section
/-!
DEFINITION. Machine/Links.lean: flit streams, modules and scale-up ports (16 R392-R403, R409; 23 R446-R448), and the
meanings of the link's steps. A flit is transmitted by posting its arrival; what goes wrong with it on the way is for
the outside world to say, by the arrival's CRC outcome (log 4).
-/
namespace Sys2Proof.Machine

/-- Key of a stream. -/
def hopKey (a b : DieId) : Nat := 32 * (dieIx a) + (dieIx b)

/-- Module number of a hop at a die: `peer` is at the other end. -/
def modOf (d peer : DieId) (m : Nat) : Nat := 2 * (linkIx d peer).getD 0 + m
/-- Counter-block key of a module (16 R400). -/
def ctrKey (d : DieId) (m : Nat) : Nat := 16 * (dieIx d) + m

/-- The module of a link that takes the next flit: the lower-numbered one in L0 (16 R394, R397). -/
def State.carrier (s : State) (a b : DieId) : Option Nat :=
  if s.modState a (modOf a b 0) = 2 then some 0 else if s.modState a (modOf a b 1) = 2 then some 1 else none

/-- Sets the state field of a module at both ends of its link: the two ends run one machine (16 R397). -/
def State.setMod (s : State) (a b : DieId) (m st : Nat) : State :=
  let put := fun (s : State) (x y : DieId) =>
    s.setLkst x (modOf x y m) (setFld (s.lkst x (modOf x y m)) 63 61 st)
  put (put s a b) b a

/-- An idle period of a module begins, with LINKPOL as it stands (16 R397, R401). -/
def State.idleFrom (s : State) (a b : DieId) (m : Nat) : State :=
  { s with idlePol := kset (kset s.idlePol (ctrKey a (modOf a b m)) s.pkg.linkpol) (ctrKey b (modOf b a m)) s.pkg.linkpol }

/-- A flit is due on a link with no module in L0: modules in L0N or L1S start to wake (16 R397, R402). -/
def State.wakeLink (s : State) (a b : DieId) : State :=
  [0, 1].foldl (fun s m =>
    let st := s.modState a (modOf a b m)
    if st = 3 ∨ st = 4 then (s.setMod a b m 5).post (.wakeComplete a (modOf a b m)) else s) s

/-- Sends what waits on a stream, up to seven slots a flit, while a module can take it and the replay buffer has room
(16 R393, R394; 23 R446). -/
def State.kick (s : State) (a b : DieId) : Nat → State
  | 0 => s
  | fuel + 1 =>
    let st := s.stream (hopKey a b)
    if st.queue.isEmpty then s
    else
      match s.carrier a b with
      | none => s.wakeLink a b
      | some m =>
        if 64 ≤ st.buf.length then s
        else
          let back := s.stream (hopKey b a)
          let f : Flit := { seq := st.tx, ack := some ((back.rx + 255) % 256), nak := back.ackDue == some true, resync := false,
                            tries := 1, slots := st.queue.take 7, epoch := st.epoch }
          let s := s.updStream (hopKey a b) (fun st =>
            { st with tx := (st.tx + 1) % 256, buf := st.buf ++ [f], queue := st.queue.drop 7 })
          -- the acknowledgement of the other direction, or its NAK, rides in it
          let s := if back.unacked = 0 ∧ back.ackDue = none then s
            else s.updStream (hopKey b a) (fun st => { st with unacked := 0, ackDue := none })
          ((s.idleFrom a b m).post (.flitReceive { src := a, dst := b, mod := m } f true)).kick a b fuel

/-- Every slot that waits is sent, while it can be: each flit takes at least one. -/
def State.kickAll (s : State) (a b : DieId) : State := s.kick a b ((s.stream (hopKey a b)).queue.length + 1)

/-- The acknowledgement of a stream, or its NAK, goes in a flit with no slot (23 R447) by the module that carries the link's other
direction; with none in L0 it waits, and the link wakes (16 R394, R402). `h` is the stream acknowledged. -/
def State.sendAck (s : State) (h : Hop) (nak : Bool) : State :=
  let key := hopKey h.src h.dst
  match s.carrier h.dst h.src with
  | some m =>
    ((s.updStream key (fun st => { st with unacked := 0, ackDue := none })).idleFrom h.dst h.src m).post
      (.ackOnlyFlit { src := h.dst, dst := h.src, mod := m } (((s.stream key).rx + 255) % 256) nak true (s.stream key).epoch)
  | none => (s.updStream key (fun st => { st with ackDue := some (nak || st.ackDue == some true) })).wakeLink h.dst h.src

/-- Sends a slot from a die towards its target (01 R14). -/
def State.send (s : State) (here dst : DieId) (x : Slot) : State :=
  match nextHop here dst with
  | none => s
  | some b =>
    (s.updStream (hopKey here b) (fun st => { st with queue := st.queue ++ [x] })).kickAll here b

/-- The hop of a route that leaves the seams of a compute die's partition. -/
def State.seamHop (s : State) (own : Nat) : List DieId → Option (DieId × DieId)
  | a :: b :: r =>
    match b with
    | .cd n => if s.inSeams own n then s.seamHop own (b :: r) else some (a, b)
    | .md _ => s.seamHop own (b :: r)
  | _ => none

/-- A message that a seam refuses is counted at the last die inside (16 R415). -/
def State.countSeam (s : State) (own : Nat) (r : List DieId) : State :=
  match s.seamHop own r with
  | some (a, b) => if s.routeUp r then s.bump (ctrKey a (modOf a b 0)) 6 else s
  | none => s

/-- The target of a slot. -/
def slotDst : Slot → DieId
  | .eop d _ => d
  | .request r => r.dst
  | .reply d _ _ _ _ => d
  | .mark p _ => if p < 16 then .md p else if p = 16 then .md 0 else if p = 17 then .md 8 else .cd (p - 32)

/-- The write of a request of this package's own thread is sent in this window (10 R261). -/
def State.sentSlot (s : State) (x : Slot) : State :=
  match x with
  | .request r =>
    if r.dev = fld s.pkg.devno 7 0 then
      (match r.owner with
       | .regs t _ _ => s.sentNow t
       | .waits t => s.sentNow t)
    else s
  | _ => s

/-- A frame leaves a scale-up port with its slots and the stamp of the local window (16 R409, 10 R262). -/
def State.putFrame (s : State) (port dev : Nat) (slots : List Slot) : State :=
  let d := s.md port
  let f : Frame := { seq := d.portSeq, ack := some ((d.portRx + 65535) % 65536), nak := false,
                     src := fld s.pkg.devno 7 0, dst := dev, stamp := s.pkg.timeNs.toNat / 2 ^ fld s.pkg.wlen 3 0,
                     slots := slots }
  let s := slots.foldl State.sentSlot s
  (s.updMd port (fun d => { d with portSeq := (d.portSeq + 1) % 65536, portBuf := d.portBuf ++ [f], portUnacked := 0 })).emit
    (.frame port f)

/-- Sends slots to another package: at once while the replay buffer of the port has room for a frame, in their turn when it has
again (16 R409). A port that is down sends nothing. -/
def State.sendFrame (s : State) (port dev : Nat) (slots : List Slot) : State :=
  let d := s.md port
  if !d.portUp then s
  else if 256 ≤ d.portBuf.length ∨ d.portWait ≠ [] then s.updMd port (fun d => { d with portWait := d.portWait ++ [(dev, slots)] })
  else s.putFrame port dev slots

/-- What waits at a port is sent while its replay buffer has room. -/
def State.drainPort (s : State) (port : Nat) : Nat → State
  | 0 => s
  | fuel + 1 =>
    let d := s.md port
    match d.portWait with
    | [] => s
    | (dev, slots) :: r =>
      if 256 ≤ d.portBuf.length then s
      else ((s.updMd port (fun d => { d with portWait := r })).putFrame port dev slots).drainPort port fuel

/-- A physical address of the package's own memory under its device number names the same place as the plain address (16
R406). -/
def State.ownPa (s : State) (pa : Nat) : Nat :=
  if pa >>> 49 = 4 ∧ (pa >>> 41) % 256 = fld s.pkg.devno 7 0 then pa % 2 ^ 41 else pa

/-! ## The filter of repeats (16 R396, R409) -/

/-- Key of the record that a receiver keeps of an origin. -/
def filterKey (dev : Nat) (recv : DieId) (id : Nat) : Nat := 1024 * dev + 32 * dieIx recv + id / 2 ^ 27

/-- Running count from the first ID to the second. -/
def idAge (newer older : Nat) : Nat := (newer % 2 ^ 27 + 2 ^ 27 - older % 2 ^ 27) % 2 ^ 27

/-- Whether an ID is in the record of its origin, or older than it; with the reply that is kept for it. -/
def State.repeated (s : State) (dev : Nat) (recv : DieId) (id : Nat) : Option (Option (List DWord × Bool)) :=
  match kget s.filters (filterKey dev recv id) with
  | none => none
  | some f =>
    match f.seen.find? (fun x => x.1 == id) with
    | some x => some x.2
    | none =>
      let oldest := ((f.seen.getLast?).map (·.1)).getD id
      if f.seen.length = 1024 ∧ idAge f.top oldest < idAge f.top id ∧ idAge f.top id < 2 ^ 26 then some none else none

/-- A performed request enters the record; `reply` is what it was answered with. -/
def State.noteSeen (s : State) (dev : Nat) (recv : DieId) (id : Nat) (reply : Option (List DWord × Bool)) : State :=
  let k := filterKey dev recv id
  let f := (kget s.filters k).getD { top := id, seen := [] }
  let top := if idAge id f.top < 2 ^ 26 then id else f.top
  let f' : Filter := { top := top, seen := ((id, reply) :: f.seen.filter (fun x => x.1 != id)).take 1024 }
  { s with filters := kset s.filters k f' }

/-- The answer of a request reaches its requester: a later answer of the same ID finds no request waiting (23 R448). -/
def State.takeReply (s : State) (id : Nat) (o : ReqOwner) (vals : List DWord) (poison : Bool) (r : Option Request) :
    State :=
  if s.waitReq.any (fun r => r.id == id) then
    let s := { s with waitReq := s.waitReq.filter (fun r => r.id != id) }
    match o with
    | .regs t pend ws =>
      let v := vals.headD 0
      -- a register pair takes the value's two halves
      let ws := ((List.range ws.length).zip ws).map (fun w => { w.2 with val := v >>> (32 * w.1) })
      let s := s.post (.loadDataReturn t pend (if poison then [] else ws))
      match (if poison then r else none) with
      | some q => s.postFault t (s.record t 25 1 q.pc (vals.getD 1 0).toNat q.lanes 0)
      | none => s
    | .waits t => s.answer t vals
  else s

/-- An ownership message reaches its target: its own step, or EOP_DISCARD for an unassigned type (11 R275). -/
def State.takeEop (s : State) (here : DieId) (ctr : Nat) (m : EopMsg) : State :=
  match here with
  | .cd n =>
    if m.typ = 2 then s.post (.grant n m)
    else if m.typ = 5 then s.post (.pending n m)
    else if m.typ = 7 then s.post (.lost n m)
    else if m.typ = 8 then s.post (.retack n m)
    else s.post (.eopDiscard ctr m)
  | .md n =>
    -- the proxy table of MD0 takes host and pool addresses (08 R193, 16 R406)
    let home := if n = 0 ∧ (m.base >>> 41 = 1 ∨ m.base >>> 41 = 2) then 16 else n
    if m.typ = 1 then s.post (.req home m)
    else if m.typ = 3 then s.post (.returnMessage home m)
    else if m.typ = 4 then s.post (.count home m)
    else if m.typ = 6 then s.post (.reclaim home m)
    else s.post (.eopDiscard ctr m)

/-- A message at a port's die for another package leaves by the port; one that has come for a unit of this package goes to
the unit's home (16 R409, R410). `none`: the message is for this die. -/
def State.passEop (s : State) (here : DieId) (m : EopMsg) : Option (DieId × EopMsg ⊕ Nat) :=
  match here with
  | .cd _ => none
  | .md n =>
    if m.base >>> 42 ≠ 4 then none
    else
      let dev := (m.base >>> 34) % 256
      if dev ≠ fld s.pkg.devno 7 0 then some (.inr dev)
      else
        let m := { m with base := m.base % 2 ^ 34 }
        let home := match s.paKey (((s.partDies (mdColumn n)).head?).getD 0) (128 * m.base) with
          | some k => if keyPlace k < 16 then .md (keyPlace k) else .md 0
          | none => .md n
        some (.inl (home, m))

/-- An ownership message that is no repeat is taken (16 R396). -/
def State.freshEop (s : State) (here : DieId) (ctr : Nat) (m : EopMsg) : State :=
  if (s.repeated m.devno here m.id).isSome then s.bump ctr 5 else (s.noteSeen m.devno here m.id none).takeEop here ctr m

/-- A delivered slot: its step at the target, or on to the next die unchanged (01 R14). -/
def State.deliver (s : State) (here : DieId) (ctr : Nat) (x : Slot) : State :=
  if (slotDst x) = here then
    match x with
    | .eop _ m =>
      (match s.passEop here m with
       | some (.inr dev) => (match here with
         | .md n => s.sendFrame n dev [.eop here m]
         | .cd _ => s)
       | some (.inl (home, m)) => if home = here then s.freshEop here ctr m else s.send here home (.eop home m)
       | none => s.freshEop here ctr m)
    | .request r => s.post (.requestDelivery here ctr r)
    | .reply _ id o vals p => s.takeReply id o vals p (s.waitReq.find? (fun r => r.id == id))
    | .mark p n => s.post (.systemScPerform p n)
  else s.send here (slotDst x) x

/-- A slot for a target on the sending die itself needs no link. -/
def State.sendOrTake (s : State) (here dst : DieId) (x : Slot) : State :=
  if here = dst then s.deliver here 0 x else s.send here dst x

/-- Takes the flits held early that now follow in order (16 R394). -/
def State.drainEarly (s : State) (h : Hop) (ctr : Nat) : Nat → State
  | 0 => s
  | fuel + 1 =>
    let st := s.stream (hopKey h.src h.dst)
    match st.early.find? (fun f => f.seq == st.rx) with
    | none => s
    | some f =>
      let s := s.updStream (hopKey h.src h.dst) (fun st =>
        { st with rx := (st.rx + 1) % 256, early := st.early.filter (fun g => g.seq != f.seq),
                  unacked := st.unacked + 1 })
      (f.slots.foldl (fun s x => s.deliver h.dst ctr x) s).drainEarly h ctr fuel

/-- Acknowledgement up to `ack`, cumulative (16 R394). -/
def ackUpTo (buf : List Flit) (ack : Nat) : List Flit :=
  match buf with
  | [] => []
  | f :: r => if (buf.any (fun g => g.seq == ack)) then (if f.seq = ack then r else ackUpTo r ack) else buf

def State.takeAck (s : State) (a b : DieId) (ack : Option Nat) : State :=
  match ack with
  | none => s
  | some n => (s.updStream (hopKey a b) (fun st => { st with buf := ackUpTo st.buf n })).kickAll a b

/-- Whether flit `x` comes after flit `y` in a stream (16 R394; sequence numbers are modulo 256). -/
def seqAfter (x y : Nat) : Bool := x != y && decide ((x + 256 - y) % 256 < 128)

/-- The failed flit that a receiver discards after: the earlier of two, and none that was delivered before. -/
def Stream.failed (st : Stream) (seq : Nat) : Nat :=
  let q := if seqAfter st.rx seq then st.rx else seq
  match st.discard with
  | some p => if seqAfter p q then q else p
  | none => q

/-- Resends the replay buffer in order, each flit a replay with the acknowledgement as it stands; with no module in L0 the replay waits,
and the link wakes (16 R394, R402, FLIT_REPLAY). -/
def State.replay (s : State) (a b : DieId) : State :=
  match s.carrier a b with
  | none => (s.updStream (hopKey a b) (fun st => { st with again := true })).wakeLink a b
  | some m =>
    let st := s.stream (hopKey a b)
    let back := s.stream (hopKey b a)
    let fs := st.buf.map (fun f => { f with tries := f.tries + 1, ack := some ((back.rx + 255) % 256), nak := false })
    let s := (s.updStream (hopKey a b) (fun st => { st with buf := fs, again := false })).idleFrom a b m
    fs.foldl (fun s f => (s.bump (ctrKey a (modOf a b m)) 1).post (.flitReceive { src := a, dst := b, mod := m } f true)) s

/-- What a direction of a link holds for a module is sent: the replay that waits, then the slots, then an acknowledgement or a NAK that
found no slot to ride on (16 R394, R402; 23 R447). -/
def State.sendWaiting (s : State) (a b : DieId) (m : Nat) : State :=
  let s := (if (s.stream (hopKey a b)).again then s.replay a b else s).kickAll a b
  match (s.stream (hopKey b a)).ackDue with
  | some nak => s.sendAck { src := b, dst := a, mod := m } nak
  | none => s

/-- A link is declared down (16 R397, R398): both modules DOWN with one cause, replay buffers discarded. The LOST
entries of R281 are the business of `linkLost` in OwnTables.lean, which finishes the step. -/
def State.downModules (s : State) (a b : DieId) (cause : Nat) : State :=
  let put := fun (s : State) (x y : DieId) (m : Nat) =>
    s.setLkst x (modOf x y m) (setFld (setFld (s.lkst x (modOf x y m)) 63 61 0) 58 56 cause)
  let s := [0, 1].foldl (fun s m => put (put s a b m) b a m) s
  let s := s.updStream (hopKey a b) (fun _ => Stream.reset)
  s.updStream (hopKey b a) (fun _ => Stream.reset)

/-- Entry of a module to L0: its CRC count restarts (16 R395). `half` is the half that it keeps, where the entry says one. -/
def State.toL0 (s : State) (a b : DieId) (m : Nat) (deg : Bool) (half : Option Nat) : State :=
  let put := fun (s : State) (x y : DieId) =>
    let v := setFld (setFld (s.lkst x (modOf x y m)) 63 61 2) 60 60 (if deg then 1 else 0)
    let s := s.setLkst x (modOf x y m) ((half.map (fun n => setFld v 59 59 n)).getD v)
    let s := if deg then s.bump (ctrKey x (modOf x y m)) 3 else s
    { s with modErr := kdel s.modErr (ctrKey x (modOf x y m)) }
  (put (put s a b) b a).idleFrom a b m

/-- Entry of a module to L0, and what waits for one is sent (16 R397, R402). -/
def State.enterL0 (s : State) (a b : DieId) (m : Nat) (deg : Bool) (half : Option Nat) : State :=
  ((s.toL0 a b m deg half).sendWaiting a b m).sendWaiting b a m

/-! ## Steps of the link -/

/-- ERROR_INTERVAL: the module's CRC failure count restarts (16 R395). -/
def execErrorInterval (s : State) : Host.Outcome State Fault Refusal :=
  match s.due with
  | some (.errorInterval d m) => .next { s with modErr := kdel s.modErr (ctrKey d m) }
  | _ => .next s

/-- A module leaves for lower power, when the interval that LINKPOL held as its idle period began is set and it is idle in a state that
allows it (16 R397, R401). -/
def State.idle (s : State) (d : DieId) (m low : Nat) : State :=
  match linkPeer d (m / 2) with
  | none => s
  | some p =>
    let st := s.modState d m
    let pol := (kget s.idlePol (ctrKey d m)).getD 0
    let n := if low = 3 then fld pol 47 40 else fld pol 39 32
    let ok := if low = 3 then st = 2 ∧ fld (s.lkst d m) 60 60 = 0 else st = 2 ∨ st = 3
    let busy := !(s.stream (hopKey d p)).queue.isEmpty || !(s.stream (hopKey p d)).queue.isEmpty
    if n ≠ 0 ∧ ok ∧ !busy then s.setMod d p (m % 2) low else s

/-- L0N_IDLE: an idle module enters L0N, on lanes 0-31 (16 R397). -/
def execL0nIdle (s : State) : Host.Outcome State Fault Refusal :=
  match s.due with
  | some (.l0nIdle d m) => .next (s.idle d m 3)
  | _ => .next s

/-- L1S_IDLE: an idle module enters L1S (16 R397). -/
def execL1sIdle (s : State) : Host.Outcome State Fault Refusal :=
  match s.due with
  | some (.l1sIdle d m) => .next (s.idle d m 4)
  | _ => .next s

/-- WAKE_COMPLETE: a waking module reaches full width and returns to L0 (16 R397). -/
def execWakeComplete (s : State) : Host.Outcome State Fault Refusal :=
  match s.due with
  | some (.wakeComplete d m) =>
    match linkPeer d (m / 2) with
    | some p =>
      if s.modState d m = 5 then
        .next (s.enterL0 d p (m % 2) (fld (s.lkst d m) 60 60 = 1) none)
      else .next s
    | none => .next s
  | _ => .next s

/-- TRAIN: CMD 1 starts training of a DOWN module (16 R397, R399). -/
def execTrain (s : State) : Host.Outcome State Fault Refusal :=
  match s.due with
  | some (.train d m) =>
    match linkPeer d (m / 2) with
    | some p => if s.modState d m = 0 then .next (s.setMod d p (m % 2) 1) else .next s
    | none => .next s
  | _ => .next s

/-- LWAKE: every module of the route in L0N or L1S starts to wake, and the idle timers of the route's links restart (16 R403). -/
def State.wakeRoute (s : State) : List DieId → State
  | a :: b :: r => (((s.wakeLink a b).idleFrom a b 0).idleFrom a b 1).wakeRoute (b :: r)
  | _ => s

end Sys2Proof.Machine
end

