-- ==== Sys2Proof/Machine/OwnTables.lean ====
section
/-!
DEFINITION. Machine/OwnTables.lean: the ownership tables and the messages between them (08 R193-R196, 11 R269-R281).
Kinds are numbers as R187 codes them: 1 E, 2 S, 3 A, 4 Y.
-/
namespace Sys2Proof.Machine

/-! ## Conflicts -/

/-- Whether two ranges of units share one (08 R193). -/
def overlaps (a la b lb : Nat) : Bool := a ≤ b + lb && b ≤ a + la

/-- Whether two kinds stand together (08 R193). -/
def together (a b : Nat) : Bool := a == b && a != 1

/-! ## Registers that name a slot -/

/-- Changes every region register of a block. -/
def Block.mapRegions (b : Block) (f : Region → Region) : Block :=
  let g := fun (m : KMap Region) => m.map (fun e => (e.1, f e.2))
  { b with
    warps := b.warps.map (fun w => { w with g := g w.g, aside := f w.aside })
    front := { b.front with b := g b.front.b, aside := f b.front.aside } }

/-- Changes every register of a die that names a slot of the die table (08 R210). -/
def State.mapSlot (s : State) (die slot : Nat) (f : Region → Region) : State :=
  { s with blocks := s.blocks.map (fun e =>
      if e.2.die = die then
        (e.1, e.2.mapRegions (fun g =>
          if g.kind ≠ 0 ∧ g.space.toNat ≤ 1 ∧ g.tag = slot then f g else g))
      else e) }

/-- Changes every register of a block that names a slot of its core's scratch table. -/
def State.mapScratchSlot (s : State) (blk slot : Nat) (f : Region → Region) : State :=
  s.updBlk blk (fun b => b.mapRegions (fun g =>
    if g.kind ≠ 0 ∧ 2 ≤ g.space.toNat ∧ g.tag = slot then f g else g))

def markPending (g : Region) : Region := if g.kind = 2 ∨ g.kind = 3 then { g with wpseen := true } else g
def markLost (g : Region) : Region := { g with lost := true }

/-! ## Filling the register that a grant is for -/

/-- The register of a granted borrow (08 R200); a notice that came while it was requested is seen (R194). -/
def grantedRegion (e : DieEntry) (slot : Nat) : Region :=
  { Region.empty with
    kind := BitVec.ofNat 3 e.kind, space := BitVec.ofNat 2 e.space, taint := e.taint, wpseen := e.wp && (e.kind == 2 || e.kind == 3),
    slot := BitVec.ofNat 16 slot, lenm1 := BitVec.ofNat 34 e.lenm1, base := BitVec.ofNat 49 e.base }

/-- Registers of a thread's owner: `G` of its warp, `B` of the front thread. -/
def State.setRegion (s : State) (t : ThreadRef) (r : Nat) (g : Region) : State :=
  s.updBlk t.blk (fun b => b.setRegion t.warp r g)

/-- Tells the user of an entry that the borrow is granted: the register is filled and the waiting instruction answered
(08 R200); for B1 the block may start (08 R189). -/
def State.tellGranted (s : State) (e : DieEntry) (slot : Nat) : State :=
  match e.user with
  | .thread t r => (s.setRegion t r (grantedRegion e slot)).answer t [if e.taint then 3 else 0]
  | .args b => (s.begin b).setRegion { blk := b, warp := 32, armE := false } 1
                 (grantedRegion e slot)
  | _ => s

/-- The status of an entry whose RETURN lost a piece to a link that went down (08 R206 item 5). -/
def cutOff : Nat := 8

/-- Tells the user of an entry that its request ended without a grant (08 R199, R189), or that its RETURN is over: LINK_DOWN
where a link has taken a piece (R206). -/
def State.tellRefused (s : State) (die : Nat) (e : DieEntry) : State :=
  match e.user with
  | .thread t _ =>
    let s' := s.answer t [BitVec.ofNat 64 e.status]
    if e.status = cutOff then
      match s.thread? t with
      | some th => s'.postFault t (s.record t 29 1 th.pc (128 * e.base) 0 0)
      | none => s'
    else s'
  | .args b =>
    let s := s.begin b
    s.ringPut die { s.unitRecord die 11 3 (128 * e.base) (6 * 4096 + die * 256) (((s.blk? b).map (·.ctx)).getD 0) with
                    core := ((s.blk? b).map (·.core)).getD 0, blockIx := ((s.blk? b).map (·.blockIx)).getD 0 }
  | _ => s

/-! ## Local arbitration: scratch and exchange in the core, die-shared in the die table (08 R193, R194) -/

/-- Whether two local entries lie in the same bytes. -/
def localClash (x y : DieEntry) : Bool :=
  x.space == y.space && (x.space == 1 || x.blk == y.blk) && overlaps x.base x.lenm1 y.base y.lenm1

/-- Whether an entry of a local table is a request that waits: one whose thread waits, or an ABANDONED one, which goes at its
grant (11 R277). -/
def DieEntry.asks (e : DieEntry) : Bool := e.state == .requesting || e.state == .abandoned

/-- Whether a local request may be granted: no conflicting borrow is held and no overlapping request waits from before
(08 R193, R194). -/
def localFree (m : KMap DieEntry) (e : DieEntry) : Bool :=
  !(m.any (fun x => localClash x.2 e &&
    ((x.2.state == .held && !together x.2.kind e.kind) || (x.2.asks && x.2.order < e.order))))

/-- Whether a taint mark overlaps. -/
def localTaint (m : KMap DieEntry) (e : DieEntry) : Bool :=
  m.any (fun x => localClash x.2 e && x.2.state == .taintmark)

/-- A local table, as `die` and, for a core's scratch table, the core. -/
def State.localTab (s : State) (core : Nat) (space : Nat) : KMap DieEntry :=
  if space = 1 then (s.cd (core / 128)).entries else (s.core core).scratchTab
def State.updLocal (s : State) (core space : Nat) (f : KMap DieEntry → KMap DieEntry) : State :=
  if space = 1 then s.updCd (core / 128) (fun c => { c with entries := f c.entries })
  else s.updCore core (fun c => { c with scratchTab := f c.scratchTab })

/-- Whether an E request waits for bytes of an S or A borrow: its writer is pending (08 R194). -/
def localWanted (m : KMap DieEntry) (e : DieEntry) : Bool :=
  (e.kind == 2 || e.kind == 3) && m.any (fun x => localClash x.2 e && x.2.state == .requesting && x.2.kind == 1)

/-- A local request is granted: entry HELD, register filled, the core's L1 lines of the slot invalidated (08 R196). -/
def State.localHold (s : State) (core space ix : Nat) : State :=
  match kget (s.localTab core space) ix with
  | none => s
  | some e =>
    let e := { e with state := .held, taint := localTaint (s.localTab core space) e,
                      wp := e.wp || localWanted (s.localTab core space) e }
    let s := s.updLocal core space (fun m => kset m ix e)
    let s := if space = 1 then s.l1Drop e.core ix else s
    s.tellGranted e ix

/-- Grants the waiting requests of a local table that nothing stands against, in order of arrival (08 R194). The grant of an
ABANDONED one frees its entry: the die is its own arbiter, and no message goes (11 R277). -/
def State.localGrants (s : State) (core space : Nat) : State :=
  let waiting := ((s.localTab core space).filter (fun x => x.2.asks && x.2.space == space)).mergeSort
    (fun x y => x.2.order ≤ y.2.order)
  waiting.foldl (fun s x =>
    match kget (s.localTab core space) x.1 with
    | some e =>
      if !localFree (s.localTab core space) e then s
      else if e.state = .abandoned then s.updLocal core space (fun m => kdel m x.1)
      else s.localHold core space x.1
    | none => s) s

/-- A block whose B1 could not be asked for yet is looked at: an entry is free again, a proxy goes, or another block's request
for its range is answered (08 R189, R195, R200). -/
def State.wakeArgs (s : State) : State :=
  if s.blocks.any (fun x => x.2.home && !x.2.started && !x.2.argReq) then s.post .gangPlacement else s

/-- Whether every thread of a block has exited and every region register is empty (01 R28, 08 R211). -/
def Block.over (b : Block) : Bool :=
  !b.front.th.live && b.warps.all (fun w => w.exited == 0xFFFF_FFFF)
    && (b.warps.all (fun w => w.g.all (fun x => x.2.kind == 0))) && b.front.b.all (fun x => x.2.kind == 0)

/-- An entry is free again: a unit's pass that waits for one to make a taint mark goes on (11 R280), so does one that ends a block
whose returns are not acknowledged yet (08 R211, 24 R453), and a block whose B1 waits (08 R189). -/
def State.entryFreed (s : State) (die : Nat) : State :=
  (if (s.cd die).marks.isEmpty && !(s.blocks.any (fun x => x.2.die == die && x.2.over)) then s
   else s.post (.unpickerPass die)).wakeArgs

/-- A local borrow ends: entry FREE, or TAINTMARK for a reclaimed die-shared E or A borrow (11 R277, R279); waiting
requests are looked at. -/
def State.localRelease (s : State) (core space ix : Nat) (taint : Bool) : State :=
  let s := s.updLocal core space (fun m =>
    if taint then kupd m ix (fun e => { e with state := .taintmark, user := .none }) else kdel m ix)
  let s := s.localGrants core space
  if space = 1 then s.entryFreed (core / 128) else s

/-- A waiting E request sets writer-pending on the S and A borrows it waits for (08 R194). -/
def State.localPending (s : State) (core space : Nat) (e : DieEntry) : State :=
  if e.kind = 1 then
    ((s.localTab core space).filter (fun x => localClash x.2 e && x.2.state == .held && (x.2.kind == 2 || x.2.kind == 3))).foldl
      (fun s x =>
        let s := s.updLocal core space (fun m => kupd m x.1 (fun y => { y with wp := true }))
        if space = 1 then s.mapSlot (core / 128) x.1 markPending else s.mapScratchSlot x.2.blk x.1 markPending) s
  else s

/-- An entry that has come down to S is waited for by the E requests that waited for it as E: its writer is pending (08 R194). -/
def State.localNotice (s : State) (core space ix : Nat) : State :=
  match kget (s.localTab core space) ix with
  | some e =>
    if localWanted (s.localTab core space) e then
      let s := s.updLocal core space (fun m => kupd m ix (fun y => { y with wp := true }))
      if space = 1 then s.mapSlot (core / 128) ix markPending else s.mapScratchSlot e.blk ix markPending
    else s
  | none => s

/-- Entries of a table: 64 in a core, 65,536 in a die (11 R269). -/
def tableSize (space : Nat) : Nat := if 2 ≤ space then 64 else 65536

/-! ### Requests that wait for a free entry, or behind a proxy (08 R194, R200; 11 R274) -/

/-- The borrow of B1 of a block among waiting requests: it belongs to no thread (08 R189). -/
def argsRef (blk : Nat) : ThreadRef := { blk := blk, warp := 32, armE := true }

/-- Whether a queued request still waits: its thread has the wait, or its block's B1 is not asked for yet. -/
def State.stillWaits (s : State) (w : Wait → Bool) (t : ThreadRef) : Bool :=
  if t.warp == 32 && t.armE then ((s.blk? t.blk).map (fun b => b.home && !b.started && !b.argReq)).getD false
  else (((s.thread? t).bind (·.hold)).map (fun h => w h.wait)).getD false

def forRoom : Wait → Bool
  | .tableRoom _ => true
  | _ => false

/-- The requests that have waited for an entry of a table, oldest first. -/
def State.roomList (s : State) (core space : Nat) : List ThreadRef :=
  if 2 ≤ space then (s.core core).room else (s.cd (core / 128)).room
def State.setRoom (s : State) (core space : Nat) (f : List ThreadRef → List ThreadRef) : State :=
  if 2 ≤ space then s.updCore core (fun c => { c with room := f c.room })
  else s.updCd (core / 128) (fun c => { c with room := f c.room })

/-- Whether a request may take an entry of a table: one is free, and no request waits from before (R194). -/
def State.roomFor (s : State) (core space : Nat) (t : ThreadRef) : Bool :=
  decide ((s.localTab core (if space = 0 then 1 else space)).length < tableSize space)
    && !(((s.roomList core space).takeWhile (· != t)).any (s.stillWaits forRoom))

/-- A request waits for an entry, at the place that it has. -/
def State.waitRoom (s : State) (core space : Nat) (t : ThreadRef) : State :=
  s.setRoom core space (fun l => if l.contains t then l else l ++ [t])
def State.leaveRoom (s : State) (core space : Nat) (t : ThreadRef) : State := s.setRoom core space (fun l => l.filter (· != t))

/-- Whether a request that waits behind the proxy of request `o` is the first of those (11 R274). -/
def State.firstBehind (s : State) (die o : Nat) (t : ThreadRef) : Bool :=
  !((((s.cd die).queued.filter (fun q => q.1 == o)).map (·.2)).takeWhile (· != t)).any (s.stillWaits (· == .behind o))

/-! ## Global borrows: pieces (11 R272) -/

/-- Physical units of a piece as memory lines (key div 128). -/
def State.pieceLine (s : State) (die : Nat) (p : Piece) : Nat := ((s.paKey die (128 * p.base)).getD 0) / 128

/-- What translating a range finds. -/
inductive RangeRes
  | ok (segs : List (Nat × Nat × Nat))     -- physical address, length, home
  | absent (va : Nat)
  | prot (va : Nat)
  deriving DecidableEq, Repr

/-- A physical address of a range's page, and its home. -/
def State.pagePa (s : State) (die cluster : Nat) (d : CtxDesc) (va : Nat) (acc : Access) (priv : Bool) :
    Option (Nat × Nat) × Tr :=
  let leaf := match s.tlbFind cluster d.asid va with
    | some e => WalkRes.leaf e
    | none => s.walk die d.asid va 4 d.l4pa
  match leaf with
  | .leaf e =>
    match s.useLeaf die e va acc priv with
    | .hit k => (some (s.ownPa (e.pa + va % 2 ^ e.bits), keyHome k), .hit k)
    | r => (none, r)
  | .notPresent => (none, .absent)
  | .protection => (none, .prot)

/-- Translates the pages of a range in order, every page with the permissions of the kind (08 R200). A page that is
not there comes before a refusal: it must be served before the translation is complete. -/
def State.rangeSegs (s : State) (die cluster : Nat) (d : CtxDesc) (acc : Access) (priv : Bool) :
    Nat → Nat → Nat → List (Nat × Nat × Nat) → Option Nat → RangeRes
  | 0, _, _, segs, bad => match bad with | some v => .prot v | none => .ok segs.reverse
  | fuel + 1, va, len, segs, bad =>
    if len = 0 then (match bad with | some v => .prot v | none => .ok segs.reverse)
    else
      let n := min len (2 ^ 14 - va % 2 ^ 14)
      match s.pagePa die cluster d va acc priv with
      | (some (pa, home), _) => s.rangeSegs die cluster d acc priv fuel (va + n) (len - n) ((pa, n, home) :: segs) bad
      | (none, .absent) => .absent va
      | (none, _) => s.rangeSegs die cluster d acc priv fuel (va + n) (len - n) segs (bad.orElse (fun _ => some va))

/-- Merges segments into pieces: units that follow each other, one home, no granule boundary crossed (11 R272). -/
def mergeSegs (granule : Nat) : List (Nat × Nat × Nat) → List Piece → List Piece
  | [], acc => acc.reverse
  | (pa, n, home) :: r, acc =>
    match acc with
    | p :: q =>
      if p.home = home ∧ 128 * (p.base + p.lenm1 + 1) = pa ∧ pa % 2 ^ granule ≠ 0 then
        mergeSegs granule r ({ p with lenm1 := p.lenm1 + n / 128 } :: q)
      else mergeSegs granule r ({ home := home, base := pa / 128, lenm1 := n / 128 - 1, ix := 0, granted := false } :: acc)
    | [] => mergeSegs granule r [{ home := home, base := pa / 128, lenm1 := n / 128 - 1, ix := 0, granted := false }]

/-- Device number of a piece's home. -/
def State.pieceDev (s : State) (p : Piece) : Nat := if p.home < 17 then fld s.pkg.devno 7 0 else p.home - 17

/-- Pieces in the order of (device number, physical address) (11 R272). -/
def State.sortPieces (s : State) (ps : List Piece) : List Piece :=
  ps.mergeSort (fun a b => s.pieceDev a < s.pieceDev b || (s.pieceDev a == s.pieceDev b && a.base ≤ b.base))

/-! ## Sending messages -/

/-- The next request ID of a die: its number in bits [31:27], its running count below (16 R396; 23 R445). -/
def State.newId (s : State) (d : DieId) : Nat × State :=
  let n := (kget s.nextReq (dieIx d)).getD 0
  ((dieIx d % 32) * 2 ^ 27 + n % 2 ^ 27, { s with nextReq := kset s.nextReq (dieIx d) ((n + 1) % 2 ^ 27) })

/-- A message from a compute die to the home of a piece (11 R275). -/
def State.toHome (s : State) (die : Nat) (p : Piece) (typ flags kind dieIx window : Nat) : State :=
  let (id, s) := s.newId (.cd die)
  let m : EopMsg := { typ := typ, flags := BitVec.ofNat 4 flags, kind := kind, status := 0, src := .cd die, id := id,
                      base := p.base, lenm1 := p.lenm1, devno := fld s.pkg.devno 7 0, home := p.ix, dieIx := dieIx,
                      window := window }
  let target := s.homeDie die p.home
  s.sendOrTake (.cd die) target (.eop target m)

/-- The window from which a home computes a grant's clean-after stamp: the latest in which a returning holder wrote back to units
of the range (10 R262). -/
def Md.lastWrite (d : Md) (base lenm1 : Nat) : Option Nat :=
  (d.wrote.filter (fun x => overlaps x.1 x.2.1 base lenm1)).foldl (fun a x => some (max (a.getD 0) x.2.2)) none

/-- A returning holder's write-back to a range is known by its window. -/
def State.noteWrite (s : State) (home base lenm1 window : Nat) : State :=
  s.updMd home (fun d => { d with wrote := (base, lenm1, window) :: d.wrote.filter (fun x =>
    !(decide (base ≤ x.1 ∧ x.1 + x.2.1 ≤ base + lenm1 ∧ x.2.2 ≤ window))) })

/-- The window in which the write-back ahead of a RETURN, a RECLAIM or a conversion to S was sent: of a holder on another package,
that of its frame (10 R262). -/
def State.writeWindow (s : State) (m : EopMsg) : Nat := if m.via.isSome then m.window else s.window

/-- The clean-after window of a grant to another package, low 32 bits: the start of window N + 2, or of the current one where no
write-back is known (10 R262, 11 R275). -/
def State.cleanAfter (s : State) (home : Nat) (e : HomeEntry) : Nat :=
  (match (s.md home).lastWrite e.base e.lenm1 with
   | some n => n + 2
   | none => s.window) % 2 ^ 32

/-- A message from a home to a holder die, here or on another package (11 R275, 10 R262). -/
def State.toDie (s : State) (home : Nat) (e : HomeEntry) (typ flags status ix : Nat) : State :=
  let m := if home = 16 then 0 else home
  let (id, s) := s.newId (.md m)
  let own := fld s.pkg.devno 7 0
  let msg : EopMsg := { typ := typ, flags := BitVec.ofNat 4 flags, kind := e.kind, status := status, src := .md m,
                        id := id, base := if e.devno = own then e.base else 2 ^ 44 + own * 2 ^ 34 + e.base,
                        lenm1 := e.lenm1, devno := own, home := ix, dieIx := e.hslot,
                        window := if e.devno = own then 0 else s.cleanAfter home e }
  if e.devno = own then s.sendOrTake (.md m) (.cd e.cd) (.eop (.cd e.cd) msg)
  else s.sendFrame m e.devno [.eop (.cd e.cd) msg]

/-! ## The home table (11 R273, R278) -/

def homeClash (x : HomeEntry) (base lenm1 : Nat) : Bool := overlaps x.base x.lenm1 base lenm1

/-- Whether a request conflicts at a home: with a HELD entry by kind, or with an overlapping WAITING one that came
before. -/
def homeConflict (x : HomeEntry) (kind base lenm1 order : Nat) : Bool :=
  homeClash x base lenm1 &&
    ((x.state == .held && !together x.kind kind) || (x.state == .waiting && x.order < order))

/-- Entries of a home table (01 R12). -/
def homeSize : Nat := 262144

/-- `NV` and `NEXT`: each WAITING entry names the one that arrived next (11 R271, R273). -/
def relink (h : KMap HomeEntry) : KMap HomeEntry :=
  let order := (h.filter (fun x => x.2.state == .waiting)).mergeSort (fun x y => x.2.order ≤ y.2.order)
  h.map (fun x => (x.1, { x.2 with next :=
    if x.2.state = .waiting then ((order.find? (fun y => decide (x.2.order < y.2.order))).map (·.1)) else none }))

/-- Changes a home's table. -/
def State.updHome (s : State) (home : Nat) (f : KMap HomeEntry → KMap HomeEntry) : State :=
  s.updMd home (fun d => { d with home := relink (f d.home) })

/-- A request of a kind waits for an entry that is HELD: an E request marks an S or A holder; an S or E request asks an A holder to
flush (11 R273, R275). -/
def State.homeNotice (s : State) (home ix kind : Nat) : State :=
  match kget (s.md home).home ix with
  | none => s
  | some x =>
    let note := kind = 1 && (x.kind = 2 || x.kind = 3)
    let flush := (kind = 1 || kind = 2) && x.kind = 3
    let s := if note then s.updHome home (fun h => kupd h ix (fun y => { y with wp := true })) else s
    if note || flush then s.toDie home { x with kind := kind } 5 (if flush then 1 else 0) 0 ix else s

/-- Writer-pending and PENDING notices of a request that waits (11 R273). -/
def State.homePending (s : State) (home : Nat) (kind base lenm1 : Nat) : State :=
  ((s.md home).home.filter (fun x => homeClash x.2 base lenm1 && x.2.state == .held && !together x.2.kind kind)).foldl
    (fun s x => s.homeNotice home x.1 kind) s

/-- Notices of the requests that wait for an entry as it is granted (08 R194). -/
def State.homeWanted (s : State) (home ix : Nat) (e : HomeEntry) : State :=
  let kinds := ((s.md home).home.filter (fun x => x.2.state == .waiting && homeClash x.2 e.base e.lenm1)).map (·.2.kind)
  if kinds.contains 1 then s.homeNotice home ix 1 else if kinds.contains 2 && e.kind == 3 then s.homeNotice home ix 2 else s

/-- An entry is granted: HELD, and GRANT with TAINTED where a mark overlaps (11 R273). -/
def State.homeGrant (s : State) (home ix : Nat) (e : HomeEntry) : State :=
  let taint := (s.md home).home.any (fun x => homeClash x.2 e.base e.lenm1 && x.2.state == .taintmark)
  let e := { e with state := .held, lastwb := (((s.md home).lastWrite e.base e.lenm1).getD 0) % 2 ^ 32 }
  ((s.updHome home (fun h => kset h ix e)).toDie home e 2 0 (if taint then 3 else 0) ix).homeWanted home ix e

/-- A home takes a borrow request (11 R273). The entry that it takes is any free one (R269). The spec gives `RCOUNT` no value before
the first COUNT: DESIGN CHOICE (log 77), the 1 that the proxy then has. -/
def State.homeReq (s : State) (home : Nat) (m : EopMsg) : State :=
  let d := s.md home
  let (order, s) := s.takeFresh
  let tryFlag := m.flags.getLsbD 0
  let e : HomeEntry := { kind := m.kind, state := .waiting, wp := false, base := m.base, lenm1 := m.lenm1, rcount := 1,
                         devno := m.devno, cd := (match m.src with | .cd n => n | .md _ => 0), hslot := m.dieIx,
                         lastwb := 0, try_ := tryFlag, next := none, via := m.via, order := order }
  if d.home.any (fun x => homeClash x.2 m.base m.lenm1 && x.2.state == .lost) then s.toDie home e 2 0 4 0
  else
    let (f, s) := s.takeFree
    match kfree d.home (Config.freeNat (nth f 0)) homeSize with
    | none =>
      if tryFlag then s.toDie home e 2 0 2 0 else s.updMd home (fun d => { d with port := d.port ++ [m] })
    | some ix =>
      if !(d.home.any (fun x => homeConflict x.2 m.kind m.base m.lenm1 order)) then s.homeGrant home ix e
      else if tryFlag then s.toDie home e 2 0 1 0
      else (s.updHome home (fun h => kset h ix e)).homePending home m.kind m.base m.lenm1

/-- Grants the WAITING entries of a home that nothing stands against, in order of arrival (11 R278). -/
def State.homeGrantAll (s : State) (home : Nat) : State :=
  let waiting := ((s.md home).home.filter (fun x => x.2.state == .waiting)).mergeSort (fun x y => x.2.order ≤ y.2.order)
  waiting.foldl (fun s x =>
    let d := s.md home
    match kget d.home x.1 with
    | none => s
    | some e =>
      if d.home.any (fun y => y.1 != x.1 && homeConflict y.2 e.kind e.base e.lenm1 e.order) then s
      else s.homeGrant home x.1 e) s

/-- A killed holder's E or A borrow becomes a TAINTMARK, where the table has a free entry for a mark (11 R278, R280). -/
def State.homeMark (s : State) (home : Nat) (m : EopMsg) : State :=
  match (kget (s.md home).home m.home).filter (fun e => e.state == .held) with
  | none => s
  | some e =>
    ((s.noteWrite home e.base e.lenm1 (s.writeWindow m)).updHome home (fun d =>
      kupd d m.home (fun e => { e with state := .taintmark, kind := 0, wp := false }))).homeGrantAll home

/-- Grants what nothing stands against, and takes what waited at the port for a free entry: REQs, and reclaims that make a mark (11
R273, R278, R280). -/
def State.homeGrants (s : State) (home : Nat) : State :=
  (s.md home).port.foldl (fun s _ =>
    match (s.md home).port with
    | [] => s
    | m :: r =>
      if homeSize ≤ (s.md home).home.length then s
      else
        let s := s.updMd home (fun d => { d with port := r })
        if m.typ = 6 then s.homeMark home m else s.homeReq home m) (s.homeGrantAll home)

/-- An entry of a home is FREE again, and what waited for it goes on (11 R278). -/
def State.homeFree (s : State) (home ix : Nat) : State := (s.updHome home (fun h => kdel h ix)).homeGrants home

/-- A RECLAIM of a holder's entry (11 R278): with taint a mark, which in a full table waits until an entry is free (R280), else
FREE. -/
def State.homeReclaim (s : State) (home : Nat) (m : EopMsg) : State :=
  if !((kget (s.md home).home m.home).any (fun e => e.state == .held)) then s
  else if !m.flags.getLsbD 0 then s.homeFree home m.home
  else if homeSize ≤ (s.md home).home.length then s.updMd home (fun d => { d with port := d.port ++ [m] })
  else s.homeMark home m

/-- A home converts the holder's entry to S or to E: the only holder, with no writer pending, becomes E (08 R201). One that comes
down to S has written its data back (R196), and an E request that waits for it is pending from then on (R194). -/
def State.homeConvert (s : State) (home : Nat) (m : EopMsg) : State :=
  let d := s.md home
  match kget d.home m.home with
  | none => s
  | some e =>
    let answer := fun (s : State) (status : Nat) => s.toDie home { e with kind := m.kind } 2 0 status m.home
    let set := fun (kind : Nat) => s.updHome home (fun h => kset h m.home { e with kind := kind })
    if e.state = .lost then answer s 4
    else if e.state ≠ .held then s
    else if m.kind = 5 then
      (((answer (set 2) 0).noteWrite home e.base e.lenm1 (s.writeWindow m)).homeWanted home m.home { e with kind := 2 }).homeGrants home
    else if e.kind = 1 ∨ (!e.wp && !(d.home.any (fun x => x.1 != m.home && homeClash x.2 e.base e.lenm1 &&
        (x.2.state == .held || x.2.state == .lost)))) then answer (set 1) 0
    else answer s 1

/-! ## The die table (11 R270, R277) -/

def State.updEntry (s : State) (die ix : Nat) (f : DieEntry → DieEntry) : State :=
  s.updCd die (fun c => { c with entries := kupd c.entries ix f })
def State.entry (s : State) (die ix : Nat) : Option DieEntry := kget (s.cd die).entries ix

def State.freeEntry (s : State) (die ix : Nat) : State :=
  (s.updCd die (fun c => { c with entries := kdel c.entries ix })).entryFreed die

/-- The first piece not yet granted. -/
def nextPiece (ps : List Piece) : Option Nat := ps.findIdx? (fun p => !p.granted)

/-- `NPIECE` and `NGRANT` of an entry: its pieces, and those granted so far, or returned so far of one that gives them back (11
R270). -/
def DieEntry.npiece (e : DieEntry) : Nat := e.pieces.length
def DieEntry.ngrant (e : DieEntry) : Nat :=
  (e.pieces.filter (fun p => p.granted && (p.gone || e.state != .returning))).length

/-- Whether an ABANDONED entry still waits for the answer to its last REQ (11 R276, R277). -/
def DieEntry.unanswered (e : DieEntry) : Bool := e.state == .abandoned && e.pieces.any (fun p => !p.granted && !p.gone)

/-- The pieces of an entry after the RETACK of one: a single piece is back (11 R275). -/
def pieceBack (m : EopMsg) : List Piece → List Piece
  | [] => []
  | p :: r =>
    if p.granted && !p.gone && p.ix == m.home && p.base == m.base && p.lenm1 == m.lenm1 then { p with gone := true } :: r
    else p :: pieceBack m r

/-- REQ for the next piece of a requesting entry (11 R272). -/
def State.requestNext (s : State) (die ix : Nat) : State :=
  match s.entry die ix with
  | none => s
  | some e =>
    match (nextPiece e.pieces).bind (fun i => e.pieces[i]?) with
    | some p => s.toHome die p 1 (if e.try_ then 1 else 0) e.kind ix 0
    | none => s

/-- Sends back every piece that is granted: RETURN each, the entry RETURNING, or ABANDONED as it was; FREE at once where no piece is
out (11 R277). `dirty` says that data was written back. -/
def State.returnPieces (s : State) (die ix : Nat) (dirty : Bool) : State :=
  match s.entry die ix with
  | none => s
  | some e =>
    let out := e.pieces.filter (fun p => p.granted && !p.gone)
    let s := s.updEntry die ix (fun e =>
      { e with state := if e.state = .abandoned then .abandoned else .returning,
               pieces := e.pieces.map (fun p => { p with gone := p.gone || !p.granted }) })
    if out.isEmpty then (s.freeEntry die ix).tellRefused die e
    else out.foldl (fun s p => s.toHome die p 3 (if dirty then 1 else 0) e.kind ix 0) s

/-- The grant effects of R196 for a global borrow that the homes granted. -/
def State.grantCaches (s : State) (die ix : Nat) (e : DieEntry) : State :=
  let s := s.l1Drop e.core ix
  e.pieces.foldl (fun s p => s.l2Walk die (s.pieceLine die p) (p.lenm1 + 1) false true) s

/-- How a new borrow of a global range stands at its die (08 R200, 11 R272, R274): granted under a proxy's slot, behind the proxy of
a request, asked of the homes under an entry, or without an entry. -/
inductive Asked
  | proxy (ix : Nat)
  | behind (order : Nat)
  | entry (ix : Nat)
  | full
  deriving DecidableEq, Repr

/-- The unit to which a run that starts at a unit goes on through pieces in ascending order of their bases. -/
def coverTo (ps : List Piece) (u : Nat) : Nat :=
  ps.foldl (fun u p => if p.base ≤ u then max u (p.base + p.lenm1 + 1) else u) u

/-- Whether pieces, in the order of R272, cover others between them. -/
def covers (ps qs : List Piece) : Bool :=
  qs.all (fun q => q.base + q.lenm1 < coverTo (ps.filter (fun p => p.home == q.home)) q.base)

/-- A new S request of a range that proxies cover joins one that is HELD with no writer pending and a count below 65,535, and waits
behind one with a writer pending, in its turn. Any other request takes an entry, any free one (R269), and goes to the homes (R272,
R274). `t` is who asks. -/
def State.askGlobal (s : State) (die : Nat) (e : DieEntry) (t : ThreadRef) : Asked × State :=
  let c := s.cd die
  let px := c.entries.filter (fun x => e.kind == 2 && x.2.proxy && x.2.state == .held && covers x.2.pieces e.pieces)
  match px.find? (fun x => !x.2.wp && x.2.lcount < 65535), px.find? (fun x => x.2.wp) with
  | some (ix, _), _ => (.proxy ix, s.updEntry die ix (fun x => { x with lcount := x.lcount + 1 }))
  | none, some (_, x) => (.behind x.order, s)
  | none, none =>
    match c.queued.find? (fun q => q.2 == t && !s.firstBehind die q.1 t) with
    | some q => (.behind q.1, s)
    | none =>
    if !s.roomFor (128 * die) 0 t then (.full, s)
    else
      let (f, s) := s.takeFree
      match kfree c.entries (Config.freeNat (nth f 0)) (tableSize 0) with
      | none => (.full, s)
      | some ix =>
        let e := { e with plist := Config.freeNat (nth f 1) }
        (.entry ix, (s.updCd die (fun c => { c with entries := kset c.entries ix e })).requestNext die ix)

/-- A thread's borrow through a slot of the die table ends: a proxy holder counts down, another entry goes back piece by
piece, die-shared space at once (08 R195, R206, 11 R274). The cache actions come before. -/
def State.releaseSlot (s : State) (die ix : Nat) (user : EntryUser) (dirty : Bool) : State :=
  match s.entry die ix with
  | none => s
  | some e =>
    if e.space = 1 then s.localRelease (128 * die) 1 ix false
    else if e.state = .lost then s
    else if e.proxy && 1 < e.lcount then
      let s := s.updEntry die ix (fun e => { e with lcount := e.lcount - 1 })
      e.pieces.foldl (fun s p => s.toHome die p 4 0 e.kind ix (e.lcount - 1)) s
    else
      (s.updEntry die ix (fun e => { e with lcount := 0, user := user })).returnPieces die ix dirty

/-- The cache actions of a return or downgrade (08 R196). Answers whether data was written back. -/
def State.returnCaches (s : State) (core ix : Nat) (g : Region) : State :=
  let die := core / 128
  if 2 ≤ g.space.toNat then s
  else if g.kind = 1 ∨ g.kind = 3 then
    let s := s.l1Flush core ix
    if g.kind = 1 ∧ g.space = 0 then
      match s.entry die ix with
      | some e => e.pieces.foldl (fun s p => s.l2Walk die (s.pieceLine die p) (p.lenm1 + 1) true false) s
      | none => s
    else s
  else s

/-! ## What a lost link does to the tables (11 R281) -/

/-- Whether a route crosses a link, in either direction. -/
def crosses (a b : DieId) : List DieId → Bool
  | x :: y :: r => (x = a && y = b) || (x = b && y = a) || crosses a b (y :: r)
  | _ => false

/-- One compute die loses its way to some homes: HELD entries with a piece behind it become LOST, requests end with status LOST, and
returns count the pieces behind it as returned (11 R277, R281). A conversion under way ends with status LOST (08 R199). -/
def State.dieLost (s : State) (die : Nat) (behind : State → Piece → Bool) : State :=
  (s.cd die).entries.foldl (fun s x =>
    match s.entry die x.1 with
    | none => s
    | some e =>
      if !(e.pieces.any (fun p => !p.gone && behind s p)) then s
      else
        match e.state with
        | .held =>
          let s := s.updEntry die x.1 (fun e => { e with state := .lost, want := 0, user := .none })
          let s := (s.addCdReg die 0x3E9).mapSlot die x.1 markLost
          (if e.want = 0 then s else s.tellRefused die { e with status := 4 }).wakeArgs
        | .requesting =>
          let s := s.updEntry die x.1 (fun e =>
            { e with pieces := e.pieces.map (fun p => { p with gone := behind s p }), status := 4 })
          s.returnPieces die x.1 false
        | .returning | .abandoned =>
          -- a RETURN that waits ends with LINK_DOWN; a request that was refused keeps its status
          let cut := e.unanswered && ((nextPiece e.pieces).bind (fun i => e.pieces[i]?)).any (behind s)
          let e := { e with pieces := e.pieces.map (fun p => { p with gone := p.gone || behind s p }),
                            status := if e.status = 0 then cutOff else e.status }
          let s := s.updEntry die x.1 (fun _ => e)
          if cut then s.returnPieces die x.1 false
          else if e.pieces.all (fun p => p.gone) then (s.freeEntry die x.1).tellRefused die e else s
        | _ => s) s

/-- Whether a holder's route to a home crosses a link; a holder of another package reaches it from the port by which its messages
come (01 R14, 16 R410). -/
def HomeEntry.behind (e : HomeEntry) (m : DieId) (a b : DieId) : Bool :=
  crosses a b (route (match e.via with | some p => .md p | none => .cd e.cd) m)

/-- One home loses its way to some holders: their entries become LOST, WAITING ones FREE; a requester that waits for such a range, and
can be reached, is told; what waited for the others goes on (11 R278, R281). -/
def State.homeLost (s : State) (home : Nat) (gone : HomeEntry → Bool) : State :=
  let hit := (s.md home).home.filter (fun x => gone x.2 && x.2.state == .held)
  if !((s.md home).home.any (fun x => gone x.2)) then s
  else
    let s := s.updHome home (fun h => (h.filter (fun x => !(gone x.2 && x.2.state == .waiting))).map (fun x =>
      if gone x.2 && x.2.state == .held then (x.1, { x.2 with state := .lost }) else x))
    let waiting := (s.md home).home.filter (fun x => x.2.state == .waiting &&
      hit.any (fun y => homeClash y.2 x.2.base x.2.lenm1))
    (waiting.foldl (fun s x => (s.updHome home (fun h => kdel h x.1)).toDie home x.2 7 0 4 x.1) s).homeGrants home

/-- Entries of a die that a lost link made LOST, and the first of them, for the LINK_DOWN record (16 R398 item 4) and the host event;
MD0 has the proxy table beside its own. -/
def State.lostCount (s s' : State) (d : DieId) : Nat × Nat :=
  match d with
  | .cd n =>
    let new := (s'.cd n).entries.filter (fun x => x.2.state == .lost && ((s.entry n x.1).map (·.state)) != some .lost)
    (new.length, (new.head?.map (·.1)).getD 0)
  | .md n =>
    let new := fun (h : Nat) => (s'.md h).home.filter (fun x =>
      x.2.state == .lost && ((kget (s.md h).home x.1).map (·.state)) != some .lost)
    let all := new n ++ (if n = 0 then new 16 else [])
    (all.length, (all.head?.map (·.1)).getD 0)

/-- One host event from each memory-side die whose entries became LOST: the link, their number and the first (11 R281). -/
def State.lostEvents (s s' : State) (a b : DieId) : State :=
  (List.range 16).foldl (fun s' m =>
    match s.lostCount s' (.md m) with
    | (0, _) => s'
    | (n, first) => s'.emit (.event (.md m) (a, b) n first)) s'

/-- The physical address of a memory key. -/
def State.keyPa (s : State) (k : Nat) : Nat := s.sectorPa (k / 64) + k % 64

/-- The address of a request, for its LINK_DOWN record; a LAUNCH names a queue and has none. -/
def State.requestPa (s : State) (r : Request) : Nat :=
  match r.body with
  | .access _ _ _ k _ _ _ | .object _ k _ _ | .push k _ _ _ => s.keyPa k
  | .launch _ _ => 0

/-- An access in flight on what has gone down is not performed: LINK_DOWN, class I, to its issuer, a load's destination unchanged (16
R398 item 3). -/
def State.cutRequest (s : State) (r : Request) (engine : Nat) : State :=
  let s := { s with waitReq := s.waitReq.filter (fun q => q.id != r.id) }
  let tell := fun (s : State) (t : ThreadRef) =>
    if (s.thread? t).isSome then s.postFault t (s.record t 29 1 r.pc (s.requestPa r) r.lanes engine) else s
  match r.owner with
  | .regs t pend _ => tell (s.post (.loadDataReturn t pend [])) t
  | .waits t => tell (s.answer t []) t

/-- Engine identifier of a link at one of its dies (15 R372). -/
def linkEngine (d : DieId) (link : Nat) : Nat := 9 * 4096 + (match d with | .cd n | .md n => n) * 256 + link

/-- The die that a load of a compute die asks for a memory place. -/
def State.placeOwner (s : State) (d place : Nat) : DieId :=
  if place < 16 then .md place else if place = 16 then .md 0 else if place = 17 then .md 8 else s.homeDie d (place - 1)

/-- Loads whose data are on their way from what has gone down: the lanes concerned get none, and LINK_DOWN, class I, names them (16 R398
item 3). `gone` and `engine` say of a die and a place whether its way is cut, and where. -/
def State.cutLoads (s : State) (gone : Nat → Nat → Bool) (engine : Nat → Nat → Nat) : State :=
  s.inbox.foldl (fun s e =>
    match e with
    | .loadDataReturn t id _ =>
      (match s.blk? t.blk, (s.thread? t).bind (fun th => th.pends.find? (fun p => p.id == id)) with
       | some b, some p =>
         let lost := p.far.filter (fun x => gone b.die x.2.2)
         (match lost with
          | [] => s
          | x :: _ =>
            let keep : List RegWrite → List RegWrite := fun ws => ws.filter (fun w => !lost.any (fun y => y.1 == w.lane))
            let s := { s with inbox := s.inbox.map (fun (f : Event) => match f with
              | .loadDataReturn u i ws => if u = t ∧ i = id then .loadDataReturn u i (keep ws) else f
              | g => g) }
            s.postFault t (s.record t 29 1 p.pc x.2.1 (maskOf (lost.map (·.1))) (engine b.die x.2.2)))
       | _, _ => s)
    | _ => s) s

/-- The ways of a request that waits for its answer: from its die to where it has been sent, and, once it has its ticket, from the
sequencer on (10 R258). -/
def waysOf (r : Request) : List (List DieId) :=
  if r.ticket = 0 then [route r.src r.dst] else [route (.md 0) r.dst, route r.src r.dst]

/-- A link is declared down (16 R398): replay buffers discarded, entries LOST, the accesses in flight on it reported to
their issuers, and one class-H LINK_DOWN record of each end. -/
def State.declareDown (s0 : State) (a b : DieId) (cause : Nat) : State :=
  let flight := s0.waitReq.filter (fun r => (waysOf r).any (crosses a b))
  let s := s0.downModules a b cause
  let s := (List.range 8).foldl (fun s d =>
    s.dieLost d (fun s p => crosses a b (route (.cd d) (s.homeDie d p.home)))) s
  let s := (List.range 17).foldl (fun s h => s.homeLost h (fun e => e.behind (.md (if h = 16 then 0 else h)) a b)) s
  let s := s0.lostEvents s a b
  -- the end that the request meets first
  let near := fun (way : List DieId) =>
    let x := if way.idxOf a < way.idxOf b then (a, b) else (b, a)
    linkEngine x.1 ((linkIx x.1 x.2).getD 0)
  let s := flight.foldl (fun s r => s.cutRequest r (near (((waysOf r).find? (crosses a b)).getD []))) s
  let s := s.cutLoads (fun d p => crosses a b (route (.cd d) (s0.placeOwner d p))) (fun d p => near (route (.cd d) (s0.placeOwner d p)))
  [(a, b), (b, a)].foldl (fun s x =>
    let (n, first) := s0.lostCount s x.1
    s.ringPut (s.ringDie x.1) (s.unitRecord (s.ringDie x.1) 29 3 ((n % 65536) * 2 ^ 48 + cause * 2 ^ 32 + first)
      (linkEngine x.1 ((linkIx x.1 x.2).getD 0)) 0)) s

end Sys2Proof.Machine
end

