-- ==== Sys2Proof/Machine/OwnSteps.lean ====
section
/-!
DEFINITION. Machine/OwnSteps.lean: the steps of the ownership protocol (11 R273-R281) and of the links that carry it
(16 R394-R398, R409).
-/
namespace Sys2Proof.Machine

/-! ## Ownership messages -/

/-- REQ: a home takes a borrow request, or converts its holder's entry (11 R273, 08 R201). -/
def execReq (s : State) : Host.Outcome State Fault Refusal :=
  match s.due with
  | some (.req h m) => .next (if m.kind = 5 ∨ m.kind = 6 then s.homeConvert h m else s.homeReq h m)
  | _ => .next s

/-- The last piece of a requested borrow is granted: HELD, the grant effects, and the register (11 R277). -/
def State.grantDone (s : State) (die ix : Nat) : State :=
  match s.entry die ix with
  | none => s
  | some e =>
    let proxy := e.kind == 2
    let e := { e with state := .held, proxy := proxy, lcount := if proxy then 1 else 0,
                      ctx := if proxy then 0xFFFF else e.ctx }
    let s := (s.updEntry die ix (fun _ => e)).grantCaches die ix e
    let s := (s.tellGranted e ix).wakeArgs
    if e.stamp = 0 then s else s.post (.cleanAfterRelease die ix)

/-- A conversion ends: with a new kind the entry is an ordinary one of its holder from then on, and the register is of that kind;
otherwise both stand as before the instruction (08 R201). -/
def State.converted (s : State) (die ix : Nat) (e : DieEntry) (kind : Option Nat) (status : Nat) : State :=
  let s := s.updEntry die ix (fun x =>
    { x with want := 0, back := 0, status := 0, user := .none, pieces := x.pieces.map (fun p => { p with granted := true }) })
  match e.user with
  | .thread t _ =>
    match kind, s.blk? t.blk with
    | some k, some b =>
      let s := s.updEntry die ix (fun x =>
        { x with kind := k, wp := x.wp && k != 1, proxy := false, lcount := 0, ctx := b.ctx.toNat, core := b.coreIx, blk := t.blk })
      -- the register that holds the borrow now: an RGMOV of the other arm may have moved it
      ((s.mapSlot die ix (fun g =>
        { g with kind := BitVec.ofNat 3 k, wpseen := (g.wpseen || e.wp) && k != 1 })).answer t [BitVec.ofNat 64 status]).wakeArgs
    | _, _ => (s.answer t [BitVec.ofNat 64 status]).wakeArgs
  | _ => s

/-- A piece of a conversion is answered: the next piece, the change of `KIND`, or the way back to S of the pieces that were E (08
R201): after a home's BUSY, or where another S borrow has joined the proxy meanwhile (11 R274), whose holder is not the sole one
then (log 88). -/
def State.convertPiece (s : State) (die ix : Nat) (e : DieEntry) (status : Nat) : State :=
  let ask := fun (s : State) (p : Option Piece) (kind : Nat) => match p with
    | some p => s.toHome die p 1 0 kind ix 0
    | none => s
  match nextPiece e.pieces with
  | none => s
  | some i =>
    let undo := fun (n status : Nat) =>
      ask (s.updEntry die ix (fun x => { x with want := 7, back := n, status := status,
                                                pieces := x.pieces.map (fun p => { p with granted := false }) })) e.pieces.head? 5
    if e.want ≠ 7 ∧ status ≠ 0 then
      if e.want = 5 ∨ i = 0 then s.converted die ix e none status else undo i status
    else if e.want = 6 ∧ i + 1 = e.pieces.length ∧ e.proxy ∧ e.lcount ≠ 1 then undo e.pieces.length 1
    else
      let s := s.updEntry die ix (fun x => { x with pieces := lset x.pieces i (fun p => { p with granted := true }) })
      if i + 1 < (if e.want = 7 then e.back else e.pieces.length) then
        ask s e.pieces[i + 1]? (if e.want = 6 then 6 else 5)
      else if e.want = 7 then s.converted die ix e none e.status
      else s.converted die ix e (some (if e.want = 6 then 1 else 2)) 0

/-- A window of which a message carries the low 32 bits: the one nearest to the local window (11 R275). -/
def State.fullWindow (s : State) (low : Nat) : Nat :=
  let w := s.window / 2 ^ 32 * 2 ^ 32 + low % 2 ^ 32
  if w + 2 ^ 31 < s.window then w + 2 ^ 32 else if s.window + 2 ^ 31 < w ∧ 2 ^ 32 ≤ w then w - 2 ^ 32 else w

/-- The clean-after stamp that a grant brings; inside one package the stamp has always passed (08 R196, 10 R262). -/
def State.stampIn (s : State) (m : EopMsg) : Nat :=
  if m.devno = fld s.pkg.devno 7 0 then 0 else if s.fullWindow m.window ≤ s.window then 0 else s.fullWindow m.window

/-- GRANT: a holder die takes the grant or refusal of a piece (11 R277). -/
def execGrant (s : State) : Host.Outcome State Fault Refusal :=
  match s.due with
  | some (.grant die m) =>
    let good := m.status = 0 ∨ m.status = 3
    let s := if good then s.addCdReg die 0x3E7 else s
    let s := if m.status = 3 then s.addCdReg die 0x3E8 else s
    match s.entry die m.dieIx with
    | none => .next s
    | some e =>
      match e.state with
      | .requesting =>
        if good then
          let e := { e with taint := e.taint || m.status == 3, stamp := max e.stamp (s.stampIn m),
                            pieces := match nextPiece e.pieces with
                              | some i => lset e.pieces i (fun p => { p with granted := true, ix := m.home })
                              | none => e.pieces }
          let s := s.updEntry die m.dieIx (fun _ => e)
          .next (if (nextPiece e.pieces).isNone then s.grantDone die m.dieIx else s.requestNext die m.dieIx)
        else
          .next ((s.updEntry die m.dieIx (fun e => { e with status := m.status })).returnPieces die m.dieIx false)
      | .abandoned =>
        if good then
          -- RETURN at once, without the taint flag (R276); the last RETACK frees the entry
          let e := { e with pieces := match nextPiece e.pieces with
                      | some i => lset e.pieces i (fun p => { p with granted := true, ix := m.home })
                      | none => e.pieces }
          .next ((s.updEntry die m.dieIx (fun _ => e)).returnPieces die m.dieIx false)
        else .next (s.returnPieces die m.dieIx false)
      | .held => .next (if e.want = 0 then s else s.convertPiece die m.dieIx e m.status)
      | _ => .next s
  | _ => .next s

/-- RETURN_MESSAGE: a home takes a returned piece, frees the entry and acknowledges. A LOST entry stays, for the host to clear (11
R278). -/
def execReturnMessage (s : State) : Host.Outcome State Fault Refusal :=
  match s.due with
  | some (.returnMessage h m) =>
    match (kget (s.md h).home m.home).filter (fun e => e.state == .held) with
    | none => .next s
    | some e =>
      let s := s.toDie h e 8 0 0 m.home
      let s := if m.flags.getLsbD 0 then s.noteWrite h e.base e.lenm1 (s.writeWindow m) else s
      .next (s.homeFree h m.home)
  | _ => .next s

/-- COUNT: a home records a proxy's new local count; one for an entry no longer HELD is discarded (11 R275, R276). -/
def execCount (s : State) : Host.Outcome State Fault Refusal :=
  match s.due with
  | some (.count h m) =>
    .next (s.updHome h (fun d => kupd d m.home (fun e =>
      if e.state = .held then { e with rcount := m.window } else e)))
  | _ => .next s

/-- PENDING: a holder die takes a writer-pending or flush notice; one that reaches an entry that gives its borrow up is discarded, and
one that comes before the last grant of its borrow is seen at that grant (11 R275-R277; log 78). -/
def execPending (s : State) : Host.Outcome State Fault Refusal :=
  match s.due with
  | some (.pending die m) =>
    -- the notice names the home entry; the die finds its own entry by the index that the home holds (R275)
    match s.entry die m.dieIx with
    | none => .next s
    | some e =>
      -- an entry on its way from E to S is S at the home already (08 R201)
      if (e.state = .held ∨ e.state = .requesting) ∧ (e.kind = 2 ∨ e.kind = 3 ∨ e.want = 5) then
        let s := if m.kind = 1 then (s.updEntry die m.dieIx (fun e => { e with wp := true })).mapSlot die m.dieIx markPending
                 else s
        .next (if m.flags.getLsbD 0 then s.l1Flush e.core m.dieIx else s)
      else .next s
  | _ => .next s

/-- RECLAIM: a home takes a return for a killed holder, or the taint clear of RGCLR.TAINT (11 R278, R280). -/
def execReclaim (s : State) : Host.Outcome State Fault Refusal :=
  match s.due with
  | some (.reclaim h m) =>
    if m.flags.getLsbD 1 then
      .next ((s.updHome h (fun d => d.filter (fun x =>
        !(x.2.state == .taintmark && decide (m.base ≤ x.2.base) &&
          decide (x.2.base + x.2.lenm1 ≤ m.base + m.lenm1))))).homeGrants h)
    else
      .next (s.homeReclaim h m)
  | _ => .next s

/-- LOST: a requester die takes a LOST reply: the pieces already granted go back, and the request ends with status LOST
(11 R277). -/
def execLost (s : State) : Host.Outcome State Fault Refusal :=
  match s.due with
  | some (.lost die m) =>
    match s.entry die m.dieIx with
    | some e =>
      if e.state = .requesting then
        .next ((s.updEntry die m.dieIx (fun e => { e with status := 4 })).returnPieces die m.dieIx false)
      else .next s
    | none => .next s
  | _ => .next s

/-- RETACK: one piece is back; at the last the entry is FREE and whoever waited goes on (11 R277, 08 R206). -/
def execRetack (s : State) : Host.Outcome State Fault Refusal :=
  match s.due with
  | some (.retack die m) =>
    match s.entry die m.dieIx with
    | some e =>
      if e.state = .returning ∨ e.state = .abandoned then
        let rest := pieceBack m e.pieces
        if rest.all (fun p => p.gone) then .next ((s.freeEntry die m.dieIx).tellRefused die e)
        else .next (s.updEntry die m.dieIx (fun e => { e with pieces := rest }))
      else .next s
    | none => .next s
  | _ => .next s

/-- EOP_DISCARD: an ownership message with an unassigned type is discarded and counted (11 R275, 16 R400). -/
def execEopDiscard (s : State) : Host.Outcome State Fault Refusal :=
  match s.due with
  | some (.eopDiscard ctr _) => .next (s.bump ctr 4)
  | _ => .next s

/-- CLEAN_AFTER_RELEASE: when local time reaches a grant's stamp, the loads held for it proceed (10 R262). -/
def execCleanAfterRelease (s : State) : Host.Outcome State Fault Refusal :=
  match s.due with
  | some (.cleanAfterRelease die ix) =>
    match s.entry die ix with
    | some e =>
      if e.stamp * 2 ^ fld s.pkg.wlen 3 0 ≤ s.pkg.timeNs.toNat then .next (s.updEntry die ix (fun e => { e with stamp := 0 }))
      else .next (s.post (.cleanAfterRelease die ix))
    | none => .next s
  | _ => .next s

/-- An HCLR write frees a LOST home or proxy entry (16 R408); before READY BAR0 does not expose it (17 R418). -/
def State.hostClear (s : State) (m : Nat) (v : DWord) : State :=
  let home := if bitOf v 62 then 16 else m
  if s.pkg.phase == .ready && bitOf v 63 && fld v 61 18 == 0 && (!bitOf v 62 || m == 0)
      && ((kget (s.md home).home (fld v 17 0)).map (·.state)) == some .lost then
    s.homeFree home (fld v 17 0)
  else s

/-- HCLR. -/
def execHclr (s : State) : Host.Outcome State Fault Refusal :=
  match s.due with
  | some (.hclr m v) => .next (s.hostClear m v)
  | _ => .next s

/-! ## Faults of a link -/

/-- A fault of a module, 1 the retry limit or 2 the error threshold: RETRAIN where `DGP` permits a degrade, or the link goes down (16
R395, R397, R401; 23 R445). -/
def State.linkFault (s : State) (a b : DieId) (m kind : Nat) : State :=
  let st := s.modState a (modOf a b m)
  let deg := fld (s.lkst a (modOf a b m)) 60 60 = 1
  if st = 2 ∨ (st = 3 ∧ !deg) then
    if deg then s.declareDown a b 5
    else if bitOf s.pkg.linkpol 63 then
      ((s.setMod a b m 6).bump (ctrKey a (modOf a b m)) 2).bump (ctrKey b (modOf b a m)) 2
    else s.declareDown a b kind
  else s

/-- A CRC failure at the receiving end of a module is counted; at ETHR the module has a fault (16 R395). -/
def State.countCrc (s : State) (h : Hop) : State :=
  let k := ctrKey h.dst (modOf h.dst h.src h.mod)
  let n := (kget s.modErr k).getD 0 + 1
  let s := { s.bump k 0 with modErr := kset s.modErr k n }
  if fld s.pkg.linkpol 55 48 ≤ n then s.linkFault h.dst h.src h.mod 2 else s

/-- What follows a CRC failure on a link that is still up: the flit and the later ones are discarded, and a NAK names the last good
one (16 R394). -/
def State.nak (s : State) (h : Hop) (f : Flit) : State :=
  let key := hopKey h.src h.dst
  (s.updStream key (fun st => { st with discard := some (st.failed f.seq) })).sendAck h true

/-- The 16th delivered flit is acknowledged at once (16 R394). -/
def State.ackFull (s : State) (h : Hop) : State :=
  if 16 ≤ (s.stream (hopKey h.src h.dst)).unacked then s.sendAck h false else s

/-- A good flit of the numbering before the last resync was on its way as both ends restarted: the one that was next is delivered still,
and its copy under the new numbering is met by the filter of repeats (16 R396, 23 R449). -/
def State.oldFlit (s : State) (h : Hop) (f : Flit) : State :=
  let key := hopKey h.src h.dst
  let st := s.stream key
  if f.epoch + 1 = st.epoch ∧ st.was = some f.seq ∧ st.rx = 0 then
    f.slots.foldl (fun s x => s.deliver h.dst (ctrKey h.dst (modOf h.dst h.src h.mod)) x)
      (s.updStream key (fun st => { st with was := some ((f.seq + 1) % 256) }))
  else s

/-- FLIT_RECEIVE: a slotted flit arrives (16 R394). A CRC failure starts the discard and the NAK; the ninth is the retry
limit. Good flits are delivered in SEQ order; early ones are held. -/
def execFlitReceive (s : State) : Host.Outcome State Fault Refusal :=
  match s.due with
  | some (.flitReceive h f ok) =>
    let key := hopKey h.src h.dst
    let ctr := ctrKey h.dst (modOf h.dst h.src h.mod)
    if !s.linkUp h.src h.dst then .next s
    else if !ok then
      let s := s.countCrc h
      let s := if 9 ≤ f.tries ∧ s.linkUp h.src h.dst then s.linkFault h.src h.dst h.mod 1 else s
      .next (if s.linkUp h.src h.dst then s.nak h f else s)
    else
      if f.epoch ≠ (s.stream key).epoch then .next (s.oldFlit h f)
      else
      let s := s.takeAck h.dst h.src f.ack
      let s := if f.nak then s.replay h.dst h.src else s
      let st := s.stream key
      let over_ := if st.discard = some f.seq then none else st.discard
      if (st.discard.map (seqAfter f.seq)).getD false then .next s
      else if f.seq = st.rx then
        let s := s.updStream key (fun st => { st with rx := (st.rx + 1) % 256, discard := over_, unacked := st.unacked + 1 })
        let s := f.slots.foldl (fun s x => s.deliver h.dst ctr x) s
        .next ((s.drainEarly h ctr 64).ackFull h)
      else if (f.seq + 256 - st.rx) % 256 < 64 ∧ st.early.length < 64 ∧ !(st.early.any (fun g => g.seq == f.seq)) then
        .next (s.updStream key (fun st => { st with early := st.early ++ [f], discard := over_ }))
      else .next s
  | _ => .next s

/-- ACK_ONLY_FLIT: a flit with no valid slot. A CRC failure on it counts and does nothing else; otherwise its
acknowledgement frees the replay buffer, and a NAK starts the replay (16 R394, 23 R447). One of the numbering before a resync says
nothing of the new one (16 R396). -/
def execAckOnlyFlit (s : State) : Host.Outcome State Fault Refusal :=
  match s.due with
  | some (.ackOnlyFlit h ack nak ok epoch) =>
    if !s.linkUp h.src h.dst then .next s
    else if !ok then .next (s.countCrc h)
    else if epoch ≠ (s.stream (hopKey h.dst h.src)).epoch then .next s
    else
      let s := s.takeAck h.dst h.src (some ack)
      .next (if nak then s.replay h.dst h.src else s)
  | _ => .next s

/-- TRAINING_END: all lanes pass, one half passes under a permitted degrade, or DOWN with cause 2 (16 R397). -/
def execTrainingEnd (s : State) : Host.Outcome State Fault Refusal :=
  match s.due with
  | some (.trainingEnd d m lo hi) =>
    match linkPeer d (m / 2) with
    | some p =>
      if s.modState d m ≠ 1 then .next s
      else if lo && hi then .next (s.enterL0 d p (m % 2) false none)
      else if (lo || hi) && bitOf s.pkg.linkpol 63 then .next (s.enterL0 d p (m % 2) true (some (if lo then 0 else 1)))
      else .next (s.declareDown d p 2)
    | none => .next s
  | _ => .next s

/-- Both ends of a stream restart SEQ at 0; the transmitter's replay buffer is to be sent again (16 R396). -/
def State.resync (s : State) (a b : DieId) : State :=
  let st := s.stream (hopKey a b)
  let fs := ((List.range st.buf.length).zip st.buf).map (fun x => { x.2 with seq := x.1, resync := true, epoch := st.epoch + 1 })
  (s.updStream (hopKey a b) (fun st =>
    { st with tx := fs.length, buf := fs, rx := 0, early := [], discard := none, epoch := st.epoch + 1,
              was := if st.discard.isNone then some st.rx else none, again := !fs.isEmpty || st.again }))

/-- RETRAIN_END: degraded L0 with a resync of both streams, or DOWN with cause 5 (16 R397). -/
def execRetrainEnd (s : State) : Host.Outcome State Fault Refusal :=
  match s.due with
  | some (.retrainEnd d m lo hi) =>
    match linkPeer d (m / 2) with
    | some p =>
      if s.modState d m ≠ 6 then .next s
      else if lo || hi then
        .next ((((s.resync d p).resync p d).enterL0 d p (m % 2) true (some (if lo then 0 else 1))))
      else .next (s.declareDown d p 5)
    | none => .next s
  | _ => .next s

/-- WAKE_TIMEOUT: a wake that lasts 4,000 ns takes the module DOWN, cause 3 (16 R397). -/
def execWakeTimeout (s : State) : Host.Outcome State Fault Refusal :=
  match s.due with
  | some (.wakeTimeout d m) =>
    match linkPeer d (m / 2) with
    | some p => .next (if s.modState d m = 5 then s.declareDown d p 3 else s)
    | none => .next s
  | _ => .next s

/-- UNRESPONSIVE_TIMEOUT: no acknowledgement for 200,000 ns while flits are outstanding: DOWN, cause 4 (16 R397). -/
def execUnresponsiveTimeout (s : State) : Host.Outcome State Fault Refusal :=
  match s.due with
  | some (.unresponsiveTimeout d m) =>
    match linkPeer d (m / 2) with
    | some p =>
      .next (if s.modState d m ≠ 0 ∧ !(s.stream (hopKey d p)).buf.isEmpty then s.declareDown d p 4 else s)
    | none => .next s
  | _ => .next s

/-- TAKE_DOWN: CMD 2 takes the module, and with it the link, DOWN, cause 6 (16 R397, R399). -/
def execTakeDown (s : State) : Host.Outcome State Fault Refusal :=
  match s.due with
  | some (.takeDown d m) =>
    match linkPeer d (m / 2) with
    | some p => .next (if s.modState d m ≠ 0 then s.declareDown d p 6 else s)
    | none => .next s
  | _ => .next s

/-! ## Scale-up frames -/

/-- A port passes its retry limit and goes down as a link does, with no degrade: its replay buffer is discarded, entries whose pieces
or holders lie behind it become LOST, accesses in flight on it raise LINK_DOWN, and its die writes one class-H record with the cause
of the retry limit (16 R398, R409). The port is unit 2 of its die, beside links 0 and 1 (log 84). -/
def State.portDown (s0 : State) (port : Nat) : State :=
  let flight := s0.waitReq.filter (fun r => r.dst == .md port && (match r.body with
    | .access _ _ _ k _ _ _ | .object _ k _ _ | .push k _ _ _ => foreignKey k
    | .launch _ _ => false))
  let s := s0.updMd port (fun d => { d with portUp := false, portBuf := [], portWait := [], portEarly := [], portBad := none })
  let s := (List.range 8).foldl (fun s d =>
    s.dieLost d (fun s p => decide (17 ≤ p.home) && s.homeDie d p.home == .md port)) s
  let s := (List.range 17).foldl (fun s h => s.homeLost h (fun e => e.via == some port)) s
  let s := s0.lostEvents s (.md port) (.md port)
  let s := flight.foldl (fun s r => s.cutRequest r (linkEngine (.md port) 2)) s
  let s := s.cutLoads (fun d p => decide (18 ≤ p) && s0.placeOwner d p == .md port) (fun _ _ => linkEngine (.md port) 2)
  let (n, first) := s0.lostCount s (.md port)
  s.ringPut (s.ringDie (.md port)) (s.unitRecord (s.ringDie (.md port)) 29 3 ((n % 65536) * 2 ^ 48 + 2 ^ 32 + first)
    (linkEngine (.md port) 2) 0)

/-- The frames of the replay buffer are sent again (16 R409). -/
def State.resendFrames (s : State) (port : Nat) : State :=
  if 8 ≤ (s.md port).portTries then s.portDown port
  else
    let fs := (s.md port).portBuf
    let s := s.updMd port (fun d => { d with portTries := d.portTries + 1 })
    fs.foldl (fun s f => (s.bump (512 + port) 1).emit (.frame port f)) s

/-- REPLAY_TIMEOUT: 1 µs without an acknowledgement makes the transmitter replay (16 R394). A hop from a memory-side die to itself
names its scale-up port, whose frames are resent as flits are (R409; log 84). -/
def execReplayTimeout (s : State) : Host.Outcome State Fault Refusal :=
  match s.due with
  | some (.replayTimeout h) =>
    match h.src, decide (h.src = h.dst) with
    | .md port, true => .next (if (s.md port).portBuf.isEmpty then s else s.resendFrames port)
    | _, _ => .next (if (s.stream (hopKey h.src h.dst)).buf.isEmpty then s else s.replay h.src h.dst)
  | _ => .next s

/-- Frames of a port that an acknowledgement covers leave the replay buffer. -/
def framesAfter (buf : List Frame) (ack : Nat) : List Frame :=
  match buf with
  | [] => []
  | f :: r => if buf.any (fun g => g.seq == ack) then (if f.seq = ack then r else framesAfter r ack) else buf

/-- Whether a frame comes after another at a port (SEQ has 16 bits). -/
def frameAfter (x y : Nat) : Bool := x != y && decide ((x + 65536 - y) % 65536 < 32768)

/-- The acknowledgement of a port, or its NAK, in a frame with no slot (16 R394, R409). -/
def State.sendFrameAck (s : State) (port dst : Nat) (nak : Bool) : State :=
  let d := s.md port
  (s.updMd port (fun d => { d with portUnacked := 0 })).emit
    (.frame port { seq := (d.portSeq + 65535) % 65536, ack := some ((d.portRx + 65535) % 65536), nak := nak,
                   src := fld s.pkg.devno 7 0, dst := dst, stamp := 0, slots := [] })

/-- The next frame of a port in SEQ order: its slots are handled, a late one is counted and handled at once (10 R262). A RETURN, a
RECLAIM and a conversion to S keep the window of their frame, in which the holder's write-back was sent. -/
def State.takeFrame (s : State) (port : Nat) (f : Frame) : State :=
  let now := s.pkg.timeNs.toNat / 2 ^ fld s.pkg.wlen 3 0
  let s := if f.stamp + 1 < now then s.bump (512 + port) 7 else s
  let s := s.updMd port (fun d =>
    { d with portRx := (d.portRx + 1) % 65536, portUnacked := d.portUnacked + 1, portPeer := f.src })
  -- requests of another package come to the port's die, which passes them on
  let slots := f.slots.map (fun x => match x with
    | .request r => .request { r with dst := .md port }
    | .eop (.md _) m =>
      .eop (.md port) { m with via := some port,
                               window := if m.typ = 3 ∨ m.typ = 6 ∨ (m.typ = 1 ∧ m.kind = 5) then f.stamp else m.window }
    | x => x)
  slots.foldl (fun s x => s.deliver (.md port) (512 + port) x) s

/-- Frames held early that now follow in order. -/
def State.drainFrames (s : State) (port : Nat) : Nat → State
  | 0 => s
  | fuel + 1 =>
    match (s.md port).portEarly.find? (fun f => f.seq == (s.md port).portRx) with
    | none => s
    | some f =>
      ((s.updMd port (fun d => { d with portEarly := d.portEarly.filter (fun g => g.seq != f.seq) })).takeFrame port f).drainFrames
        port fuel

/-- What an acknowledgement at a port covers leaves the replay buffer; progress restarts the count of resends. -/
def State.takeFrameAck (s : State) (port : Nat) (ack : Option Nat) : State :=
  match ack with
  | some n =>
    (s.updMd port (fun d =>
      let rest := framesAfter d.portBuf n
      { d with portBuf := rest, portTries := if rest.length = d.portBuf.length then d.portTries else 0 })).drainPort port 256
  | none => s

/-- SCALE_UP_FRAME: a frame arrives at a port, and is handled as a flit is (16 R394, R409): a failed one starts a NAK and the discard of
the later ones, good ones are taken in SEQ order, early ones are held, and the 16th is acknowledged at once. -/
def execScaleUpFrame (s : State) : Host.Outcome State Fault Refusal :=
  match s.due with
  | some (.scaleUpFrame port f ok) =>
    if !(s.md port).portUp then .next s
    else if !ok then
      let s := s.bump (512 + port) 0
      if f.slots.isEmpty then .next s
      else
        .next ((s.updMd port (fun d =>
          let q := if frameAfter d.portRx f.seq then d.portRx else f.seq
          { d with portBad := some (match d.portBad with
              | some p => if frameAfter p q then q else p
              | none => q) })).sendFrameAck port f.src true)
    else
      let s := s.takeFrameAck port f.ack
      let s := if f.nak then s.resendFrames port else s
      let d := s.md port
      let bad := if d.portBad = some f.seq then none else d.portBad
      if f.slots.isEmpty ∨ (d.portBad.map (frameAfter f.seq)).getD false = true then .next s
      else if f.seq = d.portRx then
        let s := ((s.updMd port (fun d => { d with portBad := bad })).takeFrame port f).drainFrames port 256
        .next (if 16 ≤ (s.md port).portUnacked then s.sendFrameAck port f.src false else s)
      else if (f.seq + 65536 - d.portRx) % 65536 < 256 ∧ d.portEarly.length < 256 ∧ !(d.portEarly.any (fun g => g.seq == f.seq)) then
        .next (s.updMd port (fun d => { d with portEarly := d.portEarly ++ [f], portBad := bad }))
      else .next s
  | _ => .next s

/-- ACK_TIMER: the acknowledgement due every 50 ns or 16 flits is sent (16 R394). `h` is the stream acknowledged; a hop from a
memory-side die to itself names its scale-up port (R409; log 84). -/
def execAckTimer (s : State) : Host.Outcome State Fault Refusal :=
  match s.due with
  | some (.ackTimer h) =>
    match h.src, decide (h.src = h.dst) with
    | .md port, true =>
      let d := s.md port
      .next (if d.portUp ∧ d.portUnacked ≠ 0 then s.sendFrameAck port d.portPeer false else s)
    | _, _ =>
      .next (if (s.stream (hopKey h.src h.dst)).unacked = 0 ∨ !s.linkUp h.src h.dst then s else s.sendAck h false)
  | _ => .next s

end Sys2Proof.Machine
end

