-- ==== Sys2Proof/Machine/Regions.lean ====
section
/-!
DEFINITION. Machine/Regions.lean: what a thread does with its region registers: checks at issue, giving a child back,
returning a borrow, emptying at exit (08 R190-R192, R204-R211).
-/
namespace Sys2Proof.Machine

/-! ## Rights -/

/-- The accesses of R190. -/
inductive Right
  | load | store | update | red | atom
  deriving DecidableEq, Repr

/-- Whether a kind grants an access in its space (R190). -/
def kindGrants (kind : BitVec 3) (space : BitVec 2) (op : Right) : Bool :=
  match op with
  | .load => kind == 1 || kind == 2 || kind == 4
  | .store => kind == 1
  | .update => kind == 1
  | .red => kind == 3 && space.toNat ≤ 1
  | .atom => kind == 4 && space.toNat ≤ 1

/-- Bytes of a region. -/
def Region.bytes (g : Region) : Nat := 128 * (g.lenm1.toNat + 1)

/-- The checks of R191 that do not look at an offset: the fault code of the first that fails. -/
def checkRights (g : Region) (op : Right) : Option Nat :=
  if g.kind = 0 then some 7
  else if g.splitp then some 8
  else if !kindGrants g.kind g.space op then some 9
  else if g.lost then some 11
  else none

/-- Byte offsets, by lane, that fail the bound of R191. -/
def outOfBound (g : Region) (size : Nat) (offs : List (Nat × Nat)) : List (Nat × Nat) :=
  offs.filter (fun o => g.bytes < o.2 + size)

/-! ## Parents and children -/

/-- The PARENT field that names a register (R187). -/
def parentOf (warp r : Nat) : BitVec 12 :=
  BitVec.ofNat 12 (2048 + (if warp = 32 then 1024 else 32 * (warp % 32)) + r % 32)
def Region.hasParent (g : Region) : Bool := g.parent.getLsbD 11
/-- Owner (32 for the front thread) and number of the register that PARENT names. -/
def Region.parentRef (g : Region) : Nat × Nat :=
  let p := g.parent.toNat
  (if p / 1024 % 2 = 1 then 32 else p / 32 % 32, p % 32)

/-- Whether a thread's owner, a warp or the front thread, has exited. -/
def Block.ownerGone (b : Block) (warp : Nat) : Bool :=
  if warp = 32 then !b.front.th.live else ((b.warps[warp]?).map (fun w => w.exited == 0xFFFF_FFFF)).getD true

/-- Every region register of a thread's owner, in ascending number. -/
def Block.regionsOf (b : Block) (warp : Nat) : KMap Region :=
  if warp = 32 then b.front.b else ((b.warps[warp]?).map (·.g)).getD []

/-- The instructions that act on region registers and tables, and not through them (R197). -/
def isBorrow : Instr → Bool
  | .borrow _ _ _ _ _ | .reborrowS _ _ | .reborrowE _ _ | .split _ _ _ _ _ | .share _ _ _ | .give _ | .join _ | .returnR _
  | .rginfo _ _ | .rgmov _ _ | .rgclr _ | .rgclrTaint _ => true
  | _ => false

/-- The regions through which a thread's instruction under way accesses memory, as they were checked (R192). -/
def Hold.kept (h : Hold) : List (Nat × Region) :=
  if h.issued && !(h.ins.map isBorrow).getD false then h.rgn else []

/-! ## Accesses outstanding through a borrow -/

/-- Regions that a command of the copy path or an engine still reads or writes. -/
def Core.busyRegions (c : Core) : List Region :=
  c.copies.flatMap (fun x => [x.src, x.dst]) ++ (c.array ++ c.tile ++ c.rank).flatMap (·.regions)

/-- Regions that the block's threads, both arms of a split warp, still access: data that is owed, answers that are due, and
instructions under way. -/
def Block.busyRegions (b : Block) : List Region :=
  (b.front.th :: b.warps.flatMap (fun w => [w.t, w.e])).flatMap (fun th =>
    th.pends.filterMap (·.rg) ++ ((th.hold.map (fun h => h.kept.map (·.2))).getD []))

/-- Whether one of some accesses lies in a register's range. -/
def Region.meets (g : Region) (l : List Region) : Bool :=
  l.any (fun x => x.kind != 0 && x.tag == g.tag && x.space == g.space &&
    overlaps x.base.toNat x.lenm1.toNat g.base.toNat g.lenm1.toNat)

/-- Whether the global entry of a register is under a conversion (R201). -/
def State.converting (s : State) (b : Block) (g : Region) : Bool :=
  g.space == 0 && !g.save && ((s.entry b.die g.tag).map (fun e => e.want != 0)).getD false

/-- Whether an access through a register's range is outstanding in the core's L1 or the side log: what GIVE, SPLIT and SHARE wait for
(R202, R204). Copy-path commands and engine instructions are left to their counters and waits (10 R254, R265). -/
def State.busyL1 (s : State) (b : Block) (g : Region) : Bool :=
  g.meets ((s.core b.coreIx).log.map (·.region) ++ b.busyRegions) || s.converting b g

/-- Whether an access through a register's range is outstanding (R192): by any thread of the block, in the side log, the copy
path or the engines: what RETURN and REBORROW wait for (R201, R206). -/
def State.busyRange (s : State) (b : Block) (g : Region) : Bool := s.busyL1 b g || g.meets (s.core b.coreIx).busyRegions

/-- What the end of a register's borrow waits for: a child goes back as by GIVE, another borrow as by RETURN (R211). -/
def State.busyEnd (s : State) (b : Block) (g : Region) : Bool := if g.hasParent then s.busyL1 b g else s.busyRange b g

/-- Whether the loads through a register are held until its grant's clean-after stamp (R196; 10 R262). -/
def State.stamped (s : State) (b : Block) (g : Region) : Bool :=
  g.space == 0 && ((s.entry b.die g.tag).map (fun e => e.stamp != 0)).getD false

/-! ## Giving back and returning -/

/-- A borrow goes back to its arbiter, its accesses being complete (R206 items 3 and 4): cache actions, then the entry. -/
def State.returnBorrow (s : State) (b : Block) (g : Region) (user : EntryUser) : State :=
  if g.lost then s
  else if 2 ≤ g.space.toNat then s.localRelease b.coreIx g.space.toNat g.tag false
  else
    let s := s.returnCaches b.coreIx g.tag g
    s.releaseSlot b.die g.tag user (g.kind == 1 || g.kind == 3)

/-- Whether a register is the split parent that a child's fields name: they share the table entry. -/
def Region.parents (p g : Region) : Bool := p.kind != 0 && p.splitp && p.space == g.space && p.tag == g.tag

/-- The register that a trap sets aside (15 R375): `G31` of a warp, `B15` of the front thread. -/
def asideReg (warp : Nat) : Nat := if warp = 32 then 15 else 31
def Block.asideOf (b : Block) (warp : Nat) : Region :=
  if warp = 32 then b.front.aside else ((b.warps[warp]?).map (·.aside)).getD Region.empty
def Block.setAside (b : Block) (warp : Nat) (g : Region) : Block :=
  if warp = 32 then { b with front := { b.front with aside := g } } else b.updWarp warp (fun w => { w with aside := g })

/-- A child is back: the count of the parent that its fields name, in its register or set aside by a trap, falls by one
(R204, R189). Answers the parent's owner and number where it was the last child and the owner has exited: its register goes
back too (R211). -/
def State.countBack (s : State) (blk : Nat) (g : Region) : Option (Nat × Nat) × State :=
  match s.blk? blk with
  | none => (none, s)
  | some b =>
    let (w, n) := g.parentRef
    let p := b.region w n
    let less := fun (p : Region) => { p with nsplit := p.nsplit - 1 }
    if p.parents g then
      if p.nsplit = 1 ∧ b.ownerGone w then
        (some (w, n), s.updBlk blk (fun b => b.setRegion w n { less p with splitp := false }))
      else (none, s.updBlk blk (fun b => b.setRegion w n (less p)))
    else if n = asideReg w && (b.asideOf w).parents g then
      (none, s.updBlk blk (fun b => b.setAside w (less (b.asideOf w))))
    else (none, s)

/-- A register of a thread that has gone is emptied (R211): a child is given back, another borrow returned; a split parent
stays until its children are back; a LOST register is emptied only. `fuel` bounds the chain of parents. -/
def State.dropRegister (s : State) (blk warp r : Nat) : Nat → State
  | 0 => s
  | fuel + 1 =>
    match s.blk? blk with
    | none => s
    | some b =>
      let g := b.region warp r
      if g.kind = 0 ∨ (g.splitp ∧ g.nsplit ≠ 0) then s
      else
        let s := s.updBlk blk (fun b => b.setRegion warp r Region.empty)
        if g.hasParent then
          match s.countBack blk g with
          | (some (w, n), s) => s.dropRegister blk w n fuel
          | (none, s) => s
        else s.returnBorrow b g (.ended blk)

/-- GIVE's step 4 and R211: the parent's count falls by one; a parent whose thread has exited goes back with it. -/
def State.giveBack (s : State) (blk : Nat) (g : Region) : State :=
  match s.countBack blk g with
  | (some (w, n), s) => s.dropRegister blk w n 40
  | (none, s) => s

/-- The register that a trap set aside is the thread's own again (15 R375, R383). -/
def Block.unsetAside (b : Block) (warp : Nat) : Block :=
  if (b.region warp (asideReg warp)).save then (b.setRegion warp (asideReg warp) (b.asideOf warp)).setAside warp Region.empty else b

/-- Every region register of an exited warp or front thread is emptied in ascending number (R211); one that exits in its handler has
the register that the trap set aside among them. -/
def State.dropRegions (s : State) (blk warp : Nat) : State :=
  match s.blk? blk with
  | none => s
  | some b =>
    let b := b.unsetAside warp
    (b.regionsOf warp).foldl (fun s x => s.dropRegister blk warp x.1 40) (s.updBlk blk (fun _ => b))

/-- The children of the borrow `p`, moved from a register, name their new parent (R208): in their registers, and those that a
GIVE under way has emptied. -/
def Block.reparent (b : Block) (p : Region) (warp old new : Nat) : Block :=
  let f := fun (g : Region) =>
    if g.kind ≠ 0 ∧ g.parent = parentOf warp old ∧ p.parents g then { g with parent := parentOf warp new } else g
  (b.mapRegions f).mapThreads (fun th => { th with hold := th.hold.map (fun h => match h.wait with
    | .through g => { h with wait := .through (f g) }
    | _ => h) })

end Sys2Proof.Machine
end

