-- ==== Sys2Proof/Machine/Barriers.lean ====
section
/-!
DEFINITION. Machine/Barriers.lean: barriers, the exchange-bank swap and performance counts (14 R352-R363, R370; 09 R217).
Levels are numbered as R358 codes them: 0 block, 1 cluster, 2 die, 3 grid.
-/
namespace Sys2Proof.Machine

/-! ## Performance counters -/

/-- Counts an event of R370 in a core: every enabled counter that is set to the event rises, modulo 2^48. -/
def State.pmcCount (s : State) (core event n : Nat) : State :=
  let c := s.core core
  if c.pmcfg.any (fun f => bitOf f 63 && fld f 55 48 == event) then
    s.updCore core (fun c => { c with pmc := (c.pmc.zip c.pmcfg).map (fun x =>
      if bitOf x.2 63 && fld x.2 55 48 == event then x.1 + BitVec.ofNat 48 n else x.1) })
  else s

/-! ## Instances -/

def clusterKey (b : Block) : Nat := 2 ^ 32 * b.pkt + b.clusIx.toNat
def dieKey (b : Block) : Nat := 8 * b.pkt + b.grp

/-- A fresh barrier (R352). -/
def Barrier.fresh (members : List Nat) : Barrier :=
  { c := 0, members := members, arrived := [], pending := none, broken := false, entry := false, used := 0 }

/-- The barriers of a block's instance at a level. -/
def State.barsOf (s : State) (b : Block) (lev : Nat) : List Barrier :=
  match lev with
  | 0 => b.bars
  | 1 => (kget s.clBars (clusterKey b)).getD []
  | 2 => (kget s.dieBars (dieKey b)).getD []
  | _ => (kget s.grBars b.pkt).getD []

def State.bar? (s : State) (b : Block) (lev n : Nat) : Option Barrier := (s.barsOf b lev)[n]?

def State.updBar (s : State) (bk : Nat) (b : Block) (lev n : Nat) (f : Barrier → Barrier) : State :=
  match lev with
  | 0 => s.updBlk bk (fun b => { b with bars := lset b.bars n f })
  | 1 => { s with clBars := kupd s.clBars (clusterKey b) (fun l => lset l n f) }
  | 2 => { s with dieBars := kupd s.dieBars (dieKey b) (fun l => lset l n f) }
  | _ => { s with grBars := kupd s.grBars b.pkt (fun l => lset l n f) }

/-- A thread's place in a barrier's membership: a warp index or 32 at the block level, the block's index elsewhere. -/
def memberOf (b : Block) (t : ThreadRef) (lev : Nat) : Nat :=
  if lev = 0 then t.warp else if lev = 1 then b.clIx else b.blockIx.toNat

/-- Whether a member has exited (R353). One that is being killed has not. -/
def State.memberGone (s : State) (b : Block) (lev m : Nat) : Bool :=
  if lev = 0 then b.ownerGone m
  else !(s.blocks.any (fun x => x.2.pkt == b.pkt && x.2.front.th.live &&
    (if lev = 1 then x.2.clusIx == b.clusIx && x.2.clIx == m else x.2.blockIx.toNat == m)))

/-- The exchange banks of every block of a cluster change places (09 R217). -/
def State.swapBanks (s : State) (b : Block) : State :=
  { s with blocks := s.blocks.map (fun x =>
      if x.2.pkt == b.pkt && x.2.clusIx == b.clusIx && x.2.allot.xbytes != 0 then
        (x.1, { x.2 with swapped := !x.2.swapped }) else x) }

/-- Completes the phase of a barrier where every member has arrived or exited (R353): C rises, the arrived set empties, a
pending membership takes effect, and cluster barrier 0 swaps the exchange banks (09 R217). A broken barrier completes no phase: its
members arrive no more, and the killed one never does (R356). -/
def State.settle (s : State) (bk : Nat) (b : Block) (lev n : Nat) : State :=
  match s.bar? b lev n with
  | none => s
  | some r =>
    if r.arrived.isEmpty || r.broken then s
    else if r.members.all (fun m => r.arrived.contains m || s.memberGone b lev m) then
      let s := s.updBar bk b lev n (fun r =>
        { r with c := r.c + 1, arrived := [], members := r.pending.getD r.members, pending := none })
      if lev = 1 ∧ n = 0 then s.swapBanks b else s
    else s

/-- A block barrier takes an entry of its core; the 64th is followed by a spill of the least recently used, and a barrier
that was spilled is filled back: either is counted once (R357). -/
def State.barEntry (s : State) (bk : Nat) (b : Block) (n : Nat) : State :=
  match b.bars[n]? with
  | none => s
  | some r =>
    let s := s.updBlk bk (fun b => { b with bars := lset b.bars n (fun r => { r with entry := true, used := s.clock + 1 }) })
    if r.entry then s
    else
      let mine := s.blocks.flatMap (fun x => if x.2.home && x.2.coreIx == b.coreIx then
        ((List.range x.2.bars.length).zip x.2.bars).filterMap (fun y =>
          if y.2.entry && !(x.1 == bk && y.1 == n) then some (y.2.used, x.1, y.1) else none) else [])
      let full := 64 ≤ mine.length
      let old := mine.foldl (fun a x => match a with
        | none => some x
        | some y => if x.1 < y.1 then some x else some y) (none : Option (Nat × Nat × Nat))
      let s := if full then
          (match old with
           | some (_, k, j) => s.updBlk k (fun b => { b with bars := lset b.bars j (fun r => { r with entry := false }) })
           | none => s)
        else s
      if full || r.used != 0 then (s.addCdReg b.die 0x3E6).pmcCount b.coreIx 8 1 else s

/-- An operation on a barrier: a block barrier takes its entry (R357). -/
def State.useBar (s : State) (t : ThreadRef) (b : Block) (lev n : Nat) : State :=
  if lev = 0 then s.barEntry t.blk b n else s

/-- A member arrives (R353, R354): the second arm of a warp is not counted again. Answers the token. -/
def State.arrive (s : State) (t : ThreadRef) (b : Block) (lev n : Nat) : Word × State :=
  let c := ((s.bar? b lev n).map (·.c)).getD 0
  let m := memberOf b t lev
  let s := (s.useBar t b lev n).updBar t.blk b lev n (fun r => if r.arrived.contains m then r else { r with arrived := r.arrived ++ [m] })
  (c, s.settle t.blk ((s.blk? t.blk).getD b) lev n)

/-- An exit is looked at by every barrier of the block, and by those of its cluster, die group and grid when its front
thread exits (R353, R360). -/
def State.exitBars (s : State) (bk : Nat) (b : Block) (front : Bool) : State :=
  let s := (List.range b.bars.length).foldl (fun s n => s.settle bk ((s.blk? bk).getD b) 0 n) s
  if front then
    let s := (List.range 8).foldl (fun s n => s.settle bk b 1 n) s
    let s := (List.range 4).foldl (fun s n => s.settle bk b 2 n) s
    (List.range 2).foldl (fun s n => s.settle bk b 3 n) s
  else s

/-- A kill of a member breaks the cluster, die and grid barriers of its instances (R356). -/
def State.breakBars (s : State) (b : Block) : State :=
  let br := fun (l : List Barrier) => l.map (fun r => { r with broken := true })
  { s with clBars := kupd s.clBars (clusterKey b) br, dieBars := kupd s.dieBars (dieKey b) br,
           grBars := kupd s.grBars b.pkt br }

/-- Whether an XST or RLST of a block has not landed (R355). -/
def State.unlanded (s : State) (bk : Nat) (b : Block) : Bool :=
  (s.core b.coreIx).copies.any (fun c => c.t.blk == bk && (match c.ins with
      | .xst _ _ _ => true
      | .rlst _ _ _ _ => true
      | _ => false))

end Sys2Proof.Machine
end

