-- ==== Sys2Proof/Machine/Frame.lean ====
section
/-!
DEFINITION. Machine/Frame.lean: the save frame of a block as bytes, written by a save and read back by a restore (15 R387, R388;
06 R140). What no byte of the frame names stays with the block itself (log 26).
-/
namespace Sys2Proof.Machine

/-! ## Stack entries -/

def StackKind.code : StackKind → Nat
  | .reconverge => 0 | .pending => 1 | .call => 2 | .split => 3
def LogStack.code : LogStack → Nat
  | .warp => 0 | .armT => 1 | .armE => 2 | .front => 3

/-- The 16 bytes of an entry (R140). -/
def StackEntry.bytes (e : StackEntry) : List Byte :=
  leBytes 8 (e.kind.code * 2 ^ 62 + e.log.code * 2 ^ 60 + e.pc.toNat) ++ leBytes 4 e.mask.toNat ++ leBytes 4 e.fmt.toNat

/-- Offset of a stack's spill region in the frame (15 R387). -/
def spillOff (warp : Nat) : Nat := if warp = 32 then 0x12000 else 0xA000 + 1024 * warp

/-- H entries of a stack are held in hardware (06 R141, 16 R412). -/
def State.stackH (s : State) (die : Nat) : Nat := if bitOf (s.cdReg die 0x300) 43 then 4 else 8

/-- The H newest entries of every stack of a restored block are held in hardware (06 R150, R151). -/
def Block.holdStacks (b : Block) (h : Nat) : Block :=
  { b with warps := b.warps.map (fun w => { w with held := min h w.stack.length })
           front := { b.front with held := min h b.front.stack.length } }

/-! ## Bytes at an object's place -/

/-- Bytes at an object's place: the home, or the bank of a die (10 R256). -/
def State.keyRead (s : State) (k n : Nat) : List Byte :=
  if 512 ≤ keyPlace k then s.sharedRead (keyPlace k - 512) (keyAddr k) n else cread s.mem k n
def State.keyWrite (s : State) (k : Nat) (bs : List Byte) : State :=
  if 512 ≤ keyPlace k then s.sharedPut (keyPlace k - 512) (keyAddr k) bs else s.homeWrite k bs
/-- The little-endian number at a key. -/
def State.numAt (s : State) (k n : Nat) : Nat := leNat (s.keyRead k n)

/-! ## The frame's bytes (15 R387, R388) -/

/-- A part of the frame padded with zeros to its size. -/
def padTo (n : Nat) (bs : List Byte) : List Byte := (bs ++ List.replicate n 0).take n

/-- Cursors of the eight bobbins, one byte each. -/
def cursorBytes (cur : List (Nat × Bool)) : List Byte :=
  (List.range 8).map (fun i => let x := cur.getD i (0, false); BitVec.ofNat 8 (x.1 + if x.2 then 16 else 0))

/-- Whether a thread issues its instruction again at restore. -/
def Thread.again (th : Thread) : Bool := (th.hold.map (fun h => h.wait == .again || h.ins.isSome)).getD false

/-- The token that a thread held in a barrier wait keeps (14 R362). -/
def Thread.token (th : Thread) : Word :=
  match th.hold.orElse (fun _ => th.kept) with
  | some h => (match h.wait with
    | .barrier _ _ tok => tok
    | _ => 0)
  | none => 0

/-- The 128 bytes of an arm; in trap mode the R48 bytes hold the state that its trap entry saved. -/
def armBytes (th : Thread) : List Byte :=
  let stopped := (th.hold.map (fun h => h.wait == .otherArm)).getD false
  let flags := (if th.live then 2 ^ 63 else 0) + (if stopped then 2 ^ 62 else 0) + (if th.trap then 2 ^ 61 else 0)
    + (if th.again then 2 ^ 60 else 0)
  let pb := match (if th.trap then th.pblkSave else th.pblk) with
    | some p => leBytes 4 (p.left % 16 + 16 * p.pattern.toNat) ++ leBytes 4 p.kcap.toNat
    | none => leBytes 8 0
  leBytes 8 (th.pc.toNat + flags) ++ leBytes 4 th.exm.toNat ++ leBytes 4 th.path.toNat ++ leBytes 4 th.fmt.toNat ++ pb
    ++ leBytes 4 th.token.toNat ++ cursorBytes th.prodCur ++ cursorBytes th.consCur ++ leBytes 8 th.trpc.toNat
    ++ leBytes 8 th.trctl.toNat ++ padTo 64 (((th.record.orElse (fun _ => th.later)).map recBytes).getD [])

/-- The 16 bytes of a region register (08 R187). -/
def Region.image (g : Region) : List Byte :=
  leBytes 16 (g.base.toNat + 2 ^ 49 * g.lenm1.toNat + 2 ^ 84 * g.slot.toNat + 2 ^ 100 * g.parent.toNat
    + 2 ^ 112 * g.child.toNat + 2 ^ 115 * g.nsplit.toNat + 2 ^ 119 * g.wpseen.toNat + 2 ^ 120 * g.lost.toNat
    + 2 ^ 121 * g.taint.toNat + 2 ^ 122 * g.splitp.toNat + 2 ^ 123 * g.space.toNat + 2 ^ 125 * g.kind.toNat)

/-- The 512 bytes of a warp. `popped` counts the decision-queue entries that it has popped and others have not. -/
def warpBytes (b : Block) (i : Nat) (w : Warp) : List Byte :=
  let count := fun (l : LogStack) => BitVec.ofNat 8 ((w.stack.filter (fun e => e.log == l)).length)
  let popped := (b.dq.filter (fun e => lane e.popped i)).length
  armBytes w.t ++ armBytes w.e ++ w.k.flatMap (fun k => leBytes 4 k.toNat) ++ leBytes 2 w.wb.toNat
    ++ padTo 6 [count .warp, count .armT, count .armE] ++ leBytes 8 popped ++ padTo 208 w.aside.image

/-- The 16 bytes of a barrier: C, then membership and arrivals as masks of their first 48 places (log 27). -/
def barBytes (r : Barrier) : List Byte :=
  let mask := fun (l : List Nat) => leBytes 6 ((l.filter (fun i => decide (i < 48))).foldl (fun m i => m ||| 2 ^ i) 0)
  leBytes 4 r.c.toNat ++ mask r.members ++ mask r.arrived

/-- The 48 bytes of a bobbin: for each slot F and E in one byte, then the two arrival counts (log 27). -/
def bobBytes (l : List BobSlot) : List Byte :=
  padTo 48 (l.flatMap (fun x =>
    [BitVec.ofNat 8 ((if x.f then 1 else 0) + if x.e then 2 else 0), BitVec.ofNat 8 x.prod, BitVec.ofNat 8 x.cons]))

/-- The block record. -/
def blockBytes (s : State) (b : Block) (hold nest : Bool) : List Byte :=
  padTo 256 (leBytes 4 b.blockIx.toNat ++ leBytes 2 b.ctx.toNat ++ [BitVec.ofNat 8 (b.die % 8 + 128),
    BitVec.ofNat 8 ((if hold then 1 else 0) + (if nest then 2 else 0) + (if b.attUsed then 4 else 0)
      + if b.recUsed then 8 else 0)]
    ++ leBytes 8 (((kget s.packets b.pkt).map (·.pa)).getD 0) ++ leBytes 4 b.tvalid.toNat ++ leBytes 4 b.tdirty.toNat
    ++ [BitVec.ofNat 8 (s.stackH b.die)])

/-- The front thread's state. -/
def frontBytes (f : Front) : List Byte :=
  padTo 256 (leBytes 8 (f.th.pc.toNat + (if f.th.trap then 2 ^ 61 else 0) + (if f.th.again then 2 ^ 60 else 0))
    ++ [BitVec.ofNat 8 f.swb, BitVec.ofNat 8 f.stack.length] ++ leBytes 6 0 ++ cursorBytes f.th.prodCur
    ++ cursorBytes f.th.consCur ++ padTo 16 (leBytes 4 f.th.token.toNat) ++ leBytes 8 f.th.trpc.toNat
    ++ leBytes 8 f.th.trctl.toNat ++ f.aside.image)

/-- The parts of the first 256 KiB but for the trap slots, which trap entry writes. -/
def headParts (s : State) (b : Block) (hold nest : Bool) : List (Nat × List Byte) :=
  let ws := (List.range b.warps.length).zip b.warps
  let core := s.core b.coreIx
  let outer := if b.clIx = 0 then
      s.barsOf b 1 ++ (if b.coop then s.barsOf b 2 ++ s.barsOf b 3 else []) else []
  [(0, blockBytes s b hold nest), (0x100, frontBytes b.front),
   (0x200, (cread b.front.s 0 192).flatMap (fun x => leBytes 8 x.toNat)),
   (0x800, padTo 64 (b.y.flatMap (fun x => leBytes 8 x.toNat))),
   (0x840, padTo 64 (b.counts.flatMap (fun x => leBytes 4 x.toNat))),
   (0x880, padTo 256 (b.bars.flatMap barBytes)), (0x980, padTo 256 (outer.flatMap barBytes)),
   (0xA80, padTo 384 (b.bobs.flatMap bobBytes)),
   (0xC00, padTo 512 (b.dq.flatMap (fun e =>
     leBytes 8 e.value.toNat ++ leBytes 4 e.target.toNat ++ leBytes 4 e.popped.toNat))),
   (0x1000, (List.range 16).flatMap (fun r => (b.region 32 r).image)),
   (0x12000, padTo 1024 (b.front.stack.reverse.flatMap StackEntry.bytes))]
  ++ ws.map (fun x => (0x2000 + 512 * x.1, (List.range 32).flatMap (fun r => (b.region x.1 r).image)))
  ++ ws.map (fun x => (0x6000 + 512 * x.1, warpBytes b x.1 x.2))
  ++ ws.map (fun x => (0xA000 + 1024 * x.1, padTo 1024 (x.2.stack.reverse.flatMap StackEntry.bytes)))
  ++ (if b.attUsed then [(0x12400, (cread core.att 0 1024).flatMap (fun x => leBytes 2 x.toNat))] else [])
  ++ (if b.recUsed then [(0x12C00, (cread core.recon 0 1024).flatMap (fun x => leBytes 2 x.toNat))] else [])

/-- The parts from 0x4_0000 on, each a whole number of pages: vector registers, tiles that are valid and dirty, scratch. -/
def bodyParts (b : Block) : List (Nat × List Byte) :=
  let regs := (b.allot.roles.map (·.2)).foldl (· + ·) 0
  let v := b.warps.flatMap (fun w => (cread w.v 0 (32 * w.allot)).flatMap (fun x => leBytes 4 x.toNat))
  let t0 := 2 ^ 18 + upTo 16384 (128 * regs)
  let tiles := (List.range b.allot.tiles).filter (fun t => lane b.tvalid t && lane b.tdirty t)
  (2 ^ 18, padTo (upTo 16384 (128 * regs)) v)
    :: tiles.map (fun t => (t0 + 16384 * t, (cread b.tile (4096 * t) 4096).flatMap (fun x => leBytes 4 x.toNat)))
    ++ [(t0 + 16384 * b.allot.tiles, padTo (upTo 16384 b.allot.scratch) (cread b.scratch 0 b.allot.scratch))]

/-- What of the first 256 KiB of a frame is no trap slot of the block, whose bytes trap entry writes: (offset, length). -/
def Block.headRuns (b : Block) : List (Nat × Nat) :=
  let slots := trapOff b.warps.length
  [(0, 0x14000), (0x15000, 0xB000), (slots, 0x40000 - slots)]

/-! ## The frame read back (15 R386) -/

/-- The elements that bytes hold, `n` bytes each. -/
def elemsIn (w n : Nat) : Nat → List Byte → List (BitVec w)
  | 0, _ => []
  | k + 1, bs => BitVec.ofNat w (leNat (bs.take n)) :: elemsIn w n k (bs.drop n)

/-- The record that 64 bytes hold: none where `CODE` is 0 (R372, R388). -/
def recFrom (bs : List Byte) : Option FaultRec :=
  let n := recNum bs
  if n 0 2 = 0 then none
  else some
    { code := n 0 2, cls := n 2 1, flags := BitVec.ofNat 8 (n 3 1), pc := BitVec.ofNat 56 (n 4 8), warp := n 12 1, die := n 13 1,
      core := n 14 2, blockIx := BitVec.ofNat 32 (n 16 4), taskId := BitVec.ofNat 32 (n 20 4), chain := elemsIn 32 4 4 (bs.drop 24),
      addr := BitVec.ofNat 64 (n 40 8), engine := BitVec.ofNat 16 (n 48 2), ctx := BitVec.ofNat 16 (n 50 2),
      lanes := BitVec.ofNat 32 (n 52 4), time := BitVec.ofNat 64 (n 56 8) }

/-- The region register that 16 bytes hold (08 R187). Where they hold the borrow that the block keeps, its flags are those that its
table entry has given it since. -/
def regionFrom (old : Region) (bs : List Byte) : Region :=
  let n := leNat bs
  let x : Region :=
    { kind := BitVec.ofNat 3 (n / 2 ^ 125), space := BitVec.ofNat 2 (n / 2 ^ 123), splitp := n.testBit 122, taint := n.testBit 121,
      lost := n.testBit 120, wpseen := n.testBit 119, save := false, nsplit := BitVec.ofNat 4 (n / 2 ^ 115),
      child := BitVec.ofNat 3 (n / 2 ^ 112), parent := BitVec.ofNat 12 (n / 2 ^ 100), slot := BitVec.ofNat 16 (n / 2 ^ 84),
      lenm1 := BitVec.ofNat 34 (n / 2 ^ 49), base := BitVec.ofNat 49 n }
  if { x with taint := old.taint, lost := old.lost, wpseen := old.wpseen, save := old.save } = old then old else x

/-- The stack entry that 16 bytes hold (06 R140). -/
def entryFrom (bs : List Byte) : StackEntry :=
  let n := recNum bs 0 8
  { kind := match n / 2 ^ 62 with
      | 0 => .reconverge
      | 1 => .pending
      | 2 => .call
      | _ => .split
    log := match n / 2 ^ 60 % 4 with
      | 0 => .warp
      | 1 => .armT
      | 2 => .armE
      | _ => .front
    pc := BitVec.ofNat 56 n, mask := BitVec.ofNat 32 (recNum bs 8 4), fmt := BitVec.ofNat 32 (recNum bs 12 4) }

/-- The `n` entries of a spill region, newest first. -/
def stackFrom (n : Nat) (bs : List Byte) : List StackEntry :=
  ((List.range (min n 64)).map (fun i => entryFrom ((bs.drop (16 * i)).take 16))).reverse

def cursorsFrom (bs : List Byte) : List (Nat × Bool) :=
  (bs.take 8).map (fun (x : Byte) => (x.toNat % 16, x.getLsbD 4))

/-- A wait for a phase with the token that the frame holds (14 R362). -/
def Hold.withToken (h : Hold) (tok : Word) : Hold :=
  match h.wait with
  | .barrier l n _ => { h with wait := .barrier l n tok }
  | _ => h

/-- What a restored thread waits for: its instruction issues again, or, a wait for a phase, goes on; else it is stopped at the
split, or is free to issue (R386, 14 R362). -/
def Thread.heldAgain (th : Thread) (pc : BitVec 56) (again stopped : Bool) (tok : Word) : Option Hold :=
  let anew := fun (w : Wait) => ({ wait := w, ins := none, stage := 0, answer := none, dq := none } : Hold)
  if again then
    some (match th.hold with
      | some h => if pc = th.pc && (h.wait == .again || h.ins.isSome) then h.withToken tok else anew .again
      | none => anew .again)
  else if stopped then some (anew .otherArm)
  else th.hold.filter (fun h => h.ins.isNone && (h.wait == .trapOther || h.wait == .forever || h.wait == .pathEnd))

/-- A thread with the items that the front state and an arm's bytes have in common: its PC word, the token, the cursors, `TRPC` and
`TRCTL`. -/
def Thread.readBack (th : Thread) (w0 : DWord) (stopped : Bool) (tok : Word) (prod cons trap : List Byte) : Thread :=
  let pc := w0.setWidth 56
  { th with
    pc := pc, trap := bitOf w0 61, hold := th.heldAgain pc (bitOf w0 60) stopped tok, kept := th.kept.map (·.withToken tok),
    prodCur := cursorsFrom prod, consCur := cursorsFrom cons, trpc := BitVec.ofNat 64 (recNum trap 0 8),
    trctl := BitVec.ofNat 64 (recNum trap 8 8) }

/-- The arm that 128 bytes hold (R388). -/
def armFrom (th : Thread) (bs : List Byte) : Thread :=
  let n := recNum bs
  let w0 := BitVec.ofNat 64 (n 0 8)
  let pb : Option Pblk := if n 20 1 % 16 = 0 then none
    else some { left := n 20 1 % 16, pattern := BitVec.ofNat 8 (n 20 4 / 16), kcap := BitVec.ofNat 32 (n 24 4) }
  let r := recFrom (bs.drop 64)
  let behind := th.record.isNone && th.later.isSome
  { th.readBack w0 (bitOf w0 62) (BitVec.ofNat 32 (n 28 4)) ((bs.drop 32).take 8) ((bs.drop 40).take 8) ((bs.drop 48).take 16) with
    exm := BitVec.ofNat 32 (n 8 4), path := BitVec.ofNat 32 (n 12 4), fmt := BitVec.ofNat 32 (n 16 4), live := bitOf w0 63,
    pblk := if bitOf w0 61 then th.pblk else pb, pblkSave := if bitOf w0 61 then pb else th.pblkSave,
    record := if behind then none else r, later := if behind then r else none }

/-- The warp that its 512 bytes of state, its spill region and its vector registers hold. -/
def warpFrom (w : Warp) (bs spill v : List Byte) : Warp :=
  let n := recNum bs
  let t := armFrom w.t (bs.take 128)
  let e := armFrom w.e ((bs.drop 128).take 128)
  let stack := stackFrom (n 290 1 + n 291 1 + n 292 1) spill
  { w with
    t := t, e := e, k := elemsIn 32 4 8 (bs.drop 256), wb := BitVec.ofNat 10 (n 288 2), stack := stack,
    split := stack.any (fun x => x.kind == .split), aside := regionFrom w.aside ((bs.drop 304).take 16),
    trapE := if t.trap then some false else if e.trap then some true else none,
    v := cwrite [] 0 (elemsIn 32 4 (32 * w.allot) v) }

/-- The front thread that its state, its uniform registers and its spill region hold. -/
def frontFrom (f : Front) (bs sregs spill : List Byte) : Front :=
  let n := recNum bs
  { f with
    th := f.th.readBack (BitVec.ofNat 64 (n 0 8)) false (BitVec.ofNat 32 (n 32 4)) ((bs.drop 16).take 8) ((bs.drop 24).take 8)
      ((bs.drop 48).take 16)
    swb := n 8 1, stack := stackFrom (n 9 1) spill, aside := regionFrom f.aside ((bs.drop 64).take 16),
    s := cwrite [] 0 (elemsIn 64 8 192 sregs) }

/-- A barrier: C, and the places below 48 of its members and arrivals (log 27). -/
def barFrom (r : Barrier) (bs : List Byte) : Barrier :=
  let places := fun (o : Nat) (old : List Nat) =>
    (List.range 48).filter (fun i => (recNum bs o 6).testBit i) ++ old.filter (fun i => decide (48 ≤ i))
  { r with c := BitVec.ofNat 32 (recNum bs 0 4), members := places 4 r.members, arrived := places 10 r.arrived }

def barsFrom (l : List Barrier) (bs : List Byte) : List Barrier :=
  ((List.range l.length).zip l).map (fun x => barFrom x.2 ((bs.drop (16 * x.1)).take 16))

/-- The slots of a bobbin. -/
def bobFrom (l : List BobSlot) (bs : List Byte) : List BobSlot :=
  (List.range l.length).map (fun i =>
    let n := recNum bs
    { f := (n (3 * i) 1).testBit 0, e := (n (3 * i) 1).testBit 1, prod := n (3 * i + 1) 1, cons := n (3 * i + 2) 1 })

/-- The decision queue: entries with a target, in order; each keeps its place among the pushes. -/
def dqFrom (l : List DqEntry) (bs : List Byte) : List DqEntry :=
  let last := ((l.getLast?).map (·.seq)).getD 0
  ((List.range 32).map (fun i =>
    ({ value := BitVec.ofNat 64 (recNum bs (16 * i) 8), target := BitVec.ofNat 32 (recNum bs (16 * i + 8) 4),
       popped := BitVec.ofNat 32 (recNum bs (16 * i + 12) 4),
       seq := ((l[i]?).map (·.seq)).getD (last + i + 1 - l.length) } : DqEntry))).filter (fun e => e.target != 0)

/-- Region registers 0 to `n`-1 of a warp, or of the front thread (warp 32). -/
def Block.regionsFrom (b : Block) (warp n : Nat) (bs : List Byte) : Block :=
  (List.range n).foldl (fun b r => b.setRegion warp r (regionFrom (b.region warp r) ((bs.drop (16 * r)).take 16))) b

/-- Bytes of the first 256 KiB of a block's frame, within one page. -/
def State.frameRead (s : State) (b : Block) (off n : Nat) : List Byte :=
  ((b.frameKey off).map (fun k => s.keyRead k n)).getD (List.replicate n 0)

/-- The block that the first 256 KiB of its frame hold. Its number, its context number, its die and its packet are the device's own
names for it and stay. -/
def State.headBack (s : State) (b : Block) : Block :=
  let rd := s.frameRead b
  let used := BitVec.ofNat 8 (recNum (rd 0 256) 7 1)
  let b : Block :=
    { b with
      tvalid := BitVec.ofNat 32 (recNum (rd 0 256) 16 4), tdirty := BitVec.ofNat 32 (recNum (rd 0 256) 20 4),
      attUsed := used.getLsbD 2, recUsed := used.getLsbD 3,
      front := frontFrom b.front (rd 0x100 256) (rd 0x200 1536) (rd 0x12000 1024),
      y := elemsIn 64 8 8 (rd 0x800 64), counts := elemsIn 32 4 16 (rd 0x840 64), bars := barsFrom b.bars (rd 0x880 256),
      bobs := ((List.range b.bobs.length).zip b.bobs).map (fun (x : Nat × List BobSlot) => bobFrom x.2 (rd (0xA80 + 48 * x.1) 48)),
      dq := dqFrom b.dq (rd 0xC00 512),
      attSave := if used.getLsbD 2 then cwrite [] 0 (elemsIn 16 2 1024 (rd 0x12400 2048)) else [],
      recSave := if used.getLsbD 3 then cwrite [] 0 (elemsIn 16 2 1024 (rd 0x12C00 2048)) else [] }
  (List.range b.warps.length).foldl (fun b w => b.regionsFrom w 32 (rd (0x2000 + 512 * w) 512)) (b.regionsFrom 32 16 (rd 0x1000 256))

/-- The warps, tiles and scratch that the frame holds: `body` gives the bytes of the parts from 0x4_0000 on, in order. A tile that is
valid and not dirty reads as zeros (07 R185). -/
def State.bodyBack (s : State) (b : Block) (body : List (List Byte)) : Block :=
  let rd := s.frameRead b
  let tiles := (List.range b.allot.tiles).filter (fun t => lane b.tvalid t && lane b.tdirty t)
  let at_ := fun (w : Nat) => 128 * ((b.warps.take w).map (·.allot)).foldl (· + ·) 0
  { b with
    warps := ((List.range b.warps.length).zip b.warps).map (fun (x : Nat × Warp) =>
      warpFrom x.2 (rd (0x6000 + 512 * x.1) 512) (rd (0xA000 + 1024 * x.1) 1024) ((body.headD []).drop (at_ x.1)))
    tile := (tiles.zip (body.drop 1)).foldl (fun m x => cwrite m (4096 * x.1) (elemsIn 32 4 4096 x.2)) []
    scratch := cwrite [] 0 ((body.getLastD []).take b.allot.scratch) }

/-- The barriers beyond the block that its frame holds: those of the frame with `CLBIX` 0 (R387). -/
def State.outerBack (s : State) (b : Block) : State :=
  if b.clIx ≠ 0 then s
  else
    let bs := s.frameRead b 0x980 256
    let s := { s with clBars := kupd s.clBars (clusterKey b) (fun l => barsFrom l bs) }
    if b.coop then
      let n1 := (s.barsOf b 1).length
      let n2 := (s.barsOf b 2).length
      { s with dieBars := kupd s.dieBars (dieKey b) (fun l => barsFrom l (bs.drop (16 * n1))),
               grBars := kupd s.grBars b.pkt (fun l => barsFrom l (bs.drop (16 * (n1 + n2)))) }
    else s
end Sys2Proof.Machine
end

