-- ==== Sys2Proof/Machine/Work.lean ====
section
/-!
DEFINITION. Machine/Work.lean: packets, blocks, pools and tasks from start to end (12 R297-R307; 13 R316-R346), and the
operations on futures, locks, queues and successor counters at their place (13 R322-R338).
-/
namespace Sys2Proof.Machine

/-! ## Memory as the units reach it -/

/-- Keys of die-shared memory: place 512 + die. -/
def sharedKey (die off : Nat) : Nat := placeKey (512 + die) off

/-- Whether what a unit reads is held at its home for reserve (11 R291). -/
def State.unitHeld (s : State) (die : Nat) (d : CtxDesc) (va : Nat) (priv : Bool) : Bool :=
  s.readHeld die (16 * die) d va .read priv

/-- An access of a unit to a virtual address of a context, page by page within one element (12 R298, 13 R320). One whose bytes, or
whose table entries, are held for reserve is not there yet (11 R291). -/
def State.unitKey (s : State) (die : Nat) (d : CtxDesc) (va : Nat) (acc : Access) (priv : Bool) : Tr :=
  if acc != .fetch && s.unitHeld die d va priv then .absent else s.translateNow die (16 * die) d va acc priv

/-- A page that a unit waits for: one class-R record, and the step is taken again after the replay (13 R320, 15 R377); what is only
held for reserve is tried again (11 R291). -/
def State.owePage (s : State) (die : Nat) (d : CtxDesc) (ctx : BitVec 16) (va engine : Nat) (e : Event) : State :=
  if s.unitHeld die d va true then s.post e
  else
    (s.updCd die (fun c => { c with retry := c.retry ++ [(d.asid, e)] })).ringPut die
      (s.unitRecord die 22 2 va (engine * 4096 + die * 256) ctx)

/-- What a unit reads for a context reaches its homes: its walks, and one request for each line (14 R367). -/
def State.unitReads (s : State) (die : Nat) (d : CtxDesc) (va n : Nat) : State :=
  let s := s.walkRange die (16 * die) d va n
  (chunks 128 (n / 128 + 2) va n).foldl (fun s c => match s.translateNow die (16 * die) d c.1 .read true with
    | .hit k => (s.touch k).cacheLine k false
    | _ => s) s

/-- The same at a physical address. -/
def State.unitReadsPa (s : State) (die pa n : Nat) : State :=
  (chunks 128 (n / 128 + 2) pa n).foldl (fun s c => match s.paKey die c.1 with
    | some k => (s.touch k).cacheLine k false
    | none => s) s

/-- Whether the bytes at a physical address are held at their home for reserve. -/
def State.paHeld (s : State) (die pa : Nat) : Bool := s.anyHeld && ((s.paKey die pa).map s.overflowed).getD false

/-! ## Tasks by ID (13 R317) -/

def idPool (id : Word) : Nat := id.toNat >>> 22
def idEntry (id : Word) (tcap : Nat) : Nat := id.toNat % 2 ^ 22 % 2 ^ tcap
def mkId (pool gen tcap e : Nat) : Word :=
  BitVec.ofNat 32 (pool % 1024 * 2 ^ 22 + (gen % 2 ^ (22 - tcap)) * 2 ^ tcap + e)

/-- The pool with an index in the partition of a die, by its key. -/
def State.poolAt (s : State) (die ix : Nat) : Option (Nat × Pool) :=
  s.pools.find? (fun x => x.1 % 1024 == ix && (s.partDies die).contains x.2.die)

/-- A live task of the partition of a die: its pool's key, its pool, entry and table content. -/
def State.task? (s : State) (die : Nat) (id : Word) : Option (Nat × Pool × Nat × Task) :=
  (s.poolAt die (idPool id)).bind (fun x =>
    (kget x.2.tasks (idEntry id x.2.tcap)).bind (fun k => if k.id = id then some (x.1, x.2, idEntry id x.2.tcap, k) else none))
/-- The task that runs in a block. -/
def State.taskOf (s : State) (b : Block) : Option (Nat × Pool × Nat × Task) := b.task.bind (s.task? b.die)

def State.updPool (s : State) (ix : Nat) (f : Pool → Pool) : State := { s with pools := kupd s.pools ix f }
def State.updTask (s : State) (ix e : Nat) (f : Task → Task) : State :=
  s.updPool ix (fun p => { p with tasks := kupd p.tasks e f })

/-! ## Frames (15 R387) -/

/-- Bytes of a frame of an allotment. -/
def frameSize (a : Allot) : Nat :=
  2 ^ 18 + upTo 16384 (128 * (a.roles.map (·.2)).foldl (· + ·) 0) + 16384 * a.tiles + upTo 16384 a.scratch

/-- Where a pool's frames begin, after its header and task table (13 R318). -/
def Pool.frames (p : Pool) : Nat := upTo 16384 (128 + 16 * 2 ^ p.tcap)
def Pool.frameVa (p : Pool) (f : Nat) : Nat := p.desc.saveva + p.frames + f * frameSize p.allot

/-- Stores bytes of the header or the task table through the translations that the task unit holds. -/
def State.poolPut (s : State) (p : Pool) (off : Nat) (bs : List Byte) : State :=
  match p.keys[off / 16384]? with
  | some k => s.homeWrite (k + off % 16384) bs
  | none => s

def TaskState.code : TaskState → Nat
  | .deferred => 1 | .queued => 2 | .running => 3 | .parked => 4 | .ready => 5 | .nested => 6

/-- The 128 bytes of the header (13 R318). -/
def Pool.header (p : Pool) : List Byte :=
  (p.heads ++ p.tails).flatMap (leBytes 8) ++ leBytes 8 p.live ++ leBytes 4 p.noframe ++ leBytes 4 p.ntret
    ++ leBytes 4 p.nkill ++ leBytes 1 (if p.rescan then 1 else 0) ++ List.replicate 43 0

/-- The 16 bytes of a task-table entry; those of a FREE one name no frame and no task beneath. The task beneath may be of another
pool: its entry there is named. -/
def State.poolRow (s : State) (p : Pool) (e : Nat) : List Byte :=
  match kget p.tasks e with
  | none => leBytes 16 (0xFFFF_FFFF * 2 ^ 96)
  | some k =>
    let beneath := match (k.blk.bind (fun b => s.blk? b)) with
      | some b =>
        if k.st = .running then b.blockIx.toNat
        else ((b.below.bind (fun x => (s.blk? x).bind s.taskOf)).map (fun i => i.2.2.1)).getD 0xFFFF
      | none => 0xFFFF
    leBytes 8 (k.st.code * 2 ^ 61 + k.rec_ % 2 ^ 56) ++ leBytes 4 k.id.toNat ++ leBytes 2 (k.frame.getD 0xFFFF)
      ++ leBytes 2 beneath

/-- The pool save area's header and some task-table entries are brought up to date (13 R318). -/
def State.syncRows (s : State) (ix : Nat) (es : List Nat) : State :=
  match kget s.pools ix with
  | none => s
  | some p => es.foldl (fun s e => s.poolPut p (128 + 16 * e) (s.poolRow p e)) (s.poolPut p 0 p.header)
def State.syncPool (s : State) (ix e : Nat) : State := s.syncRows ix [e]

/-- The lowest free frame of a pool. -/
def Pool.freeFrame (p : Pool) : Option Nat :=
  (List.range (p.tasks.length + 1)).find? (fun f => f < p.nframe && !(p.tasks.any (fun x => x.2.frame == some f)))

/-- Slots of a pool that hold no block. -/
def State.idleSlots (s : State) (p : Pool) : List Nat :=
  if !p.placed then []
  else (List.range p.slots.length).filter (fun j =>
    let (core, slot, _) := p.slots.getD j (0, 0, 0)
    !(s.blocks.any (fun x => x.2.home && x.2.coreIx == core && x.2.slot == slot)))

/-- Key of a pool slot in TASK_START. -/
def slotKey (pool j : Nat) : Nat := 2 ^ 20 * pool + j

/-- Idle slots look for work (13 R342). -/
def State.offerWork (s : State) (ix : Nat) : State :=
  match kget s.pools ix with
  | none => s
  | some p => s.postAll ((s.idleSlots p).map (fun j => Event.taskStart (slotKey ix j)))

/-! ## Run queues (13 R319) -/

/-- Key of the queue link of a record. -/
def State.linkKey (s : State) (p : Pool) (rec_ : Nat) (acc : Access) : Tr := s.unitKey p.die p.desc (rec_ + 52) acc false

/-- Pages that a queueing writes: the link of the record, and that of the run queue's tail. -/
def State.queueLinks (s : State) (p : Pool) (prio rec_ : Nat) : Tr × Tr :=
  (s.linkKey p rec_ .write, if p.heads.getD prio 0 = 0 then .hit 0 else s.linkKey p (p.tails.getD prio 0) .write)

/-- A DEFERRED or new task joins the run queue of its priority (13 R321): its link is 0, and the tail is linked to it. It waits for
a page that is not there; a page that refuses the unit is reported, and its link is not written (13 R320; log 79). -/
def State.queueTask (s : State) (ix e : Nat) : State :=
  match (kget s.pools ix).bind (fun p => (kget p.tasks e).map (fun k => (p, k))) with
  | none => s
  | some (p, k) =>
    let owe := fun (va : Nat) => (s.updPool ix (fun p => { p with late := p.late ++ [e] })).owePage p.die p.desc 0 va 5
      (.taskStart (slotKey ix 0))
    let empty := p.heads.getD k.prio 0 == 0
    let link := fun (s : State) (t : Tr) (rec_ v : Nat) => match t with
      | .hit a => s.homeWrite a (leBytes 8 v)
      | _ => s.ringPut p.die (s.unitRecord p.die 23 3 (rec_ + 52) (5 * 4096 + p.die * 256) 0)
    match s.queueLinks p k.prio k.rec_ with
    | (.absent, _) | (.miss, _) => owe (k.rec_ + 52)
    | (_, .absent) | (_, .miss) => owe (p.tails.getD k.prio 0 + 52)
    | (mine, last) =>
      let (o, s) := s.takeFresh
      let s := s.updTask ix e (fun k => { k with st := .queued, order := o })
      let s := link s mine k.rec_ 0
      let s := if empty then s else link s last (p.tails.getD k.prio 0) k.rec_
      let s := s.updPool ix (fun p =>
        { p with heads := if empty then p.heads.set k.prio k.rec_ else p.heads, tails := p.tails.set k.prio k.rec_ })
      (s.syncPool ix e).offerWork ix

/-- Tasks that waited for a page of their queue's links are queued. -/
def State.queueLate (s : State) (ix : Nat) : State :=
  ((((kget s.pools ix).map (·.late)).getD []).foldl (fun s e => s.queueTask ix e)
    (s.updPool ix (fun p => { p with late := [] })))

/-- Where the links of a run queue lead: a record that is wanted with the one before it and its link, or a page that is not
there. -/
inductive Walked
  | found (prev : Option Nat) (rec_ next : Nat)
  | absent (va : Nat)
  | none
  deriving DecidableEq, Repr

/-- Follows written links from a record to the first that is wanted. -/
def State.walkQueue (s : State) (p : Pool) (want : Nat → Bool) : Nat → Option Nat → Nat → Walked
  | 0, _, _ => .none
  | n + 1, prev, va =>
    if va % 64 ≠ 0 ∨ va = 0 ∨ 2 ^ 56 ≤ va then .none
    else
      match s.linkKey p va .read with
      | .hit k => if want va then .found prev va (s.numAt k 8) else s.walkQueue p want n (some va) (s.numAt k 8)
      | .prot => .none
      | _ => .absent va

/-- The QUEUED task of a record in a run queue, if any. -/
def Pool.queuedAt (p : Pool) (prio rec_ : Nat) : Option (Nat × Task) :=
  p.tasks.find? (fun x => x.2.st == .queued && x.2.prio == prio && x.2.rec_ == rec_)

/-- What the task unit takes next from the run queues: the first QUEUED task that the written links of the highest non-empty
queue lead to. Records that are passed on the way and are no QUEUED task's are read, and nothing else follows (R319). -/
inductive Taken
  | task (e : Nat) (k : Task) (next : Nat)
  | absent (va : Nat)
  | none
  deriving DecidableEq, Repr

def State.headTask (s : State) (p : Pool) : Taken :=
  ((List.range 4).findSome? (fun r =>
    match s.walkQueue p (fun va => (p.queuedAt r va).isSome) (2 ^ p.tcap + 1) none (p.heads.getD r 0) with
    | .found _ va next => (p.queuedAt r va).map (fun x => Taken.task x.1 x.2 next)
    | .absent va => some (.absent va)
    | .none => none)).getD .none

/-- A run queue after its head has been taken: the written link is followed. -/
def Pool.afterHead (p : Pool) (prio next : Nat) : Pool :=
  { p with heads := p.heads.set prio next, tails := if next = 0 then p.tails.set prio 0 else p.tails }

/-- A QUEUED task leaves its run queue from any place in it: the record before it is linked to the one after it. Answers the
page that this waits for. -/
def State.unlinkTask (s : State) (ix : Nat) (p : Pool) (k : Task) : Except Nat State :=
  match s.walkQueue p (· == k.rec_) (2 ^ p.tcap + 1) none (p.heads.getD k.prio 0) with
  | .absent va => .error va
  | .none => .ok s
  | .found none _ next => .ok (s.updPool ix (fun p => p.afterHead k.prio next))
  | .found (some q) _ next =>
    (match s.linkKey p q .write with
     | .hit a =>
       .ok ((s.homeWrite a (leBytes 8 next)).updPool ix (fun p =>
         { p with tails := if next = 0 then p.tails.set k.prio q else p.tails }))
     | .prot => .ok s
     | _ => .error q)

/-! ## Objects (13 R322-R338) -/

/-- The park table of an object's place, and its size (13 R338). -/
def State.parkOf (s : State) (k : Nat) : List (Nat × ObjOp × Waiter) :=
  if 512 ≤ keyPlace k then (s.cd (keyPlace k - 512)).park
  else (s.md (if keyPlace k < 16 then keyPlace k else if keyPlace k = 17 then 8 else 0)).park
def State.updPark (s : State) (k : Nat) (f : List (Nat × ObjOp × Waiter) → List (Nat × ObjOp × Waiter)) : State :=
  if 512 ≤ keyPlace k then s.updCd (keyPlace k - 512) (fun c => { c with park := f c.park })
  else s.updMd (if keyPlace k < 16 then keyPlace k else if keyPlace k = 17 then 8 else 0) (fun d => { d with park := f d.park })
def parkSize (k : Nat) : Nat := if 512 ≤ keyPlace k then 4096 else 16384

/-- Every registered waiter of an object gets a wake, and its record goes (13 R341). -/
def State.wakeAll (s : State) (k : Nat) : State :=
  let ws := (s.parkOf k).filter (fun x => x.1 == k)
  (s.updPark k (fun l => l.filter (fun x => x.1 != k))).postAll (ws.map (fun x => Event.wake x.2.2))

/-- A future becomes FULL or ERROR (R322, R333): `err` writes ERROR. A FULL or ERROR future is left alone. Every registered
waiter is woken, whatever `W` holds (log 66). -/
def State.fillFuture (s : State) (k : Nat) (err : Bool) (value : DWord) : State :=
  let w0 := BitVec.ofNat 64 (s.numAt k 8)
  if 2 ≤ fld w0 63 62 then s
  else
    let n := setFld (setFld w0 63 62 (if err then 3 else 2)) 61 61 0
    let s := s.keyWrite k (leBytes 8 n.toNat ++ leBytes 8 value.toNat)
    s.wakeAll k

/-- SUCC and the decrement at a task's end (R332): the status. The task is one of the partition of a die. -/
def State.succStep (s : State) (die k : Nat) : Nat × State :=
  let w := BitVec.ofNat 64 (s.numAt k 8)
  let n := fld w 31 0
  if n = 0 then (2, s)
  else
    let s := s.keyWrite k (leBytes 8 (setFld w 31 0 (n - 1)).toNat)
    if 1 < n then (0, s)
    else
      match s.task? die (BitVec.ofNat 32 (fld w 63 32)) with
      | some (ix, p, e, t) => if t.st = .deferred ∧ !p.late.contains e then (1, s.queueTask ix e) else (3, s)
      | none => (3, s)

/-- What a check-and-register answers (R338). -/
inductive Checked
  | done (vals : List DWord)
  | busy
  | wait (owner : Option Word)
  | full

/-- Registers a waiter at an object whose `W` is set (R338). -/
def State.register (s : State) (op : ObjOp) (k : Nat) (w : Waiter) (owner : Option Word) (setW : State → State) : Checked × State :=
  if (s.parkOf k).any (fun x => x.1 == k && x.2.2 == w) then (.wait owner, setW s)
  else if parkSize k ≤ (s.parkOf k).length then (.full, s)
  else (.wait owner, (setW s).updPark k (fun l => l ++ [(k, op, w)]))

/-- What a waiter of a place's park tables is recorded for, if it is. -/
def State.parkedOn (s : State) (w : Waiter) : Option (Nat × ObjOp) :=
  ((s.cds.flatMap (·.park) ++ s.mds.flatMap (·.park)).find? (fun x => x.2.2 == w)).map (fun x => (x.1, x.2.1))

/-- The physical address of a memory key, and the key of the address `n` bytes on: an object that crosses an interleave granule
goes on in another stack (16 R413). A die-shared object does not. -/
def State.keyPlus (s : State) (die k n : Nat) : Nat :=
  if 512 ≤ keyPlace k then k + n else (s.paKey die (s.sectorPa (k / 64) + k % 64 + n)).getD (k + n)

/-- The die whose partition an object operation belongs to: its issuer's, or one of the object's place for another package's. -/
def State.objDie (s : State) (k : Nat) (w : Waiter) : Nat :=
  ((s.blk? w.t.blk).map (·.die)).getD (if 512 ≤ keyPlace k then keyPlace k - 512 else s.ringDie (.md (keyPlace k % 16)))

/-- Key of the ring entry `i` of the queue with its header at `k` (R324). -/
def State.ringKey (s : State) (die k i : Nat) : Nat := s.keyPlus die k (64 + 8 * (i % 2 ^ (s.numAt (k + 20) 1 % 32)))

/-- The owner that word 0 of a future or lock names. -/
def ownerOf (w : DWord) : Option Word :=
  if fld w 31 0 = 0xFFFF_FFFF then none else some (BitVec.ofNat 32 (fld w 31 0))

/-- One object operation, a step at the object's place (R327-R337). `args` are the operation's items; the issuer's task ID
is `w.task`, 0xFFFF_FFFF outside task mode. -/
def State.objectStep (s : State) (op : ObjOp) (k : Nat) (args : List DWord) (w : Waiter) : Checked × State :=
  let w0 := BitVec.ofNat 64 (s.numAt k 8)
  let arg := fun i => args.getD i 0
  let put := fun (s : State) (v : DWord) => s.keyWrite k (leBytes 8 v.toNat)
  match op with
  | .fwait =>
    if 2 ≤ fld w0 63 62 then
      (.done [BitVec.ofNat 64 (fld w0 63 62 - 2), BitVec.ofNat 64 (s.numAt (k + 8) 8)], s)
    else
      s.register op k w (if fld w0 63 62 = 1 then ownerOf w0 else none) (fun s => put s (setFld w0 61 61 1))
  | .ffill => (.done [w0], s.fillFuture k (bitOf (arg 1) 0) (arg 0))
  | .fown =>
    -- EMPTY, or CLAIMED by the issuer (R322)
    let rel := bitOf (arg 0) 1
    let mine := fld w0 63 62 = 0 ∨ (fld w0 63 62 = 1 ∧ fld w0 31 0 = w.task.toNat)
    if mine then
      (.done [w0], put s (setFld (setFld w0 63 62 (if rel then 0 else 1)) 31 0 (if rel then 0xFFFF_FFFF else w.task.toNat)))
    else (.done [w0], s)
  | .fownQ =>
    let old := s.numAt (k + 16) 4
    let new := if bitOf (arg 0) 1 then 0xFFFF_FFFF else w.task.toNat
    (.done [BitVec.ofNat 64 old], s.keyWrite (k + 16) (leBytes 4 new))
  | .lock =>
    if !bitOf w0 63 then (.done [0], put s (setFld (setFld w0 63 63 1) 31 0 w.task.toNat))
    else if bitOf (arg 0) 0 then (.busy, s)
    else s.register op k w (ownerOf w0) (fun s => put s (setFld w0 62 62 1))
  | .unlock =>
    if !bitOf w0 63 then (.done [1], s)
    else if w.task ≠ 0xFFFF_FFFF ∧ fld w0 31 0 ≠ w.task.toNat then (.done [2], s)
    else
      let s := put s (setFld (setFld w0 63 62 0) 31 0 0xFFFF_FFFF)
      (.done [0], s.wakeAll k)
  | .qpop =>
    let head := s.numAt k 8
    let tail := s.numAt (k + 8) 8
    if head ≠ tail then
      let v := s.numAt (s.ringKey (s.objDie k w) k head) 8
      (.done [0, BitVec.ofNat 64 v], s.keyWrite k (leBytes 8 (head + 1)))
    else if bitOf (arg 0) 0 then (.busy, s)
    else s.register op k w (ownerOf (BitVec.ofNat 64 (s.numAt (k + 16) 4))) (fun s => s.keyWrite (k + 21) [1])
  | .succ =>
    let (st, s) := s.succStep (s.objDie k w) k
    (.done [BitVec.ofNat 64 st], s)

/-- Whether an object that a task waits for is ready (R338). -/
def State.objReady (s : State) (op : ObjOp) (k : Nat) : Bool :=
  match op with
  | .fwait => 2 ≤ fld (BitVec.ofNat 64 (s.numAt k 8)) 63 62
  | .lock => !bitOf (BitVec.ofNat 64 (s.numAt k 8)) 63
  | _ => s.numAt k 8 != s.numAt (k + 8) 8

/-- A push at the header's home (R336): 0 PUSHED, 1 FULL. -/
def State.pushStep (s : State) (die k : Nat) (v : DWord) : Nat × State :=
  let head := s.numAt k 8
  let tail := s.numAt (k + 8) 8
  let sz := s.numAt (k + 20) 1 % 32
  if (tail + 2 ^ 64 - head) % 2 ^ 64 = 2 ^ sz then (1, s)
  else
    let s := s.keyWrite (s.ringKey die k tail) (leBytes 8 v.toNat)
    let s := s.keyWrite (k + 8) (leBytes 8 (tail + 1))
    let wf := s.numAt (k + 21) 1
    if wf % 2 = 1 then (0, (s.keyWrite (k + 21) (leBytes 1 (wf - 1))).wakeAll k) else (0, s)

/-! ## Fresh threads, warps and blocks (12 R307 and the inventories) -/

def Thread.fresh (pc : BitVec 56) : Thread :=
  { pc := pc, exm := 0xFFFF_FFFF, path := 0xFFFF_FFFF, fmt := 0x003F_0000, wins := [], pends := [], pblk := none,
    hold := none, prodCur := List.replicate 8 (0, false), consCur := List.replicate 8 (0, false), readyAt := 0,
    passed := 0, trap := false, trpc := 0, trctl := 0, trpcSet := 0, pblkSave := none, wskip := false, record := none, later := none, kept := none,
    sentWin := none, redo := none, wbUse := none, live := true }

def Warp.fresh (role : Role) (allot : Nat) (pc : BitVec 56) : Warp :=
  { role := role, allot := allot, wb := 0, k := List.replicate 8 0, v := [], g := [], stack := [], held := 0,
    split := false, exited := 0, t := Thread.fresh pc, e := { Thread.fresh pc with live := false },
    aside := Region.empty, trapE := none, since := 0 }

def Front.fresh (pc : BitVec 56) : Front :=
  { th := Thread.fresh pc, s := [], swb := 0, b := [], stack := [], held := 0, aside := Region.empty }

/-- Slots of a block's bobbins, all empty (12 R310). -/
def freshBobs (a : Allot) : List (List BobSlot) :=
  List.replicate a.bobs (List.replicate a.slots { f := false, e := false, prod := 0, cons := 0 })

/-- A block of a packet as it stands before its first instruction (12 R307). `entries` gives each warp's first address. -/
def freshBlock (p : Packet) (pk die core slot scr : Nat) (ctx : BitVec 16) (ix clus cl : Nat) (frameVa : Nat)
    (keys : List Nat) (front : BitVec 56) : Block :=
  { die := die, core := core, slot := slot, home := true, ctx := ctx, pkt := pk, desc := p.desc, allot := p.allot,
    scrBase := scr, blockIx := BitVec.ofNat 32 ix, clIx := cl, clusIx := BitVec.ofNat 32 clus,
    gridM1 := BitVec.ofNat 32 p.gridM1, clusz := p.clusz, coop := p.coop, grp := die, task := none, below := none, frame := none,
    frameVa := frameVa, frameKeys := keys,
    warps := (p.allot.roles.zip p.entries).map (fun x =>
      Warp.fresh x.1.1 x.1.2 (p.warpImg + BitVec.ofNat 56 x.2)),
    front := Front.fresh front, y := List.replicate 8 0, scratch := [], absent := [], swapped := false, spoison := [], ssums := [],
    tile := [], tvalid := 0, tdirty := 0, bheld := [], dq := [], bobs := freshBobs p.allot,
    bars := List.replicate p.allot.bars (Barrier.fresh (List.range p.allot.roles.length ++ [32])),
    counts := List.replicate 16 0, attUsed := false, recUsed := false, attSave := [],
    recSave := [], started := false, argReq := false, ending := false,
    killed := none }

/-- A context number that no context of a die has: the device's choice (11 R269, R270). 0xFFFF is no context's. -/
def State.newCtx (s : State) (die : Nat) : BitVec 16 × State :=
  let used := s.blocks.filterMap (fun x => if x.2.die == die then some (x.2.ctx.toNat, ()) else none)
  let (n, s) := s.takeFree
  (BitVec.ofNat 16 ((kfree used (Config.freeNat (nth n 0)) 65535).getD 0), s)

/-- The trap slots of a new block's frame are 0 at its first instruction (15, the inventory of trap state; log 86). -/
def State.clearSlots (s : State) (bk : Nat) : State :=
  match s.blk? bk with
  | none => s
  | some b => (32 :: List.range b.warps.length).foldl (fun s w => s.framePut b (trapOff w) (List.replicate 4096 0)) s

/-- `B0`: the whole scratch allotment as kind E, in an entry of the core's table (08 R189; 23 R445). DESIGN CHOICE (log 99): where its 64
entries are taken, which R269 does not settle, the entry is one more. -/
def State.giveB0 (s : State) (bk : Nat) : State :=
  match s.blk? bk with
  | none => s
  | some b =>
    if b.allot.scratch = 0 then s
    else
      let m := (s.core b.coreIx).scratchTab
      let (f, s) := s.takeFree
      let ix := (kfree m (Config.freeNat (nth f 0)) (tableSize 2)).getD m.length
      let e : DieEntry := { kind := 1, state := .held, wp := false, taint := false, space := 2, proxy := false, base := 0,
                            lenm1 := b.allot.scratch / 128 - 1, lcount := 0, ctx := b.ctx.toNat, core := b.coreIx,
                            blk := bk, pieces := [], plist := 0, back := 0, try_ := false, user := .none, order := 0,
                            status := 0, want := 0, stamp := 0 }
      (s.updCore b.coreIx (fun c => { c with scratchTab := kset c.scratchTab ix e })).updBlk bk (fun b =>
        b.setRegion 32 0 (Region.mk' 1 2 ix 0 b.allot.scratch))

/-! ## Ends -/

/-- A packet is over: its barriers, pool and record go, and the queues of every die are looked at (12 R300, R303). -/
def State.packetGone (s : State) (pk : Nat) (p : Packet) : State :=
  let s := { s with packets := kdel s.packets pk,
                    clBars := s.clBars.filter (fun x => x.1 / 2 ^ 32 != pk),
                    dieBars := s.dieBars.filter (fun x => x.1 / 8 != pk),
                    grBars := kdel s.grBars pk,
                    gangs := s.gangs.filter (fun x => x.2.pkt != pk),
                    pools := s.pools.filter (fun x => x.2.pkt != pk) }
  let s := s.postAll ((List.range 8).map Event.dependencePoll)
  (s.post (.packetFetch p.die)).post .gangPlacement

/-- The completion counter of an ended packet: `ATOM.ADD.64.RELEASE.DEVICE` at its home (R300). A page that is not there
is reported by the fetcher, and the packet stays owed. -/
def State.countDone (s : State) (pk : Nat) : State :=
  match kget s.packets pk with
  | none => s
  | some p =>
    if p.doneAddr = 0 ∨ p.doneAddr % 8 ≠ 0 then s.packetGone pk p
    else
      match s.unitKey p.die p.desc p.doneAddr .atom false with
      | .hit k =>
        let s := (s.walkRange p.die (16 * p.die) p.desc p.doneAddr 8).homeWatch k 8 60 none 0
        (s.homeWrite k (leBytes 8 (s.numAt k 8 + 1))).packetGone pk p
      | .prot => s.packetGone pk p
      | _ =>
        let s := { s with packets := kset s.packets pk { p with owed := true } }
        -- an address that is only held for reserve is looked at again when the packet is
        let s := if s.unitHeld p.die p.desc p.doneAddr true then s
          else s.ringPut p.die (s.unitRecord p.die 22 2 p.doneAddr (6 * 4096 + p.die * 256) p.desc.asid)
        (s.postAll ((List.range 8).map Event.dependencePoll)).post .gangPlacement

/-- The end of a packet (R300): STATUS is written once, then the counter rises. -/
def State.packetEnd (s : State) (pk code where_ ndone : Nat) : State :=
  match kget s.packets pk with
  | none => s
  | some p =>
    let v := ndone % 2 ^ 32 * 2 ^ 32 + where_ % 256 * 256 + code
    let s := match s.paKey p.die (p.pa + 120) with
      | some k => s.homeWrite k (leBytes 8 v)
      | none => s
    s.countDone pk

/-- Counts a block of a grid that ended; the last one ends the packet (R300). -/
def State.blockEnded (s : State) (pk : Nat) (killed : Bool) : State :=
  match kget s.packets pk with
  | none => s
  | some p =>
    let p := { p with ended := p.ended + 1, ndone := p.ndone + (if killed then 0 else 1), nkilled := p.nkilled || killed }
    let s := { s with packets := kset s.packets pk p }
    if p.ended = p.gridM1 + 1 then s.packetEnd pk (if p.nkilled then 4 else 1) 0 p.ndone
    else s

/-- What leaves with a block: its scratch-table entries, its holds and reservations. -/
def State.freeBlock (s : State) (bk : Nat) : State :=
  match s.blk? bk with
  | none => s
  | some b =>
    let s := s.updCore b.coreIx (fun c => { c with scratchTab := c.scratchTab.filter (fun x => x.2.blk != bk) })
    let s := { s with blocks := kdel s.blocks bk,
                      mds := s.mds.map (fun (d : Md) => { d with held := d.held.filter (fun h => h.1 != bk) }) }
    s.post .gangPlacement

/-- Bytes of a task record (13 R319). -/
def State.recordAt (s : State) (die : Nat) (d : CtxDesc) (va : Nat) : Tr × List Byte :=
  match s.unitKey die d va .read false with
  | .hit k => (.hit k, s.keyRead k 64)
  | r => (r, [])

/-! ## Saved blocks -/

/-- Every region register of a block, the set-aside ones included. -/
def Block.allRegions (b : Block) : List Region :=
  (b.warps.flatMap (fun w => w.g.map (·.2) ++ [w.aside])) ++ b.front.b.map (·.2) ++ [b.front.aside]

/-- Cache work of a save: dirty lines of the block's borrows go down, partials to their home (08 R212). -/
def State.flushBlock (s : State) (bk : Nat) : State :=
  match s.blk? bk with
  | none => s
  | some b =>
    (b.allRegions.filter (fun g => g.kind != 0 && g.space.toNat ≤ 1)).foldl (fun s g => s.l1Flush b.coreIx g.tag) s
/-- Cache work of a restore: the core's lines of the block's slots are invalid (08 R212). -/
def State.dropBlockLines (s : State) (bk : Nat) : State :=
  match s.blk? bk with
  | none => s
  | some b =>
    (b.allRegions.filter (fun g => g.kind != 0 && g.space.toNat ≤ 1)).foldl (fun s g => s.l1Drop b.coreIx g.tag) s

/-- The scratch and exchange borrows of a block, entered in its core's table again: one entry for each register that is no
child, the registers of one borrow renamed together (11 R269: any free index may be taken). -/
def State.enterScratch (s : State) (bk : Nat) : State :=
  match s.blk? bk with
  | none => s
  | some b =>
    let roots := b.allRegions.filter (fun g => g.kind != 0 && 2 ≤ g.space.toNat && !g.parent.getLsbD 11)
    let (names, s) := roots.foldl (fun (x : List (Nat × Nat) × State) g =>
      if x.1.any (fun n => n.1 == g.tag) then x
      else
        let m := (x.2.core b.coreIx).scratchTab
        let (f, s) := x.2.takeFree
        let ix := (kfree m (Config.freeNat (nth f 0)) (tableSize 2)).getD m.length
        let e : DieEntry := { kind := g.kind.toNat, state := .held, wp := g.wpseen, taint := g.taint, space := g.space.toNat,
                              proxy := false, base := g.base.toNat, lenm1 := g.lenm1.toNat, lcount := 0, ctx := b.ctx.toNat,
                              core := b.coreIx, blk := bk, pieces := [], plist := 0, back := 0, try_ := false, user := .none,
                              order := 0, status := 0, want := 0, stamp := 0 }
        (x.1 ++ [(g.tag, ix)], s.updCore b.coreIx (fun c => { c with scratchTab := kset c.scratchTab ix e })))
      ([], s)
    s.updBlk bk (fun b => b.mapRegions (fun g =>
      if g.kind ≠ 0 ∧ 2 ≤ g.space.toNat then
        { g with slot := BitVec.ofNat 16 (((names.find? (fun n => n.1 == g.slot.toNat)).map (·.2)).getD g.slot.toNat) }
      else g))

/-! ## Frames in memory (15 R386, R387) -/

/-- Translations of several pages: all there, one missing, one refused. -/
inductive Keys
  | ok (l : List Nat)
  | absent (va : Nat)
  | prot (va : Nat)

/-- Keys of `n` pages of 16 KiB from an address, written in privileged mode. -/
def State.pageKeys (s : State) (die : Nat) (d : CtxDesc) (va : Nat) : Nat → List Nat → Keys
  | 0, acc => .ok acc.reverse
  | n + 1, acc =>
    match s.unitKey die d va .write true with
    | .hit k => s.pageKeys die d (va + 2 ^ 14) n (k :: acc)
    | .prot => .prot va
    | _ => .absent va

/-- The first 256 KiB of a frame. -/
def State.frameKeys (s : State) (die : Nat) (d : CtxDesc) (va : Nat) : Keys := s.pageKeys die d va 16 []

/-- What a save or a restore of a block comes to: done, or a page that is missing or refuses. -/
inductive Saved
  | done (s : State)
  | absent (va : Nat)
  | prot (blk va : Nat)

/-- Keys of the pages of the body's parts. -/
def State.bodyKeys (s : State) (b : Block) : List (Nat × List Byte) → List (List Nat × List Byte) →
    Except Keys (List (List Nat × List Byte))
  | [], acc => .ok acc.reverse
  | (off, bs) :: r, acc =>
    match s.pageKeys b.die b.desc (b.frameVa + off) (upTo 16384 bs.length / 16384) [] with
    | .ok l => s.bodyKeys b r ((l, bs) :: acc)
    | k => .error k

/-- Stores the bytes of a page-aligned part, a line at a time. -/
def State.putPages (s : State) (keys : List Nat) (bs : List Byte) : State :=
  (List.range (upTo 128 bs.length / 128)).foldl (fun s i =>
    match keys[i / 128]? with
    | some k => s.putAll (k + 128 * (i % 128)) ((bs.drop (128 * i)).take 128)
    | none => s) s

/-- The bytes of a page-aligned part. -/
def State.getPages (s : State) (keys : List Nat) (n : Nat) : List Byte :=
  (List.range (upTo 128 n / 128)).flatMap (fun i =>
    match keys[i / 128]? with
    | some k => s.keyRead (k + 128 * (i % 128)) 128
    | none => List.replicate 128 0)

/-- Every byte of the head that a save does not write holds 0 (R387): its lines that hold anything else are cleared. -/
def State.clearHead (s : State) (b : Block) : State :=
  (b.headRuns.flatMap (fun r => (List.range (r.2 / 128)).map (fun i => r.1 + 128 * i))).foldl (fun s off =>
    if (b.frameKey off).isNone || (s.frameRead b off 128).all (· == 0) then s else s.framePut b off (List.replicate 128 0)) s

/-- Stores a part of the first 256 KiB, page by page. -/
def State.putHead (s : State) (b : Block) (off : Nat) (bs : List Byte) : State :=
  (chunks 16384 4 off bs.length).foldl (fun s c => s.framePut b c.1 ((bs.drop (c.1 - off)).take c.2)) s

/-- A block whose frame's first 256 KiB are translated takes from the frame what it holds; its body pages are translated for it (15
R386). -/
def State.readBack (s : State) (bk : Nat) : Saved :=
  match s.blk? bk with
  | none => .done s
  | some b =>
    let h := s.headBack b
    match s.bodyKeys h (bodyParts h) [] with
    | .error (.absent va) => .absent va
    | .error (.prot va) => .prot bk va
    | .error (.ok _) => .absent b.frameVa
    | .ok body => .done ((s.updBlk bk (fun _ => s.bodyBack h (body.map (fun p => s.getPages p.1 p.2.length)))).outerBack b)

/-- Blocks are read back in turn; stops at the first page that is missing. -/
def State.readFrames (s : State) : List Nat → Saved
  | [] => .done s
  | bk :: r =>
    match s.readBack bk with
    | .done s => s.readFrames r
    | k => k

/-- A saved block takes a slot of a core (15 R386, 13 R339): its scratch borrows are entered there, its lines are invalid,
its held records are due, and its threads go on. -/
def State.rehome (s : State) (bk core slot scr : Nat) (ix : Word) : State :=
  let s := s.updBlk bk (fun b =>
    { ((b.mapThreads (fun th => { th with readyAt := s.clock })).holdStacks (s.stackH (core / 128))) with
      home := true, die := core / 128, core := core % 128, slot := slot, scrBase := scr, blockIx := ix, absent := [] })
  let s := s.updCd (core / 128) (fun c => { c with entries := c.entries.map (fun e =>
    if e.2.blk = bk ∧ !e.2.proxy then (e.1, { e.2 with core := core }) else e) })
  let s := (s.enterScratch bk).dropBlockLines bk
  match s.blk? bk with
  | none => s
  | some b =>
    let s := s.updCore core (fun c =>
      { c with att := if b.attUsed then b.attSave else c.att, recon := if b.recUsed then b.recSave else c.recon })
    s.postAll (b.threads.filterMap (fun x =>
      if x.2.2.record.isSome then some (Event.trapEntry { blk := bk, warp := x.1, armE := x.2.1 }) else none))

/-- The queue directory's entries whose consumer is a pool: `RES` says whether it is placed, whatever the host writes (13 R325). -/
def State.markQueues (s : State) (p : Pool) (ix : Nat) (placed : Bool) : State :=
  let q := s.cdReg p.die 0x3D2
  (List.range (2 ^ fld q 4 0)).foldl (fun s i =>
    match s.paKey p.die ((fld q 51 14 <<< 14) + 16 * i) with
    | some k =>
      let w := BitVec.ofNat 64 (s.numAt k 8)
      if bitOf w 63 ∧ bitOf w 62 ≠ placed ∧ s.numAt (k + 8) 2 = p.desc.asid.toNat ∧ s.numAt (k + 10) 2 = ix % 1024 then
        s.keyWrite k (leBytes 8 (setFld w 62 62 placed.toNat).toNat)
      else s
    | none => s) s

/-- A pool ends: its slots exit, it is no pool any more, and its packet ends (13 R331). -/
def State.endPool (s : State) (ix : Nat) : State :=
  match kget s.pools ix with
  | none => s
  | some p =>
    let s := s.markQueues p ix false
    { s with pools := kdel s.pools ix, gangs := s.gangs.filter (fun g => g.2.pkt != p.pkt) }.packetEnd p.pkt
      (if 0 < p.nkill then 4 else 1) 0 p.ntret

/-- A pool is over when LIVE falls to 0 (13 R331). -/
def State.poolCheck (s : State) (ix : Nat) : State :=
  if ((kget s.pools ix).map (·.live)) = some 0 then s.endPool ix else s

/-- The task beneath an ended one goes on in its slot; where the chain was saved, or a page of its frame is not there, it is READY (13
R321, R346; log 26). -/
def State.resumeBelow (s : State) (b : Block) : State :=
  match b.below with
  | none => s
  | some b2 =>
    if ((s.blk? b2).bind (·.killed)).isSome then s
    else
      let (here, s) := if !b.home then (false, s) else
        match s.readBack b2 with
        | .done s => (true, s.rehome b2 b.coreIx b.slot b.scrBase b.blockIx)
        | .absent _ => (false, s)
        | .prot bk va => (false, (s.ringPut b.die (s.unitRecord b.die 23 4 va (5 * 4096 + b.die * 256) b.ctx)).startKill bk 23)
      match (if ((s.blk? b2).bind (·.killed)).isSome then none else (s.blk? b2).bind s.taskOf) with
      | some (ix, _, e, _) =>
        let (n, s) := s.takeFresh
        let s := (s.updTask ix e (fun k => { k with st := if here then .running else .ready, order := n })).syncPool ix e
        if here then s else s.offerWork ix
      | none => s

/-- The task-table entry of an ended task is FREE, with the counts of R330 or R346. -/
def State.taskGone (s : State) (ix e : Nat) (killed : Bool) : State :=
  (s.updPool ix (fun p =>
    { p with tasks := kdel p.tasks e, live := p.live - 1, ntret := p.ntret + (if killed then 0 else 1),
             nkill := p.nkill + (if killed then 1 else 0), late := p.late.filter (· != e),
             gens := kset p.gens e ((kget p.gens e).getD 0 + 1) })).syncPool ix e

/-- Addresses of a task's record that its end writes; a page that is not there delays the end (13 R320). -/
inductive EndKey
  | none
  | key (k : Nat)
  | prot (va : Nat)
  | absent (va : Nat)
  deriving DecidableEq, Repr

def State.endKey (s : State) (p : Pool) (va : Nat) : EndKey :=
  if va = 0 then .none
  else match s.unitKey p.die p.desc va .atom false with
    | .hit k => .key k
    | .prot => .prot va
    | _ => .absent va

/-- The future and the successor counter of a task, or the page that the end waits for. -/
def State.endKeys (s : State) (p : Pool) (k : Task) : Except Nat (EndKey × EndKey) :=
  match s.recordAt p.die p.desc k.rec_ with
  | (.hit _, bs) =>
    match s.endKey p (recNum bs 44 8), s.endKey p (recNum bs 28 8) with
    | .absent va, _ => .error va
    | _, .absent va => .error va
    | f, u => .ok (f, u)
  | (.prot, _) => .ok (.prot k.rec_, .none)
  | _ => .error k.rec_

/-- A task's end (13 R330, R346): its future is filled, its successor counter decreased, its entry freed. `ix` is its pool's key,
`killed` the fault code of a kill; `ctx` is the context that the records name. -/
def State.taskFinish (s : State) (ix : Nat) (p : Pool) (e : Nat) (k : Task) (f u : EndKey) (ctx : BitVec 16) (value : DWord)
    (killed : Option Nat) : State :=
  let refuse := fun (s : State) (va : Nat) => s.ringPut p.die (s.unitRecord p.die 23 3 va (5 * 4096 + p.die * 256) ctx)
  let s := match f with
    | .key a =>
      (match killed with
       | some c => s.fillFuture a true (BitVec.ofNat 64 (k.id.toNat * 2 ^ 32 + c))
       | none => s.fillFuture a false value)
    | .prot va => refuse s va
    | _ => s
  let s := match u with
    | .key a => (s.succStep p.die a).2
    | .prot va => refuse s va
    | _ => s
  s.taskGone ix e killed.isSome

/-- Every idle slot looks for work. -/
def State.offerAll (s : State) : State := s.pools.foldl (fun s x => s.offerWork x.1) s

/-- A block whose task has ended leaves its slot: the task beneath goes on, or the slot looks for work (13 R330, R342). -/
def State.leaveSlot (s : State) (bk : Nat) (b : Block) (ix : Nat) : State :=
  (((s.freeBlock bk).resumeBelow b).poolCheck ix).offerAll

/-- The end of a task is a release: what its block has written is performed, and where its future or its counter is in another package
local time has reached the window of R261 (R328; 10 R254). Answers the time that is waited for, 0 for no certain one. -/
def State.endHeld (s : State) (bk : Nat) (b : Block) (f u : EndKey) : Option Nat :=
  let far := fun (x : EndKey) => match x with
    | .key k => foreignKey k
    | _ => false
  let last := (b.threads.filterMap (fun x => x.2.2.sentWin)).foldl max 0
  if s.mds.any (fun d => d.overflow.any (fun o => (o.2.2.map (fun t => t.blk == bk)).getD false)) then some 0
  else if (far f || far u) && b.threads.any (fun x => x.2.2.sentWin.isSome) && s.window < last + 2 then
    some ((last + 2) * 2 ^ s.winK)
  else none

/-- A task's block ends with a value, or by a kill with a fault code. A page that is not there delays it. A pool kill fills no
future and decreases no counter (13 R346). -/
def State.taskEnd (s : State) (bk : Nat) (value : DWord) (killed : Option Nat) : State :=
  match s.blk? bk with
  | none => s
  | some b =>
    match s.taskOf b with
    | none => ((s.freeBlock bk).resumeBelow b).offerAll
    | some (ix, p, e, k) =>
      match (if p.killed then .ok (.none, .none) else s.endKeys p k) with
      | .error va => s.owePage p.die p.desc b.ctx va 5 (.unpickerPass b.die)
      | .ok (f, u) =>
        if (s.endHeld bk b f u).isSome then s.post (.unpickerPass b.die)
        else (s.taskFinish ix p e k f u b.ctx value killed).leaveSlot bk b ix

/-- A pool kill by the host ends every task of the pool: a task's block is killed, running or saved, and a task without one is
FREE at once (13 R321, R331, R346; log 50). -/
def State.killPool (s : State) (ix : Nat) : State :=
  match kget s.pools ix with
  | none => s
  | some p =>
    let s := s.updPool ix (fun p => { p with killed := true })
    let s := p.tasks.foldl (fun s x =>
      match x.2.blk with
      | some bk => if (s.blk? bk).isSome then s.startKill bk 33 else s.taskGone ix x.1 true
      | none => s.taskGone ix x.1 true) s
    s.poolCheck ix

/-- Whether a borrow that a block has given back is still on its way to its homes (08 R206, R211). -/
def State.returning (s : State) (bk : Nat) (b : Block) : Bool :=
  (s.cd b.die).entries.any (fun x => x.2.state == .returning && x.2.user == .ended bk)

/-- A block whose last thread has exited, and whose borrows are back, ends: its packet counts it, or its task ends with value 0 (01 R28, 13 R330). -/
def State.blockCheck (s : State) (bk : Nat) : State :=
  match s.blk? bk with
  | none => s
  | some b =>
    if b.over && b.killed.isNone && !s.returning bk b then
      if b.task.isSome then s.taskEnd bk 0 none
      else (s.freeBlock bk).blockEnded b.pkt false
    else s

end Sys2Proof.Machine
end

