-- ==== Sys2Proof/Machine/Path.lean ====
section
/-!
DEFINITION. Machine/Path.lean: the divergence stack, the end of a path, and the exit of warps, front threads and blocks
(06 R140-R148).
-/
namespace Sys2Proof.Machine

/-! ## The stack -/

/-- The logical stack of a thread (R140). -/
def Block.logOf (b : Block) (t : ThreadRef) : LogStack :=
  if t.warp = 32 then .front
  else if ((b.warps[t.warp]?).map (·.split)).getD false then (if t.armE then .armE else .armT) else .warp

/-- The whole stack of a thread's owner, newest first. -/
def Block.stackOf (b : Block) (warp : Nat) : List StackEntry :=
  if warp = 32 then b.front.stack else ((b.warps[warp]?).map (·.stack)).getD []
def Block.heldOf (b : Block) (warp : Nat) : Nat :=
  if warp = 32 then b.front.held else ((b.warps[warp]?).map (·.held)).getD 0
def Block.setStack (b : Block) (warp : Nat) (l : List StackEntry) (held : Nat) : Block :=
  if warp = 32 then { b with front := { b.front with stack := l, held := held } }
  else b.updWarp warp (fun w => { w with stack := l, held := held })

/-- Whether one more entry fits (R141). -/
def Block.stackRoom (b : Block) (warp n : Nat) : Bool := (b.stackOf warp).length + n ≤ 64

/-- Pushes an entry; with H entries held, the oldest held one is spilled first (R141). -/
def State.pushEntry (s : State) (t : ThreadRef) (e : StackEntry) : State :=
  match s.blk? t.blk with
  | none => s
  | some b =>
    let l := b.stackOf t.warp
    let held := b.heldOf t.warp
    let full := s.stackH b.die ≤ held
    let s := match (if full then l[held - 1]? else none) with
      | some x => s.framePut b (spillOff t.warp + 16 * (l.length - held)) x.bytes
      | none => s
    s.updBlk t.blk (fun b => b.setStack t.warp (e :: l) (if full then held else held + 1))

/-- Takes the newest entry of a logical stack out. -/
def removeTop (log : LogStack) : List StackEntry → Option (Nat × StackEntry × List StackEntry)
  | [] => none
  | e :: r =>
    if e.log = log then some (0, e, r)
    else (removeTop log r).map (fun x => (x.1 + 1, x.2.1, e :: x.2.2))

/-- Pops the newest entry of a logical stack; one that is in memory is filled back to be taken (R141). -/
def State.popEntry (s : State) (t : ThreadRef) (log : LogStack) : State :=
  s.updBlk t.blk (fun b =>
    match removeTop log (b.stackOf t.warp) with
    | none => b
    | some (i, _, r) =>
      let held := b.heldOf t.warp
      b.setStack t.warp r (if i < held then held - 1 else held))

/-- Entries of a thread's own logical stack, newest first. -/
def Block.ownEntries (b : Block) (t : ThreadRef) : List StackEntry :=
  (b.stackOf t.warp).filter (fun e => e.log == b.logOf t)

/-- The first entry of kind reconverge or split with no call entry above it. -/
def firstRec : List StackEntry → Option StackEntry
  | [] => none
  | e :: r => match e.kind with
    | .reconverge | .split => some e
    | .call => none
    | .pending => firstRec r

/-- Whether a list of entries holds one of a kind. -/
def hasKind (l : List StackEntry) (k : StackKind) : Bool := l.any (fun e => e.kind == k)

/-- The current reconvergence entry of a thread (R144). -/
def Block.curRec (b : Block) (t : ThreadRef) : Option StackEntry :=
  if t.warp = 32 then none
  else
    let own := b.ownEntries t
    match firstRec own with
    | some e => some e
    | none =>
      if b.logOf t = .warp ∨ hasKind own .call then none
      else (b.stackOf t.warp).find? (fun e => e.kind == .split)

/-- `FLG` of two `FMT` values together, the rest from the first (05 R113). -/
def mergeFlags (entry fmt : Word) : Word := entry ||| (fmt &&& 0x1F)

/-- What an entry's `FMT` becomes when a path ends into it: `FLG` is the OR of the flags that the paths which have ended into it end
with, so that the first of the two replaces the copy that the branch made (05 R112, R113, 06 R145; log 70). -/
def endFlags (first : Bool) (entry fmt : Word) : Word := mergeFlags (if first then entry &&& ~~~0x1F else entry) fmt

/-- Changes the newest reconvergence entry of a logical stack. -/
def updRec (log : LogStack) (f : StackEntry → StackEntry) : List StackEntry → List StackEntry
  | [] => []
  | e :: r => if e.log = log ∧ e.kind = .reconverge then f e :: r else e :: updRec log f r

/-- Changes the stack of a thread's owner, entry for entry. -/
def State.mapStack (s : State) (t : ThreadRef) (f : List StackEntry → List StackEntry) : State :=
  s.updBlk t.blk (fun b => b.setStack t.warp (f (b.stackOf t.warp)) (b.heldOf t.warp))

/-! ## Exits -/

/-- Decision-queue entries that every target has popped or left by exit go (12 R308). -/
def Block.pruneDq (b : Block) : Block :=
  { b with dq := b.dq.filter (fun e => e.target &&& ~~~e.popped &&& b.liveWarps != 0) }

/-- The undelivered records of a thread that is gone go to the ring (15 R374). -/
def State.orphanRecord (s : State) (t : ThreadRef) : State :=
  match s.blk? t.blk, s.thread? t with
  | some b, some th =>
    (th.record.toList ++ th.later.toList).foldl (fun s r => s.ringPut b.die { r with cls := 3 })
      (s.updThread t (fun th => { th with record := none, later := none }))
  | _, _ => s

/-- A warp exits (R148): its regions are emptied, its barriers count it as arrived, and its block may end. -/
def State.exitWarp (s : State) (blk warp : Nat) : State :=
  let s := s.orphanRecord { blk := blk, warp := warp, armE := false }
  let s := s.orphanRecord { blk := blk, warp := warp, armE := true }
  let s := s.updBlk blk (fun b => (b.updWarp warp (fun w =>
    { w with exited := 0xFFFF_FFFF, stack := [], held := 0, split := false, trapE := none,
             t := { w.t with live := false, hold := none, exm := 0, path := 0, trap := false },
             e := { w.e with live := false, hold := none, exm := 0, path := 0, trap := false } })).pruneDq)
  let s := s.dropRegions blk warp
  match s.blk? blk with
  | some b => (s.exitBars blk b false).blockCheck blk
  | none => s

/-- The front thread ends (R148). -/
def State.exitFront (s : State) (blk : Nat) : State :=
  let s := s.orphanRecord { blk := blk, warp := 32, armE := false }
  let s := s.updFront blk (fun f => { f with stack := [], held := 0, th := { f.th with live := false, hold := none, trap := false } })
  let s := s.dropRegions blk 32
  match s.blk? blk with
  | some b => (s.exitBars blk b true).blockCheck blk
  | none => s

/-! ## The end of a path (R145) -/

/-- A thread that only waits. -/
def waiting (w : Wait) : Option Hold := some { wait := w, ins := none, stage := 0, answer := none, dq := none }

/-- The later of two windows, if any (10 R261). -/
def laterOf (a b : Option Nat) : Option Nat :=
  match a, b with
  | some x, some y => some (max x y)
  | some x, none => some x
  | none, y => y

/-- Whether a thread of a warp has stopped at the split (R145). -/
def Thread.stopped (th : Thread) : Bool := (th.hold.map (fun h => h.wait == .otherArm)).getD false

/-- Both arms have stopped and their writes are complete: the split entry is popped and the warp is whole, or has
exited. -/
def State.mergeArms (s : State) (blk warp : Nat) : State :=
  match (s.blk? blk).bind (fun b => b.warps[warp]?) with
  | none => s
  | some w =>
    let done := fun (th : Thread) => th.stopped && th.pends.isEmpty
    if w.split && done w.t && done w.e then
      match w.stack.find? (fun e => e.kind == .split) with
      | none => s
      | some e =>
        let m := e.mask &&& ~~~w.exited
        let s := s.updBlk blk (fun b => b.updWarp warp (fun w => { w with split := false }))
        let s := s.popEntry { blk := blk, warp := warp, armE := false } .warp
        if m = 0 then s.exitWarp blk warp
        else
          -- a second undelivered record goes to the ring (15 R374)
          let s := match w.t.record, w.e.record, s.blk? blk with
            | some _, some r, some b => s.ringPut b.die { r with cls := 3, flags := r.flags ||| 8 }
            | _, _, _ => s
          let s := s.updBlk blk (fun b => b.updWarp warp (fun w =>
            { w with
              since := s.fresh
              t := { w.t with pc := e.pc, exm := m, path := m, fmt := e.fmt, hold := none, wins := [], readyAt := s.clock,
                              record := w.t.record.orElse (fun _ => w.e.record), redo := none, wbUse := none,
                              sentWin := laterOf w.t.sentWin w.e.sentWin }
              e := { w.e with live := false, hold := none, exm := 0, path := 0, record := none } }))
          -- the record that the whole warp now holds is delivered (15 R375)
          if w.t.record.isNone ∧ w.e.record.isSome then s.post (.trapEntry { blk := blk, warp := warp, armE := false }) else s
    else s

/-- The end of a thread's path (R145). Lookahead windows go on across a path end that the fall-through reaches (02 R42). A pending
path begins with the copy that the branch made, and its reconvergence entry gathers the flags that the two paths end with (05
R113; log 70). -/
def State.endPath (s : State) (t : ThreadRef) : Nat → State
  | 0 => s
  | fuel + 1 =>
    match s.blk? t.blk, s.thread? t with
    | some b, some th =>
      let log := b.logOf t
      let exited := ((b.warps[t.warp]?).map (·.exited)).getD 0
      match b.ownEntries t with
      | [] =>
        if log = .warp then s.exitWarp t.blk t.warp
        else
          -- the split entry: the arm stops, its flags kept in the entry
          let first := !((s.thread? (otherArm t)).map (·.stopped)).getD false
          let s := s.mapStack t (List.map (fun e => if e.kind = .split then { e with fmt := endFlags first e.fmt th.fmt } else e))
          let s := s.updThread t (fun th => { th with hold := waiting .otherArm })
          s.mergeArms t.blk t.warp
      | e :: _ =>
        let resume := fun (s : State) (e : StackEntry) =>
          let m := e.mask &&& ~~~exited
          let s := (s.popEntry t log).updThread t (fun th =>
            { th with pc := e.pc, exm := m, path := m, fmt := e.fmt, hold := none, readyAt := s.clock })
          -- a resumed thread may stand at the rPC of the next entry (R144)
          if m = 0 then s.endPath t fuel
          else
            match (s.blk? t.blk).bind (fun b => b.curRec t) with
            | some r => if r.pc = e.pc then s.endPath t fuel else s
            | none => s
        match e.kind with
        | .reconverge =>
          if !th.pends.isEmpty then s.updThread t (fun th => { th with hold := waiting .pathEnd })
          else resume s { e with fmt := endFlags false e.fmt th.fmt }
        | .pending => resume (s.mapStack t (updRec log (fun r => { r with fmt := endFlags true r.fmt th.fmt }))) e
        | .call | .split => (s.popEntry t log).endPath t fuel
    | _, _ => s

/-- The thread's next PC; a path that reaches its reconvergence address ends there (R144). -/
def State.goTo (s : State) (t : ThreadRef) (pc : BitVec 56) : State :=
  let s := s.updThread t (fun th => { th with pc := pc, readyAt := s.clock })
  match (s.blk? t.blk).bind (fun b => b.curRec t) with
  | some r => if r.pc = pc then s.endPath t 200 else s
  | none => s

/-- EXIT (R148): every lane of the path mask exits, and the path ends; call entries above are popped. -/
def State.exitThread (s : State) (t : ThreadRef) : State :=
  if t.warp = 32 then s.exitFront t.blk
  else
    match s.thread? t with
    | none => s
    | some th =>
      let s := s.updWarp t (fun w => { w with exited := w.exited ||| th.path })
      (s.updThread t (fun th => { th with exm := 0, path := 0, wins := [] })).endPath t 200

end Sys2Proof.Machine
end

