-- ==== Sys2Proof/WellFormed.lean ====
section
/-!
DEFINITION. WellFormed.lean: the field values that an instruction may hold (02 R50-R52 and the chapters that own the
instructions). A word whose fields fail these checks decodes, and is refused with ILLEGAL_INSTRUCTION at issue (R45 item
1). Field checks that depend on the stream (R35, R37, R40) stand in Machine/Operands.lean.
-/
namespace Sys2Proof

/-- Part indices of PACK and UNPK by element width code (05 R129). -/
def packOk (w part : BitVec 2) : Bool := w == 0 || w == 1 || (w == 2 && part ≤ 1) || part == 0

/-- Barrier numbers by level (14 R358): block 0-15, cluster 0-7, die 0-3, grid 0-1. -/
def barOk (lev : BitVec 2) (n : BitVec 4) : Bool :=
  lev == 0 || (lev == 1 && n ≤ 7) || (lev == 2 && n ≤ 3) || (lev == 3 && n ≤ 1)

/-- System register numbers that a chapter assigns (15 R379): trap registers 0x100, 0x101, 0x104; partition, link and
package 0x300-0x30B, modules 0x310-0x31D; watchpoints 0x380-0x38B and 0x400 + 16m; HINTLAST; fault ring and pre-emption 0x3B0-0x3B4; SLGEN;
queue tables 0x3D0-0x3D2; WLEN, TBADJ, HEATCTL; event counters 0x3E4-0x3E9; performance counters 0x3F0-0x3FF. -/
def csrAssigned (n : Nat) : Bool :=
  n == 0x100 || n == 0x101 || n == 0x104 || (0x300 ≤ n && n ≤ 0x30B) || (0x310 ≤ n && n ≤ 0x31D) || (0x380 ≤ n && n ≤ 0x38B) || n == 0x3A0
    || (0x3B0 ≤ n && n ≤ 0x3B4) || n == 0x3C0 || (0x3D0 ≤ n && n ≤ 0x3D2) || (0x3E0 ≤ n && n ≤ 0x3E2)
    || (0x3E4 ≤ n && n ≤ 0x3E9) || (0x3F0 ≤ n && n ≤ 0x3FF) || (0x400 ≤ n && n < 0x500 && n % 16 < 12)

/-- Whether every field of an instruction holds a listed value. Steps without a word have no fields. -/
def wellFormed : Instr → Bool
  | .add .. => true
  | .sub .. => true
  | .addi .. => true
  | .neg .. => true
  | .abs .. => true
  | .mul .. => true
  | .mulh .. => true
  | .mulhn .. => true
  | .mad .. => true
  | .madw .. => true
  | .div .. => true
  | .divn .. => true
  | .rem .. => true
  | .remn .. => true
  | .min .. => true
  | .max .. => true
  | .minn .. => true
  | .maxn .. => true
  | .and .. => true
  | .or .. => true
  | .xor .. => true
  | .andn .. => true
  | .not .. => true
  | .shl .. => true
  | .shr .. => true
  | .sar .. => true
  | .rot .. => true
  | .shli _ _ w c => w == 1 || c < 32
  | .shri _ _ w c => w == 1 || c < 32
  | .sari _ _ w c => w == 1 || c < 32
  | .bfx .. => true
  | .bfxn .. => true
  | .bfi .. => true
  | .popc .. => true
  | .clz .. => true
  | .ctz .. => true
  | .brev .. => true
  | .mov .. => true
  | .movi .. => true
  | .movh .. => true
  | .sel .. => true
  | .lea .. => true
  | .cmp cond _ _ _ _ => cond ≤ 5
  | .cmpi cond _ _ _ => cond ≤ 5 || (8 ≤ cond && cond ≤ 13)
  | .fadd .. => true
  | .fsub .. => true
  | .fmul .. => true
  | .ffma .. => true
  | .fmin .. => true
  | .fmax .. => true
  | .fabs .. => true
  | .fneg .. => true
  | .fcmp cond _ _ _ _ => cond ≤ 7
  | .fclass .. => true
  | .frcp .. => true
  | .frsq .. => true
  | .fsqrt .. => true
  | .fexp2 _ _ ty _ => ty != 1
  | .flog2 _ _ ty _ => ty != 1
  | .fsin _ _ ty _ => ty == 0
  | .fcos _ _ ty _ => ty == 0
  | .fdivF32 .. => true
  | .fdivF64 .. => true
  | .fscale .. => true
  | .frnd .. => true
  | .fcvt _ _ _ dfmt sfmt => dfmt ≤ 9 && sfmt ≤ 9
  | .icvt _ _ dfmt _ => dfmt ≤ 9
  | .ftoi _ _ _ sfmt => sfmt ≤ 9
  | .pack _ _ _ part w => packOk w part
  | .unpk _ _ part w => packOk w part
  | .bpsplit .. => true
  | .bpjoin _ _ n => 1 ≤ n
  | .bpdot .. => true
  | .kand .. => true
  | .kor .. => true
  | .kxor .. => true
  | .kandn .. => true
  | .knot .. => true
  | .kmov .. => true
  | .kset .. => true
  | .kget .. => true
  | .ksave .. => true
  | .krest .. => true
  | .exmget .. => true
  | .exmset .. => true
  | .shflIdx .. => true
  | .shflUp .. => true
  | .shflDn .. => true
  | .shflXor .. => true
  | .voteAny .. => true
  | .voteAll .. => true
  | .voteBal .. => true
  | .bra .. => true
  | .brd .. => true
  | .rcv => true
  | .call .. => true
  | .ret => true
  | .jmpi .. => true
  | .exit => true
  | .nop => true
  | .bru _ _ off => off != 0x8000
  | .rds _ n => n ≤ 0xF
  | .win .. => true
  | .setf .. => true
  | .getf .. => true
  | .flags .. => true
  | .yset .. => true
  | .swin b => b != 3
  | .csrr _ n => csrAssigned n.toNat
  | .csrw _ n => csrAssigned n.toNat
  | .csrwSet _ n => csrAssigned n.toNat
  | .csrwClr _ n => csrAssigned n.toNat
  | .lwake .. => true
  | .tlbinv .. => true
  | .ld32 .. => true
  | .ld64 .. => true
  | .ldI8 .. => true
  | .ldN8 .. => true
  | .ldI16 .. => true
  | .ldN16 .. => true
  | .st32 .. => true
  | .st64 .. => true
  | .st8 .. => true
  | .st16 .. => true
  | .ldn .. => true
  | .stn .. => true
  | .ldbp .. => true
  | .stbe .. => true
  | .cpy .. => true
  | .cpyg .. => true
  | .xst .. => true
  | .dupd .. => true
  | .pref .. => true
  | .res .. => true
  | .pwait .. => true
  | .borrow .. => true
  | .reborrowS .. => true
  | .reborrowE .. => true
  | .split .. => true
  | .share .. => true
  | .give .. => true
  | .join .. => true
  | .returnR .. => true
  | .rginfo .. => true
  | .rgmov .. => true
  | .rgclr .. => true
  | .rgclrTaint .. => true
  | .atomAdd _ w _ ord scope => w ≤ 1 && ord ≤ 4 && scope ≤ 4
  | .atomFadd _ w _ ord scope => w ≤ 1 && ord ≤ 4 && scope ≤ 4
  | .atomSwap _ w _ ord scope => w ≤ 1 && ord ≤ 4 && scope ≤ 4
  | .atomCas _ w _ ord scope => w ≤ 1 && ord ≤ 4 && scope ≤ 4
  | .atomAnd _ w _ ord scope => w ≤ 1 && ord ≤ 4 && scope ≤ 4
  | .atomOr _ w _ ord scope => w ≤ 1 && ord ≤ 4 && scope ≤ 4
  | .atomXor _ w _ ord scope => w ≤ 1 && ord ≤ 4 && scope ≤ 4
  | .atomMin _ w _ ord scope => w ≤ 1 && ord ≤ 4 && scope ≤ 4
  | .atomMax _ w _ ord scope => w ≤ 1 && ord ≤ 4 && scope ≤ 4
  | .atomMinn _ w _ ord scope => w ≤ 1 && ord ≤ 4 && scope ≤ 4
  | .atomMaxn _ w _ ord scope => w ≤ 1 && ord ≤ 4 && scope ≤ 4
  | .atomLd _ w _ ord scope => w ≤ 1 && ord ≤ 4 && scope ≤ 4
  | .atomSt _ w _ ord scope => w ≤ 1 && ord ≤ 4 && scope ≤ 4
  | .redAdd _ w _ ord scope => w ≤ 1 && (ord == 0 || ord == 2) && scope ≤ 4
  | .redFadd _ w _ ord scope => w ≤ 2 && (ord == 0 || ord == 2) && scope ≤ 4
  | .redMin _ w _ ord scope => w ≤ 1 && (ord == 0 || ord == 2) && scope ≤ 4
  | .redMax _ w _ ord scope => w ≤ 1 && (ord == 0 || ord == 2) && scope ≤ 4
  | .redFmin _ w _ ord scope => w ≤ 2 && (ord == 0 || ord == 2) && scope ≤ 4
  | .redFmax _ w _ ord scope => w ≤ 2 && (ord == 0 || ord == 2) && scope ≤ 4
  | .redAnd _ w _ ord scope => w ≤ 1 && (ord == 0 || ord == 2) && scope ≤ 4
  | .redOr _ w _ ord scope => w ≤ 1 && (ord == 0 || ord == 2) && scope ≤ 4
  | .redXor _ w _ ord scope => w ≤ 1 && (ord == 0 || ord == 2) && scope ≤ 4
  | .redMinn _ w _ ord scope => w ≤ 1 && (ord == 0 || ord == 2) && scope ≤ 4
  | .redMaxn _ w _ ord scope => w ≤ 1 && (ord == 0 || ord == 2) && scope ≤ 4
  | .fence scope => scope ≤ 4
  | .mma .. => true
  | .mmas .. => true
  | .mbp .. => true
  | .mzero .. => true
  | .mld _ n _ _ => n ≤ 15
  | .mst n _ _ _ => n ≤ 15
  | .mcpy .. => true
  | .mcvt n _ _ _ => n ≤ 15
  | .mtrn .. => true
  | .mperm .. => true
  | .mrsum .. => true
  | .mrdy b => b ≤ 15
  | .mwait .. => true
  | .mstat e _ _ => e ≤ 1
  | .rank d a _ ty _ => ty ≤ 2 && d ≤ 15 && a ≤ 15
  | .rmma _ a _ _ _ => a ≤ 15
  | .rtv d a _ _ => d ≤ 15 && a ≤ 15
  | .rlst d a _ _ => d ≤ 15 && a ≤ 15
  | .ratl a _ _ => a ≤ 15
  | .rrcl a _ _ => a ≤ 15
  | .tspawn .. => true
  | .tret .. => true
  | .fwait .. => true
  | .ffill .. => true
  | .fown .. => true
  | .lock .. => true
  | .unlock .. => true
  | .qpush .. => true
  | .qpop .. => true
  | .succ .. => true
  | .launch .. => true
  | .yield => true
  | .dqpush .. => true
  | .dqpop .. => true
  | .srput .. => true
  | .srwaitC .. => true
  | .srwaitP .. => true
  | .srrel .. => true
  | .barArr _ lev n => barOk lev n
  | .barWait _ lev n => barOk lev n
  | .barSync _ lev n => barOk lev n
  | .barSet .. => true
  | .cntRd .. => true
  | .cntWait .. => true
  | .cntClr .. => true
  | .time .. => true
  | .winw .. => true
  | .perf .. => true
  | .trap .. => true
  | .svc .. => true
  | .rft => true
  | .brk .. => true
  | .killb .. => true
  | .pblk _ n pat => pat.toNat < 2 ^ (n.toNat + 1)
  | .illegalInstruction _ => false
  | .loadDataReturn => true
  | .pageWalk => true
  | .sideLogReplay => true
  | .copyLanding => true
  | .engineStart => true
  | .engineComplete => true
  | .trapEntry => true
  | .faultReport => true
  | .packetFetch => true
  | .dependencePoll => true
  | .gangPlacement => true
  | .seniorGang => true
  | .taskStart => true
  | .adoption => true
  | .wake => true
  | .parkRetry => true
  | .preemptSave => true
  | .restore => true
  | .unpickerPass => true
  | .req => true
  | .grant => true
  | .returnMessage => true
  | .count => true
  | .pending => true
  | .reclaim => true
  | .lost => true
  | .retack => true
  | .eopDiscard => true
  | .requestDelivery => true
  | .sliceBounce => true
  | .heatHalving => true
  | .heatSample => true
  | .scTicket => true
  | .windowMark => true
  | .systemScPerform => true
  | .cleanAfterRelease => true
  | .flitReceive => true
  | .ackOnlyFlit => true
  | .ackTimer => true
  | .replayTimeout => true
  | .errorInterval => true
  | .scaleUpFrame => true
  | .trainingEnd => true
  | .retrainEnd => true
  | .l0nIdle => true
  | .l1sIdle => true
  | .wakeComplete => true
  | .wakeTimeout => true
  | .unresponsiveTimeout => true
  | .hostAccess => true
  | .train => true
  | .takeDown => true
  | .lqbell => true
  | .fltreplay => true
  | .preempt => true
  | .resume => true
  | .timeStep => true
  | .heatctlClr => true
  | .hclr => true
  | .dirtyBitmapReadClear => true
  | .quiesce => true
  | .commit => true
  | .release => true
  | .abort => true
  | .registerWrite => true
  | .restart => true
  | .clearfail => true
  | .attest => true
  | .getcert => true
  | .raisefloor => true
  | .start => true
  | .startStepTimeout => true
  | .powerWindow => true
  | .thermalTrip => true
  | .fundamentalReset => true
  | .powerLoss => true
  | .chunkDescriptorWrite => true
  | .badCommand => true

end Sys2Proof
end

