-- ==== Sys2Proof/Machine/Operands.lean ====
section
/-!
DEFINITION. Machine/Operands.lean: operand forms of both streams (02 R35-R40, 08 R198) and the issue of an instruction:
the order of refusals (R45), the scoreboard and the lookahead promise (R41-R43), predicate blocks (R46-R48), the
decision-queue pop (R38), and what follows the instruction's own effect.
-/
namespace Sys2Proof.Machine

/-! ## What an instruction names -/

/-- A register operand. `src`, `src64`, `dst`, `dst64` hold a 7-bit code (R35, R37); `run` names consecutive single
registers; `items` scalar operand items, one pair each in the warp stream (08 R198); `slots` the operand slots of ATOM
and RED (R52); `region` a region field (R40). The last Bool of a run says that it is written. -/
inductive Opd
  | src (c : Nat)
  | src64 (c : Nat)
  | dst (c : Nat)
  | dst64 (c : Nat)
  | run (c n : Nat) (write : Bool)
  | items (c n : Nat) (write : Bool)
  | slots (c n : Nat) (wide write : Bool)
  | region (c : Nat)
  deriving DecidableEq, Repr

/-- The streams of R44. -/
inductive Streams
  | both | warp | front
  deriving DecidableEq, Repr

/-- What the opcode map and the owning chapter say of an instruction before its own refusals. -/
structure Spec where
  opds    : List Opd
  streams : Streams
  roles   : List Role           -- R26, warp stream
  matrix  : Bool                -- R27: needs MATRIX warps
  priv    : Bool                -- 15 R376
  la      : Option Nat          -- R41: lookahead count; none: interlocked
  ends    : Bool                -- R42: ends a lookahead window
  barred  : Bool                -- R47: refused as a covered word
  deriving DecidableEq, Repr

/-- An instruction that every role may issue, with no special rule. -/
def plain (streams : Streams) (opds : List Opd) : Spec :=
  { opds := opds, streams := streams, roles := [.matrix, .copy, .vector], matrix := false, priv := false, la := none,
    ends := false, barred := false }

/-! ## Context of an issue -/

/-- What an instruction sees at issue: its thread, its block as the operands are read, its active lanes, the
decision-queue entry that code 121 reads, and how far an earlier start of it came. -/
structure Ctx where
  t      : ThreadRef
  b      : Block
  th     : Thread
  act    : Word
  dq     : Option DWord
  stage  : Nat
  answer : Option (List DWord)
  dqSeq  : Nat := 0

def Ctx.front (c : Ctx) : Bool := c.t.warp == 32
/-- The warp of the context; for the front thread a blank one. -/
def Ctx.w (c : Ctx) : Warp := (c.b.warps[c.t.warp]?).getD (Warp.fresh .vector 0 0)
/-- The lanes that act: the active lanes, or the one place of the front thread. -/
def Ctx.lanes (c : Ctx) : List Nat := if c.front then [0] else lanesOf c.act
/-- The lowest-numbered active lane. -/
def Ctx.low (c : Ctx) : Nat := (c.lanes.head?).getD 0

/-- A 64-bit operand (R37, R39). -/
def Ctx.r64 (c : Ctx) (code lane : Nat) : DWord :=
  if c.front then c.b.front.sget (c.b.front.swb + code)
  else if code < 112 then
    BitVec.ofNat 64 ((c.w.vget (c.w.wb.toNat + code) lane).toNat + 2 ^ 32 * (c.w.vget (c.w.wb.toNat + code + 1) lane).toNat)
  else if code < 120 then c.b.y.getD (code - 112) 0
  else if code = 121 then c.dq.getD 0
  else if code = 122 then BitVec.ofNat 64 lane
  else 0

/-- A 32-bit operand (R35, R39). -/
def Ctx.r32 (c : Ctx) (code lane : Nat) : Word :=
  if c.front then (c.b.front.sget (c.b.front.swb + code)).setWidth 32
  else if code < 112 then c.w.vget (c.w.wb.toNat + code) lane
  else if code < 120 then (c.b.y.getD (code - 112) 0).setWidth 32
  else if code = 121 then (c.dq.getD 0).setWidth 32
  else if code = 122 then BitVec.ofNat 32 lane
  else 0

/-- Scalar operand item j at a field (08 R198). -/
def Ctx.item (c : Ctx) (code j : Nat) : DWord :=
  if c.front then c.r64 (code + j) 0 else c.r64 (code + 2 * j) c.low

/-- A 32-bit result; in the front stream sign-extended where its type is signed (R39, 04 R90). -/
def Ctx.w32 (c : Ctx) (code lane : Nat) (signed : Bool) (v : Word) : List RegWrite :=
  if c.front then
    [{ front := true, reg := c.b.front.swb + code, lane := 0, val := if signed then v.signExtend 64 else v.setWidth 64 }]
  else [{ front := false, reg := c.w.wb.toNat + code, lane := lane, val := v.setWidth 64 }]

/-- A 64-bit result. -/
def Ctx.w64 (c : Ctx) (code lane : Nat) (v : DWord) : List RegWrite :=
  if c.front then [{ front := true, reg := c.b.front.swb + code, lane := 0, val := v }]
  else
    [{ front := false, reg := c.w.wb.toNat + code, lane := lane, val := v },
     { front := false, reg := c.w.wb.toNat + code + 1, lane := lane, val := v >>> 32 }]

/-- Result item j at a field, in every active lane (08 R198). -/
def Ctx.wItem (c : Ctx) (code j : Nat) (v : DWord) : List RegWrite :=
  if c.front then c.w64 (code + j) 0 v else c.lanes.flatMap (fun l => c.w64 (code + 2 * j) l v)

/-! ## Checks of the operand fields -/

/-- Field codes refused with ILLEGAL_INSTRUCTION (R35, R37, R38, R40, R52, 08 R198). DEDUCED (log 97): the run limit that a thread of the
front stream meets is register 191 (R39), also in a form that R134 gives the limits of a warp. -/
def Opd.illegal (front : Bool) (dqd : Nat) : Opd → Bool
  | .src c => !front && (123 ≤ c || (c == 121 && dqd == 0))
  | .src64 c => !front && (123 ≤ c || (c == 121 && dqd == 0) || (c < 112 && c % 2 == 1))
  | .dst c => !front && 112 ≤ c
  | .dst64 c => !front && (112 ≤ c || c % 2 == 1)
  | .run c n _ => !front && 112 < c + n
  | .items c n w =>
    !front && (if n ≤ 1 && !w then 123 ≤ c || (c == 121 && dqd == 0) || (c < 112 && c % 2 == 1)
               else 112 < c + 2 * n || c % 2 == 1)
  | .slots c n wide _ => if front then 112 < c + n else if wide then c % 2 == 1 || 112 < c + 2 * n else 112 < c + n
  | .region c => front && 16 ≤ c

/-- Front runs that pass S191 (08 R198). -/
def Opd.pastS (swb : Nat) : Opd → Bool
  | .run c n _ => 192 < swb + c + n
  | .items c n _ => 192 < swb + c + n
  | .slots c n _ _ => 192 < swb + c + n
  | _ => false

/-- Registers that an operand names: (allotted or S number, whether written). -/
def Opd.regs (front : Bool) (base : Nat) : Opd → List (Nat × Bool)
  | .src c => if front || c < 112 then [(base + c, false)] else []
  | .src64 c => if front then [(base + c, false)] else if c < 112 then [(base + c, false), (base + c + 1, false)] else []
  | .dst c => [(base + c, true)]
  | .dst64 c => if front then [(base + c, true)] else [(base + c, true), (base + c + 1, true)]
  | .run c n w => (List.range n).map (fun i => (base + c + i, w))
  | .items c n w =>
    if front then (List.range n).map (fun i => (base + c + i, w))
    else if c < 112 then (List.range (2 * n)).map (fun i => (base + c + i, w)) else []
  | .slots c n wide w =>
    -- the index and the operands are read; the operand slot is also written where the instruction returns the old value
    let k := if !front && wide then 2 else 1
    ((List.range (k * n)).filter (fun i => k = 1 || i != 1)).map (fun i => (base + c + i, false))
      ++ (if w then (List.range k).map (fun i => (base + c + k + i, true)) else [])
  | .region _ => []

/-- Whether an operand is the decision-queue entry. -/
def Opd.pops : Opd → Bool
  | .src c => c == 121
  | .src64 c => c == 121
  | .items c n w => n ≤ 1 && !w && c == 121
  | _ => false

/-- Window base of a context: `WB` or `SWB`. -/
def Ctx.base (c : Ctx) : Nat := if c.front then c.b.front.swb else c.w.wb.toNat
def regId (front : Bool) (n : Nat) : RegId := if front then .s n else .v n
/-- Registers that an instruction names, read or written. -/
def Ctx.named (c : Ctx) (sp : Spec) : List (Nat × Bool) := sp.opds.flatMap (fun o => o.regs c.front c.base)
/-- Registers read; a written operand that is also an input is listed by a `src` beside it. -/
def Ctx.readIds (c : Ctx) (sp : Spec) : List RegId := ((c.named sp).filter (fun r => !r.2)).map (fun r => regId c.front r.1)
def Ctx.writeIds (c : Ctx) (sp : Spec) : List RegId := ((c.named sp).filter (fun r => r.2)).map (fun r => regId c.front r.1)

def popsDq (sp : Spec) : Bool := sp.opds.any Opd.pops

/-- Whether a thread is in privileged mode (15 R376). -/
def Ctx.priv (c : Ctx) : Bool := c.th.trap

/-- Whether a predicate block covers the word (R46). -/
def Ctx.covered (c : Ctx) : Bool := c.th.pblk.isSome

/-- The queue instructions, which item 1 of R45 refuses where the block has no decision queue (12 R309). -/
def usesDq : Instr → Bool
  | .dqpush _ _ | .dqpop _ => true
  | _ => false

/-- The refusal of items 1 to 6 of R45, if any: the fault code. `skip` says that only item 1 counts (R46: no active
lane). -/
def staticRefusal (s : State) (c : Ctx) (i : Instr) (sp : Spec) (skip : Bool) : Option Nat :=
  if !wellFormed i || sp.opds.any (fun o => o.illegal c.front c.b.allot.dqd) || (usesDq i && c.b.allot.dqd == 0)
      || (c.front && sp.opds.any (fun o => o.pastS c.b.front.swb)) || (c.covered && sp.barred) then some 1
  else if skip then none
  else if (match i with | .pblk _ _ _ => !s.pkg.minimal | _ => false) then some 3
  else if (sp.streams = .warp ∧ c.front) ∨ (sp.streams = .front ∧ !c.front) then some 2
  else if (!c.front && !sp.roles.contains c.w.role)
      || (sp.matrix && !(c.b.warps.any (fun w => w.role == .matrix))) then some 4
  else if sp.priv && !c.priv then some 5
  else if !c.front && (c.named sp).any (fun r => c.w.allot ≤ r.1) then some 6
  else none

/-! ## Scoreboard and lookahead -/

/-- Whether an open window covers a register of an issued instruction: the promise lets the thread issue without
waiting for it (R41). -/
def coveredReg (wins : List LookWin) (r : RegId) : Bool := wins.any (fun w => w.writes.any (fun x => x.1 == r))

/-- A region register as an access sees it: an access under way keeps the rights that it was checked against (08 R192), and a
downgrade under way makes an E borrow count as S (R201). -/
def Ctx.rg (c : Ctx) (r : BitVec 5) : Region :=
  match kget ((c.th.hold.map (·.kept)).getD []) r.toNat with
  | some g => g
  | none =>
    let g := c.b.region c.t.warp r.toNat
    let down := fun (th : Thread) => (th.hold.map (fun h => match h.ins with
      | some (.reborrowS d _) => d == r && h.stage != 0
      | _ => false)).getD false
    let other := (c.b.thread? c.t.warp (!c.t.armE)).map down
    if g.kind = 1 ∧ c.t.warp ≠ 32 ∧ other.getD false then { g with kind := 2 } else g

/-- The region registers that an instruction names, as it sees them. -/
def Ctx.regions (c : Ctx) (sp : Spec) : List (Nat × Region) :=
  sp.opds.filterMap (fun o => match o with
    | .region r => some (r, c.rg (BitVec.ofNat 5 r))
    | _ => none)

/-- Whether an instruction waits for an earlier one's register write (R41): a named register is owed and no open window
covers it. An instruction that ends windows relies on no promise (R42). -/
def Ctx.scoreboard (c : Ctx) (sp : Spec) : Bool :=
  (c.readIds sp ++ c.writeIds sp).any (fun r =>
    c.th.pends.any (fun p => p.regs.contains r) && (sp.ends || !coveredReg c.th.wins r))

/-- Whether issuing an instruction breaks a lookahead promise (R41). -/
def Ctx.breaks (c : Ctx) (sp : Spec) : Bool :=
  !sp.ends && c.th.wins.any (fun w =>
    (c.readIds sp).any (fun r => w.writes.any (fun x => x.1 == r))
      || (c.writeIds sp).any (fun r => w.reads.contains r || w.writes.any (fun x => x.1 == r)))

/-- What a register's lanes held before the oldest open window's write of it. -/
def oldValues (wins : List LookWin) (r : RegId) : Option (List DWord) :=
  wins.findSome? (fun w => (w.writes.find? (fun x => x.1 == r)).map (·.2))

/-- The values of a register's lanes now; the front thread's registers have one place. -/
def Block.laneValues (b : Block) (warp : Nat) (r : RegId) : List DWord :=
  match r with
  | .s n => [b.front.sget n]
  | .v n =>
    match b.warps[warp]? with
    | some w => (List.range 32).map (fun l => (w.vget n l).setWidth 64)
    | none => []

/-- Writes a register's lanes. -/
def Block.putLanes (b : Block) (warp : Nat) (r : RegId) (vals : List DWord) : Block :=
  match r with
  | .s n => { b with front := b.front.sset n (vals.getD 0 0) }
  | .v n => b.updWarp warp (fun w =>
      ((List.range 32).zip vals).foldl (fun w x => w.vset n x.1 (x.2.setWidth 32)) w)

/-- Per lane, the old value or the new one, as the device chooses (R43). -/
def mixLanes (s : State) (old new : List DWord) : List DWord × State :=
  let (n, s) := s.takeFree
  ((List.range (max old.length new.length)).map (fun i =>
    if Config.freeBool (nth n i) then old.getD i 0 else new.getD i 0), s)

/-- The block as an instruction that breaks a promise reads it: each register of an open window with old or new lanes
(R43). -/
def mixReads (s : State) (c : Ctx) (sp : Spec) : Ctx × State :=
  ((c.readIds sp).dedup).foldl (fun (x : Ctx × State) r =>
    match oldValues c.th.wins r with
    | none => x
    | some old =>
      let (vals, s) := mixLanes x.2 old (x.1.b.laneValues c.t.warp r)
      ({ x.1 with b := x.1.b.putLanes c.t.warp r vals }, s)) (c, s)

/-- A register that an open window writes: to write it breaks the promise (R41). -/
def Ctx.promised (c : Ctx) (r : RegId) : Bool := (oldValues c.th.wins r).isSome

/-- Of the writes of some registers each lane keeps what it holds or takes what is written, as the device chooses (R43). -/
def State.mixInto (s : State) (mixed : RegId → Bool) (ws : List RegWrite) : List RegWrite × State :=
  if ws.any (fun w => mixed (regId w.front w.reg)) then
    let (n, s) := s.takeFree
    (((List.range ws.length).zip ws).filterMap (fun x =>
      if mixed (regId x.2.front x.2.reg) && Config.freeBool (nth n x.1) then none else some x.2), s)
  else (ws, s)

/-- Whether a thread still owes a register. -/
def Thread.owes (th : Thread) (r : RegId) : Bool := th.pends.any (fun p => p.regs.contains r)

/-- The registers among some that an instruction inside a window breaks: what is still owed to them is written lane by lane, old or
new, when it comes (R43). -/
def Thread.loosen (th : Thread) (rs : List RegId) : Thread :=
  if rs.isEmpty then th
  else { th with pends := th.pends.map (fun p => { p with loose := p.loose ++ p.regs.filter rs.contains }) }

/-- Which of an instruction's own writes take effect: a lane of a register that an open window writes keeps the earlier value or
takes the later (R43). Where the earlier write is still owed, that one is mixed as it comes. -/
def mixWrites (s : State) (c : Ctx) (ws : List RegWrite) : List RegWrite × State :=
  if c.th.wins.isEmpty then (ws, s)
  else
    let broken := ((ws.map (fun w => regId w.front w.reg)).dedup).filter c.promised
    let s := s.updThread c.t (fun th => th.loosen (broken.filter c.th.owes))
    s.mixInto (fun r => broken.contains r && !c.th.owes r) ws

/-! ## The decision queue -/

/-- What code 121 or DQPOP delivers, with the place of the entry: the warp's next entry, or all ones once the front thread has exited
(12 R309). -/
def Block.dqView (b : Block) (warp : Nat) : Option (Nat × DWord) :=
  match b.dq.find? (·.unpopped warp) with
  | some e => some (e.seq, e.value)
  | none => if b.front.th.live then none else some (0, 0xFFFF_FFFF_FFFF_FFFF)

/-- A warp pops the entry of a place (12 R308). -/
def Block.popDq (b : Block) (warp seq : Nat) : Block :=
  { b with dq := b.dq.map (fun (e : DqEntry) =>
      if e.seq = seq ∧ e.unpopped warp then { e with popped := e.popped ||| laneBit warp } else e) }.pruneDq

/-- The entry that an instruction of a thread reads: the one that it had popped and was abandoned with, if it is still there
(R38), else the warp's next. -/
def Ctx.entry (c : Ctx) : Option (Nat × DWord) :=
  match c.th.redo.bind (fun n => c.b.dq.find? (fun e => e.seq == n && e.unpopped c.t.warp)) with
  | some e => some (e.seq, e.value)
  | none => c.b.dqView c.t.warp

/-- The context of an instruction that reads the decision-queue entry found for it. -/
def Ctx.withEntry (c : Ctx) (e : Option (Nat × DWord)) : Ctx := { c with dq := e.map (·.2), dqSeq := (e.map (·.1)).getD 0 }

/-! ## Outcomes of an instruction -/

/-- Where an instruction leaves the program counter. -/
inductive Next
  | seq                       -- PC + 4
  | jump (pc : BitVec 56)
  | path                      -- the path has ended, or the thread's PC is set
  deriving DecidableEq, Repr

/-- What an instruction's own description makes of it: a refusal with its code, `ADDR` and lanes; a wait, with the state as
far as it came; or its completion, with register writes. `trap` is a refusal whose record and state the instruction made
(15 R389). -/
inductive Res
  | refuse (code addr : Nat) (lanes : Word)
  | trap (r : FaultRec) (s : State)
  | wait (w : Wait) (stage : Nat) (s : State)
  | done (s : State) (ws : List RegWrite) (nx : Next)

/-- The lookahead windows after an instruction (R41, R42). -/
def nextWins (c : Ctx) (sp : Spec) : List LookWin :=
  if sp.ends then []
  else
    let rest := (c.th.wins.map (fun w => { w with left := w.left - 1 })).filter (fun w => w.left != 0)
    match sp.la with
    | some (n + 1) => rest ++ [{ left := n + 1, reads := c.readIds sp,
                                 writes := ((c.writeIds sp).dedup).map (fun r => (r, c.b.laneValues c.t.warp r)) }]
    | _ => rest

/-- The predicate block after a covered word (R46). -/
def nextPblk (p : Option Pblk) : Option Pblk :=
  p.bind (fun p => if p.left ≤ 1 then none else some { p with left := p.left - 1, pattern := p.pattern >>> 1 })

/-- The instruction is over: windows, predicate block, one-time watchpoint skip, and the PC. -/
def State.retire (s : State) (c : Ctx) (sp : Spec) (nx : Next) : State :=
  match nx with
  | .path => s
  | .seq =>
    (s.updThread c.t (fun th =>
      { th with hold := none, wins := nextWins c sp, pblk := nextPblk th.pblk, wskip := false, wbUse := none })).goTo c.t
        (c.th.pc + 4)
  | .jump pc =>
    (s.updThread c.t (fun th =>
      { th with hold := none, wins := nextWins c sp, pblk := nextPblk th.pblk, wskip := false, wbUse := none })).goTo c.t pc

/-- A covered word with no active lane is passed over (R46): it counts for the open windows, and has no other effect. -/
def State.passWord (s : State) (c : Ctx) (sp : Spec) : State := s.retire c { sp with la := none, ends := false } .seq

/-- A refusal with its record: the entry that the instruction had popped goes back, and the precise fault is taken (R6,
R38, 15 R371). -/
def State.refuseWith (s : State) (c : Ctx) (r : FaultRec) : State :=
  let s := match (c.th.hold.bind (·.dq)) with
    | some v => s.updBlk c.t.blk (fun b => b.giveBack c.t.warp c.t.armE c.dqSeq v)
    | none => s
  (s.setHold c.t none).takeTrap c.t r

def State.refuse (s : State) (c : Ctx) (code addr : Nat) (lanes : Word) : State :=
  s.refuseWith c (s.record c.t code 0 c.th.pc addr lanes 0)

/-- The warp's decision-queue entry is popped where an operand named it (R38). -/
def State.popEntryOf (s : State) (sp : Spec) (c : Ctx) (fresh : Bool) : State :=
  if fresh && popsDq sp && !c.front then
    (s.updBlk c.t.blk (fun b => b.popDq c.t.warp c.dqSeq)).updThread c.t (fun th => { th with redo := none })
  else s

/-- An issued instruction is counted (14 R370 codes 1 and 2). -/
def State.countIssue (s : State) (c : Ctx) : State := s.pmcCount c.b.coreIx (if c.front then 2 else 1) 1
/-- The count of an instruction that is refused, or not yet complete, is taken back: 1 less, modulo 2^48 (R6). -/
def State.uncountIssue (s : State) (c : Ctx) : State := s.pmcCount c.b.coreIx (if c.front then 2 else 1) (2 ^ 48 - 1)

/-- An instruction completes: its decision-queue pop, its register writes, and what follows every instruction. `fresh` says
that it issues now and has not issued before, so that its pop takes place (R38). -/
def State.complete (s : State) (sp : Spec) (c : Ctx) (fresh : Bool) (ws : List RegWrite) (nx : Next) : State :=
  let (ws, s) := mixWrites (s.popEntryOf sp c fresh) c ws
  (s.applyWrites c.t ws).retire c sp nx

/-- The state after an instruction's own outcome; `s0` is the state before it. `fresh`: it issues now, and was counted before
its body; it stays counted only when it completes, at once or after a wait (R6). -/
def finish (s0 : State) (i : Instr) (sp : Spec) (c : Ctx) (fresh : Bool) : Res → State
  | .refuse code addr lanes => s0.refuse c code addr lanes
  | .trap r s => (if fresh then s.uncountIssue c else s).refuseWith c r
  | .wait w stage s =>
    ((if fresh then s.uncountIssue c else s).popEntryOf sp c fresh).updThread c.t (fun th =>
      { th with readyAt := s.clock
                hold := some { wait := w, ins := some i, stage := stage, answer := none, dq := c.dq, dqSeq := c.dqSeq, rgn := c.regions sp } })
  | .done s ws nx => (if fresh then s else s.countIssue c).complete sp c fresh ws nx

/-! ## Issue -/

/-- The active lanes of the next word (R46). -/
def activeLanes (th : Thread) : Word :=
  match th.pblk with
  | none => th.exm
  | some p => if p.pattern.getLsbD 0 then th.exm &&& p.kcap else th.exm &&& ~~~p.kcap

/-- The block as a thread's instruction maps its codes: with the `WB` that it keeps beside a WIN of the other arm (04 R85,
R86). -/
def Block.mapWith (b : Block) (warp : Nat) (wb : Option (BitVec 10)) : Block :=
  match wb with
  | some x => b.updWarp warp (fun w => { w with wb := x })
  | none => b

/-- The context of the issuing thread, if it exists. -/
def State.ctx? (s : State) : Option Ctx :=
  match s.cur with
  | none => none
  | some t =>
    match s.blk? t.blk with
    | none => none
    | some b =>
      match b.thread? t.warp t.armE with
      | none => none
      | some th =>
        if th.live then
          some { t := t, b := b.mapWith t.warp th.wbUse, th := th, act := if t.warp = 32 then 1 else activeLanes th, dq := th.hold.bind (·.dq),
                 dqSeq := (th.hold.map (·.dqSeq)).getD 0,
                 stage := (th.hold.map (·.stage)).getD 0, answer := th.hold.bind (·.answer) }
        else none

/-- Whether the instruction had issued and waits. -/
def Ctx.resumed (c : Ctx) : Bool := (c.th.hold.bind (·.ins)).isSome

/-- Lanes that a fault of the whole instruction names (15 R372). -/
def Ctx.allLanes (c : Ctx) : Word := if c.front then 0 else c.act

/-- What an instruction names that an operand's value makes privileged (14 R370, 15 R382). `read` is that operand. Item 5 of R45
comes before the allotment of the result (item 6): the result is looked at once the operand can be read. -/
def privBy (s : State) (sp : Spec) (read : Opd) (needs : Ctx → Bool) : Spec :=
  match s.ctx? with
  | none => sp
  | some c =>
    let only := { sp with opds := [read] }
    let past := !c.front && (c.named only).any (fun r => c.w.allot ≤ r.1)
    let pops := popsDq only && !c.front
    if c.resumed || past then sp
    else if c.scoreboard only || (pops && c.entry.isNone) then only
    else { sp with priv := needs (c.withEntry (if pops then c.entry else none)) }

/-- What stands before the instruction's own effect. -/
inductive Gate
  | refused (code : Nat)          -- items 1 to 6 of R45
  | skipped                       -- R46: a covered word with no active lane
  | held (w : Wait)               -- the scoreboard, or an empty decision queue
  | go (c : Ctx) (s : State)      -- its own refusals and effect follow
  | broken (c : Ctx)              -- R391: debug mode, a lookahead promise breaks

/-- The gate of an instruction that has not issued before. -/
def gate (s : State) (c : Ctx) (i : Instr) (sp : Spec) : Gate :=
  let skip := c.covered && c.act == 0
  match staticRefusal s c i sp skip with
  | some code => .refused code
  | none =>
    if skip then .skipped
    else if c.scoreboard sp then .held .scoreboard
    else
      let v := if popsDq sp && !c.front then c.entry else none
      if popsDq sp && !c.front && v.isNone then .held .dqEntry
      else if c.breaks sp then
        if c.b.desc.dbg then .broken (c.withEntry v)
        else
          let (c, s) := mixReads s (c.withEntry v) sp
          .go c s
      else .go (c.withEntry v) s

/-- What item 8 of R45 makes of an instruction that breaks a promise in debug mode: its own refusals come first, and what
they wait for is waited for; where none stands, it is LOOKAHEAD_VIOLATION (R391). -/
def judged (c : Ctx) : Res → Res
  | .refuse code addr lanes => .refuse code addr lanes
  | .wait .walk stage s => .wait .walk stage s
  | .wait .scoreboard stage s => .wait .scoreboard stage s
  | .wait .performed 0 s => .wait .performed 0 s
  | _ => .refuse 28 0 c.allLanes

/-- The issue of an instruction by the thread `s.cur`. -/
def issue (s : State) (i : Instr) (sp : Spec) (body : Ctx → State → Res) : Host.Outcome State Fault Refusal :=
  match s.ctx? with
  | none => .fault .noThread
  | some c =>
    if c.resumed then
      .next (finish s i sp c false (if c.b.desc.dbg && c.breaks sp then judged c (body c s) else body c s))
    else
      match gate s c i sp with
      | .refused code => .next (s.refuse c code 0 c.allLanes)
      | .skipped => .next (s.passWord c sp)
      | .held w => .next (s.setHold c.t (waiting w))
      | .go c' s' => .next (finish s i sp c' true (body c' (s'.countIssue c')))
      | .broken c' => .next (finish s i sp c' true (judged c' (body c' (s.countIssue c'))))

/-- The issue of an instruction that only writes registers. -/
def issueRegs (s : State) (i : Instr) (sp : Spec) (f : Ctx → List RegWrite) : Host.Outcome State Fault Refusal :=
  issue s i sp (fun c s => .done s (f c) .seq)

/-- A new outstanding memory operation of the issuing thread through a region, its data to come (R41, 04 R82, 08 R192). Where it
breaks a promise, its data and what is still owed to the same registers are mixed as they come (R43). -/
def State.owe (s : State) (c : Ctx) (regs : List RegId) (g : Region) (grp : Nat := 0) : Nat × State :=
  let (n, s) := s.takeFresh
  let broken := (regs.dedup).filter c.promised
  (n, s.updThread c.t (fun th => { th.loosen broken with pends := (th.loosen broken).pends ++
    [{ id := n, regs := regs, memOp := true, rg := some g, loose := broken, grp := grp }] }))

/-- Data of an outstanding operation reach their registers: a lane of a register that a broken promise touches keeps or takes,
unless another write of it is still to come (R43). -/
def State.mixReturn (s : State) (t : ThreadRef) (id : Nat) (ws : List RegWrite) : List RegWrite × State :=
  match s.thread? t with
  | none => (ws, s)
  | some th =>
    let loose := (th.pends.filter (fun p => p.id == id)).flatMap (·.loose)
    s.mixInto (fun r => loose.contains r && !(th.pends.any (fun p => p.id != id && p.loose.contains r))) ws

end Sys2Proof.Machine
end

