-- ==== Sys2Proof/Machine/Flags.lean ====
section
/-!
DEFINITION. Machine/Flags.lean: the format register `FMT` (05 R111-R115) and the outcomes that compares and sticky flags
leave (03 R69, 04 R108).
-/
namespace Sys2Proof.Machine

/-! ## Fields of FMT (R111) -/

def fmtFld (v : Word) (hi lo : Nat) : Nat := (v.toNat >>> lo) % 2 ^ (hi + 1 - lo)

/-- Activation type of BPDOT: 0 INT8, 1 INT4. -/
def fmtAfmt (v : Word) : Nat := fmtFld v 23 22
/-- b − 1 of the bit-plane weights. -/
def fmtBfmt (v : Word) : Nat := fmtFld v 21 19
/-- p − 1, planes read. -/
def fmtPcnt (v : Word) : Nat := fmtFld v 18 16
def fmtScm (v : Word) : Bool := v.getLsbD 15
/-- Rounding mode. -/
def fmtRm (v : Word) : Nat := fmtFld v 9 8
/-- Saturation mode. -/
def fmtSatm (v : Word) : Bool := v.getLsbD 7
/-- Sticky flags NV, DZ, OF, UF, NX in bits 4 to 0. -/
def fmtFlg (v : Word) : Nat := fmtFld v 4 0

/-- Bits of FMT that are not reserved (R111). -/
def fmtMask : Word := 0x00FF_839F

/-- Whether a value holds no combination that R111 excludes (R115). -/
def fmtLegal (v : Word) : Bool :=
  fmtAfmt v ≤ 1 && fmtBfmt v != 0 && fmtPcnt v != 0 && fmtPcnt v ≤ fmtBfmt v

/-- Sets sticky flags of the issuing thread (R69, R114). -/
def State.addFlags (s : State) (t : ThreadRef) (fl : Nat) : State :=
  if fl = 0 then s else s.updThread t (fun th => { th with fmt := th.fmt ||| BitVec.ofNat 32 (fl % 32) })

/-- The union of the flags that several elements raise. -/
def orFlags (l : List Nat) : Nat := l.foldl (· ||| ·) 0

/-! ## Outcomes of compares -/

/-- Integer relations EQ, NE, LT, LE, GT, GE (02 R51). -/
def intCond (cond : Nat) (a b : Int) : Bool :=
  match cond with
  | 0 => a == b
  | 1 => a != b
  | 2 => decide (a < b)
  | 3 => decide (a ≤ b)
  | 4 => decide (b < a)
  | _ => decide (b ≤ a)

/-- A mask register with the bits of the active lanes replaced (06 R136). -/
def mergeMask (old act new : Word) : Word := (old &&& ~~~act) ||| (new &&& act)

/-- Writes the active lanes' bits of a mask register. -/
def State.setK (s : State) (t : ThreadRef) (k : Nat) (act new : Word) : State :=
  s.updWarp t (fun w => { w with k := lset w.k k (fun old => mergeMask old act new) })

/-- The mask of the lanes where a predicate holds. -/
def maskWhere (lanes : List Nat) (p : Nat → Bool) : Word := maskOf (lanes.filter p)

end Sys2Proof.Machine
end

