-- ==== Sys2Proof/Machine/Sched.lean ====
section
/-!
DEFINITION. Machine/Sched.lean: which thread issues next (12 R312), instruction fetch (02 R32, 15 R371) and the passing of
time (14 R364).
-/
namespace Sys2Proof.Machine

/-! ## Waits -/

/-- The slot of a bobbin that a cursor names, and the cursor's phase. -/
def Block.bobAt (b : Block) (n : Nat) (cur : List (Nat × Bool)) : Option (BobSlot × Bool) :=
  let (j, ph) := cur.getD n (0, false)
  ((b.bobs[n]?).bind (fun l => l[j]?)).map (fun x => (x, ph))

/-- Whether a thread's memory operations that it issued are performed, but for its side-log entries: register data back,
answers in (10 R254). -/
def State.opsPerformed (s : State) (t : ThreadRef) : Bool :=
  ((s.thread? t).map (fun th => th.pends.all (fun p => !p.memOp))).getD true
    && s.waitReq.all (fun r => match r.owner with | .regs u id _ => !s.orderedBy t u id | .waits _ => true)

/-- Whether a memory-side die holds a write of a thread's warp: it is not performed (11 R291). -/
def State.writesHeld (s : State) (t : ThreadRef) : Bool :=
  s.mds.any (fun d => d.overflow.any (fun o => (o.2.2.map (fun u => u.blk == t.blk && u.warp == t.warp)).getD false))

/-- Whether every memory operation that stands before in a thread's program order is performed (10 R250, R254), side-log
entries among them (R266). -/
def State.allPerformed (s : State) (t : ThreadRef) : Bool :=
  s.opsPerformed t && !s.writesHeld t
    && ((s.blk? t.blk).map (fun b => (s.core b.coreIx).log.all (fun e => !s.orderedBy t e.t e.id))).getD true

/-- Capacity of an engine's queue (07 R160). -/
def engineSize : Engine → Nat
  | .array => 8 | .tile => 4 | .rank => 4
def Core.queueOf (c : Core) : Engine → List EngineOp
  | .array => c.array | .tile => c.tile | .rank => c.rank

/-- Waiting instructions of an engine: the running one is not counted. -/
def Core.waitingIn (c : Core) (e : Engine) : Nat := ((c.queueOf e).filter (fun o => !o.started)).length

/-- The tile that an engine instruction writes (07 R171-R175, R179). -/
def tileOut : Instr → Option Nat
  | .mma d _ _ _ | .mmas d _ _ | .mbp d _ _ _ _ | .mzero d _ | .mld d _ _ _ | .mcpy d _ _ | .mtrn d _ _ | .mperm d _ _ _
  | .mrsum d _ _ _ | .rmma d _ _ _ _ => some d.toNat
  | _ => none
/-- The tile that an engine instruction reads as its source. -/
def tileIn : Instr → Option Nat
  | .mst _ t _ _ | .mcvt _ t _ _ | .mcpy _ t _ | .mtrn _ t _ | .mperm _ t _ _ | .mrsum _ t _ _ => some t.toNat
  | _ => none
/-- In-flight tiles of a block (07 R158). -/
def State.inFlight (s : State) (bk : Nat) (b : Block) : Word :=
  let c := s.core b.coreIx
  (c.array ++ c.tile ++ c.rank).foldl (fun m o => match (if o.blk = bk then tileOut o.ins else none) with
    | some d => m ||| laneBit d
    | none => m) 0

/-- Whether a thread that stops for a save, an end or a kill still carries its issued instruction through: a borrow
instruction under way, an answer that is due or has come, an access in translation or at absent scratch lines, an MRDY that
has arrived (07 R185; 08 R212; 09 R230, R247; 13 R330, 15 R382). -/
def Hold.mustFinish (h : Hold) : Bool :=
  h.answer.isSome || (match h.ins with
    | some (.tret _) => h.stage == 1
    | _ => false) || (match h.wait with
    | .returned _ | .convert _ _ | .reply | .drained | .gone _ => true
    | .walk | .lines _ _ | .logDrain _ | .stamp _ | .again => h.ins.isSome
    | .bquarter => h.stage == 2
    | .through _ => (match h.ins with
      | some (.split _ _ _ _ _) | some (.share _ _ _) => true
      | _ => h.stage != 0)
    | .performed => h.stage == 2
    | _ => false)

/-- Whether a block's issued work is done: register writes, engines, copy path, side log, requests, borrow instructions
(08 R212, 09 R247, 13 R330, R347, 15 R386). `but` is a thread that waits for just this. -/
def State.quietBlock (s : State) (bk : Nat) (b : Block) (but : Option ThreadRef) : Bool :=
  let c := s.core b.coreIx
  b.threads.all (fun x => x.2.2.pends.isEmpty
      && (but == some { blk := bk, warp := x.1, armE := x.2.1 } || !((x.2.2.hold.map Hold.mustFinish).getD false)))
    && (c.array ++ c.tile ++ c.rank).all (fun o => o.blk != bk) && c.copies.all (fun x => x.t.blk != bk)
    && c.log.all (fun x => x.ctx != bk)
    && s.waitReq.all (fun r => match r.owner with
      | .regs t _ _ => t.blk != bk
      | .waits t => t.blk != bk)

/-- Whether a wait is over (12 R312 and the rules of each wait). A wait that a step ends is never over by itself. -/
def State.waitOver (s : State) (t : ThreadRef) (b : Block) (th : Thread) (h : Hold) : Bool :=
  match h.wait with
  | .dqEntry => (b.dqView t.warp).isSome
  | .dqRoom => b.dq.length < b.allot.dqd
  | .bobFull n => ((b.bobAt n th.consCur).map (fun x => x.1.f != x.2)).getD false
  | .bobFree n => ((b.bobAt n th.prodCur).map (fun x => x.1.e == x.2)).getD false
  | .barrier lev n tok => ((s.bar? b lev n).map (fun r => r.c != tok || r.broken)).getD true
  | .counter c n => n ≤ b.counts.getD c 0
  | .lines first last => b.absent.all (fun e => e.1 < first || last < e.1)
  | .join rg => (b.region t.warp rg).nsplit == 0
  | .borrow _ | .convert _ _ | .returned _ | .reply => h.answer.isSome
  | .logRoom => decide ((s.core b.coreIx).log.length < 64)
  | .logDrain id => (s.core b.coreIx).log.all (fun e => e.id != id)
  | .performed => s.allPerformed t
  | .engineRoom e => decide ((s.core b.coreIx).waitingIn e < engineSize e)
  | .bquarter => b.warps.all (fun w => w.role != .matrix || (w.t.pends.isEmpty && w.e.pends.isEmpty))
  | .tiles m => s.inFlight t.blk b &&& m == 0
  | .window n => decide (n ≤ s.pkg.timeNs.toNat)
  | .stamp ix => ((s.entry b.die ix).map (fun e => e.stamp == 0)).getD true
  | .landed => !s.unlanded t.blk b
  | .through g => (match h.ins with
    | some (.give _) | some (.split _ _ _ _ _) | some (.share _ _ _) => !s.busyL1 b g
    | some .exit | some (.tret _) | some .rft => !s.busyEnd b g
    | _ => !s.busyRange b g) && s.opsPerformed t
  | .tableRoom space => s.roomFor b.coreIx space t
  | .behind o => !((s.cd b.die).entries.any (fun x => x.2.order == o && x.2.proxy && x.2.wp && x.2.state == .held))
      && s.firstBehind b.die o t
  | .scoreboard => h.ins.isSome && th.pends.isEmpty
  | .again => true
  | .drained => s.quietBlock t.blk b (some t)
  | .gone bk => (s.blk? bk).isNone
  | .walk | .page _ _ | .fetchPage _ _ | .object | .parkRoom | .noFrame | .otherArm | .trapOther | .trapping
  | .forever | .pathEnd => false

/-! ## Ready threads -/

/-- Whether a thread's next word is held at its home for reserve: it is not fetched yet (R312, 11 R291). -/
def State.fetchHeld (s : State) (b : Block) (th : Thread) : Bool :=
  s.readHeld b.die (clusterOf b.coreIx) b.desc th.pc.toNat .fetch th.trap

/-- Whether a thread stands at a boundary with a fault to take, before an instruction or in a wait before its first effect (log 68):
it and its warp's other arm issue nothing more (15 R375, R383). -/
def Thread.faulted (th : Thread) : Bool := th.live && th.record.isSome && !((th.hold.map Hold.issued).getD false)

/-- Whether a thread may issue (12 R312): resident in a started block, no fault to take, no arm of its warp in or bound for
a handler, and no wait. What it has issued goes on where its warp stops for a handler or its block for a save (15 R375,
R386). -/
def State.ready (s : State) (bk : Nat) (b : Block) (x : Nat × Bool × Thread) : Bool :=
  let (w, arm, th) := x
  let t : ThreadRef := { blk := bk, warp := w, armE := arm }
  let stop := b.ending || s.beingSaved bk || s.cds.any (fun c => c.parking.contains bk)
  let bound := w != 32 && ((b.thread? w !arm).map Thread.faulted).getD false
  b.home && b.started && th.live && !th.faulted && decide (th.readyAt ≤ s.clock) && !b.otherInTrap t
    && (match th.hold with
        | none => !stop && !bound && !s.fetchHeld b th
        | some h => (!stop || h.mustFinish) && (!bound || h.issued) && s.waitOver t b th h)

/-- The clock at which a waiting thread became ready counts from the end of its wait, and what is not ready has been passed
over in no clock (12 R312). -/
def State.stampReady (s : State) : State :=
  { s with blocks := s.blocks.map (fun e => (e.1, e.2.mapNamed (fun w arm th =>
      let now := (th.hold.map (fun h => s.waitOver { blk := e.1, warp := w, armE := arm } e.2 th h)).getD false
      let was := (th.hold.map (·.ended)).getD false
      { th with hold := th.hold.map (fun h => { h with ended := now })
                readyAt := if now && !was then s.clock else th.readyAt
                passed := if s.ready e.1 e.2 (w, arm, th) then th.passed else 0 }))) }

/-- Every ready thread, with the port that it issues on: 5 × core + quadrant, or + 4 for the front port. -/
def State.readyThreads (s : State) : List (Nat × ThreadRef × Block × Thread) :=
  if s.pkg.phase = .ready then
    s.blocks.flatMap (fun e =>
      (e.2.threads.filter (fun x => s.ready e.1 e.2 x)).map (fun x =>
        (5 * e.2.coreIx + (if x.1 = 32 then 4 else x.1 % 4), { blk := e.1, warp := x.1, armE := x.2.1 }, e.2, x.2.2)))
  else []

/-- Rank of a role (12 R312). -/
def roleRank (b : Block) (t : ThreadRef) : Nat :=
  match b.warps[t.warp]? with
  | some w => (match w.role with | .matrix => 0 | .copy => 1 | .vector => 2)
  | none => 2

/-- R312's order of choice on a warp port: passed over 256 clocks, role, ready time, slot, warp, arm. -/
def before (x y : ThreadRef × Block × Thread) : Bool :=
  let key := fun (x : ThreadRef × Block × Thread) =>
    let late := if 256 ≤ x.2.2.passed then 0 else 1
    [late, if late = 0 then 0 else roleRank x.2.1 x.1, if late = 0 then 0 else x.2.2.readyAt, x.2.1.slot, x.1.warp,
     if x.1.armE then 1 else 0]
  let rec lt : List Nat → List Nat → Bool
    | a :: r, b :: q => a < b || (a == b && lt r q)
    | _, _ => false
  lt (key x) (key y)

/-- The thread that a port issues: R312's choice, or round robin on the front port. -/
def State.pick (s : State) (port : Nat) (l : List (ThreadRef × Block × Thread)) : Option ThreadRef :=
  if port % 5 = 4 then
    let last := (s.core (port / 5)).lastFront
    let slots := l.mergeSort (fun x y => (x.2.1.slot + 15 - last) % 16 ≤ (y.2.1.slot + 15 - last) % 16)
    (slots.head?).map (·.1)
  else (l.foldl (fun (a : Option (ThreadRef × Block × Thread)) x => match a with
      | none => some x
      | some y => if before x y then some x else some y) none).map (·.1)

/-- The threads of a port that were ready and not chosen have been passed over once more (01 R30). -/
def State.passOver (s : State) (l : List (ThreadRef × Block × Thread)) (t : ThreadRef) : State :=
  let s := l.foldl (fun s x => if x.1 = t then s else s.updThread x.1 (fun th => { th with passed := th.passed + 1 })) s
  s.updThread t (fun th => { th with passed := 0 })

/-- The issuing thread: a port of the device's choice, then the port's own choice. -/
def State.choose (s : State) : Option (ThreadRef × State) :=
  let l := s.readyThreads
  let ports := (l.map (·.1)).dedup
  match ports with
  | [] => none
  | [p] =>
    let mine := (l.filter (fun x => x.1 == p)).map (·.2)
    (s.pick p mine).map (fun t => (t, (s.passOver mine t).updCore (p / 5) (fun c =>
      if p % 5 = 4 then { c with lastFront := ((mine.find? (fun x => x.1 == t)).map (·.2.1.slot)).getD 0 } else c)))
  | _ =>
    let (n, s) := s.takeFree
    let p := ports.getD (Config.freeNat (nth n 0) % ports.length) 0
    let mine := (l.filter (fun x => x.1 == p)).map (·.2)
    (s.pick p mine).map (fun t => (t, (s.passOver mine t).updCore (p / 5) (fun c =>
      if p % 5 = 4 then { c with lastFront := ((mine.find? (fun x => x.1 == t)).map (·.2.1.slot)).getD 0 } else c)))

/-! ## Fetch -/

/-- What a thread's fetch gives: the word, a page that is not there, or a refusal. -/
inductive Fetched
  | word (w : Word)
  | absent
  | prot
  deriving DecidableEq, Repr

/-- What a fetch reads at its home is a request there, and so is each entry of its walk (14 R367). -/
def State.fetchRead (s : State) (b : Block) (th : Thread) : State :=
  let s := s.walkRange b.die (clusterOf b.coreIx) b.desc th.pc.toNat 4
  match s.translateNow b.die (clusterOf b.coreIx) b.desc th.pc.toNat .fetch th.trap with
  | .hit k => (s.touch k).cacheLine k false
  | _ => s

/-- Instruction fetch at a thread's PC: `XP`, and `USR` outside privileged mode (11 R285, 15 R371). -/
def State.fetch (s : State) (b : Block) (th : Thread) : Fetched :=
  match s.translateNow b.die (clusterOf b.coreIx) b.desc th.pc.toNat .fetch th.trap with
  | .hit k => .word (BitVec.ofNat 32 (leNat (cread s.mem k 4)))
  | .prot => .prot
  | _ => .absent

/-- A fetch from a page that is not there: a class-R record, and the thread waits for the replay (15 R371, R377). -/
def State.fetchFault (s : State) (t : ThreadRef) (b : Block) (th : Thread) : State :=
  let s := s.ringPut b.die (s.record t 22 2 th.pc th.pc.toNat (if t.warp = 32 then 0 else th.exm) 0)
  s.setHold t (waiting (.fetchPage b.die b.desc.asid))

/-- A fetch that the page refuses: PAGE_PROTECTION, precise (15 R371). -/
def State.fetchRefused (s : State) (t : ThreadRef) (th : Thread) : State :=
  s.takeTrap t (s.record t 23 0 th.pc th.pc.toNat (if t.warp = 32 then 0 else th.exm) 0)

/-! ## Time -/

/-- The clock events of R370: every clock, a busy matrix array, a thread that waits in BORROW (log 13). -/
def State.countClocks (s : State) : State :=
  s.cores.foldl (fun s e =>
    let s := s.pmcCount e.1 0 1
    let s := if e.2.array.any (·.started) then s.pmcCount e.1 3 1 else s
    let borrows := s.blocks.any (fun x => x.2.home && x.2.coreIx == e.1 && x.2.threads.any (fun y =>
      (y.2.2.hold.map (fun h => match h.ins with
        | some (.borrow _ _ _ _ _) => true
        | _ => false)).getD false))
    if borrows then s.pmcCount e.1 7 1 else s) s

/-- Steps that the passing of time from `t` to `u` makes due: the mark of a new window (10 R260), the error interval of 2^20
ns (16 R395), dependence polls and park retries every 1,024 ns, and a gang that has waited 100 µs (12 R303, R306; 13
R338). -/
def State.timedSteps (s : State) (t u : Nat) : State :=
  let k := fld s.pkg.wlen 3 0
  let s := if t / 2 ^ 20 ≠ u / 2 ^ 20 then
      s.postAll (s.modErr.map (fun e => .errorInterval (if e.1 / 16 < 8 then .cd (e.1 / 16) else .md (e.1 / 16 - 8)) (e.1 % 16)))
    else s
  let s := if t / 1024 ≠ u / 1024 then
      let polls := ((List.range 8).filter (fun d => !((s.cd d).active.isEmpty && (s.cd d).bells.isEmpty))).map Event.dependencePoll
      let held := s.blocks.flatMap (fun x => (x.2.threads.filter (fun y =>
        (y.2.2.hold.map (fun h => h.wait == .parkRoom)).getD false)).map (fun y =>
          Event.parkRetry { blk := x.1, warp := y.1, armE := y.2.1 }))
      s.postAll (polls ++ held)
    else s
  let s := s.postAll ((s.gangs.filter (fun g => decide (t < g.2.since + 100000 ∧ g.2.since + 100000 ≤ u) && !g.2.hold)).map
    (fun g => Event.seniorGang g.1))
  if t / 2 ^ k ≠ u / 2 ^ k then s.post (.windowMark (u / 2 ^ k)) else s

/-- The time base moves forward by `n` ns (14 R364). -/
def State.advanceTime (s : State) (n : Nat) : State :=
  let t := s.pkg.timeNs
  let u := t + BitVec.ofNat 64 n
  (s.setPkg (fun p => { p with timeNs := u })).timedSteps t.toNat u.toNat

/-- What one step adds to the time base, in 10^-9 ns: 1 ns, corrected by `RATE` parts per billion (14 R364; log 13). -/
def Pkg.nanoStep (p : Pkg) : Nat := (10 ^ 9 + (BitVec.ofNat 16 (fld p.tbadj 47 32)).toInt).toNat

/-- The time base runs on by one step. -/
def State.runTime (s : State) : State :=
  let f := s.pkg.timeFrac + s.pkg.nanoStep
  (s.setPkg (fun p => { p with timeFrac := f % 10 ^ 9 })).advanceTime (f / 10 ^ 9)

/-- One step of time: the model's clock, and the time base once the package has started (14 R364; log 13). -/
def State.tick (s : State) : State :=
  let s := ({ s with clock := s.clock + 1, cur := none, due := none }.countClocks).stampReady
  if s.pkg.phase = .ready then s.runTime else s

end Sys2Proof.Machine
end

