-- ==== Sys2Proof/Machine/MaskOps.lean ====
section
/-!
DEFINITION. Machine/MaskOps.lean: mask registers and the execution mask (06 R136-R139).
-/
namespace Sys2Proof.Machine

/-- Kd := f(Ka, Kb) on the bits of the active lanes (R136). -/
def maskOp (i : Instr) (d a b : BitVec 3) (f : Word → Word → Word) (s : State) : Host.Outcome State Fault Refusal :=
  issue s i (plain .warp []) (fun c s => .done (s.setK c.t d.toNat c.act (f (c.w.kreg a.toNat) (c.w.kreg b.toNat))) [] .seq)

def execKand (d a b : BitVec 3) (s : State) : Host.Outcome State Fault Refusal :=
  maskOp (.kand d a b) d a b (fun x y => x &&& y) s
def execKor (d a b : BitVec 3) (s : State) : Host.Outcome State Fault Refusal :=
  maskOp (.kor d a b) d a b (fun x y => x ||| y) s
def execKxor (d a b : BitVec 3) (s : State) : Host.Outcome State Fault Refusal :=
  maskOp (.kxor d a b) d a b (fun x y => x ^^^ y) s
def execKandn (d a b : BitVec 3) (s : State) : Host.Outcome State Fault Refusal :=
  maskOp (.kandn d a b) d a b (fun x y => x &&& ~~~y) s
def execKnot (d a : BitVec 3) (s : State) : Host.Outcome State Fault Refusal :=
  maskOp (.knot d a) d a a (fun x _ => ~~~x) s
def execKmov (d a : BitVec 3) (s : State) : Host.Outcome State Fault Refusal :=
  maskOp (.kmov d a) d a a (fun x _ => x) s

/-- R136: bit l := 1 where A of lane l is not 0. -/
def execKset (d : BitVec 3) (a : BitVec 7) (s : State) : Host.Outcome State Fault Refusal :=
  issue s (.kset d a) (plain .warp [.src a.toNat]) (fun c s =>
    .done (s.setK c.t d.toNat c.act (maskWhere c.lanes (fun l => c.r32 a.toNat l != 0))) [] .seq)

/-- R136: all 32 bits. -/
def execKget (d : BitVec 7) (a : BitVec 3) (s : State) : Host.Outcome State Fault Refusal :=
  issueRegs s (.kget d a) (plain .warp [.dst d.toNat]) (fun c =>
    c.lanes.flatMap (fun l => c.w32 d.toNat l false (c.w.kreg a.toNat)))

/-- R136: register D + j := Kj. -/
def execKsave (d : BitVec 7) (s : State) : Host.Outcome State Fault Refusal :=
  issueRegs s (.ksave d) (plain .warp [.run d.toNat 8 true]) (fun c =>
    c.lanes.flatMap (fun l => (List.range 8).flatMap (fun j => c.w32 (d.toNat + j) l false (c.w.kreg j))))

/-- R136: Kj[l] := bit l of register A + j of lane l. -/
def execKrest (a : BitVec 7) (s : State) : Host.Outcome State Fault Refusal :=
  issue s (.krest a) (plain .warp [.run a.toNat 8 false]) (fun c s =>
    .done ((List.range 8).foldl (fun s j =>
      s.setK c.t j c.act (maskWhere c.lanes (fun l => lane (c.r32 (a.toNat + j) l) l))) s) [] .seq)

/-- R138. -/
def execExmget (d : BitVec 7) (s : State) : Host.Outcome State Fault Refusal :=
  issueRegs s (.exmget d) (plain .warp [.dst d.toNat]) (fun c => c.lanes.flatMap (fun l => c.w32 d.toNat l false c.th.exm))

/-- R138: refused where no lane of the path mask would be left. -/
def execExmset (a : BitVec 7) (s : State) : Host.Outcome State Fault Refusal :=
  issue s (.exmset a) (plain .warp [.src a.toNat]) (fun c s =>
    let v := c.r32 a.toNat c.low &&& c.th.path
    if v = 0 then .refuse 1 0 c.allLanes
    else .done (s.updThread c.t (fun th => { th with exm := v })) [] .seq)

end Sys2Proof.Machine
end

