-- ==== Sys2Proof/Machine/FlowOps.lean ====
section
/-!
DEFINITION. Machine/FlowOps.lean: branches, calls, the split of a warp, exits and YIELD (06 R142-R148, R155; 12 R313).
-/
namespace Sys2Proof.Machine

/-- A control-flow instruction: it ends lookahead windows (02 R42) and is refused in a predicate block (02 R47). -/
def flow (streams : Streams) (opds : List Opd) : Spec := { plain streams opds with ends := true, barred := true }

/-- A thread that has issued an instruction whose PC the instruction sets itself. -/
def State.cleared (s : State) (t : ThreadRef) : State :=
  s.updThread t (fun th => { th with hold := none, wins := [], pblk := none, wskip := false, wbUse := none })

/-- PC + 4 × a signed word offset (02 R34). -/
def target {n : Nat} (pc : BitVec 56) (off : BitVec n) : BitVec 56 := pc + 4 * off.signExtend 56

/-- A release side holds until the thread's earlier memory operations are performed (10 R254). -/
def releasing (c : Ctx) (s : State) (r : Res) : Res := if s.allPerformed c.t then r else .wait .performed c.stage s

/-! ## Jumps and calls (R147, R155) -/

def execBra (off : BitVec 25) (s : State) : Host.Outcome State Fault Refusal :=
  issue s (.bra off) (flow .both []) (fun c s => .done s [] (.jump (target c.th.pc off)))

/-- R155. -/
def execBru (d : BitVec 7) (cond : BitVec 2) (off : BitVec 16) (s : State) : Host.Outcome State Fault Refusal :=
  issue s (.bru d cond off) (flow .front [.src64 d.toNat]) (fun c s =>
    let v := c.r64 d.toNat 0
    let taken := match cond.toNat with
      | 0 => v == 0
      | 1 => v != 0
      | 2 => v.getLsbD 63
      | _ => !v.getLsbD 63
    .done s [] (if taken then .jump (target c.th.pc off) else .seq))

/-- R147: the call entry goes on the thread's own logical stack. -/
def execCall (off : BitVec 25) (s : State) : Host.Outcome State Fault Refusal :=
  issue s (.call off) (flow .both []) (fun c s =>
    if c.b.stackRoom c.t.warp 1 then
      .done (s.pushEntry c.t
        { kind := .call, log := c.b.logOf c.t, pc := c.th.pc + 4, mask := if c.front then 0 else c.th.exm,
          fmt := if c.front then 0 else c.th.fmt }) [] (.jump (target c.th.pc off))
    else .refuse 1 0 c.allLanes)

/-- R147: refused where the top entry is no call entry. -/
def execRet (s : State) : Host.Outcome State Fault Refusal :=
  issue s .ret (flow .both []) (fun c s =>
    match c.b.ownEntries c.t with
    | e :: _ =>
      if e.kind = .call then
        let s := s.popEntry c.t (c.b.logOf c.t)
        let s := if c.front then s else s.updThread c.t (fun th => { th with exm := e.mask &&& ~~~c.w.exited })
        .done s [] (.jump e.pc)
      else .refuse 1 0 c.allLanes
    | [] => .refuse 1 0 c.allLanes)

/-- R147: one target, from the lowest active lane. -/
def execJmpi (a : BitVec 7) (s : State) : Host.Outcome State Fault Refusal :=
  issue s (.jmpi a) (flow .both [.src64 a.toNat]) (fun c s =>
    let v := c.r64 a.toNat c.low
    if fld v 1 0 ≠ 0 ∨ fld v 63 56 ≠ 0 then .refuse 12 v.toNat c.allLanes
    else .done s [] (.jump (v.setWidth 56)))

def execNop (s : State) : Host.Outcome State Fault Refusal := issue s .nop (flow .both []) (fun _ s => .done s [] .seq)

/-! ## Divergence (R142) -/

/-- The two arms of a warp that splits, or the path that an arm takes first. -/
def diverge (c : Ctx) (s : State) (t rest : Word) (tgt rpc : BitVec 56) : Res :=
  let log := c.b.logOf c.t
  let top : StackEntry := { kind := .split, log := .warp, pc := rpc, mask := c.th.path, fmt := c.th.fmt }
  if log = .warp then
    if !c.b.stackRoom c.t.warp 1 then .refuse 1 0 c.allLanes
    else
      let s := (s.pushEntry c.t top).cleared c.t
      let s := s.updWarp c.t (fun w =>
        { w with split := true, since := s.fresh, t := { w.t with exm := t, path := t, readyAt := s.clock },
                 -- arm E waits for the writes that the whole warp still owes, as arm T does (02 R41, R42)
                 e := { w.t with exm := rest, path := rest, record := none, later := none, kept := none, live := true, passed := 0,
                                 readyAt := s.clock } })
      let s := s.goTo { c.t with armE := false } tgt
      .done (s.goTo { c.t with armE := true } (c.th.pc + 4)) [] .path
  else if !c.b.stackRoom c.t.warp 2 then .refuse 1 0 c.allLanes
  else
    let s := s.pushEntry c.t { top with kind := .reconverge, log := log }
    let s := s.pushEntry c.t { kind := .pending, log := log, pc := c.th.pc + 4, mask := rest, fmt := c.th.fmt }
    let s := (s.cleared c.t).updThread c.t (fun th => { th with exm := t, path := t })
    .done (s.goTo c.t tgt) [] .path

def execBrd (k : BitVec 3) (rec_ tgt : BitVec 11) (s : State) : Host.Outcome State Fault Refusal :=
  issue s (.brd k rec_ tgt) (flow .warp []) (fun c s =>
    let t := c.th.exm &&& c.w.kreg k.toNat
    if t = c.th.exm then .done s [] (.jump (target c.th.pc tgt))
    else if t = 0 then .done s [] .seq
    else if s.pkg.minimal then .refuse 1 0 c.allLanes
    else diverge c s t (c.th.exm &&& ~~~t) (target c.th.pc tgt) (target c.th.pc rec_))

/-- R146. -/
def execRcv (s : State) : Host.Outcome State Fault Refusal :=
  issue s .rcv (flow .warp []) (fun c s =>
    match c.b.curRec c.t with
    | some _ => .done ((s.cleared c.t).endPath c.t 200) [] .path
    | none => .refuse 1 0 c.allLanes)

/-! ## Exit (R148) -/

/-- Whether this EXIT ends the thread's owner: the front thread, or a warp's last lanes. -/
def lastExit (c : Ctx) : Bool := c.front || c.w.exited ||| c.th.path == 0xFFFF_FFFF

/-- A borrow or child of the owner through which an access is outstanding: it goes back after it (08 R204, R206, R211). -/
def busyBorrow (s : State) (c : Ctx) : Option Region :=
  (((c.b.unsetAside c.t.warp).regionsOf c.t.warp).find? (fun x => !x.2.splitp && s.busyEnd c.b x.2)).map (·.2)

/-- The wait that an exit of the whole owner takes: release side of its barriers (10 R252), the landings that a front thread's
arrival at cluster barrier 0 follows (14 R355, 09 R217), then its borrows. -/
def exitWait (s : State) (c : Ctx) : Option Wait :=
  if !lastExit c then none
  else if !s.allPerformed c.t then some .performed
  else if c.t.warp = 32 ∧ s.unlanded c.t.blk c.b then some .landed
  else (busyBorrow s c).map .through

def execExit (s : State) : Host.Outcome State Fault Refusal :=
  issue s .exit (flow .both []) (fun c s =>
    match exitWait s c with
    | some w => .wait w 0 s
    | none => .done ((s.cleared c.t).exitThread c.t) [] .path)

/-! ## YIELD (12 R313) -/

/-- The thread is not ready for 16 clocks. -/
def execYield (s : State) : Host.Outcome State Fault Refusal :=
  issue s .yield { plain .both [] with roles := [.vector], ends := true } (fun c s =>
    let s := (s.updThread c.t (fun th =>
      { th with hold := none, wins := [], pblk := nextPblk th.pblk, wskip := false, wbUse := none })).goTo c.t (c.th.pc + 4)
    .done (s.updThread c.t (fun th => { th with readyAt := s.clock + 17 })) [] .path)

end Sys2Proof.Machine
end

