-- ==== Sys2Proof/Machine/Launch.lean ====
section
/-!
DEFINITION. Machine/Launch.lean: launch queues and packets, and the placement of gangs (12 R297-R307, R314).
-/
namespace Sys2Proof.Machine

/-! ## Packets (R297, R298) -/

/-- The role entry `k` of a packet as a 64-bit word. -/
def roleWord (bs : List Byte) (k : Nat) : DWord := BitVec.ofNat 64 (recNum bs (48 + 8 * k) 8)

/-- Role of a role code, if it is one. -/
def roleOf (code : Nat) : Option Role :=
  match code with
  | 0 => some .matrix
  | 1 => some .copy
  | 2 => some .vector
  | _ => none

/-- Whether a role entry keeps its limits (R297). -/
def roleOk (e : DWord) : Bool :=
  if fld e 37 32 = 0 then e == 0
  else (roleOf (fld e 39 38)).isSome && decide (1 ≤ fld e 45 40 ∧ fld e 45 40 ≤ 32) && fld e 63 46 == 0 && fld e 1 0 == 0

/-- The warps that the role entries name, in warp order: role, registers, entry offset (R297). -/
def packetWarps (bs : List Byte) : List (Role × Nat × Nat) :=
  (List.range 4).flatMap (fun k =>
    let e := roleWord bs k
    match roleOf (fld e 39 38) with
    | some r => List.replicate (fld e 37 32) (r, 16 * fld e 45 40, fld e 31 0)
    | none => [])

/-- Four MATRIX warps, one in each quadrant, or none (01 R27). -/
def matrixOk (ws : List (Role × Nat × Nat)) : Bool :=
  let qs := ((List.range ws.length).zip ws).filterMap (fun x => if x.2.1 = .matrix then some (x.1 % 4) else none)
  qs.isEmpty || (qs.length == 4 && qs.dedup.length == 4)

/-- A virtual address field: 56 bits, a multiple of `m`. -/
def vaOk (v m : Nat) : Bool := v < 2 ^ 56 && v % m == 0

/-- The context descriptor at a physical address, where it keeps R298. -/
def State.ctxDesc (s : State) (die pa : Nat) : Option CtxDesc :=
  if pa % 64 ≠ 0 then none
  else
    match s.paKey die pa with
    | none => none
    | some k =>
      let bs := s.keyRead k 64
      let l4 := recNum bs 0 8
      let save := recNum bs 16 8
      let trap := recNum bs 24 8
      let rest := (bs.drop 11).take 5 ++ bs.drop 32
      if l4 % 2 ^ 14 ≠ 0 ∨ 2 ^ 52 ≤ l4 ∨ 2 ≤ recNum bs 10 1 ∨ !vaOk save (2 ^ 14) ∨ 2 ^ 56 ≤ trap ∨ rest.any (· != 0) then
        none
      else
        some { l4pa := l4, asid := BitVec.ofNat 16 (recNum bs 8 2), dbg := recNum bs 10 1 == 1, saveva := save,
               trapva := BitVec.ofNat 56 trap }

/-- The first packet field that breaks a check of R299, by its byte offset; R27 and the number of warps belong to no one
role entry, and `ROLE0` stands for them (log 20). -/
def State.packetBad (s : State) (die : Nat) (bs : List Byte) : Option Nat :=
  let n := fun o k => recNum bs o k
  let ws := packetWarps bs
  let badRole := ((List.range 4).find? (fun k => !roleOk (roleWord bs k))).map (fun k => 48 + 8 * k)
  let badWarps := if ws.length = 0 ∨ 32 < ws.length ∨ !matrixOk ws then some 48 else none
  let at_ := fun (o : Nat) (bad : Bool) => if bad then some o else none
  ([at_ 0 (!vaOk (n 0 8) 4), at_ 8 (!vaOk (n 8 8) 4), at_ 16 ((s.ctxDesc die (n 16 8)).isNone),
    at_ 24 (!vaOk (n 24 8) 128), at_ 32 (n 32 4 % 128 != 0 || (n 24 8 == 0) != (n 32 4 == 0)
      || (n 41 1 / 2 % 2 == 1 && n 32 4 < 128)),
    at_ 36 ((n 36 4 + 1) % (n 40 1 % 16 + 1) != 0), at_ 40 (16 ≤ n 40 1), at_ 41 (16 ≤ n 41 1),
    at_ 42 (!(s.partDies die).any (fun d => (n 42 1).testBit d)), at_ 43 (32 < n 43 1), at_ 44 (32 < n 44 1),
    at_ 45 (16 < n 45 1), at_ 46 (8 < n 46 1 % 16), at_ 47 (n 47 1 != 0), (badRole.map (fun r => min r (badWarps.getD r))).orElse
      (fun _ => badWarps), at_ 80 (n 80 4 % 128 != 0 || 2 ^ 19 < n 80 4),
    at_ 84 (n 84 4 % 256 != 0 || 2 ^ 17 < n 84 4 || n 80 4 < n 84 4), at_ 88 (n 88 8 >>> (8 * (n 46 1 % 16)) != 0),
    at_ 96 (!vaOk (n 96 8) 8), at_ 112 (!vaOk (n 112 8) 8)]).findSome? id

/-- The allotment class of a packet. -/
def packetAllot (bs : List Byte) : Allot :=
  let n := fun o k => recNum bs o k
  { dqd := n 43 1, tiles := n 44 1, bars := n 45 1, bobs := n 46 1 % 16, slots := n 46 1 / 16 + 1,
    quorum := (List.range (n 46 1 % 16)).map (fun i => (n (88 + i) 1 % 16 + 1, n (88 + i) 1 / 16 + 1)),
    roles := (packetWarps bs).map (fun w => (w.1, w.2.1)), scratch := n 80 4, xbytes := n 84 4 }

/-- A packet as the fetcher takes it from queue `q` of die `d`: the fields that a run pushes (12 R297; 23 R445). -/
def State.parsePacket (s : State) (d q pa : Nat) (bs : List Byte) : Packet :=
  let n := fun o k => recNum bs o k
  { pa := pa, queue := q, die := d,
    desc := (s.ctxDesc d (n 16 8)).getD { l4pa := 0, asid := 0, dbg := false, saveva := 0, trapva := 0 },
    frontImg := BitVec.ofNat 56 (n 0 8), warpImg := BitVec.ofNat 56 (n 8 8), entries := (packetWarps bs).map (·.2.2),
    argBase := n 24 8, argLen := n 32 4, gridM1 := n 36 4, clusz := n 40 1 % 16 + 1, coop := n 41 1 % 2 == 1,
    task := n 41 1 / 2 % 2 == 1, prio := n 41 1 / 4 % 4, dieMask := BitVec.ofNat 8 (n 42 1), allot := packetAllot bs,
    doneAddr := if (s.ctxDesc d (n 16 8)).isSome then n 112 8 else 0, next := 0, lastDie := d, placed := 0, ended := 0,
    ndone := 0, nkilled := false, taken := 0, owed := false }

/-! ## Queues (R301-R303) -/

/-- The memory key of a queue descriptor in a die's queue table, if the table has the queue. -/
def State.queueKey (s : State) (die q : Nat) : Option Nat :=
  let b := s.cdReg die 0x3D0
  if q ≤ fld b 11 0 then s.paKey die ((fld b 51 14 <<< 14) + 32 * q) else none

/-- A queue descriptor (R301). -/
structure QueueDesc where
  key  : Nat
  ring : Nat
  rsz  : Nat
  prio : Nat
  home : Nat
  en   : Bool
  head : Nat
  tail : Nat
  deriving DecidableEq, Repr

def State.queueDesc (s : State) (die q : Nat) : Option QueueDesc :=
  (s.queueKey die q).map (fun k =>
    { key := k, ring := s.numAt k 8 / 8 % 2 ^ 49 * 8, rsz := s.numAt (k + 8) 1 % 32, prio := s.numAt (k + 9) 1 % 4,
      home := s.numAt (k + 9) 1 / 4 % 8, en := 128 ≤ s.numAt (k + 9) 1, head := s.numAt (k + 12) 4,
      tail := s.numAt (k + 16) 4 })

/-- A doorbell, or a LAUNCH, makes a queue active, or puts it among those that wait for a place (R302, R303). -/
def State.ringBell (s : State) (die q : Nat) : State :=
  match s.queueDesc die q with
  | none => s
  | some d =>
    if !d.en ∨ d.home ≠ die then s
    else
      let c := s.cd die
      let s :=
        if c.active.contains q || c.bells.contains q then s
        else if c.active.length < 64 then s.updCd die (fun c => { c with active := c.active ++ [q] })
        else s.updCd die (fun c => { c with bells := c.bells ++ [q] })
      s.post (.packetFetch die)

/-- Queues with nothing left stop being active; waiting ones take their places (R303). -/
def State.trimActive (s : State) (die : Nat) : State :=
  s.updCd die (fun c =>
    let keep := c.active.filter (fun q => match s.queueDesc die q with
      | some d => d.en && d.home == die && d.head != d.tail
      | none => false)
    let n := 64 - keep.length
    { c with active := keep ++ c.bells.take n, bells := c.bells.drop n })

/-- How the head packet of a queue stands. -/
inductive Head
  | none
  | wait
  | page (va : Nat) (asid : BitVec 16)
  | ready (d : QueueDesc) (pa : Nat) (bs : List Byte) (bad : Option Nat)
  deriving DecidableEq, Repr

/-- Whether a packet of the queue still has blocks to place (R303). -/
def State.queueBusy (s : State) (die q : Nat) : Bool :=
  s.packets.any (fun x => x.2.die == die && x.2.queue == q && x.2.placed ≤ x.2.gridM1 && !x.2.owed)

/-- A page of the packet's images, of its arguments or of its completion counter that is not there: the fetcher waits for it (R298).
One that refuses the access is left to the access. -/
def State.headPage (s : State) (die : Nat) (p : Packet) : Option Nat :=
  ([(p.frontImg.toNat, Access.fetch), (p.warpImg.toNat, Access.fetch)] ++ (if p.argLen = 0 then [] else [(p.argBase, Access.read)])
      ++ (if p.doneAddr = 0 then [] else [(p.doneAddr, Access.atom)])).findSome? (fun x =>
    match s.unitKey die p.desc x.1 x.2 false with
    | .absent | .miss => some x.1
    | _ => none)

/-- The head of a queue: its packet is checked, and ready once its pages are there and its dependence counter has come (R298,
R299, R303). The fetcher reads the packet at its home: bytes that the launching thread still holds dirty are read with their old
values (R314; log 24). -/
def State.head (s : State) (die q : Nat) : Head :=
  match s.queueDesc die q with
  | none => .none
  | some d =>
    if d.head = d.tail ∨ !d.en then .none
    else if s.queueBusy die q ∨ (s.cd die).stuck.any (fun x => x.1 == q) then .wait
    else
      let at_ := d.ring + 8 * (d.head % 2 ^ d.rsz)
      let pa := match s.paKey die at_ with
        | some k => s.numAt k 8
        | none => 1
      -- what is held at its home for reserve is waited for (11 R291)
      if s.paHeld die at_ || s.paHeld die pa then .wait
      else
      match (if pa % 128 = 0 then s.paKey die pa else none) with
      | none => .ready d pa [] (some 0)
      | some k =>
        let bs := s.keyRead k 128
        if s.paHeld die (recNum bs 16 8) then .wait
        else
        match s.packetBad die bs with
        | some w => .ready d pa bs (some w)
        | none =>
          let dep := recNum bs 96 8
          let p := s.parsePacket die q pa bs
          let desc := p.desc
          match s.headPage die p with
          | some va => if s.unitHeld die desc va true then .wait else .page va desc.asid
          | none =>
          if dep = 0 then .ready d pa bs none
          else
            match s.unitKey die desc dep .read false with
            | .hit c => if recNum bs 104 8 ≤ s.numAt c 8 then .ready d pa bs none else .wait
            | .prot => .ready d pa bs (some 96)
            | _ => if s.unitHeld die desc dep true then .wait else .page dep desc.asid

/-! ## Fitting (R304, R305) -/

/-- What a resident block or pool slot takes of a core. -/
structure Occ where
  slot  : Nat
  scr   : Nat
  allot : Allot
  deriving DecidableEq, Repr

/-- Everything that holds an allotment on a core: blocks of grids, and the slots of placed pools. -/
def State.occupants (s : State) (core : Nat) : List Occ :=
  let isTask := fun (b : Block) => ((kget s.packets b.pkt).map (·.task)).getD false
  (s.blocks.filterMap (fun x =>
      if x.2.home && x.2.coreIx == core && !isTask x.2 then some { slot := x.2.slot, scr := x.2.scrBase, allot := x.2.allot }
      else none))
    ++ s.pools.flatMap (fun x =>
      if x.2.placed then
        x.2.slots.filterMap (fun y => if y.1 = core then some { slot := y.2.1, scr := y.2.2, allot := x.2.allot } else none)
      else [])

/-- The lowest-addressed free scratch run of `n` bytes. -/
def scratchRun (occ : List Occ) (n : Nat) : Option Nat :=
  let starts := (0 :: occ.map (fun o => o.scr + o.allot.scratch)).mergeSort (· ≤ ·)
  starts.find? (fun a => a + n ≤ 2 ^ 19 &&
    occ.all (fun o => n == 0 || o.allot.scratch == 0 || a + n ≤ o.scr || o.scr + o.allot.scratch ≤ a))

def sumBy {α : Type} (l : List α) (f : α → Nat) : Nat := (l.map f).foldl (· + ·) 0

/-- Warps and registers of an allotment in a quadrant (01 R21, 04 R81). -/
def quadWarps (a : Allot) (q : Nat) : List Nat :=
  ((List.range a.roles.length).zip a.roles).filterMap (fun x => if x.1 % 4 = q then some x.2.2 else none)

/-- Block slot and scratch base that an allotment gets on a core, if it fits (R304). -/
def fitCore (occ : List Occ) (a : Allot) : Option (Nat × Nat) :=
  let all := a :: occ.map (·.allot)
  if occ.length < 16
      ∧ (List.range 4).all (fun q => sumBy all (fun x => (quadWarps x q).length) ≤ 16
          && sumBy all (fun x => (quadWarps x q).foldl (· + ·) 0) ≤ 1024)
      ∧ sumBy all (·.tiles) ≤ 32 ∧ sumBy all (·.bobs) ≤ 64 ∧ sumBy all (·.dqd) ≤ 256 then
    (scratchRun occ a.scratch).bind (fun scr =>
      ((List.range 16).find? (fun j => occ.all (fun o => o.slot != j))).map (fun j => (j, scr)))
  else none

/-- Places `n` blocks in order, each on the first core that fits; `extra` are blocks planned before. -/
def planCores (occ : Nat → List Occ) (cores : List Nat) (a : Allot) :
    Nat → KMap (List Occ) → List (Nat × Nat × Nat) → Option (List (Nat × Nat × Nat) × KMap (List Occ))
  | 0, extra, acc => some (acc.reverse, extra)
  | n + 1, extra, acc =>
    let have_ := fun c => occ c ++ (kget extra c).getD []
    match cores.findSome? (fun c => (fitCore (have_ c) a).map (fun x => (c, x))) with
    | some (c, slot, scr) =>
      planCores occ cores a n (kset extra c ((kget extra c).getD [] ++ [{ slot := slot, scr := scr, allot := a }]))
        ((c, slot, scr) :: acc)
    | none => none

/-- The dies of a packet in the order of R305: allowed ones, from `first` upward and round. -/
def State.dieOrder (s : State) (p : Packet) (first : Nat) : List Nat :=
  ((List.range 8).map (fun i => (first + i) % 8)).filter (fun d => p.dieMask.getLsbD d && (s.partDies p.die).contains d)

/-- Cores of a die that a gang may use: all, or the eight of each hardware cluster in turn (01 R15). -/
def coreGroups (die : Nat) (pool : Bool) : List (List Nat) :=
  if pool then [(List.range 128).map (128 * die + ·)]
  else (List.range 16).map (fun h => (List.range 8).map (fun i => 128 * die + 8 * h + i))

/-- The first allowed die and hardware cluster that hold `n` blocks at once. -/
def State.planGang (s : State) (p : Packet) (occ : Nat → List Occ) (bar : Nat → Bool) (first n : Nat)
    (extra : KMap (List Occ)) : Option (List (Nat × Nat × Nat) × KMap (List Occ)) :=
  ((s.dieOrder p first).flatMap (fun d => coreGroups d p.task)).findSome? (fun cores =>
    planCores occ (cores.filter (fun c => !bar c)) p.allot n extra [])

/-- Every cluster of a co-operative grid, each where R305 puts it after the one before. -/
def State.planGrid (s : State) (p : Packet) (occ : Nat → List Occ) (bar : Nat → Bool) :
    Nat → Nat → KMap (List Occ) → List (Nat × Nat × Nat) → Option (List (Nat × Nat × Nat))
  | 0, _, _, acc => some acc
  | k + 1, first, extra, acc =>
    match s.planGang p occ bar first p.clusz extra with
    | some (l, extra) =>
      s.planGrid p occ bar k (((l.head?).map (fun x => x.1 / 128 + 1)).getD first) extra (acc ++ l)
    | none => none

/-- Where the next gang of a packet goes: a pool whole, a co-operative grid whole, else one cluster or block; a lone block goes to core
0 of its die (12 R304, R305; 23 R445). -/
def State.planNext (s : State) (p : Packet) (occ : Nat → List Occ) (bar : Nat → Bool) : Option (List (Nat × Nat × Nat)) :=
  if p.task then (s.planGang p occ bar p.lastDie (p.gridM1 + 1) []).map (·.1)
  else if p.coop then s.planGrid p occ bar ((p.gridM1 + 1) / p.clusz) p.lastDie [] []
  else (s.planGang p occ bar p.lastDie p.clusz []).map (·.1)

/-- A packet whose gangs can never be placed (R299; 01 R24; 16 R412). -/
def State.packetOver (s : State) (p : Packet) : Bool :=
  let c := s.cdReg p.die 0x300
  decide (fld c 42 38 < p.allot.bars) || decide (fld c 37 34 < p.allot.bobs)
    || (p.coop && decide (16384 ≤ p.gridM1)) || (p.task && decide (2048 ≤ p.gridM1))
    || (s.planNext p (fun _ => []) (fun _ => false)).isNone

/-! ## Taking packets -/

/-- The fetcher takes the head packet of a queue: HEAD + 1; a packet that fails its checks ends at once (R299, R300). -/
def State.takePacket (s : State) (die q : Nat) (d : QueueDesc) (pa : Nat) (bs : List Byte) (bad : Option Nat) : State :=
  let s := s.keyWrite (d.key + 12) (leBytes 4 (d.head + 1))
  let s := s.updCd die (fun c => { c with active := c.active.filter (· != q) ++ [q] })
  if bs.isEmpty then s
  else
    let (n, s) := s.takeFresh
    let p := { s.parsePacket die q pa bs with taken := n }
    -- what the fetcher has read and translated reaches its homes (14 R367)
    let s := ((s.unitReadsPa die (d.ring + 8 * (d.head % 2 ^ d.rsz)) 8).unitReadsPa die pa 128).unitReadsPa die (recNum bs 16 8) 64
    let s := (s.walkRange die (16 * die) p.desc p.frontImg.toNat 4).walkRange die (16 * die) p.desc p.warpImg.toNat 4
    let dep := recNum bs 96 8
    let s := if dep = 0 then s else s.unitReads die p.desc dep 8
    let s := { s with packets := kset s.packets n p }
    match bad with
    | some w => s.packetEnd n 3 w 0
    | none =>
      if s.packetOver p then s.packetEnd n 2 0 0
      else
        let bars := fun k => List.replicate k (Barrier.fresh (if p.coop then List.range (p.gridM1 + 1) else []))
        let (g, s) := s.takeFresh
        let s := { s with gangs := kset s.gangs g { pkt := n, blocks := [], hold := false, senior := none, target := none,
                                                    stuck := false, since := s.pkg.timeNs.toNat }
                          grBars := if p.coop then kset s.grBars n (bars 2) else s.grBars }
        s.post .gangPlacement

/-- Active queues in the order of service: the highest priority first, then round robin (R303). -/
def State.serviceOrder (s : State) (die : Nat) : List Nat :=
  (s.cd die).active.mergeSort (fun a b =>
    (((s.queueDesc die a).map (·.prio)).getD 4) ≤ (((s.queueDesc die b).map (·.prio)).getD 4))

/-- One packet taken by a fetcher, with the pages that head packets wait for reported. -/
def State.fetchPacket (s : State) (die : Nat) : State :=
  if (s.cd die).quiet ∨ s.pkg.phase ≠ .ready then s
  else
    let s := s.trimActive die
    let heads := (s.serviceOrder die).map (fun q => (q, s.head die q))
    let s := heads.foldl (fun s x => match x.2 with
      | .page va asid =>
        (s.updCd die (fun c => { c with stuck := c.stuck ++ [(x.1, asid)] })).ringPut die
          (s.unitRecord die 22 2 va (6 * 4096 + die * 256) 0)
      | _ => s) s
    match heads.find? (fun x => match x.2 with
      | .ready _ _ _ _ => true
      | _ => false) with
    | some (q, .ready d pa bs bad) => (s.takePacket die q d pa bs bad).post (.packetFetch die)
    | _ => s

/-- PACKET_FETCH: the fetcher looks at the heads of its active queues and takes one packet (R299, R303). -/
def execPacketFetch (s : State) : Host.Outcome State Fault Refusal :=
  match s.due with
  | some (.packetFetch die) => .next (s.fetchPacket die)
  | _ => .next s

/-- DEPENDENCE_POLL: the fetcher reads the dependence counters of its head packets again (R303). -/
def execDependencePoll (s : State) : Host.Outcome State Fault Refusal :=
  match s.due with
  | some (.dependencePoll die) =>
    .next (if (s.cd die).active.isEmpty && (s.cd die).bells.isEmpty then s else s.fetchPacket die)
  | _ => .next s

/-- LQBELL: a doorbell marks a queue as having work (R302). -/
def execLqbell (s : State) : Host.Outcome State Fault Refusal :=
  match s.due with
  | some (.lqbell die q) => .next (s.ringBell die q)
  | _ => .next s

/-! ## LAUNCH (R314) -/

/-- The push that a home fetcher performs: 0 ACCEPTED, 1 FULL, 2 NO_QUEUE. A ring entry at an address with no target: the spec is
silent, and the model answers NO_QUEUE (log 81). -/
def State.pushPacket (s : State) (die q pa : Nat) : Nat × State :=
  match s.queueDesc die q with
  | none => (2, s)
  | some d =>
    if !d.en then (2, s)
    else if (d.tail + 2 ^ 32 - d.head) % 2 ^ 32 = 2 ^ d.rsz then (1, s)
    else
      match s.paKey die (d.ring + 8 * (d.tail % 2 ^ d.rsz)) with
      | none => (2, s)
      | some k =>
        let s := s.keyWrite k (leBytes 8 pa)
        let s := s.keyWrite (d.key + 16) (leBytes 4 (d.tail + 1))
        (0, s.ringBell die q)

end Sys2Proof.Machine
end

