-- ==== Sys2Proof/Machine/BorrowOps.lean ====
section
/-!
DEFINITION. Machine/BorrowOps.lean: the borrow instructions (08 R197-R209) and the borrow of B1 (R189).
-/
namespace Sys2Proof.Machine

/-- Die-shared bytes of a die (01 R16, 09 R215). -/
def State.sharedSize (s : State) (die : Nat) : Nat := s.eighths die * 192 * 1024 * 128

/-- A borrow instruction (R197, 01 R26). -/
def borrowing (opds : List Opd) : Spec := { plain .both opds with roles := [.vector] }

/-- The result of a status operand (R198). -/
def Ctx.status (c : Ctx) (b : BitVec 7) (v : Nat) : List RegWrite := c.wItem b.toNat 0 (BitVec.ofNat 64 v)

/-! ## BORROW -/

/-- Access of R200 that every page of the range must allow. -/
def kindAccess (kind : Nat) : Access := if kind = 2 then .read else if kind = 3 then .write else .atom

/-- A table entry for a request. -/
def newEntry (c : Block) (blk kind space base len order : Nat) (tr : Bool) (ps : List Piece) (u : EntryUser) : DieEntry :=
  { kind := kind, state := .requesting, wp := false, taint := false, space := space, proxy := false, base := base / 128,
    lenm1 := len / 128 - 1, lcount := 0, ctx := c.ctx.toNat, core := c.coreIx, blk := blk, pieces := ps, plist := 0,
    back := 0, try_ := tr, user := u, order := order, status := 0, want := 0, stamp := 0 }

/-- Limit of a space's addresses (R200). -/
def State.spaceLimit (s : State) (b : Block) (space : Nat) : Nat :=
  match space with
  | 0 => 2 ^ 56
  | 1 => s.sharedSize b.die
  | 2 => b.allot.scratch
  | _ => b.allot.xbytes / 2

/-- A borrow in scratch, exchange or die-shared space: granted at once, refused under `.TRY`, or queued (R193, R194). -/
def borrowLocal (c : Ctx) (s : State) (d : BitVec 5) (b : BitVec 7) (kind space base len : Nat) (tr : Bool) : Res :=
  let m := s.localTab c.b.coreIx space
  let (order, s) := s.takeFresh
  let (f, s) := s.takeFree
  let core := c.b.coreIx
  match (if s.roomFor core space c.t then kfree m (Config.freeNat (nth f 0)) (tableSize space) else none) with
  | none => if tr then .done s (c.status b 2) .seq else .wait (.tableRoom space) 0 (s.waitRoom core space c.t)
  | some ix =>
    let s := s.leaveRoom core space c.t
    let e := newEntry c.b c.t.blk kind space base len order tr [] (.thread c.t d.toNat)
    if localFree m e then
      let s := (s.updLocal c.b.coreIx space (fun m => kset m ix e)).localHold c.b.coreIx space ix
      .done s (c.status b (if localTaint m e then 3 else 0)) .seq
    else if tr then .done s (c.status b 1) .seq
    else
      .wait (.borrow ix) 1 ((s.updLocal c.b.coreIx space (fun m => kset m ix e)).localPending c.b.coreIx space e)

/-- Pieces of a translated range, in the order of R272. -/
def State.piecesOf (s : State) (die : Nat) (segs : List (Nat × Nat × Nat)) : List Piece :=
  s.sortPieces (mergeSegs (s.granule die) segs [])

/-- A request is no longer queued at a die, or waits behind the proxy of a request (R274). -/
def State.unqueue (s : State) (die : Nat) (t : ThreadRef) : State :=
  (s.leaveRoom (128 * die) 0 t).updCd die (fun x => { x with queued := x.queued.filter (fun q => q.2 != t) })
def State.queueBehind (s : State) (die o : Nat) (t : ThreadRef) : State :=
  if (s.cd die).queued.contains (o, t) then s
  else (s.unqueue die t).updCd die (fun x => { x with queued := x.queued ++ [(o, t)] })

/-- A borrow of a global range: translated whole, then joined to a proxy, queued, or asked of the homes (R200, 11 R272,
R274). -/
def borrowGlobal (c : Ctx) (s : State) (d : BitVec 5) (b : BitVec 7) (kind base len : Nat) (tr : Bool) : Res :=
  let die := c.b.die
  match s.rangeSegs die (clusterOf c.b.coreIx) c.b.desc (kindAccess kind) c.priv (len / 2 ^ 14 + 2) base len [] none with
  | .absent va =>
    .wait (.page die c.b.desc.asid) 0 (s.ringPut die (s.record c.t 22 2 c.th.pc va c.allLanes 0))
  | .prot va => .refuse 23 va c.allLanes
  | .ok segs =>
    let ps := s.piecesOf die segs
    if 65535 < ps.length then .refuse 10 base c.allLanes
    else if !ps.all (fun p => s.homeReach die p.home) then
      let seam := (ps.filter (fun p => p.home != 16)).head?.map (fun p => route (.cd die) (s.homeDie die p.home))
      .done (s.countSeam die (seam.getD [])) (c.status b 4) .seq
    else
      let (order, s) := (s.walkRange die (clusterOf c.b.coreIx) c.b.desc base len).takeFresh
      let e := newEntry c.b c.t.blk kind 0 base len order tr ps (.thread c.t d.toNat)
      match s.askGlobal die e c.t with
      | (.proxy ix, s) =>
        let taint := ((s.entry die ix).map (·.taint)).getD false
        .done (((s.unqueue die c.t).l1Drop c.b.coreIx ix).setRegion c.t d.toNat (grantedRegion { e with taint := taint } ix))
          (c.status b (if taint then 3 else 0)) .seq
      | (.behind o, s) =>
        if tr then .done s (c.status b 1) .seq else .wait (.behind o) 0 (s.queueBehind die o c.t)
      | (.full, s) =>
        if tr then .done s (c.status b 2) .seq else .wait (.tableRoom 0) 0 (s.waitRoom c.b.coreIx 0 c.t)
      | (.entry ix, s) => .wait (.borrow ix) 1 (s.unqueue die c.t)

/-- The refusals of R200 before any request: code and `ADDR`. -/
def borrowRefusal (s : State) (c : Ctx) (d : BitVec 5) (kind : Nat) (av bv : DWord) : Option (Nat × Nat) :=
  let base := fld av 55 0
  let len := fld bv 41 0
  let sp := fld bv 63 62
  if fld av 63 56 ≠ 0 ∨ fld bv 61 42 ≠ 0 ∨ base % 128 ≠ 0 ∨ len % 128 ≠ 0 ∨ len = 0 ∨ 2 ^ 41 < len
      ∨ s.spaceLimit c.b sp < base + len then some (10, av.toNat)
  else if (c.b.region c.t.warp d.toNat).kind ≠ 0 then some (9, 0)
  else if (kind = 3 ∨ kind = 4) ∧ 2 ≤ sp then some (9, 0)
  else none

/-- BORROW.k. `k` counts E, S, A, Y from 0. -/
def execBorrow (d : BitVec 5) (a b : BitVec 7) (tr : BitVec 1) (k : BitVec 2) (s : State) :
    Host.Outcome State Fault Refusal :=
  issue s (.borrow d a b tr k)
    (borrowing [.region d.toNat, .items a.toNat 1 false, .items b.toNat 1 false, .items b.toNat 1 true]) (fun c s =>
    if c.stage = 1 then .done s (c.status b ((c.answer.bind (·.head?)).getD 4).toNat) .seq
    else
      let av := c.item a.toNat 0
      let bv := c.item b.toNat 0
      let kind := k.toNat + 1
      match borrowRefusal s c d kind av bv with
      | some (code, addr) => .refuse code addr c.allLanes
      | none =>
        if fld bv 63 62 = 0 then borrowGlobal c s d b kind (fld av 55 0) (fld bv 41 0) (tr == 1)
        else borrowLocal c s d b kind (fld bv 63 62) (fld av 55 0) (fld bv 41 0) (tr == 1))

/-- The borrow of B1 is asked for as a waiting BORROW.S of the block (R189): its block starts once it is settled. What
stands against it is reported to the ring; a page that is not there, a full table or a pending writer is waited for. A block whose
die is asking the homes for the range already is asked for once that is answered, so that the blocks of a gang come to hold one
proxy (R195; 21 R439; log 89). -/
def State.askArgs (s : State) (bk : Nat) (argBase argLen : Nat) : State :=
  match s.blk? bk with
  | none => s
  | some b =>
    let start := fun (s : State) => (s.begin bk).updBlk bk (fun b => { b with argReq := true })
    let asked := fun (s : State) => s.updBlk bk (fun b => { b with argReq := true })
    let fail := fun (s : State) (code : Nat) =>
      start (s.ringPut b.die { s.unitRecord b.die code 3 argBase (6 * 4096 + b.die * 256) b.ctx with
        core := b.core, blockIx := b.blockIx })
    if argBase = 0 then start s
    else
      match s.rangeSegs b.die (clusterOf b.coreIx) b.desc .read false (argLen / 2 ^ 14 + 2) argBase argLen [] none with
      | .absent va => asked (s.ringPut b.die (s.unitRecord b.die 22 2 va (6 * 4096 + b.die * 256) b.ctx))
      | .prot _ => fail s 23
      | .ok segs =>
        let ps := s.piecesOf b.die segs
        if 65535 < ps.length then fail s 10
        else if !ps.all (fun p => s.homeReach b.die p.home) then fail s 11
        else if (s.cd b.die).entries.any (fun x => x.2.state == .requesting && x.2.kind == 2 && x.2.space == 0
            && covers x.2.pieces ps) then s
        else
          let (order, s) := (s.walkRange b.die (clusterOf b.coreIx) b.desc argBase argLen).takeFresh
          let e := newEntry b bk 2 0 argBase argLen order false ps (.args bk)
          match s.askGlobal b.die e (argsRef bk) with
          | (.proxy ix, s) =>
            let taint := ((s.entry b.die ix).map (·.taint)).getD false
            start (((s.unqueue b.die (argsRef bk)).l1Drop b.coreIx ix).updBlk bk (fun b => b.setRegion 32 1 (grantedRegion { e with taint := taint } ix)))
          | (.entry _, s) => asked (s.unqueue b.die (argsRef bk))
          | (.behind o, s) => s.queueBehind b.die o (argsRef bk)
          | (.full, s) => s.waitRoom b.coreIx 0 (argsRef bk)

/-! ## REBORROW -/

/-- The refusals of R201. -/
def reborrowRefusal (g : Region) : Option Nat :=
  if g.kind = 0 then some 7
  else if g.splitp then some 8
  else if g.hasParent ∨ g.kind = 3 ∨ g.kind = 4 then some 9
  else if g.lost then some 11
  else none

/-- `ADDR` of a refusal that a register causes: the base of the region for OWNERSHIP_LOST (15 R371). -/
def lostAddr (g : Region) (code : Nat) : Nat := if code = 11 then 128 * g.base.toNat else 0

/-- The region that an instruction found at its issue, kept in its wait (R201, R204, R206). -/
def Ctx.givenUp (c : Ctx) : Region :=
  match c.th.hold with
  | some h => (match h.wait with
    | .through g => g
    | _ => Region.empty)
  | none => Region.empty

/-- Begins the conversion of a global entry, piece by piece (R201). -/
def State.convert (s : State) (die ix : Nat) (want : Nat) (t : ThreadRef) (r : Nat) : State :=
  let s := s.updEntry die ix (fun e =>
    { e with want := want, user := .thread t r, pieces := e.pieces.map (fun p => { p with granted := false }) })
  match ((s.entry die ix).map (·.pieces)).bind (·.head?) with
  | some p => s.toHome die p 1 0 want ix 0
  | none => s

/-- A local arbiter converts an entry: the entry's kind, and that of the register that names it. The E requests that wait for a borrow
that comes down to S are pending from then on (R194). -/
def State.convertLocal (s : State) (c : Ctx) (g : Region) (kind : Nat) : State :=
  let sp := g.space.toNat
  let set := fun (g : Region) => { g with kind := BitVec.ofNat 3 kind, wpseen := g.wpseen && kind != 1 }
  let s := s.updLocal c.b.coreIx sp (fun m => kupd m g.tag (fun e => { e with kind := kind, wp := e.wp && kind != 1 }))
  let s := if sp = 1 then s.mapSlot c.b.die g.tag set else s.mapScratchSlot c.t.blk g.tag set
  (s.localNotice c.b.coreIx sp g.tag).localGrants c.b.coreIx sp

/-- Whether the entry of a register that a REBORROW.S found as E still is the block's E borrow. -/
def State.stillE (s : State) (c : Ctx) (g : Region) : Bool :=
  (kget (s.localTab c.b.coreIx (max 1 g.space.toNat)) g.tag).any (fun e => e.state == .held && e.kind == 1 && e.blk == c.t.blk)

/-- Whether an S borrow of local space is the only one of its bytes, with no writer pending. -/
def State.soleLocal (s : State) (core : Nat) (g : Region) : Bool :=
  let m := s.localTab core g.space.toNat
  match kget m g.tag with
  | some e => !e.wp && m.all (fun x => x.1 == g.tag || !localClash x.2 e || x.2.state == .taintmark || x.2.state == .requesting)
  | none => false

/-- REBORROW.S: the accesses through the register complete, dirty lines go down, and the arbiter converts. A borrow that the other
arm returns during the wait is not converted any more, and the status is GRANTED (log 88). -/
def execReborrowS (d : BitVec 5) (b : BitVec 7) (s : State) : Host.Outcome State Fault Refusal :=
  issue s (.reborrowS d b) (borrowing [.region d.toNat, .items b.toNat 1 true]) (fun c s =>
    let g := if c.stage = 0 then c.b.region c.t.warp d.toNat else c.givenUp
    if c.stage = 2 then .done s (c.status b ((c.answer.bind (·.head?)).getD 4).toNat) .seq
    else
      match (if c.stage = 0 then reborrowRefusal g else none) with
      | some code => .refuse code (lostAddr g code) c.allLanes
      | none =>
        if g.kind = 2 then .done s (c.status b 0) .seq
        else if s.busyRange c.b g ∨ !s.opsPerformed c.t then .wait (.through g) 1 s
        else if !s.stillE c g then .done s (c.status b 0) .seq
        else
          let s := s.returnCaches c.b.coreIx g.tag g
          if g.space = 0 then .wait (.convert g.tag d.toNat) 2 (s.convert c.b.die g.tag 5 c.t d.toNat)
          else .done (s.convertLocal c g 2) (c.status b 0) .seq)

/-- REBORROW.E: a sole S holder with no writer pending becomes E, else BUSY. -/
def execReborrowE (d : BitVec 5) (b : BitVec 7) (s : State) : Host.Outcome State Fault Refusal :=
  issue s (.reborrowE d b) (borrowing [.region d.toNat, .items b.toNat 1 true]) (fun c s =>
    let g := c.b.region c.t.warp d.toNat
    if c.stage = 2 then .done s (c.status b ((c.answer.bind (·.head?)).getD 4).toNat) .seq
    else
      match reborrowRefusal g with
      | some code => .refuse code (lostAddr g code) c.allLanes
      | none =>
        if g.kind = 1 then .done s (c.status b 0) .seq
        else if g.space = 0 then
          match s.entry c.b.die g.tag with
          | some e =>
            if e.wp ∨ (e.proxy ∧ e.lcount ≠ 1) then .done s (c.status b 1) .seq
            else .wait (.convert g.tag d.toNat) 2 (s.convert c.b.die g.tag 6 c.t d.toNat)
          | none => .done s (c.status b 1) .seq
        else if s.soleLocal c.b.coreIx g then .done (s.convertLocal c g 1) (c.status b 0) .seq
        else .done s (c.status b 1) .seq)

/-! ## SPLIT and SHARE -/

/-- The owner that a target byte names, if it may receive (R202). -/
def targetOk (c : Ctx) (d a : BitVec 5) (byte : Nat) : Bool :=
  (byte ≤ 32) && (if byte = 32 then decide (d.toNat ≤ 15)
                  else decide (byte < c.b.warps.length) && !c.b.ownerGone byte)
    && !(byte == c.t.warp && d == a) && (c.b.region byte d.toNat).kind == 0

/-- Byte `i` of an item. -/
def byteOf (v : DWord) (i : Nat) : Nat := fld v (8 * i + 7) (8 * i)

/-- The children of a split or share: targets with their ranges (start and length in 128-byte units). A share's children take
every field of Ra (R203); a split's take those that R202 lists, and `WPSEEN` and `LOST` 0. -/
def State.handOut (s : State) (c : Ctx) (d a : BitVec 5) (g : Region) (share : Bool) (kids : List (Nat × Nat × Nat)) : State :=
  let s := ((List.range kids.length).zip kids).foldl (fun s x =>
    s.updBlk c.t.blk (fun b => b.setRegion x.2.1 d.toNat
      { g with splitp := false, nsplit := 0, wpseen := share && g.wpseen, lost := share && g.lost, child := BitVec.ofNat 3 x.1, parent := parentOf c.t.warp a.toNat,
               base := g.base + BitVec.ofNat 49 x.2.2.1, lenm1 := BitVec.ofNat 34 (x.2.2.2 - 1) })) s
  s.setRegion c.t a.toNat { g with splitp := true, nsplit := BitVec.ofNat 4 kids.length }

/-- Cut points of a split in 128-byte units, the ends included; none where they are out of order or range. -/
def cutPoints (c : Ctx) (b : BitVec 7) (eq : Bool) (n units : Nat) : Option (List Nat) :=
  if eq then (if units % n = 0 then some ((List.range (n + 1)).map (fun i => i * (units / n))) else none)
  else
    let cs := (List.range (n - 1)).map (fun i => (c.item b.toNat (i + 1)).toNat)
    let all := 0 :: cs.map (· / 128) ++ [units]
    if cs.all (fun x => x % 128 == 0) && (all.zip (all.drop 1)).all (fun x => decide (x.1 < x.2)) then some all else none

/-- SPLIT.n: cuts the borrow into n children and hands them out (R202). -/
def execSplit (d a : BitVec 5) (b : BitVec 7) (eq : BitVec 1) (n : BitVec 3) (s : State) :
    Host.Outcome State Fault Refusal :=
  let k := n.toNat + 1
  issue s (.split d a b eq n)
    (borrowing [.region d.toNat, .region a.toNat, .items b.toNat (if eq = 1 then 1 else k) false]) (fun c s =>
    let g := c.b.region c.t.warp a.toNat
    let ts := (List.range k).map (byteOf (c.item b.toNat 0))
    if g.kind = 0 then .refuse 7 0 c.allLanes
    else if g.splitp then .refuse 8 0 c.allLanes
    else if g.kind = 4 ∨ !ts.all (targetOk c d a) ∨ ts.dedup.length ≠ k then .refuse 9 0 c.allLanes
    else
      match cutPoints c b (eq == 1) k (g.lenm1.toNat + 1) with
      | none => .refuse 10 (128 * g.base.toNat) c.allLanes
      | some cs =>
        if s.busyL1 c.b g then .wait (.through g) 0 s
        else .done (s.handOut c d a g false ((ts.zip (cs.zip (cs.drop 1))).map (fun x => (x.1, x.2.1, x.2.2 - x.2.1)))) [] .seq)

/-- Targets of a SHARE: up to the first byte 0xFF (R203). -/
def shareTargets (v : DWord) : List Nat := ((List.range 8).map (byteOf v)).takeWhile (fun x => x != 255)

/-- SHARE: hands copies of an S borrow to up to 8 targets (R203). -/
def execShare (d a : BitVec 5) (b : BitVec 7) (s : State) : Host.Outcome State Fault Refusal :=
  issue s (.share d a b) (borrowing [.region d.toNat, .region a.toNat, .items b.toNat 1 false]) (fun c s =>
    let g := c.b.region c.t.warp a.toNat
    let ts := shareTargets (c.item b.toNat 0)
    if g.kind = 0 then .refuse 7 0 c.allLanes
    else if g.splitp then .refuse 8 0 c.allLanes
    else if g.kind ≠ 2 ∨ !ts.all (targetOk c d a) ∨ ts.dedup.length ≠ ts.length then .refuse 9 0 c.allLanes
    else if ts.isEmpty then .refuse 10 (128 * g.base.toNat) c.allLanes
    else if s.busyL1 c.b g then .wait (.through g) 0 s
    else .done (s.handOut c d a g true (ts.map (fun x => (x, 0, g.lenm1.toNat + 1)))) [] .seq)

/-! ## GIVE, JOIN and RETURN -/

/-- GIVE: the child's register is emptied at issue; the parent's count falls once its accesses are complete (R204). -/
def execGive (a : BitVec 5) (s : State) : Host.Outcome State Fault Refusal :=
  issue s (.give a) (borrowing [.region a.toNat]) (fun c s =>
    if c.stage = 1 then .done (s.giveBack c.t.blk c.givenUp) [] .seq
    else
      let g := c.b.region c.t.warp a.toNat
      if g.kind = 0 then .refuse 7 0 c.allLanes
      else if g.splitp then .refuse 8 0 c.allLanes
      else if !g.hasParent then .refuse 9 0 c.allLanes
      else
        let s := s.setRegion c.t a.toNat Region.empty
        if s.busyL1 c.b g ∨ !s.opsPerformed c.t then .wait (.through g) 1 s
        else .done (s.giveBack c.t.blk g) [] .seq)

/-- JOIN: waits until every child is back (R205). -/
def execJoin (a : BitVec 5) (s : State) : Host.Outcome State Fault Refusal :=
  issue s (.join a) (borrowing [.region a.toNat]) (fun c s =>
    let g := c.b.region c.t.warp a.toNat
    if g.kind = 0 then .refuse 7 0 c.allLanes
    else if !g.splitp then .done s [] .seq
    else if g.nsplit = 0 then .done (s.setRegion c.t a.toNat { g with splitp := false }) [] .seq
    else .wait (.join a.toNat) 0 s)

/-- RETURN's items 3 and 4: cache actions, then the arbiter; a global E or A borrow waits for its RETACKs (R206). -/
def returnGo (c : Ctx) (s : State) (g : Region) : Res :=
  let acks := g.space = 0 ∧ (g.kind = 1 ∨ g.kind = 3)
  let s := s.returnBorrow c.b g (if acks then .thread c.t 0 else .ended c.t.blk)
  let out := (s.entry c.b.die g.tag).any (fun e => e.state == .returning)
  if acks ∧ out then .wait (.returned g.tag) 2 s else .done s [] .seq

/-- RETURN: the register is emptied at issue, and the borrow goes back once its accesses are complete (R206). -/
def execReturnR (a : BitVec 5) (s : State) : Host.Outcome State Fault Refusal :=
  issue s (.returnR a) (borrowing [.region a.toNat]) (fun c s =>
    if c.stage = 2 then .done s [] .seq
    else if c.stage = 1 then returnGo c s c.givenUp
    else
      let g := c.b.region c.t.warp a.toNat
      if g.kind = 0 then .refuse 7 0 c.allLanes
      else if g.splitp then .refuse 8 0 c.allLanes
      else if g.hasParent then .refuse 9 0 c.allLanes
      else if g.lost then .refuse 11 (128 * g.base.toNat) c.allLanes
      else
        let s := s.setRegion c.t a.toNat Region.empty
        if s.busyRange c.b g ∨ !s.opsPerformed c.t then .wait (.through g) 1 s
        else returnGo c s g)

/-! ## RGINFO, RGMOV, RGCLR -/

/-- The 128 bits of a region register (R187). -/
def Region.bits (g : Region) : BitVec 128 :=
  BitVec.ofNat 128 (g.base.toNat + 2 ^ 49 * g.lenm1.toNat + 2 ^ 84 * g.slot.toNat + 2 ^ 100 * g.parent.toNat
    + 2 ^ 112 * g.child.toNat + 2 ^ 115 * g.nsplit.toNat + 2 ^ 119 * g.wpseen.toNat + 2 ^ 120 * g.lost.toNat
    + 2 ^ 121 * g.taint.toNat + 2 ^ 122 * g.splitp.toNat + 2 ^ 123 * g.space.toNat + 2 ^ 125 * g.kind.toNat)

/-- Whether the front thread issues. -/
def State.frontCur (s : State) : Bool := (s.cur.map (fun t => t.warp == 32)).getD false

/-- RGINFO: all 128 bits, as four registers or two (R207). -/
def execRginfo (d : BitVec 7) (a : BitVec 5) (s : State) : Host.Outcome State Fault Refusal :=
  issueRegs s (.rginfo d a) (plain .both [.run d.toNat (if s.frontCur then 2 else 4) true, .region a.toNat]) (fun c =>
    let v := (c.b.region c.t.warp a.toNat).bits
    if c.front then c.w64 d.toNat 0 (v.setWidth 64) ++ c.w64 (d.toNat + 1) 0 ((v >>> 64).setWidth 64)
    else c.lanes.flatMap (fun l => (List.range 4).flatMap (fun j => c.w32 (d.toNat + j) l false ((v >>> (32 * j)).setWidth 32))))

/-- RGMOV: the borrow moves, and its children name the new register (R208). -/
def execRgmov (d a : BitVec 5) (s : State) : Host.Outcome State Fault Refusal :=
  issue s (.rgmov d a) (borrowing [.region d.toNat, .region a.toNat]) (fun c s =>
    let g := c.b.region c.t.warp a.toNat
    if g.kind = 0 then .refuse 7 0 c.allLanes
    else if d = a then .done s [] .seq
    else if (c.b.region c.t.warp d.toNat).kind ≠ 0 then .refuse 9 0 c.allLanes
    else
      .done (s.updBlk c.t.blk (fun b =>
        ((b.setRegion c.t.warp d.toNat g).setRegion c.t.warp a.toNat Region.empty).reparent g c.t.warp a.toNat d.toNat)) [] .seq)

/-- Whether a register of the die still names a slot of its table. -/
def State.slotNamed (s : State) (die slot : Nat) : Bool :=
  s.blocks.any (fun x => x.2.die == die && ((x.2.warps.flatMap (fun w => w.aside :: w.g.map (·.2)))
    ++ x.2.front.aside :: x.2.front.b.map (·.2)).any (fun g => g.kind != 0 && g.space.toNat ≤ 1 && g.tag == slot))

/-- RGCLR: a LOST register is emptied; the last one that names the slot frees the entry (R209, 11 R277). -/
def execRgclr (a : BitVec 5) (s : State) : Host.Outcome State Fault Refusal :=
  issue s (.rgclr a) { borrowing [.region a.toNat] with priv := true } (fun c s =>
    let g := c.b.region c.t.warp a.toNat
    if !g.lost then .refuse 9 0 c.allLanes
    else
      let s := s.setRegion c.t a.toNat Region.empty
      if 2 ≤ g.space.toNat then .done s [] .seq
      else
        let s := s.l1Drop c.b.coreIx g.tag
        .done (if s.slotNamed c.b.die g.tag then s else s.freeEntry c.b.die g.tag) [] .seq)

/-- RGCLR.TAINT: the taint of an E borrow is cleared at its arbiter (R209). -/
def execRgclrTaint (a : BitVec 5) (s : State) : Host.Outcome State Fault Refusal :=
  issue s (.rgclrTaint a) { borrowing [.region a.toNat] with priv := true } (fun c s =>
    let g := c.b.region c.t.warp a.toNat
    if g.kind ≠ 1 ∨ !g.taint then .refuse 9 0 c.allLanes
    else
      let s := s.setRegion c.t a.toNat { g with taint := false }
      if g.space = 0 then
        match s.entry c.b.die g.tag with
        | some e => .done (e.pieces.foldl (fun s p => s.toHome c.b.die p 6 2 e.kind g.tag 0) s) [] .seq
        | none => .done s [] .seq
      else
        .done ((s.updCd c.b.die (fun x => { x with entries := x.entries.filter (fun y =>
          !(y.2.state == .taintmark && y.2.space == 1 && g.space == 1 && decide (g.base.toNat ≤ y.2.base)
            && decide (y.2.base + y.2.lenm1 ≤ g.base.toNat + g.lenm1.toNat))) })).entryFreed c.b.die) [] .seq)

end Sys2Proof.Machine
end

