-- ==== Sys2Proof/Machine/IntOps.lean ====
section
/-!
DEFINITION. Machine/IntOps.lean: the integer, logic, shift, bit-field, move and address instructions, the integer compares,
and the lane exchange (04 R89-R110).
-/
namespace Sys2Proof.Machine

/-! ## Integer types (02 R51, 03 R70, 04 R92) -/

/-- Width of an integer type code. -/
def ityWidth (ty : BitVec 3) : Nat :=
  match ty.toNat with
  | 0 | 1 => 32
  | 2 | 3 => 64
  | 4 | 5 => 16
  | _ => 8
def itySigned (ty : BitVec 3) : Bool := ty.toNat % 2 == 0
def ityWide (ty : BitVec 3) : Bool := ty == 2 || ty == 3

/-- A source or destination operand, a pair where `wide`. -/
def srcOpd (wide : Bool) (c : BitVec 7) : Opd := if wide then .src64 c.toNat else .src c.toNat
def dstOpd (wide : Bool) (c : BitVec 7) : Opd := if wide then .dst64 c.toNat else .dst c.toNat

/-- A register operand as a natural number, 64 or 32 bits. -/
def Ctx.nat (c : Ctx) (wide : Bool) (code : BitVec 7) (l : Nat) : Nat :=
  if wide then (c.r64 code.toNat l).toNat else (c.r32 code.toNat l).toNat

/-- `val` of R92 over a number: its low `w` bits, signed or natural. -/
def asInt (w : Nat) (signed : Bool) (n : Nat) : Int := if signed then sgn w n else ((n % 2 ^ w : Nat) : Int)

/-- `val(x, t)` (R92). -/
def Ctx.int (c : Ctx) (ty : BitVec 3) (code : BitVec 7) (l : Nat) : Int :=
  asInt (ityWidth ty) (itySigned ty) (c.nat (ityWide ty) code l)

/-- A result of `wide` or 32 bits; `signed` says how the front stream extends 32 bits (R90). -/
def Ctx.put (c : Ctx) (wide signed : Bool) (code : BitVec 7) (l : Nat) (n : Nat) : List RegWrite :=
  if wide then c.w64 code.toNat l (BitVec.ofNat 64 n) else c.w32 code.toNat l signed (BitVec.ofNat 32 n)

/-- An integer held to a range of `w` bits (R70). -/
def clampInt (w : Nat) (signed : Bool) (v : Int) : Int :=
  if signed then max (-(2 ^ (w - 1) : Nat)) (min v ((2 ^ (w - 1) : Nat) - 1)) else max 0 (min v ((2 ^ w : Nat) - 1))

/-- `fit(v, t, sat)` (R92), as the bits of the register that holds it: 64 for a wide type, else 32. -/
def fit (ty : BitVec 3) (sat : Bool) (v : Int) : Nat :=
  let w := ityWidth ty
  let v := if sat then clampInt w (itySigned ty) v else asInt w (itySigned ty) (wrap w v)
  wrap (if ityWide ty then 64 else 32) v

/-- `D := fit(v, t, sat)`. -/
def Ctx.putInt (c : Ctx) (ty : BitVec 3) (sat : BitVec 1) (code : BitVec 7) (l : Nat) (v : Int) : List RegWrite :=
  c.put (ityWide ty) (itySigned ty) code l (fit ty (sat == 1) v)

/-! ## Shapes of instruction -/

/-- D := f(A, B) at an integer type, exact and fitted once (R95). -/
def intBin (i : Instr) (d a b : BitVec 7) (sat : BitVec 1) (ty : BitVec 3) (f : Int → Int → Int) (s : State) :
    Host.Outcome State Fault Refusal :=
  let w := ityWide ty
  issueRegs s i (plain .both [dstOpd w d, srcOpd w a, srcOpd w b]) (fun c =>
    c.lanes.flatMap (fun l => c.putInt ty sat d l (f (c.int ty a l) (c.int ty b l))))

/-- D := f(A) at an integer type (R95). -/
def intUn (i : Instr) (d a : BitVec 7) (sat : BitVec 1) (ty : BitVec 3) (f : Int → Int) (s : State) :
    Host.Outcome State Fault Refusal :=
  let w := ityWide ty
  issueRegs s i (plain .both [dstOpd w d, srcOpd w a]) (fun c =>
    c.lanes.flatMap (fun l => c.putInt ty sat d l (f (c.int ty a l))))

/-- D := f(A, B) over the bits of 32 or 64; `sb` says that B is a single register (R91). -/
def bitBin (i : Instr) (d a b : BitVec 7) (w : BitVec 1) (sb signed : Bool) (f : Nat → Nat → Nat) (s : State) :
    Host.Outcome State Fault Refusal :=
  let wide := w == 1
  issueRegs s i (plain .both [dstOpd wide d, srcOpd wide a, srcOpd (wide && !sb) b]) (fun c =>
    c.lanes.flatMap (fun l => c.put wide signed d l (f (c.nat wide a l) (c.nat (wide && !sb) b l))))

/-- D := f(A) over the bits of 32 or 64; `one` says that D is a single register. -/
def bitUn (i : Instr) (d a : BitVec 7) (w : BitVec 1) (one signed : Bool) (f : Nat → Nat) (s : State) :
    Host.Outcome State Fault Refusal :=
  let wide := w == 1
  issueRegs s i (plain .both [dstOpd (wide && !one) d, srcOpd wide a]) (fun c =>
    c.lanes.flatMap (fun l => c.put (wide && !one) signed d l (f (c.nat wide a l))))

/-- Bits of a `.W` choice. -/
def bitsOfW (w : BitVec 1) : Nat := if w == 1 then 64 else 32

/-! ## Arithmetic (R95-R100) -/

def execAdd (d a b : BitVec 7) (sat : BitVec 1) (ty : BitVec 3) (s : State) : Host.Outcome State Fault Refusal :=
  intBin (.add d a b sat ty) d a b sat ty (fun x y => x + y) s
def execSub (d a b : BitVec 7) (sat : BitVec 1) (ty : BitVec 3) (s : State) : Host.Outcome State Fault Refusal :=
  intBin (.sub d a b sat ty) d a b sat ty (fun x y => x - y) s
def execMul (d a b : BitVec 7) (sat : BitVec 1) (ty : BitVec 3) (s : State) : Host.Outcome State Fault Refusal :=
  intBin (.mul d a b sat ty) d a b sat ty (fun x y => x * y) s
def execNeg (d a : BitVec 7) (sat : BitVec 1) (ty : BitVec 3) (s : State) : Host.Outcome State Fault Refusal :=
  intUn (.neg d a sat ty) d a sat ty (fun x => -x) s
def execAbs (d a : BitVec 7) (sat : BitVec 1) (ty : BitVec 3) (s : State) : Host.Outcome State Fault Refusal :=
  intUn (.abs d a sat ty) d a sat ty (fun x => (x.natAbs : Int)) s

/-- R96: 32 bits in a warp, whole registers in the front stream. -/
def execAddi (d a : BitVec 7) (imm : BitVec 11) (s : State) : Host.Outcome State Fault Refusal :=
  issueRegs s (.addi d a imm) (plain .both [.dst d.toNat, .src a.toNat]) (fun c =>
    if c.front then c.w64 d.toNat 0 (c.r64 a.toNat 0 + imm.signExtend 64)
    else c.lanes.flatMap (fun l => c.w32 d.toNat l true (c.r32 a.toNat l + imm.signExtend 32)))

/-- R95: d + a·b exactly, fitted once. -/
def execMad (d a b : BitVec 7) (sat : BitVec 1) (ty : BitVec 3) (s : State) : Host.Outcome State Fault Refusal :=
  let w := ityWide ty
  issueRegs s (.mad d a b sat ty) (plain .both [dstOpd w d, srcOpd w d, srcOpd w a, srcOpd w b]) (fun c =>
    c.lanes.flatMap (fun l => c.putInt ty sat d l (c.int ty d l + c.int ty a l * c.int ty b l)))

/-- R97: the upper half of the signed product. -/
def execMulh (d a b : BitVec 7) (w : BitVec 1) (s : State) : Host.Outcome State Fault Refusal :=
  let n := bitsOfW w
  bitBin (.mulh d a b w) d a b w false true (fun x y => wrap n (sgn n x * sgn n y / (2 ^ n : Nat))) s
/-- R97: the upper half of the natural product. -/
def execMulhn (d a b : BitVec 7) (w : BitVec 1) (s : State) : Host.Outcome State Fault Refusal :=
  let n := bitsOfW w
  bitBin (.mulhn d a b w) d a b w false false (fun x y => x * y / 2 ^ n) s

/-- R98: a 64-bit pair D + A × B; `n` 1 is natural. -/
def execMadw (d a b : BitVec 7) (n : BitVec 1) (s : State) : Host.Outcome State Fault Refusal :=
  issueRegs s (.madw d a b n) (plain .both [.dst64 d.toNat, .src64 d.toNat, .src a.toNat, .src b.toNat]) (fun c =>
    c.lanes.flatMap (fun l =>
      let x := asInt 32 (n == 0) (c.nat false a l)
      let y := asInt 32 (n == 0) (c.nat false b l)
      c.w64 d.toNat l (BitVec.ofNat 64 (wrap 64 ((c.r64 d.toNat l).toNat + x * y)))))

/-- R99: division and remainder, refused where an active divisor is 0; the record names those lanes (15 R372). -/
def divBody (d a b : BitVec 7) (ty : BitVec 3) (f : Int → Int → Int) (c : Ctx) (s : State) : Res :=
  let bad := c.lanes.filter (fun l => c.int ty b l == 0)
  if bad ≠ [] then .refuse 15 0 (if c.front then 0 else maskOf bad)
  else .done s (c.lanes.flatMap (fun l => c.putInt ty 0 d l (f (c.int ty a l) (c.int ty b l)))) .seq

/-- Operands of an instruction that carries a lookahead count (02 R41). -/
def plainLa (streams : Streams) (opds : List Opd) (la : BitVec 4) : Spec := { plain streams opds with la := some la.toNat }

def execDiv (d a b : BitVec 7) (la : BitVec 4) (s : State) : Host.Outcome State Fault Refusal :=
  issue s (.div d a b la) (plainLa .both [.dst d.toNat, .src a.toNat, .src b.toNat] la)
    (divBody d a b 0 (fun x y => x.tdiv y))
def execDivn (d a b : BitVec 7) (la : BitVec 4) (s : State) : Host.Outcome State Fault Refusal :=
  issue s (.divn d a b la) (plainLa .both [.dst d.toNat, .src a.toNat, .src b.toNat] la)
    (divBody d a b 1 (fun x y => x.tdiv y))
def execRem (d a b : BitVec 7) (la : BitVec 4) (s : State) : Host.Outcome State Fault Refusal :=
  issue s (.rem d a b la) (plainLa .both [.dst d.toNat, .src a.toNat, .src b.toNat] la)
    (divBody d a b 0 (fun x y => x.tmod y))
def execRemn (d a b : BitVec 7) (la : BitVec 4) (s : State) : Host.Outcome State Fault Refusal :=
  issue s (.remn d a b la) (plainLa .both [.dst d.toNat, .src a.toNat, .src b.toNat] la)
    (divBody d a b 1 (fun x y => x.tmod y))

/-- R100: the integer type of a width code (0 32, 1 64, 2 16, 3 8) and a signedness. -/
def minTy (w : BitVec 2) (signed : Bool) : BitVec 3 := BitVec.ofNat 3 (2 * w.toNat + if signed then 0 else 1)

def execMin (d a b : BitVec 7) (w : BitVec 2) (s : State) : Host.Outcome State Fault Refusal :=
  intBin (.min d a b w) d a b 0 (minTy w true) min s
def execMax (d a b : BitVec 7) (w : BitVec 2) (s : State) : Host.Outcome State Fault Refusal :=
  intBin (.max d a b w) d a b 0 (minTy w true) max s
def execMinn (d a b : BitVec 7) (w : BitVec 2) (s : State) : Host.Outcome State Fault Refusal :=
  intBin (.minn d a b w) d a b 0 (minTy w false) min s
def execMaxn (d a b : BitVec 7) (w : BitVec 2) (s : State) : Host.Outcome State Fault Refusal :=
  intBin (.maxn d a b w) d a b 0 (minTy w false) max s

/-! ## Logic and shifts (R101, R102) -/

def execAnd (d a b : BitVec 7) (w : BitVec 1) (s : State) : Host.Outcome State Fault Refusal :=
  bitBin (.and d a b w) d a b w false false (fun x y => x &&& y) s
def execOr (d a b : BitVec 7) (w : BitVec 1) (s : State) : Host.Outcome State Fault Refusal :=
  bitBin (.or d a b w) d a b w false false (fun x y => x ||| y) s
def execXor (d a b : BitVec 7) (w : BitVec 1) (s : State) : Host.Outcome State Fault Refusal :=
  bitBin (.xor d a b w) d a b w false false (fun x y => x ^^^ y) s
def execAndn (d a b : BitVec 7) (w : BitVec 1) (s : State) : Host.Outcome State Fault Refusal :=
  bitBin (.andn d a b w) d a b w false false (fun x y => x ^^^ (x &&& y)) s
def execNot (d a : BitVec 7) (w : BitVec 1) (s : State) : Host.Outcome State Fault Refusal :=
  bitUn (.not d a w) d a w false false (fun x => 2 ^ bitsOfW w - 1 - x) s

/-- Shifts of `w` bits by `n` below `w` (R102). -/
def shlBits (w x n : Nat) : Nat := (x <<< n) % 2 ^ w
def shrBits (x n : Nat) : Nat := x >>> n
def sarBits (w x n : Nat) : Nat := wrap w (sgn w x / (2 ^ n : Nat))
def rotBits (w x n : Nat) : Nat := (x <<< n) % 2 ^ w + x >>> (w - n)

def execShl (d a b : BitVec 7) (w : BitVec 1) (s : State) : Host.Outcome State Fault Refusal :=
  bitBin (.shl d a b w) d a b w true false (fun x y => shlBits (bitsOfW w) x (y % bitsOfW w)) s
def execShr (d a b : BitVec 7) (w : BitVec 1) (s : State) : Host.Outcome State Fault Refusal :=
  bitBin (.shr d a b w) d a b w true false (fun x y => shrBits x (y % bitsOfW w)) s
def execSar (d a b : BitVec 7) (w : BitVec 1) (s : State) : Host.Outcome State Fault Refusal :=
  bitBin (.sar d a b w) d a b w true true (fun x y => sarBits (bitsOfW w) x (y % bitsOfW w)) s
def execRot (d a b : BitVec 7) (w : BitVec 1) (s : State) : Host.Outcome State Fault Refusal :=
  bitBin (.rot d a b w) d a b w true false (fun x y => rotBits (bitsOfW w) x (y % bitsOfW w)) s
def execShli (d a : BitVec 7) (w : BitVec 1) (n : BitVec 6) (s : State) : Host.Outcome State Fault Refusal :=
  bitUn (.shli d a w n) d a w false false (fun x => shlBits (bitsOfW w) x n.toNat) s
def execShri (d a : BitVec 7) (w : BitVec 1) (n : BitVec 6) (s : State) : Host.Outcome State Fault Refusal :=
  bitUn (.shri d a w n) d a w false false (fun x => shrBits x n.toNat) s
def execSari (d a : BitVec 7) (w : BitVec 1) (n : BitVec 6) (s : State) : Host.Outcome State Fault Refusal :=
  bitUn (.sari d a w n) d a w false true (fun x => sarBits (bitsOfW w) x n.toNat) s

/-! ## Bit fields and counts (R103, R104) -/

/-- Position and length that a control word names (R103). -/
def bfPos (w ctl : Nat) : Nat := ctl % 64 &&& (w - 1)
def bfLen (w ctl : Nat) : Nat := min (ctl / 2 ^ 8 % 2 ^ 7) w
/-- The field, zero-extended. -/
def bfGet (w x ctl : Nat) : Nat := (x >>> bfPos w ctl) % 2 ^ bfLen w ctl

def execBfx (d a b : BitVec 7) (w : BitVec 1) (s : State) : Host.Outcome State Fault Refusal :=
  let n := bitsOfW w
  bitBin (.bfx d a b w) d a b w true true (fun x y =>
    if bfLen n y = 0 then 0 else wrap n (sgn (bfLen n y) (bfGet n x y))) s
def execBfxn (d a b : BitVec 7) (w : BitVec 1) (s : State) : Host.Outcome State Fault Refusal :=
  bitBin (.bfxn d a b w) d a b w true false (fun x y => bfGet (bitsOfW w) x y) s
/-- R103: D is also an input. -/
def execBfi (d a b : BitVec 7) (w : BitVec 1) (s : State) : Host.Outcome State Fault Refusal :=
  let n := bitsOfW w
  let wide := w == 1
  issueRegs s (.bfi d a b w) (plain .both [dstOpd wide d, srcOpd wide d, srcOpd wide a, .src b.toNat]) (fun c =>
    c.lanes.flatMap (fun l =>
      let x := c.nat wide a l
      let y := c.nat false b l
      let m := ((2 ^ bfLen n y - 1) <<< bfPos n y) % 2 ^ n
      let old := c.nat wide d l
      c.put wide false d l ((old ^^^ (old &&& m)) ||| ((x <<< bfPos n y) &&& m))))

/-- The number of 1 bits among the low `n`. -/
def popCount (n x : Nat) : Nat := ((List.range n).filter (fun i => x.testBit i)).length
/-- 0 bits above the highest 1; n for 0. -/
def clzCount (n x : Nat) : Nat := if x = 0 then n else n - 1 - Nat.log2 x
/-- 0 bits below the lowest 1; n for 0. -/
def ctzCount (n x : Nat) : Nat := ((List.range n).find? (fun i => x.testBit i)).getD n
/-- The low `n` bits in reverse order. -/
def bitRev (n x : Nat) : Nat := ((List.range n).filter (fun i => x.testBit i)).foldl (fun r i => r + 2 ^ (n - 1 - i)) 0

def execPopc (d a : BitVec 7) (w : BitVec 1) (s : State) : Host.Outcome State Fault Refusal :=
  bitUn (.popc d a w) d a w true false (popCount (bitsOfW w)) s
def execClz (d a : BitVec 7) (w : BitVec 1) (s : State) : Host.Outcome State Fault Refusal :=
  bitUn (.clz d a w) d a w true false (clzCount (bitsOfW w)) s
def execCtz (d a : BitVec 7) (w : BitVec 1) (s : State) : Host.Outcome State Fault Refusal :=
  bitUn (.ctz d a w) d a w true false (ctzCount (bitsOfW w)) s
def execBrev (d a : BitVec 7) (w : BitVec 1) (s : State) : Host.Outcome State Fault Refusal :=
  bitUn (.brev d a w) d a w false false (bitRev (bitsOfW w)) s

/-! ## Moves, selection and addresses (R105-R107) -/

def execMov (d a : BitVec 7) (w : BitVec 1) (s : State) : Host.Outcome State Fault Refusal :=
  bitUn (.mov d a w) d a w false false (fun x => x) s
/-- R105. -/
def execMovi (d : BitVec 7) (imm : BitVec 18) (s : State) : Host.Outcome State Fault Refusal :=
  issueRegs s (.movi d imm) (plain .both [.dst d.toNat]) (fun c =>
    c.lanes.flatMap (fun l => c.w32 d.toNat l true (imm.signExtend 32)))
/-- R105: D[31:14], D[13:0] kept. -/
def execMovh (d : BitVec 7) (imm : BitVec 18) (s : State) : Host.Outcome State Fault Refusal :=
  issueRegs s (.movh d imm) (plain .both [.dst d.toNat, .src d.toNat]) (fun c =>
    c.lanes.flatMap (fun l => c.w32 d.toNat l true (imm ++ (c.r32 d.toNat l).extractLsb' 0 14)))
/-- R106. -/
def execSel (d a b : BitVec 7) (w : BitVec 1) (k : BitVec 3) (s : State) : Host.Outcome State Fault Refusal :=
  let wide := w == 1
  issueRegs s (.sel d a b w k) (plain .warp [dstOpd wide d, srcOpd wide a, srcOpd wide b]) (fun c =>
    c.lanes.flatMap (fun l => c.put wide false d l (if lane (c.w.kreg k.toNat) l then c.nat wide a l else c.nat wide b l)))
/-- R107. -/
def execLea (d a b : BitVec 7) (sc : BitVec 2) (s : State) : Host.Outcome State Fault Refusal :=
  issueRegs s (.lea d a b sc) (plain .both [.dst d.toNat, .src a.toNat, .src b.toNat]) (fun c =>
    if c.front then c.w64 d.toNat 0 (c.r64 a.toNat 0 + c.r64 b.toNat 0 * BitVec.ofNat 64 (2 ^ sc.toNat))
    else c.lanes.flatMap (fun l => c.w32 d.toNat l false (c.r32 a.toNat l + c.r32 b.toNat l * BitVec.ofNat 32 (2 ^ sc.toNat))))

/-! ## Compares (R108) -/

def execCmp (cond : BitVec 4) (k : BitVec 3) (a b : BitVec 7) (ty : BitVec 3) (s : State) :
    Host.Outcome State Fault Refusal :=
  let w := ityWide ty
  issue s (.cmp cond k a b ty) (plain .warp [srcOpd w a, srcOpd w b]) (fun c s =>
    .done (s.setK c.t k.toNat c.act (maskWhere c.lanes (fun l => intCond cond.toNat (c.int ty a l) (c.int ty b l)))) [] .seq)
/-- R108: codes 8-13 compare natural numbers. -/
def execCmpi (cond : BitVec 4) (k : BitVec 3) (a : BitVec 7) (imm : BitVec 11) (s : State) :
    Host.Outcome State Fault Refusal :=
  issue s (.cmpi cond k a imm) (plain .warp [.src a.toNat]) (fun c s =>
    let signed := cond.toNat < 8
    let y := asInt 32 signed (imm.signExtend 32).toNat
    .done (s.setK c.t k.toNat c.act (maskWhere c.lanes (fun l =>
      intCond (cond.toNat % 8) (asInt 32 signed (c.nat false a l)) y))) [] .seq)

/-! ## Lane exchange and votes (R109, R110) -/

/-- D := A of the lane that `f` names for lane l and B, where that lane is active; else lane l's own A (R109). -/
def shuffle (i : Instr) (d a b : BitVec 7) (f : Nat → Nat → Option Nat) (s : State) : Host.Outcome State Fault Refusal :=
  issueRegs s i (plain .warp [.dst d.toNat, .src a.toNat, .src b.toNat]) (fun c =>
    c.lanes.flatMap (fun l =>
      let from_ := match f l (c.nat false b l) with
        | some x => if x < 32 ∧ lane c.act x then x else l
        | none => l
      c.w32 d.toNat l false (c.r32 a.toNat from_)))

def execShflIdx (d a b : BitVec 7) (s : State) : Host.Outcome State Fault Refusal :=
  shuffle (.shflIdx d a b) d a b (fun _ x => some x) s
def execShflUp (d a b : BitVec 7) (s : State) : Host.Outcome State Fault Refusal :=
  shuffle (.shflUp d a b) d a b (fun l x => if x ≤ l then some (l - x) else none) s
def execShflDn (d a b : BitVec 7) (s : State) : Host.Outcome State Fault Refusal :=
  shuffle (.shflDn d a b) d a b (fun l x => some (l + x)) s
def execShflXor (d a b : BitVec 7) (s : State) : Host.Outcome State Fault Refusal :=
  shuffle (.shflXor d a b) d a b (fun l x => some (l ^^^ (x % 32))) s

/-- D := a value of Kk ∧ the active lanes, in every active lane (R110). -/
def vote (i : Instr) (d : BitVec 7) (k : BitVec 3) (f : Word → Word → Word) (s : State) : Host.Outcome State Fault Refusal :=
  issueRegs s i (plain .warp [.dst d.toNat]) (fun c =>
    c.lanes.flatMap (fun l => c.w32 d.toNat l false (f (c.w.kreg k.toNat &&& c.act) c.act)))

def execVoteAny (d : BitVec 7) (k : BitVec 3) (s : State) : Host.Outcome State Fault Refusal :=
  vote (.voteAny d k) d k (fun m _ => if m = 0 then 0 else 1) s
def execVoteAll (d : BitVec 7) (k : BitVec 3) (s : State) : Host.Outcome State Fault Refusal :=
  vote (.voteAll d k) d k (fun m act => if m = act then 1 else 0) s
def execVoteBal (d : BitVec 7) (k : BitVec 3) (s : State) : Host.Outcome State Fault Refusal :=
  vote (.voteBal d k) d k (fun m _ => m) s

end Sys2Proof.Machine
end

