-- ==== Sys2Proof/Machine/SyncOps.lean ====
section
/-!
DEFINITION. Machine/SyncOps.lean: the decision queue, bobbins, barriers, copy-completion counters, and the reads of the time
base, the window and the performance counters (12 R308-R311, 14 R352-R366, R370).
-/
namespace Sys2Proof.Machine

/-! ## The decision queue (12 R309) -/

/-- DQPUSH: appends an entry for the warps of the mask that have not exited. -/
def execDqpush (a b : BitVec 7) (s : State) : Host.Outcome State Fault Refusal :=
  issue s (.dqpush a b) (plain .front [.src64 a.toNat, .src64 b.toNat]) (fun c s =>
    let m := (c.r64 b.toNat 0).setWidth 32 &&& c.b.liveWarps
    if m = 0 then .done s [] .seq
    else if c.b.allot.dqd ≤ c.b.dq.length then .wait .dqRoom 0 s
    else
      let (n, s') := s.takeFresh
      releasing c s (.done (s'.updBlk c.t.blk (fun x =>
        { x with dq := x.dq ++ [{ value := c.r64 a.toNat 0, target := m, popped := 0, seq := n + 1 }] })) [] .seq))

/-- DQPOP: the warp's next entry, as a code-121 operand reads it. -/
def execDqpop (d : BitVec 7) (s : State) : Host.Outcome State Fault Refusal :=
  issueRegs s (.dqpop d) (plain .warp [.src64 121, .dst64 d.toNat]) (fun c =>
    c.lanes.flatMap (fun l => c.w64 d.toNat l (c.dq.getD 0)))

/-! ## Bobbins (12 R310, R311) -/

/-- A cursor's next place in a bobbin of `n` slots. -/
def nextCursor (n : Nat) (x : Nat × Bool) : Nat × Bool := if x.1 + 1 = n then (0, !x.2) else (x.1 + 1, x.2)

/-- Changes slot `j` of a bobbin. -/
def Block.updSlot (b : Block) (n j : Nat) (f : BobSlot → BobSlot) : Block :=
  { b with bobs := lset b.bobs n (fun l => lset l j f) }

/-- A cursor as `SRWAIT` writes it. -/
def cursorBits (x : Nat × Bool) : Word := BitVec.ofNat 32 ((if x.2 then 16 else 0) + x.1)

/-- An arrival of a quorum of `n`: the new count, and whether the phase turns. -/
def arriveSlot (count n : Nat) : Nat × Bool := if count + 1 = n then (0, true) else (count + 1, false)

/-- SRPUT: a producer arrives at its slot. -/
def execSrput (b : BitVec 3) (s : State) : Host.Outcome State Fault Refusal :=
  issue s (.srput b) (plain .both []) (fun c s =>
    let n := b.toNat
    match c.b.bobAt n c.th.prodCur with
    | none => .refuse 1 0 c.allLanes
    | some (x, ph) =>
      if x.e != ph then .wait (.bobFree n) c.stage s
      else
        let (k, turn) := arriveSlot x.prod ((c.b.allot.quorum.getD n (1, 1)).1)
        let s' := s.updBlk c.t.blk (fun y => y.updSlot n (c.th.prodCur.getD n (0, false)).1 (fun z =>
          { z with prod := k, f := if turn then !z.f else z.f }))
        releasing c s (.done (s'.updThread c.t (fun th =>
          { th with prodCur := lset th.prodCur n (nextCursor c.b.allot.slots) })) [] .seq))

/-- SRWAIT.C: waits until the consumer cursor's slot is filled. The spec does not place the refusal of a bobbin that the block lacks
among the items of 02 R45: here, and in the three instructions beside it, it is the instruction's own, after the operands' (log
82). -/
def execSrwaitC (d : BitVec 7) (b : BitVec 3) (s : State) : Host.Outcome State Fault Refusal :=
  issue s (.srwaitC d b) (plain .both [.dst d.toNat]) (fun c s =>
    let n := b.toNat
    match c.b.bobAt n c.th.consCur with
    | none => .refuse 1 0 c.allLanes
    | some (x, ph) =>
      if x.f == ph then .wait (.bobFull n) c.stage s
      else .done s (c.lanes.flatMap (fun l => c.w32 d.toNat l false (cursorBits (c.th.consCur.getD n (0, false))))) .seq)

/-- SRWAIT.P: waits until the producer cursor's slot is empty. -/
def execSrwaitP (d : BitVec 7) (b : BitVec 3) (s : State) : Host.Outcome State Fault Refusal :=
  issue s (.srwaitP d b) (plain .both [.dst d.toNat]) (fun c s =>
    let n := b.toNat
    match c.b.bobAt n c.th.prodCur with
    | none => .refuse 1 0 c.allLanes
    | some (x, ph) =>
      if x.e != ph then .wait (.bobFree n) c.stage s
      else .done s (c.lanes.flatMap (fun l => c.w32 d.toNat l false (cursorBits (c.th.prodCur.getD n (0, false))))) .seq)

/-- SRREL: a consumer releases its slot. -/
def execSrrel (b : BitVec 3) (s : State) : Host.Outcome State Fault Refusal :=
  issue s (.srrel b) (plain .both []) (fun c s =>
    let n := b.toNat
    match c.b.bobAt n c.th.consCur with
    | none => .refuse 1 0 c.allLanes
    | some (x, ph) =>
      if x.f == ph then .wait (.bobFull n) c.stage s
      else
        let (k, turn) := arriveSlot x.cons ((c.b.allot.quorum.getD n (1, 1)).2)
        let s' := s.updBlk c.t.blk (fun y => y.updSlot n (c.th.consCur.getD n (0, false)).1 (fun z =>
          { z with cons := k, e := if turn then !z.e else z.e }))
        releasing c s (.done (s'.updThread c.t (fun th =>
          { th with consCur := lset th.consCur n (nextCursor c.b.allot.slots) })) [] .seq))

/-! ## Barriers (14 R358, R359) -/

/-- The first refusal of a barrier instruction: 16 BARRIER_MEMBER, then 17 BARRIER_BROKEN. -/
def barRefusal (c : Ctx) (s : State) (lev n : Nat) : Option Nat :=
  if lev ≠ 0 ∧ !c.front then some 16
  else
    match s.bar? c.b lev n with
    | none => some 16
    | some r => if !r.members.contains (memberOf c.b c.t lev) then some 16 else if r.broken then some 17 else none

/-- An arrival: a release side; the front's arrival at cluster barrier 0 follows its block's landings (R354, R355). -/
def arriving (c : Ctx) (s : State) (lev n : Nat) (go : Word → State → Res) : Res :=
  if !s.allPerformed c.t then .wait .performed 0 s
  else if lev = 1 ∧ n = 0 ∧ s.unlanded c.t.blk c.b then .wait .landed 0 s
  else
    let (tok, s) := s.arrive c.t c.b lev n
    go tok s

/-- A wait for the phase of a token to end (R353, R356). A barrier that is broken completes no phase, so a count that differs was
complete before. -/
def phaseWait (c : Ctx) (s : State) (lev n : Nat) (tok : Word) : Res :=
  match s.bar? ((s.blk? c.t.blk).getD c.b) lev n with
  | some r =>
    if r.c != tok then .done s [] .seq
    else if r.broken then .refuse 17 0 c.allLanes
    else .wait (.barrier lev n tok) 1 s
  | none => .done s [] .seq

/-- The token that a barrier wait holds. -/
def Ctx.token (c : Ctx) : Word :=
  match c.th.hold with
  | some h => (match h.wait with
    | .barrier _ _ tok => tok
    | _ => 0)
  | none => 0

/-- BAR.ARR: arrives and returns the token. -/
def execBarArr (d : BitVec 7) (lev : BitVec 2) (n : BitVec 4) (s : State) : Host.Outcome State Fault Refusal :=
  issue s (.barArr d lev n) (flow .both [.items d.toNat 1 true]) (fun c s =>
    match barRefusal c s lev.toNat n.toNat with
    | some code => .refuse code 0 c.allLanes
    | none => arriving c s lev.toNat n.toNat (fun tok s => .done s (c.wItem d.toNat 0 (tok.setWidth 64)) .seq))

/-- BAR.WAIT: waits while the phase count equals the token. -/
def execBarWait (a : BitVec 7) (lev : BitVec 2) (n : BitVec 4) (s : State) : Host.Outcome State Fault Refusal :=
  issue s (.barWait a lev n) (flow .both [.items a.toNat 1 false]) (fun c s =>
    if c.stage = 1 then phaseWait c s lev.toNat n.toNat c.token
    else
      match barRefusal c s lev.toNat n.toNat with
      | some code => .refuse code 0 c.allLanes
      | none => phaseWait c (s.useBar c.t c.b lev.toNat n.toNat) lev.toNat n.toNat ((c.item a.toNat 0).setWidth 32))

/-- BAR.SYNC: arrives, writes the token, and waits for the phase. -/
def execBarSync (d : BitVec 7) (lev : BitVec 2) (n : BitVec 4) (s : State) : Host.Outcome State Fault Refusal :=
  issue s (.barSync d lev n) (flow .both [.items d.toNat 1 true]) (fun c s =>
    if c.stage = 1 then phaseWait c s lev.toNat n.toNat c.token
    else
      match barRefusal c s lev.toNat n.toNat with
      | some code => .refuse code 0 c.allLanes
      | none => arriving c s lev.toNat n.toNat (fun tok s =>
          phaseWait c (s.applyWrites c.t (c.wItem d.toNat 0 (tok.setWidth 64))) lev.toNat n.toNat tok))

/-- BAR.SET: the membership of a block barrier, at once or when the phase completes. -/
def execBarSet (a : BitVec 7) (n : BitVec 4) (s : State) : Host.Outcome State Fault Refusal :=
  issue s (.barSet a n) (flow .both [.items a.toNat 1 false]) (fun c s =>
    let m := c.item a.toNat 0
    let members := (List.range 33).filter (fun i => m.getLsbD i)
    match barRefusal c s 0 n.toNat with
    | some code => .refuse code 0 c.allLanes
    | none =>
      if fld m 63 33 ≠ 0 ∨ members.isEmpty ∨ members.any (fun i => i != 32 && c.b.warps.length ≤ i) then .refuse 16 0 c.allLanes
      else
        .done ((s.barEntry c.t.blk c.b n.toNat).updBar c.t.blk c.b 0 n.toNat (fun r =>
          if r.arrived.isEmpty then { r with members := members } else { r with pending := some members })) [] .seq)

/-! ## Copy-completion counters (14 R363) -/

def execCntRd (d : BitVec 7) (n : BitVec 4) (s : State) : Host.Outcome State Fault Refusal :=
  issueRegs s (.cntRd d n) (flow .both [.items d.toNat 1 true]) (fun c =>
    c.wItem d.toNat 0 ((c.b.counts.getD n.toNat 0).setWidth 64))

def execCntWait (a : BitVec 7) (n : BitVec 4) (s : State) : Host.Outcome State Fault Refusal :=
  issue s (.cntWait a n) (flow .both [.items a.toNat 1 false]) (fun c s =>
    let v := (c.item a.toNat 0).setWidth 32
    if v.toNat ≤ (c.b.counts.getD n.toNat 0).toNat then .done s [] .seq else .wait (.counter n.toNat v) 0 s)

def execCntClr (n : BitVec 4) (s : State) : Host.Outcome State Fault Refusal :=
  issue s (.cntClr n) (flow .both []) (fun c s =>
    .done (s.updBlk c.t.blk (fun b => { b with counts := lset b.counts n.toNat (fun _ => 0) })) [] .seq)

/-! ## Time, windows, performance (14 R366, R370) -/

/-- TIME: the time base. -/
def execTime (d : BitVec 7) (s : State) : Host.Outcome State Fault Refusal :=
  issueRegs s (.time d) (flow .both [.items d.toNat 1 true]) (fun c => c.wItem d.toNat 0 s.pkg.timeNs)

/-- WINW: the window number, and the exponent `K` of the window length (14 R365). -/
def execWinw (d : BitVec 7) (s : State) : Host.Outcome State Fault Refusal :=
  issueRegs s (.winw d) (flow .both [.items d.toNat 2 true]) (fun c =>
    c.wItem d.toNat 0 (s.pkg.timeNs >>> s.winK) ++ c.wItem d.toNat 1 (BitVec.ofNat 64 s.winK))

/-- The configuration of the counter that PERF names. -/
def Ctx.perfCfg (c : Ctx) (s : State) (a : BitVec 7) : DWord := (s.core c.b.coreIx).pmcfg.getD (fld (c.item a.toNat 0) 2 0) 0

/-- PERF: a counter of the core; privileged where its `USR` is 0 (R370). -/
def execPerf (d a : BitVec 7) (s : State) : Host.Outcome State Fault Refusal :=
  let sp := flow .both [.items d.toNat 1 true, .items a.toNat 1 false]
  issue s (.perf d a) (privBy s sp (.items a.toNat 1 false) (fun c => !bitOf (c.perfCfg s a) 62)) (fun c s =>
    let v := c.item a.toNat 0
    if fld v 63 3 ≠ 0 then .refuse 1 0 c.allLanes
    else .done s (c.wItem d.toNat 0 (((s.core c.b.coreIx).pmc.getD (fld v 2 0) 0).setWidth 64)) .seq)

end Sys2Proof.Machine
end

