-- ==== Sys2Proof/Machine/TrapOps.lean ====
section
/-!
DEFINITION. Machine/TrapOps.lean: the trap instructions, the predicate-block prefix, refused words, and the delivery of
faults (02 R46-R50; 15 R373-R384).
-/
namespace Sys2Proof.Machine

/-! ## TRAP, SVC, BRK (15 R381) -/

/-- SOFTWARE_TRAP with `ADDR` n. -/
def execTrap (n : BitVec 14) (s : State) : Host.Outcome State Fault Refusal :=
  issue s (.trap n) (flow .both []) (fun c _ => .refuse 31 n.toNat c.allLanes)

/-- SUPERVISOR_CALL with `ADDR` n. -/
def execSvc (n : BitVec 14) (s : State) : Host.Outcome State Fault Refusal :=
  issue s (.svc n) (flow .both []) (fun c _ => .refuse 32 n.toNat c.allLanes)

/-- BREAKPOINT with `ADDR` n. -/
def execBrk (n : BitVec 14) (s : State) : Host.Outcome State Fault Refusal :=
  issue s (.brk n) (flow .both []) (fun c _ => .refuse 27 n.toNat c.allLanes)

/-! ## RFT (15 R383) -/

/-- Every lane of the warp exits, or the front thread ends, pending records being discarded. -/
def State.exitOwner (s : State) (t : ThreadRef) : State :=
  let clear := fun (s : State) (u : ThreadRef) => s.updThread u (fun th => { th with record := none, later := none })
  let s := clear (clear s t) (otherArm t)
  if t.warp = 32 then s.exitFront t.blk else s.exitWarp t.blk t.warp

/-- A record that the other arm holds is due once this one's handler has ended. -/
def State.dueRecord (s : State) (t : ThreadRef) : State :=
  if ((s.thread? t).bind (·.record)).isSome then s.post (.trapEntry t) else s

def execRft (s : State) : Host.Outcome State Fault Refusal :=
  issue s .rft (flow .both []) (fun c s =>
    if !c.th.trap then .refuse 1 0 c.allLanes
    else if !c.th.pends.isEmpty then .wait .scoreboard 0 s
    else if bitOf c.th.trctl 2 then
      if !s.allPerformed c.t then .wait .performed 0 s
      else
        match busyBorrow s c with
        | some g => .wait (.through g) 0 s
        | none => .done (((s.cleared c.t).leaveTrap c.t).exitOwner c.t) [] .path
    else
      let s := (s.cleared c.t).leaveTrap c.t
      let s := s.goTo c.t (((s.thread? c.t).map (·.pc)).getD 0)
      .done (if c.front then s.dueRecord c.t else (s.dueRecord c.t).dueRecord (otherArm c.t)) [] .path)

/-! ## KILLB (15 R382) -/

/-- A block's `CTXID` (15 R378). -/
def Block.ctxid (b : Block) : DWord :=
  BitVec.ofNat 64 (b.die % 8 * 2 ^ 48 + b.ctx.toNat * 2 ^ 32 + (b.task.getD 0xFFFF_FFFF).toNat)

/-- Kills a block, or the task that runs in it, with the killer's `CTXID` in the KILLED record; one that is being killed already
goes on dying. -/
def State.killBlock (s : State) (bk : Nat) (killer : DWord) : State :=
  match s.blk? bk with
  | none => s
  | some b =>
    if b.killed.isSome then s
    else
      let ids := (s.chainIds 4 b.below).take 4
      let s := s.ringPut b.die { s.unitRecord b.die 33 3 killer.toNat 0 b.ctx with
        core := b.core, blockIx := b.blockIx, taskId := b.task.getD 0xFFFF_FFFF
        chain := ids ++ List.replicate (4 - ids.length) 0xFFFF_FFFF }
      s.startKill bk 33

/-- What a KILLB names. -/
inductive KillTarget
  | block (bk : Nat)
  | task (ix e : Nat)       -- a task without a block
  | none
  | nested
  deriving DecidableEq, Repr

/-- Whether a block lies beneath another in its slot's chain. -/
def State.nestedBlock (s : State) (bk : Nat) : Bool := s.blocks.any (fun x => x.2.below == some bk)

def State.killTarget (s : State) (b : Block) (v : DWord) : KillTarget :=
  if fld v 63 62 = 1 then
    if !(s.partDies b.die).contains (fld v 50 48) then .none
    else
      match s.blocks.find? (fun x => x.2.die == fld v 50 48 && x.2.ctx.toNat == fld v 47 32) with
      | some x => if s.nestedBlock x.1 then .nested else .block x.1
      | none => .none
  else
    match s.task? b.die (BitVec.ofNat 32 (fld v 31 0)) with
    | none => .none
    | some (ix, _, e, k) =>
      if k.st = .nested then .nested
      else match k.blk with
        | some bk => .block bk
        | none => .task ix e

/-- Bits of KILLB's item that its mode does not use (R382). -/
def killUnused (v : DWord) : Bool :=
  match fld v 63 62 with
  | 0 => fld v 61 0 != 0
  | 1 => fld v 61 51 != 0 || fld v 31 0 != 0
  | 2 => fld v 61 32 != 0
  | _ => true

/-- The modes of KILLB that only a privileged thread may use. -/
def killPriv (v : DWord) : Bool := fld v 63 62 == 1 || fld v 63 62 == 2

/-- KILLB (R382). -/
def execKillb (d a : BitVec 7) (s : State) : Host.Outcome State Fault Refusal :=
  let sp := { flow .both [.items a.toNat 1 false, .items d.toNat 1 true] with roles := [.vector] }
  issue s (.killb d a) (privBy s sp (.items a.toNat 1 false) (fun c => killPriv (c.item a.toNat 0))) (fun c s =>
    if c.stage = 1 then .done s (c.wItem d.toNat 0 0) .seq
    else
      let v := c.item a.toNat 0
      if killUnused v then .refuse 1 0 c.allLanes
      else if fld v 63 62 = 0 then .wait .forever 1 (s.killBlock c.t.blk c.b.ctxid)
      else
        match s.killTarget c.b v with
        | .none => .done s (c.wItem d.toNat 0 1) .seq
        | .nested => .done s (c.wItem d.toNat 0 2) .seq
        | .block bk => .wait (.gone bk) 1 (s.killBlock bk c.b.ctxid)
        | .task ix e =>
          match (kget s.pools ix).bind (fun p => (kget p.tasks e).map (fun k => (p, k))) with
          | none => .done s (c.wItem d.toNat 0 1) .seq
          | some (p, k) =>
            match s.endKeys p k with
            | .error va => .wait (.page p.die p.desc.asid) 0
                (s.ringPut p.die (s.unitRecord p.die 22 2 va (5 * 4096 + p.die * 256) 0))
            | .ok (f, u) =>
              let s := match s.unlinkTask ix p k with
                | .ok s => s
                | .error _ => s
              let s := s.ringPut p.die { s.unitRecord p.die 33 3 c.b.ctxid.toNat 0 0 with taskId := k.id }
              .done ((s.taskFinish ix p e k f u 0 0 (some 33)).poolCheck ix) (c.wItem d.toNat 0 0) .seq)

/-! ## PBLK (02 R46) -/

/-- PBLK: captures the mask and covers the following words. -/
def execPblk (k n : BitVec 3) (pat : BitVec 8) (s : State) : Host.Outcome State Fault Refusal :=
  issue s (.pblk k n pat) (flow .warp []) (fun c s =>
    let s := (s.cleared c.t).updThread c.t (fun th =>
      { th with pblk := some { left := n.toNat + 1, pattern := pat, kcap := c.w.kreg k.toNat } })
    .done (s.goTo c.t (c.th.pc + 4)) [] .path)

/-! ## Refused words (02 R50) -/

/-- BAR.SET with a level other than block: its fields and its number are in order (14 R358), and R359 refuses it with
BARRIER_MEMBER. -/
def barSetLevel (w : Word) : Bool :=
  let v := w.toNat
  let level := v / 2 ^ 9 % 4
  v / 2 ^ 25 == 0x7D && v % 16 == 3 && v / 2 ^ 18 % 128 == 0 && v / 2 ^ 8 % 2 == 0 && level != 0
    && decide (v / 2 ^ 4 % 16 < 16 / 2 ^ level)

/-- A word that is no instruction, or holds a 1 in an unused bit. -/
def execIllegalInstruction (w : Word) (s : State) : Host.Outcome State Fault Refusal :=
  issue s (if barSetLevel w then .barSet (BitVec.ofNat 7 (w.toNat / 2 ^ 11)) (BitVec.ofNat 4 (w.toNat / 2 ^ 4))
      else .illegalInstruction w)
    (flow .both (if barSetLevel w then [.items (w.toNat / 2 ^ 11 % 128) 1 false] else []))
    (fun c _ => .refuse (if barSetLevel w then 16 else 1) 0 c.allLanes)

/-! ## Delivery (15 R373-R375) -/

/-- The lowest lane of a thread's execution mask; the front thread counts as lane 0. -/
def lowLane (th : Thread) : Nat := ((lanesOf th.exm).head?).getD 32

/-- The thread of the warp whose record is delivered first (R373 item 1). -/
def State.firstRecord (s : State) (t : ThreadRef) (th : Thread) : ThreadRef :=
  if t.warp = 32 then t
  else
    match s.thread? (otherArm t) with
    | some u => if u.live && u.record.isSome && lowLane u < lowLane th then otherArm t else t
    | none => t

/-- TRAP_ENTRY: once nothing is outstanding in the warp, the record enters the handler or is made fatal (R375). A pre-empt request
is taken first, and the step comes again with the restore (R373). -/
def execTrapEntry (s : State) : Host.Outcome State Fault Refusal :=
  match s.due with
  | some (.trapEntry t) =>
    match s.blk? t.blk, s.thread? t with
    | some b, some th =>
      if th.record.isNone ∨ !b.home then .next s
      else if !th.live ∨ b.killed.isSome then .next (s.orphanRecord t)
      else if b.otherInTrap t || s.beingSaved t.blk then .next s
      else
        let t := s.firstRecord t th
        match s.thread? t with
        | none => .next s
        | some th =>
          -- what the warp's threads have issued is carried through first
          if !b.quietWarp t.warp then .next (s.post (.trapEntry t))
          else
            match th.record with
            | some r => .next (s.enterTrap t r)
            | none => .next s
    | _, _ => .next s
  | _ => .next s

/-- FAULT_REPORT: an imprecise report reaches its thread, or goes to the ring (R373, R374, R377). -/
def execFaultReport (s : State) : Host.Outcome State Fault Refusal :=
  match s.due with
  | some (.faultReport dest r) =>
    match dest with
    | .thread t => .next (s.postFault t r)
    | .ring die => .next (s.ringPut die r)
  | _ => .next s

end Sys2Proof.Machine
end

