-- ==== Sys2Proof/Machine/LoadStore.lean ====
section
/-!
DEFINITION. Machine/LoadStore.lean: what stands before the accesses of an instruction (09 R219, R230; 11 R285; 13 R348,
R349; 15 R389, R390), loads and stores (09 R225-R229), and the steps LOAD_DATA_RETURN and PAGE_WALK.
-/
namespace Sys2Proof.Machine

/-! ## Accesses of the active lanes -/

/-- One access: lane, byte offset in the region, bytes. -/
abbrev Acc := Nat × Nat × Nat

/-- `o := x * scale`, exact (R226). -/
def Ctx.offset (c : Ctx) (idx : BitVec 7) (sc : BitVec 2) (l : Nat) : Nat :=
  (if c.front then (c.r64 idx.toNat 0).toNat else (c.r32 idx.toNat l).toNat) * 2 ^ sc.toNat

/-- A refusal that some lanes cause: the address of the lowest, and all of them. -/
def laneRefusal (g : Region) (code : Nat) (bad : List Acc) : Option (Nat × Nat × Word) :=
  bad.head?.map (fun x => (code, g.addr x.2.1, maskOf (bad.map (·.1))))

/-- `check_region` (08 R191): code, `ADDR` and lanes of the first check that fails. -/
def checkRegion (c : Ctx) (g : Region) (op : Right) (accs : List Acc) : Option (Nat × Nat × Word) :=
  match checkRights g op with
  | some code => some (code, if code = 11 then 128 * g.base.toNat else 0, c.allLanes)
  | none => laneRefusal g 10 (accs.filter (fun x => decide (g.bytes < x.2.1 + x.2.2)))

/-- Whether an access matches compute-die watchpoint `n`: its lowest matching byte and the lanes (15 R389). `kind` is the
control bit, 62 loads, 61 stores, 60 atomics. -/
def State.watchHit (s : State) (b : Block) (g : Region) (kind : Nat) (accs : List Acc) (n : Nat) : Option (Nat × Word) :=
  let ctl := s.cdReg b.die (0x388 + n)
  if bitOf ctl 63 && bitOf ctl kind && g.space == 0 && fld ctl 47 32 == b.desc.asid.toNat then
    let hits := accs.filterMap (fun x =>
      ((wpBytes (s.cdReg b.die (0x380 + n)) (s.cdReg b.die (0x384 + n)) (g.addr x.2.1) x.2.2).head?).map (fun a => (x.1, a)))
    match hits with
    | [] => none
    | h :: r => some (r.foldl (fun a x => min a x.2) h.2, maskOf (hits.map (·.1)))
  else none

/-- `HITS` of a compute-die watchpoint rises. -/
def State.watchCount (s : State) (die n : Nat) : State := s.setCdReg die (0x388 + n) (addHit (s.cdReg die (0x388 + n)))

/-- The WATCH refusal of an instruction: one class-P record for the lowest matching watchpoint, and the `HITS` of all
(15 R389, R390). An instruction that issues again under `WSKIP` is not checked. -/
def watched (c : Ctx) (s : State) (g : Region) (kind : Nat) (accs : List Acc) : Option Res :=
  let ws := (List.range 4).filterMap (fun n => (s.watchHit c.b g kind accs n).map (fun h => (n, h)))
  match ws with
  | [] => none
  | (n, a, m) :: _ =>
    if c.th.wskip then none
    else
      let r := s.record c.t 26 0 c.th.pc a m 0
      some (.trap { r with flags := r.flags ||| BitVec.ofNat 8 (16 * n) } (ws.foldl (fun s x => s.watchCount c.b.die x.1) s))

/-! ## Translation before the accesses -/

/-- The bars of a list of accesses. -/
def barsOf (c : Ctx) (s : State) (g : Region) (acc : Access) (accs : List Acc) : List (Acc × Bar) :=
  accs.map (fun x => (x, s.barOf c.b g x.2.1 x.2.2 acc c.priv))

/-- Accesses that a walk at once finds in the given way. -/
def missing (c : Ctx) (s : State) (acc : Access) (bars : List (Acc × Bar)) (want : Tr) : List Acc :=
  (bars.filter (fun x => match x.2 with
    | .miss va => s.translateNow c.b.die (clusterOf c.b.coreIx) c.b.desc va acc c.priv == want
    | _ => false)).map (·.1)

/-- What translation makes of an instruction's accesses. -/
inductive Pass
  | wait (s : State)                 -- a table walk is under way
  | prot (va : Nat) (lanes : Word)   -- PAGE_PROTECTION, before any access
  | absent (accs : List Acc)         -- pages that are not there
  | go

/-- Translates every access before any is performed (15 R371). A walk that has found no leaf (stage 1) says whether the
pages are absent. -/
def pass (c : Ctx) (s : State) (g : Region) (acc : Access) (accs : List Acc) : Pass :=
  let bars := barsOf c s g acc accs
  let prot := (bars.filter (fun x => match x.2 with
      | .prot _ => true
      | _ => false)).map (·.1) ++ (if c.stage = 1 then missing c s acc bars .prot else [])
  match laneRefusal g 23 prot with
  | some (_, va, m) => .prot va m
  | none =>
    let gone := if c.stage = 1 then missing c s acc bars .absent else []
    if !gone.isEmpty then .absent gone
    else
      match bars.findSome? (fun x => match x.2 with
        | .miss va => some va
        | _ => none) with
      | some va =>
        .wait (s.post (.pageWalk { cluster := clusterOf c.b.coreIx, asid := c.b.desc.asid, l4 := c.b.desc.l4pa, va := va,
                                   acc := acc, priv := c.priv, who := .thread c.t }))
      | none => .go

/-- Pages of absent accesses: an address and the lanes of each. -/
def pagesOf (g : Region) (accs : List Acc) : List (Nat × Word) :=
  let pages := (accs.map (fun x => g.addr x.2.1 / 2 ^ 14)).dedup
  pages.filterMap (fun p =>
    let mine := accs.filter (fun x => g.addr x.2.1 / 2 ^ 14 == p)
    (mine.head?).map (fun x => (g.addr x.2.1, maskOf (mine.map (·.1)))))

/-- One replayable record for each missing page (R230, 13 R348). -/
def State.reportPages (s : State) (c : Ctx) (g : Region) (accs : List Acc) (engine : Nat) : State :=
  (pagesOf g accs).foldl (fun s p => s.ringPut c.b.die (s.record c.t 22 2 c.th.pc p.1 p.2 engine)) s

/-- Absent scratch lines, or a granule that waits for reserve, among the accesses. -/
def heldUp (c : Ctx) (s : State) (g : Region) (acc : Access) (accs : List Acc) : Option Wait :=
  (barsOf c s g acc accs).findSome? (fun x => match x.2 with
    | .lines a b => some (.lines a b)
    | .overflow => some .again
    | _ => none)

/-- Accesses whose route crosses a link that is down: they are not performed (16 R398). -/
def downAccs (c : Ctx) (s : State) (g : Region) (acc : Access) (accs : List Acc) : List Acc :=
  ((barsOf c s g acc accs).filter (fun x => match x.2 with
    | .down _ => true
    | _ => false)).map (·.1)

/-- An imprecise record of the issuing thread for some lanes. -/
def State.imprecise (s : State) (c : Ctx) (code : Nat) (bad : List (Nat × Nat)) : State :=
  match bad with
  | [] => s
  | x :: _ => s.postFault c.t (s.record c.t code 1 c.th.pc x.2 (maskOf (bad.map (·.1))) 0)

/-- The route of an access to a virtual address that the TLB of the core translates. -/
def State.accessRoute (s : State) (b : Block) (va : Nat) : List DieId :=
  match (s.tlbFind (clusterOf b.coreIx) b.desc.asid va).bind (fun e => s.paKey b.die (e.pa + va % 2 ^ e.bits)) with
  | some k => if keyHome k = 16 then [] else route (.cd b.die) (s.homeDie b.die (keyHome k))
  | none => []

/-- LINK_DOWN for the accesses that cannot leave; one that a seam refuses is counted there (16 R398, R415). -/
def State.reportDown (s : State) (c : Ctx) (g : Region) (bad : List Acc) : State :=
  (bad.foldl (fun s x => s.countSeam c.b.die (s.accessRoute c.b (g.addr x.2.1))) s).imprecise c 29 (bad.map (fun x => (x.1, g.addr x.2.1)))

/-- Accesses that find their line in L1, then the others: a fill cannot take away a line that is still to be read. -/
def hitsFirst (c : Ctx) (s : State) (g : Region) (accs : List Acc) : List Acc × List Acc :=
  accs.partition (fun x => g.cached && (s.lineOf c.b g (g.addr x.2.1)).isSome)

/-! ## Loads (R225-R228) -/

/-- Width in bytes of a logged instruction's elements. -/
def logSize : Instr → Nat
  | .st64 .. => 8
  | .st16 .. => 2
  | .st8 .. => 1
  | .redAdd _ w _ _ _ | .redFadd _ w _ _ _ | .redMin _ w _ _ _ | .redMax _ w _ _ _ | .redFmin _ w _ _ _
  | .redFmax _ w _ _ _ | .redAnd _ w _ _ _ | .redOr _ w _ _ _ | .redXor _ w _ _ _ | .redMinn _ w _ _ _
  | .redMaxn _ w _ _ _ => if w = 1 then 8 else 4
  | _ => 4

/-- Whether a logged instruction writes any of `n` bytes at offset `o` of a region: a lane's bytes, of an STBE those with an
enabled bit (13 R348, R349). -/
def LogEntry.covers (e : LogEntry) (g : Region) (o n : Nat) : Bool :=
  let on := fun (en : DWord) (i : Nat) => match e.ins with
    | .stbe .. => fld en (8 * i + 7) (8 * i) != 0
    | _ => true
  e.region.space == g.space && e.lanes.any (fun x => (List.range (logSize e.ins)).any (fun i =>
    let a := e.region.addr x.2.1 + i
    on x.2.2.2 i && g.addr o ≤ a && a < g.addr o + n))

/-- The side-log entry of the thread that writes a byte of some accesses: the oldest (13 R349). -/
def covering (c : Ctx) (s : State) (g : Region) (accs : List Acc) : Option Nat :=
  ((s.core c.b.coreIx).log.find? (fun e =>
    s.orderedBy c.t e.t e.id && accs.any (fun x => e.covers g x.2.1 x.2.2))).map (·.id)

/-- Whether the thread has an atomic under way at a byte that a Y access touches: its own order at one place (10 R251). -/
def ownAtomic (c : Ctx) (s : State) (g : Region) (accs : List Acc) : Bool :=
  g.kind == 4 && s.waitReq.any (fun r => match r.owner, r.body with
    | .regs t id _, .access _ _ _ k _ _ _ => s.orderedBy c.t t id && accs.any (fun x =>
        match s.translate c.b (g.addr x.2.1) .read c.priv with
        | .hit j => j / 8 == k / 8
        | _ => false)
    | _, _ => false)

/-- The lanes whose accesses touch a byte of the region's memory. -/
def lanesAt (g : Region) (accs : List Acc) (a : Nat) : Word :=
  maskOf ((accs.filter (fun x => g.addr x.2.1 ≤ a && a < g.addr x.2.1 + x.2.2)).map (·.1))

/-- Reads the accesses of load `id` in order: each with its bytes and poison. -/
def readAll (c : Ctx) (s : State) (id : Nat) (g : Region) (fill : Bool) (accs : List Acc) : List (Acc × List Byte × Bool) × State :=
  accs.foldl (fun (x : List (Acc × List Byte × Bool) × State) a =>
    let (bs, p, s) := x.2.readAt c.t.blk c.b g a.2.1 a.2.2 .read c.priv fill (some (c.t, lanesAt g accs, .pend id)) c.th.pc
    (x.1 ++ [(a, bs, p)], s)) ([], s)

/-- What an access of a load asks of a home, its line being in no cache of its die: the lane, the address, the place (16 R398). -/
def State.farOf (s : State) (c : Ctx) (g : Region) (x : Acc) : Option (Nat × Nat × Nat) :=
  if g.space ≠ 0 then none
  else
    ((s.tlbFind (clusterOf c.b.coreIx) c.b.desc.asid (g.addr x.2.1)).bind (fun e =>
      s.paKey c.b.die (e.pa + g.addr x.2.1 % 2 ^ e.bits))).bind (fun k =>
        if (s.l2Find c.b.die (k / 128)).isSome then none else some (x.1, g.addr x.2.1, keyPlace k))

/-- A load's accesses are performed at issue (log 7); the data reaches its registers with LOAD_DATA_RETURN. `result` makes a
lane's writes from the bytes of its accesses. -/
def State.loadNow (s : State) (c : Ctx) (g : Region) (fill : Bool) (regs : List RegId) (accs : List Acc)
    (result : Nat → List Byte → List RegWrite) : State :=
  let down := downAccs c s g .read accs
  let able := accs.filter (fun x => !down.any (fun d => d.1 == x.1))
  let (hits, rest) := hitsFirst c s g able
  let s := if g.cached then s.pmcCount c.b.coreIx 4 ((rest.map (fun x => g.addr x.2.1 / 128)).dedup).length else s
  let far := rest.filterMap (s.farOf c g)
  let (id, s) := s.owe c regs g
  let s := if far.isEmpty then s else s.updThread c.t (fun th => { th with pends := th.pends.map (fun (p : Pend) =>
    if p.id = id then { p with far := far, pc := c.th.pc } else p) })
  let (got, s) := readAll c s id g fill (hits ++ rest)
  let poison := got.filterMap (fun x => if x.2.2 then some (x.1.1, g.addr x.1.2.1 / 64 * 64) else none)
  let s := (s.imprecise c 25 poison).reportDown c g down
  let ok := c.lanes.filter (fun l => !down.any (fun d => d.1 == l) && !poison.any (fun d => d.1 == l))
  let ws := ok.flatMap (fun l => result l ((able.filter (fun x => x.1 == l)).flatMap (fun a =>
    ((got.find? (fun x => x.1 == a)).map (·.2.1)).getD [])))
  s.post (.loadDataReturn c.t id ws)

/-- A load: refusals, waits, accesses (R226, R230, 13 R349, 10 R262). `bounds` are the byte ranges of R191; `odd` the lanes
that are not aligned. -/
def loadBody (c : Ctx) (s : State) (rg : BitVec 5) (bounds odd accs : List Acc) (nofill : Bool) (regs : List RegId)
    (result : Nat → List Byte → List RegWrite) : Res :=
  let g := c.rg rg
  match (checkRegion c g .load bounds).orElse (fun _ => laneRefusal g 12 odd) with
  | some (code, addr, m) => .refuse code addr m
  | none =>
    match pass c s g .read accs with
    | .prot va m => .refuse 23 va m
    | .wait s => .wait .walk 0 s
    | r =>
      match watched c s g 62 accs with
      | some x => x
      | none =>
        match r with
        | .absent gone => .wait (.page c.b.die c.b.desc.asid) 0 (s.reportPages c g gone 0)
        | _ =>
          match covering c s g accs with
          | some id => .wait (.logDrain id) 0 s
          | none =>
          if s.stamped c.b g then .wait (.stamp g.tag) 0 s
          else if ownAtomic c s g accs then .wait .performed 0 s
          else
            match heldUp c s g .read accs with
            | some (.lines a b) => .wait (.lines a b) 0 (if c.resumed then s else s.pmcCount c.b.coreIx 5 1)
            | some w => .wait w 0 s
            | none => .done (s.loadNow c g (!(nofill && g.space == 0)) regs accs result) [] .seq

/-- A load of one element per lane. -/
def load (i : Instr) (sp : Spec) (rg : BitVec 5) (idx : BitVec 7) (sc : BitVec 2) (size : Nat) (nofill : Bool)
    (put : Ctx → Nat → Nat → List RegWrite) (s : State) : Host.Outcome State Fault Refusal :=
  issue s i sp (fun c s =>
    let accs := c.lanes.map (fun l => (l, c.offset idx sc l, size))
    loadBody c s rg accs (accs.filter (fun x => x.2.1 % size != 0)) accs nofill ((c.writeIds sp).dedup)
      (fun l bs => put c l (leNat bs)))

/-- Roles and operands of a load (01 R26): a MATRIX warp loads its B quarter, whose registers the array instructions name
(07 R168). -/
def loadSpec (streams : Streams) (dst : Opd) (idx : BitVec 7) (rg : BitVec 5) (la : BitVec 4) (roles : List Role) :
    Spec :=
  { plainLa streams [dst, .src idx.toNat, .region rg.toNat] la with roles := roles }

def ldRoles : List Role := [.matrix, .copy, .vector]

def execLd32 (d : BitVec 7) (rg : BitVec 5) (idx : BitVec 7) (sc : BitVec 2) (la : BitVec 4) (s : State) :
    Host.Outcome State Fault Refusal :=
  load (.ld32 d rg idx sc la) (loadSpec .both (.dst d.toNat) idx rg la ldRoles) rg idx sc 4 false
    (fun c l n => c.put false false d l n) s

def execLd64 (d : BitVec 7) (rg : BitVec 5) (idx : BitVec 7) (sc : BitVec 2) (la : BitVec 4) (s : State) :
    Host.Outcome State Fault Refusal :=
  load (.ld64 d rg idx sc la) (loadSpec .both (.dst64 d.toNat) idx rg la ldRoles) rg idx sc 8 false
    (fun c l n => c.put true false d l n) s

/-- A narrow load, sign- or zero-extended to 32 bits. -/
def loadNarrow (i : Instr) (d : BitVec 7) (rg : BitVec 5) (idx : BitVec 7) (sc : BitVec 2) (la : BitVec 4) (size : Nat)
    (signed : Bool) (s : State) : Host.Outcome State Fault Refusal :=
  load i (loadSpec .warp (.dst d.toNat) idx rg la ldRoles) rg idx sc size false
    (fun c l n => c.put false false d l (wrap 32 (asInt (8 * size) signed n))) s

def execLdI8 (d : BitVec 7) (rg : BitVec 5) (idx : BitVec 7) (sc : BitVec 2) (la : BitVec 4) (s : State) :
    Host.Outcome State Fault Refusal := loadNarrow (.ldI8 d rg idx sc la) d rg idx sc la 1 true s
def execLdN8 (d : BitVec 7) (rg : BitVec 5) (idx : BitVec 7) (sc : BitVec 2) (la : BitVec 4) (s : State) :
    Host.Outcome State Fault Refusal := loadNarrow (.ldN8 d rg idx sc la) d rg idx sc la 1 false s
def execLdI16 (d : BitVec 7) (rg : BitVec 5) (idx : BitVec 7) (sc : BitVec 2) (la : BitVec 4) (s : State) :
    Host.Outcome State Fault Refusal := loadNarrow (.ldI16 d rg idx sc la) d rg idx sc la 2 true s
def execLdN16 (d : BitVec 7) (rg : BitVec 5) (idx : BitVec 7) (sc : BitVec 2) (la : BitVec 4) (s : State) :
    Host.Outcome State Fault Refusal := loadNarrow (.ldN16 d rg idx sc la) d rg idx sc la 2 false s

/-- LDN: no L1 line is filled (R227). -/
def execLdn (d : BitVec 7) (rg : BitVec 5) (idx : BitVec 7) (sc : BitVec 2) (la : BitVec 4) (s : State) :
    Host.Outcome State Fault Refusal :=
  load (.ldn d rg idx sc la) (loadSpec .warp (.dst d.toNat) idx rg la [.matrix, .vector]) rg idx sc 4 true
    (fun c l n => c.put false false d l n) s

/-- The issuing thread's `FMT`. -/
def State.curFmt (s : State) : Word :=
  match s.ctx? with
  | some c => c.th.fmt
  | none => 0

/-- LDBP: the top p planes of a bit-plane array (R228). -/
def execLdbp (d : BitVec 7) (rg : BitVec 5) (idx : BitVec 7) (sc : BitVec 2) (la : BitVec 4) (s : State) :
    Host.Outcome State Fault Refusal :=
  let p := fmtPcnt s.curFmt + 1
  let sp : Spec := { plainLa .warp [.run d.toNat p true, .run idx.toNat 2 false, .region rg.toNat] la with
                     roles := [.matrix, .vector] }
  issue s (.ldbp d rg idx sc la) sp (fun c s =>
    let q := fun l => (c.r32 (idx.toNat + 1) l).toNat
    let accs := c.lanes.flatMap (fun l => (List.range p).map (fun j => (l, c.offset idx sc l + j * q l, 4)))
    let bounds := c.lanes.map (fun l => (l, c.offset idx sc l, (p - 1) * q l + 4))
    loadBody c s rg bounds (bounds.filter (fun x => x.2.1 % 4 != 0 || q x.1 % 4 != 0)) accs false ((c.writeIds sp).dedup)
      (fun l bs => (List.range p).flatMap (fun j =>
        c.w32 (d.toNat + j) l false (BitVec.ofNat 32 (recNum bs (4 * j) 4)))))

/-! ## Stores (R225-R229) -/

/-- Writes the enabled bits of one element of `n` bytes (R224, R229). -/
def State.putElem (s : State) (bk : Nat) (b : Block) (g : Region) (o n : Nat) (data en : DWord) (priv fill : Bool)
    (who : Who) (pc : BitVec 56) : State :=
  let full : DWord := BitVec.ofNat 64 (2 ^ (8 * n) - 1)
  if en &&& full = 0 then s
  else if en &&& full = full then s.writeAt bk b g o (leBytes n data.toNat) .write priv fill who pc
  else
    let (old, s) := s.peekAt bk b g o n .write priv fill who pc
    let v := (BitVec.ofNat 64 (leNat old) &&& ~~~en) ||| (data &&& en)
    s.writeAt bk b g o (leBytes n v.toNat) .write priv fill who pc

/-- Writes lane by lane, the highest lane last (R10); lines in L1 before the others. DEDUCED (log 98): each lane's write is a write of its
own, so that lanes which cover a poisoned sector together leave it poisoned (R223). -/
def storeLanes (c : Ctx) (s : State) (g : Region) (size : Nat) (fill : Bool) (lanes : List (Nat × Nat × DWord × DWord)) :
    State :=
  let (hits, rest) := lanes.partition (fun x => g.cached && (s.lineOf c.b g (g.addr x.2.1)).isSome)
  ((hits ++ rest).foldl (fun s x =>
    s.putElem c.t.blk c.b g x.2.1 size x.2.2.1 x.2.2.2 c.priv fill
    (some (c.t, lanesAt g (lanes.map (fun y => (y.1, y.2.1, size))), .inst)) c.th.pc) s).seen

/-- Room in the core's side log. -/
def State.logFull (s : State) (core : Nat) : Bool := 64 ≤ (s.core core).log.length

/-- A whole instruction retires into the side log, with the pages that it waits for (13 R348). -/
def State.logPut (s : State) (c : Ctx) (i : Instr) (g : Region) (lanes : List (Nat × Nat × DWord × DWord))
    (counter : Option Nat) (gone : List Acc) : State :=
  let (id, s) := s.takeFresh
  let core := c.b.coreIx
  let e : LogEntry := { id := id, t := c.t, ctx := c.t.blk, pc := c.th.pc, region := g, ins := i, lanes := lanes,
                        counter := counter, priv := c.priv, waits := !gone.isEmpty }
  let s := (s.updCore core (fun x => { x with log := x.log ++ [e] })).pmcCount core 6 1
  let s := s.reportPages c g gone (4 * 4096 + c.b.die * 256 + c.b.core)
  if gone.isEmpty then s.post (.sideLogReplay core id) else s

/-- Whether the thread has a side-log entry for the slot of a region (13 R348). -/
def ownEntry (c : Ctx) (s : State) (g : Region) : Bool :=
  g.space.toNat ≤ 1 && (s.core c.b.coreIx).log.any (fun e =>
    s.orderedBy c.t e.t e.id && e.region.tag == g.tag && e.region.space.toNat ≤ 1)

/-- What follows the refusals of an instruction that may retire into the side log: translation of `accs`, WATCH on `all`,
the log, waits, and `go` for the lanes that can be performed. -/
def loggable (c : Ctx) (s : State) (i : Instr) (g : Region) (kind : Nat) (all accs : List Acc)
    (lanes : List (Nat × Nat × DWord × DWord)) (go : State → List Acc → Res) : Res :=
  match pass c s g .write accs with
  | .prot va m => .refuse 23 va m
  | .wait s => .wait .walk 0 s
  | r =>
    match watched c s g kind all with
    | some x => x
    | none =>
      let gone := match r with
        | .absent gone => gone
        | _ => []
      if !gone.isEmpty || ownEntry c s g then
        if s.logFull c.b.coreIx then .wait .logRoom c.stage s
        else .done (s.logPut c i g lanes none gone) [] .seq
      else
        match heldUp c s g .write accs with
        | some w => .wait w 0 s
        | none => go s (downAccs c s g .write accs)

/-- The lanes that are not cut off write, and LINK_DOWN names the others. -/
def State.storeNow (s : State) (c : Ctx) (g : Region) (size : Nat) (fill : Bool) (lanes : List (Nat × Nat × DWord × DWord))
    (down : List Acc) : State :=
  -- lines that are not in L1 are misses (14 R370 code 4)
  let miss := (lanes.filter (fun x => !down.any (fun d => d.1 == x.1) && (s.lineOf c.b g (g.addr x.2.1)).isNone)).map
    (fun x => g.addr x.2.1 / 128)
  let s := if g.cached then s.pmcCount c.b.coreIx 4 miss.dedup.length else s
  (storeLanes c s g size fill (lanes.filter (fun x => !down.any (fun d => d.1 == x.1)))).reportDown c g down

/-- A store of one element per lane: `data` and `enables` of each. -/
def storeBody (c : Ctx) (s : State) (i : Instr) (rg : BitVec 5) (idx : BitVec 7) (sc : BitVec 2) (size : Nat)
    (nofill : Bool) (data enables : Nat → DWord) : Res :=
  let g := c.rg rg
  let accs := c.lanes.map (fun l => (l, c.offset idx sc l, size))
  match (checkRegion c g .store accs).orElse (fun _ => laneRefusal g 12 (accs.filter (fun x => x.2.1 % size != 0))) with
  | some (code, addr, m) => .refuse code addr m
  | none =>
    let lanes := accs.map (fun x => (x.1, x.2.1, data x.1, enables x.1))
    loggable c s i g 61 accs accs lanes (fun s down =>
      .done (s.storeNow c g size (!(nofill && g.space == 0)) lanes down) [] .seq)

/-- A plain store: D, or pair D, goes to memory. -/
def store (i : Instr) (streams : Streams) (roles : List Role) (d : BitVec 7) (rg : BitVec 5) (idx : BitVec 7)
    (sc : BitVec 2) (la : BitVec 4) (size : Nat) (nofill : Bool) (s : State) : Host.Outcome State Fault Refusal :=
  issue s i { plainLa streams [srcOpd (size == 8) d, .src idx.toNat, .region rg.toNat] la with roles := roles } (fun c s =>
    storeBody c s i rg idx sc size nofill (fun l => BitVec.ofNat 64 (c.nat (size == 8) d l % 2 ^ (8 * size)))
      (fun _ => BitVec.ofNat 64 (2 ^ (8 * size) - 1)))

def stRoles : List Role := [.copy, .vector]

def execSt32 (d : BitVec 7) (rg : BitVec 5) (idx : BitVec 7) (sc : BitVec 2) (la : BitVec 4) (s : State) :
    Host.Outcome State Fault Refusal := store (.st32 d rg idx sc la) .both stRoles d rg idx sc la 4 false s
def execSt64 (d : BitVec 7) (rg : BitVec 5) (idx : BitVec 7) (sc : BitVec 2) (la : BitVec 4) (s : State) :
    Host.Outcome State Fault Refusal := store (.st64 d rg idx sc la) .both stRoles d rg idx sc la 8 false s
def execSt8 (d : BitVec 7) (rg : BitVec 5) (idx : BitVec 7) (sc : BitVec 2) (la : BitVec 4) (s : State) :
    Host.Outcome State Fault Refusal := store (.st8 d rg idx sc la) .warp stRoles d rg idx sc la 1 false s
def execSt16 (d : BitVec 7) (rg : BitVec 5) (idx : BitVec 7) (sc : BitVec 2) (la : BitVec 4) (s : State) :
    Host.Outcome State Fault Refusal := store (.st16 d rg idx sc la) .warp stRoles d rg idx sc la 2 false s
/-- STN: an absent line is written in L2 (R227). -/
def execStn (d : BitVec 7) (rg : BitVec 5) (idx : BitVec 7) (sc : BitVec 2) (la : BitVec 4) (s : State) :
    Host.Outcome State Fault Refusal := store (.stn d rg idx sc la) .warp [.vector] d rg idx sc la 4 true s

/-- STBE: the bits that V(D+1) enables (R229). -/
def execStbe (d : BitVec 7) (rg : BitVec 5) (idx : BitVec 7) (sc : BitVec 2) (la : BitVec 4) (s : State) :
    Host.Outcome State Fault Refusal :=
  issue s (.stbe d rg idx sc la)
    { plainLa .warp [.run d.toNat 2 false, .src idx.toNat, .region rg.toNat] la with roles := [.vector] } (fun c s =>
    storeBody c s (.stbe d rg idx sc la) rg idx sc 4 false (fun l => (c.r32 d.toNat l).setWidth 64)
      (fun l => (c.r32 (d.toNat + 1) l).setWidth 64))

/-! ## Steps -/

/-- The registers of a completed instruction are written and owed no more (04 R82, 06 R145): a thread that waits for this
goes on. -/
def State.dataReturn (s : State) (t : ThreadRef) (id : Nat) (ws : List RegWrite) : State :=
  -- what a warp issued before a split, both its arms wait for
  let paid := fun (th : Thread) => { th with pends := th.pends.filter (fun p => p.id != id) }
  let (ws, s) := s.mixReturn t id ws
  let s := ((s.applyWrites t ws).updThread t paid).updThread (otherArm t) paid
  let wake := fun (s : State) (t : ThreadRef) =>
    match s.thread? t with
    | none => s
    | some th =>
      match th.hold with
      | some h =>
        (match h.wait with
         | .scoreboard => if h.ins.isNone then s.unhold t else s
         | .pathEnd => if th.pends.isEmpty then s.endPath t 200 else s
         | .otherArm => s.mergeArms t.blk t.warp
         | _ => s)
      | none => s
  if t.warp = 32 then wake s t else wake (wake s t) (otherArm t)

/-- LOAD_DATA_RETURN. -/
def execLoadDataReturn (s : State) : Host.Outcome State Fault Refusal :=
  match s.due with
  | some (.loadDataReturn t id ws) => .next (s.dataReturn t id ws)
  | _ => .next s

/-- A copy command of a core changes. -/
def State.updCopy (s : State) (core id : Nat) (f : CopyCmd → CopyCmd) : State :=
  s.updCore core (fun c => { c with copies := c.copies.map (fun x => if x.id = id then f x else x) })
def State.updLog (s : State) (core id : Nat) (f : LogEntry → LogEntry) : State :=
  s.updCore core (fun c => { c with log := c.log.map (fun x => if x.id = id then f x else x) })

/-- PAGE_WALK: the walk of a miss fills the TLB, or the access that waits finds no leaf (11 R285). Hints never fault
(09 R239): they have no waiter. -/
def execPageWalk (s : State) : Host.Outcome State Fault Refusal :=
  match s.due with
  | some (.pageWalk w) =>
    let die := w.cluster / 16
    -- table entries that are held at their home are waited for (11 R291)
    if s.anyHeld && (s.walkKeys die w.va 4 w.l4).any s.overflowed then .next (s.post (.pageWalk w))
    else
    let r := s.walk die w.asid w.va 4 w.l4
    let s := s.walkHome die w.va w.l4
    let s := match r with
      | .leaf e => s.tlbFill w.cluster e
      | _ => s
    match w.who with
    | .thread t =>
      .next (s.updThread t (fun th => match th.hold with
        | some h =>
          if h.wait = .walk then
            { th with hold := some { h with wait := .again, stage := (match r with | .leaf _ => 0 | _ => 1) },
                      readyAt := s.clock }
          else th
        | none => th))
    | .copy core id => .next (s.post (.copyLanding core id))
    | .log core id => .next (s.post (.sideLogReplay core id))
  | _ => .next s

end Sys2Proof.Machine
end

