-- ==== Sys2Proof/Machine/RankList.lean ====
section
/-!
DEFINITION. Machine/RankList.lean: rank lists as bytes (07 R177): a 32-bit header, then 16-bit entries.
-/
namespace Sys2Proof.Machine

/-- Bytes of a list of `n` entries, its pad included (R177). -/
def listBytes (n : Nat) : Nat := 4 + 4 * ((n + 1) / 2)

/-- Header fields (R177): the source length, the count of entries. -/
def listN (h : Nat) : Nat := h / 2 ^ 11 % 2 ^ 11
def listCount (h : Nat) : Nat := h % 2 ^ 11

/-- Whether a header is well formed by itself (R177). -/
def headerOk (h : Nat) : Bool :=
  h / 2 ^ 22 % 2 ^ 7 == 0 && listN h != 0 && decide (listN h ≤ 1024) && decide (listCount h ≤ listN h)

/-- Entries of a list: the first `n` half-words after the header. -/
def listEntries (bs : List Byte) (n : Nat) : List Nat := (List.range n).map (fun r => leNat ((bs.drop (4 + 2 * r)).take 2))

/-- The header and the entries of the list at the start of some bytes; none where it is malformed, or passes their end
(R177, R179). -/
def rankList (bs : List Byte) : Option (Nat × List Nat) :=
  let h := leNat (bs.take 4)
  let es := listEntries bs (listCount h)
  if bs.length < 4 then none
  else if !headerOk h then none
  else if bs.length < 4 + 2 * listCount h then none
  else if es.all (fun e => decide (e / 2 ^ 10 % 2 ^ 5 = 0 ∧ e % 2 ^ 10 < listN h)) then some (h, es) else none

/-- The bytes of a list, with its zero pad entry where the count is odd (R177). -/
def listImage (h : Nat) (es : List Nat) : List Byte :=
  leBytes 4 h ++ es.flatMap (leBytes 2) ++ (if es.length % 2 = 1 then [0, 0] else [])

end Sys2Proof.Machine
end

