-- ==== Sys2Proof/Machine/CopyPath.lean ====
section
/-!
DEFINITION. Machine/CopyPath.lean: the copy path, element-wise update and hints (09 R232-R240), and COPY_LANDING.
-/
namespace Sys2Proof.Machine

/-! ## Issue -/

/-- ENGINE of a core's unit in a fault record (15 R372). -/
def engineId (unit : Nat) (b : Block) : Nat := unit * 4096 + b.die * 256 + b.core

/-- Where offset `o` of a region lies for a command: its position in the scratch allotment, the bank being the live one at
issue (R217; log 21), or the offset itself. -/
def Block.pos (b : Block) (g : Region) (o : Nat) : Nat :=
  if 2 ≤ g.space.toNat then b.scratchOff g.space.toNat (g.addr o) else o

/-- The lines of a list of byte ranges. -/
def linesOf (ranges : List (Nat × Nat)) : List Nat :=
  (ranges.flatMap (fun r => if r.2 = 0 then [] else List.range' (r.1 / 128) ((r.1 + r.2 - 1) / 128 - r.1 / 128 + 1))).dedup

/-- Clears presence bits: each line is owed by one command more (R218). -/
def Block.owe (b : Block) (lines : List Nat) : Block :=
  { b with absent := lines.foldl (fun m l => kset m l ((kget m l).getD 0 + 1)) b.absent }
/-- A command has written all that it writes of some lines. -/
def Block.unowe (b : Block) (lines : List Nat) : Block :=
  { b with absent := lines.foldl (fun m l =>
      match kget m l with
      | some (n + 2) => kset m l (n + 1)
      | _ => kdel m l) b.absent }

/-- The lanes of a command whose bytes at its source, or at its destination, are among `n` from position `o`; of a command that
has no places lane by lane, all that issued it (15 R372). -/
def CopyCmd.lanesOn (x : CopyCmd) (src : Bool) (o n : Nat) : Word :=
  if x.lanes.isEmpty then x.act
  else maskOf ((x.lanes.filter (fun l =>
    let p := if src then l.2.1 else l.2.2.1
    p < o + n && o < p + l.2.2.2)).map (·.1))

/-- The same for `n` bytes at address `a`; a position in scratch is its own address. -/
def CopyCmd.lanesOver (x : CopyCmd) (src : Bool) (a n : Nat) : Word :=
  let g := if src then x.src else x.dst
  let z := if 2 ≤ g.space.toNat then 0 else g.addr 0
  if a < z then (if z < a + n then x.lanesOn src 0 (a + n - z) else if x.lanes.isEmpty then x.act else 0)
  else x.lanesOn src (a - z) n

/-- Who a report on an access of a command to its source, or to its destination, names. -/
def CopyCmd.who (x : CopyCmd) (core : Nat) (src : Bool) : Who := some (x.t, (fun a => x.lanesOver src a 1), .copy core x.id)

/-- A command enters the copy engine, its presence bits cleared (R218, R232). -/
def State.startCopy (s : State) (c : Ctx) (i : Instr) (src dst : Region) (moves : List (Nat × Nat × Nat))
    (vals : List (Nat × DWord)) (op ty target : Nat) (counter : Option Nat) (presence : Bool)
    (lanes : List (Nat × Nat × Nat × Nat) := []) : State :=
  let (id, s) := s.takeFresh
  let lines := if presence && decide (2 ≤ dst.space.toNat) then linesOf (moves.map (fun m => (m.2.1, m.2.2))) else []
  let cmd : CopyCmd := { id := id, t := c.t, pc := c.th.pc, ins := i, src := src, dst := dst, moves := moves, vals := vals,
                         op := op, ty := ty, target := target, counter := counter, lines := lines, priv := c.priv,
                         paused := none, act := if c.front then 0 else c.act, hits := 0, lanes := lanes }
  let s := s.updBlk c.t.blk (fun b => b.owe lines)
  (s.updCore c.b.coreIx (fun x => { x with copies := x.copies ++ [cmd] })).post (.copyLanding c.b.coreIx id)

/-- The copy path reads and writes after the thread's earlier operations (10 R263): the command issues once they are
performed (log 22). -/
def afterOwn (c : Ctx) (s : State) (r : State → Res) : Res := if s.allPerformed c.t then r s else .wait .performed 0 s

/-- A copy-path instruction (01 R26). -/
def copying (streams : Streams) (opds : List Opd) : Spec := { plain streams opds with roles := [.copy] }

/-- The checks of R191 on the destination and the source, in this order (R246). -/
def checkBoth (c : Ctx) (gd gs : Region) (dst src : List Acc) : Option (Nat × Nat × Word) :=
  (checkRegion c gd .store dst).orElse (fun _ => checkRegion c gs .load src)

/-- Whether ranges of one register overlap. -/
def rangesMeet (x y n : Nat) : Bool := x < y + n && y < x + n

def lane0 (c : Ctx) : Nat := c.low

/-- CPY (R233). -/
def execCpy (d a : BitVec 5) (b : BitVec 7) (s : State) : Host.Outcome State Fault Refusal :=
  issue s (.cpy d a b) (copying .both [.region d.toNat, .region a.toNat, .items b.toNat 3 false]) (fun c s =>
    let dOff := (c.item b.toNat 0).toNat
    let sOff := (c.item b.toNat 1).toNat
    let ctl := c.item b.toNat 2
    let len := fld ctl 31 0
    let gd := c.rg d
    let gs := c.rg a
    if fld ctl 63 36 ≠ 0 then .refuse 1 0 c.allLanes
    else
      match checkBoth c gd gs [(lane0 c, dOff, len)] [(lane0 c, sOff, len)] with
      | some (code, addr, _) => .refuse code addr c.allLanes
      | none =>
        if dOff % 16 ≠ 0 then .refuse 12 (gd.addr dOff) c.allLanes
        else if sOff % 16 ≠ 0 ∨ len % 16 ≠ 0 then .refuse 12 (gs.addr sOff) c.allLanes
        else if len = 0 ∨ 2 ^ 31 < len ∨ (d = a ∧ rangesMeet dOff sOff len) then .refuse 10 (gd.addr dOff) c.allLanes
        else
          afterOwn c s (fun s =>
            .done (s.startCopy c (.cpy d a b) gs gd [(c.b.pos gs sOff, c.b.pos gd dOff, len)] [] 0 0 c.t.blk
              (some (fld ctl 35 32)) true) [] .seq))

/-- Keeps of the lanes (lane, source, destination, bytes) that write one destination only the highest (R234). -/
def topLanes : List (Nat × Nat × Nat × Nat) → List (Nat × Nat × Nat × Nat)
  | [] => []
  | m :: r => if r.any (fun x => x.2.2.1 == m.2.2.1) then topLanes r else m :: topLanes r

/-- CPYG (R234). -/
def execCpyg (d a : BitVec 5) (b : BitVec 7) (s : State) : Host.Outcome State Fault Refusal :=
  issue s (.cpyg d a b) (copying .warp [.region d.toNat, .region a.toNat, .run b.toNat 3 false]) (fun c s =>
    let ctl := (c.r32 (b.toNat + 2) c.low).toNat
    let size := match ctl % 4 with | 0 => 4 | 1 => 8 | 2 => 16 | _ => 128
    let gd := c.rg d
    let gs := c.rg a
    let dst := c.lanes.map (fun l => (l, (c.r32 b.toNat l).toNat, size))
    let src := c.lanes.map (fun l => (l, (c.r32 (b.toNat + 1) l).toNat, size))
    if ctl / 4 % 4 ≠ 0 ∨ 256 ≤ ctl then .refuse 1 0 c.allLanes
    else
      match ((checkBoth c gd gs dst src).orElse (fun _ => laneRefusal gd 12 (dst.filter (fun x => x.2.1 % size != 0)))).orElse
          (fun _ => laneRefusal gs 12 (src.filter (fun x => x.2.1 % size != 0))) with
      | some (code, addr, m) => .refuse code addr m
      | none =>
        afterOwn c s (fun s =>
          let lanes := topLanes ((src.zip dst).map (fun x => (x.1.1, c.b.pos gs x.1.2.1, c.b.pos gd x.2.2.1, size)))
          .done (s.startCopy c (.cpyg d a b) gs gd (lanes.map (·.2)) [] 0 0 c.t.blk (some (ctl / 16 % 16)) true lanes) [] .seq))

/-- The block of the issuer's cluster with an index, if it has not exited. -/
def State.clusterBlock (s : State) (b : Block) (t : Nat) : Option Nat :=
  (s.blocks.find? (fun x => x.2.pkt == b.pkt && x.2.clusIx == b.clusIx && x.2.clIx == t && x.2.task == b.task)).map (·.1)

/-- XST (R235). -/
def execXst (d a : BitVec 5) (b : BitVec 7) (s : State) : Host.Outcome State Fault Refusal :=
  issue s (.xst d a b) (copying .both [.region d.toNat, .region a.toNat, .items b.toNat 3 false]) (fun c s =>
    let dOff := (c.item b.toNat 0).toNat
    let sOff := (c.item b.toNat 1).toNat
    let ctl := c.item b.toNat 2
    let len := fld ctl 31 0
    let t := fld ctl 39 36
    let gd := c.rg d
    let gs := c.rg a
    let other := gd.kind ≠ 0 ∧ !gd.splitp ∧ gd.space ≠ 3
    if fld ctl 63 40 ≠ 0 then .refuse 1 0 c.allLanes
    else if other then .refuse 9 0 c.allLanes
    else
      match checkBoth c gd gs [(lane0 c, dOff, len)] [(lane0 c, sOff, len)] with
      | some (code, addr, _) => .refuse code addr c.allLanes
      | none =>
        if dOff % 16 ≠ 0 then .refuse 12 (gd.addr dOff) c.allLanes
        else if sOff % 16 ≠ 0 ∨ len % 16 ≠ 0 then .refuse 12 (gs.addr sOff) c.allLanes
        else if len = 0 ∨ 2 ^ 31 < len ∨ c.b.clusz ≤ t then .refuse 10 (gd.addr dOff) c.allLanes
        else
          afterOwn c s (fun s =>
            let (nobody, s) := s.takeFresh
            .done (s.startCopy c (.xst d a b) gs gd [(c.b.pos gs sOff, gd.addr dOff, len)] [] 0 0
              ((s.clusterBlock c.b t).getD nobody) (some (fld ctl 35 32)) false) [] .seq))

/-- Operation and element type of a DUPD (R236). -/
def dupdOp (op ty : Nat) : Option (MemOp × ElemTy) :=
  let float := if ty = 1 then some ElemTy.w32 else if ty = 2 then some ElemTy.bf16x2 else none
  match op with
  | 0 => if ty = 0 then some (.add, .w32) else none
  | 1 => float.map (fun e => (.fadd, e))
  | 2 => float.map (fun e => (.fmul, e))
  | 3 => if ty = 0 then some (.min, .w32) else float.map (fun e => (.fmin, e))
  | 4 => if ty = 0 then some (.max, .w32) else float.map (fun e => (.fmax, e))
  | 5 => if ty = 0 then some (.minn, .w32) else none
  | 6 => if ty = 0 then some (.maxn, .w32) else none
  | 7 => if ty = 0 then some (.and, .w32) else none
  | 8 => if ty = 0 then some (.or, .w32) else none
  | 9 => if ty = 0 then some (.xor, .w32) else none
  | _ => none

/-- DUPD (R236): a command, or a side-log entry where a page is not there (13 R348). -/
def execDupd (d : BitVec 5) (a b : BitVec 7) (s : State) : Host.Outcome State Fault Refusal :=
  issue s (.dupd d a b) (copying .warp [.region d.toNat, .run a.toNat 1 false, .run b.toNat 2 false]) (fun c s =>
    let ctl := (c.r32 (b.toNat + 1) c.low).toNat
    let g := c.rg d
    let accs := c.lanes.map (fun l => (l, (c.r32 b.toNat l).toNat, 4))
    let vals := c.lanes.map (fun l => (c.b.pos g (c.r32 b.toNat l).toNat, (c.r32 a.toNat l).setWidth 64))
    if ctl / 64 % 4 ≠ 0 ∨ 4096 ≤ ctl ∨ (dupdOp (ctl % 16) (ctl / 16 % 4)).isNone then .refuse 1 0 c.allLanes
    else
      match (checkRegion c g .update accs).orElse (fun _ => laneRefusal g 12 (accs.filter (fun x => x.2.1 % 4 != 0))) with
      | some (code, addr, m) => .refuse code addr m
      | none =>
        let counter := some (ctl / 256 % 16)
        let r := pass c s g .write accs
        match r with
        | .wait s => .wait .walk 0 s
        | _ =>
          let gone := match r with
            | .absent gone => gone
            | _ => []
          if !gone.isEmpty || ownEntry c s g then
            if s.logFull c.b.coreIx then .wait .logRoom c.stage s
            else
              .done (s.logPut c (.dupd d a b) g (accs.map (fun x => (x.1, x.2.1, (c.r32 a.toNat x.1).setWidth 64, BitVec.ofNat 64 ctl)))
                counter gone) [] .seq
          else
            afterOwn c s (fun s =>
              .done (s.startCopy c (.dupd d a b) Region.empty g [] vals (ctl % 16) (ctl / 16 % 4) c.t.blk counter false
                (accs.map (fun x => (x.1, 0, c.b.pos g x.2.1, 4)))) [] .seq))

/-! ## Landing -/

/-- What a landing meets at one place of a command. -/
inductive Land
  | ok
  | again                        -- a line, a granule or a walk is waited for
  | walk (va : Nat)
  | absent (va : Nat)
  | stop (code addr : Nat)

def firstLand : List Land → Land
  | [] => .ok
  | .ok :: r => firstLand r
  | x :: _ => x

/-- Whether an earlier command or engine instruction of the block still owes a scratch line that `n` bytes from `o` touch (07
R162). -/
def State.owedBefore (s : State) (core : Nat) (x : CopyCmd) (o n : Nat) : Bool :=
  let k := s.core core
  (linesOf [(o, n)]).any (fun l =>
    k.copies.any (fun y => y.t.blk == x.t.blk && decide (y.id < x.id) && y.lines.contains l)
      || (k.array ++ k.tile ++ k.rank).any (fun (e : EngineOp) => e.blk == x.t.blk && decide (e.id < x.id) && e.lines.contains l))

/-- Whether a read of scratch by a command waits: for the lines that are absent, an RLST, which stands in the front thread's order
with the engines, for those that were owed before it (R219, 07 R162). -/
def State.readWaits (s : State) (b : Block) (x : CopyCmd) (o n : Nat) : Bool :=
  match x.ins with
  | .rlst _ _ _ _ => s.owedBefore b.coreIx x o n
  | _ => b.absentIn o n

/-- What stands before `n` bytes of a command's region. -/
def State.landBar (s : State) (b : Block) (x : CopyCmd) (g : Region) (o n : Nat) (acc : Access) (read : Bool) : Land :=
  if 2 ≤ g.space.toNat then (if read && s.readWaits b x o n then .again else .ok)
  else if ((s.entry b.die g.tag).map (·.state)) = some .lost then .stop 11 (128 * g.base.toNat)
  else
    match s.barOf b g o n acc x.priv with
    | .none => if read && s.stamped b g then .again else .ok
    | .lines _ _ | .overflow => .again
    | .prot va => .stop 23 va
    | .down va => .stop 29 va
    | .miss va =>
      match s.translateNow b.die (clusterOf b.coreIx) b.desc va acc x.priv with
      | .hit _ => .walk va
      | .prot => .stop 23 va
      | _ => .absent va

/-- Watchpoints that look at the copy engine report an access of a command, once each (15 R389, R390). -/
def State.copyWatch (s : State) (core : Nat) (b : Block) (x : CopyCmd) (g : Region) (kind o n : Nat) : State :=
  if 2 ≤ g.space.toNat then s
  else
    (List.range 4).foldl (fun s w =>
      match s.watchHit b g kind [(0, o, n)] w with
      | none => s
      | some (a, _) =>
        let seen := (((s.core core).copies.find? (fun y => y.id == x.id)).map (fun y => y.hits.testBit w)).getD true
        if seen || !bitOf (s.cdReg b.die (0x388 + w)) 59 then s
        else
          let s := (s.watchCount b.die w).updCopy core x.id (fun y => { y with hits := y.hits + 2 ^ w })
          -- the lowest matching byte of the command's lanes, and every lane that matches
          let src := kind == 62
          let bytes := (wpBytes (s.cdReg b.die (0x380 + w)) (s.cdReg b.die (0x384 + w)) 0 (2 ^ 64)).filter (fun z =>
            !x.lanes.isEmpty && x.lanesOver src z 1 != 0)
          let a := (bytes.head?).getD a
          let m := if x.lanes.isEmpty then x.act else bytes.foldl (fun m z => m ||| x.lanesOver src z 1) 0
          let r := s.record x.t 26 1 x.pc a m (engineId 1 b)
          s.postFault x.t { r with flags := r.flags ||| BitVec.ofNat 8 (16 * w) }) s

/-- Reads bytes for the copy path, line by line: the bytes and whether any sector is poisoned. -/
def State.copyRead (s : State) (b : Block) (x : CopyCmd) (o n : Nat) : List Byte × Bool × State :=
  if 2 ≤ x.src.space.toNat then
    match s.blk? x.t.blk with
    | none => ([], false, s)
    | some y =>
      let bad := y.scratchFailing o n
      let s := if bad.isEmpty then s else
        (s.updBlk x.t.blk (fun y => { y with spoison := (y.spoison ++ bad).dedup })).mismatch (x.who b.coreIx true) x.pc bad 0
      (cread y.scratch o n, !bad.isEmpty || (sectorsOf o n).any y.spoison.contains, s)
  else
    (chunks 128 4 o n).foldl (fun (r : List Byte × Bool × State) p =>
      let (bs, q, s) := r.2.2.readAt x.t.blk b x.src p.1 p.2 .read x.priv false (x.who b.coreIx true) x.pc
      (r.1 ++ bs, r.2.1 || q, s)) ([], false, s)

/-- Marks the sectors of bytes that a copy wrote as poisoned (R223). -/
def State.copyPoison (s : State) (bk : Nat) (b : Block) (g : Region) (o n : Nat) (priv : Bool) : State :=
  if 2 ≤ g.space.toNat then
    s.updBlk bk (fun b => { b with spoison := (b.spoison ++ sectorsOf o n).dedup })
  else
    let a := g.addr o
    match s.lineOf b g a with
    | some l => s.l1Upd l (fun x => { x with poison := x.poison ||| ((sectorsOf a n).map (fun k => 2 ^ (k % 2))).foldl (· ||| ·) 0 })
    | none =>
      if g.space = 1 then s.updCd b.die (fun c => { c with shpoison := (c.shpoison ++ sectorsOf a n).dedup })
      else
        match s.translate b a .write priv with
        | .hit k =>
          match s.l2Find b.die (k / 128) with
          | some l => { s with l2 := s.l2.map (fun x => if l.same x then
              { x with poison := x.poison ||| ((sectorsOf k n).map (fun j => 2 ^ (j % 2))).foldl (· ||| ·) 0 } else x) }
          | none => s.addPoison (sectorsOf k n)
        | _ => s

/-- Whether a command writes the shadow bank of its target block: an XST, or an RLST to exchange space (R217, 07 R181). -/
def CopyCmd.toShadow (x : CopyCmd) : Bool :=
  x.dst.space == 3 && (match x.ins with
    | .xst _ _ _ | .rlst _ _ _ _ => true
    | _ => false)

/-- Writes bytes for the copy path: to the region, or to the shadow bank of the target block (R217, R235). -/
def State.copyWrite (s : State) (b : Block) (x : CopyCmd) (o : Nat) (bs : List Byte) (poison : Bool) : State :=
  if x.toShadow then
    s.updBlk x.target (fun t =>
      let at_ := t.allot.scratch - t.allot.xbytes + (if t.swapped then 0 else t.allot.xbytes / 2) + o
      let t := t.scratchPut at_ bs
      if poison then { t with spoison := (t.spoison ++ sectorsOf at_ bs.length).dedup } else t)
  else
    let s := if 2 ≤ x.dst.space.toNat then s.updBlk x.t.blk (fun b => b.scratchPut o bs)
             else s.writeAt x.t.blk b x.dst o bs .write x.priv false (x.who b.coreIx false) x.pc
    if poison then s.copyPoison x.t.blk b x.dst o bs.length x.priv else s

/-- Presence bits of the lines that no remaining move of a command touches are set again (R218). -/
def State.settleLines (s : State) (core id : Nat) : State :=
  match (s.core core).copies.find? (fun y => y.id == id) with
  | none => s
  | some x =>
    let left := linesOf (x.moves.map (fun m => (m.2.1, m.2.2)))
    let done := x.lines.filter (fun l => !left.contains l)
    (s.updBlk x.t.blk (fun b => b.unowe done)).updCopy core id (fun y => { y with lines := y.lines.filter left.contains })

/-- A command is over: presence bits set, counter counted, entry gone (R232, 14 R363). -/
def State.copyDone (s : State) (core : Nat) (x : CopyCmd) : State :=
  let s := (s.updCopy core x.id (fun y => { y with moves := [] })).settleLines core x.id
  let s := match x.counter with
    | some n => s.updBlk x.t.blk (fun b => { b with counts := lset b.counts n (· + 1) })
    | none => s
  let s := s.updCore core (fun c => { c with copies := c.copies.filter (fun y => y.id != x.id) })
  -- an engine may have waited for the list of an RLST to be read (07 R162)
  match x.ins with
  | .rlst _ _ _ _ => s.postAll [.engineStart core .tile, .engineStart core .rank]
  | _ => s

/-- A command stops with an imprecise fault that names the lanes that cause it: it counts as complete (R238). -/
def State.copyStop (s : State) (core : Nat) (b : Block) (x : CopyCmd) (code addr : Nat) (m : Word) : State :=
  (s.postFault x.t (s.record x.t code 1 x.pc addr m (engineId 1 b))).copyDone core x

/-- The lanes of a command whose bytes lie in the page of an address. -/
def CopyCmd.pageLanes (x : CopyCmd) (src : Bool) (va : Nat) : Word := x.lanesOver src (va / 2 ^ 14 * 2 ^ 14) (2 ^ 14)

/-- What a landing does where something stands in its way, at its source or at its destination; `m` are the lanes of the bytes
that were to land. -/
def State.landWait (s : State) (core : Nat) (b : Block) (x : CopyCmd) (acc : Access) (src : Bool) (m : Word) : Land → State
  | .ok => s
  | .again => s.post (.copyLanding core x.id)
  | .walk va => s.post (.pageWalk { cluster := clusterOf core, asid := b.desc.asid, l4 := b.desc.l4pa, va := va, acc := acc,
                                    priv := x.priv, who := .copy core x.id })
  | .absent va =>
    (s.updCopy core x.id (fun y => { y with paused := some (b.die, b.desc.asid) })).ringPut b.die
      (s.record x.t 22 2 x.pc va (x.pageLanes src va) (engineId 1 b))
  | .stop code addr =>
    -- a page that refuses stops every lane of it, a borrow that is lost all, a link what was to cross it
    (if code = 29 then s.countSeam b.die (s.accessRoute b addr) else s).copyStop core b x code addr (if code = 23 then x.pageLanes src addr else if code = 11 then x.act else m)

/-- The bytes that land next: a run within one line of the destination, whole or one of its aligned 16-byte units, as the device
chooses (R233, 10 R249); an element of CPYG whole. Answers the run and what is left. -/
def nextRun (x : CopyCmd) (f : Nat) : Option ((Nat × Nat × Nat) × List (Nat × Nat × Nat)) :=
  match x.moves with
  | [] => none
  | ms =>
    let j := Config.freeNat (nth f 0) % ms.length
    match ms[j]? with
    | none => none
    | some (so, d, n) =>
      let rest := ms.take j ++ ms.drop (j + 1)
      match x.ins with
      | .cpyg _ _ _ => some ((so, d, n), rest)
      | _ =>
        let lines := (d + n - 1) / 128 - d / 128 + 1
        let k := d / 128 + Config.freeNat (nth f 1) % lines
        let lo := max d (128 * k)
        let hi := min (d + n) (128 * k + 128)
        let units := (hi - 1) / 16 - lo / 16 + 1
        let u := Config.freeNat (nth f 2) % (units + 1)
        let (lo, hi) := if u = 0 then (lo, hi) else (max lo (16 * (lo / 16 + u - 1)), min hi (16 * (lo / 16 + u)))
        let left := (if d < lo then [(so, d, lo - d)] else []) ++ (if hi < d + n then [(so + (hi - d), hi, d + n - hi)] else [])
        some ((so + (lo - d), lo, hi - lo), rest ++ left)

/-- One landing of a move. -/
def State.landMove (s : State) (core : Nat) (b : Block) (x : CopyCmd) : State :=
  let (f, s) := s.takeFree
  match nextRun x f with
  | none => s.copyDone core x
  | some ((so, d, n), left) =>
    let src := firstLand ((chunks 128 4 so n).map (fun p => s.landBar b x x.src p.1 p.2 .read true))
    let dst := if x.toShadow then Land.ok else s.landBar b x x.dst d n .write false
    match src with
    | .ok =>
      match dst with
      | .ok =>
        let s := s.copyWatch core b x x.src 62 so n
        let (bs, p, s) := s.copyRead b x so n
        let s := if x.toShadow then s else s.copyWatch core b x x.dst 61 d n
        let s := s.copyWrite b x d bs p
        let s := (s.updCopy core x.id (fun y => { y with moves := left })).settleLines core x.id
        if left.isEmpty then s.copyDone core x else s.post (.copyLanding core x.id)
      | w => s.landWait core b x .write false (x.lanesOn false d n) w
    | w => s.landWait core b x .read true (x.lanesOn true so n) w

/-- Updates an element of 4 bytes in place (R236): in scratch, at the bank, in the die's L2 or at the home. -/
def State.updateElem (s : State) (bk : Nat) (b : Block) (x : CopyCmd) (op : MemOp) (ty : ElemTy) (o : Nat) (v : DWord) :
    State :=
  let f := fun (old : List Byte) => leBytes 4 (elemOp op ty 4 (BitVec.ofNat 64 (leNat old)) v 0).toNat
  let poison := fun (s : State) (addr : Nat) => s.postFault x.t (s.record x.t 25 1 x.pc addr (x.lanesOn false o 4) (engineId 1 b))
  if 2 ≤ x.dst.space.toNat then
    match s.blk? bk with
    | none => s
    | some y =>
      let bad := y.scratchFailing o 4
      if !bad.isEmpty then
        (s.updBlk bk (fun y => { y with spoison := (y.spoison ++ bad).dedup })).mismatch (x.who b.coreIx false) x.pc bad 0
      else if y.spoison.contains (o / 64) then poison s (o / 64 * 64)
      else s.updBlk bk (fun y => { y with scratch := cwrite y.scratch o (f (cread y.scratch o 4)) })
  else
    let a := x.dst.addr o
    let key := match s.lineOf b x.dst a with
      | some l => some (128 * l.phys + a % 128)
      | none => (match s.translate b a .write x.priv with
        | .hit k => some k
        | _ => none)
    let s := match s.lineOf b x.dst a with
      | some l =>
        let s := s.l1Back l
        { s with l1 := s.l1.filter (fun y => !l.same y) }
      | none => s
    if x.dst.space = 1 then
      let bad := s.sharedFailing b.die a 4
      if !bad.isEmpty then
        (s.updCd b.die (fun c => { c with shpoison := (c.shpoison ++ bad).dedup })).mismatch (x.who b.coreIx false) x.pc bad 0
      else if (s.cd b.die).shpoison.contains (a / 64) then poison s (a / 64 * 64)
      else s.sharedPut b.die a (f (s.sharedRead b.die a 4))
    else
      match key with
      | none => s
      | some k =>
        let who := x.who b.coreIx false
        if s.eighths b.die < 8 then
          let (y, gone, s) := s.lineRead b.die (k / 128) (who.moved a k) x.pc
          let bad := y.failing k 4
          let s := if bad.isEmpty then s else s.poisonLine b x.dst a .write x.priv bad
          let s := s.mismatch who x.pc ((gone.map (fun i => i % 2) ++ bad).dedup.map (fun i => 2 * (a / 128) + i)) (keyPlace k)
          if !bad.isEmpty then s
          else if y.poisoned k 4 then poison s (a / 64 * 64)
          else
            let bs := f ((y.data.drop (k % 128)).take 4)
            -- release sides wait for an entry of the side log, and for no command of the copy path (10 R254, R266)
            let ts := if (s.core b.coreIx).copies.any (fun y => y.id == x.id) then [] else [x.t]
            let s := s.lineWrite b.die k bs ts (who.moved a k) x.pc
            -- host and pool memory take what a thread writes at once (10 R267)
            if portKey k then s.homeWrite k bs else s
        else
          let s := s.homeWatch k 4 60 (who.moved a k) x.pc
          let (old, gone, s) := s.homeRead k 4
          let bad := (gone ++ s.failing k 4).dedup
          let s := (s.addPoison bad).mismatch who x.pc (bad.map (fun y => y + a / 64 - k / 64)) (keyPlace k)
          if !bad.isEmpty then s
          else if s.poison.contains (k / 64) then poison s (a / 64 * 64) else s.homeWrite k (f old)

/-- One element of a DUPD, in lane order. -/
def State.landUpdate (s : State) (core : Nat) (b : Block) (x : CopyCmd) : State :=
  match x.vals, dupdOp x.op x.ty with
  | (o, v) :: left, some (op, ty) =>
    match s.landBar b x x.dst o 4 .write true with
    | .ok =>
      let s := (s.copyWatch core b x x.dst 60 o 4).updateElem x.t.blk b x op ty o v
      let s := s.updCopy core x.id (fun y => { y with vals := left })
      if left.isEmpty then s.copyDone core x else s.post (.copyLanding core x.id)
    | w => s.landWait core b x .write false (x.lanesOn false o 4) w
  | _, _ => s.copyDone core x

/-- The first landing of an RLST reads the list: a malformed one, or one longer than the descriptor's N (`ty`), copies
nothing and raises RANK_RANGE; otherwise its bytes are what is left to move (07 R181, R184). -/
def State.resolveList (s : State) (core : Nat) (b : Block) (x : CopyCmd) : State :=
  match x.moves with
  | [] => s.copyDone core x
  | (so, d, _) :: _ =>
    let end_ := 128 * x.src.base.toNat + x.src.bytes
    let n := listCount (leNat (cread b.scratch so 4))
    if s.readWaits b x so 4 || s.readWaits b x so (min (4 + 2 * n) (end_ - so)) then s.post (.copyLanding core x.id)
    else
      let list := rankList (cread b.scratch so (min (4 + 2 * n) (end_ - so)))
      if list.isNone || decide (x.ty < n) then
        (s.postFault x.t (s.record x.t 20 1 x.pc 0 0 (engineId 3 b))).copyDone core x
      else (s.updCopy core x.id (fun y => { y with moves := [(so, d, listBytes n)], op := 1 })).post (.copyLanding core x.id)

/-- COPY_LANDING: a transfer of a command lands; the last one completes it (R232). -/
def execCopyLanding (s : State) : Host.Outcome State Fault Refusal :=
  match s.due with
  | some (.copyLanding core id) =>
    match (s.core core).copies.find? (fun x => x.id == id) with
    | none => .next s
    | some x =>
      match s.blk? x.t.blk with
      | none => .next (s.copyDone core x)
      | some b =>
        if x.paused.isSome then .next s
        else .next (match x.ins with
          | .dupd _ _ _ => s.landUpdate core b x
          | .rlst _ _ _ _ => if x.op = 0 then s.resolveList core b x else s.landMove core b x
          | _ => s.landMove core b x)
  | _ => .next s

/-! ## Hints and presence (R237, R239) -/

/-- A part of a hint is dropped (R239, R240). -/
def State.dropHint (s : State) (b : Block) (cause va : Nat) : State :=
  ((s.addCdReg b.die 0x3E4).setCdReg b.die 0x3A0 (BitVec.ofNat 64 (2 ^ 63 + cause * 2 ^ 60 + va % 2 ^ 56))).pmcCount
    b.coreIx 10 1

/-- A hint asks the L2 slice of a physical line for it: the request is on its way with the generation under which it was hashed
(11 R293; log 91). -/
def State.askSlice (s : State) (die line : Nat) : State :=
  s.post (.sliceBounce die (s.sectorPa (2 * line)) (fld (s.cdReg die 0x3C0) 7 0))

/-- The lines of a range within a page of global space, or of a range of die-shared space, are brought into a level: 0 L1, 1 L2, 2
the memory-side cache (R239). Die-shared lines are in no L2 (R220). -/
def State.prefetch (s : State) (b : Block) (g : Region) (o n level : Nat) (priv : Bool) : State :=
  (chunks 128 (n / 128 + 2) o n).foldl (fun s p =>
    let a := g.addr p.1 / 128 * 128
    if g.space = 1 then
      if level = 0 ∧ (s.lineOf b g a).isNone then (s.lineFor b g a .read priv true none 0).2.2 else s
    else
      match s.translateNow b.die (clusterOf b.coreIx) b.desc a .read priv with
      | .hit k =>
        if !s.keyReach b.die k || s.overflowed k then s
        else if level = 2 then (s.touch k).cacheLine k false
        else if level = 1 then s.askSlice b.die (k / 128)
        else
          match s.lineOf b g a with
          | some _ => s
          | none =>
            let s := s.l1Alias b.coreIx b.desc.asid (k / 128) (a / 128)
            let (x, gone, s) := s.lineRead b.die (k / 128) none 0
            (s.mismatch none 0 gone (keyPlace k)).l1Add (newLine b g a (k / 128) (s.glbOf b a) x)
      | _ => s) s

/-- The refusals of PREF and RES: rights of a load, Y and A refused, the range (R239). -/
def hintRefusal (c : Ctx) (g : Region) (off len : Nat) : Option (Nat × Nat × Word) :=
  if g.kind ≠ 0 ∧ !g.splitp ∧ g.kind = 4 then some (9, 0, c.allLanes)
  else (checkRegion c g .load [(lane0 c, off, len)]).map (fun x => (x.1, x.2.1, c.allLanes))

/-- The pages of a range of a global region, in order: offset, length. -/
def hintParts (g : Region) (off len : Nat) : List (Nat × Nat) :=
  (chunks (2 ^ 14) (len / 2 ^ 14 + 2) (g.addr off) len).map (fun p => (p.1 - 128 * g.base.toNat, p.2))

/-- PREF: lines are brought into a level; a part that cannot be is dropped (R239). -/
def execPref (a : BitVec 5) (b : BitVec 7) (s : State) : Host.Outcome State Fault Refusal :=
  issue s (.pref a b) (copying .both [.region a.toNat, .items b.toNat 2 false]) (fun c s =>
    let off := (c.item b.toNat 0).toNat
    let ctl := c.item b.toNat 1
    let level := fld ctl 33 32
    let g := c.rg a
    if fld ctl 63 34 ≠ 0 ∨ level = 3 then .refuse 1 0 c.allLanes
    else
      match hintRefusal c g off (fld ctl 31 0) with
      | some (code, addr, m) => .refuse code addr m
      | none =>
        if 2 ≤ g.space.toNat then .done s [] .seq
        else if s.stamped c.b g then .wait (.stamp g.tag) 0 s
        else if g.space = 1 then .done (s.prefetch c.b g off (fld ctl 31 0) level c.priv) [] .seq
        else
          .done ((hintParts g off (fld ctl 31 0)).foldl (fun s p =>
            let va := g.addr p.1
            match s.translateNow c.b.die (clusterOf c.b.coreIx) c.b.desc va .read c.priv with
            | .hit k =>
              if level = 2 ∧ (keyPlace k = 16 ∨ keyPlace k = 17) then s.dropHint c.b 3 va
              else s.prefetch c.b g p.1 p.2 level c.priv
            | .prot => s.dropHint c.b 1 va
            | _ => s.dropHint c.b 0 va) s) [] .seq)

/-- A block's holds on a range of lines of a memory-side die end. -/
def dropHolds (held : List (Nat × Nat × Nat)) (bk first n : Nat) : List (Nat × Nat × Nat) :=
  held.flatMap (fun h =>
    if h.1 ≠ bk ∨ h.2.1 + h.2.2 ≤ first ∨ first + n ≤ h.2.1 then [h]
    else
      (if h.2.1 < first then [(bk, h.2.1, first - h.2.1)] else [])
        ++ (if first + n < h.2.1 + h.2.2 then [(bk, first + n, h.2.1 + h.2.2 - (first + n))] else []))

/-- Lines that the holds of a memory-side die may cover: 32 MiB (R239). -/
def holdLimit : Nat := 262144

/-- RES: lines are held in the memory-side cache of their homes, or released (R239). -/
def execRes (a : BitVec 5) (b : BitVec 7) (s : State) : Host.Outcome State Fault Refusal :=
  issue s (.res a b) (copying .both [.region a.toNat, .items b.toNat 2 false]) (fun c s =>
    let off := (c.item b.toNat 0).toNat
    let ctl := c.item b.toNat 1
    let g := c.rg a
    if fld ctl 63 33 ≠ 0 then .refuse 1 0 c.allLanes
    else
      match hintRefusal c g off (fld ctl 31 0) with
      | some (code, addr, m) => .refuse code addr m
      | none =>
        if g.space ≠ 0 then .done s [] .seq
        else
          .done ((hintParts g off (fld ctl 31 0)).foldl (fun s p =>
            let va := g.addr p.1
            match s.translateNow c.b.die (clusterOf c.b.coreIx) c.b.desc va .read c.priv with
            | .hit k =>
              if keyPlace k = 16 ∨ keyPlace k = 17 then s.dropHint c.b 3 va
              else if 16 ≤ keyPlace k then s
              else
                let first := keyAddr k / 128
                let n := (keyAddr k + p.2 - 1) / 128 - first + 1
                let m := keyPlace k
                let s' := s.updMd m (fun d => { d with held := dropHolds d.held c.t.blk first n })
                if bitOf ctl 32 then
                  if holdLimit < sumBy ((s'.md m).held) (fun h => h.2.2) + n then s.dropHint c.b 2 va
                  else s'.updMd m (fun d => { d with held := d.held ++ [(c.t.blk, first, n)] })
                else s'
            | .prot => s.dropHint c.b 1 va
            | _ => s.dropHint c.b 0 va) s) [] .seq)

/-- PWAIT: until every scratch line of the range is present (R237). -/
def execPwait (a : BitVec 5) (b : BitVec 7) (s : State) : Host.Outcome State Fault Refusal :=
  issue s (.pwait a b) (copying .both [.region a.toNat, .items b.toNat 2 false]) (fun c s =>
    let off := (c.item b.toNat 0).toNat
    let ctl := c.item b.toNat 1
    let len := fld ctl 31 0
    let g := c.rg a
    if fld ctl 63 32 ≠ 0 then .refuse 1 0 c.allLanes
    else if g.kind ≠ 0 ∧ !g.splitp ∧ g.space.toNat ≤ 1 then .refuse 9 0 c.allLanes
    else
      match checkRegion c g .load [(lane0 c, off, len)] with
      | some (code, addr, _) => .refuse code addr c.allLanes
      | none =>
        let x := c.b.scratchOff g.space.toNat (g.addr off)
        if c.b.absentIn x len then .wait (.lines (x / 128) ((x + len - 1) / 128)) 0 s else .done s [] .seq)

end Sys2Proof.Machine
end

