-- ==== Sys2Proof/Machine/Atomics.lean ====
section
/-!
DEFINITION. Machine/Atomics.lean: atomics, reductions and fences (09 R241-R245), requests at their receivers (16 R396), the
order of `.SC` atomics (10 R258-R260), and the counting steps of the memory-side dies (14 R367).
-/
namespace Sys2Proof.Machine

/-! ## Release sides -/

/-- A release side at a scope: earlier operations performed, and at `.SYSTEM` the window of R261 (10 R254). -/
def releaseAt (c : Ctx) (s : State) (scope : Nat) (r : Res) : Res :=
  if !s.allPerformed c.t then .wait .performed c.stage s
  else
    match (if scope = 4 then c.th.sentWin else none) with
    | some n => if s.window < n + 2 then .wait (.window ((n + 2) * 2 ^ s.winK)) c.stage s else r
    | none => r

/-! ## Places (10 R258) -/

/-- The place that performs an atomic at a key; none for another package. -/
def placeOf (k : Nat) : Option Nat :=
  let p := keyPlace k
  if p < 18 then some p else if 512 ≤ p then some (32 + (p - 512)) else none

/-- The die of a place. -/
def placeDie (n : Nat) : DieId := if n < 16 then .md n else if n = 16 then .md 0 else if n = 17 then .md 8 else .cd (n - 32)

def State.place (s : State) (n : Nat) : ScPlace :=
  (kget s.places n).getD { next := 0, perform := 0, early := [], system := [], marks := [] }
def State.updPlace (s : State) (n : Nat) (f : ScPlace → ScPlace) : State :=
  { s with places := kset s.places n (f (s.place n)) }

/-- The die that a request for a key leaves to (16 R410 for another package). -/
def State.keyDie (s : State) (die k : Nat) : DieId :=
  match placeOf k with
  | some n => placeDie n
  | none => s.homeDie die (keyHome k)

/-! ## Performance at the place (R241) -/

/-- The thread that a request's reports go to: one of this package. -/
def State.reportTo (s : State) (r : Request) : Option ThreadRef :=
  if r.dev = fld s.pkg.devno 7 0 then
    match r.owner with
    | .regs t _ _ => some t
    | .waits t => some t
  else none

/-- Who a report on a request names. -/
def State.whoOf (s : State) (r : Request) : Who :=
  let lanes := fun (a : Nat) =>
    if r.mates.isEmpty then r.lanes
    else maskOf ((r.mates.filter (fun (m : Nat × Nat × Nat) => m.2.1 ≤ a && a < m.2.1 + m.2.2)).map (·.1))
  (s.reportTo r).map (fun t => (t, lanes, match r.owner with
    | .regs _ id _ => .pend id
    | .waits _ => .one))

/-- One atomic at its place, one indivisible step: the old value, or poison with the address of the sector (R223). -/
def State.performAccess (s : State) (r : Request) : (List DWord × Bool) × State :=
  match r.body with
  | .access op ty size k v c _ =>
    if 512 ≤ keyPlace k then
      let die := keyPlace k - 512
      let a := keyAddr k
      let bad := s.sharedFailing die a size
      let s := if bad.isEmpty then s else
        (s.updCd die (fun c => { c with shpoison := (c.shpoison ++ bad).dedup })).mismatch
          (s.whoOf r) r.pc bad (die % 4 * 2)
      if (s.cd die).shpoison.contains (a / 64) then (([v, BitVec.ofNat 64 (a / 64 * 64)], true), s)
      else
        let old := BitVec.ofNat 64 (leNat (s.sharedRead die a size))
        let s := if op = .ld then s else s.sharedPut die a (leBytes size (elemOp op ty size old v c).toNat)
        (([old], false), s)
    else
      let s := s.homeWatch k size 60 (s.whoOf r) r.pc
      let bad := s.failing k size
      let s := s.addPoison bad
      let m := keyPlace k
      let s := bad.foldl (fun s x => s.report (s.reportTo r) r.pc 24 (s.sectorPa x) (8 * 4096 + m % 16 * 256) r.lanes m) s
      if s.poison.contains (k / 64) then
        (([v, BitVec.ofNat 64 (s.sectorPa (k / 64))], true), s)
      else
        let old := BitVec.ofNat 64 (leNat (cread s.mem k size))
        let s := if op = .ld then (s.touch k).cacheLine k false else s.homeWrite k (leBytes size (elemOp op ty size old v c).toNat)
        (([old], false), s)
  | _ => (([], false), s)

/-- An answer goes back to the die, or the package, that asked; the receiver keeps it (16 R396). -/
def State.replyTo (s : State) (here : DieId) (r : Request) (vals : List DWord) (poison : Bool) : State :=
  let s := s.noteSeen r.dev here r.id (some (vals, poison))
  if r.dev = fld s.pkg.devno 7 0 then s.sendOrTake here r.src (.reply r.src r.id r.owner vals poison)
  else
    match here with
    | .md m => s.sendFrame m r.dev [.reply r.src r.id r.owner vals poison]
    | .cd _ => s

def State.performReply (s : State) (here : DieId) (r : Request) : State :=
  let ((vals, p), s) := s.performAccess r
  s.replyTo here r vals p

/-! ## `.SC` atomics (10 R258-R260) -/

/-- Window and device of a `.SYSTEM` stamp. -/
def stampOf (r : Request) : Nat × Nat :=
  match r.body with
  | .access _ _ _ _ _ _ (.system w d) => (w, d)
  | _ => (0, 0)

/-- The order of R259: window, device number, ticket. -/
def stampLe (x y : Request) : Bool :=
  let (a, b) := stampOf x
  let (c, d) := stampOf y
  a < c || (a == c && (b < d || (b == d && x.ticket ≤ y.ticket)))

/-- Whether a request waits at its place: its granule is held for reserve (11 R291). -/
def State.granuleHeld (s : State) (r : Request) : Bool :=
  match r.body with
  | .access _ _ _ k _ _ _ => s.overflowed k
  | .object _ k _ _ => s.overflowed k
  | .push k _ _ _ => s.overflowed k
  | .launch _ _ => false

/-- A place goes on with its sequence: marks that it has reached, then the next number (R258, R260). An atomic whose granule is
held keeps what follows it waiting. -/
def State.advance (s : State) (n : Nat) : Nat → State
  | 0 => s
  | fuel + 1 =>
    let p := s.place n
    match p.marks with
    | (w, at_) :: rest =>
      if at_ ≤ p.perform then
        let due := (p.system.filter (fun r => (stampOf r).1 + 2 ≤ w)).mergeSort stampLe
        if due.any s.granuleHeld then s
        else
        let s := s.updPlace n (fun p =>
          { p with marks := rest, system := p.system.filter (fun r => !decide ((stampOf r).1 + 2 ≤ w)) })
        (due.foldl (fun s r => s.performReply (placeDie n) r) s).advance n fuel
      else
        match p.early.find? (fun r => r.seq == p.perform && !s.granuleHeld r) with
        | none => s
        | some r =>
          let s := s.updPlace n (fun p => { p with perform := p.perform + 1, early := p.early.filter (fun q => q.seq != r.seq) })
          (s.performReply (placeDie n) r).advance n fuel
    | [] =>
      match p.early.find? (fun r => r.seq == p.perform && !s.granuleHeld r) with
      | none => s
      | some r =>
        let s := s.updPlace n (fun p => { p with perform := p.perform + 1, early := p.early.filter (fun q => q.seq != r.seq) })
        (s.performReply (placeDie n) r).advance n fuel

def State.advanceAll (s : State) (n : Nat) : State :=
  s.advance n ((s.place n).early.length + (s.place n).marks.length + 1)

/-- Whether the mark of a window has been handed to a place and passed, or was never needed there: an atomic that comes now
is late (R262). -/
def State.markPassed (s : State) (n w : Nat) : Bool :=
  w * 2 ^ s.winK ≤ s.pkg.timeNs.toNat && !((s.place n).marks.any (fun m => w ≤ m.1))
    && !(s.inbox.any (fun e => match e with
      | .windowMark m => w ≤ m
      | _ => false))

/-- An atomic reaches the place that performs it. -/
def State.atPlace (s : State) (n : Nat) (r : Request) : State :=
  match r.body with
  | .access _ _ _ _ _ _ sc =>
    match sc with
    | .none => s.performReply (placeDie n) r
    | .device =>
      if r.dev = fld s.pkg.devno 7 0 then (s.updPlace n (fun p => { p with early := p.early ++ [r] })).advanceAll n
      else s.performReply (placeDie n) r
    | .system w _ =>
      if s.markPassed n (w + 2) then s.performReply (placeDie n) r
      else s.updPlace n (fun p => { p with system := p.system ++ [r] })
  | _ => s

/-- A request that has its ticket is on its way to another die than it was sent to (16 R398). -/
def State.ticketed (s : State) (r : Request) : State :=
  { s with waitReq := s.waitReq.map (fun (q : Request) => if q.id = r.id ∧ q.dev = r.dev then { q with dst := r.dst, ticket := r.ticket } else q) }

/-- SC_TICKET: the sequencer hands out a device ticket, and for `.DEVICE` order a sequence number of the place (R258,
R259). -/
def execScTicket (s : State) : Host.Outcome State Fault Refusal :=
  match s.due with
  | some (.scTicket r) =>
    match r.body with
    | .access _ _ _ k _ _ sc =>
      let s := s.setPkg (fun p => { p with ticket := p.ticket + 1 })
      let r := { r with ticket := s.pkg.ticket }
      match placeOf k with
      | none =>
        -- memory of another package: on to the port of the origin's PORTMAP, or out of the port that stands on this die
        let d := s.homeDie (match r.src with | .cd n => n | .md _ => 0) (keyHome k)
        let r := { r with dst := d }
        let s := s.ticketed r
        .next (if d = .md 0 then s.sendFrame 0 (keyPlace k - 18) [.request r] else s.send (.md 0) d (.request r))
      | some n =>
        let r := { r with dst := placeDie n, seq := (s.place n).next }
        let s := s.ticketed r
        let s := if sc = .device then s.updPlace n (fun p => { p with next := p.next + 1 }) else s
        .next (if placeDie n = .md 0 then s.atPlace n r else s.send (.md 0) r.dst (.request r))
    | _ => .next s
  | _ => .next s

/-- WINDOW_MARK: at the start of window `w` the sequencer hands every place that has atomics outstanding its mark (R260). -/
def execWindowMark (s : State) : Host.Outcome State Fault Refusal :=
  match s.due with
  | some (.windowMark w) =>
    .next (s.places.foldl (fun s x =>
      let p := x.2
      if p.system.isEmpty && p.early.isEmpty && p.next == p.perform then s
      else
        (s.updPlace x.1 (fun p => { p with marks := p.marks ++ [(w, p.next)] })).sendOrTake (.md 0) (placeDie x.1)
          (.mark x.1 w)) s)
  | _ => .next s

/-- SYSTEM_SC_PERFORM: a mark reaches its place, which performs the group that is due once its sequence is there (R260). -/
def execSystemScPerform (s : State) : Host.Outcome State Fault Refusal :=
  match s.due with
  | some (.systemScPerform n _) => .next (s.advanceAll n)
  | _ => .next s

/-! ## REQUEST_DELIVERY (16 R396) -/

/-- The words of an object operation's answer: 0 done, 1 busy, 2 wait with the owner, 3 park table full (13 R338). -/
def checkedWords : Checked → List DWord
  | .done vals => 0 :: vals
  | .busy => [1]
  | .wait o => [2, ((o.getD 0xFFFF_FFFF).setWidth 64)]
  | .full => [3]

/-- A request for another package's memory, or one that came in at a port. `.error` has sent it on; `.ok` is the request with
the key of this package, to be performed here. -/
def State.viaPort (s : State) (here : DieId) (r : Request) (k : Nat) (body : Nat → ReqBody) : Except State Request :=
  match here with
  | .cd _ => .error s
  | .md m =>
    if r.dev = fld s.pkg.devno 7 0 then
      -- out of the port
      .error (s.sendFrame m (keyPlace k - 18) [.request r])
    else
      -- in at the port: on to the home in this package
      match s.paKey (((s.partDies (mdColumn m)).head?).getD 0) (keyAddr k) with
      | some j =>
        (match placeOf j with
         | some n =>
           let r := { r with dst := placeDie n, body := body j }
           if placeDie n = here then .ok r else .error (s.send here (placeDie n) (.request r))
         | none => .error s)
      | none => .error s

/-- A waiter of another package names no thread of this one (log 28). -/
def State.ownWaiter (s : State) (r : Request) (w : Waiter) : Waiter :=
  if r.dev = fld s.pkg.devno 7 0 then w else { w with t := { w.t with blk := 2 ^ 64 * (r.dev + 1) + w.t.blk } }

/-- A request performed at its place; where its granule is held for reserve it waits there (11 R291). -/
def State.perform (s : State) (here : DieId) (r : Request) : State :=
  let stall := fun (k : Nat) => s.updMd (keyPlace k) (fun d => { d with stalled := d.stalled ++ [r] })
  match r.body with
  | .access _ _ _ k _ _ sc =>
    if sc = .none ∧ s.overflowed k then stall k
    else
      match placeOf k with
      | some n => s.atPlace n r
      | none => s
  | .object op k args w =>
    if s.overflowed k then stall k else
    let s := s.homeWatch k 8 60 (s.whoOf r) r.pc
    let (ans, s) := s.objectStep op k args (s.ownWaiter r w)
    s.replyTo here r (checkedWords ans) false
  | .push k v _ w =>
    if s.overflowed k then stall k else
    let s := s.homeWatch k 8 60 (s.whoOf r) r.pc
    let (st, s) := s.pushStep (s.objDie k (s.ownWaiter r w)) k v
    s.replyTo here r [BitVec.ofNat 64 st] false
  | .launch q pa =>
    match here with
    | .cd d =>
      let (st, s) := s.pushPacket d q pa
      s.replyTo here r [BitVec.ofNat 64 st] false
    | .md _ => s

/-- Whether a request is an `.SC` atomic of this package that has no ticket yet (10 R258, R259). -/
def State.wantsTicket (s : State) (r : Request) : Bool :=
  match r.body with
  | .access _ _ _ _ _ _ sc => sc != .none && r.ticket == 0 && r.dev == fld s.pkg.devno 7 0
  | _ => false

/-- A request at the die that it was sent to. An `.SC` atomic takes its ticket first, whatever place performs it. -/
def State.receive (s : State) (here : DieId) (r : Request) : State :=
  if s.wantsTicket r then s.post (.scTicket r)
  else
  let port := match r.body with
    | .access op ty size k v c sc =>
      if foreignKey k then s.viaPort here r k (fun j => .access op ty size j v c sc) else .ok r
    | .object op k args w => if foreignKey k then s.viaPort here r k (fun j => .object op j args w) else .ok r
    | .push k v t w => if foreignKey k then s.viaPort here r k (fun j => .push j v t w) else .ok r
    | .launch _ _ => .ok r
  match port with
  | .error s => s
  | .ok r => s.perform here r

/-- REQUEST_DELIVERY: a request reaches its receiving die; a repeat is counted, and answered as before. -/
def execRequestDelivery (s : State) : Host.Outcome State Fault Refusal :=
  match s.due with
  | some (.requestDelivery here ctr r) =>
    match s.repeated r.dev here r.id with
    | some reply =>
      let s := s.bump ctr 5
      .next (match reply with
        | some (vals, p) => s.replyTo here r vals p
        | none => s)
    | none => .next ((s.noteSeen r.dev here r.id none).receive here r)
  | _ => .next s

/-! ## ATOM (R241-R243) -/

/-- Element size and type of a width code (02 R52). -/
def atomSize (w : BitVec 2) : Nat := if w = 1 then 8 else 4
def atomTy (w : BitVec 2) : ElemTy := if w = 1 then .w64 else if w = 2 then .bf16x2 else .w32

/-- Distance between operand slots: a pair in the warp stream at the 64-bit width (02 R52). -/
def Ctx.slotStep (c : Ctx) (w : BitVec 2) : Nat := if !c.front && w == 1 then 2 else 1
/-- Byte offset of a lane: index × size. -/
def Ctx.slotOff (c : Ctx) (d : BitVec 7) (w : BitVec 2) (l : Nat) : Nat :=
  (if c.front then (c.r64 d.toNat 0).toNat else (c.r32 d.toNat l).toNat) * atomSize w
/-- Operand slot `j` of a lane, 1 the operand and 2 the new value of CAS. -/
def Ctx.slotVal (c : Ctx) (d : BitVec 7) (w : BitVec 2) (j l : Nat) : DWord :=
  let code := d.toNat + j * c.slotStep w
  if w = 1 then c.r64 code l else (c.r32 code l).setWidth 64

/-- Whether a path carries an atomic (R243). -/
def pathCarries (red : Bool) (op : MemOp) (w : BitVec 2) (scope k : Nat) : Bool :=
  if keyPlace k = 17 then scope != 4
  else if keyPlace k = 16 then
    scope != 4 && w.toNat ≤ 1 && (if red then op == .add else op == .add || op == .swap || op == .cas)
  else true

/-- Accesses whose path cannot carry the atomic. -/
def pathBad (c : Ctx) (s : State) (g : Region) (acc : Access) (red : Bool) (op : MemOp) (w : BitVec 2) (scope : Nat)
    (accs : List Acc) : List Acc :=
  if g.space ≠ 0 then []
  else accs.filter (fun x =>
    match (s.lineOf c.b g (g.addr x.2.1)).filter (fun _ => red) with
    | some l => !pathCarries red op w scope (128 * l.phys)
    | none => match s.translate c.b (g.addr x.2.1) acc c.priv with
      | .hit k => !pathCarries red op w scope k
      | _ => false)

/-- The key of an access of an atomic. -/
def State.atomKey (s : State) (c : Ctx) (g : Region) (x : Acc) : Option Nat :=
  let a := g.addr x.2.1
  if g.space = 1 then some (sharedKey c.b.die a) else
    match s.translate c.b a .atom c.priv with
    | .hit k => some k
    | _ => none

/-- One lane's atomic leaves: to the bank at once, or as a request to its place or to the ticket sequencer. `grp` and `mates` are
the instruction's number and its lanes (15 R389, R390). -/
def sendAtom (c : Ctx) (s : State) (g : Region) (op : MemOp) (d : BitVec 7) (w : BitVec 2) (sc : ScKind) (grp : Nat)
    (mates : List (Nat × Nat × Nat)) (x : Acc) : State :=
  let l := x.1
  match s.atomKey c g x with
  | none => s
  | some k =>
    let code := d.toNat + c.slotStep w
    let ws := if op = .st then [] else if w = 1 then c.w64 code l 0 else c.w32 code l false 0
    let (pend, s) := s.owe c (ws.map (fun r => regId c.front r.reg)) g grp
    let (id, s) := s.newId (.cd c.b.die)
    let place := s.keyDie c.b.die k
    let r : Request := { id := id, dev := fld s.pkg.devno 7 0, src := .cd c.b.die,
                         dst := if sc = .none then place else .md 0, owner := .regs c.t pend ws,
                         body := .access op (atomTy w) (atomSize w) k (c.slotVal d w 1 l) (c.slotVal d w 2 l) sc,
                         pc := c.th.pc, lanes := if c.front then 0 else laneBit l, ticket := 0, seq := 0,
                         mates := if c.front then [] else mates }
    let s := { s with waitReq := s.waitReq ++ [r] }
    if sc = .none ∧ place = .cd c.b.die then s.performReply place r else s.sendOrTake (.cd c.b.die) r.dst (.request r)

/-- How an order and a scope are carried out (10 R258, R259). -/
def scOf (s : State) (ord scope : Nat) : ScKind :=
  if ord ≠ 4 then .none else if scope = 4 then .system s.window (fld s.pkg.devno 7 0) else .device

/-- Whether an order is a release side, an acquire side (10 R254). -/
def isRelease (ord : Nat) : Bool := ord == 2 || ord == 3 || ord == 4
def isAcquire (ord : Nat) : Bool := ord == 1 || ord == 3 || ord == 4

/-- The atomics of the lanes that are not cut off leave in lane order, and LINK_DOWN names the others. -/
def State.atomNow (s : State) (c : Ctx) (g : Region) (op : MemOp) (d : BitVec 7) (w : BitVec 2) (sc : ScKind) (accs down : List Acc) :
    State :=
  let out := accs.filter (fun x => !down.any (fun y => y.1 == x.1))
  let (grp, s) := s.takeFresh
  let mates := out.filterMap (fun x => (s.atomKey c g x).map (fun k => (x.1, k, x.2.2)))
  (out.foldl (fun s x => sendAtom c s g op d w sc (grp + 1) mates x) s).reportDown c g down

/-- ATOM: one indivisible step a lane at the location's place, in lane order; the old value replaces the operand slot. -/
def atom (i : Instr) (op : MemOp) (d : BitVec 7) (w : BitVec 2) (rg : BitVec 5) (ord scope : BitVec 3) (s : State) :
    Host.Outcome State Fault Refusal :=
  issue s i { plain .both [.slots d.toNat (if op = .cas then 3 else 2) (w == 1) (op != .st), .region rg.toNat] with
              roles := [.vector] } (fun c s =>
    if c.stage = 2 then .done s [] .seq
    else
      let g := c.rg rg
      let accs := c.lanes.map (fun l => (l, c.slotOff d w l, atomSize w))
      match checkRegion c g .atom accs with
      | some (code, addr, m) => .refuse code addr m
      | none =>
        match pass c s g .atom accs with
        | .prot va m => .refuse 23 va m
        | .wait s => .wait .walk 0 s
        | .absent gone => .wait (.page c.b.die c.b.desc.asid) 0 (s.reportPages c g gone 0)
        | .go =>
          match laneRefusal g 14 (pathBad c s g .atom false op w scope.toNat accs) with
          | some (code, addr, m) => .refuse code addr m
          | none =>
            match watched c s g 60 accs with
            | some x => x
            | none =>
              let go : Res :=
                let sc := scOf s ord.toNat scope.toNat
                let down := downAccs c s g .atom accs ++
                  (if sc = .none ∨ s.routeUp (route (.cd c.b.die) (.md 0)) then [] else accs)
                let s := s.atomNow c g op d w sc accs down
                if isAcquire ord.toNat then .wait .performed 2 s else .done s [] .seq
              match heldUp c s g .atom accs with
              | some w => .wait w 0 s
              | none => if isRelease ord.toNat then releaseAt c s scope.toNat go else go)

def execAtomAdd (d : BitVec 7) (w : BitVec 2) (rg : BitVec 5) (ord scope : BitVec 3) (s : State) :
    Host.Outcome State Fault Refusal := atom (.atomAdd d w rg ord scope) .add d w rg ord scope s
def execAtomFadd (d : BitVec 7) (w : BitVec 2) (rg : BitVec 5) (ord scope : BitVec 3) (s : State) :
    Host.Outcome State Fault Refusal := atom (.atomFadd d w rg ord scope) .fadd d w rg ord scope s
def execAtomSwap (d : BitVec 7) (w : BitVec 2) (rg : BitVec 5) (ord scope : BitVec 3) (s : State) :
    Host.Outcome State Fault Refusal := atom (.atomSwap d w rg ord scope) .swap d w rg ord scope s
def execAtomCas (d : BitVec 7) (w : BitVec 2) (rg : BitVec 5) (ord scope : BitVec 3) (s : State) :
    Host.Outcome State Fault Refusal := atom (.atomCas d w rg ord scope) .cas d w rg ord scope s
def execAtomAnd (d : BitVec 7) (w : BitVec 2) (rg : BitVec 5) (ord scope : BitVec 3) (s : State) :
    Host.Outcome State Fault Refusal := atom (.atomAnd d w rg ord scope) .and d w rg ord scope s
def execAtomOr (d : BitVec 7) (w : BitVec 2) (rg : BitVec 5) (ord scope : BitVec 3) (s : State) :
    Host.Outcome State Fault Refusal := atom (.atomOr d w rg ord scope) .or d w rg ord scope s
def execAtomXor (d : BitVec 7) (w : BitVec 2) (rg : BitVec 5) (ord scope : BitVec 3) (s : State) :
    Host.Outcome State Fault Refusal := atom (.atomXor d w rg ord scope) .xor d w rg ord scope s
def execAtomMin (d : BitVec 7) (w : BitVec 2) (rg : BitVec 5) (ord scope : BitVec 3) (s : State) :
    Host.Outcome State Fault Refusal := atom (.atomMin d w rg ord scope) .min d w rg ord scope s
def execAtomMax (d : BitVec 7) (w : BitVec 2) (rg : BitVec 5) (ord scope : BitVec 3) (s : State) :
    Host.Outcome State Fault Refusal := atom (.atomMax d w rg ord scope) .max d w rg ord scope s
def execAtomMinn (d : BitVec 7) (w : BitVec 2) (rg : BitVec 5) (ord scope : BitVec 3) (s : State) :
    Host.Outcome State Fault Refusal := atom (.atomMinn d w rg ord scope) .minn d w rg ord scope s
def execAtomMaxn (d : BitVec 7) (w : BitVec 2) (rg : BitVec 5) (ord scope : BitVec 3) (s : State) :
    Host.Outcome State Fault Refusal := atom (.atomMaxn d w rg ord scope) .maxn d w rg ord scope s
def execAtomLd (d : BitVec 7) (w : BitVec 2) (rg : BitVec 5) (ord scope : BitVec 3) (s : State) :
    Host.Outcome State Fault Refusal := atom (.atomLd d w rg ord scope) .ld d w rg ord scope s
def execAtomSt (d : BitVec 7) (w : BitVec 2) (rg : BitVec 5) (ord scope : BitVec 3) (s : State) :
    Host.Outcome State Fault Refusal := atom (.atomSt d w rg ord scope) .st d w rg ord scope s

/-! ## RED (R244, R221) -/

/-- A lane's operand joins the partial of its element (R221). -/
def State.redLane (s : State) (t : ThreadRef) (b : Block) (g : Region) (op : MemOp) (w : BitVec 2) (o : Nat) (v : DWord)
    (priv : Bool) : State :=
  let a := g.addr o
  let e := a % 128 / 4
  let part : Partial := { elem := e, op := op, ty := atomTy w, val := v }
  let last := fun (p : Partial) => p.elem + (if p.ty = .w64 then 1 else 0)
  match s.lineOf b g a with
  | some x =>
    let near := x.parts.filter (fun p => p.elem ≤ last part && e ≤ last p)
    let put := fun (s : State) (ps : List Partial) => s.l1Upd x (fun y => { y with parts := ps, who := (y.who ++ [t]).dedup })
    if near.isEmpty then put s (x.parts ++ [part])
    else if near.all (fun p => p.elem == e && p.op == op && p.ty == part.ty) then
      put s (x.parts.map (fun p => if p.elem = e then { p with val := elemOp op p.ty (atomSize w) p.val v 0 } else p))
    else put (s.combine x) [part]
  | none =>
    let phys := if g.space = 1 then 0 else
      match s.translate b a .write priv with
      | .hit k => k / 128
      | _ => 0
    let s := if g.space = 1 then s else s.l1Alias b.coreIx b.desc.asid phys (a / 128)
    s.l1Add { newLine b g a phys (s.glbOf b a) { data := [], poison := 0, sums := [] } with
              st := .update, parts := [part], who := [t] }

/-- The lanes that are not cut off contribute in lane order, and LINK_DOWN names the others. -/
def State.redNow (s : State) (c : Ctx) (g : Region) (op : MemOp) (w : BitVec 2) (lanes : List (Nat × Nat × DWord × DWord))
    (down : List Acc) : State :=
  (lanes.foldl (fun s x =>
    if down.any (fun y => y.1 == x.1) then s else s.redLane c.t c.b g op w x.2.1 x.2.2.1 c.priv) s).reportDown c g down

/-- RED: each lane contributes to the partial of its element, in lane order. -/
def red (i : Instr) (op : MemOp) (d : BitVec 7) (w : BitVec 2) (rg : BitVec 5) (ord scope : BitVec 3) (s : State) :
    Host.Outcome State Fault Refusal :=
  issue s i { plain .both [.slots d.toNat 2 (w == 1) false, .region rg.toNat] with roles := [.vector] } (fun c s =>
    let g := c.rg rg
    let accs := c.lanes.map (fun l => (l, c.slotOff d w l, atomSize w))
    match checkRegion c g .red accs with
    | some (code, addr, m) => .refuse code addr m
    | none =>
      -- only lines that are not in L1 are translated (11 R286)
      let out := accs.filter (fun x => (s.lineOf c.b g (g.addr x.2.1)).isNone)
      let lanes := accs.map (fun x => (x.1, x.2.1, c.slotVal d w 1 x.1, BitVec.ofNat 64 (2 ^ (8 * atomSize w) - 1)))
      let go := fun (s : State) (down : List Acc) => Res.done (s.redNow c g op w lanes down) [] .seq
      -- the path is checked from the translation of each lane that has one; a page that is not there sends the instruction to
      -- the side log (R243, 13 R348; log 73)
      match pass c s g .write out with
      | .prot va m => .refuse 23 va m
      | .wait s => .wait .walk 0 s
      | _ =>
        match laneRefusal g 14 (pathBad c s g .write true op w scope.toNat accs) with
        | some (code, addr, m) => .refuse code addr m
        | none =>
          let r := loggable c s i g 60 accs out lanes go
          if ord = 2 then
            match r with
            | .done _ _ _ => releaseAt c s scope.toNat r
            | r => r
          else r)

def execRedAdd (d : BitVec 7) (w : BitVec 2) (rg : BitVec 5) (ord scope : BitVec 3) (s : State) :
    Host.Outcome State Fault Refusal := red (.redAdd d w rg ord scope) .add d w rg ord scope s
def execRedFadd (d : BitVec 7) (w : BitVec 2) (rg : BitVec 5) (ord scope : BitVec 3) (s : State) :
    Host.Outcome State Fault Refusal := red (.redFadd d w rg ord scope) .fadd d w rg ord scope s
def execRedMin (d : BitVec 7) (w : BitVec 2) (rg : BitVec 5) (ord scope : BitVec 3) (s : State) :
    Host.Outcome State Fault Refusal := red (.redMin d w rg ord scope) .min d w rg ord scope s
def execRedMax (d : BitVec 7) (w : BitVec 2) (rg : BitVec 5) (ord scope : BitVec 3) (s : State) :
    Host.Outcome State Fault Refusal := red (.redMax d w rg ord scope) .max d w rg ord scope s
def execRedFmin (d : BitVec 7) (w : BitVec 2) (rg : BitVec 5) (ord scope : BitVec 3) (s : State) :
    Host.Outcome State Fault Refusal := red (.redFmin d w rg ord scope) .fmin d w rg ord scope s
def execRedFmax (d : BitVec 7) (w : BitVec 2) (rg : BitVec 5) (ord scope : BitVec 3) (s : State) :
    Host.Outcome State Fault Refusal := red (.redFmax d w rg ord scope) .fmax d w rg ord scope s
def execRedAnd (d : BitVec 7) (w : BitVec 2) (rg : BitVec 5) (ord scope : BitVec 3) (s : State) :
    Host.Outcome State Fault Refusal := red (.redAnd d w rg ord scope) .and d w rg ord scope s
def execRedOr (d : BitVec 7) (w : BitVec 2) (rg : BitVec 5) (ord scope : BitVec 3) (s : State) :
    Host.Outcome State Fault Refusal := red (.redOr d w rg ord scope) .or d w rg ord scope s
def execRedXor (d : BitVec 7) (w : BitVec 2) (rg : BitVec 5) (ord scope : BitVec 3) (s : State) :
    Host.Outcome State Fault Refusal := red (.redXor d w rg ord scope) .xor d w rg ord scope s
def execRedMinn (d : BitVec 7) (w : BitVec 2) (rg : BitVec 5) (ord scope : BitVec 3) (s : State) :
    Host.Outcome State Fault Refusal := red (.redMinn d w rg ord scope) .minn d w rg ord scope s
def execRedMaxn (d : BitVec 7) (w : BitVec 2) (rg : BitVec 5) (ord scope : BitVec 3) (s : State) :
    Host.Outcome State Fault Refusal := red (.redMaxn d w rg ord scope) .maxn d w rg ord scope s

/-- FENCE: a release and an acquire side over the thread's own operations (R245). -/
def execFence (scope : BitVec 3) (s : State) : Host.Outcome State Fault Refusal :=
  issue s (.fence scope) (plain .both []) (fun c s => releaseAt c s scope.toNat (.done s [] .seq))

/-! ## Counting steps -/

/-- HEAT_HALVING: every heat counter of the die is halved (14 R367). -/
def execHeatHalving (s : State) : Host.Outcome State Fault Refusal :=
  match s.due with
  | some (.heatHalving m) =>
    .next (s.updMd m (fun d => { d with heat := (d.heat.map (fun (x : Nat × BitVec 16) => (x.1, x.2 >>> (1 : Nat)))).filter (fun x => x.2 != 0) }))
  | _ => .next s

/-- HEAT_SAMPLE: the heat counter of the request's chunk rises, saturating (14 R367). -/
def execHeatSample (s : State) : Host.Outcome State Fault Refusal :=
  match s.due with
  | some (.heatSample m chunk) =>
    .next (s.updMd m (fun d => { d with heat := cset d.heat chunk (BitVec.ofNat 16 (min ((cget d.heat chunk).toNat + 1) 0xFFFF)) }))
  | _ => .next s

/-- The slice, or the home of a die without L2 ways, serves the request of a hint for a physical line: the line is in L2 (09 R239,
11 R292). -/
def State.serveSlice (s : State) (die pa : Nat) : State :=
  match s.paKey die pa with
  | some k =>
    if !s.keyReach die k || s.overflowed k then s
    else
      let (_, gone, s) := s.lineRead die (k / 128) none 0
      s.mismatch none 0 gone (keyPlace k)
  | none => s

/-- Whether the slice at which a request of generation `gen` stands is not the one that the current map names (11 R293). -/
def State.wrongSlice (s : State) (die pa gen : Nat) : Bool :=
  gen != fld (s.cdReg die 0x3C0) 7 0 && s.eighths die != 8
    && sliceIn ((kget (s.cd die).sliceOld gen).getD []) pa != sliceIn (s.cd die).slice pa

/-- SLICE_BOUNCE: an L2 request reaches the slice that the map of its generation names. A slice that receives an older generation
hashes it again: where the current map names the same slice, it is served; otherwise it is bounced with the current generation, and
the requester re-sends it under that and counts 1 (11 R293). -/
def execSliceBounce (s : State) : Host.Outcome State Fault Refusal :=
  match s.due with
  | some (.sliceBounce die pa gen) =>
    if s.wrongSlice die pa gen then .next ((s.addCdReg die 0x3E5).post (.sliceBounce die pa (fld (s.cdReg die 0x3C0) 7 0)))
    else .next (s.serveSlice die pa)
  | _ => .next s

end Sys2Proof.Machine
end

