-- ==== Sys2Proof/Machine/Replay.lean ====
section
/-!
DEFINITION. Machine/Replay.lean: the side log's replay (13 R348-R351).
-/
namespace Sys2Proof.Machine

/-- Operation and width of a logged reduction. -/
def redForm : Instr → Option (MemOp × BitVec 2)
  | .redAdd _ w _ _ _ => some (.add, w)
  | .redFadd _ w _ _ _ => some (.fadd, w)
  | .redMin _ w _ _ _ => some (.min, w)
  | .redMax _ w _ _ _ => some (.max, w)
  | .redFmin _ w _ _ _ => some (.fmin, w)
  | .redFmax _ w _ _ _ => some (.fmax, w)
  | .redAnd _ w _ _ _ => some (.and, w)
  | .redOr _ w _ _ _ => some (.or, w)
  | .redXor _ w _ _ _ => some (.xor, w)
  | .redMinn _ w _ _ _ => some (.minn, w)
  | .redMaxn _ w _ _ _ => some (.maxn, w)
  | _ => none

/-- Whether an entry stands behind an earlier one of its thread and slot (R350). -/
def behindEntry (s : State) (log : List LogEntry) (e : LogEntry) : Bool :=
  (log.takeWhile (fun x => x.id != e.id)).any (fun x => s.orderedBy e.t x.t x.id && x.region.tag == e.region.tag)

/-- Whether a DUPD in the log still waits for an earlier operation of its thread: its other entries, whatever their slot,
its outstanding operations and its writes that are held (10 R255, R263). -/
def State.updateEarly (s : State) (log : List LogEntry) (e : LogEntry) : Bool :=
  (match e.ins with
   | .dupd _ _ _ => true
   | _ => false) &&
    ((log.takeWhile (fun x => x.id != e.id)).any (fun x => s.orderedBy e.t x.t x.id)
      || ((s.thread? e.t).map (fun th => th.pends.any (fun p => p.memOp && decide (p.id < e.id)))).getD false
      || s.waitReq.any (fun r => match r.owner with
          | .regs u id _ => decide (id < e.id) && s.orderedBy e.t u id
          | .waits _ => false)
      || s.writesHeld e.t)

/-- An entry leaves the log: a DUPD counts, and the entries of its block are looked at again. -/
def State.logDone (s : State) (core : Nat) (e : LogEntry) (performed : Bool) : State :=
  let s := s.updCore core (fun c => { c with log := c.log.filter (fun x => x.id != e.id) })
  let s := match (if performed then e.counter else none) with
    | some n => s.updBlk e.ctx (fun b => { b with counts := lset b.counts n (· + 1) })
    | none => s
  s.postAll (((s.core core).log.filter (fun x => x.ctx == e.ctx)).map (fun x => .sideLogReplay core x.id))

/-- Performs an entry as the instruction would have been performed (R350). -/
def State.logPerform (s : State) (b : Block) (e : LogEntry) (lanes : List (Nat × Nat × DWord × DWord)) : State :=
  match e.ins, redForm e.ins with
  | .dupd _ _ _, _ =>
    let x : CopyCmd := { id := e.id, t := e.t, pc := e.pc, ins := e.ins, src := Region.empty, dst := e.region, moves := [],
                         vals := [], op := 0, ty := 0, target := e.ctx, counter := none, lines := [], priv := e.priv,
                         paused := none, act := maskOf (e.lanes.map (·.1)), hits := 0,
                         lanes := e.lanes.map (fun l => (l.1, 0, l.2.1, 4)) }
    lanes.foldl (fun s l =>
      match dupdOp (fld l.2.2.2 3 0) (fld l.2.2.2 5 4) with
      | some (op, ty) => s.updateElem e.ctx b x op ty l.2.1 l.2.2.1
      | none => s) s
  | _, some (op, w) => lanes.foldl (fun s l => s.redLane e.t b e.region op w l.2.1 l.2.2.1 e.priv) s
  | i, none =>
    let fill := match i with
      | .stn _ _ _ _ _ => false
      | _ => true
    (lanes.foldl (fun s l => s.putElem e.ctx b e.region l.2.1 (logSize i) l.2.2.1 l.2.2.2 e.priv fill
      (some (e.t, lanesAt e.region (lanes.map (fun y => (y.1, y.2.1, logSize i))), .inst)) e.pc) s).seen

/-- Scope of a logged reduction. -/
def redScope : Instr → Nat
  | .redAdd _ _ _ _ sc | .redFadd _ _ _ _ sc | .redMin _ _ _ _ sc | .redMax _ _ _ _ sc | .redFmin _ _ _ _ sc
  | .redFmax _ _ _ _ sc | .redAnd _ _ _ _ sc | .redOr _ _ _ _ sc | .redXor _ _ _ _ sc | .redMinn _ _ _ _ sc
  | .redMaxn _ _ _ _ sc => sc.toNat
  | _ => 0

/-- Whether the path of a logged reduction's page cannot carry it: looked at again where it is performed (09 R243; log 73). -/
def State.logPathBad (s : State) (b : Block) (e : LogEntry) (a : Nat) : Bool :=
  match redForm e.ins with
  | none => false
  | some (op, w) =>
    e.region.space == 0 &&
      (match (s.lineOf b e.region a).map (fun l => 128 * l.phys) with
       | some k => !pathCarries true op w (redScope e.ins) k
       | none =>
         match s.translate b a .write e.priv with
         | .hit k => !pathCarries true op w (redScope e.ins) k
         | _ => false)

/-- The lanes of an entry that touch `n` bytes from an address (15 R372). -/
def LogEntry.lanesAt (e : LogEntry) (a n : Nat) : Word :=
  maskOf ((e.lanes.filter (fun l => e.region.addr l.2.1 < a + n && a < e.region.addr l.2.1 + logSize e.ins)).map (·.1))

/-- What stands before a lane of an entry. -/
def State.logBar (s : State) (b : Block) (e : LogEntry) (o : Nat) : Land :=
  if s.logPathBad b e (e.region.addr o) then .stop 14 (e.region.addr o)
  else if (redForm e.ins).isSome && (s.lineOf b e.region (e.region.addr o)).isSome then .ok
  else
    match s.barOf b e.region o (logSize e.ins) .write e.priv with
    | .none | .down _ => .ok
    | .lines _ _ | .overflow => .again
    | .prot va => .stop 23 va
    | .miss va =>
      match s.translateNow b.die (clusterOf b.coreIx) b.desc va .write e.priv with
      | .hit _ => .walk va
      | .prot => .stop 23 va
      | _ => .absent va

/-- Replays one entry: a page that is still missing is reported again, a refusal drops the entry (R350). -/
def State.logReplay (s : State) (core : Nat) (b : Block) (e : LogEntry) : State :=
  let unit := engineId 4 b
  match firstLand (e.lanes.map (fun l => s.logBar b e l.2.1)) with
  | .again => s.post (.sideLogReplay core e.id)
  | .walk va => s.post (.pageWalk { cluster := clusterOf core, asid := b.desc.asid, l4 := b.desc.l4pa, va := va,
                                    acc := .write, priv := e.priv, who := .log core e.id })
  | .absent va =>
    (s.updLog core e.id (fun x => { x with waits := true })).ringPut b.die
      (s.record e.t 22 2 e.pc va (e.lanesAt (va / 2 ^ 14 * 2 ^ 14) (2 ^ 14)) unit)
  | .stop code va =>
    (s.postFault e.t (s.record e.t code 1 e.pc va (e.lanesAt (va / 2 ^ 14 * 2 ^ 14) (2 ^ 14)) unit)).logDone core e false
  | .ok =>
    let down : List (Nat × Nat × DWord × DWord) := e.lanes.filter (fun l => match s.barOf b e.region l.2.1 (logSize e.ins) .write e.priv with
      | .down _ => true
      | _ => false)
    let s := s.logPerform b e (e.lanes.filter (fun l => !(down.any (fun d => d.1 == l.1))))
    let gone : List Nat := down.map (fun d => d.1)
    let s := match down with
      | [] => s
      | l :: _ => (down.foldl (fun (s : State) (d : Nat × Nat × DWord × DWord) => s.countSeam b.die (s.accessRoute b (e.region.addr d.2.1))) s).postFault e.t (s.record e.t 29 1 e.pc (e.region.addr l.2.1) (maskOf gone) unit)
    s.logDone core e true

/-- SIDE_LOG_REPLAY. -/
def execSideLogReplay (s : State) : Host.Outcome State Fault Refusal :=
  match s.due with
  | some (.sideLogReplay core id) =>
    match (s.core core).log.find? (fun e => e.id == id) with
    | none => .next s
    | some e =>
      if e.waits ∨ behindEntry s (s.core core).log e then .next s
      else if s.updateEarly (s.core core).log e then .next (s.post (.sideLogReplay core id))
      else
        match s.blk? e.ctx with
        | none => .next (s.logDone core e false)
        | some b => .next { ({ s with cur := some e.t }).logReplay core b e with cur := none }
  | _ => .next s

end Sys2Proof.Machine
end

