-- ==== Sys2Proof/Machine/Place.lean ====
section
/-!
DEFINITION. Machine/Place.lean: frames, the spawn of a task from its record, and the placement of gangs and pools (12
R304-R307, 13 R316-R321, 15 R387).
-/
namespace Sys2Proof.Machine

/-! ## Frames (15 R387) -/

/-- The frames of several blocks. -/
def State.manyKeys (s : State) (die : Nat → Nat) (d : CtxDesc) : List Nat → Nat → List (List Nat) → Except Keys (List (List Nat))
  | [], _, acc => .ok acc.reverse
  | va :: r, i, acc =>
    match s.frameKeys (die i) d va with
    | .ok l => s.manyKeys die d r (i + 1) (l :: acc)
    | k => .error k

/-! ## Spawning from a record (13 R319, R329) -/

/-- Whether a record breaks R319: an address out of form or a bit that must be 0. -/
def recordBad (bs : List Byte) : Bool :=
  let n := fun o k => recNum bs o k
  !vaOk (n 0 8) 4 || !vaOk (n 28 8) 8 || (n 40 4 >>> 9) != 0 || (n 40 4 >>> 2) % 64 != 0 || !vaOk (n 44 8) 16 || n 60 4 != 0

/-- What a spawn comes to. -/
inductive Spawn
  | id (w : Word)
  | malformed
  | full
  | absent (va : Nat)

/-- The task unit of a pool takes a record: the lowest FREE entry, DEFERRED or QUEUED, its future claimed (R329). Every page of
these translations is there first; one that refuses the unit makes the record MALFORMED (R320). `ix` is the pool's key. -/
def State.spawn (s : State) (ix rec_ : Nat) : Spawn × State :=
  match kget s.pools ix with
  | none => (.malformed, s)
  | some p =>
    match s.recordAt p.die p.desc rec_ with
    | (.prot, _) => (.malformed, s)
    | (.hit _, bs) =>
      if recordBad bs then (.malformed, s)
      else
        let defer := recNum bs 41 1 % 2 == 1
        match s.endKey p (recNum bs 44 8), (if defer then (.hit 0, .hit 0) else s.queueLinks p (recNum bs 40 1 % 4) rec_) with
        | .absent va, _ => (.absent va, s)
        | .prot _, _ | _, (.prot, _) => (.malformed, s)
        | _, (.absent, _) | _, (.miss, _) => (.absent (rec_ + 52), s)
        | f, _ =>
          match kfree p.tasks 0 (2 ^ p.tcap) with
          | none => (.full, s)
          | some e =>
            let id := mkId ix ((kget p.gens e).getD 0) p.tcap e
            let k : Task := { st := .deferred, rec_ := rec_, id := id, frame := none, blk := none,
                              prio := recNum bs 40 1 % 4, order := 0, waits := none }
            let s := s.updPool ix (fun p => { p with tasks := kset p.tasks e k, live := p.live + 1 })
            let s := if defer then s.syncPool ix e else s.queueTask ix e
            let s := match f with
              | .key a => (s.objectStep .fown a [0] { task := id, t := { blk := 0, warp := 0, armE := false } }).2
              | _ => s
            (.id id, s)
    | _ => (.absent rec_, s)

/-! ## Blocks -/

/-- A placed block of a grid: context, frame, scratch borrow, and the borrow of its arguments (R307, 08 R189). -/
def State.makeBlock (s : State) (pk : Nat) (p : Packet) (core slot scr ix frameVa : Nat) (keys : List Nat) : State :=
  let die := core / 128
  let (bk, s) := s.takeFresh
  let (ctx, s) := s.newCtx die
  let b := freshBlock p pk die (core % 128) slot scr ctx ix (ix / p.clusz) (ix % p.clusz) frameVa keys p.frontImg
  ((({ s with blocks := kset s.blocks bk b }).clearSlots bk).giveB0 bk).askArgs bk p.argBase p.argLen

/-- The barriers of newly placed clusters, and of the dies of a co-operative grid (14 R352). -/
def State.makeBars (s : State) (pk : Nat) (p : Packet) (plan : List (Nat × Nat × Nat)) (first : Nat) : State :=
  let ixs := (List.range plan.length).map (first + ·)
  let clusters := (ixs.map (· / p.clusz)).dedup
  let s := { s with clBars := clusters.foldl (fun m c =>
    kset m (2 ^ 32 * pk + c) (List.replicate 8 (Barrier.fresh (List.range p.clusz)))) s.clBars }
  if p.coop then
    let dies := (plan.map (fun x => x.1 / 128)).dedup
    { s with dieBars := dies.foldl (fun m d =>
        let mine := ((ixs.zip plan).filter (fun x => x.2.1 / 128 == d)).map (·.1)
        kset m (8 * pk + d) (List.replicate 4 (Barrier.fresh mine))) s.dieBars }
  else s

/-- A gang cannot go on for want of a page: one class-R record, and it waits for the replay (15 R387); what is only held for reserve
is tried again (11 R291). -/
def State.gangPage (s : State) (g die unit va : Nat) (asid : BitVec 16) (d : CtxDesc) : State :=
  if s.unitHeld die d va true then s.post .gangPlacement
  else
  ({ s with gangs := kupd s.gangs g (fun x => { x with stuck := true }) }).ringPut die
    (s.unitRecord die 22 2 va (unit * 4096 + die * 256) asid)

/-- A page of a frame or pool that refuses the unit: one class-H record; the gang is not placed (log 25). -/
def State.gangProt (s : State) (g die unit va : Nat) (asid : BitVec 16) : State :=
  ({ s with gangs := kupd s.gangs g (fun x => { x with stuck := true }) }).ringPut die
    (s.unitRecord die 23 3 va (unit * 4096 + die * 256) asid)

/-- A gang of a grid takes the places of a plan (R305, R307). -/
def State.placeGrid (s : State) (g pk : Nat) (p : Packet) (plan : List (Nat × Nat × Nat)) : State :=
  let first := p.next * p.clusz
  let die := fun i => (plan.getD i (0, 0, 0)).1 / 128
  let vas := (List.range plan.length).map (fun i => p.desc.saveva + (first + i) * frameSize p.allot)
  match s.manyKeys die p.desc vas 0 [] with
  | .error (.absent va) => s.gangPage g p.die 6 va 0 p.desc
  | .error (.prot va) => s.gangProt g p.die 6 va 0
  | .error (.ok _) => s
  | .ok keys =>
    let s := s.makeBars pk p plan first
    let s := ((List.range plan.length).zip (plan.zip (vas.zip keys))).foldl (fun s x =>
      s.makeBlock pk p x.2.1.1 x.2.1.2.1 x.2.1.2.2 (first + x.1) x.2.2.1 x.2.2.2) s
    let last := ((plan.getLast?).map (fun x => x.1 / 128 + 1)).getD p.lastDie
    let p : Packet := { p with placed := p.placed + plan.length, next := p.next + plan.length / p.clusz, lastDie := last % 8 }
    let s := { s with packets := kset s.packets pk p, gangs := kdel s.gangs g }
    if p.placed ≤ p.gridM1 then
      let (n, s) := s.takeFresh
      { s with gangs := kset s.gangs n { pkt := pk, blocks := [], hold := false, senior := none, target := none,
                                         stuck := false, since := s.pkg.timeNs.toNat } }
    else s.post (.packetFetch p.die)

/-! ## Pools (13 R316) -/

/-- The first field of a pool descriptor that is outside its limits. -/
def poolBad (bs : List Byte) : Option Nat :=
  let n := fun o k => recNum bs o k
  if n 0 1 < 6 ∨ 20 < n 0 1 ∨ n 1 3 ≠ 0 then some 0
  else if n 4 4 = 0 ∨ 65535 < n 4 4 then some 4
  else if !vaOk (n 8 8) 64 then some 8
  else if (bs.drop 16).any (· != 0) then some 16
  else none

/-- The list of initial records: their addresses in order, or why it fails. -/
def State.initialRecords (s : State) (die : Nat) (d : CtxDesc) : Nat → Nat → List Nat → Except Keys (List Nat)
  | 0, va, acc => if va = 0 then .ok acc.reverse else .error (.prot va)
  | n + 1, va, acc =>
    if va = 0 then .ok acc.reverse
    else if va % 64 ≠ 0 ∨ 2 ^ 56 ≤ va then .error (.prot va)
    else
      match s.recordAt die d va with
      | (.hit _, bs) =>
        if recordBad bs then .error (.prot va)
        else
          let f := recNum bs 44 8
          -- a record that will be queued is written; a page that refuses that fails the list (log 92)
          (match (if f = 0 then Tr.hit 0 else s.unitKey die d f .atom false),
              (if recNum bs 41 1 % 2 = 1 then Tr.hit 0 else s.unitKey die d (va + 52) .write false) with
           | .hit _, .hit _ => s.initialRecords die d n (recNum bs 52 8) (va :: acc)
           | .prot, _ => .error (.prot f)
           | .hit _, .prot => .error (.prot va)
           | .hit _, _ => .error (.absent va)
           | _, _ => .error (.absent f))
      | (.prot, _) => .error (.prot va)
      | _ => .error (.absent va)

/-- The key of a new pool on a die: the lowest free index of its partition (13 R317). -/
def State.poolIx (s : State) (die : Nat) : Option Nat :=
  ((List.range 1023).find? (fun ix => (s.poolAt die ix).isNone)).map (1024 * ((s.partDies die).head?).getD die + ·)

/-- Pages of a pool's header and task table. -/
def tablePages (tcap : Nat) : Nat := upTo 16384 (128 + 16 * 2 ^ tcap) / 16384

/-- A task-mode packet is placed: its pool descriptor is read, the slots are taken, the header and the task table are written, and
the initial records spawned (R316, R318). DESIGN CHOICE (log 96): its slots form no placed cluster, so that its blocks have no cluster,
die or grid barriers. -/
def State.placePool (s : State) (g pk : Nat) (p : Packet) (plan : List (Nat × Nat × Nat)) : State :=
  let die := ((plan.head?).map (fun x => x.1 / 128)).getD p.die
  let bad := fun (s : State) (w : Nat) => ({ s with gangs := kdel s.gangs g }).packetEnd pk 3 w 0
  match s.unitKey die p.desc p.argBase .read false, s.poolIx die with
  | .hit k, some ix =>
    let bs := s.keyRead k 128
    (match poolBad bs with
     | some w => bad s (128 + w)
     | none =>
       let tcap := recNum bs 0 1
       match s.initialRecords die p.desc (2 ^ tcap) (recNum bs 8 8) [], s.pageKeys die p.desc p.desc.saveva (tablePages tcap) [] with
       | .error (.absent va), _ => s.gangPage g die 5 va 0 p.desc
       | .error _, _ => bad s 136
       | _, .absent va => s.gangPage g die 5 va 0 p.desc
       | _, .prot va => s.gangProt g die 5 va 0
       | .ok recs, .ok keys =>
         let pool : Pool := { pkt := pk, die := die, keys := keys, heads := [0, 0, 0, 0], tails := [0, 0, 0, 0], late := [],
                              desc := p.desc, allot := p.allot, tcap := tcap, nframe := recNum bs 4 4,
                              gens := [], tasks := [], slots := plan, live := 0, noframe := 0, ntret := 0, nkill := 0,
                              rescan := false, placed := true, killed := false }
         let s := recs.foldl (fun s r => s.unitReads die p.desc r 64) (s.unitReads die p.desc p.argBase 128)
         let p : Packet := { p with placed := plan.length, lastDie := (die + 1) % 8 }
         let s := { s with pools := kset s.pools ix pool, packets := kset s.packets pk p, gangs := kdel s.gangs g }
         let s := (s.syncRows ix (List.range (2 ^ tcap))).markQueues pool ix true
         ((recs.foldl (fun s r => (s.spawn ix r).2) s).offerWork ix).post (.packetFetch p.die))
  | .hit _, none => s
  | .prot, _ => bad s 128
  | _, _ => s.gangPage g die 5 p.argBase 0 p.desc

/-! ## Choosing (R305, R306, 15 R386) -/

/-- Blocks of a saved gang by cluster, in order. -/
def State.savedClusters (s : State) (g : Gang) : List (List (Nat × Block)) :=
  let bs := g.blocks.filterMap (fun k => (s.blk? k).map (fun b => (k, b)))
  let keys := (bs.map (fun x => x.2.clusIx.toNat)).dedup.mergeSort (· ≤ ·)
  keys.map (fun c => (bs.filter (fun x => x.2.clusIx.toNat == c)).mergeSort (fun x y => x.2.clIx ≤ y.2.clIx))

/-- Whether a context has entries in the die table (15 R386, 08 R212). -/
def State.tied (s : State) (bk : Nat) (b : Block) : Bool :=
  (s.cd b.die).entries.any (fun e => e.2.blk == bk)
    || b.allRegions.any (fun g => g.kind != 0 && g.space.toNat ≤ 1 && !g.save)

/-- Places for the clusters of a saved gang, each where R305 puts it, from the die after the one before it; a tied context goes
back to its die. -/
def State.planSaved (s : State) (p : Packet) (bar : Nat → Bool) :
    List (List (Nat × Block)) → Nat → KMap (List Occ) → List (Nat × Nat × Nat) → Option (List (Nat × Nat × Nat))
  | [], _, _, acc => some acc
  | c :: r, first, extra, acc =>
    let mask := match c.find? (fun x => s.tied x.1 x.2) with
      | some x => BitVec.ofNat 8 (2 ^ x.2.die)
      | none => p.dieMask
    match s.planGang { p with dieMask := mask } s.occupants bar first c.length extra with
    | some (l, extra) => s.planSaved p bar r (((l.head?).map (fun x => (x.1 / 128 + 1) % 8)).getD first) extra (acc ++ l)
    | none => none

/-- The whole partition of a packet's home. -/
def State.samePart (s : State) (a b : Nat) : Bool := (s.partDies a).contains b

/-- Cores that a gang may not use: those of quiesced dies, and for a gang that is not senior those of senior targets
(R306). -/
def State.barred (s : State) (g : Gang) (core : Nat) : Bool :=
  (s.cd (core / 128)).quiet || (g.senior.isNone && s.gangs.any (fun x =>
    x.2.senior.isSome && (x.2.target == some (clusterOf core) || x.2.target == some (256 + core / 128))))

/-- The senior gangs of a die's partition that became senior before one did; all of them for a gang that is not senior. -/
def State.seniorsBefore (s : State) (home : Nat) (n : Option Nat) : List (Nat × Gang) :=
  s.gangs.filter (fun x => (x.2.senior.map (fun m => decide (m < n.getD s.fresh))).getD false
    && ((kget s.packets x.2.pkt).map (fun p => s.samePart p.die home)).getD false)

/-- Whether senior gangs keep a gang from being placed (R306): they go in the order in which they became senior, and a senior
co-operative grid keeps the partition from every gang that is not. -/
def State.shutOut (s : State) (g : Gang) (home : Nat) : Bool :=
  (s.seniorsBefore home g.senior).any (fun x => g.senior.isSome || x.2.target.isNone)

/-- Gangs in the order in which placement is tried: senior ones in order of seniority, then by priority, saved ones first
(R306, 15 R386). -/
def State.candidates (s : State) : List (Nat × Gang) :=
  let open_ := s.gangs.filter (fun x => !x.2.hold && !x.2.stuck)
  let seniors := (open_.filter (fun x => x.2.senior.isSome)).mergeSort (fun x y => x.2.senior.getD 0 ≤ y.2.senior.getD 0)
  let key := fun (x : Nat × Gang) =>
    let p := kget s.packets x.2.pkt
    ((p.map (·.prio)).getD 4, if x.2.blocks.isEmpty && (p.map (fun p => p.placed == 0 || !p.task)).getD true then 1 else 0,
     (p.map (·.taken)).getD 0)
  let le := fun (x y : Nat × Gang) =>
    let (a, b, c) := key x
    let (d, e, f) := key y
    a < d || (a == d && (b < e || (b == e && c ≤ f)))
  seniors ++ (open_.filter (fun x => x.2.senior.isNone)).mergeSort le

/-- Whether a gang is one that was saved: its blocks, or a pool that has been placed before. -/
def State.isSaved (s : State) (g : Gang) : Bool :=
  !g.blocks.isEmpty || s.pools.any (fun x => x.2.pkt == g.pkt && !x.2.placed)

/-- The places of a gang now, if it fits. -/
def State.planOf (s : State) (g : Gang) (p : Packet) : Option (List (Nat × Nat × Nat)) :=
  if s.shutOut g p.die then none
  else if !g.blocks.isEmpty then s.planSaved p (s.barred g) (s.savedClusters g) p.die [] []
  else
    -- a saved pool with a context that is tied to its die goes back there
    let p : Packet := match (if p.task then s.blocks.find? (fun x => x.2.pkt == g.pkt && s.tied x.1 x.2) else none) with
      | some x => { p with dieMask := BitVec.ofNat 8 (2 ^ x.2.die) }
      | none => p
    s.planNext p s.occupants (s.barred g)

/-- GANG_PLACEMENT: the first waiting gang that fits is placed, or its restore is due (R305, R306). -/
def execGangPlacement (s : State) : Host.Outcome State Fault Refusal :=
  -- blocks whose arguments could not be asked for yet (08 R189, R200)
  let late := s.blocks.filter (fun x => x.2.home && !x.2.started && !x.2.argReq)
  let s := late.foldl (fun s x => match kget s.packets x.2.pkt with
    | some p => s.askArgs x.1 p.argBase p.argLen
    | none => s) s
  match s.candidates.findSome? (fun x => match kget s.packets x.2.pkt with
      | some p => if p.owed then none else (s.planOf x.2 p).map (fun plan => (x.1, x.2, p, plan))
      | none => none) with
  | none => .next s
  | some (gk, g, p, plan) =>
    .next ((if s.isSaved g then s.post (.restore gk)
            else (if p.task then s.placePool gk g.pkt p plan else s.placeGrid gk g.pkt p plan).post .gangPlacement))

/-- Resident blocks of a hardware cluster. -/
def State.residents (s : State) (h : Nat) : Nat := (s.blocks.filter (fun x => x.2.home && clusterOf x.2.coreIx == h)).length

/-- The target of a gang that becomes senior (R306): the whole partition for a co-operative grid, a hardware cluster for a block or a
cluster. DESIGN CHOICE (log 37): R306 names none for a pool, which R316 makes one gang on a whole die: the model takes the allowed die
with the fewest resident blocks, as 256 + the die. -/
def State.seniorTarget (s : State) (p : Packet) : Option Nat :=
  let taken := fun (h : Nat) => s.gangs.any (fun x => x.2.senior.isSome && x.2.target == some h)
  if p.coop then none
  else if p.task then
    let ds := (List.range 8).filter (fun d => p.dieMask.getLsbD d && (s.partDies p.die).contains d && !taken (256 + d))
    let of := fun (d : Nat) => (s.blocks.filter (fun x => x.2.home && x.2.die == d)).length
    let best := ds.foldl (fun (a : Option Nat) d => match a with
      | none => some d
      | some b => if of d < of b then some d else some b) none
    some (256 + best.getD 8)
  else
    let hs := ((List.range 128).filter (fun h =>
      p.dieMask.getLsbD (h / 16) && (s.partDies p.die).contains (h / 16)
        && !taken h && !taken (256 + h / 16)))
    let best := hs.foldl (fun (a : Option Nat) h => match a with
      | none => some h
      | some b => if s.residents h < s.residents b then some h else some b) none
    some (best.getD 128)

/-- SENIOR_GANG: a gang that has waited 100 µs gets its target (R306). -/
def execSeniorGang (s : State) : Host.Outcome State Fault Refusal :=
  match s.due with
  | some (.seniorGang gk) =>
    match kget s.gangs gk with
    | some g =>
      (match (if g.senior.isNone ∧ !g.hold then kget s.packets g.pkt else none) with
       | some p =>
         let (n, s) := s.takeFresh
         .next (({ s with gangs := kset s.gangs gk { g with senior := some n, target := s.seniorTarget p } }).post .gangPlacement)
       | none => .next s)
    | none => .next s
  | _ => .next s

end Sys2Proof.Machine
end

