-- ==== Sys2Proof/Machine/Save.lean ====
section
/-!
DEFINITION. Machine/Save.lean: the save frame, pre-emption and restore, and the unpicker (15 R382, R385-R388; 08 R212; 11
R279).
-/
namespace Sys2Proof.Machine

/-! ## Saving a block (15 R386) -/

/-- Whether a save abandons a thread's instruction, which issues again at restore (R386; 02 R38). -/
def Hold.abandoned (h : Hold) : Bool :=
  h.ins.isSome && (match h.wait with
    | .barrier _ _ _ | .otherArm | .trapOther | .trapping | .forever | .pathEnd => false
    | _ => true)

/-- A thread as it is saved: an instruction that waits issues again, a wait for a phase goes on (R386, 14 R362). -/
def Thread.saved (th : Thread) : Thread :=
  -- a precise fault is met again when its instruction issues again (R373)
  let p := (th.record.map (fun r => r.cls == 0)).getD false
  { th with
    record := if p then th.later else th.record, later := if p then none else th.later,
    wins := [], wbUse := none, hold := th.hold.bind (fun h =>
      if h.abandoned then some { wait := .again, ins := none, stage := 0, answer := none, dq := none }
      else if h.ins.isSome then some h
      else match h.wait with
        | .otherArm | .trapOther | .forever | .pathEnd | .again => some h
        | _ => none) }

/-- The pops of abandoned instructions are undone; each pops its own entry again (02 R38). -/
def Block.undoPops (b : Block) : Block :=
  b.threads.foldl (fun b x =>
    match x.2.2.hold with
    | some h => (match (if h.abandoned then h.dq else none) with
      | some v => b.giveBack x.1 x.2.1 h.dqSeq v
      | none => b)
    | none => b) b

/-- A block as it is saved: every held stack entry is spilled (06 R150), and its barriers hold no entry of the core (14 R357). -/
def Block.saved (b : Block) : Block :=
  let b := b.undoPops.mapThreads Thread.saved
  { b with warps := b.warps.map (fun w => { w with held := 0 }), front := { b.front with held := 0 },
           bars := b.bars.map (fun r => { r with entry := false, used := 0 }) }

/-- A block waits at no table any more. -/
def State.leaveQueues (s : State) (bk : Nat) (b : Block) : State :=
  (s.updCd b.die (fun c => { c with queued := c.queued.filter (fun q => q.2.blk != bk)
                                    room := c.room.filter (fun t => t.blk != bk) })).updCore b.coreIx (fun c =>
    { c with room := c.room.filter (fun t => t.blk != bk) })

/-- Requests of a block that a save ends before their grant (08 R212, 11 R276). -/
def State.endWaits (s : State) (bk : Nat) (b : Block) : State :=
  let s := s.leaveQueues bk b
  (((s.cd b.die).entries.filter (fun x => x.2.blk == bk && x.2.state != .held)).foldl (fun s x =>
    s.updEntry b.die x.1 (fun e =>
      { e with state := if e.state = .requesting then .abandoned else e.state, user := .none })) s).localGrants (128 * b.die) 1

/-- The block is written to its frame and leaves its slot; its table entries stay held (R386, 08 R212). -/
def State.saveBlock (s : State) (bk : Nat) (hold nest : Bool) : Saved :=
  match s.blk? bk with
  | none => .done s
  | some b0 =>
    let b := b0.saved
    match s.bodyKeys b (bodyParts b) [] with
    | .error (.absent va) => .absent va
    | .error (.prot va) => .prot bk va
    | .error (.ok _) => .absent b.frameVa
    | .ok body =>
      let s := (s.flushBlock bk).endWaits bk b
      let s := s.clearHead b
      let s := (headParts s b hold nest).foldl (fun s p => s.putHead b p.1 p.2) s
      let s := body.foldl (fun s p => s.putPages p.1 p.2) s
      let core := s.core b.coreIx
      -- a tile that was not written has contents 0 when the block comes back (07 R185)
      let kept := fun (i : Nat) => lane b.tvalid (i / 4096) && lane b.tdirty (i / 4096)
      let s := s.updBlk bk (fun x =>
        { x.saved with
          home := false, absent := [], argReq := x.started, tile := x.tile.filter (fun e => kept e.1),
          tdirty := x.tdirty &&& x.tvalid, attSave := if x.attUsed then core.att else [],
          recSave := if x.recUsed then core.recon else [] })
      let s := s.updCore b.coreIx (fun c => { c with scratchTab := c.scratchTab.filter (fun x => x.2.blk != bk) })
      .done (s.updCd b.die (fun c => { c with saving := c.saving.filter (· != bk), parking := c.parking.filter (· != bk) }))

/-! ## Pre-emption on request (15 R385) -/

/-- The block with a context number on a die. -/
def State.ctxBlock (s : State) (die ctx : Nat) : Option (Nat × Block) :=
  s.blocks.find? (fun x => x.2.die == die && x.2.ctx.toNat == ctx)

/-- Every resident block of a block's gang: the block, its cluster, its co-operative grid, or its pool's slots. -/
def State.gangOf (s : State) (bk : Nat) (b : Block) : List Nat :=
  let task := ((kget s.packets b.pkt).map (·.task)).getD false
  let poolCores := (s.pools.find? (fun p => p.2.pkt == b.pkt)).map (·.2.slots)
  (s.blocks.filter (fun x => x.2.home && (x.1 == bk ||
    (if task then ((poolCores.map (fun l => l.any (fun y => y.1 == x.2.coreIx && y.2.1 == x.2.slot))).getD false)
     else x.2.pkt == b.pkt && (b.coop || x.2.clusIx == b.clusIx))))).map (·.1)

/-- A write of PREEMPT: with `GO`, and no save under way, the gang of the context stops and its save is due. -/
def State.preempt (s : State) (die : Nat) (v : DWord) : State :=
  if !bitOf v 0 ∨ bitOf (s.cdReg die 0x3B3) 63 then s
  else
    match s.ctxBlock die (fld v 47 32) with
    | none => s
    | some (bk, b) =>
      if !b.home ∨ b.killed.isSome then s
      else
        let s := s.setCdReg die 0x3B3 (setFld (if bitOf v 1 then 2 else 0) 63 63 1)
        (s.updCd die (fun c => { c with saving := c.saving ++ s.gangOf bk b })).post (.preemptSave die)

def execPreempt (s : State) : Host.Outcome State Fault Refusal :=
  match s.due with
  | some (.preempt die v) => .next (s.preempt die v)
  | _ => .next s

/-- Saves blocks in turn; stops at the first body page that is missing. -/
def State.saveAll (s : State) (hold : Bool) : List Nat → Saved
  | [] => .done s
  | bk :: r =>
    match s.saveBlock bk hold false with
    | .done s => s.saveAll hold r
    | k => k

/-- The tasks of saved slots are READY chains, in slot order; the pool has no slots until it is placed again (13 R321). -/
def State.parkPool (s : State) (blks : List Nat) (ix : Nat) : State :=
  let s := blks.foldl (fun s bk =>
    match (s.blk? bk).bind s.taskOf with
    | some (px, _, e, _) =>
      let (n, s) := s.takeFresh
      (s.updTask px e (fun k => { k with st := .ready, order := n })).syncPool px e
    | none => s) s
  (match kget s.pools ix with
   | some p => s.markQueues p ix false
   | none => s).updPool ix (fun p => { p with placed := false, slots := [] })

/-- A gang that waits to be restored. -/
def savedGang (s : State) (pkt : Nat) (blks : List Nat) (hold : Bool) : Gang :=
  { pkt := pkt, blocks := blks, hold := hold, senior := none, target := none, stuck := false, since := s.pkg.timeNs.toNat }

/-- PREEMPT_SAVE: once the gang's issued work is done, every block goes to its frame and the gang waits (15 R386). -/
def execPreemptSave (s : State) : Host.Outcome State Fault Refusal :=
  match s.due with
  | some (.preemptSave die) =>
    let hold := bitOf (s.cdReg die 0x3B3) 1
    -- the gang of one request
    let mine := (s.cd die).saving.filter (fun bk => ((s.blk? bk).map (fun b => b.home && b.killed.isNone)).getD false)
    let close := fun (s : State) => s.setCdReg die 0x3B3 0
    match mine with
    | [] => .next (close (s.updCd die (fun c => { c with saving := [] })))
    | bk :: _ =>
      if !mine.all (fun k => ((s.blk? k).map (fun b => s.quietBlock k b none)).getD true) then .next (s.post (.preemptSave die))
      else
        match s.saveAll hold mine, s.blk? bk with
        | .done s', some b =>
          let (g, s') := s'.takeFresh
          let pool := s'.pools.find? (fun p => p.2.pkt == b.pkt)
          let s' := match pool with
            | some (ix, _) => s'.parkPool mine ix
            | none => s'
          let s' := { s' with gangs := kset s'.gangs g (savedGang s' b.pkt (if pool.isSome then [] else mine) hold) }
          .next ((close (s'.updCd die (fun c => { c with saving := c.saving.filter (fun k => !mine.contains k) }))).post .gangPlacement)
        | .absent va, some b => .next (s.owePage b.die b.desc b.ctx va 0 (.preemptSave die))
        | .prot k va, some b =>
          -- the save cannot go on: the block whose page refuses is killed by the fault (R375; log 25)
          .next (((s.ringPut b.die (s.unitRecord b.die 23 4 va 0 (((s.blk? k).map (·.ctx)).getD b.ctx))).startKill k 23).post
            (.preemptSave die))
        | _, none => .next s
  | _ => .next s

/-- A write of RESUME: a held gang may be restored; its waiting for a place begins (12 R306). -/
def State.resume (s : State) (die : Nat) (v : DWord) : State :=
  match s.ctxBlock die (fld v 47 32) with
  | none => s
  | some (bk, b) =>
    if b.home then s
    else
      { s with gangs := s.gangs.map (fun (g : Nat × Gang) =>
          if g.2.blocks.contains bk || (g.2.blocks.isEmpty && s.pools.any (fun p => p.2.pkt == g.2.pkt && !p.2.placed
              && p.2.pkt == b.pkt)) then
            (g.1, { g.2 with hold := false, since := if g.2.hold then s.pkg.timeNs.toNat else g.2.since })
          else g) }.post .gangPlacement

def execResume (s : State) : Host.Outcome State Fault Refusal :=
  match s.due with
  | some (.resume die v) => .next (s.resume die v)
  | _ => .next s

/-! ## Restore (15 R386) -/

/-- Whether the partition offers too little for the packet's blocks: RESTORE_CAPACITY. -/
def State.restoreShort (s : State) (p : Packet) : Bool :=
  let c := s.cdReg p.die 0x300
  decide (fld c 42 38 < p.allot.bars) || decide (fld c 37 34 < p.allot.bobs)

/-- A saved block whose die changes gets a context number of its new die. -/
def State.renumber (s : State) (bk die : Nat) : State :=
  match s.blk? bk with
  | some b =>
    if b.die = die then s
    else
      let (n, s) := s.newCtx die
      s.updBlk bk (fun b => { b with ctx := n })
  | none => s

/-- The check of R338 for a PARKED task of a pool that is placed again with RESCAN: READY where its object is; else its waiter is
recorded once. A task whose object is not of this device, or that finds the park table full, is READY and checks itself (R344; log
39). -/
def State.rescanTask (s : State) (ix e : Nat) : State :=
  match (kget s.pools ix).bind (fun p => kget p.tasks e) with
  | none => s
  | some k =>
    let ready := fun (s : State) =>
      let (n, s) := s.takeFresh
      (s.updTask ix e (fun k => { k with st := .ready, order := n })).syncPool ix e
    let waiter := k.blk.bind (fun bk => (s.blk? bk).bind (fun b => (b.threads.find? (fun x => (x.2.2.hold.map (·.wait == .again)).getD false)).map (fun x =>
      ({ task := k.id, t := { blk := bk, warp := x.1, armE := x.2.1 } } : Waiter))))
    match k.waits, waiter with
    | some (key, op), some w =>
      if s.objReady op key then ready s
      else
        (match s.objectStep op key [] w with
         | (.full, s) => ready s
         | (_, s) => s)
    | _, _ => ready s

/-- A pool is placed again, with the translations of its header and task table; with RESCAN, which is cleared, every PARKED task
is checked again (13 R344). -/
def State.replacePool (s : State) (ix : Nat) (plan : List (Nat × Nat × Nat)) (keys : List Nat) : State :=
  match kget s.pools ix with
  | none => s
  | some p =>
    let p : Pool := { p with placed := true, slots := plan, die := ((plan.head?).map (fun x => x.1 / 128)).getD p.die,
                             keys := keys, rescan := false }
    let parked := (p.tasks.filter (fun t => t.2.st == .parked)).map (·.1)
    let again := ((kget s.pools ix).map (·.rescan)).getD false
    let s := ({ s with pools := kset s.pools ix p }.syncRows ix []).markQueues p ix true
    ((if again then parked.foldl (fun s e => s.rescanTask ix e) s else s)).offerWork ix

/-- RESTORE: a saved gang takes its places, ahead of new gangs of its priority (R386). -/
def execRestore (s : State) : Host.Outcome State Fault Refusal :=
  match s.due with
  | some (.restore gk) =>
    match kget s.gangs gk with
    | none => .next s
    | some g =>
      match (if g.hold ∨ g.stuck then none else kget s.packets g.pkt) with
      | none => .next s
      | some p =>
        match s.planOf g p with
        | none => .next s
        | some plan =>
          let die := ((plan.head?).map (fun x => x.1 / 128)).getD p.die
          if s.restoreShort p then
            .next (({ s with gangs := kset s.gangs gk { g with hold := true } }).ringPut die
              (s.unitRecord die 30 3 0 0 ((((g.blocks.head?).bind (fun k => s.blk? k)).map (fun (b : Block) => b.ctx)).getD 0)))
          else if p.task then
            match s.pools.find? (fun x => x.2.pkt == g.pkt) with
            | some (ix, x) =>
              (match s.pageKeys die x.desc x.desc.saveva (tablePages x.tcap) [] with
               | .ok keys => .next ((({ s with gangs := kdel s.gangs gk }).replacePool ix plan keys).post .gangPlacement)
               | .absent va => .next (s.gangPage gk die 5 va 0 x.desc)
               | .prot va => .next (s.gangProt gk die 5 va 0))
            | none => .next { s with gangs := kdel s.gangs gk }
          else
            let order := (s.savedClusters g).flatten
            match s.manyKeys (fun i => ((plan.getD i (0, 0, 0)).1) / 128) p.desc (order.map (fun x => x.2.frameVa)) 0 [] with
            | .error (.absent va) => .next (s.gangPage gk die 6 va 0 p.desc)
            | .error (.prot va) => .next (s.gangProt gk die 6 va 0)
            | .error (.ok _) => .next s
            | .ok keys =>
              let moved := order.zip (plan.zip keys)
              let s1 := moved.foldl (fun s x =>
                (s.renumber x.1.1 (x.2.1.1 / 128)).updBlk x.1.1 (fun b => { b with frameKeys := x.2.2, die := x.2.1.1 / 128 })) s
              (match s1.readFrames (moved.map (·.1.1)) with
               | .absent va => .next (s.gangPage gk die 6 va 0 p.desc)
               | .prot _ va => .next (s.gangProt gk die 6 va 0)
               | .done s2 =>
                 let s3 := moved.foldl (fun s x => s.rehome x.1.1 x.2.1.1 x.2.1.2.1 x.2.1.2.2 x.1.2.blockIx) s2
                 .next (({ s3 with gangs := kdel s3.gangs gk }).post .gangPlacement))
  | _ => .next s

/-! ## The unpicker (11 R279, 15 R382) -/

/-- What the unpicker does with an entry of a dead context (R279). A taint mark of die-shared space waits, the borrow HELD, while the
table is full (R280). -/
def State.unpickEntry (s : State) (die ix : Nat) (e : DieEntry) : State :=
  match e.state with
  | .held =>
    let taint := e.kind = 1 ∨ e.kind = 3
    let s := if taint then s.l1Flush e.core ix else s
    let s := s.l1Drop e.core ix
    if e.space = 1 then
      if taint ∧ tableSize 1 ≤ (s.cd die).entries.length then s.updCd die (fun c => { c with marks := c.marks ++ [ix] })
      else s.localRelease (128 * die) 1 ix taint
    else
      let s := if e.kind = 1 then
          e.pieces.foldl (fun s p => s.l2Walk die (s.pieceLine die p) (p.lenm1 + 1) true false) s else s
      (e.pieces.foldl (fun s p => s.toHome die p 6 (if taint then 1 else 0) e.kind ix 0) s).freeEntry die ix
  | .requesting =>
    let s := s.updEntry die ix (fun e => { e with state := .abandoned, user := .none })
    if e.space = 1 then s.localGrants (128 * die) 1 else s
  | .lost => s.freeEntry die ix
  | _ => s

/-- Registers of a dead block that name a proxy and are no child: each is handed back through its proxy (R279). -/
def State.unpickProxies (s : State) (b : Block) : State :=
  (b.allRegions.filter (fun g => g.kind != 0 && g.space == 0 && !g.save && !g.hasParent)).foldl (fun s g =>
    match s.entry b.die g.tag with
    | some e => if e.proxy ∧ e.state = .held then (s.l1Drop b.coreIx g.tag).releaseSlot b.die g.tag .none false else s
    | none => s) s

/-- A killed block whose work is done: its entries are reclaimed, its barriers broken, its block or task ended. -/
def State.unpick (s : State) (bk : Nat) (b : Block) (code : Nat) : State :=
  let s := b.threads.foldl (fun s x => s.orphanRecord { blk := bk, warp := x.1, armE := x.2.1 }) s
  let s := s.unpickProxies b
  let s := s.updBlk bk (fun b => b.mapRegions (fun _ => Region.empty))
  let s := s.leaveQueues bk b
  let s := ((s.cd b.die).entries.filter (fun x => x.2.blk == bk && !x.2.proxy)).foldl (fun s x => s.unpickEntry b.die x.1 x.2) s
  let s := s.breakBars b
  let had := fun (k : Nat) => ((kget s.gangs k).map (fun (x : Gang) => x.blocks.contains bk)).getD false
  let s := { s with gangs := (s.gangs.map (fun (g : Nat × Gang) => (g.1, { g.2 with blocks := g.2.blocks.filter (· != bk) }))).filter
                      (fun g => !(g.2.blocks.isEmpty && had g.1)) }
  if b.task.isSome then s.taskEnd bk 0 (some code) else (s.freeBlock bk).blockEnded b.pkt true

/-- Whether the end of a task waits for a page of its record (13 R320). -/
def State.endWaitsPage (s : State) (die : Nat) (b : Block) : Bool :=
  b.task.isSome && (s.cd die).retry.any (fun r => r.2 == .unpickerPass die)

/-- UNPICKER_PASS: the dead contexts of a die, up to 16 at once, each when its issued operations are performed; and the
ends of blocks that waited for a page of their task, or for their borrows to be back. -/
def execUnpickerPass (s : State) : Host.Outcome State Fault Refusal :=
  match s.due with
  | some (.unpickerPass die) =>
    -- marks that waited for a free entry (R280)
    let s := (s.cd die).marks.foldl (fun s ix =>
      if tableSize 1 ≤ (s.cd die).entries.length then s
      else (s.updCd die (fun c => { c with marks := c.marks.filter (· != ix) })).localRelease (128 * die) 1 ix true) s
    let dead := ((s.cd die).dead.filter (fun k => (s.blk? k).isSome)).take 16
    let s := dead.foldl (fun s bk =>
      match s.blk? bk with
      | some b =>
        if (!b.home || s.quietBlock bk b none) && !s.endWaitsPage die b then s.unpick bk b (b.killed.getD 33) else s
      | none => s) s
    let s := (s.blocks.filter (fun x => x.2.die == die && x.2.killed.isNone && x.2.home && x.2.over)).foldl
      (fun s x => if s.endWaitsPage die x.2 then s else s.blockCheck x.1) s
    let rest := (s.cd die).dead.filter (fun k => (s.blk? k).isSome)
    let s := s.updCd die (fun c => { c with dead := rest })
    -- a task that waits for a page comes back with the replay
    let waits := rest.all (fun k => ((s.blk? k).map (fun b =>
      s.endWaitsPage die b && (!b.home || s.quietBlock k b none))).getD true)
    .next (if waits then s else s.post (.unpickerPass die))
  | _ => .next s

end Sys2Proof.Machine
end

