-- ==== Sys2Proof/Machine/Tasks.lean ====
section
/-!
DEFINITION. Machine/Tasks.lean: spawning, ending and starting tasks; futures, locks, queues and successor counters;
waiting, adoption, parking and wakes; LAUNCH (13 R326-R347, 12 R314).
-/
namespace Sys2Proof.Machine

/-! ## Object instructions (R326-R328) -/

/-- The issuer's task ID, 0xFFFF_FFFF outside task mode. -/
def Ctx.taskId (c : Ctx) : Word := c.b.task.getD 0xFFFF_FFFF

/-- The result items of an instruction; an item that the spec does not state is free (log 2). -/
def resultItems (c : Ctx) (s : State) (d : BitVec 7) (n : Nat) (vals : List DWord) : List RegWrite × State :=
  let (f, s) := s.takeFree
  ((List.range n).flatMap (fun j => c.wItem d.toNat j (vals.getD j (Config.freeWord (nth f j)))), s)

/-- A completed instruction with its result items. -/
def answerWith (c : Ctx) (s : State) (d : BitVec 7) (n : Nat) (vals : List DWord) : Res :=
  let (ws, s) := if n ≤ vals.length then
      ((List.range n).flatMap (fun j => c.wItem d.toNat j (vals.getD j 0)), s)
    else resultItems c s d n vals
  .done s ws .seq

/-- `NOFRAME` of the issuer's pool rises (R338, R339). -/
def State.countNoFrame (s : State) (b : Block) : State :=
  match s.taskOf b with
  | some (ix, _, e, _) => (s.updPool ix (fun p => { p with noframe := p.noframe + 1 })).syncPool ix e
  | none => s

/-- What the answer of a check comes to (R338). Stage 4 is the first sending, 5 a repeat under a full park table; 10 more
says that a wake came before the answer. -/
def checkAnswer (c : Ctx) (s : State) (d : BitVec 7) (n : Nat) (ans : List DWord) : Res :=
  match ans with
  | [] => .done s [] .seq                       -- the link went down: LINK_DOWN has been raised (16 R398)
  | v :: rest =>
    if v = 0 then answerWith c s d n rest
    else if v = 1 then answerWith c s d n [1]
    else if 10 ≤ c.stage then .wait .again 0 s
    else if v = 2 then
      let owner : Word := (rest.headD 0xFFFF_FFFF).setWidth 32
      .wait .object 0 (if c.b.task.isSome then s.post (.adoption c.t owner) else s)
    else .wait .parkRoom 2 (if c.stage = 4 then s.countNoFrame c.b else s)

/-- Translation of an object's address once the checks of a load have let it through; a repeat walks at once. -/
def objectKey (c : Ctx) (s : State) (g : Region) (off : Nat) : Option Nat :=
  if g.space = 1 then some (sharedKey c.b.die (g.addr off))
  else
    match (if c.stage = 2 then s.translateNow c.b.die (clusterOf c.b.coreIx) c.b.desc (g.addr off) .atom c.priv
           else s.translate c.b (g.addr off) .atom c.priv) with
    | .hit k => some k
    | _ => none

/-- The route of a message for an object; the host port's and the pool port's cross every seam (16 R415). -/
def State.objRoute (s : State) (d k : Nat) : List DieId :=
  if keyPlace k = 16 ∨ keyPlace k = 17 then [] else route (.cd d) (s.keyDie d k)

/-- Whether a compute die can reach an object (16 R398, R410, R415). -/
def State.objReach (s : State) (d k : Nat) : Bool :=
  if 512 ≤ keyPlace k then s.routeUp (s.objRoute d k) && s.routeInside d (s.objRoute d k) else s.keyReach d k

/-- Sends a request and waits for its answer; a die-shared object is served by its bank at once. -/
def sendObject (c : Ctx) (s : State) (d : BitVec 7) (n k : Nat) (body : ReqBody) (addr : Nat) : Res :=
  let st := if c.stage = 2 then 5 else 4
  let (id, s) := s.newId (.cd c.b.die)
  let place := s.keyDie c.b.die k
  let down := Res.done ((s.countSeam c.b.die (s.objRoute c.b.die k)).imprecise c 29 [(c.low, addr)]) [] .seq
  let r : Request := { id := id, dev := fld s.pkg.devno 7 0, src := .cd c.b.die, dst := place, owner := .waits c.t,
                       body := body, pc := c.th.pc, lanes := if c.front then 0 else laneBit c.low, ticket := 0, seq := 0 }
  match body with
  | .object op _ args w =>
    if place = .cd c.b.die then
      let (ans, s) := s.objectStep op k args w
      checkAnswer { c with stage := st } s d n (checkedWords ans)
    else if !s.objReach c.b.die k then down
    else .wait .reply st (({ s with waitReq := s.waitReq ++ [r] }).sendOrTake (.cd c.b.die) place (.request r))
  | _ =>
    if !s.objReach c.b.die k then down
    else .wait .reply st (({ s with waitReq := s.waitReq ++ [r] }).sendOrTake (.cd c.b.die) place (.request r))

/-- Scope of the release of an object instruction (R328): `.SYSTEM` where the object is homed on another package. -/
def objScope (k : Nat) : Nat := if foreignKey k then 4 else 3

/-- An instruction on an object through a Y region (R326, R327). `size` is its bytes and alignment, `ctl` the control items
with the bits that they use, `rel` says that it is a release side. -/
def objectInstr (i : Instr) (d : BitVec 7) (a : BitVec 5) (b : BitVec 7) (nB nD : Nat) (ctl : List (Nat × DWord))
    (size : Ctx → Nat) (op : Ctx → ObjOp) (args : Ctx → List DWord) (rel : Bool) (s : State) :
    Host.Outcome State Fault Refusal :=
  issue s i { plain .both [.region a.toNat, .items b.toNat nB false, .items d.toNat nD true] with roles := [.vector] }
    (fun c s =>
      if 4 ≤ c.stage then checkAnswer c s d nD (c.answer.getD [])
      else
        let g := c.rg a
        let off := (c.item b.toNat 0).toNat
        let accs := [(c.low, off, size c)]
        let m : Word := if c.front then 0 else laneBit c.low
        if ctl.any (fun x => c.item b.toNat x.1 &&& ~~~x.2 != 0) then .refuse 1 0 c.allLanes
        else
          match checkRegion c g .atom accs with
          | some (code, addr, m) => .refuse code addr m
          | none =>
            if off % size c ≠ 0 then .refuse 13 (g.addr off) m
            else
              match (if c.stage = 2 then .go else pass c s g .atom accs) with
              | .prot va m => .refuse 23 va m
              | .wait s => .wait .walk 0 s
              | .absent gone => .wait (.page c.b.die c.b.desc.asid) 0 (s.reportPages c g gone 0)
              | .go =>
                match objectKey c s g off with
                | none => .wait .again 0 s
                | some k =>
                  if keyPlace k = 16 then .refuse 14 (g.addr off) m
                  else
                    match watched c s g 60 accs with
                    | some x => x
                    | none =>
                      let go := sendObject c s d nD k (.object (op c) k (args c) { task := c.taskId, t := c.t }) (g.addr off)
                      if rel then releaseAt c s (objScope k) go else go)

/-- FWAIT (R338). -/
def execFwait (d : BitVec 7) (a : BitVec 5) (b : BitVec 7) (s : State) : Host.Outcome State Fault Refusal :=
  objectInstr (.fwait d a b) d a b 1 2 [] (fun _ => 16) (fun _ => .fwait) (fun _ => []) false s

/-- FFILL (R333). -/
def execFfill (d : BitVec 7) (a : BitVec 5) (b : BitVec 7) (s : State) : Host.Outcome State Fault Refusal :=
  objectInstr (.ffill d a b) d a b 3 1 [(2, 1)] (fun _ => 16) (fun _ => .ffill)
    (fun c => [c.item b.toNat 1, c.item b.toNat 2]) true s

/-- FOWN and FOWN.Q (R334). -/
def execFown (d : BitVec 7) (a : BitVec 5) (b : BitVec 7) (s : State) : Host.Outcome State Fault Refusal :=
  objectInstr (.fown d a b) d a b 2 1 [(1, 3)] (fun c => if bitOf (c.item b.toNat 1) 0 then 64 else 16)
    (fun c => if bitOf (c.item b.toNat 1) 0 then .fownQ else .fown) (fun c => [c.item b.toNat 1]) false s

/-- LOCK (R335). -/
def execLock (d : BitVec 7) (a : BitVec 5) (b : BitVec 7) (s : State) : Host.Outcome State Fault Refusal :=
  objectInstr (.lock d a b) d a b 2 1 [(1, 1)] (fun _ => 8) (fun _ => .lock) (fun c => [c.item b.toNat 1]) false s

/-- UNLOCK (R335). -/
def execUnlock (d : BitVec 7) (a : BitVec 5) (b : BitVec 7) (s : State) : Host.Outcome State Fault Refusal :=
  objectInstr (.unlock d a b) d a b 1 1 [] (fun _ => 8) (fun _ => .unlock) (fun _ => []) true s

/-- QPOP (R337). -/
def execQpop (d : BitVec 7) (a : BitVec 5) (b : BitVec 7) (s : State) : Host.Outcome State Fault Refusal :=
  objectInstr (.qpop d a b) d a b 2 2 [(1, 1)] (fun _ => 64) (fun _ => .qpop) (fun c => [c.item b.toNat 1]) false s

/-- SUCC (R332). -/
def execSucc (d : BitVec 7) (a : BitVec 5) (b : BitVec 7) (s : State) : Host.Outcome State Fault Refusal :=
  objectInstr (.succ d a b) d a b 1 1 [] (fun _ => 8) (fun _ => .succ) (fun _ => []) true s

/-! ## QPUSH (R325, R336) -/

/-- The header's physical address that the queue directory of a die gives for a queue ID. -/
def State.queueHeader (s : State) (die : Nat) (id : DWord) : Option Nat :=
  let q := s.cdReg die 0x3D2
  if 2 ^ fld q 4 0 ≤ id.toNat then none
  else
    (s.paKey die ((fld q 51 14 <<< 14) + 16 * id.toNat)).bind (fun k =>
      let w := BitVec.ofNat 64 (s.numAt k 8)
      if bitOf w 63 then some (fld w 51 6 <<< 6) else none)

def execQpush (d a b : BitVec 7) (s : State) : Host.Outcome State Fault Refusal :=
  issue s (.qpush d a b)
    { plain .both [.items a.toNat 2 false, .items b.toNat 1 false, .items d.toNat 1 true] with roles := [.vector] } (fun c s =>
      let ctl := c.item b.toNat 0
      if 4 ≤ c.stage then
        match c.answer.getD [] with
        | [] => .done s [] .seq
        | st :: _ => if st = 1 ∧ !bitOf ctl 0 then .refuse 21 0 c.allLanes else answerWith c s d 1 [st]
      else if fld ctl 63 1 ≠ 0 then .refuse 1 0 c.allLanes
      else
        let header := (s.queueHeader c.b.die (c.item a.toNat 0)).bind (fun pa => (s.paKey c.b.die pa).map (fun k => (pa, k)))
        releaseAt c s ((header.map (fun x => objScope x.2)).getD 3) (match header with
          | none => answerWith c s d 1 [2]
          | some (pa, k) =>
              if keyPlace k = 16 then .refuse 14 pa c.allLanes
              else sendObject c s d 1 k (.push k (c.item a.toNat 1) (bitOf ctl 0) { task := c.taskId, t := c.t }) pa))

/-! ## TSPAWN, TRET (R329, R330) -/

def execTspawn (d a b : BitVec 7) (s : State) : Host.Outcome State Fault Refusal :=
  issue s (.tspawn d a b)
    { plain .both [.items a.toNat 1 false, .items b.toNat 1 false, .items d.toNat 2 true] with roles := [.vector] } (fun c s =>
      let ctl := c.item b.toNat 0
      let rec_ := c.item a.toNat 0
      if fld ctl 15 10 ≠ 0 ∨ fld ctl 63 17 ≠ 0 then .refuse 1 0 c.allLanes
      else if rec_.toNat % 64 ≠ 0 then .refuse 12 rec_.toNat (if c.front then 0 else laneBit c.low)
      else
        let ix := if fld ctl 9 0 = 0x3FF then c.b.task.map idPool else some (fld ctl 9 0)
        releaseAt c s 3 (match (ix.bind (s.poolAt c.b.die)).filter (fun x => x.2.placed && !x.2.killed) with
          | none => answerWith c s d 2 [2]
          | some (i, p) =>
            if 2 ^ 56 ≤ rec_.toNat then answerWith c s d 2 [3]
            else
              match s.spawn i rec_.toNat with
              | (.id w, s) => answerWith c s d 2 [0, w.setWidth 64]
              | (.malformed, s) => answerWith c s d 2 [3]
              | (.full, s) => if bitOf ctl 16 then answerWith c s d 2 [1] else .refuse 21 0 c.allLanes
              | (.absent va, s) =>
                .wait (.page p.die p.desc.asid) 0 (s.ringPut p.die
                  (s.record c.t 22 2 c.th.pc va c.allLanes (5 * 4096 + p.die * 256)))))

/-- A block whose threads have all gone. -/
def Block.allGone (b : Block) : Block :=
  let b := b.mapThreads (fun th => { th with live := false })
  { b with warps := b.warps.map (fun w => { w with exited := 0xFFFF_FFFF }) }

/-- Every thread of an ended task has gone: the region registers of its owners are emptied, and its records go to the ring (R330,
08 R211). -/
def State.emptyBlock (s : State) (bk : Nat) (b : Block) : State :=
  let s := b.threads.foldl (fun s x => s.orphanRecord { blk := bk, warp := x.1, armE := x.2.1 }) s
  let s := s.updBlk bk Block.allGone
  ((List.range b.warps.length) ++ [32]).foldl (fun s w => s.dropRegions bk w) s

def execTret (a : BitVec 7) (s : State) : Host.Outcome State Fault Refusal :=
  issue s (.tret a) { plain .both [.items a.toNat 1 false] with roles := [.vector] } (fun c s =>
    match s.taskOf c.b with
    | none => .refuse 1 0 c.allLanes
    | some (ix, p, e, k) =>
      if c.stage = 0 then
        .wait .drained 1 (s.updBlk c.t.blk (fun b => { b with ending := true }))
      else
        match s.endKeys p k with
        | .error va =>
          .wait (.page p.die p.desc.asid) 1
            (s.ringPut p.die (s.record c.t 22 2 c.th.pc va c.allLanes (5 * 4096 + p.die * 256)))
        | .ok (f, u) =>
          match s.endHeld c.t.blk c.b f u with
          | some n => .wait (if n = 0 then .drained else .window n) 1 s
          | none =>
          let v := c.item a.toNat 0
          let s := s.emptyBlock c.t.blk c.b
          let b := (s.blk? c.t.blk).getD c.b
          let s := (s.taskFinish ix p e k f u c.b.ctx v none).leaveSlot c.t.blk b ix
          .done (s.exitBars c.t.blk b true) [] .path)

/-! ## Starting tasks (R320, R342) -/

/-- What a start of a task needs from memory: its record, and the first 256 KiB of its frame. -/
inductive StartKeys
  | ok (bs : List Byte) (keys : List Nat)
  | absent (va : Nat)
  | prot (va : Nat)

def State.startKeys (s : State) (p : Pool) (rec_ f : Nat) : StartKeys :=
  match s.recordAt p.die p.desc rec_ with
  | (.hit _, bs) =>
    (match s.frameKeys p.die p.desc (p.frameVa f) with
     | .ok keys => .ok bs keys
     | .absent va => .absent va
     | .prot va => .prot va)
  | (.prot, _) => .prot rec_
  | _ => .absent rec_

/-- A QUEUED task starts as a fresh block in a slot, over the block beneath it if any (R320). It has left its run queue. Its block has no
cluster barriers (log 96). -/
def State.startTask (s : State) (ix e : Nat) (p : Pool) (k : Task) (core slot scr j f : Nat) (below : Option Nat)
    (bs : List Byte) (keys : List Nat) : State :=
  match kget s.packets p.pkt with
  | none => s
  | some pk =>
    let n := fun o w => recNum bs o w
    let (bk, s) := s.takeFresh
    let (ctx, s) := s.newCtx (core / 128)
    let b := freshBlock pk p.pkt (core / 128) (core % 128) slot scr ctx j (j / pk.clusz) (j % pk.clusz) (p.frameVa f) keys
      (BitVec.ofNat 56 (n 0 8))
    let id64 : DWord := k.id.setWidth 64
    let sregs : List DWord := [BitVec.ofNat 64 (n 8 8), BitVec.ofNat 64 (n 16 4), BitVec.ofNat 64 (n 20 4),
                               BitVec.ofNat 64 (n 24 4), id64]
    let yregs : List DWord := [BitVec.ofNat 64 (n 8 8), BitVec.ofNat 64 (n 16 4 + 2 ^ 32 * n 20 4),
                               BitVec.ofNat 64 (n 24 4), id64, 0, 0, 0, 0]
    let b : Block := { b with task := some k.id, below := below, frame := some f, y := yregs,
                              front := { b.front with s := cwrite [] 0 sregs } }
    let s := { s with blocks := kset s.blocks bk b }
    let s := s.updTask ix e (fun k => { k with st := .running, frame := some f, blk := some bk })
    (((s.clearSlots bk).giveB0 bk).askArgs bk pk.argBase pk.argLen).syncPool ix e

/-- The oldest READY chain of a pool. DESIGN CHOICE (log 101): a chain is of the pool of its running task, whatever pools the tasks
beneath are of. -/
def Pool.oldestReady (p : Pool) : Option (Nat × Task) :=
  ((p.tasks.filter (fun x => x.2.st == .ready)).mergeSort (fun a b => a.2.order ≤ b.2.order)).head?

/-- Blocks of a chain, the running one first. -/
def State.chainBlocks (s : State) : Nat → Option Nat → List (Nat × Block)
  | 0, _ => []
  | _, none => []
  | fuel + 1, some bk =>
    match s.blk? bk with
    | some b => (bk, b) :: s.chainBlocks fuel b.below
    | none => []

/-- The held translations of every frame of a chain. -/
def State.chainKeys (s : State) (die : Nat) : List (Nat × Block) → List (Nat × List Nat) → Except Keys (List (Nat × List Nat))
  | [], acc => .ok acc.reverse
  | (bk, b) :: r, acc =>
    match s.frameKeys die b.desc b.frameVa with
    | .ok l => s.chainKeys die r ((bk, l) :: acc)
    | k => .error k

/-- A READY chain, or a parked chain of one task, takes a slot: its running task is read back from its frame (R339, R342; 15 R386). -/
def State.takeChain (s : State) (ix e bk core slot scr j : Nat) (keys : List (Nat × List Nat)) : Saved :=
  let s := keys.foldl (fun s x => (s.renumber x.1 (core / 128)).updBlk x.1 (fun b =>
    { b with frameKeys := x.2, die := core / 128 })) s
  match s.readBack bk with
  | .done s =>
    .done (((s.rehome bk core slot scr (BitVec.ofNat 32 j)).updTask ix e (fun k => { k with st := .running })).syncPool ix e)
  | k => k

/-- The start of a task is refused by a page: the record or frame cannot be used, and the task is killed (log 29). -/
def State.startRefused (s : State) (p : Pool) (e : Nat) (k : Task) (va : Nat) (ix : Nat) : State :=
  let s := s.ringPut p.die (s.unitRecord p.die 23 3 va (5 * 4096 + p.die * 256) 0)
  let s := match s.unlinkTask ix p k with
    | .ok s => s
    | .error _ => s
  match s.endKeys p k with
  | .ok (f, u) => (s.taskFinish ix p e k f u 0 0 (some 23)).poolCheck ix
  | .error _ => (s.taskFinish ix p e k .none .none 0 0 (some 23)).poolCheck ix

/-- Bytes of a placed pool's header or task table as they stand in memory, none while writes to them are held. -/
def State.poolBytes (s : State) (p : Pool) (off n : Nat) : Option (List Byte) :=
  ((p.keys[off / 16384]?).filter (fun k => !s.overflowed (k + off % 16384))).map (fun k => s.keyRead (k + off % 16384) n)

/-- A task-table entry, of a task or FREE, whose bytes are not those that the device wrote: software has written them while the pool
is placed (R318). -/
def State.touchedRow (s : State) (p : Pool) : Option Nat :=
  let touched := fun (e : Nat) => ((s.poolBytes p (128 + 16 * e) 16).map (fun bs => bs != s.poolRow p e)).getD false
  ((p.tasks.map (·.1)).find? touched).orElse (fun _ => (List.range (2 ^ p.tcap)).find? touched)

/-- A header that software has written: the task unit goes on with what it holds, or with the run queues that stand there
(R318; log 80). -/
def State.upsetHeader (s : State) (ix : Nat) : State :=
  match kget s.pools ix with
  | none => s
  | some p =>
    match s.poolBytes p 0 128 with
    | none => s
    | some bs =>
      if bs = p.header then s
      else
        let (n, s) := s.takeFree
        let at_ := fun (o : Nat) => (List.range 4).map (fun i => recNum bs (o + 8 * i) 8)
        let s := if Config.freeBool (nth n 0) then s else s.updPool ix (fun p => { p with heads := at_ 0, tails := at_ 32 })
        s.syncRows ix []

/-- What software has written into the task table is unpredictable to the task unit: it goes on with what it holds, loses the task,
or has it QUEUED once more (R318; log 80). -/
def State.upset (s : State) (ix : Nat) : State :=
  let s := s.upsetHeader ix
  match (kget s.pools ix).bind (fun p => s.touchedRow p) with
  | none => s
  | some e =>
    let (n, s) := s.takeFree
    let s := match Config.freeNat (nth n 0) % 3 with
      | 0 => s
      | 1 => s.updPool ix (fun p => { p with tasks := kdel p.tasks e })
      | _ => s.queueTask ix e
    s.syncPool ix e

/-- An idle slot takes the oldest READY chain, else the head of the highest run queue (R342). -/
def State.takeWork (s : State) (ix j : Nat) (p : Pool) : State :=
  let (core, slot, scr) := p.slots.getD j (0, 0, 0)
  let page := fun (va : Nat) (ctx : BitVec 16) => s.owePage p.die p.desc ctx va 5 (.taskStart (slotKey ix j))
  let refuse := fun (bk va : Nat) (ctx : BitVec 16) =>
    (s.ringPut p.die (s.unitRecord p.die 23 4 va (5 * 4096 + p.die * 256) ctx)).startKill bk 23
  match p.oldestReady with
  | some (e, k) =>
    let chain := s.chainBlocks 8 k.blk
    (match chain, s.chainKeys p.die chain [] with
     | (bk, b) :: _, .ok keys =>
       (match s.takeChain ix e bk core slot scr j keys with
        | .done s => s
        | .absent va => page va b.ctx
        | .prot _ va => refuse bk va b.ctx)
     | (_, b) :: _, .error (.absent va) => page va b.ctx
     | (bk, b) :: _, .error (.prot va) => refuse bk va b.ctx
     | _, _ => s)
  | none =>
    match s.headTask p, p.freeFrame with
    | .task e k next, some f =>
      (match s.startKeys p k.rec_ f with
       | .ok bs keys =>
         (s.updPool ix (fun p => p.afterHead k.prio next)).startTask ix e p k core slot scr j f none bs keys
       | .absent va => page va 0
       | .prot va => (s.startRefused p e k va ix).offerWork ix)
    | .absent va, some _ => page va 0
    | _, _ => s

/-- TASK_START: an idle slot looks for work, once what waited for a page of a queue's links has been queued (R342). -/
def execTaskStart (s : State) : Host.Outcome State Fault Refusal :=
  match s.due with
  | some (.taskStart n) =>
    let ix := n / 2 ^ 20
    let j := n % 2 ^ 20
    let s := (s.queueLate ix).upset ix
    match kget s.pools ix with
    | none => .next s
    | some p => .next (if !(s.idleSlots p).contains j ∨ (s.cd p.die).quiet ∨ p.killed then s else s.takeWork ix j p)
  | _ => .next s

/-! ## Waiting: adoption and parking (R338-R341) -/

/-- What the task unit chooses for a wait with an owner (R339). -/
inductive Choice
  | park
  | noFrame
  | fresh (ix e f : Nat) (p : Pool) (k : Task)
  | saved (ix e bk : Nat)

def State.chooseOwner (s : State) (b : Block) (owner : Word) : Choice :=
  if some owner = b.task then .park
  else
    match s.task? b.die owner with
    | none => .park
    | some (ix, p, e, k) =>
      let below := (s.chainBlocks 8 b.below).length
      if p.die ≠ b.die ∨ p.allot ≠ b.allot ∨ 4 ≤ below then .park
      else
        match k.st with
        | .queued => (match p.freeFrame with
          | some f => .fresh ix e f p k
          | none => .noFrame)
        | .parked | .ready =>
          (match k.blk with
           | some bk => if ((s.blk? bk).bind (·.below)).isNone then .saved ix e bk else .park
           | none => .park)
        | _ => .park

/-- Changes the table entry of a block's task. -/
def State.setTask (s : State) (b : Block) (f : Task → Task) : State :=
  match s.taskOf b with
  | some (ix, _, e, _) => (s.updTask ix e f).syncPool ix e
  | none => s

/-- A chain that has left its slot: PARKED for what its thread is recorded at, or READY where that wait is over (R340). -/
def State.parked (s : State) (t : ThreadRef) (b : Block) (waits : Bool) : State :=
  let (n, s) := s.takeFresh
  (s.setTask b (fun k =>
    if waits then { k with st := .parked, waits := s.parkedOn { task := k.id, t := t } }
    else { k with st := .ready, order := n })).offerAll

/-- A wait of a task in its slot, once its block's work is done: the owner is adopted, or the chain is parked. `waits` says that
no wake has come meanwhile. -/
def State.adopt (s : State) (t : ThreadRef) (b : Block) (owner : Word) (ch : Choice) (waits : Bool) : State :=
  let save := fun (s : State) (nest : Bool) (go : State → State) =>
    match s.saveBlock t.blk false nest with
    | .done s => go s
    | .absent va => s.owePage b.die b.desc b.ctx va 0 (.adoption t owner)
    | .prot bk va => (s.ringPut b.die (s.unitRecord b.die 23 4 va 0 b.ctx)).startKill bk 23
  let page := fun (p : Pool) (va : Nat) => s.owePage p.die p.desc b.ctx va 5 (.adoption t owner)
  let j := b.blockIx.toNat
  let nested := fun (s : State) => (s.pmcCount b.coreIx 9 1).setTask b (fun k => { k with st := .nested })
  match ch with
  | .noFrame => s
  | .park => save s false (fun s => s.parked t b waits)
  | .fresh ix e f p k =>
    (match s.startKeys p k.rec_ f, s.unlinkTask ix p k with
     | .ok bs keys, .ok _ =>
       save s true (fun s =>
         let s := match s.unlinkTask ix p k with
           | .ok s => s
           | .error _ => s
         (nested s).startTask ix e p k b.coreIx b.slot b.scrBase j f (some t.blk) bs keys)
     | .absent va, _ => page p va
     | .prot va, _ => (s.startRefused p e k va ix).post (.adoption t owner)
     | .ok _ _, .error va => page p va)
  | .saved ix e bk =>
    match s.blk? bk with
    | none => s
    | some o =>
      let page := fun (va : Nat) => s.owePage b.die o.desc b.ctx va 5 (.adoption t owner)
      let refuse := fun (va : Nat) =>
        (s.ringPut b.die (s.unitRecord b.die 23 4 va (5 * 4096 + b.die * 256) o.ctx)).startKill bk 23
      match s.frameKeys b.die o.desc o.frameVa with
      | .ok keys =>
        save s true (fun s1 =>
          match (nested s1).takeChain ix e bk b.coreIx b.slot b.scrBase j [(bk, keys)] with
          | .done s2 => s2.updBlk bk (fun x => { x with below := some t.blk })
          | .absent va => page va
          | .prot _ va => refuse va)
      | .absent va => page va
      | .prot va => refuse va

/-- Whether a chain is to be parked that a wake, or an answer, has reached while its save waits (R340). -/
def State.parksAnyway (s : State) (t : ThreadRef) (b : Block) (owner : Word) : Bool :=
  (s.cd b.die).parking.contains t.blk && (match s.chooseOwner b owner with
    | .park => true
    | _ => false)

/-- ADOPTION: the task unit settles a wait of a task (R339, R340). A wait that a wake has ended goes on in its slot, unless the
save of its chain has begun: then the chain is READY once it is saved. A block that a pre-empt request saves is left to that. -/
def execAdoption (s : State) : Host.Outcome State Fault Refusal :=
  match s.due with
  | some (.adoption t owner) =>
    match s.blk? t.blk, s.thread? t with
    | some b, some th =>
      let keep := fun (s : State) => s.updCd b.die (fun c => { c with parking := c.parking.filter (· != t.blk) })
      let waits := (th.hold.map (fun h => h.wait == .object)).getD false
      if !b.home ∨ b.killed.isSome ∨ b.ending ∨ (s.cd b.die).saving.contains t.blk ∨ !(waits || s.parksAnyway t b owner) then
        .next (keep s)
      else
        match s.chooseOwner b owner with
        | .noFrame =>
          .next ((keep s).updThread t (fun th => { th with hold := th.hold.map (fun h => { h with wait := .noFrame }) })
            |>.countNoFrame b)
        | ch =>
          let s := if (s.cd b.die).parking.contains t.blk then s
                   else s.updCd b.die (fun c => { c with parking := c.parking ++ [t.blk] })
          if s.quietBlock t.blk b none then .next (s.adopt t b owner ch waits) else .next (s.post (.adoption t owner))
    | _, _ => .next s
  | _ => .next s

/-- A held thread issues its instruction again (R341); one whose answer is still under way does so once it has come. -/
def State.release (s : State) (t : ThreadRef) : State :=
  s.updThread t (fun th => { th with
    readyAt := s.clock
    hold := th.hold.map (fun h => match h.wait with
      | .object | .parkRoom | .noFrame => { h with wait := .again, stage := 0, answer := none }
      | .reply => { h with stage := if h.stage < 10 then h.stage + 10 else h.stage }
      | _ => h) })

/-- WAKE: a fill, an unlock or a push wakes a waiter (R341). One that is due to a pool that is not placed sets RESCAN (R344). -/
def execWake (s : State) : Host.Outcome State Fault Refusal :=
  match s.due with
  | some (.wake w) =>
    match (s.blk? w.t.blk).bind (fun b => s.task? b.die w.task) with
    | none => .next (if w.task = 0xFFFF_FFFF then s.release w.t else s)
    | some (ix, p, e, k) =>
      if !p.placed then .next ((s.updPool ix (fun p => { p with rescan := true })).syncRows ix [])
      else
        match k.st with
        | .parked =>
          let (n, s) := s.takeFresh
          .next (((s.updTask ix e (fun k => { k with st := .ready, order := n })).syncPool ix e).offerWork ix)
        | .running => .next (if k.blk = some w.t.blk then s.release w.t else s)
        | _ => .next s
  | _ => .next s

/-- PARK_RETRY: every 1,024 ns a wait that found its park table full sends its check again (R338). -/
def execParkRetry (s : State) : Host.Outcome State Fault Refusal :=
  match s.due with
  | some (.parkRetry t) =>
    .next (s.updThread t (fun th => { th with hold := th.hold.map (fun h =>
      if h.wait = .parkRoom then { h with wait := .again, stage := 2, answer := none } else h) }))
  | _ => .next s

/-! ## LAUNCH (12 R314) -/

def execLaunch (d a b : BitVec 7) (s : State) : Host.Outcome State Fault Refusal :=
  issue s (.launch d a b)
    { plain .both [.items a.toNat 1 false, .items b.toNat 1 false, .items d.toNat 1 true] with roles := [.vector] } (fun c s =>
      let va := c.item a.toNat 0
      let q := c.item b.toNat 0
      if 4 ≤ c.stage then
        match c.answer.getD [] with
        | [] => .done s [] .seq
        | st :: _ => answerWith c s d 1 [st]
      else if va.toNat % 128 ≠ 0 then .refuse 12 va.toNat (if c.front then 0 else laneBit c.low)
      else if fld q 63 12 ≠ 0 then .refuse 1 0 c.allLanes
      else
        releaseAt c s 3 (match s.pagePa c.b.die (clusterOf c.b.coreIx) c.b.desc va.toNat .read c.priv with
          | (some (pa, _), _) =>
            (match s.queueDesc c.b.die (fld q 11 0) with
             | none => answerWith c s d 1 [2]
             | some qd =>
               if qd.home = c.b.die then
                 let (st, s) := s.pushPacket c.b.die (fld q 11 0) pa
                 answerWith c s d 1 [BitVec.ofNat 64 st]
               else
                 let (id, s) := s.newId (.cd c.b.die)
                 let r : Request := { id := id, dev := fld s.pkg.devno 7 0, src := .cd c.b.die, dst := .cd qd.home,
                                      owner := .waits c.t, body := .launch (fld q 11 0) pa, pc := c.th.pc,
                                      lanes := if c.front then 0 else laneBit c.low, ticket := 0, seq := 0 }
                 let way := route (.cd c.b.die) (.cd qd.home)
                 if !s.routeUp way ∨ !s.routeInside c.b.die way then
                   .done ((s.countSeam c.b.die way).imprecise c 29 [(c.low, va.toNat)]) [] .seq
                 else
                   .wait .reply 4 (({ s with waitReq := s.waitReq ++ [r] }).sendOrTake (.cd c.b.die) (.cd qd.home) (.request r)))
          | (none, .prot) => .refuse 23 va.toNat (if c.front then 0 else laneBit c.low)
          | (none, _) =>
            .wait (.page c.b.die c.b.desc.asid) 0 (s.ringPut c.b.die (s.record c.t 22 2 c.th.pc va.toNat
              (if c.front then 0 else laneBit c.low) 0))))

end Sys2Proof.Machine
end

