-- ==== Sys2Proof/Machine/SysRegs.lean ====
section
/-!
DEFINITION. Machine/SysRegs.lean: the system registers as `CSRR`, `CSRW` and the management window reach them (15 R377,
R385, R389; 16 R399-R417; 14 R364-R370; 12 R302; 13 R325; 09 R240; 17 R428), and what a write of one starts.
-/
namespace Sys2Proof.Machine

/-! ## FLTREPLAY (15 R377) -/

/-- Whether a write of FLTREPLAY names an ASID. -/
def replays (v : DWord) (asid : BitVec 16) : Bool := bitOf v 63 || fld v 15 0 == asid.toNat

/-- A thread held by a page of the ASID tries again. -/
def retryHold (die : Nat) (v : DWord) (clock : Nat) (th : Thread) : Thread :=
  match th.hold with
  | some h =>
    (match h.wait with
     | .page d a | .fetchPage d a =>
       if d = die ∧ replays v a then
         { th with readyAt := clock, hold := if h.ins.isSome then some { h with wait := .again } else none }
       else th
     | _ => th)
  | none => th

/-- Everything that a page of the named ASIDs holds on a die tries again: threads, copies, side-log entries, the fetcher,
gangs, blocks whose arguments wait, and the steps of other units (R377). -/
def State.fltReplay (s : State) (die : Nat) (v : DWord) : State :=
  let part := s.partDies die
  let s := s.updCd die (fun c => { c with stuck := c.stuck.filter (fun x => !replays v x.2) })
  let asidOf := fun (pk : Nat) => ((kget s.packets pk).map (fun (p : Packet) => p.desc.asid)).getD 0
  let homeOf := fun (pk : Nat) => ((kget s.packets pk).map (fun (p : Packet) => p.die)).getD die
  let s := { s with gangs := s.gangs.map (fun (g : Nat × Gang) =>
    if part.contains (homeOf g.2.pkt) && replays v (asidOf g.2.pkt) then (g.1, { g.2 with stuck := false }) else g) }
  let due := (s.cd die).retry.filter (fun x => replays v x.1)
  let s := (s.updCd die (fun c => { c with retry := c.retry.filter (fun x => !replays v x.1) })).postAll (due.map (·.2))
  let s := ((s.packets.filter (fun x => x.2.owed && x.2.die == die && replays v x.2.desc.asid)).map (·.1)).foldl
    (fun s k => s.countDone k) s
  -- threads, and blocks that wait for the borrow of their arguments
  let asked := fun (bk : Nat) => (s.cd die).entries.any (fun e => e.2.user == .args bk)
  let s := { s with blocks := s.blocks.map (fun (x : Nat × Block) =>
    let b := x.2.mapThreads (retryHold die v s.clock)
    if b.die = die ∧ b.home ∧ !b.started ∧ b.argReq ∧ replays v b.desc.asid ∧ !asked x.1 then (x.1, { b with argReq := false })
    else (x.1, b)) }
  let s := s.cores.foldl (fun s x =>
    if x.1 / 128 = die then
      let woken := x.2.copies.filter (fun c => (c.paused.map (fun p => replays v p.2)).getD false)
      let logged := x.2.log.filter (fun e => e.waits && ((s.blk? e.ctx).map (fun b => replays v b.desc.asid)).getD true)
      let s := s.updCore x.1 (fun c => { c with
        copies := c.copies.map (fun y => if woken.any (fun z => z.id == y.id) then { y with paused := none } else y)
        log := c.log.map (fun e => if logged.any (fun z => z.id == e.id) then { e with waits := false } else e) })
      s.postAll (woken.map (fun c => Event.copyLanding x.1 c.id) ++ logged.map (fun e => Event.sideLogReplay x.1 e.id))
    else s) s
  (s.post (.packetFetch die)).post .gangPlacement

def execFltreplay (s : State) : Host.Outcome State Fault Refusal :=
  match s.due with
  | some (.fltreplay die v) => .next (s.fltReplay die v)
  | _ => .next s

/-! ## Heat (14 R367, R368) -/

/-- A write of one die's HEATCTL: `CLR` clears the heat counters first; a field out of range keeps its value. -/
def State.writeHeat (s : State) (m : Nat) (v : DWord) : State :=
  s.updMd m (fun d =>
    let dl2 := if 10 ≤ fld v 37 32 ∧ fld v 37 32 ≤ 40 then fld v 37 32 else fld d.heatctl 37 32
    let h := if fld v 3 0 ≤ 12 then fld v 3 0 else fld d.heatctl 3 0
    { d with heat := if bitOf v 63 then [] else d.heat
             heatctl := setFld (setFld (setFld 0 62 62 (fld v 62 62)) 37 32 dl2) 3 0 h })

/-- HEATCTL_CLR: the heat counters of a memory-side die become 0; n stays. -/
def execHeatctlClr (s : State) : Host.Outcome State Fault Refusal :=
  match s.due with
  | some (.heatctlClr m) => .next (s.updMd m (fun d => { d with heat := [] }))
  | _ => .next s

/-! ## Time (14 R364) -/

/-- A non-zero STEP moves the time base forward at once. -/
def State.timeStep (s : State) (n : Word) : State := if n = 0 then s else s.advanceTime n.toNat

def execTimeStep (s : State) : Host.Outcome State Fault Refusal :=
  match s.due with
  | some (.timeStep n) => .next (s.timeStep n)
  | _ => .next s

/-! ## Writable bits -/

/-- A mask of bits [hi:lo]. -/
def bits (hi lo : Nat) : DWord := BitVec.ofNat 64 ((2 ^ (hi + 1 - lo) - 1) * 2 ^ lo)

/-- The fields of a plain read-write register, and 0 for a number that is no such register. -/
def cdMask (n : Nat) : DWord :=
  if n = 0x300 then bits 63 58 ||| bits 51 34
  else if n = 0x301 then bits 63 0
  else if n = 0x302 ∨ n = 0x303 then bits 1 0
  else if 0x380 ≤ n ∧ n ≤ 0x383 then bits 55 4
  else if 0x384 ≤ n ∧ n ≤ 0x387 then bits 15 0
  else if 0x388 ≤ n ∧ n ≤ 0x38B then bits 63 59 ||| bits 47 32 ||| bits 15 0
  else if n = 0x3B0 then bits 51 12 ||| bits 4 0
  else if n = 0x3B1 then bits 31 0
  else if n = 0x3D0 then bits 51 14 ||| bits 11 0
  else if n = 0x3D2 then bits 51 14 ||| bits 4 0
  else if 0x3E4 ≤ n ∧ n ≤ 0x3E9 then bits 63 0
  else 0

/-- The old value with the writable bits replaced (R4, R5). -/
def under (mask old v : DWord) : DWord := (old &&& ~~~mask) ||| (v &&& mask)

/-- Link commands of LKST (16 R399). -/
def linkCmd (d : DieId) (m : Nat) (v : DWord) : List Event :=
  if fld v 1 0 = 1 then [.train d m] else if fld v 1 0 = 2 then [.takeDown d m] else []

/-! ## Reading (16 R407) -/

def State.readCd (s : State) (d n : Nat) : DWord :=
  if 0x310 ≤ n ∧ n ≤ 0x31D then s.lkst (.cd d) (n - 0x310)
  else if n = 0x3B3 then s.cdReg d n &&& bits 63 63
  else if n = 0x3B2 ∨ n = 0x3B4 ∨ n = 0x3D1 then 0
  else if cdMask n ≠ 0 ∨ n = 0x304 ∨ n = 0x305 ∨ n = 0x3A0 ∨ n = 0x3C0 then s.cdReg d n
  else 0

def State.readMd (s : State) (m n : Nat) : DWord :=
  if 0x310 ≤ n ∧ n ≤ 0x313 then s.lkst (.md m) (n - 0x310)
  else if n = 0x3E2 then (s.md m).heatctl
  else if 0x400 + 16 * m ≤ n ∧ n < 0x400 + 16 * m + 12 then (kget (s.md m).wp (n - 0x400 - 16 * m)).getD 0
  -- counters at 0x8000: CINCOMP, CMDMISS, COVFL, CDCHK, HEATN (14 R369; log 30)
  else if 0x1000 ≤ n ∧ n ≤ 0x1003 then (s.md m).counters.getD (n - 0x1000) 0
  else if n = 0x1004 then BitVec.ofNat 64 (s.md m).accesses
  else 0

def State.readPkg (s : State) (n : Nat) : DWord :=
  if n = 0x306 then s.pkg.linkpol else if n = 0x307 then s.pkg.devno else if n = 0x308 then s.pkg.partcmd
  else if n = 0x309 then s.pkg.bootwhy else if n = 0x30A then s.pkg.pwrlim else if n = 0x30B then s.pkg.pwrstat
  else if n = 0x3E0 then s.pkg.wlen else if n = 0x3E1 then s.pkg.tbadj else 0

def State.readReg (s : State) (r : RegPlace) : DWord :=
  match r with
  | .cd d n => s.readCd d n
  | .md m n => s.readMd m n
  | .pkg n => s.readPkg n
  | .pmc core i => ((s.core core).pmc.getD i 0).setWidth 64
  | .pmcfg core i => (s.core core).pmcfg.getD i 0
  -- entries 8i to 8i + 7, one byte each
  | .portmap d i => BitVec.ofNat 64 (leNat (cread (s.cd d).portmap (8 * i) 8))

/-! ## Writing -/

def State.writeCd (s : State) (d n : Nat) (v : DWord) : State :=
  let new := under (cdMask n) (s.cdReg d n) v
  if 0x300 ≤ n ∧ n ≤ 0x303 then
    -- staged, and ignored outside a quiesce (16 R412, R417)
    if (s.cd d).quiet then s.updCd d (fun c => { c with staged := kset c.staged n (v &&& cdMask n) }) else s
  else if 0x310 ≤ n ∧ n ≤ 0x31D then s.postAll (linkCmd (.cd d) (n - 0x310) v)
  else if n = 0x3A0 then if bitOf v 63 then s.setCdReg d n (s.cdReg d n &&& ~~~bits 63 63) else s
  else if n = 0x3B0 ∨ n = 0x3B1 then (s.setCdReg d n new).ringDrain d 65536
  else if n = 0x3B2 then s.fltReplay d v
  else if n = 0x3B3 then s.preempt d v
  else if n = 0x3B4 then s.resume d v
  else if n = 0x3D0 then (s.setCdReg d n new).post (.packetFetch d)
  else if n = 0x3D1 then s.ringBell d (fld v 11 0)
  else if cdMask n ≠ 0 then s.setCdReg d n new
  else s

/-- Writable bits of a memory-side watchpoint (15 R389). -/
def wpMask (k : Nat) : DWord := if k < 4 then bits 51 4 else if k < 8 then bits 15 0 else bits 63 60 ||| bits 15 0

/-- A write to a register of a memory-side die. DESIGN CHOICE (log 102): R369 calls `HEATN` read-only and says nothing of the other four
counters; a write to any of them is ignored. -/
def State.writeMd (s : State) (m n : Nat) (v : DWord) : State :=
  if 0x310 ≤ n ∧ n ≤ 0x313 then s.postAll (linkCmd (.md m) (n - 0x310) v)
  else if n = 0x3E2 then s.writeHeat m v
  else if 0x400 + 16 * m ≤ n ∧ n < 0x400 + 16 * m + 12 then
    let k := n - 0x400 - 16 * m
    s.updMd m (fun d => { d with wp := let x := v &&& wpMask k; if x = 0 then kdel d.wp k else kset d.wp k x })
  else s

/-- PARTCMD (16 R416): a command starts unless one is under way. -/
def State.writePartcmd (s : State) (v : DWord) : State :=
  let cols := BitVec.ofNat 4 (fld v 55 52)
  if bitOf s.pkg.partcmd 63 then s
  else
    match (match fld v 2 0 with
      | 1 => some (Event.quiesce cols)
      | 2 => some (Event.commit cols)
      | 3 => some (Event.release cols)
      | 4 => some (Event.abort cols)
      | _ => none) with
    | some e => (s.setPkg (fun p => { p with partcmd := bits 63 63 })).post e
    | none => s

def State.writePkg (s : State) (n : Nat) (v : DWord) : State :=
  if n = 0x306 then
    let m := bits 63 63 ||| bits 47 32 ||| (if fld v 55 48 = 0 then 0 else bits 55 48)
    s.setPkg (fun p => { p with linkpol := under m p.linkpol v })
  else if n = 0x307 then s.setPkg (fun p => { p with devno := v &&& bits 7 0 })
  else if n = 0x308 then s.writePartcmd v
  else if n = 0x30A then
    if 1000 ≤ fld v 15 0 ∧ fld v 15 0 ≤ 3000 then s.setPkg (fun p => { p with pwrlim := v &&& bits 15 0 }) else s
  else if n = 0x3E0 then
    if 6 ≤ fld v 3 0 ∧ fld v 3 0 ≤ 14 then s.setPkg (fun p => { p with wlen := v &&& bits 3 0 }) else s
  else if n = 0x3E1 then (s.setPkg (fun p => { p with tbadj := v &&& bits 47 32 })).timeStep (v.setWidth 32)
  else s

def State.writeReg (s : State) (r : RegPlace) (v : DWord) : State :=
  match r with
  | .cd d n => s.writeCd d n v
  | .md m n => s.writeMd m n v
  | .pkg n => s.writePkg n v
  | .pmc core i => s.updCore core (fun c => { c with pmc := lset c.pmc i (fun _ => v.setWidth 48) })
  | .pmcfg core i => s.updCore core (fun c => { c with pmcfg := lset c.pmcfg i (fun _ => v &&& (bits 63 62 ||| bits 55 48)) })
  | .portmap d i =>
    s.updCd d (fun c => { c with portmap := cwrite c.portmap (8 * i) ((leBytes 8 v.toNat).map (fun (x : Byte) => x &&& 0x8F)) })

/-- Whether BAR0 exposes a register: before READY the package registers alone (17 R418). What lies in the rest of BAR0 then takes no
access and gives no answer (log 85). -/
def State.exposed (s : State) (r : RegPlace) : Bool :=
  s.pkg.phase == .ready || (match r with
    | .pkg _ => true
    | .cd _ _ | .md _ _ | .pmc _ _ | .pmcfg _ _ | .portmap _ _ => false)

/-- REGISTER_WRITE: a write of the host takes effect where it arrives (16 R407, 15 R380), if BAR0 exposes the register. -/
def execRegisterWrite (s : State) : Host.Outcome State Fault Refusal :=
  match s.due with
  | some (.registerWrite r v) => .next (if s.exposed r then s.writeReg r v else s)
  | _ => .next s

/-! ## Numbers as a thread names them (15 R378, R379) -/

/-- The place of a register number for a thread of a block; none for the registers of the thread itself and for HEATCTL. -/
def csrPlace (b : Block) (n : Nat) : RegPlace :=
  if (0x306 ≤ n ∧ n ≤ 0x30B) ∨ n = 0x3E0 ∨ n = 0x3E1 then .pkg n
  else if 0x3F0 ≤ n ∧ n ≤ 0x3F7 then .pmc b.coreIx (n - 0x3F0)
  else if 0x3F8 ≤ n ∧ n ≤ 0x3FF then .pmcfg b.coreIx (n - 0x3F8)
  else if 0x400 ≤ n then .md ((n - 0x400) / 16) n
  else .cd b.die n

/-- The value that CSRR reads. -/
def csrValue (s : State) (c : Ctx) (n : Nat) : DWord :=
  if n = 0x100 then c.th.trpc
  else if n = 0x101 then c.th.trctl
  else if n = 0x104 then c.b.ctxid
  else if n = 0x3E2 then (s.md (((s.partMds c.b.die).head?).getD 0)).heatctl
  else s.readReg (csrPlace c.b n)

/-- What CSRW writes. -/
def csrWrite (s : State) (c : Ctx) (n : Nat) (v : DWord) : State :=
  if n = 0x100 then s.updThread c.t (fun th => { th with trpc := v &&& bits 55 2 })
  else if n = 0x101 then s.updThread c.t (fun th => { th with trctl := under (bits 2 1) th.trctl v })
  else if n = 0x104 then s
  else if n = 0x3E2 then (s.partMds c.b.die).foldl (fun s m => s.writeHeat m v) s
  else s.writeReg (csrPlace c.b n) v

end Sys2Proof.Machine
end

