-- ==== Sys2Proof/Machine/Control.lean ====
section
/-!
DEFINITION. Machine/Control.lean: the host port, the management window's bulk reads, reconfiguration, the mailbox, the start
of the package and its power (16 R404-R417; 11 R289-R291; 14 R367; 17 R418-R428).
-/
namespace Sys2Proof.Machine

/-! ## Host accesses (16 R404, R407) -/

/-- The compute die whose map gives BAR2's addresses: the lowest of the partition of MD0, where the host port stands (log
32). -/
def State.hostDie (s : State) : Nat := s.ringDie (.md 0)

/-- The key of a device physical address of BAR2. -/
def State.barKey (s : State) (pa : Nat) : Option Nat := if pa < 2 ^ 41 then s.paKey s.hostDie pa else none

/-- Parts of a host access that lie in one 128-byte line each, with their keys. -/
def State.barParts (s : State) (pa len : Nat) : List (Nat × Nat × Nat) :=
  (chunks 128 (len + 1) pa len).filterMap (fun c => (s.barKey c.1).map (fun k => (k, c.1 - pa, c.2)))

/-- A read at the homes: poison, and a check mismatch on the way out, reported with no thread (09 R222, R223). -/
def State.hostRead (s : State) (pa len : Nat) : State :=
  let (bs, p, s) := (s.barParts pa len).foldl (fun (x : List Byte × Bool × State) c =>
    let s := x.2.2.homeWatch c.1 c.2.2 62 none 0
    let (data, gone, s) := s.homeRead c.1 c.2.2
    let m := keyPlace c.1
    let bad := (gone ++ s.failing c.1 c.2.2).dedup
    let s := (bad.foldl (fun s y => s.report none 0 24 (s.sectorPa y) (8 * 4096 + m % 16 * 256) 0 m) s).addPoison bad
    (x.1 ++ data, x.2.1 || (sectorsOf c.1 c.2.2).any s.poison.contains, s)) ([], false, s)
  s.emit (.answer bs p)

/-- `RES` of every queue whose consumer is a pool is the device's, whatever has been written there (13 R325). -/
def State.keepRes (s : State) : State := s.pools.foldl (fun s x => s.markQueues x.2 x.1 x.2.placed) s

/-- A write at the homes; a poisoned one poisons the sectors that it touches (R223). -/
def State.hostWrite (s : State) (pa : Nat) (data : List Byte) (poisoned : Bool) : State :=
  ((s.barParts pa data.length).foldl (fun s c =>
    let s := (s.homeWatch c.1 c.2.2 61 none 0).homeWrite c.1 ((data.drop c.2.1).take c.2.2)
    if poisoned then s.addPoison (sectorsOf c.1 c.2.2) else s) s).keepRes

/-- Operations that a PCIe requester sends (R404). -/
def hostOps (op : MemOp) : Bool := op == .add || op == .swap || op == .cas

/-- An AtomicOp of the host, performed at the home atomic unit. -/
def State.hostAtomic (s : State) (op : MemOp) (ty : ElemTy) (pa : Nat) (v c : DWord) : State :=
  let size := match ty with
    | .w64 => 8
    | _ => 4
  match s.barKey pa with
  | some k =>
    if hostOps op then
      let r : Request := { id := 0, dev := 2 ^ 16, src := .md 0, dst := .md 0,
                           owner := .waits { blk := 0, warp := 0, armE := false },
                           body := .access op ty size k v c .none, pc := 0, lanes := 0, ticket := 0, seq := 0 }
      let ((vals, p), s) := s.performAccess r
      s.emit (.answer (leBytes size (vals.headD 0).toNat) p)
    else s
  | none => s

/-- The boot status block (17 R425). -/
def bootBytes (p : Pkg) : List Byte :=
  let col := fun (f : Nat × Nat × Nat → Nat) => padTo 8 (p.history.map (fun h => BitVec.ofNat 8 (f h)))
  padTo 64 (leBytes 4 0x53424B48 ++ leBytes 1 p.fcnt ++ leBytes 1 (if p.progress then 1 else 0) ++ [p.seqByte] ++ leBytes 9 0
    ++ col (·.1) ++ col (·.2.1) ++ col (·.2.2) ++ leBytes 8 p.lastOk.toNat)

/-- Bytes of the mailbox: the status word at offset 8, elsewhere what the host wrote (17 R426; log 67). -/
def mailBytes (p : Pkg) (off len : Nat) : List Byte :=
  (List.range len).map (fun i =>
    let k := off + i
    if 8 ≤ k ∧ k < 16 then BitVec.ofNat 8 (p.mailStat / 2 ^ (8 * (k - 8))) else cget p.mail k)

/-- The step that the command word of the mailbox asks for, with its payload (17 R426). Bit 63 of ATTEST's address marks the
part of it that runs; a host's address with that bit is no address, and goes on as another that is none. -/
def mailCommand (m : Cells 8) : Event :=
  let n := fun (off len : Nat) => leNat (cread m off len)
  match n 0 8 with
  | 1 => .restart ((cget m 64).getLsbD 0)
  | 2 => .clearfail
  | 3 =>
    let buf := BitVec.ofNat 64 (n 96 8)
    .attest (BitVec.ofNat 256 (n 64 32)) (if bitOf buf 63 then bits 62 62 else buf)
  | 4 => .getcert (BitVec.ofNat 64 (n 64 8))
  | 5 => .raisefloor (BitVec.ofNat 64 (n 64 8))
  | k => .badCommand (BitVec.ofNat 64 k)

/-- The host writes the mailbox: the command word at 0, the payload from 64; a write that reaches offset 0 gives the command
(17 R426; log 67). -/
def State.mailPut (s : State) (off : Nat) (data : List Byte) : State :=
  let cells := ((List.range data.length).map (fun i => (off + i, data.getD i 0))).filter (fun x =>
    x.1 < 8 || (64 ≤ x.1 && x.1 < 4096))
  let m := cells.foldl (fun m x => cset m x.1 x.2) s.pkg.mail
  let s := s.setPkg (fun p => { p with mail := m })
  if off = 0 ∧ data ≠ [] then s.post (mailCommand m) else s

/-- Whether a host access reaches memory that a write holds back (11 R291): it waits. -/
def State.hostHeld (s : State) (pa len : Nat) : Bool := (s.barParts pa len).any (fun c => s.overflowed c.1)

/-- A read of a dirty bitmap clears it (11 R289). -/
def State.takeDirty (s : State) (m chunk : Nat) : State :=
  let v := (kget (s.md m).dirty chunk).getD 0
  (s.updMd m (fun d => { d with dirty := kdel d.dirty chunk })).emit (.answer (leBytes 64 v.toNat) false)

/-- The register or table doubleword at an offset of BAR0 (16 R407). -/
def bar0Reg (off : Nat) : Option RegPlace :=
  if off % 8 ≠ 0 then none
  else if off < 0x80_0000 then
    let d := off / 0x10_0000
    let o := off % 0x10_0000
    if o < 0x8000 then some (.cd d (o / 8))
    else if 0x9000 ≤ o ∧ o < 0x9100 then some (.portmap d ((o - 0x9000) / 8))
    else if 0x1_0000 ≤ o ∧ o < 0x1_4000 then
      let core := 128 * d + (o - 0x1_0000) / 128
      let i := o % 128 / 8
      some (if i < 8 then .pmc core i else .pmcfg core (i - 8))
    else none
  else if off < 0x80_8000 then some (.pkg ((off - 0x80_0000) / 8))
  else if 0x800_0000 ≤ off ∧ off < 0x1000_0000 then
    let m := (off - 0x800_0000) / 0x80_0000
    let o := off % 0x80_0000
    if o < 0x8000 then some (.md m (o / 8))
    else if o < 0x8028 then some (.md m (0x1000 + (o - 0x8000) / 8))
    else none
  else none

/-- The 64-byte unit of a bulk window at an offset of BAR0 (16 R407): a module's counters, heat counters, a dirty bitmap, a chunk
descriptor. A memory-side die's port block follows those of its four modules (log 93). -/
inductive BulkPlace
  | counters (d : DieId) (m : Nat)
  | heat (md first : Nat)
  | dirty (md chunk : Nat)
  | chunk (md chunk : Nat)
  deriving DecidableEq, Repr

def bar0Bulk (off : Nat) : Option BulkPlace :=
  if off % 64 ≠ 0 then none
  else if off < 0x80_0000 then
    let o := off % 0x10_0000
    if 0x8000 ≤ o ∧ o < 0x8380 then some (.counters (.cd (off / 0x10_0000)) ((o - 0x8000) / 64)) else none
  else if 0x800_0000 ≤ off ∧ off < 0x1000_0000 then
    let m := (off - 0x800_0000) / 0x80_0000
    let o := off % 0x80_0000
    if 0x8100 ≤ o ∧ o < 0x8240 then some (.counters (.md m) ((o - 0x8100) / 64))
    else if 0x1_0000 ≤ o ∧ o < 0x10_0000 then some (.heat m ((o - 0x1_0000) / 64))
    else if 0x10_0000 ≤ o ∧ o < 0x40_0000 then some (.dirty m ((o - 0x10_0000) / 64))
    else if 0x40_0000 ≤ o then some (.chunk m ((o - 0x40_0000) / 64))
    else none
  else none

/-- The counters of a module, or of the scale-up port of a memory-side die (its fifth block; log 93). -/
def blockKey (d : DieId) (m : Nat) : Nat :=
  match d, decide (m = 4) with
  | .md n, true => 512 + n
  | _, _ => ctrKey d m

/-- A bulk unit is read. -/
def State.readBulk (s : State) (x : BulkPlace) : State :=
  match x with
  | .counters d m =>
    s.emit (.answer (((kget s.modCtr (blockKey d m)).getD (List.replicate 8 0)).flatMap (fun x => leBytes 8 x.toNat)) false)
  | .heat m first => s.emit (.answer ((cread (s.md m).heat (32 * first) 32).flatMap (fun x => leBytes 2 x.toNat)) false)
  | .dirty m chunk => s.takeDirty m chunk
  | .chunk m chunk => s.emit (.answer (leBytes 64 (((kget (s.md m).chunks chunk).map (fun (c : Chunk) => c.raw)).getD 0).toNat) false)

/-- A read of BAR0: a doubleword of a register, or a 64-byte unit of a bulk window (16 R407). What answers to no name gives zeros. -/
def State.bar0Read (s : State) (off len : Nat) : State :=
  if len = 64 then (match bar0Bulk off with
    | some x => if s.pkg.phase = .ready then s.readBulk x else s
    | none => s.emit (.answer (List.replicate 64 0) false))
  else match bar0Reg off with
    | some r => if s.exposed r then s.emit (.regAnswer (s.readReg r)) else s
    | none => s.emit (.regAnswer 0)

/-- A write of a doubleword of BAR0; `HCLR` stands at 0x9000 of a memory-side die (16 R407, R408). -/
def State.bar0Write (s : State) (off : Nat) (v : DWord) : State :=
  match bar0Reg off with
  | some r => if s.exposed r then s.writeReg r v else s
  | none =>
    if 0x800_0000 ≤ off ∧ off < 0x1000_0000 ∧ off % 0x80_0000 = 0x9000 then s.hostClear ((off - 0x800_0000) / 0x80_0000) v else s

/-- The host, or a pool agent, writes its own memory: with poison, what a later read of HK8 is answered with is poisoned (16 R404,
R405). -/
def State.outsideWrite (s : State) (k : Nat) (data : List Byte) (poisoned : Bool) : State :=
  let s := s.putAll k data
  if poisoned then s.addPoison (sectorsOf k data.length) else s

/-- HOST_ACCESS: a transaction of the host port, a write of the host or of a pool agent to its own memory, or a pool kill. -/
def execHostAccess (s : State) : Host.Outcome State Fault Refusal :=
  match s.due with
  | some (.hostAccess h) =>
    let ready := s.pkg.phase == .ready
    match h with
    | .read pa len =>
      .next (if !ready then s else if s.hostHeld pa len then s.post (.hostAccess h) else s.hostRead pa len)
    | .write pa data p =>
      .next (if !ready then s else if s.hostHeld pa data.length then s.post (.hostAccess h) else s.hostWrite pa data p)
    | .atomic op ty pa v c =>
      .next (if !ready then s else if s.hostHeld pa 8 then s.post (.hostAccess h) else s.hostAtomic op ty pa v c)
    | .readReg r => .next (if s.exposed r then s.emit (.regAnswer (s.readReg r)) else s)
    | .readHeat m first => .next (if !ready then s else s.readBulk (.heat m first))
    | .readCounters d m => .next (if !ready then s else s.readBulk (.counters d m))
    | .readChunk m chunk => .next (if !ready then s else s.readBulk (.chunk m chunk))
    | .bar0Read off len => .next (s.bar0Read off len)
    | .bar0Write off v => .next (s.bar0Write off v)
    | .readBoot => .next (s.emit (.answer (bootBytes s.pkg) false))
    | .readMail off len => .next (s.emit (.answer (mailBytes s.pkg off len) false))
    | .mailWrite off data => .next (s.mailPut off data)
    | .hostWrite a data p => .next (s.outsideWrite (placeKey 16 a) data p)
    | .poolWrite a data p => .next (s.outsideWrite (placeKey 17 a) data p)
    | .poolKill die ix => .next (((s.poolAt die ix).map (fun x => s.killPool x.1)).getD s)
  | _ => .next s

/-! ## Bitmaps and chunk descriptors (11 R289-R291) -/

def execDirtyBitmapReadClear (s : State) : Host.Outcome State Fault Refusal :=
  match s.due with
  | some (.dirtyBitmapReadClear m chunk) => .next (if s.pkg.phase ≠ .ready then s else s.takeDirty m chunk)
  | _ => .next s

/-- The writes that OVERFLOW holds are tried again in their order, and the requests that waited for their granules are performed
(R291). -/
def State.retryHeld (s : State) (m : Nat) (held : List (Nat × List Byte × Option ThreadRef)) : State :=
  let s := held.foldl (fun s x => s.settleWrite x.1 x.2.1 x.2.2) s
  let free := (s.md m).stalled.filter (fun r => !s.granuleHeld r)
  let s := s.updMd m (fun d => { d with stalled := d.stalled.filter (fun r => !(free.any (fun q => q.id == r.id && q.dev == r.dev))) })
  let s := free.foldl (fun s r => s.perform (.md m) r) s
  s.advanceAll m

/-- CHUNK_DESCRIPTOR_WRITE: the descriptor is replaced, and what OVERFLOW holds for the chunk is tried again. -/
def execChunkDescriptorWrite (s : State) : Host.Outcome State Fault Refusal :=
  match s.due with
  | some (.chunkDescriptorWrite m chunk d) =>
    let (en, base, sectors, reserve) := Config.chunkFields d
    let mine := (s.md m).overflow.filter (fun x => chunkOf x.1 == chunk)
    let t := s.updMd m (fun x => { x with
      chunks := kset x.chunks chunk { raw := d, enable := en, base := base, sectors := sectors, reserve := reserve }
      overflow := x.overflow.filter (fun y => chunkOf y.1 != chunk) })
    if s.pkg.phase ≠ .ready then .next s
    else .next (t.retryHeld m mine)
  | _ => .next s

/-! ## Reconfiguration (16 R411-R417) -/

/-- Compute and memory-side dies of a set of columns. -/
def colDies (cols : BitVec 4) : List Nat := (List.range 8).filter (fun d => cols.getLsbD (d % 4))
def colMds (cols : BitVec 4) : List Nat := (List.range 16).filter (fun m => cols.getLsbD (mdColumn m))

/-- A command ends with its result. -/
def State.partEnd (s : State) (res : Nat) : State :=
  s.setPkg (fun p => { p with partcmd := BitVec.ofNat 64 (res * 2 ^ 60) })

/-- Whether `cols` covers whole present partitions, at least one. -/
def State.wholeParts (s : State) (cols : BitVec 4) : Bool :=
  cols != 0 && (colDies cols).all (fun d => s.cols d &&& cols.toNat == s.cols d)

def execQuiesce (s : State) : Host.Outcome State Fault Refusal :=
  match s.due with
  | some (.quiesce cols) =>
    if s.pkg.stage ≠ 0 then .next (s.partEnd 4)
    else if !s.wholeParts cols then .next (s.partEnd 3)
    else
      let s := (colDies cols).foldl (fun s d => s.updCd d (fun c => { c with quiet := true })) s
      .next ((s.setPkg (fun p => { p with stage := 1, stageCols := cols })).partEnd 0)
  | _ => .next s

/-- The first reason against the drain: 1 queues busy, 2 tables not empty. -/
def State.drainRefusal (s : State) (cols : BitVec 4) : Option Nat :=
  let dies := colDies cols
  let mds := colMds cols
  let queues := dies.any (fun d => (List.range (fld (s.cdReg d 0x3D0) 11 0 + 1)).any (fun q => match s.queueDesc d q with
    | some x => x.home == d && x.head != x.tail
    | none => false))
  let resident := s.blocks.any (fun x => x.2.home && dies.contains x.2.die) || s.pools.any (fun p => p.2.placed && dies.contains p.2.die)
  let mine := fun (k : Nat) => if k < 8 then dies.contains k else mds.contains (k - 8)
  let buffers := s.streams.any (fun x => !x.2.buf.isEmpty && (mine (x.1 / 32) || mine (x.1 % 32)))
    || mds.any (fun m => !(s.md m).portBuf.isEmpty || !(s.md m).portWait.isEmpty)
  let logs := s.cores.any (fun x => dies.contains (x.1 / 128) && !x.2.log.isEmpty)
  let tables := dies.any (fun d => !(s.cd d).entries.isEmpty) || mds.any (fun m => !(s.md m).home.isEmpty)
  if queues || resident then some 1 else if buffers || logs || tables then some 2 else none

/-- A register of a die as COMMIT would apply it. -/
def State.stagedReg (s : State) (d n : Nat) : DWord := (kget (s.cd d).staged n).getD (s.cdReg d n)

/-- Whether the staged values describe partitions of `cols` (R411-R414). -/
def State.stagedOk (s : State) (cols : BitVec 4) : Bool :=
  (colDies cols).all (fun d =>
    let v := s.stagedReg d 0x300
    let c := fld v 63 60
    let n := 4 * ((List.range 4).filter (fun i => c.testBit i)).length
    let mds := (List.range 16).filter (fun m => c.testBit (mdColumn m))
    let ilv := (s.stagedReg d 0x301).toNat
    let slots := (List.range 16).map (fun i => ilv / 16 ^ i % 16)
    [1, 2, 4, 8, 3, 12, 15].contains c && c &&& cols.toNat == c && c.testBit (d % 4)
      && decide (fld v 51 48 ≤ 7 ∧ fld v 47 44 ≤ 8 ∧ fld v 42 38 ≤ 16 ∧ fld v 37 34 ≤ 8)
      && mds.all (fun m => (slots.take n).contains m) && (slots.drop n).all (· == 0)
      && some (fld (s.stagedReg d 0x302) 1 0) == (List.range 4).find? (fun i => c.testBit i)
      && some (fld (s.stagedReg d 0x303) 1 0) == ((List.range 4).filter (fun i => c.testBit i)).getLast?
      && (colDies (BitVec.ofNat 4 c)).all (fun e => [0x300, 0x301, 0x302, 0x303].all (fun k => s.stagedReg e k == s.stagedReg d k)))

/-- Steps 3 to 5 of a COMMIT on one die: values, slice map, die-shared memory, TLBs, L1s and rank tables (R417, 11 R296). -/
def State.applyStaged (s : State) (d : Nat) : State :=
  let s := (s.cd d).staged.foldl (fun s x => s.setCdReg d x.1 x.2) s
  let gen := fld (s.cdReg d 0x3C0) 7 0
  let s := s.setCdReg d 0x3C0 (BitVec.ofNat 64 ((gen + 1) % 256))
  let s := s.updCd d (fun c =>
    { c with staged := [], slice := [], sliceOld := kset c.sliceOld gen c.slice, shared := [], shpoison := [], shsums := [] })
  { s with tlb := s.tlb.filter (fun e => e.cluster / 16 != d), l1 := s.l1.filter (fun x => x.core / 128 != d),
           cores := s.cores.map (fun (x : Nat × Core) => if x.1 / 128 = d then (x.1, { x.2 with att := [], recon := [] }) else x) }

/-- COMMIT. DESIGN CHOICE (log 103): a COMMIT, RELEASE or ABORT whose `COLS` is not that of the QUIESCE is out of step. -/
def execCommit (s : State) : Host.Outcome State Fault Refusal :=
  match s.due with
  | some (.commit cols) =>
    if s.pkg.stage ≠ 1 ∨ s.pkg.stageCols ≠ cols then .next (s.partEnd 4)
    else
      match s.drainRefusal cols with
      | some r => .next (s.partEnd r)
      | none =>
        let s := (s.l2.filter (fun x => (colDies cols).contains x.die)).foldl (fun s x => s.l2Drop x) s
        let s := (colMds cols).foldl (fun s m => s.updMd m (fun d =>
          { d with held := [], metaHit := [], lines := [] })) s
        if !s.stagedOk cols then .next (s.partEnd 3)
        else
          let s := (colDies cols).foldl (fun s d => s.applyStaged d) s
          .next ((s.setPkg (fun p => { p with stage := 2 })).partEnd 0)
  | _ => .next s

/-- The dies take work again. -/
def State.unquiet (s : State) (cols : BitVec 4) : State :=
  let s := (colDies cols).foldl (fun s d => (s.updCd d (fun c => { c with quiet := false, staged := [] })).post (.packetFetch d)) s
  ((s.setPkg (fun p => { p with stage := 0, stageCols := 0 })).post .gangPlacement).offerAll

def execRelease (s : State) : Host.Outcome State Fault Refusal :=
  match s.due with
  | some (.release cols) =>
    if s.pkg.stage ≠ 2 ∨ s.pkg.stageCols ≠ cols then .next (s.partEnd 4) else .next ((s.unquiet cols).partEnd 0)
  | _ => .next s

def execAbort (s : State) : Host.Outcome State Fault Refusal :=
  match s.due with
  | some (.abort cols) =>
    if s.pkg.stage ≠ 1 ∨ s.pkg.stageCols ≠ cols then .next (s.partEnd 4) else .next ((s.unquiet cols).partEnd 0)
  | _ => .next s

/-! ## The boot status block and stops (17 R418-R425) -/

/-- A failure is recorded: the count, and reason, step and unit in the history (R422). -/
def Pkg.fail (p : Pkg) (reason step unit : Nat) : Pkg :=
  { p with fcnt := min (p.fcnt + 1) 255, history := ((reason, step, unit) :: p.history).take 8 }

/-- The block as its newer copy holds it. -/
def Pkg.boot (p : Pkg) : Boot :=
  { fcnt := p.fcnt, progress := p.progress, seqByte := p.seqByte, history := p.history, lastOk := p.lastOk }

/-- The boot status block is written: the older of its two copies takes the new content, under the next sequence byte (R422). -/
def State.bootWrite (s : State) (f : Pkg → Pkg) : State :=
  s.setPkg (fun p => { f p with seqByte := p.seqByte + 1, spare := some p.boot, bootAt := s.clock })

/-- The ROM uses the valid copy with the higher sequence: of a write that power loss has cut, the copy before it is left (R422). -/
def State.cutWrite (s : State) : State :=
  s.setPkg (fun p => match p.spare with
    | some x => { p with fcnt := x.fcnt, progress := x.progress, seqByte := x.seqByte, history := x.history, lastOk := x.lastOk,
                         spare := none }
    | none => p)

/-- The package stops: what is volatile is as after reset; the boot status block, the fuses, and the memories outside the
package stay (log 33). -/
def State.stopped (s : State) (ph : Phase) : State :=
  { State.reset with
    mem := s.mem.filter (fun c => 16 ≤ keyPlace c.1), poison := s.poison.filter (fun x => 16 ≤ keyPlace (64 * x)),
    sums := s.sums.filter (fun x => 16 ≤ keyPlace (64 * x.1)), out := s.out, clock := s.clock, free := s.free,
    fresh := s.fresh,
    pkg := { Pkg.reset with phase := ph, fcnt := s.pkg.fcnt, progress := s.pkg.progress, seqByte := s.pkg.seqByte,
                            history := s.pkg.history, lastOk := s.pkg.lastOk, fuses := s.pkg.fuses, spare := s.pkg.spare,
                            bootAt := s.pkg.bootAt } }

def execFundamentalReset (s : State) : Host.Outcome State Fault Refusal :=
  match s.due with
  | some .fundamentalReset => .next (s.stopped .inReset)
  | _ => .next s

def execPowerLoss (s : State) : Host.Outcome State Fault Refusal :=
  match s.due with
  | some .powerLoss =>
    -- the write of the boot status block that the step before began may be cut
    let (n, s) := s.takeFree
    .next ((if s.clock ≤ s.pkg.bootAt + 1 ∧ Config.freeBool (nth n 0) = true then s.cutWrite else s).stopped .off)
  | _ => .next s

/-- A start fails: the reason is recorded and the controller stays stopped (R418). -/
def State.startFail (s : State) (reason unit : Nat) : State :=
  let step := s.pkg.step
  ((s.stopped .failed).bootWrite (fun p => { p.fail reason step unit with progress := false })).setPkg (fun p =>
    { p with bootwhy := s.pkg.bootwhy })

/-- THERMAL_TRIP: at 115 °C the package stops and THERMAL is recorded (R428). -/
def execThermalTrip (s : State) : Host.Outcome State Fault Refusal :=
  match s.due with
  | some (.thermalTrip unit) =>
    let step := if s.pkg.step = 0 then 6 else s.pkg.step
    .next (((s.stopped .failed).bootWrite (fun p => { p.fail 9 step unit with progress := false })).setPkg (fun p =>
      { p with bootwhy := s.pkg.bootwhy }))
  | _ => .next s

/-! ## The start (R418-R424) -/

/-- Step 1: an unfinished start is recorded, the mode is chosen, BOOTWHY is set. -/
def State.startFirst (s : State) (i : StartInputs) : State :=
  let s := if s.pkg.progress then s.bootWrite (fun p => p.fail 10 1 255) else s
  let s := s.bootWrite (fun p =>
    let min := decide (3 ≤ p.fcnt) || p.wantMin
    let die := if min && !i.cd0Ok then 4 else 0
    let why := if 3 ≤ p.fcnt then 1 else if p.wantMin then 2 else 0
    { p with step := 1, progress := true, minimal := min, mdie := die,
             bootwhy := BitVec.ofNat 64 ((if min then 2 ^ 63 else 0) + p.fcnt * 2 ^ 48 + die * 2 ^ 45
               + ((p.history.head?).map (·.1)).getD 0 * 256 + why) })
  if i.rails then s else s.startFail 8 24

/-- The length of an image's body (R420). -/
def bodyLen (image : List Byte) : Nat := recNum image 12 4

/-- Whether bytes have the form of a firmware image (R420): the first word and the zeros of the header, a body of at most 8 MiB, and the
signature's length. -/
def imageForm (image : List Byte) : Bool :=
  recNum image 0 4 == 0x4B485746 && decide (bodyLen image ≤ 2 ^ 23) && ((image.drop 16).take 48).all (· == 0)
    && image.length == 128 + bodyLen image + 29792

/-- The parts of an image (R420): header, key and body together, the key, the signature. -/
def imageSigned (image : List Byte) : List Byte := image.take (128 + bodyLen image)
def imageKey (image : List Byte) : List Byte := (image.drop 64).take 64
def imageSig (image : List Byte) : List Byte := (image.drop (128 + bodyLen image)).take 29792

/-- The attestation key pair, derived from the identity secret and the image's digest, and its certificate, signed with the identity
key; the secret cannot be read again until the next start (R421). -/
def Pkg.attested (p : Pkg) (d : List Byte) : Pkg :=
  if !p.secretOpen then p
  else
    let (secret, pub) := Config.deriveKey Config.identitySecret d
    let body := Config.certBody pub
    { p with attKey := some secret, attCert := body ++ Config.slhSign Config.identityKey body, secretOpen := false }

/-- Step 2: the image's digest, signature and version (R420), then the attestation key (R421). Bytes that are no image have no digest
that the fuses hold (log 94). -/
def State.startVerify (s : State) (i : StartInputs) : State :=
  let d := Config.shake256 (imageSigned i.image) 64
  let version := recNum i.image 4 8
  if !imageForm i.image ∨ Config.shake256 (imageKey i.image) 32 ≠ Config.keyDigest then s.startFail 1 255
  else if !Config.slhVerify (imageKey i.image) d (imageSig i.image) then s.startFail 2 255
  else if version < s.pkg.fuses then s.startFail 3 255
  else
    (s.bootWrite (fun p => { p with lastOk := BitVec.ofNat 64 version })).setPkg (fun p =>
      { p with digest := d, version := BitVec.ofNat 64 version }.attested d)

/-- Step 3: self-tests; minimal mode needs CD0 or CD4, and MD0 (R423). -/
def State.startSelf (s : State) (i : StartInputs) : State :=
  if s.pkg.minimal then
    if !(i.cd0Ok || i.cd4Ok) then s.startFail 4 0 else if i.selfFail = some 8 then s.startFail 4 8 else s
  else match i.selfFail with
    | some u => s.startFail 4 u
    | none => if !i.cd0Ok then s.startFail 4 0 else if !i.cd4Ok then s.startFail 4 4 else s

/-- Both modules of every link of a list are trained to L0. -/
def State.trainLinks (s : State) (ls : List (DieId × DieId)) : State :=
  ls.foldl (fun s x => [0, 1].foldl (fun s m => s.toL0 x.1 x.2 m false none) s) s

/-- The links of the start's scope. -/
def scopeLinks (minimal : Bool) (die : Nat) : List (DieId × DieId) :=
  if minimal then [(.cd die, .md 0)]
  else (List.range 8).flatMap (fun d => ((columnMds (d % 4)).map (fun m => (DieId.cd d, DieId.md m)))
    ++ ((cdNeighbours d).filter (d < ·)).map (fun e => (DieId.cd d, DieId.cd e)))

/-- Step 4: links and stacks, and in normal mode the scale-up ports (R418, R423). -/
def State.startTrain (s : State) (i : StartInputs) : State :=
  let min := s.pkg.minimal
  -- what minimal mode leaves untrained cannot fail it
  match i.linkFail.filter (fun u => !min || u == 8 || u == s.pkg.mdie), i.stackFail.filter (fun u => !min || u == 8) with
  | some u, _ => s.startFail 5 u
  | none, some u => s.startFail 6 u
  | none, none =>
    let s := s.trainLinks (scopeLinks min s.pkg.mdie)
    if min then s else { s with mds := s.mds.map (fun (d : Md) => { d with portUp := true }) }

/-- Step 5: time base 0; the partition registers of minimal mode (R423). -/
def State.startInit (s : State) : State :=
  let s := s.setPkg (fun p => { p with timeNs := 0, timeFrac := 0 })
  if s.pkg.minimal then
    let d := s.pkg.mdie
    (((s.setCdReg d 0x300 (setFld (s.cdReg d 0x300) 63 60 1)).setCdReg d 0x301 0).setCdReg d 0x302 0).setCdReg d 0x303 0
  else s

/-- Step 6: READY (R418, R422). -/
def State.startReady (s : State) : State :=
  ((s.bootWrite (fun p => { p with progress := false, fcnt := if p.minimal then p.fcnt else 0 })).setPkg (fun p =>
    { p with phase := .ready, step := 0, wantMin := false })).emit (.msix 9)

/-- START: each taking of the step carries the start one step on. -/
def execStart (s : State) : Host.Outcome State Fault Refusal :=
  match s.due with
  | some (.start i) =>
    if s.pkg.phase ≠ .inReset ∧ s.pkg.phase ≠ .off then .next s
    else
      let s' := match s.pkg.step with
        | 0 => (s.setPkg (fun p => { p with phase := .inReset })).startFirst i
        | 1 => (s.setPkg (fun p => { p with step := 2 })).startVerify i
        | 2 => (s.setPkg (fun p => { p with step := 3 })).startSelf i
        | 3 => (s.setPkg (fun p => { p with step := 4 })).startTrain i
        | 4 => (s.setPkg (fun p => { p with step := 5 })).startInit
        | _ => s.startReady
      .next (if s'.pkg.phase = .inReset then s'.post (.start i) else s')
  | _ => .next s

/-- START_STEP_TIMEOUT: a step that overruns its bound fails with reason 7 (R418). -/
def execStartStepTimeout (s : State) : Host.Outcome State Fault Refusal :=
  match s.due with
  | some (.startStepTimeout step unit) =>
    .next (if s.pkg.step = step ∧ step ≠ 0 then s.startFail 7 unit else s)
  | _ => .next s

/-! ## The mailbox (R426, R427) -/

/-- A command ends with a status and its interrupt. -/
def State.mailEnd (s : State) (st : Nat) : State :=
  (s.setPkg (fun p => { p with mailStat := st, mailBusy := false })).emit (.msix 9)

/-- A command word: answered BUSY while a command runs. -/
def State.mail (s : State) (f : State → State) : State :=
  if s.pkg.mailBusy then (s.setPkg (fun p => { p with mailStat := 1 })).emit (.msix 9) else f s

/-- RESTART: the package stops for a new start; a start or an ATTEST under way ends. -/
def execRestart (s : State) : Host.Outcome State Fault Refusal :=
  match s.due with
  | some (.restart min) => .next (((s.stopped .inReset).setPkg (fun p => { p with wantMin := min })).mailEnd 0)
  | _ => .next s

def execClearfail (s : State) : Host.Outcome State Fault Refusal :=
  match s.due with
  | some .clearfail =>
    .next (s.mail (fun s => (s.bootWrite (fun p => { p with fcnt := 0 })).mailEnd 0))
  | _ => .next s

/-- The first 256 bytes of the report (R427). -/
def reportBytes (s : State) (nonce : BitVec 256) : List Byte :=
  let regs := (List.range 6).flatMap (fun n => (List.range 8).flatMap (fun d => leBytes 8 (s.cdReg d (0x300 + n)).toNat))
    ++ leBytes 8 s.pkg.linkpol.toNat ++ leBytes 8 s.pkg.devno.toNat
  padTo 256 (leBytes 4 0x52414B48 ++ leBytes 4 1 ++ padTo 16 Config.serial ++ padTo 64 s.pkg.digest
    ++ leBytes 8 s.pkg.version.toNat ++ leBytes 8 s.pkg.bootwhy.toNat ++ leBytes 8 s.pkg.timeNs.toNat
    ++ leBytes 32 nonce.toNat ++ padTo 64 (Config.shake256 regs 64))

/-- Marks the part of an ATTEST that runs; a host bus address has 48 bits. -/
def attestMark : DWord := bits 63 63

/-- ATTEST: the command starts, and a later step writes the report, unless a RESTART came first. -/
def execAttest (s : State) : Host.Outcome State Fault Refusal :=
  match s.due with
  | some (.attest nonce buf) =>
    if bitOf buf 63 then
      if s.pkg.mailBusy then
        let head := reportBytes s nonce
        let sig := padTo 29792 (Config.slhSign (s.pkg.attKey.getD []) head)
        .next ((s.putAll (placeKey 16 (fld buf 47 0)) (head ++ sig)).mailEnd 0)
      else .next s
    else
      .next (s.mail (fun s =>
        if s.pkg.attKey = none ∨ fld buf 63 48 ≠ 0 then s.mailEnd 3
        else (s.setPkg (fun p => { p with mailBusy := true, mailStat := 1 })).post (.attest nonce (buf ||| attestMark))))
  | _ => .next s

def execGetcert (s : State) : Host.Outcome State Fault Refusal :=
  match s.due with
  | some (.getcert buf) =>
    .next (s.mail (fun s =>
      if s.pkg.attKey = none ∨ fld buf 63 48 ≠ 0 then s.mailEnd 3
      else (s.putAll (placeKey 16 (fld buf 47 0)) (Config.identityCert ++ s.pkg.attCert)).mailEnd 0))
  | _ => .next s

/-- RAISEFLOOR: fuses are blown up to the floor; FAILED above the running version or the 64 fuses (R420, R426). -/
def execRaisefloor (s : State) : Host.Outcome State Fault Refusal :=
  match s.due with
  | some (.raisefloor floor) =>
    .next (s.mail (fun s =>
      if s.pkg.version < floor ∨ 64 < floor then s.mailEnd 3
      else (s.setPkg (fun p => { p with fuses := max p.fuses floor.toNat })).mailEnd 0))
  | _ => .next s

def execBadCommand (s : State) : Host.Outcome State Fault Refusal :=
  match s.due with
  | some (.badCommand _) => .next (s.mail (fun s => s.mailEnd 2))
  | _ => .next s

/-! ## Power (R428) -/

/-- POWER_WINDOW: at the end of a window the governor sets the duty of the next; how much it throttles is the device's
choice (log 2). -/
def execPowerWindow (s : State) : Host.Outcome State Fault Refusal :=
  match s.due with
  | some (.powerWindow watts tj) =>
    let hot := decide (fld s.pkg.pwrlim 15 0 < watts ∨ 100 < tj)
    let (n, s) := s.takeFree
    let duty := if hot then 1 + Config.freeNat (nth n 0) % 255 else 0
    let tevt := (fld s.pkg.pwrstat 31 0 + (if hot then 1 else 0)) % 2 ^ 32
    let word := BitVec.ofNat 64 (watts % 2 ^ 16 * 2 ^ 48 + tj % 256 * 2 ^ 40 + duty * 2 ^ 32 + tevt)
    .next (s.setPkg (fun p => { p with pwrstat := word }))
  | _ => .next s

end Sys2Proof.Machine
end

