-- ==== Sys2Proof/Machine/FloatOps.lean ====
section
/-!
DEFINITION. Machine/FloatOps.lean: the floating-point instructions (05 R116-R125). Each element is computed on its own, one
rounding, and the flags of every element of every active lane go into the thread's FMT (R114).
-/
namespace Sys2Proof.Machine

/-! ## Float types (02 R51) -/

/-- The format of a float type code. -/
def ftyFmt (ty : BitVec 2) : Fmt :=
  match ty.toNat with
  | 0 => fp32
  | 1 => fp64
  | 2 => fp16
  | _ => bf16
def ftyWide (ty : BitVec 2) : Bool := ty == 1

/-- Elements of a register value at a float type: one, or two packed (03 R59). -/
def ftyElems (ty : BitVec 2) (x : Nat) : List Nat := if ty.toNat < 2 then [x] else [x % 2 ^ 16, x / 2 ^ 16 % 2 ^ 16]

/-- The register value of one or two elements. -/
def joinElems : List Nat → Nat
  | [] => 0
  | [x] => x
  | x :: y :: _ => x + 2 ^ 16 * y

/-- One instruction over elements: the operands' elements of a lane give results and flags. `f` sees the format, the
rounding mode and the operands' codes. -/
def floatOp (i : Instr) (sp : Spec) (ty : BitVec 2) (d : BitVec 7) (ops : List (BitVec 7))
    (f : Fmt → Nat → List Nat → Nat × Nat) (s : State) : Host.Outcome State Fault Refusal :=
  issue s i sp (fun c s =>
    let rm := fmtRm c.th.fmt
    let rs := c.lanes.map (fun l =>
      let xs := ops.map (fun o => ftyElems ty (c.nat (ftyWide ty) o l))
      (l, (List.range (if ty.toNat < 2 then 1 else 2)).map (fun j => f (ftyFmt ty) rm (xs.map (fun e => e.getD j 0)))))
    .done (s.addFlags c.t (orFlags (rs.flatMap (fun r => r.2.map (·.2)))))
      (rs.flatMap (fun r => c.put (ftyWide ty) false d r.1 (joinElems (r.2.map (·.1))))) .seq)

/-- Operands of a two-source and a one-source instruction. -/
def fSpec2 (ty : BitVec 2) (d a b : BitVec 7) : Spec :=
  plain .warp [dstOpd (ftyWide ty) d, srcOpd (ftyWide ty) a, srcOpd (ftyWide ty) b]
def fSpec1 (ty : BitVec 2) (d a : BitVec 7) : Spec := plain .warp [dstOpd (ftyWide ty) d, srcOpd (ftyWide ty) a]

/-- Two operands of a list. -/
def on2 (f : Nat → Nat → Nat × Nat) (l : List Nat) : Nat × Nat := f (l.getD 0 0) (l.getD 1 0)

/-! ## Arithmetic (R119-R122) -/

def execFadd (d a b : BitVec 7) (ty : BitVec 2) (s : State) : Host.Outcome State Fault Refusal :=
  floatOp (.fadd d a b ty) (fSpec2 ty d a b) ty d [a, b] (fun f rm => on2 (fun x y => f.add rm (f.val x) (f.val y))) s
def execFsub (d a b : BitVec 7) (ty : BitVec 2) (s : State) : Host.Outcome State Fault Refusal :=
  floatOp (.fsub d a b ty) (fSpec2 ty d a b) ty d [a, b]
    (fun f rm => on2 (fun x y => f.add rm (f.val x) (f.val y).neg)) s
def execFmul (d a b : BitVec 7) (ty : BitVec 2) (s : State) : Host.Outcome State Fault Refusal :=
  floatOp (.fmul d a b ty) (fSpec2 ty d a b) ty d [a, b] (fun f rm => on2 (fun x y => f.mul rm (f.val x) (f.val y))) s
/-- R119: D is the addend. -/
def execFfma (d a b : BitVec 7) (ty : BitVec 2) (s : State) : Host.Outcome State Fault Refusal :=
  floatOp (.ffma d a b ty)
    (plain .warp [dstOpd (ftyWide ty) d, srcOpd (ftyWide ty) d, srcOpd (ftyWide ty) a, srcOpd (ftyWide ty) b]) ty d [a, b, d]
    (fun f rm l => f.fma rm (f.val (l.getD 0 0)) (f.val (l.getD 1 0)) (f.val (l.getD 2 0))) s
def execFmin (d a b : BitVec 7) (ty : BitVec 2) (s : State) : Host.Outcome State Fault Refusal :=
  floatOp (.fmin d a b ty) (fSpec2 ty d a b) ty d [a, b] (fun f _ => on2 (f.minmax false)) s
def execFmax (d a b : BitVec 7) (ty : BitVec 2) (s : State) : Host.Outcome State Fault Refusal :=
  floatOp (.fmax d a b ty) (fSpec2 ty d a b) ty d [a, b] (fun f _ => on2 (f.minmax true)) s
/-- R120: only the sign bit changes, no flag. -/
def execFabs (d a : BitVec 7) (ty : BitVec 2) (s : State) : Host.Outcome State Fault Refusal :=
  floatOp (.fabs d a ty) (fSpec1 ty d a) ty d [a] (fun f _ l => (l.getD 0 0 % 2 ^ (f.e + f.m), 0)) s
def execFneg (d a : BitVec 7) (ty : BitVec 2) (s : State) : Host.Outcome State Fault Refusal :=
  floatOp (.fneg d a ty) (fSpec1 ty d a) ty d [a] (fun f _ l => (l.getD 0 0 ^^^ 2 ^ (f.e + f.m), 0)) s

def execFdivF32 (d a b : BitVec 7) (la : BitVec 4) (s : State) : Host.Outcome State Fault Refusal :=
  floatOp (.fdivF32 d a b la) { fSpec2 0 d a b with la := some la.toNat } 0 d [a, b]
    (fun f rm => on2 (fun x y => f.div rm (f.val x) (f.val y))) s
def execFdivF64 (d a b : BitVec 7) (la : BitVec 4) (s : State) : Host.Outcome State Fault Refusal :=
  floatOp (.fdivF64 d a b la) { fSpec2 1 d a b with la := some la.toNat } 1 d [a, b]
    (fun f rm => on2 (fun x y => f.div rm (f.val x) (f.val y))) s

/-- R122: n is B[31:0], signed, the same for both elements. -/
def execFscale (d a b : BitVec 7) (ty : BitVec 2) (s : State) : Host.Outcome State Fault Refusal :=
  issue s (.fscale d a b ty) (plain .warp [dstOpd (ftyWide ty) d, srcOpd (ftyWide ty) a, .src b.toNat]) (fun c s =>
    let rm := fmtRm c.th.fmt
    let f := ftyFmt ty
    let rs := c.lanes.map (fun l =>
      (l, (ftyElems ty (c.nat (ftyWide ty) a l)).map (fun x => f.scale rm (f.val x) (sgn 32 (c.nat false b l)))))
    .done (s.addFlags c.t (orFlags (rs.flatMap (fun r => r.2.map (·.2)))))
      (rs.flatMap (fun r => c.put (ftyWide ty) false d r.1 (joinElems (r.2.map (·.1))))) .seq)
def execFrnd (d a : BitVec 7) (ty : BitVec 2) (s : State) : Host.Outcome State Fault Refusal :=
  floatOp (.frnd d a ty) (fSpec1 ty d a) ty d [a] (fun f rm l => f.rnd rm (l.getD 0 0)) s

/-! ## Compare and classify (R123, R124) -/

/-- R123: element 0 of a packed type. -/
def execFcmp (cond : BitVec 4) (k : BitVec 3) (a b : BitVec 7) (ty : BitVec 2) (s : State) :
    Host.Outcome State Fault Refusal :=
  issue s (.fcmp cond k a b ty) (plain .warp [srcOpd (ftyWide ty) a, srcOpd (ftyWide ty) b]) (fun c s =>
    let f := ftyFmt ty
    let get := fun (o : BitVec 7) (l : Nat) => f.val ((ftyElems ty (c.nat (ftyWide ty) o l)).getD 0 0)
    let r := fun l => fcompare cond.toNat (get a l) (get b l)
    let s := s.addFlags c.t (if c.lanes.any (fun l => (r l).2) then flNV else 0)
    .done (s.setK c.t k.toNat c.act (maskWhere c.lanes (fun l => (r l).1))) [] .seq)

/-- R124: the mask goes to a single register. -/
def execFclass (d a : BitVec 7) (ty : BitVec 2) (s : State) : Host.Outcome State Fault Refusal :=
  issueRegs s (.fclass d a ty) (plain .warp [.dst d.toNat, srcOpd (ftyWide ty) a]) (fun c =>
    c.lanes.flatMap (fun l =>
      c.put false false d l (joinElems ((ftyElems ty (c.nat (ftyWide ty) a l)).map (ftyFmt ty).classOf))))

/-! ## Reciprocal, roots and transcendentals (R125) -/

/-- One of the ops of major 0x28. -/
def rootOp (i : Instr) (d a : BitVec 7) (ty : BitVec 2) (la : BitVec 4) (f : Fmt → Nat → FVal → Nat × Nat) (s : State) :
    Host.Outcome State Fault Refusal :=
  floatOp i { fSpec1 ty d a with la := some la.toNat } ty d [a] (fun g rm l => f g rm (g.val (l.getD 0 0))) s

/-- The rounding mode of FEXP2 and FLOG2: RNE in F32. -/
def transRm (ty : BitVec 2) (rm : Nat) : Nat := if ty = 0 then 0 else rm

def execFrcp (d a : BitVec 7) (ty : BitVec 2) (la : BitVec 4) (s : State) : Host.Outcome State Fault Refusal :=
  rootOp (.frcp d a ty la) d a ty la (fun f rm x => f.div rm (.fin false 1 0) x) s
def execFrsq (d a : BitVec 7) (ty : BitVec 2) (la : BitVec 4) (s : State) : Host.Outcome State Fault Refusal :=
  rootOp (.frsq d a ty la) d a ty la Fmt.rsqrt s
def execFsqrt (d a : BitVec 7) (ty : BitVec 2) (la : BitVec 4) (s : State) : Host.Outcome State Fault Refusal :=
  rootOp (.fsqrt d a ty la) d a ty la Fmt.sqrt s
def execFexp2 (d a : BitVec 7) (ty : BitVec 2) (la : BitVec 4) (s : State) : Host.Outcome State Fault Refusal :=
  rootOp (.fexp2 d a ty la) d a ty la (fun f rm x => f.exp2 (transRm ty rm) x) s
def execFlog2 (d a : BitVec 7) (ty : BitVec 2) (la : BitVec 4) (s : State) : Host.Outcome State Fault Refusal :=
  rootOp (.flog2 d a ty la) d a ty la (fun f rm x => f.log2 (transRm ty rm) x) s
def execFsin (d a : BitVec 7) (ty : BitVec 2) (la : BitVec 4) (s : State) : Host.Outcome State Fault Refusal :=
  rootOp (.fsin d a ty la) d a ty la (fun f _ x => f.trig false x) s
def execFcos (d a : BitVec 7) (ty : BitVec 2) (la : BitVec 4) (s : State) : Host.Outcome State Fault Refusal :=
  rootOp (.fcos d a ty la) d a ty la (fun f _ x => f.trig true x) s

end Sys2Proof.Machine
end

