-- ==== Sys2Proof/Machine/FormatOps.lean ====
section
/-!
DEFINITION. Machine/FormatOps.lean: conversions between formats (05 R126-R128, 03 R64, R67), packing (R129), and the
bit-plane instructions (R130-R132).
-/
namespace Sys2Proof.Machine

/-! ## Values of a format code (02 R51) -/

/-- The format of codes 0-8; code 9 is E8M0. -/
def fmtOf (code : Nat) : Fmt :=
  match code with
  | 0 => fp32
  | 1 => fp64
  | 2 => fp16
  | 3 => bf16
  | 4 => fpE4M3
  | 5 => fpE5M2
  | 6 => fpE3M2
  | 7 => fpE2M3
  | _ => fpE2M1

def codeWidth (code : Nat) : Nat := if code = 9 then 8 else (fmtOf code).width

/-- The value of a code; an E8M0 code is a power of two, 0xFF a NaN that raises nothing (03 R64). -/
def codeVal (code x : Nat) : FVal :=
  if code = 9 then (if x = 255 then .nan false else .fin false 1 ((x : Int) - 127)) else (fmtOf code).val x

/-- A value into E8M0: the logarithm rounded towards −∞, the sign ignored (03 R64). -/
def toE8M0 (v : FVal) : Nat × Nat :=
  match v with
  | .fin _ m e =>
    if m = 0 then (0, flUF + flNX)
    else
      let top : Int := Nat.log2 m + e
      if top < -127 then (0, flUF + flNX)
      else if 127 < top then (254, flOF + flNX)
      else ((top + 127).toNat, if m = 2 ^ Nat.log2 m then 0 else flNX)
  | _ => (255, flNV)

/-- A value into a format code, with the saturation mode of a conversion (03 R64-R67). -/
def intoFormat (code rm : Nat) (sat : Bool) (v : FVal) : Nat × Nat :=
  if code = 9 then toE8M0 v
  else
    let f := fmtOf code
    match v with
    | .nan sn => if f.ieee || f.e4m3 then (f.nanCode, if sn then flNV else 0) else (0, flNV)
    | .inf n =>
      if code ≤ 3 then (f.signed n f.infCode, 0)
      else if code = 5 ∧ !sat then (f.signed n f.infCode, 0)
      else if code = 4 ∧ !sat then (f.nanCode, flNV)
      else (f.signed n f.maxCode, flNV)
    | .fin n m e => f.round rm sat n m e

/-- FCVT of one value (R126); a value moved to its own format is copied, but for NaNs. -/
def convert (dst src rm : Nat) (sat : Bool) (x : Nat) : Nat × Nat :=
  let v := codeVal src x
  if dst = src then
    match v with
    | .nan sn => (if src = 9 then 255 else (fmtOf src).nanCode, if sn then flNV else 0)
    | _ => (x, 0)
  else intoFormat dst rm sat v

/-- FTOI of one value: the integer and its flags (R128). -/
def toInteger (ty : BitVec 3) (rm : Nat) (v : FVal) : Int × Nat :=
  let w := ityWidth ty
  match v with
  | .nan _ => (0, flNV)
  | .inf n => (clampInt w (itySigned ty) (if n then -(2 ^ 70) else 2 ^ 70), flNV)
  | .fin n m e =>
    let (k, ch) := toIntegral rm n m e
    let x : Int := if n then -(k : Int) else k
    let y := clampInt w (itySigned ty) x
    (y, if y ≠ x then flNV else if ch then flNX else 0)

/-! ## Conversions -/

def execFcvt (d a : BitVec 7) (sat : BitVec 1) (dfmt sfmt : BitVec 4) (s : State) : Host.Outcome State Fault Refusal :=
  issue s (.fcvt d a sat dfmt sfmt) (plain .warp [dstOpd (dfmt == 1) d, srcOpd (sfmt == 1) a]) (fun c s =>
    let fm := c.th.fmt
    let rs := c.lanes.map (fun l =>
      (l, convert dfmt.toNat sfmt.toNat (fmtRm fm) (fmtSatm fm || sat == 1)
        (c.nat (sfmt == 1) a l % 2 ^ codeWidth sfmt.toNat)))
    .done (s.addFlags c.t (orFlags (rs.map (·.2.2)))) (rs.flatMap (fun r => c.put (dfmt == 1) false d r.1 r.2.1)) .seq)

/-- R127. -/
def execIcvt (d a : BitVec 7) (dfmt : BitVec 4) (ty : BitVec 3) (s : State) : Host.Outcome State Fault Refusal :=
  issue s (.icvt d a dfmt ty) (plain .warp [dstOpd (dfmt == 1) d, srcOpd (ityWide ty) a]) (fun c s =>
    let fm := c.th.fmt
    let rs := c.lanes.map (fun l =>
      let x := c.int ty a l
      (l, intoFormat dfmt.toNat (fmtRm fm) (fmtSatm fm) (.fin (decide (x < 0)) x.natAbs 0)))
    .done (s.addFlags c.t (orFlags (rs.map (·.2.2)))) (rs.flatMap (fun r => c.put (dfmt == 1) false d r.1 r.2.1)) .seq)

/-- R128. -/
def execFtoi (d a : BitVec 7) (ty : BitVec 3) (sfmt : BitVec 4) (s : State) : Host.Outcome State Fault Refusal :=
  issue s (.ftoi d a ty sfmt) (plain .warp [dstOpd (ityWide ty) d, srcOpd (sfmt == 1) a]) (fun c s =>
    let fm := c.th.fmt
    let rs := c.lanes.map (fun l =>
      (l, toInteger ty (fmtRm fm) (codeVal sfmt.toNat (c.nat (sfmt == 1) a l % 2 ^ codeWidth sfmt.toNat))))
    .done (s.addFlags c.t (orFlags (rs.map (·.2.2)))) (rs.flatMap (fun r => c.putInt ty 0 d r.1 r.2.1)) .seq)

/-! ## Packing (R129, 03 R60) -/

/-- Element width of a code. -/
def packWidth (w : BitVec 2) : Nat :=
  match w.toNat with
  | 0 => 4
  | 1 => 6
  | 2 => 8
  | _ => 16

/-- Slot `i` of a packed run of `w`-bit elements held in a number. -/
def slotGet (w run i : Nat) : Nat := (run >>> (w * i)) % 2 ^ w
def slotSet (w run i x : Nat) : Nat := run - (slotGet w run i <<< (w * i)) + ((x % 2 ^ w) <<< (w * i))

/-- A run of three registers as one number, and its registers. -/
def run3 (x y z : Nat) : Nat := x + 2 ^ 32 * y + 2 ^ 64 * z

/-- R129: D is a run, its other bits kept. -/
def execPack (d a b : BitVec 7) (part w : BitVec 2) (s : State) : Host.Outcome State Fault Refusal :=
  let six := w == 1
  let p := part.toNat
  let n := d.toNat
  issueRegs s (.pack d a b part w)
    (plain .warp [.run n (if six then 3 else 1) true, .run n (if six then 3 else 1) false, .src a.toNat, .src b.toNat])
    (fun c =>
      c.lanes.flatMap (fun l =>
        let x := c.nat false a l
        let y := c.nat false b l
        let reg := fun j => (c.r32 (n + j) l).toNat
        if six then
          let r := run3 (reg 0) (reg 1) (reg 2)
          let r := slotSet 6 (slotSet 6 r (4 * p) x) (4 * p + 1) (x >>> 16)
          let r := slotSet 6 (slotSet 6 r (4 * p + 2) y) (4 * p + 3) (y >>> 16)
          (List.range 3).flatMap (fun j => c.w32 (n + j) l false (BitVec.ofNat 32 (r >>> (32 * j))))
        else
          let k := packWidth w
          c.w32 n l false (BitVec.ofNat 32 (slotSet k (slotSet k (reg 0) (2 * p) x) (2 * p + 1) y))))

/-- R129: slots into the two halves of D; the six-bit form writes D and D + 1. -/
def execUnpk (d a : BitVec 7) (part w : BitVec 2) (s : State) : Host.Outcome State Fault Refusal :=
  let six := w == 1
  let p := part.toNat
  let n := a.toNat
  issueRegs s (.unpk d a part w)
    (plain .warp [.run d.toNat (if six then 2 else 1) true, if six then .run n 3 false else .run n 1 false])
    (fun c =>
      c.lanes.flatMap (fun l =>
        let reg := fun j => (c.r32 (n + j) l).toNat
        if six then
          let r := run3 (reg 0) (reg 1) (reg 2)
          let two := fun i => BitVec.ofNat 32 (slotGet 6 r i + 2 ^ 16 * slotGet 6 r (i + 1))
          c.w32 d.toNat l false (two (4 * p)) ++ c.w32 (d.toNat + 1) l false (two (4 * p + 2))
        else
          let k := packWidth w
          c.w32 d.toNat l false (BitVec.ofNat 32 (slotGet k (reg 0) (2 * p) + 2 ^ 16 * slotGet k (reg 0) (2 * p + 1)))))

/-! ## Bit planes (R130-R132) -/

/-- R130: bit 7 − j of A of every active lane, one bit a lane. -/
def execBpsplit (d a : BitVec 7) (j : BitVec 3) (s : State) : Host.Outcome State Fault Refusal :=
  issueRegs s (.bpsplit d a j) (plain .warp [.dst d.toNat, .src a.toNat]) (fun c =>
    let w := maskWhere c.lanes (fun l => (c.nat false a l).testBit (7 - j.toNat))
    c.lanes.flatMap (fun l => c.w32 d.toNat l false w))

/-- R131: `n` is b − 1. -/
def execBpjoin (d a : BitVec 7) (n : BitVec 3) (s : State) : Host.Outcome State Fault Refusal :=
  let b := n.toNat + 1
  issueRegs s (.bpjoin d a n) (plain .warp [.dst d.toNat, .run a.toNat b false]) (fun c =>
    c.lanes.flatMap (fun l =>
      let x := ((List.range b).filter (fun j => (c.r32 (a.toNat + j) l).getLsbD l)).foldl (fun r j => r + 2 ^ (b - 1 - j)) 0
      c.put false true d l (wrap 32 (sgn b x))))

/-- Activation `k` of a run: a signed byte, or a signed nibble (R132). -/
def bpAct (nibbles : Bool) (regs : Nat → Nat) (k : Nat) : Int :=
  if nibbles then sgn 4 (regs (k / 8) >>> (4 * (k % 8))) else sgn 8 (regs (k / 4) >>> (8 * (k % 4)))

/-- Weight `k` from `p` of `b` planes: truncated, or the mid-point (03 R72). -/
def bpWeight (mid : Bool) (b p : Nat) (plane : Nat → Nat) (k : Nat) : Int :=
  let t := sgn p (((List.range p).filter (fun j => (plane j).testBit k)).foldl (fun r j => r + 2 ^ (p - 1 - j)) 0)
  if mid && p < b then 2 * t + 1 else t

/-- R132. The runs' lengths come from FMT at issue. -/
def execBpdot (d a b : BitVec 7) (la : BitVec 4) (s : State) : Host.Outcome State Fault Refusal :=
  let fm := match s.ctx? with
    | some c => c.th.fmt
    | none => 0
  let nib := fmtAfmt fm == 1
  let p := fmtPcnt fm + 1
  issueRegs s (.bpdot d a b la)
    (plainLa .warp [.dst d.toNat, .src d.toNat, .run a.toNat (if nib then 4 else 8) false, .run b.toNat p false] la) (fun c =>
    c.lanes.flatMap (fun l =>
      let sum := (List.range 32).foldl (fun (r : Int) k =>
        r + bpAct nib (fun j => (c.r32 (a.toNat + j) l).toNat) k
          * bpWeight (fmtScm fm) (fmtBfmt fm + 1) p (fun j => (c.r32 (b.toNat + j) l).toNat) k) 0
      c.put false true d l (wrap 32 (sgn 32 (c.nat false d l) + sum))))

end Sys2Proof.Machine
end

