-- ==== Sys2Proof/Machine/Engines.lean ====
section
/-!
DEFINITION. Machine/Engines.lean: what the matrix and rank instructions share (07): their issue (R160-R162, R183), exact
chunk sums (03 R74-R77), the start of an instruction on its engine, and what every completion does (R159, R162, R184).
-/
namespace Sys2Proof.Machine

/-! ## Issue -/

/-- An instruction of chapter 07: front stream, and only in a block with MATRIX warps (01 R27). -/
def matrixSpec (opds : List Opd) (la : BitVec 4) : Spec := { plainLa .front opds la with matrix := true }

/-- The descriptor register S(`SWB` + c) (R163). -/
def Ctx.desc (c : Ctx) (r : BitVec 7) : DWord := c.b.front.sget (c.b.front.swb + r.toNat)

/-- Whether the block has the tile (R170). -/
def Ctx.hasTile (c : Ctx) (t : BitVec 5) : Bool := t.toNat < c.b.allot.tiles

/-- The checks of a scratch region that an engine reads or writes (R167, R174, R178, R183): any other space is a
REGION_RIGHT. -/
def scratchCheck (c : Ctx) (g : Region) (op : Right) (off n : Nat) : Option (Nat × Nat) :=
  if g.kind ≠ 0 ∧ !g.splitp ∧ g.space ≠ 2 then some (9, 0)
  else (checkRegion c g op [(0, off, n)]).map (fun x => (x.1, x.2.1))

/-- Scratch bytes at offset `o` of a region, as position and length. -/
def Ctx.span (c : Ctx) (g : Region) (o n : Nat) : Nat × Nat := (c.b.pos g o, n)
/-- 64 rows of `n` bytes, `stride` apart. -/
def Ctx.rows (c : Ctx) (g : Region) (off stride n : Nat) : List (Nat × Nat) :=
  (List.range 64).map (fun i => c.span g (off + i * stride) n)

/-- The MATRIX warp of quadrant `q` (01 R27). -/
def Block.matrixWarp (b : Block) (q : Nat) : Option Warp :=
  (((List.range b.warps.length).zip b.warps).find? (fun x => x.2.role == .matrix && x.1 % 4 == q)).map (·.2)

/-- The B operand as it stands: for lane l of MATRIX warp q, its `n` registers from `base` as one run (R168, R169). -/
def Block.quarters (b : Block) (base n : Nat) : List Nat :=
  (List.range 128).map (fun x =>
    match b.matrixWarp (x / 32) with
    | some w => (List.range n).foldl (fun r i => r + 2 ^ (32 * i) * (w.vget (base + i) (x % 32)).toNat) 0
    | none => 0)

/-- Whether a B run passes the allotment of the MATRIX role (R168). -/
def Ctx.bRunOk (c : Ctx) (base n : Nat) : Bool :=
  (List.range 4).all (fun q => ((c.b.matrixWarp q).map (fun w => decide (base + n ≤ w.allot))).getD false)

/-- What an instruction hands to its engine. -/
def EngineOp.make (c : Ctx) (i : Instr) (d : DWord) : EngineOp :=
  { id := 0, blk := c.t.blk, ins := i, pc := c.th.pc, desc := d, desc2 := 0, regions := [], quarter := [], reads := [],
    writes := [], lines := [], wild := false, started := false, src := [], bad := [],
    fail := [] }

/-- The first scratch lines that are absent among some bytes. -/
def Block.absentOf (b : Block) (spans : List (Nat × Nat)) : Option (Nat × Nat) :=
  (spans.find? (fun x => b.absentIn x.1 x.2)).map (fun x => (x.1 / 128, (x.1 + x.2 - 1) / 128))

/-- An instruction at the end of its engine's queue: the presence bits of what it writes are cleared, and the B registers
`held` are held (R160, R162, R169). -/
def State.enterEngine (s : State) (c : Ctx) (eng : Engine) (held : List (Nat × Nat × Nat)) (o : EngineOp) : State :=
  let (id, s) := s.takeFresh
  let lines := linesOf o.writes
  let wild := match tileIn o.ins with
    | some t => eng == .tile && lane (s.inFlight c.t.blk c.b) t
    | none => false
  let o := { o with id := id, lines := lines, wild := wild }
  let s := s.updBlk c.t.blk (fun b => { b.owe lines with bheld := b.bheld ++ held })
  let s := s.updCore c.b.coreIx (fun k => match eng with
    | .array => { k with array := k.array ++ [o] }
    | .tile => { k with tile := k.tile ++ [o] }
    | .rank => { k with rank := k.rank ++ [o] })
  s.post (.engineStart c.b.coreIx eng)

/-- The instruction enters its engine's queue, once the bytes that it reads at issue are present and a slot is free (R160,
R162). `held` are B registers that it reads (R169). -/
def enqueue (c : Ctx) (s : State) (eng : Engine) (needs : List (Nat × Nat)) (held : List (Nat × Nat × Nat)) (o : EngineOp) :
    Res :=
  match c.b.absentOf needs with
  | some (a, z) => .wait (.lines a z) 0 s
  | none =>
    if engineSize eng ≤ (s.core c.b.coreIx).waitingIn eng then .wait (.engineRoom eng) 0 s
    else .done (s.enterEngine c eng held o) [] .seq

/-- TILE_BUSY: a tile-port instruction would write a tile in flight (R161). -/
def Ctx.busyTile (c : Ctx) (s : State) (t : BitVec 5) : Bool := lane (s.inFlight c.t.blk c.b) t.toNat

/-! ## Exact chunk sums (03 R74-R77) -/

/-- An exact product (R74). -/
def product (a b : FVal) : FVal := (a.mul b).getD (.nan false)

/-- The exact sum of a chunk of products (R75). -/
def chunkSum (ps : List FVal) : FVal :=
  let up := ps.any (fun p => p == .inf false)
  let down := ps.any (fun p => p == .inf true)
  if ps.any FVal.isNan || (up && down) then .nan false
  else if up then .inf false
  else if down then .inf true
  else
    let e := ps.foldl (fun (a : Int) p => match p with
      | .fin _ _ x => min a x
      | _ => a) 0
    let t := ps.foldl (fun (a : Int) p => match p with
      | .fin n m x => a + atExp n m x e
      | _ => a) 0
    let allNeg := ps.all (fun p => match p with
      | .fin n m _ => n && m == 0
      | _ => false)
    if t = 0 then .fin allNeg 0 e else .fin (t < 0) t.natAbs e

/-- An FP32 accumulator after a chunk (R76). -/
def accFloat (d : Nat) (sum : FVal) : Nat := (fp32.add 0 (fp32.val d) sum).1

/-- An INT32 accumulator after a chunk (R77). -/
def accInt (sat : Bool) (d : Nat) (sum : Int) : Nat :=
  let x := sgn 32 d + sum
  wrap 32 (if sat then max (-(2 ^ 31)) (min (2 ^ 31 - 1) x) else x)

/-- Runs of 32 of a list (R75). -/
def runs32 {α : Type} (l : List α) : List (List α) := (List.range (l.length / 32)).map (fun i => (l.drop (32 * i)).take 32)

/-! ## Tiles and scratch of a completion -/

/-- The thread that an engine instruction works for. -/
def EngineOp.thread (o : EngineOp) : ThreadRef := { blk := o.blk, warp := 32, armE := false }

/-- Element (i, j) of a tile as it stands (R157). -/
def State.tileAt (s : State) (bk t i j : Nat) : Nat :=
  ((s.blk? bk).map (fun b => (cget b.tile (4096 * t + 64 * i + j)).toNat)).getD 0

/-- Every element of a tile written, row by row; its status follows R159. -/
def State.putTile (s : State) (bk t : Nat) (dirty : Bool) (f : Nat → Nat → Nat) : State :=
  s.updBlk bk (fun b =>
    { b with tile := cwrite b.tile (4096 * t) ((List.range 4096).map (fun e => BitVec.ofNat 32 (f (e / 64) (e % 64))))
             tvalid := b.tvalid ||| laneBit t
             tdirty := if dirty then b.tdirty ||| laneBit t else b.tdirty &&& ~~~(laneBit t) })

/-- Scratch bytes written by an engine: the lines' presence bits are set as the instruction completes (R162). -/
def State.putScratch (s : State) (bk pos : Nat) (bs : List Byte) : State :=
  s.updBlk bk (fun b => b.scratchPut pos bs)

/-- Whether a span touches a sector that was poisoned when it was read (R184). -/
def EngineOp.badSpan (o : EngineOp) (x : Nat × Nat) : Bool := (sectorsOf x.1 x.2).any o.bad.contains

/-- Bytes of the n-th span. -/
def EngineOp.bytes (o : EngineOp) (n : Nat) : List Byte := o.src.getD n []

/-- An imprecise fault of an engine: 2 the matrix sequencer, 3 the ranking network (R184). -/
def State.engineFault (s : State) (b : Block) (o : EngineOp) (unit code addr : Nat) : State :=
  s.postFault o.thread (s.record o.thread code 1 o.pc addr 0 (engineId unit b))

/-- The spans that an engine reads: of a list its header, and its entries where the header says how many (R162, R179, R180). -/
def EngineOp.used (o : EngineOp) : List (Nat × Nat) :=
  let list := fun (r : Nat) =>
    let x := o.reads.getD r (0, 0)
    let h := leNat ((o.bytes r).take 4)
    (x.1, min x.2 (4 + 2 * (if headerOk h then listCount h else 0)))
  match o.ins with
  | .rmma _ _ _ _ _ | .rtv _ _ _ _ => (List.range o.reads.length).map list
  | _ => o.reads

/-- CHECK_MISMATCH for each sector whose check failed as the instruction read it (09 R222), then POISON where it used a sector that
was poisoned before (R184). -/
def State.poisonFault (s : State) (b : Block) (o : EngineOp) (unit : Nat) : State :=
  let used := o.used.flatMap (fun x => sectorsOf x.1 x.2)
  let s := (o.fail.filter used.contains).foldl (fun s x => s.engineFault b o unit 24 (64 * x)) s
  match used.find? (fun x => o.bad.contains x && !o.fail.contains x) with
  | some x => s.engineFault b o unit 25 (64 * x)
  | none => s

/-- Unpredictable words, one for each place (R8). -/
def wildWord (n i : Nat) : Nat := (Config.freeWord (nth n i)).toNat % 2 ^ 32

/-! ## Starting -/

/-- Whether spans of scratch bytes overlap. -/
def spansMeet (xs ys : List (Nat × Nat)) : Bool :=
  xs.any (fun x => ys.any (fun y => decide (x.1 < y.1 + y.2 ∧ y.1 < x.1 + x.2)))

/-- Whether an engine instruction may start: earlier instructions of its block have taken effect on the scratch bytes that
both touch (R162), and an array instruction has let earlier tile-port instructions on its tiles pass (R161). -/
def Core.mayStart (k : Core) (eng : Engine) (o : EngineOp) : Bool :=
  let earlier := (k.array ++ k.tile ++ k.rank).filter (fun x => x.blk == o.blk && decide (x.id < o.id))
  let tiles := fun (x : EngineOp) => (tileIn x.ins).toList ++ (tileOut x.ins).toList
  earlier.all (fun x => !spansMeet x.writes (o.reads ++ o.writes) && !spansMeet x.reads o.writes)
    && k.copies.all (fun x => match x.ins with
        | .rlst _ _ _ _ => !(x.t.blk == o.blk && decide (x.id < o.id)
            && spansMeet (x.moves.map (fun m => (m.1, m.2.2))) o.writes)
        | _ => true)
    && (eng != .array || k.tile.all (fun x => !(x.blk == o.blk && decide (x.id < o.id))
        || !(tiles x).any (tiles o).contains))

/-- Replaces the queue of an engine. -/
def Core.setQueue (k : Core) (eng : Engine) (l : List EngineOp) : Core :=
  match eng with
  | .array => { k with array := l }
  | .tile => { k with tile := l }
  | .rank => { k with rank := l }

/-- Starts for every engine of a core that has an instruction waiting. -/
def State.startWaiting (s : State) (core : Nat) : State :=
  let k := s.core core
  s.postAll ((if k.array.isEmpty then [] else [.engineStart core .array])
    ++ (if k.tile.isEmpty then [] else [.engineStart core .tile])
    ++ (if k.rank.isEmpty then [] else [.engineStart core .rank]))

/-- An instruction as it starts: its scratch operands as they stand, the poisoned sectors among them, and those whose check fails
now, which are poisoned from then on (R162, R184; 09 R222). -/
def EngineOp.reading (o : EngineOp) (b : Block) : EngineOp :=
  let o : EngineOp := { o with started := true, src := o.reads.map (fun (x : Nat × Nat) => cread b.scratch x.1 x.2) }
  let fail := (o.used.flatMap (fun x => b.scratchFailing x.1 x.2)).dedup
  { o with fail := fail, bad := (((o.used.flatMap (fun x => sectorsOf x.1 x.2)).filter b.spoison.contains) ++ fail).dedup }

/-- ENGINE_START: the oldest instruction of an idle engine starts; it reads its scratch operands (R160-R162, R182). -/
def execEngineStart (s : State) : Host.Outcome State Fault Refusal :=
  match s.due with
  | some (.engineStart core eng) =>
    match (s.core core).queueOf eng with
    | [] => .next s
    | o :: rest =>
      if o.started || !(s.core core).mayStart eng o then .next s
      else
        match s.blk? o.blk with
        | none => .next s
        | some b =>
          let o := (o.reading b)
          let s := s.updBlk o.blk (fun b => { b with spoison := (b.spoison ++ o.fail).dedup })
          .next ((s.updCore core (fun k => k.setQueue eng (o :: rest))).post (.engineComplete core eng))
  | _ => .next s

/-! ## Completing -/

/-- A byte that a store changed while the instruction ran is read old or new, as the device chooses (R162). -/
def EngineOp.mixed (o : EngineOp) (b : Block) (n : Nat) : EngineOp :=
  let at_ := fun (j k : Nat) (old new : Byte) =>
    if old = new then old else if Config.freeBool (nth n (4096 * j + k)) then old else new
  { o with src := ((List.range o.src.length).zip (o.reads.zip o.src)).map (fun x =>
      ((List.range x.2.2.length).zip (x.2.2.zip (cread b.scratch x.2.1.1 x.2.1.2))).map (fun y => at_ x.1 y.1 y.2.1 y.2.2)) }

/-- The instruction leaves its engine: its presence bits are set, and the engines look for their next (R159, R162). -/
def State.leaveEngine (s : State) (core : Nat) (eng : Engine) (o : EngineOp) : State :=
  let s := s.updBlk o.blk (fun b => b.unowe o.lines)
  (s.updCore core (fun k => k.setQueue eng ((k.queueOf eng).filter (fun x => x.id != o.id)))).startWaiting core

end Sys2Proof.Machine
end

