-- ==== Sys2Proof/Machine/Matrix.lean ====
section
/-!
DEFINITION. Machine/Matrix.lean: the matrix and tile instructions (07 R164-R176): issue, and what each does to tiles and
scratch when it completes.
-/
namespace Sys2Proof.Machine

/-! ## Matrix types (R166) -/

/-- Number format of a type code (02 R51 codes); 7 is INT8. -/
def matrixFmt (t : Nat) : Fmt :=
  match t with
  | 0 => bf16
  | 1 => fp16
  | 2 => fpE4M3
  | 3 => fpE5M2
  | 4 => fpE3M2
  | 5 => fpE2M3
  | _ => fpE2M1
/-- Bits of an element. -/
def matrixWidth (t : Nat) : Nat := if t = 7 then 8 else (matrixFmt t).width
/-- K of `MMA` and `MMAS`. -/
def matrixK (t : Nat) : Nat := if t ≤ 1 then 32 else if t ≤ 3 ∨ t = 7 then 64 else 128
/-- Bytes of an A row. -/
def matrixRow (t : Nat) : Nat := matrixK t * matrixWidth t / 8
/-- B registers per lane. -/
def matrixRegs (t : Nat) : Nat := matrixK t * matrixWidth t / 64

/-- Whether two types may meet: the same K, both floating-point or both INT8 (R166). -/
def typesMeet (a b : Nat) : Bool := a ≤ 7 && b ≤ 7 && matrixK a == matrixK b && ((a == 7) == (b == 7))

/-! ## The operand descriptor (R164) -/

def mdAtype (d : DWord) : Nat := fld d 63 60
def mdBtype (d : DWord) : Nat := fld d 59 56
def mdDreg (d : DWord) : BitVec 5 := BitVec.ofNat 5 (fld d 55 52)
def mdOff (d : DWord) : Nat := fld d 51 32
def mdStride (d : DWord) : Nat := fld d 31 16
def mdBbase (d : DWord) : Nat := fld d 15 7

/-- OFF and STRIDE as every user needs them: multiples of 16, a row fits its stride. -/
def strideOk (d : DWord) (row : Nat) : Bool := mdOff d % 16 == 0 && mdStride d % 16 == 0 && decide (row ≤ mdStride d)

/-! ## Array instructions: issue -/

/-- The common issue of the products: shape, A region, queue. `k8` are the scale bytes per A row, `n` the B registers. -/
def productIssue (c : Ctx) (s : State) (i : Instr) (t : BitVec 5) (d : DWord) (shape : Bool) (row k8 n : Nat) : Res :=
  let g := c.rg (mdDreg d)
  let extent := if k8 = 0 then 63 * mdStride d + row else 64 * mdStride d + 64 * k8
  if !c.hasTile t || !shape || !strideOk d row || !c.bRunOk (mdBbase d) n then .refuse 19 0 0
  else
    match scratchCheck c g .load (mdOff d) extent with
    | some (code, addr) => .refuse code addr 0
    | none =>
      let reads := c.rows g (mdOff d) (mdStride d) row
        ++ (if k8 = 0 then [] else [c.span g (mdOff d + 64 * mdStride d) (64 * k8)])
      enqueue c s .array reads [(t.toNat, mdBbase d, n)]
        { EngineOp.make c i d with regions := [g], quarter := c.b.quarters (mdBbase d) n, reads := reads }

/-- MMA (R171): descriptor bits [6:0] are unused. -/
def execMma (d : BitVec 5) (c : BitVec 7) (sat : BitVec 1) (la : BitVec 4) (s : State) : Host.Outcome State Fault Refusal :=
  issue s (.mma d c sat la) (matrixSpec [.run c.toNat 1 false] la) (fun x s =>
    let m := x.desc c
    let a := mdAtype m
    productIssue x s (.mma d c sat la) d m
      (typesMeet a (mdBtype m) && fld m 6 0 == 0 && (sat == 0 || a == 7)) (matrixRow a) 0 (matrixRegs (mdBtype m)))

/-- MMAS (R172): types 2 to 6; the scales follow the A rows and the B data. -/
def execMmas (d : BitVec 5) (c : BitVec 7) (la : BitVec 4) (s : State) : Host.Outcome State Fault Refusal :=
  issue s (.mmas d c la) (matrixSpec [.run c.toNat 1 false] la) (fun x s =>
    let m := x.desc c
    let a := mdAtype m
    let b := mdBtype m
    productIssue x s (.mmas d c la) d m
      (typesMeet a b && fld m 6 0 == 0 && decide (2 ≤ a ∧ a ≤ 6 ∧ 2 ≤ b ∧ b ≤ 6)) (matrixRow a) (matrixK a / 32)
      (matrixRegs b + 1))

/-- MBP (R173): p of b planes. -/
def execMbp (d : BitVec 5) (c : BitVec 7) (mid sat : BitVec 1) (la : BitVec 4) (s : State) :
    Host.Outcome State Fault Refusal :=
  issue s (.mbp d c mid sat la) (matrixSpec [.run c.toNat 1 false] la) (fun x s =>
    let m := x.desc c
    let b := fld m 6 4 + 1
    let p := fld m 3 1 + 1
    productIssue x s (.mbp d c mid sat la) d m
      (mdAtype m == 7 && mdBtype m == 0 && fld m 0 0 == 0 && decide (2 ≤ p ∧ p ≤ b)) 64 0 p)

/-- MTRN (R175). -/
def execMtrn (d src : BitVec 5) (la : BitVec 4) (s : State) : Host.Outcome State Fault Refusal :=
  issue s (.mtrn d src la) (matrixSpec [] la) (fun x s =>
    if !x.hasTile d || !x.hasTile src then .refuse 19 0 0
    else enqueue x s .array [] [] (EngineOp.make x (.mtrn d src la) 0))

/-- MPERM (R175): 64 index entries of 16 bits. -/
def execMperm (d src : BitVec 5) (c : BitVec 7) (la : BitVec 4) (s : State) : Host.Outcome State Fault Refusal :=
  issue s (.mperm d src c la) (matrixSpec [.run c.toNat 1 false] la) (fun x s =>
    let m := x.desc c
    let g := x.rg (mdDreg m)
    if !x.hasTile d || !x.hasTile src || fld m 63 56 ≠ 0 || fld m 31 0 ≠ 0 || mdOff m % 16 ≠ 0 then .refuse 19 0 0
    else
      match scratchCheck x g .load (mdOff m) 128 with
      | some (code, addr) => .refuse code addr 0
      | none =>
        let reads := [x.span g (mdOff m) 128]
        enqueue x s .array reads [] { EngineOp.make x (.mperm d src c la) m with regions := [g], reads := reads })

/-- MRSUM (R175). -/
def execMrsum (d src : BitVec 5) (c : BitVec 7) (la : BitVec 4) (s : State) : Host.Outcome State Fault Refusal :=
  issue s (.mrsum d src c la) (matrixSpec [.run c.toNat 1 false] la) (fun x s =>
    let m := x.desc c
    if !x.hasTile d || !x.hasTile src || fld m 63 1 ≠ 0 then .refuse 19 0 0
    else enqueue x s .array [] [] (EngineOp.make x (.mrsum d src c la) m))

/-! ## Tile port: issue (R174) -/

/-- MZERO. -/
def execMzero (d : BitVec 5) (la : BitVec 4) (s : State) : Host.Outcome State Fault Refusal :=
  issue s (.mzero d la) (matrixSpec [] la) (fun x s =>
    if !x.hasTile d then .refuse 19 0 0
    else if x.busyTile s d then .refuse 18 0 0
    else enqueue x s .tile [] [] (EngineOp.make x (.mzero d la) 0))

/-- MLD. -/
def execMld (d n : BitVec 5) (c : BitVec 7) (la : BitVec 4) (s : State) : Host.Outcome State Fault Refusal :=
  issue s (.mld d n c la) (matrixSpec [.region n.toNat, .run c.toNat 1 false] la) (fun x s =>
    let m := x.desc c
    let g := x.rg n
    if !x.hasTile d || fld m 63 52 ≠ 0 || fld m 15 0 ≠ 0 || !strideOk m 256 then .refuse 19 0 0
    else
      match scratchCheck x g .load (mdOff m) (63 * mdStride m + 256) with
      | some (code, addr) => .refuse code addr 0
      | none =>
        if x.busyTile s d then .refuse 18 0 0
        else
          let reads := x.rows g (mdOff m) (mdStride m) 256
          enqueue x s .tile reads [] { EngineOp.make x (.mld d n c la) m with regions := [g], reads := reads })

/-- MST. -/
def execMst (n src : BitVec 5) (c : BitVec 7) (la : BitVec 4) (s : State) : Host.Outcome State Fault Refusal :=
  issue s (.mst n src c la) (matrixSpec [.region n.toNat, .run c.toNat 1 false] la) (fun x s =>
    let m := x.desc c
    let g := x.rg n
    if !x.hasTile src || fld m 63 52 ≠ 0 || fld m 15 0 ≠ 0 || !strideOk m 256 then .refuse 19 0 0
    else
      match scratchCheck x g .store (mdOff m) (63 * mdStride m + 256) with
      | some (code, addr) => .refuse code addr 0
      | none =>
        enqueue x s .tile [] []
          { EngineOp.make x (.mst n src c la) m with regions := [g], writes := x.rows g (mdOff m) (mdStride m) 256 })

/-- MCPY. -/
def execMcpy (d src : BitVec 5) (la : BitVec 4) (s : State) : Host.Outcome State Fault Refusal :=
  issue s (.mcpy d src la) (matrixSpec [] la) (fun x s =>
    if !x.hasTile d || !x.hasTile src then .refuse 19 0 0
    else if x.busyTile s d then .refuse 18 0 0
    else enqueue x s .tile [] [] (EngineOp.make x (.mcpy d src la) 0))

/-- MCVT. -/
def execMcvt (n src : BitVec 5) (c : BitVec 7) (la : BitVec 4) (s : State) : Host.Outcome State Fault Refusal :=
  issue s (.mcvt n src c la) (matrixSpec [.region n.toNat, .run c.toNat 1 false] la) (fun x s =>
    let m := x.desc c
    let g := x.rg n
    let row := 8 * matrixWidth (mdAtype m)
    if !x.hasTile src || 8 ≤ mdAtype m || fld m 56 52 ≠ 0 || fld m 15 0 ≠ 0 || !strideOk m row then .refuse 19 0 0
    else
      match scratchCheck x g .store (mdOff m) (63 * mdStride m + row) with
      | some (code, addr) => .refuse code addr 0
      | none =>
        enqueue x s .tile [] []
          { EngineOp.make x (.mcvt n src c la) m with regions := [g], writes := x.rows g (mdOff m) (mdStride m) row })

/-! ## Control (R176) -/

/-- Whether a MATRIX warp of the block still owes a register write (R169). -/
def State.quarterDue (s : State) (bk : Nat) : Bool :=
  ((s.blk? bk).map (fun b => b.warps.any (fun w =>
    w.role == .matrix && !(w.t.pends.isEmpty && w.e.pends.isEmpty)))).getD false

/-- MRDY: arrival on a block barrier, the wait for its phase, and the register writes of the MATRIX warps (R169). -/
def execMrdy (b : BitVec 5) (s : State) : Host.Outcome State Fault Refusal :=
  let sp := { plain .front [] with matrix := true }
  issue s (.mrdy b) sp (fun c s =>
    let settled := fun (r : Res) => match r with
      | .done s _ _ => if s.quarterDue c.t.blk then .wait .bquarter 2 s else .done s [] .seq
      | r => r
    if c.stage = 2 then .done s [] .seq
    else if c.stage = 1 then settled (phaseWait c s 0 b.toNat c.token)
    else
      match barRefusal c s 0 b.toNat with
      | some code => .refuse code 0 0
      | none => arriving c s 0 b.toNat (fun tok s => settled (phaseWait c s 0 b.toNat tok)))

/-- MWAIT: waits for a tile, then releases its B registers (R169, R176). -/
def execMwait (d : BitVec 5) (s : State) : Host.Outcome State Fault Refusal :=
  issue s (.mwait d) { plain .front [] with matrix := true } (fun c s =>
    if !c.hasTile d then .refuse 19 0 0
    else if lane (s.inFlight c.t.blk c.b) d.toNat then .wait (.tiles (laneBit d.toNat)) 0 s
    else .done (s.updBlk c.t.blk (fun b => { b with bheld := b.bheld.filter (fun h => h.1 != d.toNat) })) [] .seq)

/-- MSTAT: the status bits of the allotted tiles. -/
def execMstat (e : BitVec 5) (c : BitVec 7) (la : BitVec 4) (s : State) : Host.Outcome State Fault Refusal :=
  issue s (.mstat e c la) (matrixSpec [.run c.toNat 1 true] la) (fun x s =>
    let v := if e = 0 then x.b.tvalid.toNat + 2 ^ 32 * x.b.tdirty.toNat else (s.inFlight x.t.blk x.b).toNat
    .done s [{ front := true, reg := x.b.front.swb + c.toNat, lane := 0, val := BitVec.ofNat 64 v }] .seq)

/-! ## Products when they complete (R167, R168, R171-R173) -/

/-- The `n` elements of `w` bits of A row `i`. -/
def EngineOp.aRow (o : EngineOp) (w n i : Nat) : List Nat :=
  let run := leNat (o.bytes i)
  (List.range n).map (slotGet w run)

/-- The B run of column `j`'s half `h`. -/
def EngineOp.bRun (o : EngineOp) (j h : Nat) : Nat := o.quarter.getD (32 * (j / 16) + 2 * (j % 16) + h) 0
/-- The `n` elements of `w` bits of B column `j`: half 0, then half 1. -/
def EngineOp.bCol (o : EngineOp) (w n j : Nat) : List Nat :=
  (List.range 2).flatMap (fun h =>
    let run := o.bRun j h
    (List.range (n / 2)).map (slotGet w run))

/-- Multiplies a value by 2^(sa + sb - 254); a scale of 0xFF makes it NaN (R172, 03 R73). -/
def scaled (sa sb : Nat) (v : FVal) : FVal :=
  if sa = 255 ∨ sb = 255 then .nan false
  else match v with
    | .fin n m e => .fin n m (e + (sa : Int) + (sb : Int) - 254)
    | v => v

/-- Scale of A row `i`, block `x`; and of B column `j`, block `x`, whose byte stands after the data (R167, R168). -/
def EngineOp.aScale (o : EngineOp) (kk i x : Nat) : Nat := ((o.bytes 64).getD (i * (kk / 32) + x) 0).toNat
def EngineOp.bScale (o : EngineOp) (kk regs j x : Nat) : Nat :=
  let perHalf := kk / 64
  slotGet 8 (o.bRun j (x / perHalf) >>> (32 * regs)) (x % perHalf)

/-- The 64 weights of column `j` from the top p planes (R168, R173). -/
def EngineOp.weights (o : EngineOp) (mid : Bool) (b p j : Nat) : List Int :=
  (List.range 2).flatMap (fun h =>
    let run := o.bRun j h
    (List.range 32).map (bpWeight mid b p (fun x => slotGet 32 run x)))

/-- The chunks of products of one output element into its old value (R171, 03 R76, R77). -/
def floatCell (prods : List FVal) (old : Nat) : Nat := ((runs32 prods).map chunkSum).foldl accFloat old
def intCell (sat : Bool) (prods : List Int) (old : Nat) : Nat :=
  ((runs32 prods).map (fun ps => ps.foldl (· + ·) 0)).foldl (accInt sat) old

/-- The values of A rows as they enter the products: INT8 numbers, or floating-point values. -/
def EngineOp.aInts (o : EngineOp) : List (List Int) := (List.range 64).map (fun i => (o.aRow 8 64 i).map (sgn 8))
def EngineOp.aVals (o : EngineOp) : List (List FVal) :=
  let a := mdAtype o.desc
  (List.range 64).map (fun i => (o.aRow (matrixWidth a) (matrixK a) i).map (matrixFmt a).val)
def EngineOp.bVals (o : EngineOp) : List (List FVal) :=
  let b := mdBtype o.desc
  (List.range 64).map (fun j => (o.bCol (matrixWidth b) (matrixK b) j).map (matrixFmt b).val)

/-- What an array instruction makes of element (i, j) of its tile, `old` before it (R171-R173). -/
def EngineOp.cells (o : EngineOp) : Nat → Nat → Nat → Nat :=
  let ints := fun (sat : Bool) (as bs : List (List Int)) (i j old : Nat) =>
    intCell sat (((as.getD i []).zip (bs.getD j [])).map (fun x => x.1 * x.2)) old
  match o.ins with
  | .mma _ _ sat _ =>
    if mdAtype o.desc = 7 then
      let bs := (List.range 64).map (fun j => (o.bCol 8 64 j).map (sgn 8))
      ints (sat == 1) o.aInts bs
    else
      let as := o.aVals
      let bs := o.bVals
      fun i j old => floatCell (((as.getD i []).zip (bs.getD j [])).map (fun x => product x.1 x.2)) old
  | .mmas _ _ _ =>
    let as := o.aVals
    let bs := o.bVals
    let kk := matrixK (mdAtype o.desc)
    let regs := matrixRegs (mdBtype o.desc)
    fun i j old => floatCell (((List.range kk).zip ((as.getD i []).zip (bs.getD j []))).map (fun x =>
      scaled (o.aScale kk i (x.1 / 32)) (o.bScale kk regs j (x.1 / 32)) (product x.2.1 x.2.2))) old
  | .mbp _ _ mid sat _ =>
    let bs := (List.range 64).map (fun j => o.weights (mid == 1) (fld o.desc 6 4 + 1) (fld o.desc 3 1 + 1) j)
    ints (sat == 1) o.aInts bs
  | _ => fun _ _ old => old

/-- Rows whose operands touched a poisoned sector (R184). -/
def EngineOp.badRow (o : EngineOp) (i : Nat) : Bool :=
  match o.ins with
  | .mperm _ _ _ _ => (o.reads.head?).any (fun x => o.badSpan (x.1 + 2 * i, 2))
  | .mmas _ _ _ =>
    let k8 := matrixK (mdAtype o.desc) / 32
    (o.reads[i]?).any o.badSpan || (o.reads[64]?).any (fun x => o.badSpan (x.1 + i * k8, k8))
  | _ => (o.reads[i]?).any o.badSpan

/-- What a row holds after a poisoned sector: the canonical FP32 NaN, or 0x8000_0000 in INT32 (R184). DESIGN CHOICE (log 75): MLD
and MPERM move elements of no type, and their rows take the FP32 NaN. -/
def EngineOp.badElem (o : EngineOp) : Nat :=
  match o.ins with
  | .mma _ _ _ _ => if mdAtype o.desc = 7 then 0x80000000 else fp32.nanCode
  | .mbp _ _ _ _ _ => 0x80000000
  | _ => fp32.nanCode

/-- A tile element converted for MCVT, `MCVT` reading INT32 where the destination is INT8 (R174). -/
def mcvtElem (d : DWord) (x : Nat) : Nat :=
  let a := mdAtype d
  let sat := bitOf d 57
  if a = 7 then wrap 8 (if sat then max (-128) (min 127 (sgn 32 x)) else sgn 32 x)
  else
    let code := match a with | 0 => 3 | 1 => 2 | n => n + 2
    (convert code 0 (fld d 59 58) sat x).1

/-- A packed row (03 R60). -/
def packRow (w : Nat) (l : List Nat) : List Byte :=
  leBytes (8 * w) (((List.range l.length).zip l).foldl (fun r x => r + x.2 % 2 ^ w * 2 ^ (w * x.1)) 0)

/-- A tile written row by row, but for the rows that poison reached; POISON is raised once (R184). -/
def State.putRows (s : State) (b : Block) (o : EngineOp) (t : Nat) (f : Nat → Nat → Nat) : State :=
  (s.putTile o.blk t true (fun i j => if o.badRow i then o.badElem else f i j)).poisonFault b o 2

/-- What a matrix or tile instruction does when it completes (R171-R175). -/
def State.matrixDone (s : State) (b : Block) (o : EngineOp) : State :=
  let (n, s) := s.takeFree
  let from_ := fun (t : BitVec 5) (i j : Nat) => if o.wild then wildWord n (64 * i + j) else s.tileAt o.blk t.toNat i j
  match o.ins with
  | .mma d _ _ _ | .mmas d _ _ | .mbp d _ _ _ _ =>
    let cells := o.cells
    s.putRows b o d.toNat (fun i j => cells i j (s.tileAt o.blk d.toNat i j))
  | .mzero d _ => s.putTile o.blk d.toNat false (fun _ _ => 0)
  | .mld d _ _ _ => s.putRows b o d.toNat (fun i j => leNat (((o.bytes i).drop (4 * j)).take 4))
  | .mcpy d src _ => s.putTile o.blk d.toNat true (from_ src)
  | .mst _ src _ _ =>
    ((List.range 64).zip o.writes).foldl (fun s x =>
      s.putScratch o.blk x.2.1 ((List.range 64).flatMap (fun j => leBytes 4 (from_ src x.1 j)))) s
  | .mcvt _ src _ _ =>
    let w := matrixWidth (mdAtype o.desc)
    ((List.range 64).zip o.writes).foldl (fun s x =>
      s.putScratch o.blk x.2.1 (packRow w ((List.range 64).map (fun j =>
        if o.wild then wildWord n (64 * x.1 + j) else mcvtElem o.desc (from_ src x.1 j))))) s
  | .mtrn d src _ => s.putTile o.blk d.toNat true (fun i j => s.tileAt o.blk src.toNat j i)
  | .mperm d src _ _ =>
    s.putRows b o d.toNat (fun i j =>
      let e := leNat (((o.bytes 0).drop (2 * i)).take 2)
      if e.testBit 15 then 0 else s.tileAt o.blk src.toNat (e % 64) j)
  | .mrsum d src _ _ =>
    s.putTile o.blk d.toNat true (fun i j =>
      let old := s.tileAt o.blk d.toNat i j
      let x := fun k => s.tileAt o.blk src.toNat i k
      if j ≠ 0 then old
      else if fld o.desc 0 0 = 1 then intCell false ((List.range 64).map (fun k => sgn 32 (x k))) old
      else floatCell ((List.range 64).map (fun k => fp32.val (x k))) old)
  | _ => s

end Sys2Proof.Machine
end

