-- ==== Sys2Proof/Machine/Rank.lean ====
section
/-!
DEFINITION. Machine/Rank.lean: the rank instructions (07 R165, R177-R181), the rank tables (11 R294-R296), and
ENGINE_COMPLETE.
-/
namespace Sys2Proof.Machine

/-! ## The rank descriptor (R165) -/

def rdSrc (d : DWord) : Nat := fld d 63 44
def rdDst (d : DWord) : Nat := fld d 43 24
def rdN (d : DWord) : Nat := fld d 23 13
def rdNOk (d : DWord) : Bool := decide (1 ≤ rdN d ∧ rdN d ≤ 1024)

/-- Bytes of an element of RANK (R170). -/
def rankSize (ty : BitVec 2) : Nat := if ty = 0 then 4 else if ty = 1 then 2 else 1

/-! ## RANK (R178) -/

/-- Bytes of an N-entry list at an offset, as far as the region reaches (R179). -/
def Ctx.listSpan (c : Ctx) (g : Region) (off n : Nat) : Nat × Nat := c.span g off (min (4 + 2 * n) (g.bytes - off))

def execRank (d src : BitVec 5) (c : BitVec 7) (ty : BitVec 2) (la : BitVec 4) (s : State) :
    Host.Outcome State Fault Refusal :=
  issue s (.rank d src c ty la) (matrixSpec [.region d.toNat, .region src.toNat, .run c.toNat 1 false] la) (fun x s =>
    let m := x.desc c
    let z := rankSize ty
    let k := fld m 12 2
    let gd := x.rg d
    let gs := x.rg src
    let n := rdN m
    if !rdNOk m || fld m 1 0 ≠ 0 || k = 0 || n < k || rdSrc m % z ≠ 0 || rdDst m % 4 ≠ 0 then .refuse 20 0 0
    else
      match (scratchCheck x gd .store (rdDst m) (listBytes k)).orElse (fun _ => scratchCheck x gs .load (rdSrc m) (n * z)) with
      | some (code, addr) => .refuse code addr 0
      | none =>
        let reads := [x.span gs (rdSrc m) (n * z)]
        let writes := [x.span gd (rdDst m) (listBytes k)]
        if spansMeet reads writes then .refuse 20 0 0
        else enqueue x s .rank reads []
          { EngineOp.make x (.rank d src c ty la) m with regions := [gd, gs], reads := reads, writes := writes })

/-- A number that orders the elements of a type by value, or none for a NaN: −0 and +0 are one (R178). -/
def rankKey (ty : BitVec 2) (x : Nat) : Option Int :=
  if ty.toNat = 2 then some (sgn 8 x)
  else
    let f := if ty = 0 then fp32 else bf16
    let mag := x % 2 ^ (f.width - 1)
    match f.val x with
    | .nan _ => none
    | _ => some (if x.testBit (f.width - 1) then -(mag : Int) else (mag : Int))

/-- The list of a vector: header and entries (R178). -/
def rankOf (keys : List (Option Int)) (k : Nat) : Nat × List Nat :=
  let all := ((List.range keys.length).zip keys).filterMap (fun x => x.2.map (fun v => (x.1, v)))
  let order := all.mergeSort (fun x y => decide (y.2 < x.2) || (x.2 == y.2 && decide (x.1 ≤ y.1)))
  let kept := order.take k
  let es := ((List.range kept.length).zip kept).map (fun (x : Nat × Nat × Int) =>
    x.2.1 + (if x.1 != 0 && (kept[x.1 - 1]?).map (fun y => y.2) == some x.2.2 then 2 ^ 15 else 0))
  let ties := es.any (fun e => e.testBit 15)
  let cut := decide (k < order.length)
  let nan := keys.any (·.isNone)
  ((if ties then 2 ^ 31 else 0) + (if cut then 2 ^ 30 else 0) + (if nan then 2 ^ 29 else 0) + 2 ^ 11 * keys.length + es.length, es)

/-! ## Rank products and vectors: issue (R179-R181) -/

/-- The lists of an RMMA: (offset, bytes that the region still holds). -/
def rmmaLists (m : DWord) (g : Region) : List (Nat × Nat) :=
  (List.range (fld m 23 18 + 1)).map (fun b => (rdSrc m + b * fld m 43 28, g.bytes - (rdSrc m + b * fld m 43 28)))

/-- Bytes of a list that a front instruction reads: its header, and its entries where the header says how many (R162). -/
def Ctx.listNeeds (c : Ctx) (g : Region) (off left : Nat) : List (Nat × Nat) :=
  if left < 4 then []
  else
    let h := leNat (cread c.b.scratch (c.b.pos g off) 4)
    [c.span g off 4, c.listSpan g off (if headerOk h then listCount h else 0)]

def execRmma (d src : BitVec 5) (c : BitVec 7) (tie : BitVec 1) (la : BitVec 4) (s : State) :
    Host.Outcome State Fault Refusal :=
  issue s (.rmma d src c tie la) (matrixSpec [.region src.toNat, .run c.toNat 2 false] la) (fun x s =>
    let m := x.desc c
    let m2 := x.b.front.sget (x.b.front.swb + c.toNat + 1)
    let base := fld m2 8 0
    let g := x.rg src
    if !x.hasTile d then .refuse 19 0 0
    else if rdSrc m % 4 ≠ 0 || fld m 43 28 % 4 ≠ 0 || fld m 27 24 ≠ 0 || fld m 17 13 ≠ 0 || fld m 12 3 % 32 ≠ 0
        || 992 < fld m 12 3 || fld m 2 0 ≠ 0 then .refuse 20 0 0
    else if fld m2 63 9 ≠ 0 || !x.bRunOk base 8 then .refuse 19 0 0
    else
      match scratchCheck x g .load (rdSrc m) 4 with
      | some (code, addr) => .refuse code addr 0
      | none =>
        let lists := rmmaLists m g
        enqueue x s .array (lists.flatMap (fun l => x.listNeeds g l.1 l.2)) [(d.toNat, base, 8)]
          { EngineOp.make x (.rmma d src c tie la) m with
            desc2 := m2, regions := [g], quarter := x.b.quarters base 8, reads := lists.map (fun l => x.listSpan g l.1 1024) })

def execRtv (d src : BitVec 5) (c : BitVec 7) (la : BitVec 4) (s : State) : Host.Outcome State Fault Refusal :=
  issue s (.rtv d src c la) (matrixSpec [.region d.toNat, .region src.toNat, .run c.toNat 1 false] la) (fun x s =>
    let m := x.desc c
    let z := if bitOf m 12 then 4 else 2
    let n := rdN m
    let gd := x.rg d
    let gs := x.rg src
    if !rdNOk m || fld m 11 0 ≠ 0 || rdSrc m % 4 ≠ 0 || rdDst m % z ≠ 0 then .refuse 20 0 0
    else
      match (scratchCheck x gd .store (rdDst m) (n * z)).orElse (fun _ => scratchCheck x gs .load (rdSrc m) (listBytes n)) with
      | some (code, addr) => .refuse code addr 0
      | none =>
        enqueue x s .rank (x.listNeeds gs (rdSrc m) (gs.bytes - rdSrc m)) []
          { EngineOp.make x (.rtv d src c la) m with
            regions := [gd, gs], reads := [x.listSpan gs (rdSrc m) 1024], writes := [x.span gd (rdDst m) (n * z)] })

/-- RLST (R181): an XST of the list on the copy path; the destination is exchange or global space. DESIGN CHOICE (log 76): bits
[12:9] of the descriptor name a block of the cluster for an exchange region alone, and are not looked at for a global one. -/
def execRlst (d src : BitVec 5) (c : BitVec 7) (la : BitVec 4) (s : State) : Host.Outcome State Fault Refusal :=
  issue s (.rlst d src c la) (matrixSpec [.region d.toNat, .region src.toNat, .run c.toNat 1 false] la) (fun x s =>
    let m := x.desc c
    let n := rdN m
    let most := listBytes n
    let gd := x.rg d
    let gs := x.rg src
    let other := gd.kind ≠ 0 ∧ !gd.splitp ∧ gd.space ≠ 3 ∧ gd.space ≠ 0
    if !rdNOk m || fld m 4 0 ≠ 0 || rdSrc m % 4 ≠ 0 || rdDst m % 4 ≠ 0 then .refuse 20 0 0
    else if other then .refuse 9 0 0
    else
      match ((checkRegion x gd .store [(0, rdDst m, most)]).map (fun r => (r.1, r.2.1))).orElse
          (fun _ => scratchCheck x gs .load (rdSrc m) most) with
      | some (code, addr) => .refuse code addr 0
      | none =>
        if gd.space = 3 ∧ x.b.clusz ≤ fld m 12 9 then .refuse 10 (gd.addr (rdDst m)) 0
        else
          match x.b.absentOf (x.listNeeds gs (rdSrc m) (gs.bytes - rdSrc m)) with
          | some (a, z) => .wait (.lines a z) 0 s
          | none =>
            afterOwn x s (fun s =>
              let (nobody, s) := s.takeFresh
              let dst := if gd.space = 3 then gd.addr (rdDst m) else rdDst m
              .done (s.startCopy x (.rlst d src c la) gs gd [(x.b.pos gs (rdSrc m), dst, most)] [] 0 n
                (if gd.space = 3 then (s.clusterBlock x.b (fld m 12 9)).getD nobody else x.t.blk)
                (some (fld m 8 5)) false) [] .seq))

/-! ## Rank tables (11 R295) -/

/-- The common issue of RATL and RRCL. -/
def tableIssue (x : Ctx) (s : State) (i : Instr) (eng : Engine) (src : BitVec 5) (m : DWord) : Res :=
  let n := rdN m
  let g := x.rg src
  if fld m 33 24 ≠ 0 || fld m 12 0 ≠ 0 || rdSrc m % 16 ≠ 0 || !rdNOk m || 1024 < fld m 43 34 + n then .refuse 20 0 0
  else
    match scratchCheck x g .load (rdSrc m) (2 * n) with
    | some (code, addr) => .refuse code addr 0
    | none =>
      let reads := [x.span g (rdSrc m) (2 * n)]
      enqueue x s eng reads [] { EngineOp.make x i m with regions := [g], reads := reads }

/-- An instruction that has entered its queue marks the table as used by the block (11 R294). -/
def markUsed (t : ThreadRef) (f : Block → Block) : Res → Res
  | .done s ws nx => .done (s.updBlk t.blk f) ws nx
  | r => r

def execRatl (src : BitVec 5) (c : BitVec 7) (la : BitVec 4) (s : State) : Host.Outcome State Fault Refusal :=
  issue s (.ratl src c la) (matrixSpec [.region src.toNat, .run c.toNat 1 false] la) (fun x s =>
    markUsed x.t (fun b => { b with attUsed := true }) (tableIssue x s (.ratl src c la) .array src (x.desc c)))

def execRrcl (src : BitVec 5) (c : BitVec 7) (la : BitVec 4) (s : State) : Host.Outcome State Fault Refusal :=
  issue s (.rrcl src c la) (matrixSpec [.region src.toNat, .run c.toNat 1 false] la) (fun x s =>
    markUsed x.t (fun b => { b with recUsed := true }) (tableIssue x s (.rrcl src c la) .rank src (x.desc c)))

/-! ## Completions -/

/-- RANK: the list is written; a poisoned source gives a list of no entries, whose CUT and NAN bits the spec does not
state (R184). -/
def State.rankDone (s : State) (b : Block) (o : EngineOp) (ty : BitVec 2) : State :=
  let n := rdN o.desc
  let pos := ((o.writes.head?).map (·.1)).getD 0
  if o.used.any o.badSpan then
    let (f, s) := s.takeFree
    (s.putScratch o.blk pos (listImage ((wildWord f 0) / 2 ^ 29 % 4 * 2 ^ 29 + 2 ^ 11 * n) [])).poisonFault b o 3
  else
    let z := rankSize ty
    let keys := (List.range n).map (fun i => rankKey ty (leNat (((o.bytes 0).drop (z * i)).take z)))
    let r := rankOf keys (fld o.desc 12 2)
    s.putScratch o.blk pos (listImage r.1 r.2)

/-- The positions that a tie group around position `r` covers: the largest run joined by tie bits (R179). -/
def tieGroup (es : List Nat) (r : Nat) : Nat × Nat :=
  let rec back : Nat → Nat
    | 0 => 0
    | r + 1 => if (es.getD (r + 1) 0).testBit 15 then back r else r + 1
  let rec fwd : Nat → Nat → Nat
    | 0, r => r
    | n + 1, r => if r + 1 < es.length ∧ (es.getD (r + 1) 0).testBit 15 then fwd n (r + 1) else r
  (back r, fwd es.length r)

/-- f(r) of R179 as an FP32 value: the attenuation of the position, or the mean over its tie group, rounded once. -/
def rankWeight (split : Bool) (att : Nat → Nat) (es : List Nat) (r : Nat) : FVal :=
  let val := fun (i : Nat) => bf16.val (att i)
  if !split then val r
  else
    let (a, z) := tieGroup es r
    let l := (List.range (z + 1 - a)).map (fun i => val (a + i))
    if l.length = 1 then val r else fp32.val (fp32.div 0 (chunkSum l) (.fin false l.length 0)).1

/-- Row b of RMMA: the weights that list b selects in the window, and the chunk of each column (R179). A later position
replaces an earlier one. DEDUCED: where every product formed is −0 the sum is −0, though fewer than the 32 products of R75 are
formed (log 74). -/
def EngineOp.rankCell (o : EngineOp) (split : Bool) (att : Nat → Nat) (es : List Nat) (j old : Nat) : Nat :=
  let win := fld o.desc 12 3
  let ks := (List.range 32).filterMap (fun k =>
    (((List.range es.length).filter (fun r => es.getD r 0 % 2 ^ 10 == win + k)).getLast?).map (fun r =>
      product (rankWeight split att es r) (bf16.val ((o.bCol 16 32 j).getD k 0))))
  if ks.isEmpty then old else accFloat old (chunkSum ks)

/-- RMMA: row b takes list b; a malformed list is reported and leaves its row (R179). A row whose list touches a poisoned
sector holds NaN (R184). -/
def State.rmmaDone (s : State) (core : Nat) (b : Block) (o : EngineOp) (d : Nat) (split : Bool) : State :=
  let att := fun (i : Nat) => (cget (s.core core).att i).toNat
  let bad := fun (r : Nat) => (o.used[r]?).any o.badSpan
  let lists := (List.range o.reads.length).map (fun r => (rankList (o.bytes r)).map (·.2))
  let wrong := (List.range o.reads.length).filter (fun r => !bad r && (lists.getD r none).isNone)
  let t := s.putTile o.blk d true (fun i j =>
    let old := s.tileAt o.blk d i j
    if bad i then fp32.nanCode
    else
      match lists.getD i none with
      | some es => o.rankCell split att es j old
      | none => old)
  let t := wrong.foldl (fun t _ => t.engineFault b o 2 20 0) t
  t.poisonFault b o 2

/-- RTV: the dense vector; a malformed list gives zeros and RANK_RANGE (R180). The spec states no value for a list that
poison has reached: free values (R184). -/
def State.rtvDone (s : State) (core : Nat) (b : Block) (o : EngineOp) : State :=
  let n := rdN o.desc
  let wide := bitOf o.desc 12
  let z := if wide then 4 else 2
  let pos := ((o.writes.head?).map (·.1)).getD 0
  let recon := fun (r : Nat) =>
    let x := (cget (s.core core).recon r).toNat
    -- a BF16 NaN widens to the canonical FP32 NaN (03 R63)
    if !wide then x else if x % 2 ^ 15 > bf16.infCode then fp32.nanCode else x * 2 ^ 16
  if o.used.any o.badSpan then
    let (f, s) := s.takeFree
    (s.putScratch o.blk pos ((List.range n).flatMap (fun i => leBytes z (wildWord f i)))).poisonFault b o 3
  else
    match rankList (o.bytes 0) with
    | some (h, es) =>
      if listN h ≠ n then
        (s.putScratch o.blk pos (List.replicate (n * z) 0)).engineFault b o 3 20 0
      else
        s.putScratch o.blk pos ((List.range n).flatMap (fun i =>
          leBytes z ((((List.range es.length).filter (fun r => es.getD r 0 % 2 ^ 10 == i)).getLast?).map recon |>.getD 0)))
    | none =>
      (s.putScratch o.blk pos (List.replicate (n * z) 0)).engineFault b o 3 20 0

/-- The entries that RATL or RRCL loads: the canonical BF16 NaN where a poisoned or mismatching sector stood (11 R295). -/
def EngineOp.entries (o : EngineOp) : List (BitVec 16) :=
  let pos := ((o.reads.head?).map (·.1)).getD 0
  (List.range (rdN o.desc)).map (fun i =>
    BitVec.ofNat 16 (if o.badSpan (pos + 2 * i, 2) then bf16.nanCode else leNat (((o.bytes 0).drop (2 * i)).take 2)))

/-- ENGINE_COMPLETE: the running instruction takes effect and leaves its engine (R159). -/
def execEngineComplete (s : State) : Host.Outcome State Fault Refusal :=
  match s.due with
  | some (.engineComplete core eng) =>
    match (s.core core).queueOf eng with
    | [] => .next s
    | o :: _ =>
      match (if o.started then s.blk? o.blk else none) with
      | none => .next s
      | some b =>
        let (f, s) := s.takeFree
        let o := o.mixed b f
        let s := match o.ins with
          | .rank _ _ _ ty _ => s.rankDone b o ty
          | .rmma d _ _ tie _ => s.rmmaDone core b o d.toNat (tie == 1)
          | .rtv _ _ _ _ => s.rtvDone core b o
          | .ratl _ _ _ =>
            (s.updCore core (fun k => { k with att := cwrite k.att (fld o.desc 43 34) o.entries })).poisonFault b o 2
          | .rrcl _ _ _ =>
            (s.updCore core (fun k => { k with recon := cwrite k.recon (fld o.desc 43 34) o.entries })).poisonFault b o 3
          | _ => s.matrixDone b o
        .next (s.leaveEngine core eng o)
  | _ => .next s

end Sys2Proof.Machine
end

