-- ==== Sys2Proof/Machine/SysOps.lean ====
section
/-!
DEFINITION. Machine/SysOps.lean: special registers, windows, format, mirrors, system registers, link wakes and translation
invalidation (04 R84-R88; 05 R111-R115; 06 R154, R156; 15 R379, R380; 16 R403; 11 R287).
-/
namespace Sys2Proof.Machine

/-! ## RDS (04 R87, R88) -/

/-- MODEBITS: minimal mode, co-operative launch, task mode. -/
def modeBits (s : State) (b : Block) : Nat :=
  (if s.pkg.minimal then 1 else 0) + (if b.coop then 2 else 0) + (if b.task.isSome then 4 else 0)

/-- The special register `n` of a thread, in a lane. -/
def special (s : State) (c : Ctx) (n l : Nat) : Word :=
  let roleId := match c.w.role with
    | .matrix => 0
    | .copy => 1
    | .vector => 2
  match n with
  | 0 => BitVec.ofNat 32 l
  | 1 => BitVec.ofNat 32 c.t.warp
  | 2 => c.b.blockIx
  | 3 => BitVec.ofNat 32 c.b.clIx
  | 4 => c.b.clusIx
  | 5 => BitVec.ofNat 32 c.b.die
  | 6 => BitVec.ofNat 32 c.b.core
  | 7 => if c.front then 4 else BitVec.ofNat 32 (c.t.warp % 4)
  | 8 => c.b.gridM1
  | 9 => BitVec.ofNat 32 c.b.clusz
  | 10 => BitVec.ofNat 32 c.b.warps.length
  | 11 => if c.front then 3 else BitVec.ofNat 32 roleId
  | 12 =>
    if c.front then BitVec.ofNat 32 c.base
    else (((s.blk? c.t.blk).bind (fun b => b.warps[c.t.warp]?)).map (fun w => w.wb.setWidth 32)).getD 0
  | 13 => if c.front then 192 else BitVec.ofNat 32 c.w.allot
  | 14 => c.b.task.getD 0xFFFF_FFFF
  | _ => BitVec.ofNat 32 (modeBits s c.b)

def execRds (d : BitVec 7) (n : BitVec 12) (s : State) : Host.Outcome State Fault Refusal :=
  issueRegs s (.rds d n) (plain .both [.dst d.toNat]) (fun c =>
    c.lanes.flatMap (fun l => c.w32 d.toNat l false (special s c n.toNat l)))

/-! ## Windows and mirrors (04 R85; 06 R154, R156) -/

/-- The other arm beside a WIN: an instruction that it has issued keeps the old `WB` (R85); the next one that it issues, being
near the WIN, maps its codes with the old or the new, as the device chooses (R86; log 69). -/
def Thread.besideWin (th : Thread) (old : BitVec 10) (keep : Bool) : Thread :=
  if th.live && ((th.hold.bind (·.ins)).isSome || keep) && th.wbUse.isNone then { th with wbUse := some old } else th

/-- WIN (R85). While a handler runs, the other arm is stopped (15 R375): nothing of it issues near the WIN. -/
def execWin (k : BitVec 11) (s : State) : Host.Outcome State Fault Refusal :=
  issue s (.win k) (plain .warp []) (fun c s =>
    if k.msb ∨ c.w.allot ≤ 16 * k.toNat then .refuse 6 0 c.allLanes
    else
      let both := c.w.split && !c.th.trap
      let (n, s) := if both then s.takeFree else (0, s)
      let beside := fun (w : Warp) => if both then
          { w with t := if c.t.armE then w.t.besideWin w.wb (Config.freeBool (nth n 0)) else w.t,
                   e := if c.t.armE then w.e else w.e.besideWin w.wb (Config.freeBool (nth n 0)) }
        else w
      .done (s.updWarp c.t (fun w => { beside w with wb := BitVec.ofNat 10 (16 * k.toNat) })) [] .seq)

def execSwin (b : BitVec 2) (s : State) : Host.Outcome State Fault Refusal :=
  issue s (.swin b) (plain .front []) (fun c s =>
    .done (s.updFront c.t.blk (fun f => { f with swb := 32 * b.toNat })) [] .seq)

/-- YSET: a release side (06 R156, 10 R252). -/
def execYset (n : BitVec 3) (a : BitVec 7) (s : State) : Host.Outcome State Fault Refusal :=
  issue s (.yset n a) (plain .front [.src64 a.toNat]) (fun c s =>
    releasing c s (.done (s.updBlk c.t.blk (fun b => { b with y := lset b.y n.toNat (fun _ => c.r64 a.toNat 0) })) [] .seq))

/-! ## FMT (05 R114, R115) -/

/-- An instruction that waits until the thread's earlier ones have completed. -/
def settled (c : Ctx) (s : State) (r : Res) : Res := if c.th.pends.isEmpty then r else .wait .scoreboard c.stage s

def execSetf (a b : BitVec 7) (s : State) : Host.Outcome State Fault Refusal :=
  issue s (.setf a b) (plain .warp [.src a.toNat, .src b.toNat]) (fun c s =>
    settled c s (
      let v := c.r32 a.toNat c.low
      let m := c.r32 b.toNat c.low
      let new := (c.th.fmt &&& ~~~m) ||| (v &&& m)
      if fmtLegal new then .done (s.updThread c.t (fun th => { th with fmt := new &&& fmtMask })) [] .seq
      else .refuse 1 0 c.allLanes))

def execGetf (d : BitVec 7) (s : State) : Host.Outcome State Fault Refusal :=
  issue s (.getf d) (plain .warp [.dst d.toNat]) (fun c s =>
    settled c s (.done s (c.lanes.flatMap (fun l => c.w32 d.toNat l false c.th.fmt)) .seq))

def execFlags (d a : BitVec 7) (s : State) : Host.Outcome State Fault Refusal :=
  issue s (.flags d a) (plain .warp [.src a.toNat, .dst d.toNat]) (fun c s =>
    settled c s (
      let f := c.th.fmt &&& 0x1F
      .done (s.updThread c.t (fun th => { th with fmt := th.fmt &&& ~~~(c.r32 a.toNat c.low &&& 0x1F) }))
        (c.lanes.flatMap (fun l => c.w32 d.toNat l false f)) .seq))

/-! ## CSRR and CSRW (15 R379, R380) -/

/-- TRPC and TRCTL exist only in trap mode (R378). -/
def trapReg (n : Nat) : Bool := n == 0x100 || n == 0x101

def execCsrr (d : BitVec 7) (n : BitVec 12) (s : State) : Host.Outcome State Fault Refusal :=
  issue s (.csrr d n) { plain .both [.items d.toNat 1 true] with priv := trapReg n.toNat } (fun c s =>
    settled c s (.done s (c.wItem d.toNat 0 (csrValue s c n.toNat)) .seq))

/-- CSRW with its function: how the old value and the operand give the value written. -/
def csrw (i : Instr) (d : BitVec 7) (n : BitVec 12) (f : DWord → DWord → DWord) (s : State) :
    Host.Outcome State Fault Refusal :=
  issue s i { plain .both [.src64 d.toNat, .run d.toNat (if s.frontCur then 1 else 2) false] with priv := true }
    (fun c s => settled c s (.done (csrWrite s c n.toNat (f (csrValue s c n.toNat) (c.r64 d.toNat c.low))) [] .seq))

def execCsrw (d : BitVec 7) (n : BitVec 12) (s : State) : Host.Outcome State Fault Refusal :=
  csrw (.csrw d n) d n (fun _ v => v) s
def execCsrwSet (d : BitVec 7) (n : BitVec 12) (s : State) : Host.Outcome State Fault Refusal :=
  csrw (.csrwSet d n) d n (fun old v => old ||| v) s
def execCsrwClr (d : BitVec 7) (n : BitVec 12) (s : State) : Host.Outcome State Fault Refusal :=
  csrw (.csrwClr d n) d n (fun old v => old &&& ~~~v) s

/-! ## LWAKE (16 R403) -/

def execLwake (a : BitVec 7) (s : State) : Host.Outcome State Fault Refusal :=
  issue s (.lwake a) (plain .both [.items a.toNat 1 false]) (fun c s =>
    let v := c.item a.toNat 0
    let md := bitOf v 4
    let n := fld v 3 0
    if fld v 63 5 ≠ 0 ∨ (!md ∧ 8 ≤ n) then .refuse 1 0 c.allLanes
    else
      let dst : DieId := if md then .md n else .cd n
      let inside := if md then (s.partMds c.b.die).contains n else (s.partDies c.b.die).contains n
      .done (if inside && dst != .cd c.b.die then s.wakeRoute (route (.cd c.b.die) dst) else s) [] .seq)

/-! ## TLBINV (11 R287) -/

/-- Whether a translation, or a line of an ASID at an address, lies in the match of a TLBINV. -/
def tlbMatch (typ : Nat) (asid : BitVec 16) (va len : Nat) (easid : BitVec 16) (glb : Bool) (eva esize : Nat) : Bool :=
  match typ with
  | 0 => (glb || easid == asid) && decide (eva < va + len ∧ va < eva + esize)
  | 1 => !glb && easid == asid
  | 2 => !glb
  | _ => true

/-- The partition's cluster TLBs and L1s give up what matches: dirty lines go to their old physical addresses. -/
def State.tlbInvalidate (s : State) (die typ : Nat) (asid : BitVec 16) (va len : Nat) : State :=
  let dies := s.partDies die
  let gone := s.l1.filter (fun x => !x.shared && dies.contains (x.core / 128)
    && tlbMatch typ asid va len x.asid x.glb (128 * x.line) 128)
  let s := { s with tlb := s.tlb.filter (fun e => !(dies.contains (e.cluster / 16)
    && tlbMatch typ asid va len e.asid e.glb e.va (2 ^ e.bits))) }
  let s := gone.foldl (fun s x => s.l1Back x) s
  { s with l1 := s.l1.filter (fun x => !gone.any (fun y => y.same x)) }

def execTlbinv (a b : BitVec 7) (s : State) : Host.Outcome State Fault Refusal :=
  issue s (.tlbinv a b) { plain .both [.items a.toNat 1 false, .items b.toNat 1 false] with priv := true } (fun c s =>
    let va := (c.item a.toNat 0).toNat
    let v := c.item b.toNat 0
    let typ := fld v 17 16
    let count := fld v 47 32
    if fld v 31 18 ≠ 0 ∨ fld v 63 48 ≠ 0 ∨ (typ ≠ 0 ∧ count ≠ 0) ∨ (typ = 0 ∧ count = 0) then .refuse 1 0 c.allLanes
    else if typ = 0 ∧ va % 2 ^ 14 ≠ 0 then .refuse 12 va c.allLanes
    else if !s.allPerformed c.t then .wait .performed 0 s
    else .done (s.tlbInvalidate c.b.die typ (BitVec.ofNat 16 (fld v 15 0)) va (2 ^ 14 * count)) [] .seq)

end Sys2Proof.Machine
end

