-- ==== Sys2Proof/Machine/Dispatch.lean ====
section
/-!
DEFINITION. Machine/Dispatch.lean: one arm per row of the opcode table, each one direct call of its meaning.
-/
namespace Sys2Proof.Machine

/-- The meaning of an instruction. -/
def exec (i : Instr) (s : State) : Host.Outcome State Fault Refusal :=
  match i with
  | .add d a b sat ty => Sys2Proof.Machine.execAdd d a b sat ty s
  | .sub d a b sat ty => Sys2Proof.Machine.execSub d a b sat ty s
  | .addi d a imm => Sys2Proof.Machine.execAddi d a imm s
  | .neg d a sat ty => Sys2Proof.Machine.execNeg d a sat ty s
  | .abs d a sat ty => Sys2Proof.Machine.execAbs d a sat ty s
  | .mul d a b sat ty => Sys2Proof.Machine.execMul d a b sat ty s
  | .mulh d a b w => Sys2Proof.Machine.execMulh d a b w s
  | .mulhn d a b w => Sys2Proof.Machine.execMulhn d a b w s
  | .mad d a b sat ty => Sys2Proof.Machine.execMad d a b sat ty s
  | .madw d a b n => Sys2Proof.Machine.execMadw d a b n s
  | .div d a b la => Sys2Proof.Machine.execDiv d a b la s
  | .divn d a b la => Sys2Proof.Machine.execDivn d a b la s
  | .rem d a b la => Sys2Proof.Machine.execRem d a b la s
  | .remn d a b la => Sys2Proof.Machine.execRemn d a b la s
  | .min d a b w => Sys2Proof.Machine.execMin d a b w s
  | .max d a b w => Sys2Proof.Machine.execMax d a b w s
  | .minn d a b w => Sys2Proof.Machine.execMinn d a b w s
  | .maxn d a b w => Sys2Proof.Machine.execMaxn d a b w s
  | .and d a b w => Sys2Proof.Machine.execAnd d a b w s
  | .or d a b w => Sys2Proof.Machine.execOr d a b w s
  | .xor d a b w => Sys2Proof.Machine.execXor d a b w s
  | .andn d a b w => Sys2Proof.Machine.execAndn d a b w s
  | .not d a w => Sys2Proof.Machine.execNot d a w s
  | .shl d a b w => Sys2Proof.Machine.execShl d a b w s
  | .shr d a b w => Sys2Proof.Machine.execShr d a b w s
  | .sar d a b w => Sys2Proof.Machine.execSar d a b w s
  | .rot d a b w => Sys2Proof.Machine.execRot d a b w s
  | .shli d a w c => Sys2Proof.Machine.execShli d a w c s
  | .shri d a w c => Sys2Proof.Machine.execShri d a w c s
  | .sari d a w c => Sys2Proof.Machine.execSari d a w c s
  | .bfx d a b w => Sys2Proof.Machine.execBfx d a b w s
  | .bfxn d a b w => Sys2Proof.Machine.execBfxn d a b w s
  | .bfi d a b w => Sys2Proof.Machine.execBfi d a b w s
  | .popc d a w => Sys2Proof.Machine.execPopc d a w s
  | .clz d a w => Sys2Proof.Machine.execClz d a w s
  | .ctz d a w => Sys2Proof.Machine.execCtz d a w s
  | .brev d a w => Sys2Proof.Machine.execBrev d a w s
  | .mov d a w => Sys2Proof.Machine.execMov d a w s
  | .movi d imm => Sys2Proof.Machine.execMovi d imm s
  | .movh d imm => Sys2Proof.Machine.execMovh d imm s
  | .sel d a b w k => Sys2Proof.Machine.execSel d a b w k s
  | .lea d a b sc => Sys2Proof.Machine.execLea d a b sc s
  | .cmp cond k a b ty => Sys2Proof.Machine.execCmp cond k a b ty s
  | .cmpi cond k a imm => Sys2Proof.Machine.execCmpi cond k a imm s
  | .fadd d a b ty => Sys2Proof.Machine.execFadd d a b ty s
  | .fsub d a b ty => Sys2Proof.Machine.execFsub d a b ty s
  | .fmul d a b ty => Sys2Proof.Machine.execFmul d a b ty s
  | .ffma d a b ty => Sys2Proof.Machine.execFfma d a b ty s
  | .fmin d a b ty => Sys2Proof.Machine.execFmin d a b ty s
  | .fmax d a b ty => Sys2Proof.Machine.execFmax d a b ty s
  | .fabs d a ty => Sys2Proof.Machine.execFabs d a ty s
  | .fneg d a ty => Sys2Proof.Machine.execFneg d a ty s
  | .fcmp cond k a b ty => Sys2Proof.Machine.execFcmp cond k a b ty s
  | .fclass d a ty => Sys2Proof.Machine.execFclass d a ty s
  | .frcp d a ty la => Sys2Proof.Machine.execFrcp d a ty la s
  | .frsq d a ty la => Sys2Proof.Machine.execFrsq d a ty la s
  | .fsqrt d a ty la => Sys2Proof.Machine.execFsqrt d a ty la s
  | .fexp2 d a ty la => Sys2Proof.Machine.execFexp2 d a ty la s
  | .flog2 d a ty la => Sys2Proof.Machine.execFlog2 d a ty la s
  | .fsin d a ty la => Sys2Proof.Machine.execFsin d a ty la s
  | .fcos d a ty la => Sys2Proof.Machine.execFcos d a ty la s
  | .fdivF32 d a b la => Sys2Proof.Machine.execFdivF32 d a b la s
  | .fdivF64 d a b la => Sys2Proof.Machine.execFdivF64 d a b la s
  | .fscale d a b ty => Sys2Proof.Machine.execFscale d a b ty s
  | .frnd d a ty => Sys2Proof.Machine.execFrnd d a ty s
  | .fcvt d a sat dfmt sfmt => Sys2Proof.Machine.execFcvt d a sat dfmt sfmt s
  | .icvt d a dfmt ty => Sys2Proof.Machine.execIcvt d a dfmt ty s
  | .ftoi d a ty sfmt => Sys2Proof.Machine.execFtoi d a ty sfmt s
  | .pack d a b part w => Sys2Proof.Machine.execPack d a b part w s
  | .unpk d a part w => Sys2Proof.Machine.execUnpk d a part w s
  | .bpsplit d a j => Sys2Proof.Machine.execBpsplit d a j s
  | .bpjoin d a n => Sys2Proof.Machine.execBpjoin d a n s
  | .bpdot d a b la => Sys2Proof.Machine.execBpdot d a b la s
  | .kand d a b => Sys2Proof.Machine.execKand d a b s
  | .kor d a b => Sys2Proof.Machine.execKor d a b s
  | .kxor d a b => Sys2Proof.Machine.execKxor d a b s
  | .kandn d a b => Sys2Proof.Machine.execKandn d a b s
  | .knot d a => Sys2Proof.Machine.execKnot d a s
  | .kmov d a => Sys2Proof.Machine.execKmov d a s
  | .kset d a => Sys2Proof.Machine.execKset d a s
  | .kget d a => Sys2Proof.Machine.execKget d a s
  | .ksave d => Sys2Proof.Machine.execKsave d s
  | .krest a => Sys2Proof.Machine.execKrest a s
  | .exmget d => Sys2Proof.Machine.execExmget d s
  | .exmset a => Sys2Proof.Machine.execExmset a s
  | .shflIdx d a b => Sys2Proof.Machine.execShflIdx d a b s
  | .shflUp d a b => Sys2Proof.Machine.execShflUp d a b s
  | .shflDn d a b => Sys2Proof.Machine.execShflDn d a b s
  | .shflXor d a b => Sys2Proof.Machine.execShflXor d a b s
  | .voteAny d k => Sys2Proof.Machine.execVoteAny d k s
  | .voteAll d k => Sys2Proof.Machine.execVoteAll d k s
  | .voteBal d k => Sys2Proof.Machine.execVoteBal d k s
  | .bra off => Sys2Proof.Machine.execBra off s
  | .brd k rec tgt => Sys2Proof.Machine.execBrd k rec tgt s
  | .rcv => Sys2Proof.Machine.execRcv s
  | .call off => Sys2Proof.Machine.execCall off s
  | .ret => Sys2Proof.Machine.execRet s
  | .jmpi a => Sys2Proof.Machine.execJmpi a s
  | .exit => Sys2Proof.Machine.execExit s
  | .nop => Sys2Proof.Machine.execNop s
  | .bru d cond off => Sys2Proof.Machine.execBru d cond off s
  | .rds d n => Sys2Proof.Machine.execRds d n s
  | .win k => Sys2Proof.Machine.execWin k s
  | .setf a b => Sys2Proof.Machine.execSetf a b s
  | .getf d => Sys2Proof.Machine.execGetf d s
  | .flags d a => Sys2Proof.Machine.execFlags d a s
  | .yset n a => Sys2Proof.Machine.execYset n a s
  | .swin b => Sys2Proof.Machine.execSwin b s
  | .csrr d n => Sys2Proof.Machine.execCsrr d n s
  | .csrw d n => Sys2Proof.Machine.execCsrw d n s
  | .csrwSet d n => Sys2Proof.Machine.execCsrwSet d n s
  | .csrwClr d n => Sys2Proof.Machine.execCsrwClr d n s
  | .lwake a => Sys2Proof.Machine.execLwake a s
  | .tlbinv a b => Sys2Proof.Machine.execTlbinv a b s
  | .ld32 d rg idx sc la => Sys2Proof.Machine.execLd32 d rg idx sc la s
  | .ld64 d rg idx sc la => Sys2Proof.Machine.execLd64 d rg idx sc la s
  | .ldI8 d rg idx sc la => Sys2Proof.Machine.execLdI8 d rg idx sc la s
  | .ldN8 d rg idx sc la => Sys2Proof.Machine.execLdN8 d rg idx sc la s
  | .ldI16 d rg idx sc la => Sys2Proof.Machine.execLdI16 d rg idx sc la s
  | .ldN16 d rg idx sc la => Sys2Proof.Machine.execLdN16 d rg idx sc la s
  | .st32 d rg idx sc la => Sys2Proof.Machine.execSt32 d rg idx sc la s
  | .st64 d rg idx sc la => Sys2Proof.Machine.execSt64 d rg idx sc la s
  | .st8 d rg idx sc la => Sys2Proof.Machine.execSt8 d rg idx sc la s
  | .st16 d rg idx sc la => Sys2Proof.Machine.execSt16 d rg idx sc la s
  | .ldn d rg idx sc la => Sys2Proof.Machine.execLdn d rg idx sc la s
  | .stn d rg idx sc la => Sys2Proof.Machine.execStn d rg idx sc la s
  | .ldbp d rg idx sc la => Sys2Proof.Machine.execLdbp d rg idx sc la s
  | .stbe d rg idx sc la => Sys2Proof.Machine.execStbe d rg idx sc la s
  | .cpy d a b => Sys2Proof.Machine.execCpy d a b s
  | .cpyg d a b => Sys2Proof.Machine.execCpyg d a b s
  | .xst d a b => Sys2Proof.Machine.execXst d a b s
  | .dupd d a b => Sys2Proof.Machine.execDupd d a b s
  | .pref a b => Sys2Proof.Machine.execPref a b s
  | .res a b => Sys2Proof.Machine.execRes a b s
  | .pwait a b => Sys2Proof.Machine.execPwait a b s
  | .borrow d a b tr k => Sys2Proof.Machine.execBorrow d a b tr k s
  | .reborrowS d b => Sys2Proof.Machine.execReborrowS d b s
  | .reborrowE d b => Sys2Proof.Machine.execReborrowE d b s
  | .split d a b eq n => Sys2Proof.Machine.execSplit d a b eq n s
  | .share d a b => Sys2Proof.Machine.execShare d a b s
  | .give a => Sys2Proof.Machine.execGive a s
  | .join a => Sys2Proof.Machine.execJoin a s
  | .returnR a => Sys2Proof.Machine.execReturnR a s
  | .rginfo d a => Sys2Proof.Machine.execRginfo d a s
  | .rgmov d a => Sys2Proof.Machine.execRgmov d a s
  | .rgclr a => Sys2Proof.Machine.execRgclr a s
  | .rgclrTaint a => Sys2Proof.Machine.execRgclrTaint a s
  | .atomAdd d w rg ord scope => Sys2Proof.Machine.execAtomAdd d w rg ord scope s
  | .atomFadd d w rg ord scope => Sys2Proof.Machine.execAtomFadd d w rg ord scope s
  | .atomSwap d w rg ord scope => Sys2Proof.Machine.execAtomSwap d w rg ord scope s
  | .atomCas d w rg ord scope => Sys2Proof.Machine.execAtomCas d w rg ord scope s
  | .atomAnd d w rg ord scope => Sys2Proof.Machine.execAtomAnd d w rg ord scope s
  | .atomOr d w rg ord scope => Sys2Proof.Machine.execAtomOr d w rg ord scope s
  | .atomXor d w rg ord scope => Sys2Proof.Machine.execAtomXor d w rg ord scope s
  | .atomMin d w rg ord scope => Sys2Proof.Machine.execAtomMin d w rg ord scope s
  | .atomMax d w rg ord scope => Sys2Proof.Machine.execAtomMax d w rg ord scope s
  | .atomMinn d w rg ord scope => Sys2Proof.Machine.execAtomMinn d w rg ord scope s
  | .atomMaxn d w rg ord scope => Sys2Proof.Machine.execAtomMaxn d w rg ord scope s
  | .atomLd d w rg ord scope => Sys2Proof.Machine.execAtomLd d w rg ord scope s
  | .atomSt d w rg ord scope => Sys2Proof.Machine.execAtomSt d w rg ord scope s
  | .redAdd d w rg ord scope => Sys2Proof.Machine.execRedAdd d w rg ord scope s
  | .redFadd d w rg ord scope => Sys2Proof.Machine.execRedFadd d w rg ord scope s
  | .redMin d w rg ord scope => Sys2Proof.Machine.execRedMin d w rg ord scope s
  | .redMax d w rg ord scope => Sys2Proof.Machine.execRedMax d w rg ord scope s
  | .redFmin d w rg ord scope => Sys2Proof.Machine.execRedFmin d w rg ord scope s
  | .redFmax d w rg ord scope => Sys2Proof.Machine.execRedFmax d w rg ord scope s
  | .redAnd d w rg ord scope => Sys2Proof.Machine.execRedAnd d w rg ord scope s
  | .redOr d w rg ord scope => Sys2Proof.Machine.execRedOr d w rg ord scope s
  | .redXor d w rg ord scope => Sys2Proof.Machine.execRedXor d w rg ord scope s
  | .redMinn d w rg ord scope => Sys2Proof.Machine.execRedMinn d w rg ord scope s
  | .redMaxn d w rg ord scope => Sys2Proof.Machine.execRedMaxn d w rg ord scope s
  | .fence scope => Sys2Proof.Machine.execFence scope s
  | .mma d c sat la => Sys2Proof.Machine.execMma d c sat la s
  | .mmas d c la => Sys2Proof.Machine.execMmas d c la s
  | .mbp d c mid sat la => Sys2Proof.Machine.execMbp d c mid sat la s
  | .mzero d la => Sys2Proof.Machine.execMzero d la s
  | .mld d n c la => Sys2Proof.Machine.execMld d n c la s
  | .mst n src c la => Sys2Proof.Machine.execMst n src c la s
  | .mcpy d src la => Sys2Proof.Machine.execMcpy d src la s
  | .mcvt n src c la => Sys2Proof.Machine.execMcvt n src c la s
  | .mtrn d src la => Sys2Proof.Machine.execMtrn d src la s
  | .mperm d src c la => Sys2Proof.Machine.execMperm d src c la s
  | .mrsum d src c la => Sys2Proof.Machine.execMrsum d src c la s
  | .mrdy b => Sys2Proof.Machine.execMrdy b s
  | .mwait d => Sys2Proof.Machine.execMwait d s
  | .mstat e c la => Sys2Proof.Machine.execMstat e c la s
  | .rank d src c ty la => Sys2Proof.Machine.execRank d src c ty la s
  | .rmma d src c tie la => Sys2Proof.Machine.execRmma d src c tie la s
  | .rtv d src c la => Sys2Proof.Machine.execRtv d src c la s
  | .rlst d src c la => Sys2Proof.Machine.execRlst d src c la s
  | .ratl src c la => Sys2Proof.Machine.execRatl src c la s
  | .rrcl src c la => Sys2Proof.Machine.execRrcl src c la s
  | .tspawn d a b => Sys2Proof.Machine.execTspawn d a b s
  | .tret a => Sys2Proof.Machine.execTret a s
  | .fwait d a b => Sys2Proof.Machine.execFwait d a b s
  | .ffill d a b => Sys2Proof.Machine.execFfill d a b s
  | .fown d a b => Sys2Proof.Machine.execFown d a b s
  | .lock d a b => Sys2Proof.Machine.execLock d a b s
  | .unlock d a b => Sys2Proof.Machine.execUnlock d a b s
  | .qpush d a b => Sys2Proof.Machine.execQpush d a b s
  | .qpop d a b => Sys2Proof.Machine.execQpop d a b s
  | .succ d a b => Sys2Proof.Machine.execSucc d a b s
  | .launch d a b => Sys2Proof.Machine.execLaunch d a b s
  | .yield => Sys2Proof.Machine.execYield s
  | .dqpush a b => Sys2Proof.Machine.execDqpush a b s
  | .dqpop d => Sys2Proof.Machine.execDqpop d s
  | .srput b => Sys2Proof.Machine.execSrput b s
  | .srwaitC d b => Sys2Proof.Machine.execSrwaitC d b s
  | .srwaitP d b => Sys2Proof.Machine.execSrwaitP d b s
  | .srrel b => Sys2Proof.Machine.execSrrel b s
  | .barArr d lev n => Sys2Proof.Machine.execBarArr d lev n s
  | .barWait a lev n => Sys2Proof.Machine.execBarWait a lev n s
  | .barSync d lev n => Sys2Proof.Machine.execBarSync d lev n s
  | .barSet a n => Sys2Proof.Machine.execBarSet a n s
  | .cntRd d c => Sys2Proof.Machine.execCntRd d c s
  | .cntWait a c => Sys2Proof.Machine.execCntWait a c s
  | .cntClr c => Sys2Proof.Machine.execCntClr c s
  | .time d => Sys2Proof.Machine.execTime d s
  | .winw d => Sys2Proof.Machine.execWinw d s
  | .perf d a => Sys2Proof.Machine.execPerf d a s
  | .trap n => Sys2Proof.Machine.execTrap n s
  | .svc n => Sys2Proof.Machine.execSvc n s
  | .rft => Sys2Proof.Machine.execRft s
  | .brk n => Sys2Proof.Machine.execBrk n s
  | .killb d a => Sys2Proof.Machine.execKillb d a s
  | .pblk k n pat => Sys2Proof.Machine.execPblk k n pat s
  | .illegalInstruction w => Sys2Proof.Machine.execIllegalInstruction w s
  | .loadDataReturn => Sys2Proof.Machine.execLoadDataReturn s
  | .pageWalk => Sys2Proof.Machine.execPageWalk s
  | .sideLogReplay => Sys2Proof.Machine.execSideLogReplay s
  | .copyLanding => Sys2Proof.Machine.execCopyLanding s
  | .engineStart => Sys2Proof.Machine.execEngineStart s
  | .engineComplete => Sys2Proof.Machine.execEngineComplete s
  | .trapEntry => Sys2Proof.Machine.execTrapEntry s
  | .faultReport => Sys2Proof.Machine.execFaultReport s
  | .packetFetch => Sys2Proof.Machine.execPacketFetch s
  | .dependencePoll => Sys2Proof.Machine.execDependencePoll s
  | .gangPlacement => Sys2Proof.Machine.execGangPlacement s
  | .seniorGang => Sys2Proof.Machine.execSeniorGang s
  | .taskStart => Sys2Proof.Machine.execTaskStart s
  | .adoption => Sys2Proof.Machine.execAdoption s
  | .wake => Sys2Proof.Machine.execWake s
  | .parkRetry => Sys2Proof.Machine.execParkRetry s
  | .preemptSave => Sys2Proof.Machine.execPreemptSave s
  | .restore => Sys2Proof.Machine.execRestore s
  | .unpickerPass => Sys2Proof.Machine.execUnpickerPass s
  | .req => Sys2Proof.Machine.execReq s
  | .grant => Sys2Proof.Machine.execGrant s
  | .returnMessage => Sys2Proof.Machine.execReturnMessage s
  | .count => Sys2Proof.Machine.execCount s
  | .pending => Sys2Proof.Machine.execPending s
  | .reclaim => Sys2Proof.Machine.execReclaim s
  | .lost => Sys2Proof.Machine.execLost s
  | .retack => Sys2Proof.Machine.execRetack s
  | .eopDiscard => Sys2Proof.Machine.execEopDiscard s
  | .requestDelivery => Sys2Proof.Machine.execRequestDelivery s
  | .sliceBounce => Sys2Proof.Machine.execSliceBounce s
  | .heatHalving => Sys2Proof.Machine.execHeatHalving s
  | .heatSample => Sys2Proof.Machine.execHeatSample s
  | .scTicket => Sys2Proof.Machine.execScTicket s
  | .windowMark => Sys2Proof.Machine.execWindowMark s
  | .systemScPerform => Sys2Proof.Machine.execSystemScPerform s
  | .cleanAfterRelease => Sys2Proof.Machine.execCleanAfterRelease s
  | .flitReceive => Sys2Proof.Machine.execFlitReceive s
  | .ackOnlyFlit => Sys2Proof.Machine.execAckOnlyFlit s
  | .ackTimer => Sys2Proof.Machine.execAckTimer s
  | .replayTimeout => Sys2Proof.Machine.execReplayTimeout s
  | .errorInterval => Sys2Proof.Machine.execErrorInterval s
  | .scaleUpFrame => Sys2Proof.Machine.execScaleUpFrame s
  | .trainingEnd => Sys2Proof.Machine.execTrainingEnd s
  | .retrainEnd => Sys2Proof.Machine.execRetrainEnd s
  | .l0nIdle => Sys2Proof.Machine.execL0nIdle s
  | .l1sIdle => Sys2Proof.Machine.execL1sIdle s
  | .wakeComplete => Sys2Proof.Machine.execWakeComplete s
  | .wakeTimeout => Sys2Proof.Machine.execWakeTimeout s
  | .unresponsiveTimeout => Sys2Proof.Machine.execUnresponsiveTimeout s
  | .hostAccess => Sys2Proof.Machine.execHostAccess s
  | .train => Sys2Proof.Machine.execTrain s
  | .takeDown => Sys2Proof.Machine.execTakeDown s
  | .lqbell => Sys2Proof.Machine.execLqbell s
  | .fltreplay => Sys2Proof.Machine.execFltreplay s
  | .preempt => Sys2Proof.Machine.execPreempt s
  | .resume => Sys2Proof.Machine.execResume s
  | .timeStep => Sys2Proof.Machine.execTimeStep s
  | .heatctlClr => Sys2Proof.Machine.execHeatctlClr s
  | .hclr => Sys2Proof.Machine.execHclr s
  | .dirtyBitmapReadClear => Sys2Proof.Machine.execDirtyBitmapReadClear s
  | .quiesce => Sys2Proof.Machine.execQuiesce s
  | .commit => Sys2Proof.Machine.execCommit s
  | .release => Sys2Proof.Machine.execRelease s
  | .abort => Sys2Proof.Machine.execAbort s
  | .registerWrite => Sys2Proof.Machine.execRegisterWrite s
  | .restart => Sys2Proof.Machine.execRestart s
  | .clearfail => Sys2Proof.Machine.execClearfail s
  | .attest => Sys2Proof.Machine.execAttest s
  | .getcert => Sys2Proof.Machine.execGetcert s
  | .raisefloor => Sys2Proof.Machine.execRaisefloor s
  | .start => Sys2Proof.Machine.execStart s
  | .startStepTimeout => Sys2Proof.Machine.execStartStepTimeout s
  | .powerWindow => Sys2Proof.Machine.execPowerWindow s
  | .thermalTrip => Sys2Proof.Machine.execThermalTrip s
  | .fundamentalReset => Sys2Proof.Machine.execFundamentalReset s
  | .powerLoss => Sys2Proof.Machine.execPowerLoss s
  | .chunkDescriptorWrite => Sys2Proof.Machine.execChunkDescriptorWrite s
  | .badCommand => Sys2Proof.Machine.execBadCommand s

end Sys2Proof.Machine
end

