-- ==== Sys2Proof/Machine/Step.lean ====
section
/-!
DEFINITION. Machine/Step.lean: one step of the machine: time passes; then a due step of an agent is taken, or a ready
thread issues (log 3).
-/
namespace Sys2Proof.Machine

/-- A thread whose turn it is goes on with the instruction that it waits in, or fetches the next word, decodes it and runs
it. A word that decodes to no instruction is ILLEGAL_INSTRUCTION (02 R50). -/
def State.runThread (s : State) (t : ThreadRef) : Host.Outcome State Fault Refusal :=
  match s.blk? t.blk, s.thread? t with
  | some b, some th =>
    match th.hold.bind (·.ins) with
    | some i => exec i { s with cur := some t }
    | none =>
      let s := { s.setHold t none with cur := some t }
      match s.fetch b th with
      | .absent => .next (s.fetchFault t b th)
      | .prot => .next (s.fetchRefused t th)
      | .word w =>
        let s := s.fetchRead b th
        match decodeWord w with
        | some i => exec i s
        | none => exec (.illegalInstruction w) s
  | _, _ => .next s

/-- The wait in which a thread's next instruction stands before it can issue: for registers that are owed, or for an entry of an
empty decision queue. Such a thread is not ready (12 R312; 02 R38, R41). -/
def State.heldBack (s : State) (t : ThreadRef) : Option Wait :=
  match s.runThread t with
  | .next s' =>
    ((s'.thread? t).bind (·.hold)).bind (fun h =>
      if h.ins.isNone && (h.wait == .scoreboard || h.wait == .dqEntry) then some h.wait else none)
  | _ => none

/-- The threads whose next instruction is so held wait, before the ports choose. Only one with registers owed, or a warp whose
queue holds no entry for it, can be. -/
def State.screened (s : State) : State :=
  s.readyThreads.foldl (fun s x =>
    let t := x.2.1
    if x.2.2.2.hold.isNone && (!x.2.2.2.pends.isEmpty || (t.warp != 32 && (x.2.2.1.dqView t.warp).isNone)) then
      match s.heldBack t with
      | some w => s.setHold t (waiting w)
      | none => s
    else s) s

/-- The state at the start of a step: time has passed, and it is settled which threads are ready. -/
def State.opening (s : State) : State := s.tick.screened

/-- The channel on which a due step comes. Steps of one channel keep their order; the landings of a copy command, the replay of a
log entry, the data of a load, the walk of a thread, the steps of an engine, the wake and the adoption of a thread each come on
their own (10 R263, 21 R440, 22 R443; log 3). -/
def Event.lane : Event → List Nat
  | .copyLanding core id => [1, core, id]
  | .sideLogReplay core id => [2, core, id]
  | .loadDataReturn t id _ => [3, t.blk, t.warp, id]
  | .engineStart core e => [4, core, match e with | .array => 0 | .tile => 1 | .rank => 2]
  | .engineComplete core e => [4, core, match e with | .array => 0 | .tile => 1 | .rank => 2]
  | .pageWalk w => (match w.who with
    | .thread t => [5, t.blk, t.warp, if t.armE then 1 else 0]
    | .copy core id => [1, core, id]
    | .log core id => [2, core, id])
  | .wake w => [6, w.t.blk, w.t.warp]
  | .adoption t _ => [7, t.blk, t.warp]
  | .sliceBounce die pa _ => [8, die, pa]
  | _ => [0]

/-- The due steps that no earlier one of their channel stands before, each with the others. -/
def firstOf : List Event → List (Event × List Event)
  | [] => []
  | e :: rest =>
    (e, rest) :: ((firstOf rest).filter (fun x => Event.lane x.1 != Event.lane e)).map (fun x => (x.1, e :: x.2))

/-- Takes a due step: the first of a channel of the device's choice. -/
def State.takeEvent (s : State) : Option (Event × State) :=
  match firstOf s.inbox with
  | [] => none
  | [(e, rest)] => some (e, { s with inbox := rest })
  | x :: l =>
    let (n, s) := s.takeFree
    let y := (x :: l).getD (Config.freeNat (nth n 0) % (x :: l).length) x
    some (y.1, { s with inbox := y.2 })

/-- A due step is performed. -/
def State.runEvent (s : State) (e : Event) : Host.Outcome State Fault Refusal := exec e.instr { s with due := some e }

/-- One step. Where a thread is ready and a step is due, the device's choice decides (log 3). -/
def step (s : State) : Host.Outcome State Fault Refusal :=
  let s := s.opening
  match s.choose with
  | none =>
    match s.takeEvent with
    | none => .next s
    | some (e, v) => v.runEvent e
  | some (t, u) =>
    if s.inbox.isEmpty then u.runThread t
    else if Config.freeBool (nth u.free 0) then { u with free := u.free + 1 }.runThread t
    else
      match { s with free := u.free + 1 }.takeEvent with
      | none => .next s
      | some (e, v) => v.runEvent e

/-! ## A state whose next instruction is given (log 6) -/

/-- The thread that runs a word: the front thread where it may, else a COPY or a VECTOR warp. -/
def fetchWarp (w : Word) : Nat :=
  let m := w.toNat / 2 ^ 25
  let f := w.toNat % 16
  if m = 0x5E ∧ (f = 1 ∨ f = 3) then 5
  else if m = 0x1A ∨ m = 0x1C ∨ m = 0x1D ∨ (0x20 ≤ m ∧ m ≤ 0x38) ∨ m = 0x3D ∨ m = 0x3E ∨ m = 0x49 ∨ m = 0x4A
      ∨ (0x52 ≤ m ∧ m ≤ 0x55) ∨ (0x58 ≤ m ∧ m ≤ 0x5D) ∨ (m = 0x7C ∧ f = 1) ∨ m = 0x7F then 4
  else 32

/-- A block with four MATRIX warps, a VECTOR and a COPY warp, of which one thread has not exited. -/
def fetchBlock (warp : Nat) (pc : BitVec 56) : Block :=
  let mk := fun (n : Nat) (r : Role) =>
    let w := Warp.fresh r 112 pc
    if n = warp then w else { w with exited := 0xFFFF_FFFF, t := { w.t with live := false } }
  let f := Front.fresh pc
  { die := 0, core := 0, slot := 0, home := true, ctx := 0, pkt := 0,
    desc := { l4pa := 0, asid := 0, dbg := false, saveva := 0, trapva := 0 },
    allot := { dqd := 4, tiles := 32, bars := 16, bobs := 8, slots := 2, quorum := List.replicate 8 (1, 1),
               roles := [(.matrix, 112), (.matrix, 112), (.matrix, 112), (.matrix, 112), (.vector, 112), (.copy, 112)],
               scratch := 4096, xbytes := 512 },
    scrBase := 0, blockIx := 0, clIx := 0, clusIx := 0, gridM1 := 0, clusz := 1, coop := false, grp := 0, task := none, below := none,
    frame := none, frameVa := 0, frameKeys := [],
    warps := [mk 0 .matrix, mk 1 .matrix, mk 2 .matrix, mk 3 .matrix, mk 4 .vector, mk 5 .copy],
    front := if warp = 32 then f else { f with th := { f.th with live := false } },
    y := List.replicate 8 0, scratch := [], absent := [], swapped := false, spoison := [], ssums := [], tile := [], tvalid := 0, tdirty := 0, bheld := [],
    dq := [], bobs := List.replicate 8 (List.replicate 2 { f := false, e := false, prod := 0, cons := 0 }),
    bars := List.replicate 16 (Barrier.fresh (List.range 6 ++ [32])), counts := List.replicate 16 0, attUsed := false,
    recUsed := false, attSave := [], recSave := [], started := true, argReq := false, ending := false, killed := none }

/-- The page and the address of the word. -/
def fetchPc : BitVec 56 := 0x4000

/-- `s` with the word at the program counter of the one thread that can issue, and the translation of its page held. -/
def State.withFetchWord (s : State) (nbits w : Nat) : State :=
  let word := BitVec.ofNat 32 (w % 2 ^ nbits)
  { s with
    pkg := { s.pkg with phase := .ready }
    blocks := [(0, fetchBlock (fetchWarp word) fetchPc)]
    tlb := [{ cluster := 0, asid := 0, glb := true, va := 0x4000, pa := 0x4000, bits := 14, perm := 0xF }]
    mem := cwrite s.mem 0x4000 (leBytes 4 word.toNat)
    fresh := s.fresh + 1
    inbox := [] }

end Sys2Proof.Machine
end

