-- ==== Sys2Proof/Safety.lean ====
section
/-!
DEFINITION. Safety.lean: the terms that claims are stated in: what a safe step and a safe run are, when an instruction
issues with nothing in its way, what it leaves when it completes, and what a state keeps.
-/
namespace Sys2Proof

/-- A step that stops neither with a fault nor with a refusal. -/
def SafeStep (s : Machine.State) : Prop := ∃ t, Machine.step s = .next t

/-- `n` steps, each of them safe. -/
def SafeRun (n : Nat) (s : Machine.State) : Prop := ∃ t, core.run n s = .next t

end Sys2Proof

namespace Sys2Proof.Machine

/-! ## Issue -/

/-- An instruction issues with nothing in its way (02 R41, R45, R46; 12 R309): `c` is the context of the live thread that
issues it, which has not issued it before, nor anything that it waits in; a word under a predicate block has an active lane; none of the refusals 1 to 6 of
R45 stands; no named register is owed; an entry that it pops is there; and it breaks no lookahead promise. `sp` says what
the instruction names. -/
structure Clear (s : State) (i : Instr) (sp : Spec) (c : Ctx) : Prop where
  thread : s.ctx? = some c
  fresh  : c.resumed = false
  start  : c.stage = 0
  lanes  : (c.covered && c.act == 0) = false
  legal  : staticRefusal s c i sp false = none
  unowed : c.scoreboard sp = false
  entry  : (popsDq sp && !c.front && c.entry.isNone) = false
  kept   : c.breaks sp = false

/-- A live thread goes on with the instruction that it has issued and waits in; one that breaks a lookahead promise goes on
only where that is not checked (15 R391). -/
structure Resumed (s : State) (i : Instr) (sp : Spec) (c : Ctx) : Prop where
  thread : s.ctx? = some c
  issued : c.th.hold.bind (·.ins) = some i
  kept   : (c.b.desc.dbg && c.breaks sp) = false

/-- The context as the operands are read: code 121 is the entry that the warp pops (02 R38). -/
def Ctx.operands (c : Ctx) (sp : Spec) : Ctx :=
  c.withEntry (if popsDq sp && !c.front then c.entry else none)

/-- What completion leaves of `s`, the state with the instruction's own effect: the entry is popped, the register writes are
made, and the PC goes where `nx` says. -/
def State.done (s : State) (sp : Spec) (c : Ctx) (ws : List RegWrite) (nx : Next) : State :=
  s.complete sp (c.operands sp) true ws nx

/-- What completion leaves when an instruction that had waited ends: it is counted now. -/
def State.doneLate (s : State) (sp : Spec) (c : Ctx) (ws : List RegWrite) (nx : Next) : State :=
  (s.countIssue c).complete sp c false ws nx

/-- A thread that waits in an instruction that has issued; it is counted when it completes. -/
def State.waits (s : State) (i : Instr) (sp : Spec) (c : Ctx) (w : Wait) (stage : Nat) (fresh : Bool) : State :=
  ((if fresh then s.uncountIssue c else s).popEntryOf sp c fresh).updThread c.t (fun th =>
    { th with
      readyAt := s.clock
      hold := some { wait := w, ins := some i, stage := stage, answer := none, dq := c.dq, dqSeq := c.dqSeq,
                     rgn := c.regions sp } })

/-- What an instruction does beyond its issue, from the operands and the state with the issue counted: the state with its
own effect, the register writes, and where the PC goes. -/
abbrev Effect := Ctx → State → State × List RegWrite × Next

/-- An effect that only writes registers. -/
def writing (w : Ctx → List RegWrite) : Effect := fun x s => (s, w x, .seq)
/-- An effect on the state, with no register write. -/
def changing (g : Ctx → State → State) : Effect := fun x s => (g x s, [], .seq)

/-- Whenever `i` issues with nothing in its way and `p` holds of its operands and of the state with the issue counted, exec
answers the next state in which `i` has completed with the effect `f`. -/
def CompletesWhen (i : Instr) (sp : Spec) (p : Ctx → State → Prop) (f : Effect) : Prop :=
  ∀ (s : State) (c : Ctx), Clear s i sp c → p (c.operands sp) (s.countIssue c) →
    exec i s = .next ((f (c.operands sp) (s.countIssue c)).1.done sp c (f (c.operands sp) (s.countIssue c)).2.1
      (f (c.operands sp) (s.countIssue c)).2.2)

/-- The same with no condition on the operands or the state beyond `Clear`. -/
def Completes (i : Instr) (sp : Spec) (f : Effect) : Prop :=
  ∀ (s : State) (c : Ctx), Clear s i sp c →
    exec i s = .next ((f (c.operands sp) (s.countIssue c)).1.done sp c (f (c.operands sp) (s.countIssue c)).2.1
      (f (c.operands sp) (s.countIssue c)).2.2)

/-- Whenever `i` goes on from its wait and `p` holds, exec answers the next state in which it has completed. -/
def EndsWhen (i : Instr) (sp : Spec) (p : Ctx → State → Prop) (f : Effect) : Prop :=
  ∀ (s : State) (c : Ctx), Resumed s i sp c → p c s →
    exec i s = .next ((f c s).1.doneLate sp c (f c s).2.1 (f c s).2.2)

/-- Whenever `i` issues with nothing in its way and `p` holds, it has done `f`'s state and waits as `f` says. -/
def WaitsWhen (i : Instr) (sp : Spec) (p : Ctx → State → Prop) (f : Ctx → State → State × Wait × Nat) : Prop :=
  ∀ (s : State) (c : Ctx), Clear s i sp c → p (c.operands sp) (s.countIssue c) →
    exec i s = .next ((f (c.operands sp) (s.countIssue c)).1.waits i sp (c.operands sp)
      (f (c.operands sp) (s.countIssue c)).2.1 (f (c.operands sp) (s.countIssue c)).2.2 true)

/-- Whenever `i` issues with nothing in its way and `p` holds, it is refused with `f`'s fault code, `ADDR` and lanes, and has
no other effect: the state refused is the one before its issue was counted. -/
def RefusedWhen (i : Instr) (sp : Spec) (p : Ctx → State → Prop) (f : Ctx → State → Nat × Nat × Word) : Prop :=
  ∀ (s : State) (c : Ctx), Clear s i sp c → p (c.operands sp) (s.countIssue c) →
    exec i s = .next (s.refuse (c.operands sp) (f (c.operands sp) (s.countIssue c)).1
      (f (c.operands sp) (s.countIssue c)).2.1 (f (c.operands sp) (s.countIssue c)).2.2)

/-- The PC of the issuing thread stands before its path's reconvergence address, so that completion ends no path (06 R144). -/
def Ctx.straight (c : Ctx) (pc : BitVec 56) : Bool :=
  match c.b.curRec c.t with
  | some r => r.pc != pc
  | none => true

/-! ## Accesses through a region register -/

/-- The checks of 08 R191 pass: the register's kind grants the access in its space, the borrow is whole and not lost, and every
byte range lies inside. -/
structure Granted (g : Region) (right : Right) (bounds : List Acc) : Prop where
  kind   : g.kind ≠ 0
  whole  : g.splitp = false
  grants : kindGrants g.kind g.space right = true
  held   : g.lost = false
  inside : ∀ x ∈ bounds, x.2.1 + x.2.2 ≤ g.bytes

/-- Nothing stands before the accesses: their pages are mapped and allow them (11 R285), no watchpoint matches (15 R389),
their scratch lines are present (09 R219), and no granule waits for reserve (11 R291). -/
structure Unhindered (c : Ctx) (s : State) (g : Region) (acc : Access) (kind : Nat) (accs : List Acc) : Prop where
  mapped    : pass c s g acc accs = .go
  unwatched : watched c s g kind accs = none
  present   : heldUp c s g acc accs = none

/-- An instruction of chapter 07 enters the queue of its engine, once the scratch bytes `needs` that it reads at issue are
present and the queue has room (07 R160, R162): `held` are the B registers that it holds, `o` what the engine takes. -/
def EntersWhen (i : Instr) (sp : Spec) (eng : Engine) (p : Ctx → State → Prop) (needs : Ctx → List (Nat × Nat))
    (held : Ctx → List (Nat × Nat × Nat)) (o : Ctx → EngineOp) : Prop :=
  CompletesWhen i sp (fun x s => p x s ∧ x.b.absentOf (needs x) = none ∧
      ((s.core x.b.coreIx).queueOf eng).countP (fun y => !y.started) < (match eng with | .array => 8 | .tile => 4 | .rank => 4))
    (changing fun x s => s.enterEngine x eng (held x) (o x))

/-! ## What a step leaves as it was -/

/-- Every byte of memory reads as before. -/
def SameMemory (s t : State) : Prop := ∀ k, cget t.mem k = cget s.mem k

/-- Every byte of memory outside `n` bytes at `k` reads as before. -/
def SameOutside (s t : State) (k n : Nat) : Prop := ∀ a, (a < k ∨ k + n ≤ a) → cget t.mem a = cget s.mem a

/-- Everything of the machine but the threads' blocks, the performance counters of the cores, and the model's own counter of
free values is as before. -/
def SameMachine (s t : State) : Prop :=
  { t with blocks := s.blocks, cores := s.cores, free := s.free } = s

end Sys2Proof.Machine
end

