-- ==== Sys2Proof/Certificates/Slice0/Obligations.lean ====
section
/-!
DEFINITION. Certificates/Slice0/Obligations.lean: the statements for the provers. `Clear`, `CompletesWhen` and the other words that
they use stand in Safety.lean; each docstring names the rules of the spec that its statement comes from.
-/
section
open Sys2Proof Sys2Proof.Machine

/-! ## Integer, logic, shift and move instructions (04 R89-R107) -/

/-- R95, R92, with the operand forms of R35-R39: per active lane, D takes the exact sum, difference, product, negation,
absolute value or D + A × B, fitted once to the type.
R100 with R92: MIN, MAX and their natural forms; the width code counts 32, 64, 16 and 8 bits. -/
def Obligations.ArithmeticCompletes : Prop :=
  (∀ (d a b : BitVec 7) (sat : BitVec 1) (ty : BitVec 3),
      let one := plain .both [dstOpd (ityWide ty) d, srcOpd (ityWide ty) a]
      let two := plain .both [dstOpd (ityWide ty) d, srcOpd (ityWide ty) a, srcOpd (ityWide ty) b]
      let three := plain .both [dstOpd (ityWide ty) d, srcOpd (ityWide ty) d, srcOpd (ityWide ty) a, srcOpd (ityWide ty) b]
      let out := fun (f : Ctx → Nat → Int) => writing (fun x => x.lanes.flatMap (fun l => x.putInt ty sat d l (f x l)))
      Completes (.add d a b sat ty) two (out fun x l => x.int ty a l + x.int ty b l) ∧
      Completes (.sub d a b sat ty) two (out fun x l => x.int ty a l - x.int ty b l) ∧
      Completes (.mul d a b sat ty) two (out fun x l => x.int ty a l * x.int ty b l) ∧
      Completes (.neg d a sat ty) one (out fun x l => - x.int ty a l) ∧
      Completes (.abs d a sat ty) one (out fun x l => |x.int ty a l|) ∧
      Completes (.mad d a b sat ty) three (out fun x l => x.int ty d l + x.int ty a l * x.int ty b l)) ∧
  (∀ (d a b : BitVec 7) (w : BitVec 2),
      let sp := plain .both [dstOpd (w == 1) d, srcOpd (w == 1) a, srcOpd (w == 1) b]
      let out := fun (ty : BitVec 3) (f : Int → Int → Int) =>
        writing (fun x => x.lanes.flatMap (fun l => x.putInt ty 0 d l (f (x.int ty a l) (x.int ty b l))))
      let signed := BitVec.ofNat 3 (2 * w.toNat)
      let natural := BitVec.ofNat 3 (2 * w.toNat + 1)
      Completes (.min d a b w) sp (out signed fun x y => if x ≤ y then x else y) ∧
      Completes (.max d a b w) sp (out signed fun x y => if x ≤ y then y else x) ∧
      Completes (.minn d a b w) sp (out natural fun x y => if x ≤ y then x else y) ∧
      Completes (.maxn d a b w) sp (out natural fun x y => if x ≤ y then y else x))

/-- R92, R70: the value that an integer result is fitted to, for every type, and what the register that takes it holds: with
`.SAT` the value held to the type's range, else the one value of the range that is congruent modulo 2^w; extended to 32 or 64
bits as the type is signed. -/
def Obligations.FitRule : Prop :=
  ∀ (ty : BitVec 3) (v : Int),
    let w := ityWidth ty
    let lo : Int := if itySigned ty then -2 ^ (w - 1) else 0
    let hi : Int := if itySigned ty then 2 ^ (w - 1) - 1 else 2 ^ w - 1
    let r := fun (sat : Bool) => asInt w (itySigned ty) (fit ty sat v)
    let reg : Nat := if ityWide ty then 64 else 32
    (∀ sat, lo ≤ r sat ∧ r sat ≤ hi) ∧
    (2 ^ w : Int) ∣ v - r false ∧
    r true = (if v < lo then lo else if hi < v then hi else v) ∧
    (∀ sat, ((fit ty sat v : Nat) : Int) = r sat % 2 ^ reg)

/-- R96, R97, R98, R105, R106, R107: ADDI, LEA, the moves, SEL, the upper halves of products, and MADW. -/
def Obligations.MovesCompletes : Prop :=
  ∀ (d a b : BitVec 7) (i11 : BitVec 11) (i18 : BitVec 18) (w n : BitVec 1) (sc : BitVec 2) (k : BitVec 3),
    let wide := w == 1
    let put := fun (x : Ctx) (signed : Bool) (l : Nat) (v32 : Word) (v64 : DWord) =>
      if wide then x.w64 d.toNat l v64 else x.w32 d.toNat l signed v32
    let each := fun (f : Ctx → Nat → List RegWrite) => writing (fun x => x.lanes.flatMap (f x))
    let two := plain .both [dstOpd wide d, srcOpd wide a, srcOpd wide b]
    Completes (.addi d a i11) (plain .both [.dst d.toNat, .src a.toNat]) (writing fun x =>
      if x.front then x.w64 d.toNat 0 (x.r64 a.toNat 0 + i11.signExtend 64)
      else x.lanes.flatMap (fun l => x.w32 d.toNat l true (x.r32 a.toNat l + i11.signExtend 32))) ∧
    Completes (.lea d a b sc) (plain .both [.dst d.toNat, .src a.toNat, .src b.toNat]) (writing fun x =>
      if x.front then x.w64 d.toNat 0 (x.r64 a.toNat 0 + x.r64 b.toNat 0 <<< sc.toNat)
      else x.lanes.flatMap (fun l => x.w32 d.toNat l false (x.r32 a.toNat l + x.r32 b.toNat l <<< sc.toNat))) ∧
    Completes (.mov d a w) (plain .both [dstOpd wide d, srcOpd wide a])
      (each fun x l => put x false l (x.r32 a.toNat l) (x.r64 a.toNat l)) ∧
    Completes (.movi d i18) (plain .both [.dst d.toNat]) (each fun x l => x.w32 d.toNat l true (i18.signExtend 32)) ∧
    Completes (.movh d i18) (plain .both [.dst d.toNat, .src d.toNat])
      (each fun x l => x.w32 d.toNat l true (i18 ++ (x.r32 d.toNat l).setWidth 14)) ∧
    Completes (.sel d a b w k) (plain .warp [dstOpd wide d, srcOpd wide a, srcOpd wide b]) (each fun x l =>
      if (x.w.kreg k.toNat).getLsbD l then put x false l (x.r32 a.toNat l) (x.r64 a.toNat l)
      else put x false l (x.r32 b.toNat l) (x.r64 b.toNat l)) ∧
    Completes (.mulh d a b w) two (each fun x l =>
      put x true l (((x.r32 a.toNat l).signExtend 64 * (x.r32 b.toNat l).signExtend 64).extractLsb' 32 32)
        (((x.r64 a.toNat l).signExtend 128 * (x.r64 b.toNat l).signExtend 128).extractLsb' 64 64)) ∧
    Completes (.mulhn d a b w) two (each fun x l =>
      put x false l (((x.r32 a.toNat l).setWidth 64 * (x.r32 b.toNat l).setWidth 64).extractLsb' 32 32)
        (((x.r64 a.toNat l).setWidth 128 * (x.r64 b.toNat l).setWidth 128).extractLsb' 64 64)) ∧
    Completes (.madw d a b n) (plain .both [.dst64 d.toNat, .src64 d.toNat, .src a.toNat, .src b.toNat]) (each fun x l =>
      x.w64 d.toNat l (x.r64 d.toNat l +
        (if n = 0 then (x.r32 a.toNat l).signExtend 64 * (x.r32 b.toNat l).signExtend 64
         else (x.r32 a.toNat l).setWidth 64 * (x.r32 b.toNat l).setWidth 64)))

/-- R99: division and remainder truncate toward zero, where no active lane's divisor is 0.
R99, 15 R372: a divisor of 0 in an active lane refuses the instruction with INT_DIVIDE, and the record names the lanes; the
refusals 1 to 6 of R45 come before it. -/
def Obligations.DivisionRule : Prop :=
  (∀ (d a b : BitVec 7) (la : BitVec 4),
      let sp := plainLa .both [.dst d.toNat, .src a.toNat, .src b.toNat] la
      let ok := fun (x : Ctx) (_ : State) => ∀ l ∈ x.lanes, x.r32 b.toNat l ≠ 0
      let out := fun (signed : Bool) (f : Word → Word → Word) =>
        writing (fun x => x.lanes.flatMap (fun l => x.w32 d.toNat l signed (f (x.r32 a.toNat l) (x.r32 b.toNat l))))
      CompletesWhen (.div d a b la) sp ok (out true BitVec.sdiv) ∧
      CompletesWhen (.divn d a b la) sp ok (out false BitVec.udiv) ∧
      CompletesWhen (.rem d a b la) sp ok (out true BitVec.srem) ∧
      CompletesWhen (.remn d a b la) sp ok (out false BitVec.umod)) ∧
  (∀ (d a b : BitVec 7) (la : BitVec 4),
      let sp := plainLa .both [.dst d.toNat, .src a.toNat, .src b.toNat] la
      let bad := fun (x : Ctx) => x.lanes.filter (fun l => x.r32 b.toNat l == 0)
      let hit := fun (x : Ctx) (_ : State) => ∃ l ∈ x.lanes, x.r32 b.toNat l = 0
      ∀ i ∈ [Instr.div d a b la, .divn d a b la, .rem d a b la, .remn d a b la],
        RefusedWhen i sp hit (fun x _ => (15, 0, if x.front then 0 else maskOf (bad x))) ∧
        ∀ (s : State) (c : Ctx) (code : Nat), s.ctx? = some c → c.resumed = false →
          staticRefusal s c i sp (c.covered && c.act == 0) = some code → exec i s = .next (s.refuse c code 0 c.allLanes))

/-- R101, R102: logic and shifts over 32 or 64 bits; a count is taken modulo the width. -/
def Obligations.LogicAndShiftsCompletes : Prop :=
  ∀ (d a b : BitVec 7) (w : BitVec 1) (n : BitVec 6),
    let wide := w == 1
    let two := plain .both [dstOpd wide d, srcOpd wide a, srcOpd wide b]
    let by_ := plain .both [dstOpd wide d, srcOpd wide a, .src b.toNat]
    let one := plain .both [dstOpd wide d, srcOpd wide a]
    let out := fun (signed : Bool) (f : Ctx → Nat → Word) (g : Ctx → Nat → DWord) => writing (fun x => x.lanes.flatMap (fun l =>
      if wide then x.w64 d.toNat l (g x l) else x.w32 d.toNat l signed (f x l)))
    let A := fun (x : Ctx) (l : Nat) => x.r32 a.toNat l
    let B := fun (x : Ctx) (l : Nat) => x.r32 b.toNat l
    let AA := fun (x : Ctx) (l : Nat) => x.r64 a.toNat l
    let BB := fun (x : Ctx) (l : Nat) => x.r64 b.toNat l
    let m := fun (x : Ctx) (l : Nat) => (B x l).toNat % 32
    let mm := fun (x : Ctx) (l : Nat) => (B x l).toNat % 64
    Completes (.and d a b w) two (out false (fun x l => A x l &&& B x l) (fun x l => AA x l &&& BB x l)) ∧
    Completes (.or d a b w) two (out false (fun x l => A x l ||| B x l) (fun x l => AA x l ||| BB x l)) ∧
    Completes (.xor d a b w) two (out false (fun x l => A x l ^^^ B x l) (fun x l => AA x l ^^^ BB x l)) ∧
    Completes (.andn d a b w) two (out false (fun x l => A x l &&& ~~~(B x l)) (fun x l => AA x l &&& ~~~(BB x l))) ∧
    Completes (.not d a w) one (out false (fun x l => ~~~(A x l)) (fun x l => ~~~(AA x l))) ∧
    Completes (.shl d a b w) by_ (out false (fun x l => A x l <<< m x l) (fun x l => AA x l <<< mm x l)) ∧
    Completes (.shr d a b w) by_ (out false (fun x l => A x l >>> m x l) (fun x l => AA x l >>> mm x l)) ∧
    Completes (.sar d a b w) by_ (out true (fun x l => (A x l).sshiftRight (m x l)) (fun x l => (AA x l).sshiftRight (mm x l))) ∧
    Completes (.rot d a b w) by_ (out false (fun x l => (A x l).rotateLeft (m x l)) (fun x l => (AA x l).rotateLeft (mm x l))) ∧
    Completes (.shli d a w n) one (out false (fun x l => A x l <<< n.toNat) (fun x l => AA x l <<< n.toNat)) ∧
    Completes (.shri d a w n) one (out false (fun x l => A x l >>> n.toNat) (fun x l => AA x l >>> n.toNat)) ∧
    Completes (.sari d a w n) one (out true (fun x l => (A x l).sshiftRight n.toNat) (fun x l => (AA x l).sshiftRight n.toNat))

/-- R103, R104: bit fields, whose position is taken modulo the width and whose length is at most the width, and counts. -/
def Obligations.BitFieldsCompletes : Prop :=
  ∀ (d a b : BitVec 7) (w : BitVec 1),
    let wide := w == 1
    let n : Nat := if wide then 64 else 32
    let A := fun (x : Ctx) (l : Nat) => if wide then x.r64 a.toNat l else (x.r32 a.toNat l).setWidth 64
    let D := fun (x : Ctx) (l : Nat) => if wide then x.r64 d.toNat l else (x.r32 d.toNat l).setWidth 64
    let pos := fun (x : Ctx) (l : Nat) => (x.r32 b.toNat l).toNat % n
    let len := fun (x : Ctx) (l : Nat) => min ((x.r32 b.toNat l).toNat / 256 % 128) n
    let field := fun (x : Ctx) (l : Nat) => (A x l).toNat / 2 ^ pos x l % 2 ^ len x l
    let ones := fun (x : Ctx) (l : Nat) => (BitVec.ofNat 64 (2 ^ len x l - 1)) <<< pos x l
    let ctl := plain .both [dstOpd wide d, srcOpd wide a, .src b.toNat]
    let put := fun (x : Ctx) (signed : Bool) (l : Nat) (v : DWord) =>
      if wide then x.w64 d.toNat l v else x.w32 d.toNat l signed (v.setWidth 32)
    let one := plain .both [.dst d.toNat, srcOpd wide a]
    Completes (.bfxn d a b w) ctl (writing fun x => x.lanes.flatMap (fun l => put x false l (BitVec.ofNat 64 (field x l)))) ∧
    Completes (.bfx d a b w) ctl (writing fun x => x.lanes.flatMap (fun l =>
      put x true l (if len x l = 0 then 0 else BitVec.ofInt 64 (Int.bmod (field x l) (2 ^ len x l))))) ∧
    Completes (.bfi d a b w) (plain .both [dstOpd wide d, srcOpd wide d, srcOpd wide a, .src b.toNat])
      (writing fun x => x.lanes.flatMap (fun l =>
        put x false l ((D x l &&& ~~~(ones x l)) ||| ((A x l <<< pos x l) &&& ones x l)))) ∧
    Completes (.popc d a w) one (writing fun x => x.lanes.flatMap (fun l =>
      x.w32 d.toNat l false (BitVec.ofNat 32 ((List.range n).countP (fun i => (A x l).getLsbD i))))) ∧
    Completes (.clz d a w) one (writing fun x => x.lanes.flatMap (fun l =>
      x.w32 d.toNat l false (BitVec.ofNat 32 ((List.range n).takeWhile (fun i => !(A x l).getLsbD (n - 1 - i))).length))) ∧
    Completes (.ctz d a w) one (writing fun x => x.lanes.flatMap (fun l =>
      x.w32 d.toNat l false (BitVec.ofNat 32 ((List.range n).takeWhile (fun i => !(A x l).getLsbD i)).length))) ∧
    Completes (.brev d a w) (plain .both [dstOpd wide d, srcOpd wide a]) (writing fun x => x.lanes.flatMap (fun l =>
      if wide then x.w64 d.toNat l (x.r64 a.toNat l).reverse else x.w32 d.toNat l false (x.r32 a.toNat l).reverse))

/-! ## Compares, lane exchange, votes and mask registers (04 R108-R110, 05 R123, 06 R136-R138) -/

/-- R108, R92: CMP and CMPI set the active lanes' bits of a mask register to the outcome of the relation, and keep the other
bits. CMPI compares with its sign-extended immediate, as signed numbers under codes 0 to 5 and as natural ones under 8 to 13. -/
def Obligations.ComparesComplete : Prop :=
  ∀ (cond : BitVec 4) (k ty : BitVec 3) (a b : BitVec 7) (imm : BitVec 11),
    let rel := fun (n : Nat) (u v : Int) =>
      [decide (u = v), decide (u ≠ v), decide (u < v), decide (u ≤ v), decide (u > v), decide (u ≥ v)].getD n false
    let bits := fun (p : Ctx → Nat → Bool) => changing (fun x s => s.setK x.t k.toNat x.act (maskWhere x.lanes (p x)))
    Completes (.cmp cond k a b ty) (plain .warp [srcOpd (ityWide ty) a, srcOpd (ityWide ty) b])
      (bits fun x l => rel cond.toNat (x.int ty a l) (x.int ty b l)) ∧
    Completes (.cmpi cond k a imm) (plain .warp [.src a.toNat])
      (bits fun x l => if cond.toNat < 8 then rel cond.toNat (x.r32 a.toNat l).toInt imm.toInt
        else rel (cond.toNat - 8) (x.r32 a.toNat l).toNat (imm.signExtend 32).toNat) ∧
    (∀ (old act new : Word) (l : Nat),
      (mergeMask old act new).getLsbD l = if act.getLsbD l then new.getLsbD l else old.getLsbD l) ∧
    (∀ (lanes : List Nat) (p : Nat → Bool) (l : Nat), l < 32 → (maskWhere lanes p).getLsbD l = (lanes.contains l && p l))

/-- R109, R110: a lane that SHFL names out of range, or that is not active, gives way to the lane's own value; votes are
taken over the active lanes. -/
def Obligations.LaneExchangeCompletes : Prop :=
  ∀ (d a b : BitVec 7) (k : BitVec 3),
    let sp := plain .warp [.dst d.toNat, .src a.toNat, .src b.toNat]
    let from_ := fun (src : Nat → Nat → Int) => writing (fun x => x.lanes.flatMap (fun l =>
      let m := src l (x.r32 b.toNat l).toNat
      x.w32 d.toNat l false (if 0 ≤ m ∧ m < 32 ∧ m.toNat ∈ lanesOf x.act then x.r32 a.toNat m.toNat else x.r32 a.toNat l)))
    let vote := fun (f : Word → Word → Word) => writing (fun x =>
      x.lanes.flatMap (fun l => x.w32 d.toNat l false (f (x.w.kreg k.toNat &&& x.act) x.act)))
    Completes (.shflIdx d a b) sp (from_ fun _ n => n) ∧
    Completes (.shflUp d a b) sp (from_ fun l n => (l : Int) - n) ∧
    Completes (.shflDn d a b) sp (from_ fun l n => l + n) ∧
    Completes (.shflXor d a b) sp (from_ fun l n => (l ^^^ (n % 32) : Nat)) ∧
    Completes (.voteAny d k) (plain .warp [.dst d.toNat]) (vote fun m _ => if m ≠ 0 then 1 else 0) ∧
    Completes (.voteAll d k) (plain .warp [.dst d.toNat]) (vote fun m act => if m = act then 1 else 0) ∧
    Completes (.voteBal d k) (plain .warp [.dst d.toNat]) (vote fun m _ => m)

/-- R136, R138: mask registers change in the bits of the active lanes only; KGET, KSAVE and EXMGET read whole masks.
R138: EXMSET is refused where no lane of the path mask would be left. -/
def Obligations.MasksComplete : Prop :=
  (∀ (d a b : BitVec 3) (v : BitVec 7),
      let op := fun (f : Word → Word → Word) =>
        changing (fun x s => s.setK x.t d.toNat x.act (f (x.w.kreg a.toNat) (x.w.kreg b.toNat)))
      Completes (.kand d a b) (plain .warp []) (op fun x y => x &&& y) ∧
      Completes (.kor d a b) (plain .warp []) (op fun x y => x ||| y) ∧
      Completes (.kxor d a b) (plain .warp []) (op fun x y => x ^^^ y) ∧
      Completes (.kandn d a b) (plain .warp []) (op fun x y => x &&& ~~~y) ∧
      Completes (.knot d a) (plain .warp []) (op fun x _ => ~~~x) ∧
      Completes (.kmov d a) (plain .warp []) (op fun x _ => x) ∧
      Completes (.kset d v) (plain .warp [.src v.toNat])
        (changing fun x s => s.setK x.t d.toNat x.act (maskWhere x.lanes (fun l => decide (x.r32 v.toNat l ≠ 0)))) ∧
      Completes (.kget v a) (plain .warp [.dst v.toNat])
        (writing fun x => x.lanes.flatMap (fun l => x.w32 v.toNat l false (x.w.kreg a.toNat))) ∧
      Completes (.ksave v) (plain .warp [.run v.toNat 8 true])
        (writing fun x => x.lanes.flatMap (fun l => (List.range 8).flatMap (fun j => x.w32 (v.toNat + j) l false (x.w.kreg j)))) ∧
      Completes (.krest v) (plain .warp [.run v.toNat 8 false]) (changing fun x s => (List.range 8).foldl (fun s j =>
        s.setK x.t j x.act (maskWhere x.lanes (fun l => (x.r32 (v.toNat + j) l).getLsbD l))) s) ∧
      Completes (.exmget v) (plain .warp [.dst v.toNat])
        (writing fun x => x.lanes.flatMap (fun l => x.w32 v.toNat l false x.th.exm)) ∧
      CompletesWhen (.exmset v) (plain .warp [.src v.toNat]) (fun x _ => x.r32 v.toNat x.low &&& x.th.path ≠ 0)
        (changing fun x s => s.updThread x.t (fun th => { th with exm := x.r32 v.toNat x.low &&& x.th.path }))) ∧
  (∀ (a : BitVec 7), RefusedWhen (.exmset a) (plain .warp [.src a.toNat])
      (fun x _ => x.r32 a.toNat x.low &&& x.th.path = 0) (fun x _ => (1, 0, x.allLanes)))

/-! ## Floating point (03 R61-R69, 05 R116-R128) -/

/-- R116, R119-R122, R125: every element of every active lane is computed on its own under the thread's rounding mode, and
the flags of all of them go into FMT. A packed type has two elements. How the functions of R125 are rounded is log 10. -/
def Obligations.FloatArithmeticCompletes : Prop :=
  ∀ (d a b : BitVec 7) (ty : BitVec 2) (la : BitVec 4),
    let wide := fun (t : BitVec 2) => t == 1
    let elem := fun (t : BitVec 2) (v : Nat) (j : Nat) => if t.toNat < 2 then v else v / 2 ^ (16 * j) % 2 ^ 16
    let count := fun (t : BitVec 2) => if t.toNat < 2 then 1 else 2
    let F := fun (t : BitVec 2) => [fp32, fp64, fp16, bf16].getD t.toNat bf16
    -- an element's result and flags from its operand codes
    let out := fun (t : BitVec 2) (ops : List (BitVec 7)) (f : Ctx → Nat → List Nat → Nat × Nat) => (fun x s =>
      let r := fun (l j : Nat) => f x l (ops.map (fun o => elem t (x.nat (wide t) o l) j))
      let each := List.range (count t)
      (s.addFlags x.t (orFlags (x.lanes.flatMap (fun l => each.map (fun j => (r l j).2)))),
       x.lanes.flatMap (fun l => x.put (wide t) false d l ((each.map (fun j => (r l j).1 * 2 ^ (16 * j))).sum)),
       Next.seq) : Effect)
    let two := fun (t : BitVec 2) => plain .warp [dstOpd (wide t) d, srcOpd (wide t) a, srcOpd (wide t) b]
    let one := fun (t : BitVec 2) => plain .warp [dstOpd (wide t) d, srcOpd (wide t) a]
    let late := fun (sp : Spec) => { sp with la := some la.toNat }
    let rm := fun (x : Ctx) => fmtRm x.th.fmt
    let bin := fun (t : BitVec 2) (f : Fmt → Nat → FVal → FVal → Nat × Nat) =>
      out t [a, b] (fun x _ v => f (F t) (rm x) ((F t).val (v.getD 0 0)) ((F t).val (v.getD 1 0)))
    let un := fun (f : Fmt → Nat → FVal → Nat × Nat) => out ty [a] (fun x _ v => f (F ty) (rm x) ((F ty).val (v.getD 0 0)))
    Completes (.fadd d a b ty) (two ty) (bin ty fun f m u v => f.add m u v) ∧
    Completes (.fsub d a b ty) (two ty) (bin ty fun f m u v => f.add m u v.neg) ∧
    Completes (.fmul d a b ty) (two ty) (bin ty fun f m u v => f.mul m u v) ∧
    Completes (.ffma d a b ty) (plain .warp [dstOpd (wide ty) d, srcOpd (wide ty) d, srcOpd (wide ty) a, srcOpd (wide ty) b])
      (out ty [a, b, d] fun x _ v =>
        (F ty).fma (rm x) ((F ty).val (v.getD 0 0)) ((F ty).val (v.getD 1 0)) ((F ty).val (v.getD 2 0))) ∧
    Completes (.fmin d a b ty) (two ty) (out ty [a, b] fun _ _ v => (F ty).minmax false (v.getD 0 0) (v.getD 1 0)) ∧
    Completes (.fmax d a b ty) (two ty) (out ty [a, b] fun _ _ v => (F ty).minmax true (v.getD 0 0) (v.getD 1 0)) ∧
    Completes (.fabs d a ty) (one ty) (out ty [a] fun _ _ v => (v.getD 0 0 % 2 ^ ((F ty).width - 1), 0)) ∧
    Completes (.fneg d a ty) (one ty) (out ty [a] fun _ _ v => (v.getD 0 0 ^^^ 2 ^ ((F ty).width - 1), 0)) ∧
    Completes (.fdivF32 d a b la) (late (two 0)) (bin 0 fun f m u v => f.div m u v) ∧
    Completes (.fdivF64 d a b la) (late (two 1)) (bin 1 fun f m u v => f.div m u v) ∧
    Completes (.fscale d a b ty) (plain .warp [dstOpd (wide ty) d, srcOpd (wide ty) a, .src b.toNat])
      (out ty [a] fun x l v => (F ty).scale (rm x) ((F ty).val (v.getD 0 0)) (x.r32 b.toNat l).toInt) ∧
    Completes (.frnd d a ty) (one ty) (out ty [a] fun x _ v => (F ty).rnd (rm x) (v.getD 0 0)) ∧
    Completes (.frcp d a ty la) (late (one ty)) (un fun f m v => f.div m (.fin false 1 0) v) ∧
    Completes (.frsq d a ty la) (late (one ty)) (un fun f m v => f.rsqrt m v) ∧
    Completes (.fsqrt d a ty la) (late (one ty)) (un fun f m v => f.sqrt m v) ∧
    Completes (.fexp2 d a ty la) (late (one ty)) (un fun f m v => f.exp2 (if ty = 0 then 0 else m) v) ∧
    Completes (.flog2 d a ty la) (late (one ty)) (un fun f m v => f.log2 (if ty = 0 then 0 else m) v) ∧
    Completes (.fsin d a ty la) (late (one ty)) (un fun f _ v => f.trig false v) ∧
    Completes (.fcos d a ty la) (late (one ty)) (un fun f _ v => f.trig true v)

/-- R123, R124: FCMP compares element 0 of every active lane, a NaN being unordered; FCLASS sets one bit of ten for each
element. -/
def Obligations.FloatComparesComplete : Prop :=
  ∀ (cond : BitVec 4) (k : BitVec 3) (d a b : BitVec 7) (ty : BitVec 2),
    let wide := ty == 1
    let f := [fp32, fp64, fp16, bf16].getD ty.toNat bf16
    let low := fun (x : Ctx) (o : BitVec 7) (l : Nat) => f.val (x.nat wide o l % 2 ^ f.width)
    Completes (.fcmp cond k a b ty) (plain .warp [srcOpd wide a, srcOpd wide b]) (changing fun x s =>
      (s.addFlags x.t (if x.lanes.any (fun l => (fcompare cond.toNat (low x a l) (low x b l)).2) then 16 else 0)).setK
        x.t k.toNat x.act (maskWhere x.lanes (fun l => (fcompare cond.toNat (low x a l) (low x b l)).1))) ∧
    Completes (.fclass d a ty) (plain .warp [.dst d.toNat, srcOpd wide a]) (writing fun x => x.lanes.flatMap (fun l =>
      x.w32 d.toNat l false (BitVec.ofNat 32 (if ty.toNat < 2 then f.classOf (x.nat wide a l)
        else f.classOf (x.nat wide a l % 2 ^ 16) + 2 ^ 16 * f.classOf (x.nat wide a l / 2 ^ 16)))))

/-- R65 (and R61): rounding picks, of the format's finite codes, the nearest one, at a tie the even one; or the one towards
zero, towards +∞ or towards −∞. No overflow flag, and no free choice: the code of every non-zero exact value. -/
def Obligations.RoundingBrackets : Prop :=
  ∀ f ∈ [fp32, fp64, fp16, bf16, fpE4M3, fpE5M2, fpE3M2, fpE2M3, fpE2M1], ∀ (rm m : Nat) (neg : Bool) (e : Int),
    let q := fun (n : Bool) (m : Nat) (e : Int) => (if n then -1 else 1) * (m : ℚ) * (2 : ℚ) ^ e
    let v := q neg m e
    let r := f.round rm false neg m e
    rm < 4 → 0 < m → r.2 &&& 4 = 0 → r.1 < 2 ^ f.width ∧
      ∃ (mr : Nat) (er : Int), f.val r.1 = .fin neg mr er ∧ (r.2 &&& 1 = 0 ↔ q neg mr er = v) ∧
        (rm = 1 → |q neg mr er| ≤ |v|) ∧ (rm = 2 → v ≤ q neg mr er) ∧ (rm = 3 → q neg mr er ≤ v) ∧
        ∀ (y : Nat) (n : Bool) (my : Nat) (ey : Int), y < 2 ^ f.width → f.val y = .fin n my ey →
          (rm = 0 → |q neg mr er - v| ≤ |q n my ey - v| ∧
            (|q neg mr er - v| = |q n my ey - v| → q n my ey ≠ q neg mr er → r.1 % 2 = 0)) ∧
          (rm = 1 → |q n my ey| ≤ |v| → |q n my ey| ≤ |q neg mr er|) ∧
          (rm = 2 → v ≤ q n my ey → q neg mr er ≤ q n my ey) ∧
          (rm = 3 → q n my ey ≤ v → q n my ey ≤ q neg mr er)

/-- R66: what an overflow leaves, by format, saturation mode and rounding mode, with its two flags; and the largest finite
codes of R61.
R63, R65, R69, R119-R121, R125: NaN operands and invalid operations give the canonical NaN, a signalling one with NV; the
sign of an exact zero sum; division by zero; and the special operands of the roots and of the functions of R125.
R120: FMIN and FMAX take the one operand that is no NaN, or the canonical NaN of two, and order −0 below +0; the operand
chosen keeps all its bits, and no flag but NV is set. -/
def Obligations.FloatResultRules : Prop :=
  ((∀ f ∈ [fp32, fp64, fp16, bf16, fpE4M3, fpE5M2, fpE3M2, fpE2M3, fpE2M1], ∀ (rm m : Nat) (sat neg : Bool) (e : Int),
      let r := f.round rm sat neg m e
      r.2 &&& 4 ≠ 0 → r.2 = 5 ∧
        r.1 = if (!f.ieee && !f.e4m3) || sat || rm == 1 || (rm == 2 && neg) || (2 < rm && !neg) then f.signed neg f.maxCode
          else if f.ieee then f.signed neg f.infCode else 0x7F) ∧
    [fp32, fp64, fp16, bf16, fpE5M2, fpE4M3, fpE3M2, fpE2M3, fpE2M1].map Fmt.maxCode
      = [0x7F7FFFFF, 0x7FEFFFFFFFFFFFFF, 0x7BFF, 0x7F7F, 0x7B, 0x7E, 0x1F, 0x1F, 7] ∧
    [fp32, fp64, fp16, bf16, fpE5M2].map Fmt.infCode = [0x7F800000, 0x7FF0000000000000, 0x7C00, 0x7F80, 0x7C]) ∧
  ([fp64, fp32, fp16, bf16, fpE5M2, fpE4M3].map Fmt.nanCode = [0x7FF8000000000000, 0x7FC00000, 0x7E00, 0x7FC0, 0x7E, 0x7F] ∧
    ∀ f ∈ [fp32, fp64, fp16, bf16], ∀ (rm : Nat) (a b d : FVal) (n k : Bool) (m p : Nat) (e g : Int),
      let nan := f.nanCode
      let inf := fun (neg : Bool) => f.signed neg f.infCode
      (∀ r ∈ [f.add rm a b, f.mul rm a b, f.div rm a b], a.isNan ∨ b.isNan →
        r = (nan, if a.snan || b.snan then 16 else 0)) ∧
      (∀ r ∈ [f.sqrt rm a, f.rsqrt rm a, f.exp2 rm a, f.log2 rm a, f.trig n a], a.isNan → r = (nan, if a.snan then 16 else 0)) ∧
      f.add rm (.inf n) (.inf !n) = (nan, 16) ∧ f.add rm (.inf n) (.inf n) = (inf n, 0) ∧
      f.mul rm (.inf n) (.fin k 0 e) = (nan, 16) ∧ f.mul rm (.fin k 0 e) (.inf n) = (nan, 16) ∧
      f.fma rm (.inf n) (.fin k 0 e) d = (nan, 16) ∧
      f.div rm (.inf n) (.inf k) = (nan, 16) ∧ f.div rm (.fin n 0 e) (.fin k 0 g) = (nan, 16) ∧
      (0 < m → f.div rm (.fin n m e) (.fin k 0 g) = (inf (n != k), 8)) ∧
      f.add rm (.fin n 0 e) (.fin n 0 g) = (f.signed n 0, 0) ∧
      f.add rm (.fin n m e) (.fin (!n) m e) = (f.signed (rm == 3) 0, 0) ∧
      f.sqrt rm (.fin n 0 e) = (f.signed n 0, 0) ∧ (0 < m → f.sqrt rm (.fin true m e) = (nan, 16)) ∧
      f.sqrt rm (.inf n) = (if n then (nan, 16) else (inf false, 0)) ∧
      f.rsqrt rm (.fin n 0 e) = (inf n, 8) ∧ (0 < m → f.rsqrt rm (.fin true m e) = (nan, 16)) ∧
      f.rsqrt rm (.inf n) = (if n then (nan, 16) else (0, 0)) ∧
      f.exp2 rm (.inf n) = (if n then 0 else inf false, 0) ∧
      f.log2 rm (.fin n 0 e) = (inf true, 8) ∧ (0 < m → f.log2 rm (.fin true m e) = (nan, 16)) ∧
      f.log2 rm (.inf n) = (if n then (nan, 16) else (inf false, 0)) ∧
      f.log2 rm (.fin false (2 ^ p) (-p)) = (0, 0) ∧
      f.trig k (.inf n) = (nan, 16) ∧ f.trig false (.fin n 0 e) = (f.signed n 0, 0)) ∧
  (∀ f ∈ [fp32, fp64, fp16, bf16], ∀ (x y : Nat), x < 2 ^ f.width → y < 2 ^ f.width →
      let a := f.val x
      let b := f.val y
      let nv := if a.snan || b.snan then 16 else 0
      let mzero_ := 2 ^ (f.width - 1)
      (a.isNan → b.isNan → ∀ hi, f.minmax hi x y = (f.nanCode, nv)) ∧
      (a.isNan → !b.isNan → ∀ hi, f.minmax hi x y = (y, nv)) ∧
      (!a.isNan → b.isNan → ∀ hi, f.minmax hi x y = (x, nv)) ∧
      (!a.isNan → !b.isNan → (∀ hi, f.minmax hi x y = (x, 0) ∨ f.minmax hi x y = (y, 0)) ∧
        (x ≠ y → (f.minmax false x y).1 ≠ (f.minmax true x y).1)) ∧
      f.minmax false mzero_ 0 = (mzero_, 0) ∧ f.minmax false 0 mzero_ = (mzero_, 0) ∧
      f.minmax true mzero_ 0 = (0, 0) ∧ f.minmax true 0 mzero_ = (0, 0))

/-- R126-R128: conversions between formats, from integers and to integers, with the flags of every active lane.
R64, R67, R126, R128: special operands of conversions: E8M0 is a power of two with 0xFF as its NaN; a format keeps its own
codes; a NaN gives the integer 0, and a number outside the type's range the nearest end, both with NV alone. -/
def Obligations.ConversionsComplete : Prop :=
  (∀ (d a : BitVec 7) (sat : BitVec 1) (df sf : BitVec 4) (ty : BitVec 3),
      let out := fun (wide signed : Bool) (r : Ctx → Nat → Nat × Nat) => (fun x s =>
        (s.addFlags x.t (orFlags (x.lanes.map (fun l => (r x l).2))),
         x.lanes.flatMap (fun l => x.put wide signed d l (r x l).1), Next.seq) : Effect)
      let rm := fun (x : Ctx) => fmtRm x.th.fmt
      let code := fun (x : Ctx) (l : Nat) => x.nat (sf == 1) a l % 2 ^ codeWidth sf.toNat
      Completes (.fcvt d a sat df sf) (plain .warp [dstOpd (df == 1) d, srcOpd (sf == 1) a]) (out (df == 1) false fun x l =>
        convert df.toNat sf.toNat (rm x) (fmtSatm x.th.fmt || sat == 1) (code x l)) ∧
      Completes (.icvt d a df ty) (plain .warp [dstOpd (df == 1) d, srcOpd (ityWide ty) a]) (out (df == 1) false fun x l =>
        intoFormat df.toNat (rm x) (fmtSatm x.th.fmt) (.fin (x.int ty a l < 0) (x.int ty a l).natAbs 0)) ∧
      Completes (.ftoi d a ty sf) (plain .warp [dstOpd (ityWide ty) d, srcOpd (sf == 1) a])
        (out (ityWide ty) (itySigned ty) fun x l =>
          let r := toInteger ty (rm x) (codeVal sf.toNat (code x l))
          ((r.1 % (if ityWide ty then 2 ^ 64 else 2 ^ 32)).toNat, r.2))) ∧
  ((∀ (rm : Nat) (sat neg s : Bool) (m : Nat),
      (∀ e < 255, convert 9 0 rm sat (e % 2 ^ 8 * 2 ^ 23) = if e = 0 then (0, 3) else (e, 0)) ∧
      intoFormat 9 rm sat (.inf neg) = (255, 16) ∧ intoFormat 9 rm sat (.nan s) = (255, 16) ∧
      intoFormat 9 rm sat (.fin neg 0 m) = (0, 3) ∧
      (∀ c ∈ [6, 7, 8], intoFormat c rm sat (.nan s) = (0, 16)
        ∧ intoFormat c rm sat (.inf neg) = ((fmtOf c).signed neg (fmtOf c).maxCode, 16)) ∧
      (∀ c ∈ [0, 1, 2, 3, 4, 5], intoFormat c rm sat (.nan s) = ((fmtOf c).nanCode, if s then 16 else 0)) ∧
      (∀ c ∈ [0, 1, 2, 3], intoFormat c rm sat (.inf neg) = ((fmtOf c).signed neg (fmtOf c).infCode, 0)) ∧
      intoFormat 5 rm sat (.inf neg) = (if sat then ((fmtOf 5).signed neg 0x7B, 16) else ((fmtOf 5).signed neg 0x7C, 0)) ∧
      intoFormat 4 rm sat (.inf neg) = (if sat then ((fmtOf 4).signed neg 0x7E, 16) else (0x7F, 16))) ∧
    (∀ (c x rm : Nat) (sat : Bool), c < 10 → x < 2 ^ codeWidth c → (codeVal c x).isNan = false → convert c c rm sat x = (x, 0)) ∧
    (∀ (ty : BitVec 3) (rm : Nat) (s neg : Bool),
      let w := ityWidth ty
      toInteger ty rm (.nan s) = (0, 16) ∧
      toInteger ty rm (.inf neg) = (if neg then (if itySigned ty then -2 ^ (w - 1) else 0)
        else if itySigned ty then 2 ^ (w - 1) - 1 else 2 ^ w - 1, 16)))

/-- R129-R131: packing and plane instructions move bits only.
R132, R72: BPDOT adds to D the exact dot product of 32 activations and of weights read from the first p of b planes. -/
def Obligations.PackingAndPlanesComplete : Prop :=
  (∀ (d a b : BitVec 7) (part : BitVec 2) (j n : BitVec 3),
      let p := part.toNat
      -- element i, w bits wide, of the run at a register
      let slot := fun (x : Ctx) (l w code i : Nat) =>
        (List.range w).foldl (fun v k => let bit := w * i + k
          v + (if (x.r32 (code + bit / 32) l).getLsbD (bit % 32) then 2 ^ k else 0)) 0
      -- register `r` of the run at D, its slots i with g i replaced
      let put := fun (x : Ctx) (l w r : Nat) (g : Nat → Option Nat) => BitVec.ofNat 32
        ((List.range 32).foldl (fun v k =>
          let bit := 32 * r + k
          let on := match g (bit / w) with
            | some y => y.testBit (bit % w)
            | none => (x.r32 (d.toNat + r) l).getLsbD k
          v + (if on then 2 ^ k else 0)) 0)
      let two := fun (u v : Nat) => BitVec.ofNat 32 (u + 2 ^ 16 * v)
      (∀ (c : BitVec 2) (w : Nat), (c.toNat, w) ∈ [(0, 4), (2, 8), (3, 16)] →
        Completes (.pack d a b part c)
          (plain .warp [.run d.toNat 1 true, .run d.toNat 1 false, .src a.toNat, .src b.toNat])
          (writing fun x => x.lanes.flatMap (fun l => x.w32 d.toNat l false (put x l w 0 (fun i =>
            if i = 2 * p then some (x.r32 a.toNat l).toNat else if i = 2 * p + 1 then some (x.r32 b.toNat l).toNat else none)))) ∧
        Completes (.unpk d a part c) (plain .warp [.run d.toNat 1 true, .run a.toNat 1 false])
          (writing fun x => x.lanes.flatMap (fun l =>
            x.w32 d.toNat l false (two ((x.r32 a.toNat l).toNat / 2 ^ (2 * p * w) % 2 ^ w)
              ((x.r32 a.toNat l).toNat / 2 ^ ((2 * p + 1) * w) % 2 ^ w))))) ∧
      Completes (.pack d a b part 1) (plain .warp [.run d.toNat 3 true, .run d.toNat 3 false, .src a.toNat, .src b.toNat])
        (writing fun x => x.lanes.flatMap (fun l => (List.range 3).flatMap (fun r => x.w32 (d.toNat + r) l false
          (put x l 6 r (fun i =>
            if i = 4 * p then some (x.r32 a.toNat l).toNat
            else if i = 4 * p + 1 then some ((x.r32 a.toNat l).toNat / 2 ^ 16)
            else if i = 4 * p + 2 then some (x.r32 b.toNat l).toNat
            else if i = 4 * p + 3 then some ((x.r32 b.toNat l).toNat / 2 ^ 16) else none))))) ∧
      Completes (.unpk d a part 1) (plain .warp [.run d.toNat 2 true, .run a.toNat 3 false])
        (writing fun x => x.lanes.flatMap (fun l =>
          x.w32 d.toNat l false (two (slot x l 6 a.toNat (4 * p)) (slot x l 6 a.toNat (4 * p + 1))) ++
          x.w32 (d.toNat + 1) l false (two (slot x l 6 a.toNat (4 * p + 2)) (slot x l 6 a.toNat (4 * p + 3))))) ∧
      Completes (.bpsplit d a j) (plain .warp [.dst d.toNat, .src a.toNat])
        (writing fun x => x.lanes.flatMap (fun l =>
          x.w32 d.toNat l false (maskOf (x.lanes.filter (fun m => (x.r32 a.toNat m).getLsbD (7 - j.toNat)))))) ∧
      Completes (.bpjoin d a n) (plain .warp [.dst d.toNat, .run a.toNat (n.toNat + 1) false])
        (writing fun x => x.lanes.flatMap (fun l =>
          let v := ((List.range (n.toNat + 1)).map (fun i =>
            if (x.r32 (a.toNat + i) l).getLsbD l then 2 ^ (n.toNat - i) else 0)).sum
          x.w32 d.toNat l true (BitVec.ofInt 32 (if 2 ^ n.toNat ≤ v then (v : Int) - 2 ^ (n.toNat + 1) else v))))) ∧
  (∀ (d a b : BitVec 7) (la : BitVec 4) (s : State) (c : Ctx),
      let fmt := c.th.fmt
      let nibbles := fmt.extractLsb' 22 2 == 1
      let planes := (fmt.extractLsb' 16 3).toNat + 1
      let bits := (fmt.extractLsb' 19 3).toNat + 1
      let sp := plainLa .warp [.dst d.toNat, .src d.toNat, .run a.toNat (if nibbles then 4 else 8) false,
        .run b.toNat planes false] la
      let act := fun (l k : Nat) =>
        if nibbles then ((c.r32 (a.toNat + k / 8) l).extractLsb' (4 * (k % 8)) 4).toInt
        else ((c.r32 (a.toNat + k / 4) l).extractLsb' (8 * (k % 4)) 8).toInt
      let top := fun (l k j : Nat) => if (c.r32 (b.toNat + j) l).getLsbD k then (2 : Int) ^ (planes - 1 - j) else 0
      -- the first plane counts negative
      let weight := fun (l k : Nat) => ((List.range planes).map (fun j => if j = 0 then -(top l k 0) else top l k j)).sum
      let w := fun (l k : Nat) => if fmt.getLsbD 15 && planes < bits then 2 * weight l k + 1 else weight l k
      Clear s (.bpdot d a b la) sp c →
        exec (.bpdot d a b la) s = .next ((s.countIssue c).done sp c (c.lanes.flatMap (fun l =>
          c.w32 d.toNat l true (BitVec.ofInt 32 ((c.r32 d.toNat l).toInt +
            ((List.range 32).map (fun k => act l k * w l k)).sum)))) .seq))

/-! ## Control flow (06 R142-R148, R155; 02 R46; 12 R313) -/

/-- R147, R155, R34: jumps, calls and returns. CALL needs room for one more entry, RET a call entry on top, JMPI an aligned
target; a taken branch goes to PC + 4 × its signed offset. R141, R147: what a flow instruction refuses: a call that would
make 65 entries, a return with no call entry on top, a misaligned target (MISALIGNED, with the target in ADDR), and RCV with
no reconvergence entry (R146). That the full stack is code 1 is the model's reading (log 64). -/
def Obligations.JumpsComplete : Prop :=
  (∀ (off : BitVec 25) (o16 : BitVec 16) (d a : BitVec 7) (cond : BitVec 2),
      let to_ := fun (x : Ctx) (n : Int) => BitVec.ofInt 56 ((x.th.pc.toNat : Int) + 4 * n)
      let jump := fun (pc : Ctx → BitVec 56) => (fun x s => (s, [], Next.jump (pc x)) : Effect)
      Completes (.bra off) (flow .both []) (jump fun x => to_ x off.toInt) ∧
      Completes (.bru d cond o16) (flow .front [.src64 d.toNat]) (fun x s =>
        let v := (x.r64 d.toNat 0).toInt
        (s, [], if [decide (v = 0), decide (v ≠ 0), decide (v < 0), decide (0 ≤ v)].getD cond.toNat false
          then .jump (to_ x o16.toInt) else .seq)) ∧
      CompletesWhen (.call off) (flow .both []) (fun x _ => (x.b.stackOf x.t.warp).length < 64) (fun x s =>
        (s.pushEntry x.t
          { kind := .call, log := x.b.logOf x.t, pc := x.th.pc + 4, mask := if x.front then 0 else x.th.exm,
            fmt := if x.front then 0 else x.th.fmt }, [], .jump (to_ x off.toInt))) ∧
      (∀ e, CompletesWhen .ret (flow .both []) (fun x _ => (x.b.ownEntries x.t).head? = some e ∧ e.kind = .call) (fun x s =>
        let s := s.popEntry x.t (x.b.logOf x.t)
        (if x.front then s else s.updThread x.t (fun th => { th with exm := e.mask &&& ~~~x.w.exited }), [], .jump e.pc))) ∧
      CompletesWhen (.jmpi a) (flow .both [.src64 a.toNat])
        (fun x _ => (x.r64 a.toNat x.low).toNat < 2 ^ 56 ∧ (x.r64 a.toNat x.low).toNat % 4 = 0)
        (jump fun x => (x.r64 a.toNat x.low).setWidth 56) ∧
      Completes .nop (flow .both []) (fun _ s => (s, [], .seq))) ∧
  (∀ (off : BitVec 25) (a : BitVec 7),
      RefusedWhen (.call off) (flow .both []) (fun x _ => 64 ≤ (x.b.stackOf x.t.warp).length) (fun x _ => (1, 0, x.allLanes)) ∧
      RefusedWhen .ret (flow .both []) (fun x _ => ∀ e, (x.b.ownEntries x.t).head? = some e → e.kind ≠ .call)
        (fun x _ => (1, 0, x.allLanes)) ∧
      RefusedWhen (.jmpi a) (flow .both [.src64 a.toNat])
        (fun x _ => 2 ^ 56 ≤ (x.r64 a.toNat x.low).toNat ∨ (x.r64 a.toNat x.low).toNat % 4 ≠ 0)
        (fun x _ => (12, (x.r64 a.toNat x.low).toNat, x.allLanes)) ∧
      RefusedWhen .rcv (flow .warp []) (fun x _ => x.b.curRec x.t = none) (fun x _ => (1, 0, x.allLanes)))

/-- R142: a branch that does not diverge jumps or falls through; one that does splits a whole warp, or serialises an arm, by
the entries and the masks that the rule gives; both arms wait for what the whole warp still owes (02 R41, R42). In minimal
mode it is refused. That the full stack is code 1 is the model's
reading (log 64); what the arms hold of trap state and cursors is too (log 15, log 16). -/
def Obligations.DivergenceCompletes : Prop :=
  ∀ (k : BitVec 3) (rec_ tgt : BitVec 11),
    let i := Instr.brd k rec_ tgt
    let sp := flow .warp []
    let taken := fun (x : Ctx) => x.th.exm &&& x.w.kreg k.toNat
    let rest := fun (x : Ctx) => x.th.exm &&& ~~~(x.w.kreg k.toNat)
    let to_ := fun (x : Ctx) (n : Int) => BitVec.ofInt 56 ((x.th.pc.toNat : Int) + 4 * n)
    let splits := fun (x : Ctx) (s : State) => taken x ≠ x.th.exm ∧ taken x ≠ 0 ∧ s.pkg.minimal = false
    let entry := fun (x : Ctx) (kind : StackKind) (pc : BitVec 56) (mask : Word) =>
      ({ kind := kind, log := x.b.logOf x.t, pc := pc, mask := mask, fmt := x.th.fmt } : StackEntry)
    CompletesWhen i sp (fun x _ => taken x = x.th.exm) (fun x s => (s, [], .jump (to_ x tgt.toInt))) ∧
    CompletesWhen i sp (fun x _ => taken x = 0 ∧ x.th.exm ≠ 0) (fun _ s => (s, [], .seq)) ∧
    CompletesWhen i sp (fun x s => splits x s ∧ x.b.logOf x.t = .warp ∧ (x.b.stackOf x.t.warp).length < 64) (fun x s =>
      let s := (s.pushEntry x.t (entry x .split (to_ x rec_.toInt) x.th.path)).cleared x.t
      let s := s.updWarp x.t (fun w =>
        { w with split := true, since := s.fresh, t := { w.t with exm := taken x, path := taken x, readyAt := s.clock },
                 e := { w.t with exm := rest x, path := rest x, record := none, later := none, kept := none, live := true, passed := 0,
                                 readyAt := s.clock } })
      let s := s.goTo { x.t with armE := false } (to_ x tgt.toInt)
      (s.goTo { x.t with armE := true } (x.th.pc + 4), [], .path)) ∧
    CompletesWhen i sp (fun x s => splits x s ∧ x.b.logOf x.t ≠ .warp ∧ (x.b.stackOf x.t.warp).length < 63) (fun x s =>
      let s := s.pushEntry x.t (entry x .reconverge (to_ x rec_.toInt) x.th.path)
      let s := s.pushEntry x.t (entry x .pending (x.th.pc + 4) (rest x))
      let s := (s.cleared x.t).updThread x.t (fun th => { th with exm := taken x, path := taken x })
      (s.goTo x.t (to_ x tgt.toInt), [], .path)) ∧
    RefusedWhen i sp (fun x s => taken x ≠ x.th.exm ∧ taken x ≠ 0 ∧ (s.pkg.minimal = true ∨
        64 < (x.b.stackOf x.t.warp).length + (if x.b.logOf x.t = .warp then 1 else 2))) (fun x _ => (1, 0, x.allLanes))

/-- R146, R148, R145, 02 R46, 12 R313: RCV ends the path; EXIT ends the lanes of the path mask, after the operations and the
borrows that its owner's last exit waits for; PBLK captures the mask for the words that follow; YIELD is not
ready in the next 16 clocks.
R46: a word under a predicate block acts on the lanes of EXM where the captured mask agrees with the word's pattern bit,
and each such word moves the pattern by one; one with no active lane only advances, unless its own fields are refused. -/
def Obligations.PathsAndPredicatesComplete : Prop :=
  (∀ (k n : BitVec 3) (pat : BitVec 8) (w : Wait),
      CompletesWhen .rcv (flow .warp []) (fun x _ => (x.b.curRec x.t).isSome) (fun x s =>
        ((s.cleared x.t).endPath x.t 200, [], .path)) ∧
      CompletesWhen .exit (flow .both []) (fun x s => exitWait s x = none) (fun x s =>
        ((s.cleared x.t).exitThread x.t, [], .path)) ∧
      WaitsWhen .exit (flow .both []) (fun x s => exitWait s x = some w) (fun _ s => (s, w, 0)) ∧
      EndsWhen .exit (flow .both []) (fun x s => exitWait s x = none) (fun x s =>
        ((s.cleared x.t).exitThread x.t, [], .path)) ∧
      Completes (.pblk k n pat) (flow .warp []) (fun x s =>
        (((s.cleared x.t).updThread x.t (fun th =>
          { th with pblk := some { left := n.toNat + 1, pattern := pat, kcap := x.w.kreg k.toNat } })).goTo x.t (x.th.pc + 4),
         [], .path)) ∧
      Completes .yield { plain .both [] with roles := [.vector], ends := true } (fun x s =>
        let s := (s.updThread x.t (fun th => 
          { th with hold := none, wins := [], pblk := nextPblk th.pblk, wskip := false, wbUse := none })).goTo x.t (x.th.pc + 4)
        (s.updThread x.t (fun th => { th with readyAt := s.clock + 17 }), [], .path))) ∧
  ((∀ (th : Thread) (p : Pblk) (l : Nat), th.pblk = some p →
      (activeLanes th).getLsbD l = (th.exm.getLsbD l && (p.kcap.getLsbD l == p.pattern.getLsbD 0))) ∧
    (∀ (p : Pblk), nextPblk (some p) =
      if p.left ≤ 1 then none else some { p with left := p.left - 1, pattern := p.pattern >>> 1 }) ∧
    (∀ (s : State) (c : Ctx) (d a b : BitVec 7) (sat : BitVec 1) (ty : BitVec 3),
      let i := Instr.add d a b sat ty
      let sp := plain .both [dstOpd (ityWide ty) d, srcOpd (ityWide ty) a, srcOpd (ityWide ty) b]
      s.ctx? = some c → c.resumed = false → c.th.pblk.isSome → c.act = 0 → staticRefusal s c i sp true = none →
        exec i s = .next (s.retire c sp .seq)))

/-! ## Special, format and system registers (04 R84-R88, 05 R114, R115, 06 R154, R156, 15 R379, R380) -/

/-- R87, R85, R154, R156, R114, R115: RDS reads the special register that R88 numbers; WIN and SWIN set the windows, YSET, a
release side (10 R252), a mirror; SETF, GETF and FLAGS wait for the thread's own earlier writes, and act on FMT. R88: the
special registers by number. Beside a WIN the other arm of a split warp keeps the old window for the instruction that it has
issued (R85), and for its next one or not, as the device chooses (R86; the model's choice of "near", log 69); while a trap
handler runs, the other arm is stopped (15 R375), and nothing of it is beside the WIN. -/
def Obligations.ThreadRegistersComplete : Prop :=
  (∀ (d a b : BitVec 7) (n : BitVec 12) (k : BitVec 11) (w : BitVec 2) (y : BitVec 3),
      let settled_ := fun (x : Ctx) (_ : State) => x.th.pends = []
      let low := fun (x : Ctx) (r : BitVec 7) => x.r32 r.toNat x.low
      let merged := fun (x : Ctx) => (x.th.fmt &&& ~~~(low x b)) ||| (low x a &&& low x b)
      let legal := fun (v : Word) => (v.extractLsb' 22 2).toNat ≤ 1 ∧ v.extractLsb' 19 3 ≠ 0 ∧ v.extractLsb' 16 3 ≠ 0 ∧
        (v.extractLsb' 16 3).toNat ≤ (v.extractLsb' 19 3).toNat
      let setf := plain .warp [.src a.toNat, .src b.toNat]
      Completes (.rds d n) (plain .both [.dst d.toNat]) (fun x s =>
        (s, x.lanes.flatMap (fun l => x.w32 d.toNat l false (special s x n.toNat l)), .seq)) ∧
      CompletesWhen (.win k) (plain .warp []) (fun x _ => k.toNat < 1024 ∧ 16 * k.toNat < x.w.allot ∧
          (x.w.split = false ∨ x.th.trap = true))
        (changing fun x s => s.updWarp x.t (fun v => { v with wb := BitVec.ofNat 10 (16 * k.toNat) })) ∧
      CompletesWhen (.win k) (plain .warp []) (fun x _ => k.toNat < 1024 ∧ 16 * k.toNat < x.w.allot ∧ x.w.split = true ∧
          x.th.trap = false)
        (changing fun x s =>
          -- the other arm keeps the old window for what it has issued, and may keep it for its next instruction
          let keeps := fun (th : Thread) (old : BitVec 10) =>
            if th.live && ((th.hold.bind (·.ins)).isSome || Config.freeBool (nth s.free 0)) && th.wbUse.isNone
            then { th with wbUse := some old } else th
          { s with free := s.free + 1 }.updWarp x.t (fun v =>
            { v with wb := BitVec.ofNat 10 (16 * k.toNat)
                     t := if x.t.armE then keeps v.t v.wb else v.t
                     e := if x.t.armE then v.e else keeps v.e v.wb })) ∧
      RefusedWhen (.win k) (plain .warp []) (fun x _ => x.w.allot ≤ 16 * k.toNat) (fun x _ => (6, 0, x.allLanes)) ∧
      Completes (.swin w) (plain .front []) (changing fun x s => s.updFront x.t.blk (fun f => { f with swb := 32 * w.toNat })) ∧
      CompletesWhen (.yset y a) (plain .front [.src64 a.toNat]) (fun x s => s.allPerformed x.t = true) (changing fun x s =>
        s.updBlk x.t.blk (fun v => { v with y := lset v.y y.toNat (fun _ => x.r64 a.toNat 0) })) ∧
      WaitsWhen (.yset y a) (plain .front [.src64 a.toNat]) (fun x s => s.allPerformed x.t = false)
        (fun x s => (s, .performed, x.stage)) ∧
      CompletesWhen (.setf a b) setf (fun x s => settled_ x s ∧ legal (merged x))
        (changing fun x s => s.updThread x.t (fun th => { th with fmt := merged x &&& 0x00FF839F })) ∧
      RefusedWhen (.setf a b) setf (fun x s => settled_ x s ∧ ¬ legal (merged x)) (fun x _ => (1, 0, x.allLanes)) ∧
      WaitsWhen (.setf a b) setf (fun x _ => x.th.pends ≠ []) (fun x s => (s, .scoreboard, x.stage)) ∧
      CompletesWhen (.getf d) (plain .warp [.dst d.toNat]) settled_ (fun x s =>
        (s, x.lanes.flatMap (fun l => x.w32 d.toNat l false x.th.fmt), .seq)) ∧
      CompletesWhen (.flags d a) (plain .warp [.src a.toNat, .dst d.toNat]) settled_ (fun x s =>
        (s.updThread x.t (fun th => { th with fmt := th.fmt &&& ~~~(low x a &&& 0x1F) }),
         x.lanes.flatMap (fun l => x.w32 d.toNat l false (x.th.fmt &&& 0x1F)), .seq)) ∧
      WaitsWhen (.getf d) (plain .warp [.dst d.toNat]) (fun x _ => x.th.pends ≠ []) (fun x s => (s, .scoreboard, x.stage)) ∧
      WaitsWhen (.flags d a) (plain .warp [.src a.toNat, .dst d.toNat]) (fun x _ => x.th.pends ≠ [])
        (fun x s => (s, .scoreboard, x.stage))) ∧
  (∀ (s : State) (c : Ctx) (l : Nat),
      let v := fun n => special s c n l
      v 0 = BitVec.ofNat 32 l ∧ v 1 = BitVec.ofNat 32 c.t.warp ∧ v 2 = c.b.blockIx ∧ v 3 = BitVec.ofNat 32 c.b.clIx ∧
      v 4 = c.b.clusIx ∧ v 5 = BitVec.ofNat 32 c.b.die ∧ v 6 = BitVec.ofNat 32 c.b.core ∧
      v 7 = BitVec.ofNat 32 (if c.t.warp = 32 then 4 else c.t.warp % 4) ∧ v 8 = c.b.gridM1 ∧
      v 9 = BitVec.ofNat 32 c.b.clusz ∧ v 10 = BitVec.ofNat 32 c.b.warps.length ∧
      v 11 = (if c.t.warp = 32 then 3 else match c.w.role with | .matrix => 0 | .copy => 1 | .vector => 2) ∧
      (c.t.warp = 32 → v 12 = BitVec.ofNat 32 c.b.front.swb) ∧
      (∀ w, c.t.warp ≠ 32 → (s.blk? c.t.blk).bind (fun b => b.warps[c.t.warp]?) = some w → v 12 = w.wb.setWidth 32) ∧
      v 13 = BitVec.ofNat 32 (if c.t.warp = 32 then 192 else c.w.allot) ∧
      v 14 = c.b.task.getD 0xFFFFFFFF ∧
      v 15 = BitVec.ofNat 32 ((if s.pkg.minimal then 1 else 0) + (if c.b.coop then 2 else 0) + (if c.b.task.isSome then 4 else 0)))

/-- R379, R380, 16 R403, 11 R287: CSRR reads any register in either mode, but the trap registers only in trap mode; CSRW is
privileged and writes, sets or clears the bits that the register lets be written; LWAKE wakes a route of the partition;
TLBINV takes translations out once the thread's operations are performed.
14 R365, R366, R370: TIME reads the time base in ns; WINW the number of the window and its length exponent; PERF a counter
of the core, where its configuration or the mode lets it be read. -/
def Obligations.SystemRegistersComplete : Prop :=
  (∀ (d a b : BitVec 7) (n : BitVec 12),
      let trapReg := n = 0x100 ∨ n = 0x101
      let open_ := plain .both [.items d.toNat 1 true]
      let csrr := { open_ with priv := decide trapReg }
      let csrw := fun (front : Bool) => { plain .both [.src64 d.toNat, .run d.toNat (if front then 1 else 2) false] with priv := true }
      let write := fun (i : Instr) (f : DWord → DWord → DWord) => ∀ (s : State) (c : Ctx),
        let sp := csrw (c.t.warp == 32)
        let x := c.operands sp
        Clear s i sp c → c.th.pends = [] → exec i s = .next
          ((csrWrite (s.countIssue c) x n.toNat (f (csrValue (s.countIssue c) x n.toNat) (x.r64 d.toNat x.low))).done sp c [] .seq)
      let wake := fun (x : Ctx) => (x.item a.toNat 0).toNat
      let inval := { plain .both [.items a.toNat 1 false, .items b.toNat 1 false] with priv := true }
      let typ := fun (x : Ctx) => fld (x.item b.toNat 0) 17 16
      let count := fun (x : Ctx) => fld (x.item b.toNat 0) 47 32
      CompletesWhen (.csrr d n) csrr (fun x _ => x.th.pends = []) (fun x s =>
        (s, x.wItem d.toNat 0 (csrValue s x n.toNat), .seq)) ∧
      -- a trap register outside trap mode: after the refusals 1 to 4 of R45, before 6
      (∀ (s : State) (c : Ctx), s.ctx? = some c → c.resumed = false → (c.covered && c.act == 0) = false → trapReg →
        c.th.trap = false → (∀ code, staticRefusal s c (.csrr d n) open_ false = some code → code = 6) →
        exec (.csrr d n) s = .next (s.refuse c 5 0 c.allLanes)) ∧
      write (.csrw d n) (fun _ v => v) ∧
      write (.csrwSet d n) (fun old v => old ||| v) ∧
      write (.csrwClr d n) (fun old v => old &&& ~~~v) ∧
      CompletesWhen (.lwake a) (plain .both [.items a.toNat 1 false]) (fun x _ => wake x < 8 ∨ (16 ≤ wake x ∧ wake x < 32))
        (changing fun x s =>
          let dst : DieId := if wake x < 8 then .cd (wake x) else .md (wake x - 16)
          if (if wake x < 8 then wake x ∈ s.partDies x.b.die else wake x - 16 ∈ s.partMds x.b.die) ∧ dst ≠ .cd x.b.die
          then s.wakeRoute (route (.cd x.b.die) dst) else s) ∧
      CompletesWhen (.tlbinv a b) inval (fun x s => fld (x.item b.toNat 0) 31 18 = 0 ∧ fld (x.item b.toNat 0) 63 48 = 0 ∧
          (typ x = 0 ↔ count x ≠ 0) ∧ (typ x = 0 → (x.item a.toNat 0).toNat % 2 ^ 14 = 0) ∧ s.allPerformed x.t = true)
        (changing fun x s => s.tlbInvalidate x.b.die (typ x) (BitVec.ofNat 16 (fld (x.item b.toNat 0) 15 0))
          (x.item a.toNat 0).toNat (2 ^ 14 * count x))) ∧
  (∀ (d a : BitVec 7),
      let sp := flow .both [.items d.toNat 1 true]
      let perf := flow .both [.items d.toNat 1 true, .items a.toNat 1 false]
      let v := fun (x : Ctx) => x.item a.toNat 0
      let open_ := fun (x : Ctx) (s : State) => x.th.trap = true ∨
        ((s.core x.b.coreIx).pmcfg.getD ((v x).toNat % 8) 0).getLsbD 62 = true
      Completes (.time d) sp (fun x s => (s, x.wItem d.toNat 0 s.pkg.timeNs, .seq)) ∧
      Completes (.winw d) (flow .both [.items d.toNat 2 true]) (fun x s =>
        (s, x.wItem d.toNat 0 (BitVec.ofNat 64 (s.pkg.timeNs.toNat / 2 ^ (fld s.pkg.wlen 3 0))) ++
          x.wItem d.toNat 1 (BitVec.ofNat 64 (fld s.pkg.wlen 3 0)), .seq)) ∧
      CompletesWhen (.perf d a) perf (fun x s => (v x).toNat < 8 ∧ open_ x s) (fun x s =>
        (s, x.wItem d.toNat 0 (((s.core x.b.coreIx).pmc.getD (v x).toNat 0).setWidth 64), .seq)) ∧
      RefusedWhen (.perf d a) perf (fun x s => 8 ≤ (v x).toNat ∧ open_ x s) (fun x _ => (1, 0, x.allLanes)) ∧
      -- the mode check (item 5 of R45) comes before the instruction's own refusals (item 8)
      (∀ (s : State) (c : Ctx), Clear s (.perf d a) perf c → ¬ open_ (c.operands perf) s →
        exec (.perf d a) s = .next (s.refuse c 5 0 c.allLanes)))

/-! ## Loads, stores and copies (09 R224-R239) -/

/-- R225-R228: a load whose accesses are granted, aligned and unhindered, with no write of its own thread to its bytes still in
the side log (13 R349), no clean-after stamp (10 R262) and no atomic of its own at the place, performs its accesses; each width
extends its bytes as its type says. R226, R225, 11 R285: a load or store out of its region's range, misaligned, or whose page
does not allow it, is refused: RANGE, MISALIGNED or PAGE_PROTECTION, with the address of the lowest such lane and all such
lanes. That a load is performed at issue, and waits for its own atomics, is the model's reading (log 7, log 47). -/
def Obligations.LoadsComplete : Prop :=
  (∀ (d idx : BitVec 7) (rg : BitVec 5) (sc : BitVec 2) (la : BitVec 4),
      let ok := fun (x : Ctx) (s : State) (bounds accs : List Acc) =>
        let g := x.rg rg
        Granted g .load bounds ∧ Unhindered x s g .read 62 accs ∧
        (∀ e ∈ (s.core x.b.coreIx).log, s.orderedBy x.t e.t e.id = true → ∀ a ∈ accs, e.covers g a.2.1 a.2.2 = false) ∧
        (g.space = 0 → ((s.entry x.b.die g.tag).map (·.stamp)).getD 0 = 0) ∧ ownAtomic x s g accs = false
      let accs := fun (x : Ctx) (size : Nat) => x.lanes.map (fun l => (l, x.offset idx sc l, size))
      let sp := fun (st : Streams) (dst : Opd) (roles : List Role) =>
        { plain st [dst, .src idx.toNat, .region rg.toNat] with la := some la.toNat, roles := roles }
      let all := [Role.matrix, .copy, .vector]
      let one := fun (i : Instr) (st : Streams) (dst : Opd) (roles : List Role) (size : Nat) (fill : Ctx → Bool)
          (put : Ctx → Nat → Nat → List RegWrite) =>
        CompletesWhen i (sp st dst roles)
          (fun x s => ok x s (accs x size) (accs x size) ∧ ∀ l ∈ x.lanes, x.offset idx sc l % size = 0)
          (changing fun x s => s.loadNow x (x.rg rg) (fill x) ((x.writeIds (sp st dst roles)).dedup) (accs x size)
            (fun l bs => put x l (leNat bs)))
      let w32 := fun (x : Ctx) (l n : Nat) => x.w32 d.toNat l false (BitVec.ofNat 32 n)
      one (.ld32 d rg idx sc la) .both (.dst d.toNat) all 4 (fun _ => true) w32 ∧
      one (.ld64 d rg idx sc la) .both (.dst64 d.toNat) all 8 (fun _ => true) (fun x l n => x.w64 d.toNat l (BitVec.ofNat 64 n)) ∧
      one (.ldI8 d rg idx sc la) .warp (.dst d.toNat) all 1 (fun _ => true)
        (fun x l n => x.w32 d.toNat l false ((BitVec.ofNat 8 n).signExtend 32)) ∧
      one (.ldN8 d rg idx sc la) .warp (.dst d.toNat) all 1 (fun _ => true)
        (fun x l n => x.w32 d.toNat l false ((BitVec.ofNat 8 n).setWidth 32)) ∧
      one (.ldI16 d rg idx sc la) .warp (.dst d.toNat) all 2 (fun _ => true)
        (fun x l n => x.w32 d.toNat l false ((BitVec.ofNat 16 n).signExtend 32)) ∧
      one (.ldN16 d rg idx sc la) .warp (.dst d.toNat) all 2 (fun _ => true)
        (fun x l n => x.w32 d.toNat l false ((BitVec.ofNat 16 n).setWidth 32)) ∧
      one (.ldn d rg idx sc la) .warp (.dst d.toNat) [.matrix, .vector] 4 (fun x => (x.rg rg).space != 0) w32 ∧
      -- LDBP: plane j of a lane at its offset plus j strides
      (∀ (s : State) (c : Ctx),
        let p := (c.th.fmt.extractLsb' 16 3).toNat + 1
        let sp := { plain .warp [.run d.toNat p true, .run idx.toNat 2 false, .region rg.toNat] with
                    la := some la.toNat, roles := [.matrix, .vector] }
        let x := c.operands sp
        let q := fun l => (x.r32 (idx.toNat + 1) l).toNat
        let accs := x.lanes.flatMap (fun l => (List.range p).map (fun j => (l, x.offset idx sc l + j * q l, 4)))
        Clear s (.ldbp d rg idx sc la) sp c →
          ok x (s.countIssue c) (x.lanes.map (fun l => (l, x.offset idx sc l, (p - 1) * q l + 4))) accs →
          (∀ l ∈ x.lanes, x.offset idx sc l % 4 = 0 ∧ q l % 4 = 0) →
          exec (.ldbp d rg idx sc la) s = .next (((s.countIssue c).loadNow x (x.rg rg) true ((x.writeIds sp).dedup) accs
            (fun l bs => (List.range p).flatMap (fun j =>
              x.w32 (d.toNat + j) l false (BitVec.ofNat 32 (leNat ((bs.drop (4 * j)).take 4)))))).done sp c [] .seq))) ∧
  (∀ (d idx : BitVec 7) (rg : BitVec 5) (sc : BitVec 2) (la : BitVec 4) (va : Nat) (m : Word),
      let spL := { plain .both [.dst d.toNat, .src idx.toNat, .region rg.toNat] with la := some la.toNat }
      let spS := { plain .both [.src d.toNat, .src idx.toNat, .region rg.toNat] with la := some la.toNat, roles := [.copy, .vector] }
      let accs := fun (x : Ctx) => x.lanes.map (fun l => (l, x.offset idx sc l, 4))
      let out := fun (x : Ctx) => (accs x).filter (fun a => decide ((x.rg rg).bytes < a.2.1 + 4))
      let odd := fun (x : Ctx) => (accs x).filter (fun a => decide (a.2.1 % 4 ≠ 0))
      let names := fun (x : Ctx) (code : Nat) (bad : List Acc) =>
        (code, (x.rg rg).addr ((bad.head?.map (·.2.1)).getD 0), maskOf (bad.map (·.1)))
      ∀ io ∈ [(Instr.ld32 d rg idx sc la, spL, Right.load, Access.read), (.st32 d rg idx sc la, spS, .store, .write)],
        RefusedWhen io.1 io.2.1 (fun x _ => checkRights (x.rg rg) io.2.2.1 = none ∧ out x ≠ []) (fun x _ => names x 10 (out x)) ∧
        RefusedWhen io.1 io.2.1 (fun x _ => Granted (x.rg rg) io.2.2.1 (accs x) ∧ odd x ≠ []) (fun x _ => names x 12 (odd x)) ∧
        RefusedWhen io.1 io.2.1 (fun x s => Granted (x.rg rg) io.2.2.1 (accs x) ∧ odd x = [] ∧
          pass x s (x.rg rg) io.2.2.2 (accs x) = .prot va m) (fun _ _ => (23, va, m)) ∧
        RefusedWhen io.1 io.2.1 (fun x _ => (x.rg rg).kind = 0) (fun x _ => (7, 0, x.allLanes)) ∧
        RefusedWhen io.1 io.2.1 (fun x _ => (x.rg rg).kind ≠ 0 ∧ (x.rg rg).splitp) (fun x _ => (8, 0, x.allLanes)) ∧
        RefusedWhen io.1 io.2.1 (fun x _ => (x.rg rg).kind ≠ 0 ∧ (x.rg rg).splitp = false ∧
          kindGrants (x.rg rg).kind (x.rg rg).space io.2.2.1 = false) (fun x _ => (9, 0, x.allLanes)))

/-- R225, R227, R229: a store whose accesses are granted, aligned and unhindered, and whose thread has no earlier write to the
same borrow in the side log (13 R348), writes the low bytes of its operand; STBE the bits that its second register enables. -/
def Obligations.StoresComplete : Prop :=
  ∀ (d idx : BitVec 7) (rg : BitVec 5) (sc : BitVec 2) (la : BitVec 4),
    let accs := fun (x : Ctx) (size : Nat) => x.lanes.map (fun l => (l, x.offset idx sc l, size))
    let store := fun (i : Instr) (st : Streams) (opd : Opd) (roles : List Role) (size : Nat) (fill : Ctx → Bool)
        (data enables : Ctx → Nat → DWord) =>
      CompletesWhen i { plain st [opd, .src idx.toNat, .region rg.toNat] with la := some la.toNat, roles := roles }
        (fun x s => Granted (x.rg rg) .store (accs x size) ∧ Unhindered x s (x.rg rg) .write 61 (accs x size) ∧
          ownEntry x s (x.rg rg) = false ∧ ∀ l ∈ x.lanes, x.offset idx sc l % size = 0)
        (changing fun x s => s.storeNow x (x.rg rg) size (fill x)
          (x.lanes.map (fun l => (l, x.offset idx sc l, data x l, enables x l)))
          (downAccs x s (x.rg rg) .write (accs x size)))
    let low := fun (bits : Nat) (x : Ctx) (l : Nat) => BitVec.ofNat 64 ((x.r32 d.toNat l).toNat % 2 ^ bits)
    let all := fun (bits : Nat) (_ : Ctx) (_ : Nat) => BitVec.ofNat 64 (2 ^ bits - 1)
    store (.st32 d rg idx sc la) .both (.src d.toNat) [.copy, .vector] 4 (fun _ => true) (low 32) (all 32) ∧
    store (.st64 d rg idx sc la) .both (.src64 d.toNat) [.copy, .vector] 8 (fun _ => true) (fun x l => x.r64 d.toNat l) (all 64) ∧
    store (.st16 d rg idx sc la) .warp (.src d.toNat) [.copy, .vector] 2 (fun _ => true) (low 16) (all 16) ∧
    store (.st8 d rg idx sc la) .warp (.src d.toNat) [.copy, .vector] 1 (fun _ => true) (low 8) (all 8) ∧
    store (.stn d rg idx sc la) .warp (.src d.toNat) [.vector] 4 (fun x => (x.rg rg).space != 0) (low 32) (all 32) ∧
    store (.stbe d rg idx sc la) .warp (.run d.toNat 2 false) [.vector] 4 (fun _ => true)
      (fun x l => (x.r32 d.toNat l).setWidth 64) (fun x l => (x.r32 (d.toNat + 1) l).setWidth 64)

/-- 09 R215, R226, 04 R82: a load of scratch or exchange space reads the block's own scratch bytes, least significant first,
and owes its registers until they come; it changes no byte of memory. That a load reads at issue is the model's reading (log
7). -/
def Obligations.ScratchLoadDelivers : Prop :=
  ∀ (s : State) (c : Ctx) (g : Region) (fill : Bool) (regs : List RegId) (accs : List Acc)
    (result : Nat → List Byte → List RegWrite),
    let at_ := fun (a : Acc) => c.b.scratchOff g.space.toNat (g.addr a.2.1)
    let bytes := fun (l : Nat) => (accs.filter (fun a => a.1 == l)).flatMap (fun a => cread c.b.scratch (at_ a) a.2.2)
    let o := s.owe c regs g
    s.blk? c.t.blk = some c.b → 2 ≤ g.space.toNat →
      (∀ a ∈ accs, ∀ x ∈ sectorsOf (at_ a) a.2.2, x ∉ c.b.spoison ∧ kget c.b.ssums x = none) → (∀ a ∈ accs, c.b.absentIn (at_ a) a.2.2 = false) →
      s.loadNow c g fill regs accs result = o.2.post (.loadDataReturn c.t o.1 (c.lanes.flatMap (fun l => result l (bytes l)))) ∧
      SameMemory s (s.loadNow c g fill regs accs result)

/-- 09 R215, R224, R225, R229, 00 R10: a store writes the enabled bits of its elements and no others, in the order of the lanes,
so that the highest lane that writes a bit wins: in scratch and exchange space the block's scratch bytes; a store to lines that
its L1 holds, their bytes in L1. Neither changes a byte of memory; host and pool memory are left out of the second, which a
store reaches at once (10 R267). -/
def Obligations.StoredBytes : Prop :=
  ∀ (s : State) (c : Ctx) (g : Region) (size : Nat) (fill : Bool) (ls : List (Nat × Nat × DWord × DWord)),
    let t := s.storeNow c g size fill ls []
    -- what the elements (lane, offset, data, enables) make of the byte at k, an element of offset o standing at `place o`
    let merged := fun (place : Nat → Nat) (k : Nat) (v : Byte) => ls.foldl (fun (v : Byte) e =>
      let i := k - place e.2.1
      if place e.2.1 ≤ k ∧ i < size
      then (v &&& ~~~(e.2.2.2.extractLsb' (8 * i) 8)) ||| (e.2.2.1.extractLsb' (8 * i) 8 &&& e.2.2.2.extractLsb' (8 * i) 8)
      else v) v
    let byte := fun (t : State) (k : Nat) => ((t.blk? c.t.blk).map (fun b => cget b.scratch k)).getD 0
    let cached := fun (t : State) (a : Nat) => (t.lineOf c.b g a).map (fun y => y.data.getD (a % 128) 0)
    s.blk? c.t.blk = some c.b → 1 ≤ size → size ≤ 8 →
      (2 ≤ g.space.toNat → SameMemory s t ∧
        ∀ k, byte t k = merged (fun o => c.b.scratchOff g.space.toNat (g.addr o)) k (byte s k)) ∧
      (g.cached = true → (∀ e ∈ ls, g.addr e.2.1 % 128 + size ≤ 128 ∧ ∃ line, s.lineOf c.b g (g.addr e.2.1) = some line ∧
          (line.shared = true ∨ (keyPlace (128 * line.phys) ≠ 16 ∧ keyPlace (128 * line.phys) ≠ 17))) →
        SameMemory s t ∧ t.blocks = s.blocks ∧ ∀ a, cached t a = (cached s a).map (merged g.addr a))

/-- 09 R232-R236, R246: a copy command whose offsets, length and regions pass their checks, once its thread's earlier
operations are performed, joins the copy engine with the moves and the counter that its operands name. 09 R237, R239: hints
on a range of a register that grants a load complete whatever the pages hold; in scratch and exchange space they do nothing.
PWAIT ends once every scratch line of its range is present. That a command waits for its own thread's operations, and that
XST fixes its bank at issue, are the model's readings (log 22, log 21). -/
def Obligations.CopiesComplete : Prop :=
  (∀ (d a : BitVec 5) (b v : BitVec 7),
      let ok := fun (x : Ctx) (s : State) (gd gs : Region) (dst src : List Acc) =>
        Granted gd .store dst ∧ Granted gs .load src ∧ s.allPerformed x.t = true
      let copying := fun (st : Streams) (opds : List Opd) => { plain st opds with roles := [.copy] }
      let dO := fun (x : Ctx) => (x.item b.toNat 0).toNat
      let sO := fun (x : Ctx) => (x.item b.toNat 1).toNat
      let ctl := fun (x : Ctx) => (x.item b.toNat 2).toNat
      let len := fun (x : Ctx) => ctl x % 2 ^ 32
      let sizes := fun (x : Ctx) (limit : Nat) => dO x % 16 = 0 ∧ sO x % 16 = 0 ∧ len x % 16 = 0 ∧ 0 < len x ∧ len x ≤ 2 ^ 31 ∧
        ctl x < limit
      let gctl := fun (x : Ctx) => (x.r32 (b.toNat + 2) x.low).toNat
      let size := fun (x : Ctx) => [4, 8, 16, 128].getD (gctl x % 4) 128
      let elems := fun (x : Ctx) (r : Nat) => x.lanes.map (fun l => (l, (x.r32 r l).toNat, size x))
      -- the element of each lane: lane, source, destination, bytes
      let places := fun (x : Ctx) => topLanes (x.lanes.map (fun l =>
        (l, x.b.pos (x.rg a) (x.r32 (b.toNat + 1) l).toNat, x.b.pos (x.rg d) (x.r32 b.toNat l).toNat, size x)))
      CompletesWhen (.cpy d a b) (copying .both [.region d.toNat, .region a.toNat, .items b.toNat 3 false])
        (fun x s => ok x s (x.rg d) (x.rg a) [(x.low, dO x, len x)] [(x.low, sO x, len x)] ∧ sizes x (2 ^ 36) ∧
          (d = a → dO x + len x ≤ sO x ∨ sO x + len x ≤ dO x))
        (changing fun x s => s.startCopy x (.cpy d a b) (x.rg a) (x.rg d)
          [(x.b.pos (x.rg a) (sO x), x.b.pos (x.rg d) (dO x), len x)] [] 0 0 x.t.blk (some (ctl x / 2 ^ 32)) true) ∧
      CompletesWhen (.cpyg d a b) (copying .warp [.region d.toNat, .region a.toNat, .run b.toNat 3 false])
        (fun x s => ok x s (x.rg d) (x.rg a) (elems x b.toNat) (elems x (b.toNat + 1)) ∧ gctl x < 256 ∧ gctl x / 4 % 4 = 0 ∧
          ∀ l ∈ x.lanes, (x.r32 b.toNat l).toNat % size x = 0 ∧ (x.r32 (b.toNat + 1) l).toNat % size x = 0)
        (changing fun x s => s.startCopy x (.cpyg d a b) (x.rg a) (x.rg d)
          ((places x).map (·.2)) [] 0 0 x.t.blk (some (gctl x / 16)) true (places x)) ∧
      CompletesWhen (.xst d a b) (copying .both [.region d.toNat, .region a.toNat, .items b.toNat 3 false])
        (fun x s => ok x s (x.rg d) (x.rg a) [(x.low, dO x, len x)] [(x.low, sO x, len x)] ∧ sizes x (2 ^ 40) ∧
          (x.rg d).space = 3 ∧ ctl x / 2 ^ 36 < x.b.clusz)
        (changing fun x s => s.takeFresh.2.startCopy x (.xst d a b) (x.rg a) (x.rg d)
          [(x.b.pos (x.rg a) (sO x), (x.rg d).addr (dO x), len x)] [] 0 0
          ((s.clusterBlock x.b (ctl x / 2 ^ 36)).getD s.fresh) (some (ctl x / 2 ^ 32 % 16)) false) ∧
      CompletesWhen (.dupd d v b) (copying .warp [.region d.toNat, .run v.toNat 1 false, .run b.toNat 2 false])
        (fun x s =>
          let ctl := (x.r32 (b.toNat + 1) x.low).toNat
          let accs := x.lanes.map (fun l => (l, (x.r32 b.toNat l).toNat, 4))
          Granted (x.rg d) .update accs ∧ s.allPerformed x.t = true ∧ (∀ l ∈ x.lanes, (x.r32 b.toNat l).toNat % 4 = 0) ∧
          ctl < 4096 ∧ ctl / 64 % 4 = 0 ∧ (dupdOp (ctl % 16) (ctl / 16 % 4)).isSome ∧
          pass x s (x.rg d) .write accs = .go ∧ ownEntry x s (x.rg d) = false)
        (changing fun x s => s.startCopy x (.dupd d v b) Region.empty (x.rg d) []
          (x.lanes.map (fun l => (x.b.pos (x.rg d) (x.r32 b.toNat l).toNat, (x.r32 v.toNat l).setWidth 64)))
          ((x.r32 (b.toNat + 1) x.low).toNat % 16) ((x.r32 (b.toNat + 1) x.low).toNat / 16 % 4) x.t.blk
          (some ((x.r32 (b.toNat + 1) x.low).toNat / 256)) false
          (x.lanes.map (fun l => (l, 0, x.b.pos (x.rg d) (x.r32 b.toNat l).toNat, 4))))) ∧
  (∀ (a : BitVec 5) (b : BitVec 7),
      let sp := { plain .both [.region a.toNat, .items b.toNat 2 false] with roles := [.copy] }
      let off := fun (x : Ctx) => (x.item b.toNat 0).toNat
      let ctl := fun (x : Ctx) => (x.item b.toNat 1).toNat
      let len := fun (x : Ctx) => ctl x % 2 ^ 32
      let ok := fun (x : Ctx) => Granted (x.rg a) .load [(x.low, off x, len x)] ∧ (x.rg a).kind ≠ 4
      let line := fun (x : Ctx) => x.b.scratchOff (x.rg a).space.toNat ((x.rg a).addr (off x))
      (∀ (s : State) (c : Ctx), Clear s (.pref a b) sp c → ok (c.operands sp) → ctl (c.operands sp) < 3 * 2 ^ 32 →
        -- no clean-after stamp of the grant holds its reads (08 R196)
        (((c.operands sp).rg a).space = 0 → ((s.entry c.b.die ((c.operands sp).rg a).tag).map (·.stamp)).getD 0 = 0) →
        ∃ t, exec (.pref a b) s = .next (t.done sp c [] .seq) ∧
          (2 ≤ ((c.operands sp).rg a).space.toNat → t = s.countIssue c)) ∧
      (∀ (s : State) (c : Ctx), Clear s (.res a b) sp c → ok (c.operands sp) → ctl (c.operands sp) < 2 ^ 33 →
        ∃ t, exec (.res a b) s = .next (t.done sp c [] .seq) ∧ t.mem = s.mem ∧
          (((c.operands sp).rg a).space ≠ 0 → t = s.countIssue c)) ∧
      CompletesWhen (.pwait a b) sp (fun x _ => ctl x < 2 ^ 32 ∧ 2 ≤ (x.rg a).space.toNat ∧
        Granted (x.rg a) .load [(x.low, off x, len x)] ∧ x.b.absentIn (line x) (len x) = false) (fun _ s => (s, [], .seq)) ∧
      WaitsWhen (.pwait a b) sp (fun x _ => ctl x < 2 ^ 32 ∧ 2 ≤ (x.rg a).space.toNat ∧
        Granted (x.rg a) .load [(x.low, off x, len x)] ∧ x.b.absentIn (line x) (len x) = true)
        (fun x s => (s, .lines (line x / 128) ((line x + len x - 1) / 128), 0)))

/-! ## Borrows and region registers (08 R187-R209) -/

/-- 08 R193, R194, R196, R200: BORROW in scratch, exchange or die-shared space, of a range that no borrow conflicts with, is
granted at once: its entry is HELD, the register holds the borrow, and the status is 0, or 3 where a taint mark overlaps.
08 R200, R201, 11 R272: BORROW and REBORROW that have asked their homes end with the status that the answer brought.
08 R199, R200: what BORROW refuses before it asks: fields, alignment, length and range (RANGE, with A in ADDR, which is
the model's reading where A[63:56] is not 0: log 104), a full register, and an A or Y borrow of scratch or exchange space
(RIGHTS). -/
def Obligations.BorrowRule : Prop :=
  (∀ (d : BitVec 5) (a b : BitVec 7) (tr : BitVec 1) (k : BitVec 2) (s : State) (c : Ctx),
      let sp := { plain .both [.region d.toNat, .items a.toNat 1 false, .items b.toNat 1 false, .items b.toNat 1 true] with
                  roles := [.vector] }
      let x := c.operands sp
      let av := x.item a.toNat 0
      let bv := x.item b.toNat 0
      let space := fld bv 63 62
      let base := fld av 55 0
      let len := fld bv 41 0
      let table := s.localTab c.b.coreIx space
      let e := newEntry c.b c.t.blk (k.toNat + 1) space base len s.fresh (tr == 1) [] (.thread c.t d.toNat)
      let held := { e with state := .held, taint := localTaint table e, wp := localWanted table e }
      Clear s (.borrow d a b tr k) sp c → fld av 63 56 = 0 → fld bv 61 42 = 0 → base % 128 = 0 → len % 128 = 0 → 0 < len →
        len ≤ 2 ^ 41 → base + len ≤ s.spaceLimit c.b space → (c.b.region c.t.warp d.toNat).kind = 0 → space ≠ 0 →
        (k.toNat < 2 ∨ space = 1) → (space = 1 → c.b.coreIx / 128 < s.cds.length) → s.roomFor c.b.coreIx space c.t = true → (∀ f, (kfree table f (tableSize space)).isSome) → localFree table e = true →
        ∃ (ix : Nat) (t : State), kget table ix = none ∧
          exec (.borrow d a b tr k) s =
            .next (t.done sp c (x.wItem b.toNat 0 (if localTaint table e then 3 else 0)) .seq) ∧
          kget (t.localTab c.b.coreIx space) ix = some held ∧
          (t.blk? c.t.blk).map (fun y => y.region c.t.warp d.toNat) = some (grantedRegion held ix)) ∧
  (∀ (d : BitVec 5) (a b : BitVec 7) (tr : BitVec 1) (k : BitVec 2) (v : DWord) (r : List DWord),
      let ends := fun (i : Instr) (opds : List Opd) (stage : Nat) => EndsWhen i { plain .both opds with roles := [.vector] }
        (fun x _ => x.stage = stage ∧ x.answer = some (v :: r)) (fun x s => (s, x.wItem b.toNat 0 v, .seq))
      ends (.borrow d a b tr k) [.region d.toNat, .items a.toNat 1 false, .items b.toNat 1 false, .items b.toNat 1 true] 1 ∧
      ends (.reborrowS d b) [.region d.toNat, .items b.toNat 1 true] 2 ∧
      ends (.reborrowE d b) [.region d.toNat, .items b.toNat 1 true] 2) ∧
  (∀ (d : BitVec 5) (a b : BitVec 7) (tr : BitVec 1) (k : BitVec 2),
      let sp := { plain .both [.region d.toNat, .items a.toNat 1 false, .items b.toNat 1 false, .items b.toNat 1 true] with
                  roles := [.vector] }
      let av := fun (x : Ctx) => x.item a.toNat 0
      let bv := fun (x : Ctx) => x.item b.toNat 0
      let space := fun (x : Ctx) => fld (bv x) 63 62
      let base := fun (x : Ctx) => fld (av x) 55 0
      let len := fun (x : Ctx) => fld (bv x) 41 0
      let bad := fun (x : Ctx) (s : State) => fld (av x) 63 56 ≠ 0 ∨ fld (bv x) 61 42 ≠ 0 ∨ base x % 128 ≠ 0 ∨ len x % 128 ≠ 0 ∨
        len x = 0 ∨ 2 ^ 41 < len x ∨ s.spaceLimit x.b (space x) < base x + len x
      RefusedWhen (.borrow d a b tr k) sp bad (fun x _ => (10, (av x).toNat, x.allLanes)) ∧
      RefusedWhen (.borrow d a b tr k) sp (fun x s => ¬ bad x s ∧ ((x.b.region x.t.warp d.toNat).kind ≠ 0 ∨
        (2 ≤ k.toNat ∧ 2 ≤ space x))) (fun x _ => (9, 0, x.allLanes)))

/-- 08 R201-R209: the instructions on a register that holds a borrow, with no access through it outstanding. REBORROW of the
kind that the register has changes nothing; a local downgrade or a sole upgrade converts; SPLIT and SHARE hand out children,
GIVE gives one back, JOIN makes the parent whole, RETURN gives a local borrow back; RGMOV moves a register; RGCLR empties a
LOST one, and RGCLR.TAINT clears the taint of an E borrow.
08 R187, R207: RGINFO writes the 128 bits of a register as the rule lays them out, to four registers or to two. -/
def Obligations.RegionsComplete : Prop :=
  (∀ (d a : BitVec 5) (b : BitVec 7) (eq : BitVec 1) (n : BitVec 3) (cs : List Nat),
      let sp := fun (opds : List Opd) => { plain .both opds with roles := [.vector] }
      let priv := fun (opds : List Opd) => { plain .both opds with roles := [.vector], priv := true }
      let rd := fun (x : Ctx) => x.b.region x.t.warp d.toNat
      let ra := fun (x : Ctx) => x.b.region x.t.warp a.toNat
      let whole := fun (g : Region) => g.kind ≠ 0 ∧ g.splitp = false
      let top := fun (g : Region) => whole g ∧ g.hasParent = false ∧ g.lost = false
      let idle := fun (x : Ctx) (s : State) (g : Region) => s.busyRange x.b g = false ∧ s.opsPerformed x.t = true
      -- SPLIT, SHARE and GIVE leave the commands of the copy path and of the engines to their own waits
      let quiet := fun (x : Ctx) (s : State) (g : Region) => s.busyL1 x.b g = false
      let status := fun (x : Ctx) (v : Nat) => x.wItem b.toNat 0 (BitVec.ofNat 64 v)
      let reb := sp [.region d.toNat, .items b.toNat 1 true]
      let k := n.toNat + 1
      let split := sp [.region d.toNat, .region a.toNat, .items b.toNat (if eq = 1 then 1 else k) false]
      let targets := fun (x : Ctx) => (List.range k).map (fun i => fld (x.item b.toNat 0) (8 * i + 7) (8 * i))
      let shared := fun (x : Ctx) => ((List.range 8).map (fun i => fld (x.item b.toNat 0) (8 * i + 7) (8 * i))).takeWhile (· ≠ 255)
      CompletesWhen (.reborrowS d b) reb (fun x _ => top (rd x) ∧ (rd x).kind = 2) (fun x s => (s, status x 0, .seq)) ∧
      CompletesWhen (.reborrowS d b) reb (fun x s => top (rd x) ∧ (rd x).kind = 1 ∧ (rd x).space ≠ 0 ∧ idle x s (rd x) ∧
          (kget (s.localTab x.b.coreIx (rd x).space.toNat) (rd x).tag).any
            (fun e => e.state == .held && e.kind == 1 && e.blk == x.t.blk) = true)
        (fun x s => ((s.returnCaches x.b.coreIx (rd x).tag (rd x)).convertLocal x (rd x) 2, status x 0, .seq)) ∧
      CompletesWhen (.reborrowE d b) reb (fun x _ => top (rd x) ∧ (rd x).kind = 1) (fun x s => (s, status x 0, .seq)) ∧
      CompletesWhen (.reborrowE d b) reb (fun x s => top (rd x) ∧ (rd x).kind = 2 ∧ (rd x).space ≠ 0 ∧
        s.soleLocal x.b.coreIx (rd x) = true) (fun x s => (s.convertLocal x (rd x) 1, status x 0, .seq)) ∧
      CompletesWhen (.reborrowE d b) reb (fun x s => top (rd x) ∧ (rd x).kind = 2 ∧ (rd x).space ≠ 0 ∧
        s.soleLocal x.b.coreIx (rd x) = false) (fun x s => (s, status x 1, .seq)) ∧
      CompletesWhen (.split d a b eq n) split (fun x s => whole (ra x) ∧ (ra x).kind ≠ 4 ∧
          (∀ t ∈ targets x, targetOk x d a t = true) ∧ (targets x).Nodup ∧
          cutPoints x b (eq == 1) k ((ra x).lenm1.toNat + 1) = some cs ∧ quiet x s (ra x))
        (changing fun x s => s.handOut x d a (ra x) false
          (((targets x).zip (cs.zip (cs.drop 1))).map (fun y => (y.1, y.2.1, y.2.2 - y.2.1)))) ∧
      CompletesWhen (.share d a b) (sp [.region d.toNat, .region a.toNat, .items b.toNat 1 false]) (fun x s =>
          whole (ra x) ∧ (ra x).kind = 2 ∧ (∀ t ∈ shared x, targetOk x d a t = true) ∧ (shared x).Nodup ∧ shared x ≠ [] ∧
          quiet x s (ra x))
        (changing fun x s => s.handOut x d a (ra x) true ((shared x).map (fun t => (t, 0, (ra x).lenm1.toNat + 1)))) ∧
      CompletesWhen (.give a) (sp [.region a.toNat]) (fun x s => whole (ra x) ∧ (ra x).hasParent = true ∧
          quiet x (s.setRegion x.t a.toNat Region.empty) (ra x) ∧
          (s.setRegion x.t a.toNat Region.empty).opsPerformed x.t = true)
        (changing fun x s => (s.setRegion x.t a.toNat Region.empty).giveBack x.t.blk (ra x)) ∧
      CompletesWhen (.join a) (sp [.region a.toNat]) (fun x _ => (ra x).kind ≠ 0 ∧ ((ra x).splitp = true → (ra x).nsplit = 0))
        (changing fun x s => if (ra x).splitp then s.setRegion x.t a.toNat { ra x with splitp := false } else s) ∧
      WaitsWhen (.join a) (sp [.region a.toNat]) (fun x _ => (ra x).kind ≠ 0 ∧ (ra x).splitp = true ∧ (ra x).nsplit ≠ 0)
        (fun _ s => (s, .join a.toNat, 0)) ∧
      CompletesWhen (.returnR a) (sp [.region a.toNat]) (fun x s => top (ra x) ∧ (ra x).space ≠ 0 ∧
          idle x (s.setRegion x.t a.toNat Region.empty) (ra x))
        (changing fun x s => (s.setRegion x.t a.toNat Region.empty).returnBorrow x.b (ra x) (.ended x.t.blk)) ∧
      CompletesWhen (.rgmov d a) (sp [.region d.toNat, .region a.toNat]) (fun x _ => (ra x).kind ≠ 0 ∧ (d ≠ a → (rd x).kind = 0))
        (changing fun x s => if d = a then s else s.updBlk x.t.blk (fun y =>
          ((y.setRegion x.t.warp d.toNat (ra x)).setRegion x.t.warp a.toNat Region.empty).reparent (ra x) x.t.warp
            a.toNat d.toNat)) ∧
      CompletesWhen (.rgclr a) (priv [.region a.toNat]) (fun x _ => (ra x).lost = true) (changing fun x s =>
        let s := s.setRegion x.t a.toNat Region.empty
        if 2 ≤ (ra x).space.toNat then s
        else
          let s := s.l1Drop x.b.coreIx (ra x).tag
          if s.slotNamed x.b.die (ra x).tag then s else s.freeEntry x.b.die (ra x).tag) ∧
      (∀ e, CompletesWhen (.rgclrTaint a) (priv [.region a.toNat]) (fun x s => (ra x).kind = 1 ∧ (ra x).taint = true ∧
          (ra x).space = 0 ∧ s.entry x.b.die (ra x).tag = some e)
        (changing fun x s => e.pieces.foldl (fun s p => s.toHome x.b.die p 6 2 e.kind (ra x).tag 0)
          (s.setRegion x.t a.toNat { ra x with taint := false })))) ∧
  (∀ (d : BitVec 7) (a : BitVec 5) (s : State) (c : Ctx),
      let front := c.t.warp == 32
      let sp := plain .both [.run d.toNat (if front then 2 else 4) true, .region a.toNat]
      let g := c.b.region c.t.warp a.toNat
      let v : BitVec 128 := g.kind ++ g.space ++ (BitVec.ofBool g.splitp) ++ (BitVec.ofBool g.taint) ++ (BitVec.ofBool g.lost) ++
        (BitVec.ofBool g.wpseen) ++ g.nsplit ++ g.child ++ g.parent ++ g.slot ++ 0#1 ++ g.lenm1 ++ g.base
      let x := c.operands sp
      Clear s (.rginfo d a) sp c → exec (.rginfo d a) s = .next ((s.countIssue c).done sp c
        (if front then x.w64 d.toNat 0 (v.extractLsb' 0 64) ++ x.w64 (d.toNat + 1) 0 (v.extractLsb' 64 64)
         else x.lanes.flatMap (fun l => (List.range 4).flatMap (fun j => x.w32 (d.toNat + j) l false (v.extractLsb' (32 * j) 32))))
        .seq))

/-! ## Atomics, reductions and fences (09 R241-R245, 10 R254-R261) -/

/-- 09 R241-R243, 10 R254: an atomic whose accesses are granted and unhindered, whose path carries it, and whose release side
is met, sends one request a lane; it completes at once, or for an acquire side once they are performed. That a die which asks
itself is served in the same step is the model's choice (log 23). -/
def Obligations.AtomicsComplete : Prop :=
  ∀ (d : BitVec 7) (w : BitVec 2) (rg : BitVec 5) (ord scope : BitVec 3),
    let ops := [(Instr.atomAdd d w rg ord scope, MemOp.add), (.atomFadd d w rg ord scope, .fadd),
      (.atomSwap d w rg ord scope, .swap), (.atomCas d w rg ord scope, .cas), (.atomAnd d w rg ord scope, .and),
      (.atomOr d w rg ord scope, .or), (.atomXor d w rg ord scope, .xor), (.atomMin d w rg ord scope, .min),
      (.atomMax d w rg ord scope, .max), (.atomMinn d w rg ord scope, .minn), (.atomMaxn d w rg ord scope, .maxn),
      (.atomLd d w rg ord scope, .ld), (.atomSt d w rg ord scope, .st)]
    ∀ io ∈ ops,
      let op := io.2
      let sp := { plain .both [.slots d.toNat (if op = .cas then 3 else 2) (w == 1) (op != .st), .region rg.toNat] with
                  roles := [.vector] }
      let accs := fun (x : Ctx) => x.lanes.map (fun l => (l, x.slotOff d w l, if w = 1 then 8 else 4))
      let ok := fun (x : Ctx) (s : State) => Granted (x.rg rg) .atom (accs x) ∧ Unhindered x s (x.rg rg) .atom 60 (accs x) ∧
        pathBad x s (x.rg rg) .atom false op w scope.toNat (accs x) = [] ∧
        (2 ≤ ord.toNat → s.allPerformed x.t = true ∧
          (scope = 4 → ∀ m, x.th.sentWin = some m → m + 2 ≤ s.pkg.timeNs.toNat / 2 ^ s.winK))
      let go := fun (x : Ctx) (s : State) =>
        let sc := scOf s ord.toNat scope.toNat
        s.atomNow x (x.rg rg) op d w sc (accs x) (downAccs x s (x.rg rg) .atom (accs x) ++
          (if sc = .none ∨ s.routeUp (route (.cd x.b.die) (.md 0)) then [] else accs x))
      CompletesWhen io.1 sp (fun x s => ok x s ∧ (ord = 0 ∨ ord = 2)) (changing go) ∧
      WaitsWhen io.1 sp (fun x s => ok x s ∧ (ord = 1 ∨ ord = 3 ∨ ord = 4)) (fun x s => (go x s, .performed, 2)) ∧
      EndsWhen io.1 sp (fun x _ => x.stage = 2) (fun _ s => (s, [], .seq))

/-- 09 R241, R222, R223: at its place an atomic reads the old value and stores the new one in one step, and touches no other
byte: in die-shared memory, and in memory whose sectors are sound and unwatched and that no chunk compresses (11 R291).
09 R241, R236: what an element operation leaves of 32 bits `o`, under the operand `v` and CAS's new value `c`. -/
def Obligations.AtomicAtItsPlace : Prop :=
  (∀ (s : State) (r : Request) (op : MemOp) (ty : ElemTy) (size k : Nat) (v c : DWord) (sc : ScKind),
      let p := s.performAccess r
      let new := fun (old : List Byte) => leBytes size (elemOp op ty size (BitVec.ofNat 64 (leNat old)) v c).toNat
      r.body = .access op ty size k v c sc → (size = 4 ∨ size = 8) → k % size = 0 → op ≠ .ld →
        (∀ die, keyPlace k = 512 + die → die < 8 → s.cds.length = 8 → (s.cd die).shpoison = [] → (s.cd die).shsums = [] →
          keyAddr k < 192 * 2 ^ 20 →
          let a := keyAddr k
          let old := s.sharedRead die a size
          p.1 = ([BitVec.ofNat 64 (leNat old)], false) ∧ p.2.sharedRead die a size = new old ∧
          (∀ j, j < a ∨ a + size ≤ j → j < 192 * 2 ^ 20 → p.2.sharedRead die j 1 = s.sharedRead die j 1) ∧ SameMemory s p.2) ∧
        (keyPlace k < 18 → s.poison = [] → s.sums = [] →
          (keyPlace k < 16 → (s.md (keyPlace k)).wp = [] ∧ (s.md (keyPlace k)).overflow = [] ∧
            kget (s.md (keyPlace k)).chunks (chunkOf k) = none) →
          let old := cread s.mem k size
          p.1 = ([BitVec.ofNat 64 (leNat old)], false) ∧ cread p.2.mem k size = new old ∧ SameOutside s p.2 k size)) ∧
  (∀ (o v c : Word),
      let f := fun (op : MemOp) => elemOp op .w32 4 (o.setWidth 64) (v.setWidth 64) (c.setWidth 64)
      f .add = (o + v).setWidth 64 ∧ f .swap = v.setWidth 64 ∧ f .st = v.setWidth 64 ∧ f .ld = o.setWidth 64 ∧
      f .cas = (if o = v then c else o).setWidth 64 ∧ f .and = (o &&& v).setWidth 64 ∧ f .or = (o ||| v).setWidth 64 ∧
      f .xor = (o ^^^ v).setWidth 64 ∧ f .min = (if v.toInt < o.toInt then v else o).setWidth 64 ∧
      f .max = (if o.toInt < v.toInt then v else o).setWidth 64 ∧ f .minn = (if v < o then v else o).setWidth 64 ∧
      f .maxn = (if o < v then v else o).setWidth 64)

/-- 09 R244, R221, R245, 10 R254: a reduction that is granted and unhindered, whose path carries it, adds each lane's operand
to the partial of its element; FENCE completes once its release side is met, and waits until then: for its thread's operations
to be performed, and with scope .SYSTEM for the second window after the last write that it sent (10 R261). -/
def Obligations.ReductionsComplete : Prop :=
  ∀ (d : BitVec 7) (w : BitVec 2) (rg : BitVec 5) (ord scope : BitVec 3),
    let ops := [(Instr.redAdd d w rg ord scope, MemOp.add), (.redFadd d w rg ord scope, .fadd), (.redMin d w rg ord scope, .min),
      (.redMax d w rg ord scope, .max), (.redFmin d w rg ord scope, .fmin), (.redFmax d w rg ord scope, .fmax),
      (.redAnd d w rg ord scope, .and), (.redOr d w rg ord scope, .or), (.redXor d w rg ord scope, .xor),
      (.redMinn d w rg ord scope, .minn), (.redMaxn d w rg ord scope, .maxn)]
    let size := if w = 1 then 8 else 4
    let released := fun (x : Ctx) (s : State) => s.allPerformed x.t = true ∧
      (scope = 4 → ∀ m, x.th.sentWin = some m → m + 2 ≤ s.pkg.timeNs.toNat / 2 ^ s.winK)
    let accs := fun (x : Ctx) => x.lanes.map (fun l => (l, x.slotOff d w l, size))
    let out := fun (x : Ctx) (s : State) => (accs x).filter (fun y => (s.lineOf x.b (x.rg rg) ((x.rg rg).addr y.2.1)).isNone)
    (∀ io ∈ ops, CompletesWhen io.1 { plain .both [.slots d.toNat 2 (w == 1) false, .region rg.toNat] with roles := [.vector] }
      (fun x s => Granted (x.rg rg) .red (accs x) ∧ pass x s (x.rg rg) .write (out x s) = .go ∧
        watched x s (x.rg rg) 60 (accs x) = none ∧ heldUp x s (x.rg rg) .write (out x s) = none ∧
        pathBad x s (x.rg rg) .write true io.2 w scope.toNat (accs x) = [] ∧ ownEntry x s (x.rg rg) = false ∧
        (ord = 2 → released x s))
      (changing fun x s => s.redNow x (x.rg rg) io.2 w
        (x.lanes.map (fun l => (l, x.slotOff d w l, x.slotVal d w 1 l, BitVec.ofNat 64 (2 ^ (8 * size) - 1))))
        (downAccs x s (x.rg rg) .write (out x s)))) ∧
    CompletesWhen (.fence scope) (plain .both []) released (fun _ s => (s, [], .seq)) ∧
    EndsWhen (.fence scope) (plain .both []) released (fun _ s => (s, [], .seq)) ∧
    WaitsWhen (.fence scope) (plain .both []) (fun x s => s.allPerformed x.t = false) (fun x s => (s, .performed, x.stage)) ∧
    ∀ n, WaitsWhen (.fence 4) (plain .both [])
      (fun x s => s.allPerformed x.t = true ∧ x.th.sentWin = some n ∧ s.pkg.timeNs.toNat / 2 ^ s.winK < n + 2)
      (fun x s => (s, .window ((n + 2) * 2 ^ s.winK), x.stage))

/-! ## Matrix and rank engines (07 R158-R184, 11 R294-R296, 14 R355, R358) -/

/-- R163, R164, R166-R168, R171-R173: the products enter the array where the tile is allotted, the descriptor's fields are in
order, the B registers are allotted, and the A rows with their scales lie in a scratch region that grants loads; they hold
their B registers, whose contents they take at issue. When operands are read is the model's reading (log 56). -/
def Obligations.ProductsComplete : Prop :=
  ∀ (d : BitVec 5) (r : BitVec 7) (mid sat : BitVec 1) (la : BitVec 4),
    let sp := matrixSpec [.run r.toNat 1 false] la
    let m := fun (x : Ctx) => x.b.front.sget (x.b.front.swb + r.toNat)
    let aty := fun (x : Ctx) => fld (m x) 63 60
    let bty := fun (x : Ctx) => fld (m x) 59 56
    let g := fun (x : Ctx) => x.rg (BitVec.ofNat 5 (fld (m x) 55 52))
    let off := fun (x : Ctx) => fld (m x) 51 32
    let stride := fun (x : Ctx) => fld (m x) 31 16
    let base := fun (x : Ctx) => fld (m x) 15 7
    let width := fun (t : Nat) => [16, 16, 8, 8, 6, 6, 4, 8].getD t 0
    let depth := fun (t : Nat) => [32, 32, 64, 64, 128, 128, 128, 64].getD t 0
    let meet := fun (x : Ctx) => aty x ≤ 7 ∧ bty x ≤ 7 ∧ depth (aty x) = depth (bty x) ∧ (aty x = 7 ↔ bty x = 7)
    let enters := fun (i : Instr) (shape : Ctx → Prop) (row scales regs : Ctx → Nat) =>
      let span := fun (x : Ctx) => if scales x = 0 then 63 * stride x + row x else 64 * stride x + scales x
      let reads := fun (x : Ctx) => (List.range 64).map (fun j => (x.b.pos (g x) (off x + j * stride x), row x)) ++
        (if scales x = 0 then [] else [(x.b.pos (g x) (off x + 64 * stride x), scales x)])
      EntersWhen i sp .array
        (fun x _ => d.toNat < x.b.allot.tiles ∧ shape x ∧ off x % 16 = 0 ∧ stride x % 16 = 0 ∧ row x ≤ stride x ∧
          (∀ q, q < 4 → ∃ w, x.b.matrixWarp q = some w ∧ base x + regs x ≤ w.allot) ∧
          Granted (g x) .load [(0, off x, span x)] ∧ (g x).space = 2)
        reads (fun x => [(d.toNat, base x, regs x)])
        (fun x => { EngineOp.make x i (m x) with regions := [g x], quarter := x.b.quarters (base x) (regs x), reads := reads x })
    let row := fun (x : Ctx) => depth (aty x) * width (aty x) / 8
    enters (.mma d r sat la) (fun x => meet x ∧ fld (m x) 6 0 = 0 ∧ (sat = 1 → aty x = 7)) row (fun _ => 0)
      (fun x => depth (bty x) * width (bty x) / 64) ∧
    enters (.mmas d r la) (fun x => meet x ∧ fld (m x) 6 0 = 0 ∧ 2 ≤ aty x ∧ aty x ≤ 6 ∧ 2 ≤ bty x ∧ bty x ≤ 6) row
      (fun x => 64 * (depth (aty x) / 32)) (fun x => depth (bty x) * width (bty x) / 64 + 1) ∧
    enters (.mbp d r mid sat la) (fun x => aty x = 7 ∧ bty x = 0 ∧ fld (m x) 0 0 = 0 ∧ 1 ≤ fld (m x) 3 1 ∧
      fld (m x) 3 1 ≤ fld (m x) 6 4) (fun _ => 64) (fun _ => 0) (fun x => fld (m x) 3 1 + 1)

/-- R161, R170, R174, R175: the tile instructions, MTRN, MPERM and MRSUM on the array, the others on the tile port, whose
MZERO, MLD and MCPY are refused with TILE_BUSY while their tile is in flight; a tile that is not allotted, written or read,
refuses each with code 19. -/
def Obligations.TileInstructionsComplete : Prop :=
  ∀ (d a n : BitVec 5) (r : BitVec 7) (la : BitVec 4),
    let sp1 := matrixSpec [] la
    let spr := matrixSpec [.run r.toNat 1 false] la
    let spg := matrixSpec [.region n.toNat, .run r.toNat 1 false] la
    let m := fun (x : Ctx) => x.b.front.sget (x.b.front.swb + r.toNat)
    let has := fun (x : Ctx) (t : BitVec 5) => t.toNat < x.b.allot.tiles
    let idle := fun (x : Ctx) (s : State) => (s.inFlight x.t.blk x.b).getLsbD d.toNat = false
    let off := fun (x : Ctx) => fld (m x) 51 32
    let stride := fun (x : Ctx) => fld (m x) 31 16
    let rows := fun (x : Ctx) (g : Region) (k : Nat) => (List.range 64).map (fun j => (x.b.pos g (off x + j * stride x), k))
    let whole := fun (x : Ctx) (g : Region) (right : Right) (row : Nat) => off x % 16 = 0 ∧ stride x % 16 = 0 ∧ row ≤ stride x ∧
      Granted g right [(0, off x, 63 * stride x + row)] ∧ g.space = 2
    let row := fun (x : Ctx) => 8 * [16, 16, 8, 8, 6, 6, 4, 8].getD (fld (m x) 63 60) 0
    let gm := fun (x : Ctx) => x.rg (BitVec.ofNat 5 (fld (m x) 55 52))
    let mperm := Instr.mperm d a r la
    let mld := Instr.mld d n r la
    let mst := Instr.mst n a r la
    let mcvt := Instr.mcvt n a r la
    EntersWhen (.mtrn d a la) sp1 .array (fun x _ => has x d ∧ has x a) (fun _ => []) (fun _ => [])
      (fun x => EngineOp.make x (.mtrn d a la) 0) ∧
    EntersWhen mperm spr .array (fun x _ => has x d ∧ has x a ∧ fld (m x) 63 56 = 0 ∧ fld (m x) 31 0 = 0 ∧
        off x % 16 = 0 ∧ Granted (gm x) .load [(0, off x, 128)] ∧ (gm x).space = 2)
      (fun x => [(x.b.pos (gm x) (off x), 128)]) (fun _ => [])
      (fun x => { EngineOp.make x mperm (m x) with regions := [gm x], reads := [(x.b.pos (gm x) (off x), 128)] }) ∧
    EntersWhen (.mrsum d a r la) spr .array (fun x _ => has x d ∧ has x a ∧ fld (m x) 63 1 = 0) (fun _ => [])
      (fun _ => []) (fun x => EngineOp.make x (.mrsum d a r la) (m x)) ∧
    EntersWhen (.mzero d la) sp1 .tile (fun x s => has x d ∧ idle x s) (fun _ => []) (fun _ => [])
      (fun x => EngineOp.make x (.mzero d la) 0) ∧
    EntersWhen mld spg .tile (fun x s => has x d ∧ idle x s ∧ fld (m x) 63 52 = 0 ∧ fld (m x) 15 0 = 0 ∧
        whole x (x.rg n) .load 256)
      (fun x => rows x (x.rg n) 256) (fun _ => [])
      (fun x => { EngineOp.make x mld (m x) with regions := [x.rg n], reads := rows x (x.rg n) 256 }) ∧
    EntersWhen mst spg .tile (fun x _ => has x a ∧ fld (m x) 63 52 = 0 ∧ fld (m x) 15 0 = 0 ∧
        whole x (x.rg n) .store 256)
      (fun _ => []) (fun _ => [])
      (fun x => { EngineOp.make x mst (m x) with regions := [x.rg n], writes := rows x (x.rg n) 256 }) ∧
    EntersWhen (.mcpy d a la) sp1 .tile (fun x s => has x d ∧ has x a ∧ idle x s) (fun _ => []) (fun _ => [])
      (fun x => EngineOp.make x (.mcpy d a la) 0) ∧
    EntersWhen mcvt spg .tile (fun x _ => has x a ∧ fld (m x) 63 60 < 8 ∧ fld (m x) 56 52 = 0 ∧ fld (m x) 15 0 = 0 ∧
        whole x (x.rg n) .store (row x))
      (fun _ => []) (fun _ => [])
      (fun x => { EngineOp.make x mcvt (m x) with regions := [x.rg n], writes := rows x (x.rg n) (row x) }) ∧
    RefusedWhen (.mzero d la) sp1 (fun x s => has x d ∧ ¬ idle x s) (fun _ _ => (18, 0, 0)) ∧
    RefusedWhen (.mcpy d a la) sp1 (fun x s => has x d ∧ has x a ∧ ¬ idle x s) (fun _ _ => (18, 0, 0)) ∧
    RefusedWhen mld spg (fun x s => has x d ∧ ¬ idle x s ∧ fld (m x) 63 52 = 0 ∧ fld (m x) 15 0 = 0 ∧ whole x (x.rg n) .load 256)
      (fun _ _ => (18, 0, 0)) ∧
    (∀ i ∈ [(Instr.mtrn d a la, sp1), (.mcpy d a la, sp1), (mperm, spr), (.mrsum d a r la, spr)],
      RefusedWhen i.1 i.2 (fun x _ => ¬ has x d ∨ ¬ has x a) (fun _ _ => (19, 0, 0))) ∧
    (∀ i ∈ [(Instr.mzero d la, sp1), (mld, spg)], RefusedWhen i.1 i.2 (fun x _ => ¬ has x d) (fun _ _ => (19, 0, 0))) ∧
    (∀ i ∈ [(mst, spg), (mcvt, spg)], RefusedWhen i.1 i.2 (fun x _ => ¬ has x a) (fun _ _ => (19, 0, 0)))

/-- 14 R355, R358, 07 R169, R176: MRDY arrives and waits for its phase and for the register writes of the MATRIX warps; MWAIT
ends when its tile is not in flight, and lets its B registers go; MSTAT reads the status bits of the tiles. What MRDY waits
for is the model's reading (log 60). -/
def Obligations.MatrixControlCompletes : Prop :=
  ∀ (d e : BitVec 5) (r : BitVec 7) (la : BitVec 4) (tok : Word),
    let sp := { plain .front [] with matrix := true }
    let i := Instr.mrdy d
    let owed := fun (x : Ctx) (s : State) => ∃ b, s.blk? x.t.blk = some b ∧
      ∃ w ∈ b.warps, w.role = .matrix ∧ ¬ (w.t.pends = [] ∧ w.e.pends = [])
    let bar := fun (x : Ctx) (s : State) => s.bar? ((s.blk? x.t.blk).getD x.b) 0 d.toNat
    let arrives := fun (x : Ctx) (s : State) => s.allPerformed x.t = true ∧
      ∃ r, x.b.bars[d.toNat]? = some r ∧ memberOf x.b x.t 0 ∈ r.members ∧ r.broken = false
    let arrived := fun (x : Ctx) (s : State) => (s.arrive x.t x.b 0 d.toNat).2
    let past := fun (x : Ctx) (s : State) => ∀ r, bar x s = some r → r.c ≠ tok
    let free := fun (s : State) (x : Ctx) => s.updBlk x.t.blk (fun b => { b with bheld := b.bheld.filter (fun h => h.1 != d.toNat) })
    let flying := fun (x : Ctx) (s : State) => (s.inFlight x.t.blk x.b).getLsbD d.toNat = true
    let has := fun (x : Ctx) => d.toNat < x.b.allot.tiles
    CompletesWhen i sp (fun x s => arrives x s ∧ ¬ owed x (arrived x s) ∧
      ∀ r, bar x (arrived x s) = some r → r.c ≠ (s.arrive x.t x.b 0 d.toNat).1) (changing arrived) ∧
    WaitsWhen i sp (fun x s => arrives x s ∧ ∃ r, bar x (arrived x s) = some r ∧ r.c = (s.arrive x.t x.b 0 d.toNat).1 ∧
        r.broken = false)
      (fun x s => (arrived x s, .barrier 0 d.toNat (s.arrive x.t x.b 0 d.toNat).1, 1)) ∧
    EndsWhen i sp (fun x s => x.stage = 1 ∧ x.token = tok ∧ past x s ∧ ¬ owed x s) (fun _ s => (s, [], .seq)) ∧
    EndsWhen i sp (fun x _ => x.stage = 2) (fun _ s => (s, [], .seq)) ∧
    CompletesWhen (.mwait d) sp (fun x s => has x ∧ ¬ flying x s) (changing fun x s => free s x) ∧
    WaitsWhen (.mwait d) sp (fun x s => has x ∧ flying x s) (fun _ s => (s, .tiles (laneBit d.toNat), 0)) ∧
    EndsWhen (.mwait d) sp (fun x s => has x ∧ ¬ flying x s) (changing fun x s => free s x) ∧
    Completes (.mstat e r la) (matrixSpec [.run r.toNat 1 true] la) (fun x s =>
      (s, x.w64 r.toNat 0 (if e = 0 then x.b.tdirty ++ x.b.tvalid else (s.inFlight x.t.blk x.b).setWidth 64), .seq))

/-- R165, R178-R181, 11 R294, R295: RANK, RMMA, RTV, RATL and RRCL enter the queue of their engine, where their descriptor is well
formed, what they read and write is granted, and what they read at issue is present; RATL and RRCL mark their table as used by the
block. RLST starts a copy of its list to exchange or global space. A descriptor field outside the values of R165 or R295 is refused
with RANK_RANGE, and so is a RANK whose source and destination bytes overlap. That RLST reads its list when its copy lands, and does
not look at bits [12:9] for a global destination, is the model's reading (log 59, log 76). -/
def Obligations.RankInstructionsComplete : Prop :=
  (∀ (d a : BitVec 5) (r : BitVec 7) (ty : BitVec 2) (tie : BitVec 1) (la : BitVec 4),
      let sp := matrixSpec [.region d.toNat, .region a.toNat, .run r.toNat 1 false] la
      let sp1 := matrixSpec [.region a.toNat, .run r.toNat 1 false] la
      let sp2 := matrixSpec [.region a.toNat, .run r.toNat 2 false] la
      let m := fun (x : Ctx) => x.b.front.sget (x.b.front.swb + r.toNat)
      let src := fun (x : Ctx) => fld (m x) 63 44
      let dst := fun (x : Ctx) => fld (m x) 43 24
      let n := fun (x : Ctx) => fld (m x) 23 13
      let sized := fun (x : Ctx) => 1 ≤ n x ∧ n x ≤ 1024
      let bytes := fun (n : Nat) => 4 + 4 * ((n + 1) / 2)
      let has := fun (g : Region) (right : Right) (o k : Nat) => Granted g right [(0, o, k)] ∧ g.space = 2
      let z := [4, 2, 1].getD ty.toNat 1
      let read := fun (x : Ctx) (k : Nat) => (x.b.pos (x.rg a) (src x), k)
      let write := fun (x : Ctx) (k : Nat) => (x.b.pos (x.rg d) (dst x), k)
      let listed := fun (x : Ctx) => x.listNeeds (x.rg a) (src x) ((x.rg a).bytes - src x)
      let k := fun (x : Ctx) => fld (m x) 12 2
      let rank := Instr.rank d a r ty la
      let rtv := Instr.rtv d a r la
      let rmma := Instr.rmma d a r tie la
      let rlst := Instr.rlst d a r la
      let wide := fun (x : Ctx) => if (m x).getLsbD 12 then 4 else 2
      let m2 := fun (x : Ctx) => x.b.front.sget (x.b.front.swb + r.toNat + 1)
      let lists := fun (x : Ctx) => (List.range (fld (m x) 23 18 + 1)).map (fun j => src x + j * fld (m x) 43 28)
      let table := fun (x : Ctx) => fld (m x) 33 24 = 0 ∧ fld (m x) 12 0 = 0 ∧ src x % 16 = 0 ∧ sized x ∧
        fld (m x) 43 34 + n x ≤ 1024 ∧ has (x.rg a) .load (src x) (2 * n x)
      let loads := fun (i : Instr) (eng : Engine) (used : Block → Block) =>
        CompletesWhen i sp1 (fun x s => table x ∧ x.b.absentOf [read x (2 * n x)] = none ∧
            (s.core x.b.coreIx).waitingIn eng < engineSize eng)
          (changing fun x s => (s.enterEngine x eng [] { EngineOp.make x i (m x) with
            regions := [x.rg a], reads := [read x (2 * n x)] }).updBlk x.t.blk used)
      EntersWhen rank sp .rank (fun x _ => sized x ∧ fld (m x) 1 0 = 0 ∧ 1 ≤ k x ∧ k x ≤ n x ∧ src x % z = 0 ∧
          dst x % 4 = 0 ∧ has (x.rg d) .store (dst x) (bytes (k x)) ∧ has (x.rg a) .load (src x) (n x * z) ∧
          spansMeet [read x (n x * z)] [write x (bytes (k x))] = false)
        (fun x => [read x (n x * z)]) (fun _ => [])
        (fun x => { EngineOp.make x rank (m x) with
          regions := [x.rg d, x.rg a], reads := [read x (n x * z)], writes := [write x (bytes (k x))] }) ∧
      EntersWhen rmma sp2 .array (fun x _ => d.toNat < x.b.allot.tiles ∧ src x % 4 = 0 ∧ fld (m x) 43 28 % 4 = 0 ∧
          fld (m x) 27 24 = 0 ∧ fld (m x) 17 13 = 0 ∧ fld (m x) 12 3 % 32 = 0 ∧ fld (m x) 12 3 ≤ 992 ∧ fld (m x) 2 0 = 0 ∧
          fld (m2 x) 63 9 = 0 ∧ (∀ q, q < 4 → ∃ w, x.b.matrixWarp q = some w ∧ fld (m2 x) 8 0 + 8 ≤ w.allot) ∧
          has (x.rg a) .load (src x) 4)
        (fun x => (lists x).flatMap (fun o => x.listNeeds (x.rg a) o ((x.rg a).bytes - o)))
        (fun x => [(d.toNat, fld (m2 x) 8 0, 8)])
        (fun x => { EngineOp.make x rmma (m x) with
          desc2 := m2 x, regions := [x.rg a], quarter := x.b.quarters (fld (m2 x) 8 0) 8,
          reads := (lists x).map (fun o => x.listSpan (x.rg a) o 1024) }) ∧
      EntersWhen rtv sp .rank (fun x _ => sized x ∧ fld (m x) 11 0 = 0 ∧ src x % 4 = 0 ∧ dst x % wide x = 0 ∧
          has (x.rg d) .store (dst x) (n x * wide x) ∧ has (x.rg a) .load (src x) (bytes (n x)))
        listed (fun _ => [])
        (fun x => { EngineOp.make x rtv (m x) with
          regions := [x.rg d, x.rg a], reads := [x.listSpan (x.rg a) (src x) 1024], writes := [write x (n x * wide x)] }) ∧
      loads (.ratl a r la) .array (fun b => { b with attUsed := true }) ∧
      loads (.rrcl a r la) .rank (fun b => { b with recUsed := true }) ∧
      CompletesWhen rlst sp (fun x s => sized x ∧ fld (m x) 4 0 = 0 ∧ src x % 4 = 0 ∧ dst x % 4 = 0 ∧
          ((x.rg d).space = 0 ∨ ((x.rg d).space = 3 ∧ fld (m x) 12 9 < x.b.clusz)) ∧
          Granted (x.rg d) .store [(0, dst x, bytes (n x))] ∧ has (x.rg a) .load (src x) (bytes (n x)) ∧
          x.b.absentOf (listed x) = none ∧ s.allPerformed x.t = true)
        (changing fun x s =>
          let s2 := { s with fresh := s.fresh + 1 }
          let far := (x.rg d).space = 3
          s2.startCopy x rlst (x.rg a) (x.rg d)
            [(x.b.pos (x.rg a) (src x), if far then (x.rg d).addr (dst x) else dst x, bytes (n x))] [] 0 (n x)
            (if far then (s2.clusterBlock x.b (fld (m x) 12 9)).getD s.fresh else x.t.blk) (some (fld (m x) 8 5)) false)) ∧
  (∀ (d a : BitVec 5) (r : BitVec 7) (ty : BitVec 2) (tie : BitVec 1) (la : BitVec 4),
      let sp := matrixSpec [.region d.toNat, .region a.toNat, .run r.toNat 1 false] la
      let sp1 := matrixSpec [.region a.toNat, .run r.toNat 1 false] la
      let m := fun (x : Ctx) => x.b.front.sget (x.b.front.swb + r.toNat)
      let src := fun (x : Ctx) => fld (m x) 63 44
      let dst := fun (x : Ctx) => fld (m x) 43 24
      let n := fun (x : Ctx) => fld (m x) 23 13
      let k := fun (x : Ctx) => fld (m x) 12 2
      let z := [4, 2, 1].getD ty.toNat 1
      let unsized := fun (x : Ctx) => n x = 0 ∨ 1024 < n x
      let bytes := fun (n : Nat) => 4 + 4 * ((n + 1) / 2)
      let has := fun (g : Region) (right : Right) (o k : Nat) => Granted g right [(0, o, k)] ∧ g.space = 2
      let broken := fun (x : Ctx) => unsized x ∨ fld (m x) 1 0 ≠ 0 ∨ k x = 0 ∨ n x < k x ∨ src x % z ≠ 0 ∨ dst x % 4 ≠ 0
      let out := fun (_ : Ctx) (_ : State) => (20, 0, (0 : Word))
      RefusedWhen (.rank d a r ty la) sp (fun x _ => broken x) out ∧
      RefusedWhen (.rank d a r ty la) sp (fun x _ => ¬ broken x ∧ has (x.rg d) .store (dst x) (bytes (k x)) ∧
        has (x.rg a) .load (src x) (n x * z) ∧
        spansMeet [(x.b.pos (x.rg a) (src x), n x * z)] [(x.b.pos (x.rg d) (dst x), bytes (k x))] = true) out ∧
      RefusedWhen (.rmma d a r tie la) (matrixSpec [.region a.toNat, .run r.toNat 2 false] la) (fun x _ =>
        d.toNat < x.b.allot.tiles ∧ (src x % 4 ≠ 0 ∨ fld (m x) 43 28 % 4 ≠ 0 ∨ fld (m x) 27 24 ≠ 0 ∨ fld (m x) 17 13 ≠ 0 ∨
          fld (m x) 12 3 % 32 ≠ 0 ∨ 992 < fld (m x) 12 3 ∨ fld (m x) 2 0 ≠ 0)) out ∧
      RefusedWhen (.rtv d a r la) sp (fun x _ => unsized x ∨ fld (m x) 11 0 ≠ 0 ∨ src x % 4 ≠ 0 ∨
        dst x % (if (m x).getLsbD 12 then 4 else 2) ≠ 0) out ∧
      RefusedWhen (.rlst d a r la) sp (fun x _ => unsized x ∨ fld (m x) 4 0 ≠ 0 ∨ src x % 4 ≠ 0 ∨ dst x % 4 ≠ 0) out ∧
      (∀ i ∈ [Instr.ratl a r la, .rrcl a r la], RefusedWhen i sp1 (fun x _ => unsized x ∨ 1024 < fld (m x) 43 34 + n x ∨
        fld (m x) 33 24 ≠ 0 ∨ fld (m x) 12 0 ≠ 0 ∨ src x % 16 ≠ 0) out))

/-! ## Tasks and their objects (12 R314, 13 R322-R338) -/

/-- 13 R326-R328, R332-R338: an object instruction on an object of the issuer's own die, through a Y region that grants it,
performs its operation in one step: done, it writes its items; an object that is not ready makes it wait, and the task unit
settles a task's wait; one that has waited ends with the items of its answer. That the own die serves in the same step is the
model's choice (log 23, log 24). -/
def Obligations.ObjectInstructionsComplete : Prop :=
  ∀ (d b : BitVec 7) (a : BitVec 5) (k : Nat) (vals : List DWord) (o : Option Word),
    let item := fun (x : Ctx) (n : Nat) => x.item b.toNat n
    let q := fun (x : Ctx) => (item x 1).getLsbD 0
    let forms := fun (i : Instr) (nB nD : Nat) (unused : Ctx → Prop) (size : Ctx → Nat) (op : Ctx → ObjOp)
        (args : Ctx → List DWord) (rel : Prop) =>
      let sp := { plain .both [.region a.toNat, .items b.toNat nB false, .items d.toNat nD true] with roles := [.vector] }
      let acc := fun (x : Ctx) => [(x.low, (item x 0).toNat, size x)]
      let ok := fun (x : Ctx) (s : State) => unused x ∧ Granted (x.rg a) .atom (acc x) ∧
        (item x 0).toNat % size x = 0 ∧ pass x s (x.rg a) .atom (acc x) = .go ∧ watched x s (x.rg a) 60 (acc x) = none ∧
        objectKey x s (x.rg a) (item x 0).toNat = some k ∧ keyPlace k ≠ 16 ∧ foreignKey k = false ∧
        s.keyDie x.b.die k = .cd x.b.die ∧ (rel → s.allPerformed x.t = true)
      let r := fun (x : Ctx) (s : State) =>
        (s.newId (.cd x.b.die)).2.objectStep (op x) k (args x) { task := x.b.task.getD 0xFFFFFFFF, t := x.t }
      let out := fun (x : Ctx) => (List.range nD).flatMap (fun j => x.wItem d.toNat j (vals.getD j 0))
      CompletesWhen i sp (fun x s => ok x s ∧ (r x s).1 = .done vals ∧ nD ≤ vals.length)
        (fun x s => ((r x s).2, out x, .seq)) ∧
      WaitsWhen i sp (fun x s => ok x s ∧ (r x s).1 = .wait o) (fun x s =>
        (if x.b.task.isSome then (r x s).2.post (.adoption x.t (o.getD 0xFFFFFFFF)) else (r x s).2, .object, 0)) ∧
      EndsWhen i sp (fun x _ => 4 ≤ x.stage ∧ x.answer = some (0 :: vals) ∧ nD ≤ vals.length) (fun x s => (s, out x, .seq))
    forms (.fwait d a b) 1 2 (fun _ => True) (fun _ => 16) (fun _ => .fwait) (fun _ => []) False ∧
    forms (.ffill d a b) 3 1 (fun x => (item x 2).toNat ≤ 1) (fun _ => 16) (fun _ => .ffill) (fun x => [item x 1, item x 2]) True ∧
    forms (.fown d a b) 2 1 (fun x => (item x 1).toNat ≤ 3) (fun x => if q x then 64 else 16)
      (fun x => if q x then .fownQ else .fown) (fun x => [item x 1]) False ∧
    forms (.lock d a b) 2 1 (fun x => (item x 1).toNat ≤ 1) (fun _ => 8) (fun _ => .lock) (fun x => [item x 1]) False ∧
    forms (.unlock d a b) 1 1 (fun _ => True) (fun _ => 8) (fun _ => .unlock) (fun _ => []) True ∧
    forms (.qpop d a b) 2 2 (fun x => (item x 1).toNat ≤ 1) (fun _ => 64) (fun _ => .qpop) (fun x => [item x 1]) False ∧
    forms (.succ d a b) 1 1 (fun _ => True) (fun _ => 8) (fun _ => .succ) (fun _ => []) True

/-- 13 R322, R333-R335, R337, R338: what one operation does to an object in die-shared memory: its answer, and word 0 after it.
A waiter that is already recorded is not recorded twice; a fill and an unlock wake every registered waiter, whatever `W` holds
(the model's reading, log 66). -/
def Obligations.ObjectRules : Prop :=
  ∀ (s : State) (die k : Nat) (args : List DWord) (w : Waiter),
    keyPlace k = 512 + die → keyPlace (k + 15) = 512 + die → k % 8 = 0 → keyAddr k + 64 ≤ 192 * 2 ^ 20 → die < 8 →
    s.cds.length = 8 →
    let step_ := fun (op : ObjOp) => s.objectStep op k args w
    let w0 := BitVec.ofNat 64 (s.numAt k 8)
    let word0 := fun (t : State) => BitVec.ofNat 64 (t.numAt k 8)
    let state := w0.extractLsb' 62 2
    let held := w0.getLsbD 63
    let owner := w0.extractLsb' 0 32
    let named : Option Word := if owner = 0xFFFFFFFF then none else some owner
    let flag := fun (n : Nat) => (args.getD n 0).getLsbD 0
    let put := fun (st : BitVec 2) (o : Word) => st ++ w0.extractLsb' 32 30 ++ o
    let park := (s.cd die).park
    let recorded := ∃ op, (k, op, w) ∈ park
    -- every registered waiter gets a wake, and its record goes (log 66)
    let woken := fun (t : State) => (t.cd die).park = park.filter (fun x => x.1 ≠ k) ∧
      t.inbox = s.inbox ++ (park.filter (fun x => x.1 = k)).map (fun x => .wake x.2.2)
    -- futures
    (2 ≤ state.toNat → step_ .fwait = (.done [state.setWidth 64 - 2, BitVec.ofNat 64 (s.numAt (k + 8) 8)], s)) ∧
    (state.toNat < 2 → ¬ recorded → park.length < 4096 →
      (step_ .fwait).1 = .wait (if state = 1 then named else none) ∧ ((step_ .fwait).2.cd die).park = park ++ [(k, .fwait, w)] ∧
      word0 (step_ .fwait).2 = w0 ||| 1 <<< 61) ∧
    (state.toNat < 2 → recorded → ((step_ .fwait).2.cd die).park = park) ∧
    (state.toNat < 2 → ¬ recorded → 4096 ≤ park.length → step_ .fwait = (.full, s)) ∧
    (step_ .ffill).1 = .done [w0] ∧ (2 ≤ state.toNat → (step_ .ffill).2 = s) ∧
    (state.toNat < 2 → word0 (step_ .ffill).2
        = (if flag 1 then 3 else 2 : BitVec 2) ++ 0#1 ++ w0.extractLsb' 0 61 ∧
      BitVec.ofNat 64 ((step_ .ffill).2.numAt (k + 8) 8) = args.getD 0 0 ∧ woken (step_ .ffill).2) ∧
    (step_ .fown).1 = .done [w0] ∧
    ((state = 0 ∨ (state = 1 ∧ owner = w.task)) → word0 (step_ .fown).2 =
      if (args.getD 0 0).getLsbD 1 then put 0 0xFFFFFFFF else put 1 w.task) ∧
    (¬ (state = 0 ∨ (state = 1 ∧ owner = w.task)) → (step_ .fown).2 = s) ∧
    (keyPlace (k + 63) = 512 + die → (step_ .fownQ).1 = .done [BitVec.ofNat 64 (s.numAt (k + 16) 4)] ∧
      (step_ .fownQ).2.numAt (k + 16) 4 = if (args.getD 0 0).getLsbD 1 then 0xFFFFFFFF else w.task.toNat) ∧
    -- locks
    (held = false → (step_ .lock).1 = .done [0] ∧ word0 (step_ .lock).2 = put (2 ||| (state &&& 1)) w.task) ∧
    (held = true → flag 0 = true → step_ .lock = (.busy, s)) ∧
    (held = true → flag 0 = false → ¬ recorded → park.length < 4096 → (step_ .lock).1 = .wait named) ∧
    (held = false → step_ .unlock = (.done [1], s)) ∧
    (held = true → w.task ≠ 0xFFFFFFFF → owner ≠ w.task → step_ .unlock = (.done [2], s)) ∧
    (held = true → (w.task = 0xFFFFFFFF ∨ owner = w.task) → (step_ .unlock).1 = .done [0] ∧
      word0 (step_ .unlock).2 = put 0 0xFFFFFFFF ∧ woken (step_ .unlock).2) ∧
    -- queues
    (s.numAt k 8 = s.numAt (k + 8) 8 → flag 0 = true → step_ .qpop = (.busy, s)) ∧
    (s.numAt k 8 ≠ s.numAt (k + 8) 8 → ∃ v, (step_ .qpop).1 = .done [0, v] ∧ word0 (step_ .qpop).2 = w0 + 1)

/-- 13 R329, R330, R336, 12 R314: TSPAWN takes the record in a pool of the partition and answers with the new ID, with NO_POOL where
no placed pool is found, with MALFORMED for a record address past 2^56 (log 104) or a record that the task unit refuses, and, where the pool is
full, with FULL or the refusal QUEUE_FULL, as its control word says; the item for the ID is then a free value (log 2). TRET drains
its block, its writes to other homes among it (10 R261), and then ends the task; outside a task it is refused. QPUSH to an ID without a queue answers NO_QUEUE, and an answer of
the queue's home is written, but FULL is refused with QUEUE_FULL where the control word asks for that. LAUNCH pushes a packet to a
queue of its own die, or writes the answer of another die. That the task unit acts in the same step is the model's choice (log 24). -/
def Obligations.TasksComplete : Prop :=
  ∀ (d a b : BitVec 7) (ix key e : Nat) (p : Pool) (id : Word) (v : DWord) (r : List DWord) (k : Task) (f u : EndKey),
    let spawn := { plain .both [.items a.toNat 1 false, .items b.toNat 1 false, .items d.toNat 2 true] with roles := [.vector] }
    let ret := { plain .both [.items a.toNat 1 false] with roles := [.vector] }
    let push := { plain .both [.items a.toNat 2 false, .items b.toNat 1 false, .items d.toNat 1 true] with roles := [.vector] }
    let launch := { plain .both [.items a.toNat 1 false, .items b.toNat 1 false, .items d.toNat 1 true] with roles := [.vector] }
    let A := fun (x : Ctx) => x.item a.toNat 0
    let B := fun (x : Ctx) => x.item b.toNat 0
    let one := fun (x : Ctx) (v : DWord) => x.wItem d.toNat 0 v
    let pool := fun (x : Ctx) => if fld (B x) 9 0 = 0x3FF then x.b.task.map (fun t => t.toNat / 2 ^ 22) else some (fld (B x) 9 0)
    let asks := fun (x : Ctx) (s : State) => fld (B x) 15 10 = 0 ∧ fld (B x) 63 17 = 0 ∧ (A x).toNat % 64 = 0 ∧
      s.allPerformed x.t = true
    let found := fun (x : Ctx) (s : State) => pool x = some ix ∧ s.poolAt x.b.die ix = some (key, p) ∧ p.placed = true ∧
      p.killed = false
    let dir := fun (x : Ctx) (s : State) => fld (A x) 6 0 = 0 ∧ fld (B x) 63 12 = 0 ∧ s.allPerformed x.t = true
    CompletesWhen (.tspawn d a b) spawn (fun x s => asks x s ∧ found x s ∧ (A x).toNat < 2 ^ 56 ∧
        (s.spawn key (A x).toNat).1 = .id id)
      (fun x s => ((s.spawn key (A x).toNat).2, one x 0 ++ x.wItem d.toNat 1 (id.setWidth 64), .seq)) ∧
    RefusedWhen (.tspawn d a b) spawn (fun x s => asks x s ∧ found x s ∧ (A x).toNat < 2 ^ 56 ∧
      (s.spawn key (A x).toNat).1 = .full ∧ (B x).getLsbD 16 = false) (fun x _ => (21, 0, x.allLanes)) ∧
    (∀ st, CompletesWhen (.tspawn d a b) spawn (fun x s => asks x s ∧
        ((st = 2 ∧ (∀ n, pool x = some n → ∀ y, s.poolAt x.b.die n = some y → y.2.placed = false ∨ y.2.killed = true)) ∨
         (st = 3 ∧ found x s ∧ 2 ^ 56 ≤ (A x).toNat)))
      (fun x s => ({ s with free := s.free + 1 }, one x st ++ x.wItem d.toNat 1 (Config.freeWord (nth s.free 1)), .seq))) ∧
    (∀ st s', CompletesWhen (.tspawn d a b) spawn (fun x s => asks x s ∧ found x s ∧ (A x).toNat < 2 ^ 56 ∧
        ((st = 3 ∧ s.spawn key (A x).toNat = (.malformed, s')) ∨
         (st = 1 ∧ s.spawn key (A x).toNat = (.full, s') ∧ (B x).getLsbD 16 = true)))
      (fun x _ => ({ s' with free := s'.free + 1 }, one x st ++ x.wItem d.toNat 1 (Config.freeWord (nth s'.free 1)), .seq))) ∧
    RefusedWhen (.tret a) ret (fun x s => s.taskOf x.b = none) (fun x _ => (1, 0, x.allLanes)) ∧
    WaitsWhen (.tret a) ret (fun x s => s.taskOf x.b = some (key, p, e, k))
      (fun x s => (s.updBlk x.t.blk (fun y => { y with ending := true }), .drained, 1)) ∧
    EndsWhen (.tret a) ret (fun x s => x.stage = 1 ∧ s.taskOf x.b = some (key, p, e, k) ∧
        s.endKeys p k = .ok (f, u) ∧ s.endHeld x.t.blk x.b f u = none) (fun x s =>
      let s := s.emptyBlock x.t.blk x.b
      let y := (s.blk? x.t.blk).getD x.b
      let s := (s.taskFinish key p e k f u x.b.ctx (A x) none).leaveSlot x.t.blk y key
      (s.exitBars x.t.blk y true, [], .path)) ∧
    CompletesWhen (.qpush d a b) push (fun x s => fld (B x) 63 1 = 0 ∧ s.allPerformed x.t = true ∧
      s.queueHeader x.b.die (A x) = none) (fun x s => (s, one x 2, .seq)) ∧
    EndsWhen (.qpush d a b) push (fun x _ => 4 ≤ x.stage ∧ x.answer = some (v :: r) ∧ (v = 1 → (B x).getLsbD 0 = true))
      (fun x s => (s, one x v, .seq)) ∧
    (∀ (s : State) (c : Ctx), Resumed s (.qpush d a b) push c → 4 ≤ c.stage → c.answer = some (1 :: r) →
      (B c).getLsbD 0 = false → exec (.qpush d a b) s = .next (s.refuse c 21 0 c.allLanes)) ∧
    (∀ qd pa t, CompletesWhen (.launch d a b) launch (fun x s => dir x s ∧
        (s.pagePa x.b.die (clusterOf x.b.coreIx) x.b.desc (A x).toNat .read x.priv).1 = some (pa, t) ∧
        s.queueDesc x.b.die (fld (B x) 11 0) = some qd ∧ qd.home = x.b.die)
      (fun x s => ((s.pushPacket x.b.die (fld (B x) 11 0) pa).2,
        one x (BitVec.ofNat 64 (s.pushPacket x.b.die (fld (B x) 11 0) pa).1), .seq))) ∧
    EndsWhen (.launch d a b) launch (fun x _ => 4 ≤ x.stage ∧ x.answer = some (v :: r)) (fun x s => (s, one x v, .seq))

/-! ## Barriers, queues, bobbins, counters and time (12 R309-R311, 14 R352-R370) -/

/-- 14 R353, R356, R358, R359, R363: BAR.ARR arrives and returns the token; BAR.WAIT and BAR.SYNC end when the phase of the
token is over, and wait until then; BAR.SET sets the membership, at once or when the running phase ends; CNT reads, waits for
or clears a counter. A thread that is no member is refused with BARRIER_MEMBER, and so is a mask of BAR.SET
that is empty or names what the block has not; a broken barrier with BARRIER_BROKEN. -/
def Obligations.BarriersComplete : Prop :=
  ∀ (d : BitVec 7) (lev : BitVec 2) (n : BitVec 4) (tok : Word) (r : Barrier),
    let give := flow .both [.items d.toNat 1 true]
    let take := flow .both [.items d.toNat 1 false]
    let mine := fun (x : Ctx) (s : State) (lev : Nat) => (lev = 0 ∨ x.t.warp = 32) ∧ s.bar? x.b lev n.toNat = some r ∧
      memberOf x.b x.t lev ∈ r.members ∧ r.broken = false
    let free := fun (x : Ctx) (s : State) => s.allPerformed x.t = true ∧
      (lev = 1 → n = 0 → s.unlanded x.t.blk x.b = false)
    let now := fun (x : Ctx) (s : State) => s.bar? ((s.blk? x.t.blk).getD x.b) lev.toNat n.toNat
    let arrived := fun (x : Ctx) (s : State) => s.arrive x.t x.b lev.toNat n.toNat
    let token := fun (x : Ctx) (v : Word) => x.wItem d.toNat 0 (v.setWidth 64)
    let synced := fun (x : Ctx) (s : State) => (arrived x s).2.applyWrites x.t (token x (arrived x s).1)
    let word := fun (x : Ctx) => (x.item d.toNat 0).setWidth 32
    let used := fun (x : Ctx) (s : State) => s.useBar x.t x.b lev.toNat n.toNat
    let over_ := fun (x : Ctx) (s : State) (v : Word) => ∃ q, now x s = some q ∧ q.c ≠ v
    let runs := fun (x : Ctx) (s : State) (v : Word) => ∃ q, now x s = some q ∧ q.c = v ∧ q.broken = false
    let mask := fun (x : Ctx) => x.item d.toNat 0
    let members := fun (x : Ctx) => (List.range 33).filter (fun i => (mask x).getLsbD i)
    let count := fun (x : Ctx) => x.b.counts.getD n.toNat 0
    CompletesWhen (.barArr d lev n) give (fun x s => mine x s lev.toNat ∧ free x s)
      (fun x s => ((arrived x s).2, token x (arrived x s).1, .seq)) ∧
    CompletesWhen (.barWait d lev n) take (fun x s => mine x s lev.toNat ∧ over_ x (used x s) (word x)) (fun x s => (used x s, [], .seq)) ∧
    WaitsWhen (.barWait d lev n) take (fun x s => mine x s lev.toNat ∧ runs x (used x s) (word x))
      (fun x s => (used x s, .barrier lev.toNat n.toNat (word x), 1)) ∧
    CompletesWhen (.barSync d lev n) give (fun x s => mine x s lev.toNat ∧ free x s ∧ over_ x (synced x s) (arrived x s).1)
      (fun x s => (synced x s, [], .seq)) ∧
    WaitsWhen (.barSync d lev n) give (fun x s => mine x s lev.toNat ∧ free x s ∧ runs x (synced x s) (arrived x s).1)
      (fun x s => (synced x s, .barrier lev.toNat n.toNat (arrived x s).1, 1)) ∧
    (∀ i sp, (i, sp) ∈ [(Instr.barWait d lev n, take), (.barSync d lev n, give)] →
      EndsWhen i sp (fun x s => x.stage = 1 ∧ x.token = tok ∧ over_ x s tok) (fun _ s => (s, [], .seq))) ∧
    CompletesWhen (.barSet d n) take (fun x s => mine x s 0 ∧ fld (mask x) 63 33 = 0 ∧ members x ≠ [] ∧
        ∀ i ∈ members x, i = 32 ∨ i < x.b.warps.length)
      (changing fun x s =>
        let set_ := fun (q : Barrier) => if q.arrived = [] then { q with members := members x }
          else { q with pending := some (members x) }
        (s.barEntry x.t.blk x.b n.toNat).updBlk x.t.blk (fun b => { b with bars := lset b.bars n.toNat set_ })) ∧
    (∀ i sp, (i, sp) ∈ [(Instr.barArr d lev n, give), (.barWait d lev n, take), (.barSync d lev n, give)] →
      RefusedWhen i sp (fun x s => (lev ≠ 0 ∧ x.t.warp ≠ 32) ∨ ∀ q, s.bar? x.b lev.toNat n.toNat = some q →
        memberOf x.b x.t lev.toNat ∉ q.members) (fun x _ => (16, 0, x.allLanes)) ∧
      RefusedWhen i sp (fun x s => (lev = 0 ∨ x.t.warp = 32) ∧ ∃ q, s.bar? x.b lev.toNat n.toNat = some q ∧
        memberOf x.b x.t lev.toNat ∈ q.members ∧ q.broken = true) (fun x _ => (17, 0, x.allLanes))) ∧
    RefusedWhen (.barSet d n) take (fun x s => (∀ q, s.bar? x.b 0 n.toNat = some q → memberOf x.b x.t 0 ∉ q.members) ∨
      (mine x s 0 ∧ (fld (mask x) 63 33 ≠ 0 ∨ members x = [] ∨ ∃ i ∈ members x, i ≠ 32 ∧ x.b.warps.length ≤ i)))
      (fun x _ => (16, 0, x.allLanes)) ∧
    RefusedWhen (.barSet d n) take (fun x s => ∃ q, s.bar? x.b 0 n.toNat = some q ∧ memberOf x.b x.t 0 ∈ q.members ∧
      q.broken = true) (fun x _ => (17, 0, x.allLanes)) ∧
    Completes (.cntRd d n) give (fun x s => (s, x.wItem d.toNat 0 ((count x).setWidth 64), .seq)) ∧
    CompletesWhen (.cntWait d n) take (fun x _ => word x ≤ count x) (fun _ s => (s, [], .seq)) ∧
    WaitsWhen (.cntWait d n) take (fun x _ => count x < word x) (fun x s => (s, .counter n.toNat (word x), 0)) ∧
    EndsWhen (.cntWait d n) take (fun x _ => word x ≤ count x) (fun _ s => (s, [], .seq)) ∧
    Completes (.cntClr n) (flow .both []) (changing fun x s =>
      s.updBlk x.t.blk (fun b => { b with counts := lset b.counts n.toNat (fun _ => 0) }))

/-- 14 R353: an arrival at a block barrier joins the arrived set; the arrival of the last member that has not exited ends the
phase: the phase count rises by 1, the set empties, and a membership that BAR.SET left pending takes effect. -/
def Obligations.BarrierPhaseRule : Prop :=
  ∀ (s : State) (t : ThreadRef) (b : Block) (n : Nat) (r : Barrier),
    s.blk? t.blk = some b → b.bars[n]? = some r → r.broken = false →
      let p := s.arrive t b 0 n
      let q := (p.2.blk? t.blk).bind (fun b => b.bars[n]?)
      let set_ := if t.warp ∈ r.arrived then r.arrived else r.arrived ++ [t.warp]
      let all_ := ∀ m ∈ r.members, m ∈ set_ ∨ b.ownerGone m = true
      p.1 = r.c ∧
      (all_ → ∃ u e, q = some { r with c := r.c + 1, arrived := [], members := r.pending.getD r.members, pending := none,
                                        used := u, entry := e }) ∧
      (¬ all_ → ∃ u e, q = some { r with arrived := set_, used := u, entry := e })

/-- 12 R309-R311: DQPUSH appends an entry for the live warps of its mask, DQPOP takes the warp's next one; SRPUT and SRREL
arrive at the slot of their cursor, turn its phase when the quorum is reached, and move the cursor on; SRWAIT waits for the
slot's phase. A bobbin that the block has not is refused. -/
def Obligations.QueuesComplete : Prop :=
  ∀ (d a b : BitVec 7) (n : BitVec 3) (z : BobSlot) (ph : Bool),
    let i := n.toNat
    let push := plain .front [.src64 a.toNat, .src64 b.toNat]
    let give := plain .both [.dst d.toNat]
    let mask := fun (x : Ctx) => (x.r64 b.toNat 0).setWidth 32 &&& x.b.liveWarps
    let cursor := fun (l : List (Nat × Bool)) => l.getD i (0, false)
    let next_ := fun (x : Ctx) (c : Nat × Bool) => if c.1 + 1 = x.b.allot.slots then (0, !c.2) else (c.1 + 1, c.2)
    let slot := fun (x : Ctx) (l : List (Nat × Bool)) => x.b.bobAt i l = some (z, ph)
    let bits_ := fun (c : Nat × Bool) => BitVec.ofNat 32 ((if c.2 then 16 else 0) + c.1)
    let reads := fun (x : Ctx) (c : Nat × Bool) => x.lanes.flatMap (fun l => x.w32 d.toNat l false (bits_ c))
    let quorum := fun (x : Ctx) => x.b.allot.quorum.getD i (1, 1)
    let upd := fun (x : Ctx) (s : State) (c : Nat × Bool) (f : BobSlot → BobSlot) =>
      s.updBlk x.t.blk (fun y => { y with bobs := lset y.bobs i (fun l => lset l c.1 f) })
    CompletesWhen (.dqpush a b) push (fun x s => mask x ≠ 0 ∧ x.b.dq.length < x.b.allot.dqd ∧
        s.allPerformed x.t = true)
      (changing fun x s => s.takeFresh.2.updBlk x.t.blk (fun y =>
        { y with dq := y.dq ++ [{ value := x.r64 a.toNat 0, target := mask x, popped := 0, seq := s.takeFresh.1 + 1 }] })) ∧
    CompletesWhen (.dqpush a b) push (fun x _ => mask x = 0) (fun _ s => (s, [], .seq)) ∧
    WaitsWhen (.dqpush a b) push (fun x _ => mask x ≠ 0 ∧ x.b.allot.dqd ≤ x.b.dq.length)
      (fun _ s => (s, .dqRoom, 0)) ∧
    (∀ (s : State) (c : Ctx) (i : Instr), i ∈ [Instr.dqpush a b, .dqpop d] → s.ctx? = some c → c.resumed = false →
      c.b.allot.dqd = 0 → exec i s = .next (s.refuse c 1 0 c.allLanes)) ∧
    Completes (.dqpop d) (plain .warp [.src64 121, .dst64 d.toNat]) (writing fun x =>
      x.lanes.flatMap (fun l => x.w64 d.toNat l (x.dq.getD 0))) ∧
    CompletesWhen (.srput n) (plain .both []) (fun x s => slot x x.th.prodCur ∧ z.e = ph ∧ s.allPerformed x.t = true)
      (changing fun x s =>
        let turn := z.prod + 1 = (quorum x).1
        (upd x s (cursor x.th.prodCur) (fun y => { y with prod := if turn then 0 else z.prod + 1,
                                                          f := if turn then !y.f else y.f })).updThread x.t (fun th =>
          { th with prodCur := lset th.prodCur i (next_ x) })) ∧
    CompletesWhen (.srrel n) (plain .both []) (fun x s => slot x x.th.consCur ∧ z.f ≠ ph ∧ s.allPerformed x.t = true)
      (changing fun x s =>
        let turn := z.cons + 1 = (quorum x).2
        (upd x s (cursor x.th.consCur) (fun y => { y with cons := if turn then 0 else z.cons + 1,
                                                          e := if turn then !y.e else y.e })).updThread x.t (fun th =>
          { th with consCur := lset th.consCur i (next_ x) })) ∧
    CompletesWhen (.srwaitC d n) give (fun x _ => slot x x.th.consCur ∧ z.f ≠ ph) (fun x s =>
      (s, reads x (cursor x.th.consCur), .seq)) ∧
    CompletesWhen (.srwaitP d n) give (fun x _ => slot x x.th.prodCur ∧ z.e = ph) (fun x s =>
      (s, reads x (cursor x.th.prodCur), .seq)) ∧
    WaitsWhen (.srwaitC d n) give (fun x _ => slot x x.th.consCur ∧ z.f = ph) (fun _ s => (s, .bobFull i, 0)) ∧
    WaitsWhen (.srwaitP d n) give (fun x _ => slot x x.th.prodCur ∧ z.e ≠ ph) (fun _ s => (s, .bobFree i, 0)) ∧
    RefusedWhen (.srput n) (plain .both []) (fun x _ => x.b.bobAt i x.th.prodCur = none) (fun x _ => (1, 0, x.allLanes)) ∧
    RefusedWhen (.srrel n) (plain .both []) (fun x _ => x.b.bobAt i x.th.consCur = none) (fun x _ => (1, 0, x.allLanes)) ∧
    RefusedWhen (.srwaitC d n) give (fun x _ => x.b.bobAt i x.th.consCur = none) (fun x _ => (1, 0, x.allLanes)) ∧
    RefusedWhen (.srwaitP d n) give (fun x _ => x.b.bobAt i x.th.prodCur = none) (fun x _ => (1, 0, x.allLanes))

/-! ## Traps (02 R45-R50, 15 R371-R384) -/

/-- 15 R381-R383, 02 R50: TRAP, SVC and BRK are refused with their own codes and `ADDR` n; a word that is no instruction with
ILLEGAL_INSTRUCTION; RFT returns from the handler, or ends its thread, and outside a handler is refused; KILLB kills its own
block, or in trap mode what its item names, and answers with a status. KILLB of a queued or saved task is the model's reading
(log 40). -/
def Obligations.TrapInstructionsComplete : Prop :=
  ∀ (d a : BitVec 7) (n : BitVec 14) (w : Word) (bk : Nat),
    let sp := flow .both []
    let kill := { flow .both [.items a.toNat 1 false, .items d.toNat 1 true] with roles := [.vector] }
    let v := fun (x : Ctx) => x.item a.toNat 0
    let mode := fun (x : Ctx) => fld (v x) 63 62
    let fields := fun (x : Ctx) => [fld (v x) 61 0 = 0, fld (v x) 61 51 = 0 ∧ fld (v x) 31 0 = 0, fld (v x) 61 32 = 0].getD
      (mode x) False
    let status := fun (x : Ctx) (k : DWord) => x.wItem d.toNat 0 k
    RefusedWhen (.trap n) sp (fun _ _ => True) (fun x _ => (31, n.toNat, x.allLanes)) ∧
    RefusedWhen (.svc n) sp (fun _ _ => True) (fun x _ => (32, n.toNat, x.allLanes)) ∧
    RefusedWhen (.brk n) sp (fun _ _ => True) (fun x _ => (27, n.toNat, x.allLanes)) ∧
    (∀ (s : State) (c : Ctx), s.ctx? = some c → c.resumed = false → barSetLevel w = false →
      exec (.illegalInstruction w) s = .next (s.refuse c 1 0 c.allLanes)) ∧
    RefusedWhen .rft sp (fun x _ => x.th.trap = false) (fun x _ => (1, 0, x.allLanes)) ∧
    CompletesWhen .rft sp (fun x _ => x.th.trap = true ∧ x.th.pends = [] ∧ x.th.trctl.getLsbD 2 = false) (fun x s =>
      let s := (s.cleared x.t).leaveTrap x.t
      let s := s.goTo x.t (((s.thread? x.t).map (·.pc)).getD 0)
      (if x.t.warp = 32 then s.dueRecord x.t else (s.dueRecord x.t).dueRecord (otherArm x.t), [], .path)) ∧
    CompletesWhen .rft sp (fun x s => x.th.trap = true ∧ x.th.pends = [] ∧ x.th.trctl.getLsbD 2 = true ∧
        s.allPerformed x.t = true ∧ busyBorrow s x = none)
      (fun x s => (((s.cleared x.t).leaveTrap x.t).exitOwner x.t, [], .path)) ∧
    WaitsWhen (.killb d a) kill (fun x _ => mode x = 0 ∧ fields x) (fun x s =>
      (s.killBlock x.t.blk x.b.ctxid, .forever, 1)) ∧
    -- modes 1 and 2 are privileged, which comes before the fields (R45)
    (∀ (s : State) (c : Ctx), let x := c.operands kill
      Clear s (.killb d a) kill c → mode x = 1 ∨ mode x = 2 → c.th.trap = false →
        exec (.killb d a) s = .next (s.refuse c 5 0 c.allLanes)) ∧
    RefusedWhen (.killb d a) kill (fun x _ => ¬ fields x ∧ (mode x = 0 ∨ mode x = 3 ∨ x.th.trap = true))
      (fun x _ => (1, 0, x.allLanes)) ∧
    CompletesWhen (.killb d a) kill (fun x s => mode x ≠ 0 ∧ fields x ∧ x.th.trap = true ∧ s.killTarget x.b (v x) = .none)
      (fun x s => (s, status x 1, .seq)) ∧
    CompletesWhen (.killb d a) kill (fun x s => mode x ≠ 0 ∧ fields x ∧ x.th.trap = true ∧ s.killTarget x.b (v x) = .nested)
      (fun x s => (s, status x 2, .seq)) ∧
    WaitsWhen (.killb d a) kill (fun x s => mode x ≠ 0 ∧ fields x ∧ x.th.trap = true ∧ s.killTarget x.b (v x) = .block bk)
      (fun x s => (s.killBlock bk x.b.ctxid, .gone bk, 1)) ∧
    EndsWhen (.killb d a) kill (fun x _ => x.stage = 1) (fun x s => (s, status x 0, .seq))

/-- 15 R371-R376: what a precise fault leaves. Where nothing is outstanding in the warp and no handler of it runs, the thread
is in trap mode at TRAPVA with TRPC at the faulting instruction (after it for TRAP and SVC), its predicate block and its
lookahead state set aside, the set-aside region register replaced, and its record in the trap slot of its frame; a fault in a
handler, or with no TRAPVA, is fatal and goes to the die's ring. 15 R383, 02 R48: RFT brings back the PC, the set-aside
region register, and, where TRPC is still the one that trap entry set, the predicate block; the trap registers keep their values (R384).
What both arms hold inside a handler, and the SLOT of the trap region, are the model's (log 15, log 63). -/
def Obligations.TrapEntryAndReturn : Prop :=
  (∀ (s : State) (t : ThreadRef) (r : FaultRec) (b : Block) (th : Thread),
      s.blk? t.blk = some b → b.thread? t.warp t.armE = some th →
        let e := s.enterTrap t r
        let rg := if t.warp = 32 then 15 else 31
        (th.trap = false → b.desc.trapva ≠ 0 → (∃ x, e.thread? t = some x ∧
            x = { th with record := none, kept := th.hold.filter Hold.phase, hold := none, wins := [], trap := true,
                          -- the entry that an interrupted instruction had popped is the one that it pops again
                          redo := match th.hold with
                            | some h => if h.phase then th.redo else (h.dq.map (fun _ => h.dqSeq)).orElse (fun _ => th.redo)
                            | none => th.redo
                          trpc := (if r.code = 31 ∨ r.code = 32 then th.pc + 4 else th.pc).setWidth 64,
                          trpcSet := if r.code = 31 ∨ r.code = 32 then th.pc + 4 else th.pc,
                          trctl := if th.pblk.isSome then 1 else 0, pblkSave := th.pblk, pblk := none, pc := b.desc.trapva,
                          readyAt := s.clock, wskip := false, wbUse := none, sentWin := x.sentWin }) ∧
          (∀ k, b.frameKey (trapOff t.warp) = some k → keyPlace k < 16 → r.chain.length = 4 →
            (∀ d ∈ s.mds, d.chunks = [] ∧ d.overflow = []) →
            cread e.mem k 64 = recBytes r) ∧
          (∃ y, e.blk? t.blk = some y ∧ y.region t.warp rg = trapRegion b t.warp ∧
            (if t.warp = 32 then y.front.aside = b.region 32 15
             else ∀ w, y.warps[t.warp]? = some w → w.aside = b.region t.warp 31))) ∧
        (th.trap = true ∨ b.desc.trapva = 0 →
          e = ((s.updThread t (fun x => { x with record := x.later, later := none })).ringPut b.die { r with cls := 4 }).startKill t.blk r.code) ∧
        (b.killed = none → s.beingSaved t.blk = false → b.quietWarp t.warp = true → b.otherInTrap t = false →
          (t.warp ≠ 32 → (s.thread? (otherArm t)).bind (·.record) = none) →
          -- a class-I record that the thread already holds is delivered after the precise one (R373)
          let held : Hold := { wait := .trapping, ins := none, stage := 0, answer := none, dq := none }
          s.takeTrap t r =
            (s.updThread t (fun x => { x with record := some r, later := x.record, hold := some held })).enterTrap t r)) ∧
  (∀ (s : State) (t : ThreadRef) (b : Block) (th : Thread), s.blk? t.blk = some b → b.thread? t.warp t.armE = some th →
      let l := s.leaveTrap t
      let pc := th.trpc.setWidth 56
      (∃ x, l.thread? t = some x ∧ x = { th with
        trap := false, pc := pc, pblk := if th.trctl.getLsbD 0 ∧ pc = th.trpcSet then th.pblkSave else none, pblkSave := none,
        wskip := th.trctl.getLsbD 1, readyAt := s.clock, kept := none, hold := if pc = th.trpcSet then th.kept else none,
        record := th.record.orElse (fun _ => th.later), later := none }) ∧
      (∃ y, l.blk? t.blk = some y ∧ y.region t.warp (if t.warp = 32 then 15 else 31) =
        (if t.warp = 32 then b.front.aside else ((b.warps[t.warp]?).map (·.aside)).getD Region.empty)) ∧
      l.mem = s.mem ∧ l.cds = s.cds ∧ l.mds = s.mds ∧ l.pkg = s.pkg ∧ l.inbox = s.inbox)

/-- 02 R45, 15 R376, 02 R26, R44: an instruction that one of the refusals 1 to 6 of R45 stands against is refused with its code, as a
precise fault that names the active lanes, and nothing else happens; what each of the six is, on one instruction: an odd pair (MOV),
PBLK in normal mode, the wrong stream (YSET and KMOV), the wrong role (YIELD), a privileged instruction outside a handler (CSRW), and
a register past the allotment (MOV). -/
def Obligations.RefusalOrder : Prop :=
  ∀ (s : State) (c : Ctx) (d a : BitVec 7) (n : BitVec 12) (y m : BitVec 3) (pat : BitVec 8),
    let refused := fun (i : Instr) (code : Nat) => exec i s = .next (s.refuse c code 0 c.allLanes)
    (∀ (i : Instr) (sp : Spec) (body : Ctx → State → Res) (code : Nat), s.ctx? = some c → c.resumed = false →
      staticRefusal s c i sp (c.covered && c.act == 0) = some code →
      issue s i sp body = .next (s.refuse c code 0 c.allLanes)) ∧
    (s.ctx? = some c → c.resumed = false → c.covered = false →
      (c.t.warp ≠ 32 → d.toNat % 2 = 1 → refused (.mov d a 1) 1) ∧
      (s.pkg.minimal = false → pat.toNat < 2 ^ (m.toNat + 1) → refused (.pblk y m pat) 3) ∧
      (c.t.warp ≠ 32 → a.toNat < 112 → a.toNat % 2 = 0 → refused (.yset y a) 2) ∧
      (c.t.warp = 32 → refused (.kmov y y) 2) ∧
      (c.t.warp ≠ 32 → c.w.role ≠ .vector → refused .yield 4) ∧
      (c.t.warp ≠ 32 → d.toNat < 112 → d.toNat % 2 = 0 → wellFormed (.csrw d n) = true → c.th.trap = false → refused (.csrw d n) 5) ∧
      (c.t.warp ≠ 32 → d.toNat < 112 → a.toNat < 112 → c.w.allot ≤ c.w.wb.toNat + d.toNat → refused (.mov d a 0) 6))

/-- 07 R159-R162, R170-R175, R182, 11 R295: an engine starts its oldest instruction once earlier ones let it, and reads its
scratch operands; a completion leaves the engine and takes effect as a whole: MZERO, MCPY, MTRN, MLD, an unsaturated INT8 MMA
and RATL, with operands that nothing changed meanwhile and no poison, give these elements, and no other tile changes. When
operands are read is the model's reading (log 56). -/
def Obligations.EngineStepsComplete : Prop :=
  ∀ (s : State) (core : Nat) (eng : Engine) (o : EngineOp) (rest : List EngineOp) (b : Block),
    (s.core core).queueOf eng = o :: rest → s.blk? o.blk = some b →
      (s.due = some (.engineStart core eng) → o.started = false → (s.core core).mayStart eng o = true →
        let o1 : EngineOp := { o with started := true, src := o.reads.map (fun x => cread b.scratch x.1 x.2) }
        let fail := (o1.used.flatMap (fun (x : Nat × Nat) => b.scratchFailing x.1 x.2)).dedup
        let o2 := { o1 with fail := fail,
                            bad := (((o1.used.flatMap (fun (x : Nat × Nat) => sectorsOf x.1 x.2)).filter b.spoison.contains) ++ fail).dedup }
        exec .engineStart s = .next (((s.updBlk o.blk (fun b => { b with spoison := (b.spoison ++ fail).dedup })).updCore core
          (fun k => k.setQueue eng (o2 :: rest))).post (.engineComplete core eng))) ∧
      (s.due = some (.engineComplete core eng) → o.started = true → o.bad = [] → o.fail = [] → o.wild = false →
        o.src = o.reads.map (fun x => cread b.scratch x.1 x.2) →
        ∃ t, exec .engineComplete s = .next t ∧ (∀ x ∈ (t.core core).queueOf eng, x.id ≠ o.id) ∧
          (∀ d, tileOut o.ins = some d → ∀ e i j, e ≠ d → i < 64 → j < 64 → t.tileAt o.blk e i j = s.tileAt o.blk e i j) ∧
          (∀ d la i j, o.ins = .mzero d la → i < 64 → j < 64 → t.tileAt o.blk d.toNat i j = 0) ∧
          (∀ d a la i j, o.ins = .mcpy d a la → i < 64 → j < 64 → t.tileAt o.blk d.toNat i j = s.tileAt o.blk a.toNat i j) ∧
          (∀ d a la i j, o.ins = .mtrn d a la → i < 64 → j < 64 → t.tileAt o.blk d.toNat i j = s.tileAt o.blk a.toNat j i) ∧
          (∀ d n r la i j p, o.ins = .mld d n r la → i < 64 → j < 64 → o.reads[i]? = some (p, 256) →
            t.tileAt o.blk d.toNat i j = leNat (cread b.scratch (p + 4 * j) 4)) ∧
          (∀ d r la i j, o.ins = .mma d r 0 la → mdAtype o.desc = 7 → i < 64 → j < 64 →
            let products := (((o.aRow 8 64 i).map (sgn 8)).zip ((o.bCol 8 64 j).map (sgn 8))).map (fun x => x.1 * x.2)
            (t.tileAt o.blk d.toNat i j : Int) = (s.tileAt o.blk d.toNat i j + products.sum) % 2 ^ 32) ∧
          (∀ a r la i p, o.ins = .ratl a r la → i < fld o.desc 23 13 → o.reads = [(p, 2 * fld o.desc 23 13)] →
            (cget (t.core core).att (fld o.desc 43 34 + i)).toNat = leNat (cread b.scratch (p + 2 * i) 2)))

/-- 07 R178: the list of RANK over elements that are no NaN holds the k greatest, in falling order, elements of one value in
rising order of their places, each one after the first of its value marked as a tie. -/
def Obligations.RankListRule : Prop :=
  ∀ (xs : List Int) (k : Nat), 1 ≤ k → k ≤ xs.length → xs.length ≤ 1024 →
    let r := rankOf (xs.map some) k
    let at_ := fun (n : Nat) => r.2.getD n 0 % 2 ^ 15
    let val := fun (n : Nat) => xs.getD (at_ n) 0
    r.2.length = k ∧ (∀ n, n < k → at_ n < xs.length) ∧
    (∀ n, n + 1 < k → val (n + 1) < val n ∨ (val (n + 1) = val n ∧ at_ n < at_ (n + 1))) ∧
    (∀ n, n < k → ((r.2.getD n 0).testBit 15 = true ↔ 0 < n ∧ val n = val (n - 1))) ∧
    (∀ m, m < xs.length → (∀ n, n < k → at_ n ≠ m) → xs.getD m 0 ≤ val (k - 1)) ∧
    r.1 % 2 ^ 11 = k ∧ r.1 / 2 ^ 11 % 2 ^ 11 = xs.length ∧ (r.1.testBit 30 = true ↔ k < xs.length) ∧ r.1.testBit 29 = false

/-! ## Steps of the other agents -/

/-- 11 R273-R280, 10 R262, 16 R400, R408: a home takes a borrow request, a return, a count or a reclaim; a compute die takes
a grant, a notice of a waiting writer, a LOST or a RETACK; a discarded message is counted; HCLR frees a LOST entry. Which
step runs when is the model's choice (log 3, log 23). That a PENDING marks an entry which is still REQUESTING, where R276 and R277 name
HELD, RETURNING, FREE and ABANDONED only, is the model's reading (log 78), and so is the window that stands for a write-back
(`writeWindow`, log 83). -/
def Obligations.OwnershipStepsComplete : Prop :=
  ∀ (s : State) (h d ix ctr : Nat) (m : EopMsg) (x : HomeEntry) (e : DieEntry) (v : DWord),
    let goes := fun (i : Instr) (t : State) => exec i s = .next t
    let homes := fun (f : KMap HomeEntry → KMap HomeEntry) => s.updHome h f
    let mine := s.entry d m.dieIx = some e
    let put := fun (s : State) (f : DieEntry → DieEntry) =>
      s.updCd d (fun c => { c with entries := kupd c.entries m.dieIx f })
    let back := fun (s : State) => s.returnPieces d m.dieIx false
    let held := kget (s.md h).home m.home = some x ∧ x.state = .held
    -- an entry of the home is FREE, and what waited for it goes on
    let freed := fun (s : State) (i : Nat) => (s.updHome h (fun l => kdel l i)).homeGrants h
    -- one RETACK is for one piece
    let rest := pieceBack m e.pieces
    (s.due = some (.req h m) → m.kind ≠ 5 → m.kind ≠ 6 → goes .req (s.homeReq h m)) ∧
    (s.due = some (.req h m) → (m.kind = 5 ∨ m.kind = 6) → goes .req (s.homeConvert h m)) ∧
    (s.due = some (.returnMessage h m) → held → m.flags.getLsbD 0 = false →
      goes .returnMessage (freed (s.toDie h x 8 0 0 m.home) m.home)) ∧
    (s.due = some (.returnMessage h m) → held → m.flags.getLsbD 0 = true →
      goes .returnMessage (freed ((s.toDie h x 8 0 0 m.home).noteWrite h x.base x.lenm1
        ((s.toDie h x 8 0 0 m.home).writeWindow m)) m.home)) ∧
    -- a RETURN that meets no HELD entry changes nothing: a LOST one leaves by HCLR alone (R278)
    (s.due = some (.returnMessage h m) → (∀ y, kget (s.md h).home m.home = some y → y.state ≠ .held) → goes .returnMessage s) ∧
    (s.due = some (.count h m) → goes .count (homes (fun l => kupd l m.home (fun y =>
      if y.state = .held then { y with rcount := m.window } else y)))) ∧
    (s.due = some (.reclaim h m) → m.flags.getLsbD 1 = false → (∀ y, kget (s.md h).home m.home = some y → y.state ≠ .held) →
      goes .reclaim s) ∧
    (s.due = some (.reclaim h m) → m.flags.getLsbD 1 = false → held → m.flags.getLsbD 0 = false →
      goes .reclaim (freed s m.home)) ∧
    -- a mark needs a free entry beside it; in a full table the reclaim waits at the home, and the borrow stays HELD (R280)
    (s.due = some (.reclaim h m) → m.flags.getLsbD 1 = false → held → m.flags.getLsbD 0 = true →
      (s.md h).home.length < homeSize →
      goes .reclaim (((s.noteWrite h x.base x.lenm1 (s.writeWindow m)).updHome h (fun l =>
        kupd l m.home (fun y => { y with state := .taintmark, kind := 0, wp := false }))).homeGrantAll h)) ∧
    (s.due = some (.reclaim h m) → m.flags.getLsbD 1 = false → held → m.flags.getLsbD 0 = true →
      homeSize ≤ (s.md h).home.length → goes .reclaim (s.updMd h (fun y => { y with port := y.port ++ [m] }))) ∧
    (s.due = some (.grant d m) → mine → e.state = .requesting → m.status ≠ 0 → m.status ≠ 3 →
      goes .grant (back (put s (fun y => { y with status := m.status })))) ∧
    (s.due = some (.grant d m) → mine → e.state = .requesting → m.status = 0 → ∀ i, nextPiece e.pieces = some i →
      let y := { e with stamp := max e.stamp (s.stampIn m),
                        pieces := lset e.pieces i (fun p => { p with granted := true, ix := m.home }) }
      let s2 := put (s.setCdReg d 0x3E7 (s.cdReg d 0x3E7 + 1)) (fun _ => y)
      goes .grant (if nextPiece y.pieces = none then s2.grantDone d m.dieIx else s2.requestNext d m.dieIx)) ∧
    (s.due = some (.pending d m) → mine → (e.state = .held ∨ e.state = .requesting) → (e.kind = 2 ∨ e.kind = 3) → m.kind = 1 →
      m.flags.getLsbD 0 = false → goes .pending ((put s (fun y => { y with wp := true })).mapSlot d m.dieIx (fun g =>
        if g.kind = 2 ∨ g.kind = 3 then { g with wpseen := true } else g))) ∧
    (s.due = some (.pending d m) → mine → e.state ≠ .held → e.state ≠ .requesting → goes .pending s) ∧
    (s.due = some (.lost d m) → mine → e.state = .requesting → goes .lost (back (put s (fun y => { y with status := 4 })))) ∧
    (s.due = some (.retack d m) → mine → (e.state = .returning ∨ e.state = .abandoned) →
      (∀ p ∈ rest, p.gone = true) → goes .retack
      (((s.updCd d (fun c => { c with entries := kdel c.entries m.dieIx })).entryFreed d).tellRefused d e)) ∧
    (s.due = some (.retack d m) → mine → (e.state = .returning ∨ e.state = .abandoned) → (∃ p ∈ rest, p.gone = false) →
      goes .retack (put s (fun y => { y with pieces := rest }))) ∧
    (s.due = some (.eopDiscard ctr m) → ∃ q, exec .eopDiscard s = .next q ∧
      kget q.modCtr ctr = some (lset ((kget s.modCtr ctr).getD (List.replicate 8 0)) 4 (· + 1)) ∧ q.mem = s.mem ∧ q.mds = s.mds) ∧
    (s.due = some (.cleanAfterRelease d ix) → s.entry d ix = some e →
      e.stamp * 2 ^ fld s.pkg.wlen 3 0 ≤ s.pkg.timeNs.toNat →
      goes .cleanAfterRelease (s.updCd d (fun c => { c with entries := kupd c.entries ix (fun y => { y with stamp := 0 }) }))) ∧
    (s.due = some (.hclr h v) → s.pkg.phase = .ready → v.getLsbD 63 = true → v.getLsbD 62 = false → fld v 61 18 = 0 →
      kget (s.md h).home (fld v 17 0) = some x → x.state = .lost →
      goes .hclr (freed s (fld v 17 0)))

/-- 04 R82, 11 R285, R289, R291, R293, 09 R219, R232, R245, 14 R367, 10 R256-R260, 16 R396: the steps of the memory side.
Which step runs when, which line a full cache gives up, and which piece lands next are the model's choices (log 3, log 8, log
46); so are the places of a chunk descriptor's fields, which the spec does not give (`Config.chunkFields`, log 31), and that a
request stands at its slice as a step of its own for hints alone (log 91). -/
def Obligations.MemoryStepsComplete : Prop :=
  ∀ (s : State) (t : ThreadRef) (id core d m k n gen : Nat) (ws : List RegWrite) (w : WalkReq) (e : LogEntry) (c : CopyCmd)
    (b : Block) (here : DieId) (r : Request) (hist : KMap (BitVec 16)) (th : Thread) (hd : Hold) (leaf : TlbEntry)
    (desc : BitVec 512) (rep : List DWord × Bool),
    let goes := fun (i : Instr) (t : State) => exec i s = .next t
    let paid := fun (y : Thread) => { y with pends := y.pends.filter (fun p => p.id != id) }
    -- each entry that a walk reads is counted at its home and held by the memory-side cache
    let walked := fun (s : State) =>
      (s.walkKeys (w.cluster / 16) w.va 4 w.l4).foldl (fun s k => (s.touch k).cacheLine k false) s
    -- both arms of the warp wait for what it issued before a split
    let returned := ((s.applyWrites t ws).updThread t paid).updThread (otherArm t) paid
    let alone := t.warp = 32 ∨ ∀ y, returned.thread? (otherArm t) = some y → y.hold = none
    -- no register of the operation is one of a broken lookahead promise (02 R43)
    let firm := ∀ y, s.thread? t = some y → ∀ p ∈ y.pends, p.id = id → p.loose = []
    (s.due = some (.loadDataReturn t id ws) → firm → returned.thread? t = some th → alone → th.hold = none →
      goes .loadDataReturn returned) ∧
    (s.due = some (.loadDataReturn t id ws) → firm → returned.thread? t = some th → alone → th.hold = some hd →
      hd.wait = .scoreboard → hd.ins = none → goes .loadDataReturn (returned.unhold t)) ∧
    (s.due = some (.pageWalk w) → w.who = .copy core id → s.anyHeld = false → s.walk (w.cluster / 16) w.asid w.va 4 w.l4 = .leaf leaf →
      goes .pageWalk (((walked s).tlbFill w.cluster leaf).post (.copyLanding core id))) ∧
    (s.due = some (.pageWalk w) → w.who = .log core id → s.anyHeld = false → s.walk (w.cluster / 16) w.asid w.va 4 w.l4 = .notPresent →
      goes .pageWalk ((walked s).post (.sideLogReplay core id))) ∧
    (s.due = some (.pageWalk w) → w.who = .thread t → s.anyHeld = false → s.walk (w.cluster / 16) w.asid w.va 4 w.l4 = .leaf leaf →
      goes .pageWalk (((walked s).tlbFill w.cluster leaf).updThread t (fun y => match y.hold with
        | some h => if h.wait = .walk then { y with hold := some { h with wait := .again, stage := 0 }, readyAt := s.clock } else y
        | none => y))) ∧
    (s.due = some (.sideLogReplay core id) → (s.core core).log.find? (fun x => x.id == id) = some e → e.waits = false →
      behindEntry s (s.core core).log e = false → s.updateEarly (s.core core).log e = false → s.blk? e.ctx = some b →
      goes .sideLogReplay { ({ s with cur := some e.t }).logReplay core b e with cur := none }) ∧
    (s.due = some (.copyLanding core id) → (s.core core).copies.find? (fun x => x.id == id) = some c → s.blk? c.t.blk = some b →
      c.paused = none → (∀ x y z la, c.ins ≠ .rlst x y z la) → (∀ x y z, c.ins ≠ .dupd x y z) →
      goes .copyLanding (s.landMove core b c)) ∧
    (s.due = some (.requestDelivery here k r) → s.repeated r.dev here r.id = none →
      goes .requestDelivery ((s.noteSeen r.dev here r.id none).receive here r)) ∧
    (s.due = some (.requestDelivery here k r) → s.repeated r.dev here r.id = some (some rep) →
      goes .requestDelivery ((s.bump k 5).replyTo here r rep.1 rep.2)) ∧
    -- R293: the slice serves a request of the current generation, or of an old one whose map names the same slice; else it is
    -- bounced, counted, and sent again with the current generation
    (s.due = some (.sliceBounce d n gen) →
      (gen = fld (s.cdReg d 0x3C0) 7 0 ∨ sliceIn ((kget (s.cd d).sliceOld gen).getD []) n = sliceIn (s.cd d).slice n) →
      goes .sliceBounce (s.serveSlice d n)) ∧
    (s.due = some (.sliceBounce d n gen) → gen ≠ fld (s.cdReg d 0x3C0) 7 0 → s.eighths d ≠ 8 →
      sliceIn ((kget (s.cd d).sliceOld gen).getD []) n ≠ sliceIn (s.cd d).slice n →
      goes .sliceBounce ((s.setCdReg d 0x3E5 (s.cdReg d 0x3E5 + 1)).post (.sliceBounce d n (fld (s.cdReg d 0x3C0) 7 0)))) ∧
    (s.due = some (.sliceBounce d n gen) → s.eighths d = 8 → goes .sliceBounce (s.serveSlice d n)) ∧
    (s.due = some (.heatSample m k) → m < 16 → s.mds.length = 16 → ∃ q, exec .heatSample s = .next q ∧
      (cget (q.md m).heat k).toNat = min ((cget (s.md m).heat k).toNat + 1) 0xFFFF ∧
      ∀ j, j ≠ k → cget (q.md m).heat j = cget (s.md m).heat j) ∧
    (s.due = some (.heatHalving m) → m < 16 → s.mds.length = 16 → (s.md m).heat = hist → (hist.map (·.1)).Nodup →
      ∃ q, exec .heatHalving s = .next q ∧ ∀ j, cget (q.md m).heat j = cget hist j >>> 1) ∧
    (s.due = some (.heatctlClr m) → m < 16 → s.mds.length = 16 → ∃ q, exec .heatctlClr s = .next q ∧
      (∀ j, cget (q.md m).heat j = 0) ∧ (q.md m).accesses = (s.md m).accesses) ∧
    (s.due = some (.dirtyBitmapReadClear m k) → s.pkg.phase = .ready → goes .dirtyBitmapReadClear
      ((s.updMd m (fun q => { q with dirty := kdel q.dirty k })).emit
        (.answer (leBytes 64 ((kget (s.md m).dirty k).getD 0).toNat) false))) ∧
    (s.due = some (.chunkDescriptorWrite m k desc) → s.pkg.phase = .ready → (s.md m).overflow = [] → (s.md m).stalled = [] → (s.place m).early = [] →
      (s.place m).marks = [] → ∃ q, exec .chunkDescriptorWrite s = .next q ∧
      (m < 16 → s.mds.length = 16 → kget (q.md m).chunks k = some
        { raw := desc, enable := (Config.chunkFields desc).1, base := (Config.chunkFields desc).2.1,
          sectors := (Config.chunkFields desc).2.2.1, reserve := (Config.chunkFields desc).2.2.2 }) ∧ q.mem = s.mem) ∧
    (s.due = some (.systemScPerform n k) → goes .systemScPerform (s.advanceAll n)) ∧
    (∀ op ty size v x, s.due = some (.scTicket r) → r.body = .access op ty size k v x .device → placeOf k = some n →
      placeDie n ≠ .md 0 →
      let s2 := s.setPkg (fun p => { p with ticket := p.ticket + 1 })
      let q := { r with ticket := s2.pkg.ticket, dst := placeDie n, seq := (s2.place n).next }
      goes .scTicket (((s2.ticketed q).updPlace n (fun p => { p with next := p.next + 1 })).send (.md 0) (placeDie n)
        (.request q))) ∧
    (∀ p, s.due = some (.windowMark n) → s.places = [(k, p)] → ¬ (p.system = [] ∧ p.early = [] ∧ p.next = p.perform) →
      goes .windowMark ((s.updPlace k (fun p => { p with marks := p.marks ++ [(n, p.next)] })).sendOrTake (.md 0) (placeDie k)
        (.mark k n)))

/-- 12 R299-R306, 13 R320, R338-R341, 15 R374-R377, R385, R386: the steps of fetchers, placement, the unpicker and the fault path,
and the first steps of the task unit. A doorbell makes its queue active, and the fetcher looks at its queues, at none while its die
is quiesced. The first waiting gang that fits is placed, or, a saved one, has its restore due; one that waits long becomes senior. A
queued task starts in an idle slot; a task's wait is parked, or marked for want of a frame; a thread outside a task is woken; a wait
that found its park table full is tried again. A write of PREEMPT stops a gang, its save keeps it, held where the write asks for
that, RESUME lets it go, and RESTORE places its blocks. The unpicker ends a dead block whose work is done; a replay of a page goes
to what waits for it. A report becomes the record of its thread, or goes to a ring, and a record that nothing stands before enters
its handler. Which step runs when, and the readings of packets and frames, are the model's (log 3, log 20, log 24, log 25, log
26); so are what a row of the task table that software has changed comes to (`State.upset`, log 80), the cores that a senior pool is
given (`seniorTarget`, log 37) and what a gang that moves to another die takes along (`renumber`, log 49). -/
def Obligations.WorkStepsComplete : Prop :=
  ∀ (s : State) (die q n gk : Nat) (d : QueueDesc) (g : Gang) (p : Packet) (plan : List (Nat × Nat × Nat)) (t : ThreadRef)
    (th : Thread) (b : Block) (w : Waiter) (x : Pool) (e next_ : Nat) (k : Task) (v : DWord) (r : FaultRec) (owner : Word) (f : Nat)
    (bs : List Byte) (keys : List Nat),
    let goes := fun (i : Instr) (t : State) => exec i s = .next t
    let gang := s.candidates.findSome? (fun y => match kget s.packets y.2.pkt with
      | some p => if p.owed then none else (s.planOf y.2 p).map (fun plan => (y.1, y.2, p, plan))
      | none => none)
    let settled := ∀ y ∈ s.blocks, y.2.started = true
    let ix := n / 2 ^ 20
    -- what waited for a page of a run queue's links is queued first
    let late := (s.queueLate ix).upset ix
    let hold := fun (h : Wait) => th.hold.map (fun y => { y with wait := h })
    (s.due = some (.lqbell die q) → s.queueDesc die q = some d → d.en = true → d.home = die → q ∉ (s.cd die).active →
      q ∉ (s.cd die).bells → (s.cd die).active.length < 64 →
      goes .lqbell ((s.updCd die (fun c => { c with active := c.active ++ [q] })).post (.packetFetch die))) ∧
    (s.due = some (.packetFetch die) → (s.cd die).quiet = true → goes .packetFetch s) ∧
    (s.due = some (.packetFetch die) → goes .packetFetch (s.fetchPacket die)) ∧
    (s.due = some (.dependencePoll die) → ((s.cd die).active ≠ [] ∨ (s.cd die).bells ≠ []) →
      goes .dependencePoll (s.fetchPacket die)) ∧
    (settled → gang = some (gk, g, p, plan) → s.isSaved g = true → goes .gangPlacement (s.post (.restore gk))) ∧
    (settled → gang = some (gk, g, p, plan) → s.isSaved g = false → p.task = false →
      goes .gangPlacement ((s.placeGrid gk g.pkt p plan).post .gangPlacement)) ∧
    (settled → gang = some (gk, g, p, plan) → s.isSaved g = false → p.task = true →
      goes .gangPlacement ((s.placePool gk g.pkt p plan).post .gangPlacement)) ∧
    (s.due = some (.seniorGang gk) → kget s.gangs gk = some g → g.senior = none → g.hold = false → kget s.packets g.pkt = some p →
      goes .seniorGang ({ s with
        fresh := s.fresh + 1
        gangs := kset s.gangs gk { g with senior := some s.fresh, target := { s with fresh := s.fresh + 1 }.seniorTarget p } }.post
        .gangPlacement)) ∧
    (s.due = some (.taskStart n) → kget late.pools ix = some x → n % 2 ^ 20 ∈ late.idleSlots x → x.killed = false →
      (late.cd x.die).quiet = false → x.oldestReady = none → late.headTask x = .task e k next_ → x.freeFrame = some f →
      late.startKeys x k.rec_ f = .ok bs keys → ∀ core slot scr, x.slots[n % 2 ^ 20]? = some (core, slot, scr) →
      goes .taskStart ((late.updPool ix (fun y => y.afterHead k.prio next_)).startTask ix e x k core slot scr (n % 2 ^ 20) f none
        bs keys)) ∧
    (s.due = some (.adoption t owner) → s.blk? t.blk = some b → s.thread? t = some th → b.home = true → b.killed = none →
      b.ending = false → t.blk ∉ (s.cd b.die).saving → th.hold.map (·.wait) = some .object → t.blk ∈ (s.cd b.die).parking →
      s.chooseOwner b owner = .park → s.quietBlock t.blk b none = true → goes .adoption (s.adopt t b owner .park true)) ∧
    (s.due = some (.adoption t owner) → s.blk? t.blk = some b → s.thread? t = some th → b.home = true → b.killed = none →
      b.ending = false → t.blk ∉ (s.cd b.die).saving → th.hold.map (·.wait) = some .object → s.chooseOwner b owner = .noFrame → ∃ u, exec .adoption s = .next u ∧
      (u.thread? t).map (·.hold) = some (hold .noFrame)) ∧
    (s.due = some (.wake w) → w.task = 0xFFFFFFFF → (s.blk? w.t.blk).bind (fun b => s.task? b.die w.task) = none → goes .wake (s.release w.t)) ∧
    (s.due = some (.parkRetry t) → s.thread? t = some th → th.hold.map (·.wait) = some .parkRoom →
      ∃ u, exec .parkRetry s = .next u ∧ (u.thread? t).map (·.hold) = some (th.hold.map (fun h =>
        { h with wait := .again, stage := 2, answer := none }))) ∧
    (s.due = some (.preempt die v) → v.getLsbD 0 = true → (s.cdReg die 0x3B3).getLsbD 63 = false →
      s.ctxBlock die (fld v 47 32) = some (n, b) → b.home = true → b.killed = none →
      goes .preempt (((s.setCdReg die 0x3B3 (if v.getLsbD 1 then 0x8000000000000002 else 0x8000000000000000)).updCd die (fun c =>
        { c with saving := c.saving ++ (s.setCdReg die 0x3B3 (if v.getLsbD 1 then 0x8000000000000002
          else 0x8000000000000000)).gangOf n b })).post (.preemptSave die))) ∧
    (s.due = some (.preemptSave die) → (s.cd die).saving = [] → goes .preemptSave
      ((s.updCd die (fun c => { c with saving := [] })).setCdReg die 0x3B3 0)) ∧
    (∀ s', s.due = some (.preemptSave die) → (s.cd die).saving = [n] → s.blk? n = some b → b.home = true → b.killed = none →
      s.quietBlock n b none = true → s.saveBlock n (bitOf (s.cdReg die 0x3B3) 1) false = .done s' →
      s'.pools = [] →
      let held := bitOf (s.cdReg die 0x3B3) 1
      let s2 := { s' with fresh := s'.fresh + 1 }
      let s3 := { s2 with gangs := kset s2.gangs s'.fresh (savedGang s2 b.pkt [n] held) }
      goes .preemptSave (((s3.updCd die (fun c => { c with saving := c.saving.filter (· ≠ n) })).setCdReg die 0x3B3 0).post
        .gangPlacement)) ∧
    (s.due = some (.resume die v) → s.ctxBlock die (fld v 47 32) = some (n, b) → b.home = false →
      (∀ y ∈ s.gangs, n ∈ y.2.blocks) → goes .resume
        ({ s with gangs := s.gangs.map (fun (y : Nat × Gang) => (y.1, { y.2 with hold := false, since := if y.2.hold then s.pkg.timeNs.toNat else y.2.since })) }.post .gangPlacement)) ∧
    (s.due = some (.restore gk) → kget s.gangs gk = some g → g.hold = false → g.stuck = false → kget s.packets g.pkt = some p →
      s.planOf g p = some plan → s.restoreShort p = false → p.task = false → ∀ ks,
      s.manyKeys (fun i => ((plan.getD i (0, 0, 0)).1) / 128) p.desc ((s.savedClusters g).flatten.map (fun x => x.2.frameVa)) 0 []
        = .ok ks →
      let moved := (s.savedClusters g).flatten.zip (plan.zip ks)
      -- the blocks' frames are at their pages again, and are read back; then the blocks take their slots
      let s2 := moved.foldl (fun (s : State) x => (s.renumber x.1.1 (x.2.1.1 / 128)).updBlk x.1.1
        (fun b => { b with frameKeys := x.2.2, die := x.2.1.1 / 128 })) s
      ∀ s3, s2.readFrames (moved.map (·.1.1)) = .done s3 →
      let s4 := moved.foldl (fun (s : State) x => s.rehome x.1.1 x.2.1.1 x.2.1.2.1 x.2.1.2.2 x.1.2.blockIx) s3
      goes .restore ({ s4 with gangs := kdel s4.gangs gk }.post .gangPlacement)) ∧
    (s.due = some (.unpickerPass die) → (s.cd die).marks = [] → (s.cd die).dead = [n] → s.blk? n = some b → b.home = true →
      s.quietBlock n b none = true → s.endWaitsPage die b = false →
      let u := s.unpick n b (b.killed.getD 33)
      u.blk? n = none → (u.cd die).dead = [n] → (∀ y ∈ u.blocks, y.2.over = false) →
      goes .unpickerPass (u.updCd die (fun c => { c with dead := [] }))) ∧
    (s.due = some (.fltreplay die v) → goes .fltreplay (s.fltReplay die v)) ∧
    (s.due = some (.faultReport (.thread t) r) → s.thread? t = some th → th.live = true → th.record = none →
      th.later = none →
      (s.blk? t.blk).bind (·.killed) = none →
      goes .faultReport ((s.updThread t (fun y => { y with record := some r })).post (.trapEntry t))) ∧
    (s.due = some (.faultReport (.ring die) r) → goes .faultReport (s.ringPut die r)) ∧
    (s.due = some (.trapEntry t) → s.blk? t.blk = some b → s.thread? t = some th → b.home = true → th.live = true →
      b.killed = none → th.record = some r → s.beingSaved t.blk = false → b.otherInTrap t = false → b.quietWarp t.warp = true →
      s.firstRecord t th = t → goes .trapEntry (s.enterTrap t r))

/-- 13 R338-R344: the other steps of the task unit. TASK_START gives an idle slot the oldest READY chain before any queued task.
ADOPTION waits until the work of the waiting block is done; then it starts a queued owner, or restores an owner's chain of one task,
in the waiter's slot, the waiter saved and NESTED beneath it; it does nothing for a wait that is over. A wake turns a PARKED task
READY and offers it to the slots, releases the held thread of a RUNNING task, is dropped for a task that runs in another block or is
NESTED, and is marked in RESCAN of a pool that is not placed. The order of steps, and that they act at once, are the model's choices
(log 3, log 24); so is what a row that software has changed comes to (`State.upset`, log 80). -/
def Obligations.TaskUnitStepsComplete : Prop :=
  ∀ (s : State) (n e px f bk core slot scr : Nat) (x p : Pool) (k : Task) (b o : Block) (t : ThreadRef) (th : Thread)
    (owner : Word) (bs : List Byte) (keys : List Nat) (rest : List (Nat × Block)) (ks : List (Nat × List Nat)) (s1 s2 u : State)
    (w : Waiter),
    let goes := fun (i : Instr) (t : State) => exec i s = .next t
    let ix := n / 2 ^ 20
    let j := n % 2 ^ 20
    let late := (s.queueLate ix).upset ix
    let waiting := s.due = some (.adoption t owner) ∧ s.blk? t.blk = some b ∧ s.thread? t = some th ∧ b.home = true ∧
      b.killed = none ∧ b.ending = false ∧ t.blk ∉ (s.cd b.die).saving ∧ t.blk ∈ (s.cd b.die).parking
    let held := th.hold.map (·.wait) = some .object
    let nested := fun (s : State) => (s.pmcCount b.coreIx 9 1).setTask b (fun k => { k with st := .nested })
    let woken := s.due = some (.wake w) ∧ s.blk? w.t.blk = some b ∧ s.task? b.die w.task = some (px, p, e, k)
    (s.due = some (.taskStart n) → kget late.pools ix = some x → j ∈ late.idleSlots x → x.killed = false →
      (late.cd x.die).quiet = false → x.slots[j]? = some (core, slot, scr) → x.oldestReady = some (e, k) →
      late.chainBlocks 8 k.blk = (bk, b) :: rest → late.chainKeys x.die ((bk, b) :: rest) [] = .ok ks →
      late.takeChain ix e bk core slot scr j ks = .done s2 → goes .taskStart s2) ∧
    (s.due = some (.taskStart n) → kget late.pools ix = some x → j ∉ late.idleSlots x → goes .taskStart late) ∧
    (waiting → held → s.chooseOwner b owner = .fresh px e f p k → s.quietBlock t.blk b none = true →
      s.startKeys p k.rec_ f = .ok bs keys → s.unlinkTask px p k = .ok u → s.saveBlock t.blk false true = .done s1 →
      s1.unlinkTask px p k = .ok s2 → goes .adoption
        ((nested s2).startTask px e p k b.coreIx b.slot b.scrBase b.blockIx.toNat f (some t.blk) bs keys)) ∧
    (waiting → held → s.chooseOwner b owner = .saved px e bk → s.quietBlock t.blk b none = true → s.blk? bk = some o →
      s.frameKeys b.die o.desc o.frameVa = .ok keys → s.saveBlock t.blk false true = .done s1 →
      (nested s1).takeChain px e bk b.coreIx b.slot b.scrBase b.blockIx.toNat [(bk, keys)] = .done s2 →
      goes .adoption (s2.updBlk bk (fun y => { y with below := some t.blk }))) ∧
    (waiting → held → s.chooseOwner b owner ≠ .noFrame → s.quietBlock t.blk b none = false →
      goes .adoption (s.post (.adoption t owner))) ∧
    (waiting → ¬ held → s.chooseOwner b owner ≠ .park →
      goes .adoption (s.updCd b.die (fun c => { c with parking := c.parking.filter (· ≠ t.blk) }))) ∧
    (woken → p.placed = false → goes .wake ((s.updPool px (fun p => { p with rescan := true })).syncRows px [])) ∧
    (woken → p.placed = true → k.st = .parked → goes .wake (((({ s with fresh := s.fresh + 1 }).updTask px e (fun k =>
      { k with st := .ready, order := s.fresh })).syncPool px e).offerWork px)) ∧
    (woken → p.placed = true → k.st = .running → k.blk = some w.t.blk → goes .wake (s.release w.t)) ∧
    (woken → p.placed = true → ((k.st = .running ∧ k.blk ≠ some w.t.blk) ∨ k.st = .nested) → goes .wake s)

/-- 16 R394-R399, R409: the steps of links and ports. The slot of a flit in order is delivered, and the 16th flit is acknowledged; an
early one is held; one after a flit that failed is dropped. A CRC failure is counted and answered with a NAK, and the ninth is a link
fault.
An acknowledgement frees the replay buffer and a NAK replays it, as a time-out does; an acknowledgement that is owed is sent when
its timer ends; the error count restarts with its interval. A port does the same with its frames, and its timers are named by its die alone (log 84). A module goes to lower power under the
LINKPOL of the start of its idle period. Training, retraining, lower power
and wakes change the state of a module, and each way down takes the link down with its cause. Such a step is due when someone
outside has put it there (log 4). -/
def Obligations.LinkStepsComplete : Prop :=
  ∀ (s : State) (h : Hop) (f : Flit) (d p : DieId) (m ack port : Nat) (nak lo hi : Bool) (fr : Frame),
    let goes := fun (i : Instr) (t : State) => exec i s = .next t
    let key := hopKey h.src h.dst
    let st := s.stream key
    let up := s.linkUp h.src h.dst = true
    -- an acknowledgement, or a NAK, leaves by the module of the other direction, or waits for one, and the link wakes
    let sends := fun (s : State) (nak : Bool) => match s.carrier h.dst h.src with
      | some n => ((s.updStream key (fun x => { x with unacked := 0, ackDue := none })).idleFrom h.dst h.src n).post
          (.ackOnlyFlit { src := h.dst, dst := h.src, mod := n } (((s.stream key).rx + 255) % 256) nak true (s.stream key).epoch)
      | none => (s.updStream key (fun x => { x with ackDue := some (nak || x.ackDue == some true) })).wakeLink h.dst h.src
    let plain_ := f.ack = none ∧ f.nak = false ∧ f.epoch = st.epoch
    -- the acknowledgement of a port, or its NAK, in a frame with no slot
    let acks := fun (s : State) (port dst : Nat) (nak : Bool) => (s.updMd port (fun q => { q with portUnacked := 0 })).emit
      (.frame port { seq := ((s.md port).portSeq + 65535) % 65536, ack := some (((s.md port).portRx + 65535) % 65536),
                     nak := nak, src := fld s.pkg.devno 7 0, dst := dst, stamp := 0, slots := [] })
    let fine := (s.md port).portUp = true ∧ fr.ack = none ∧ fr.nak = false ∧ (s.md port).portBad = none
    let late := (st.discard.map (seqAfter f.seq)).getD false = true
    let rest := if st.discard = some f.seq then none else st.discard
    let refused := fun (s : State) => sends (s.updStream key (fun x => { x with discard := some (x.failed f.seq) })) true
    let peer := linkPeer d (m / 2) = some p
    let mode := s.modState d m
    let half := some (if lo then 0 else 1)
    let pol := (kget s.idlePol (ctrKey d m)).getD 0
    let quiet := (s.stream (hopKey d p)).queue = [] ∧ (s.stream (hopKey p d)).queue = []
    (s.due = some (.flitReceive h f true) → ¬ up → goes .flitReceive s) ∧
    (s.due = some (.flitReceive h f true) → up → plain_ → ¬ late → f.seq = st.rx → f.slots = [] → st.early = [] →
      st.unacked < 15 → goes .flitReceive (s.updStream key (fun x =>
        { x with rx := (x.rx + 1) % 256, discard := rest, unacked := x.unacked + 1 }))) ∧
    (s.due = some (.flitReceive h f true) → up → plain_ → ¬ late → f.seq = st.rx → f.slots = [] → st.early = [] →
      st.unacked = 15 →
      let u := s.updStream key (fun x => { x with rx := (x.rx + 1) % 256, discard := rest, unacked := x.unacked + 1 })
      goes .flitReceive (sends u false)) ∧
    -- a flit of the numbering before a resync (R396)
    (s.due = some (.flitReceive h f true) → up → f.epoch ≠ st.epoch → goes .flitReceive (s.oldFlit h f)) ∧
    (∀ x, s.due = some (.flitReceive h f true) → up → plain_ → ¬ late → f.seq = st.rx → f.slots = [x] →
      let u := (s.updStream key (fun y =>
        { y with rx := (y.rx + 1) % 256, discard := rest, unacked := y.unacked + 1 })).deliver h.dst
          (ctrKey h.dst (modOf h.dst h.src h.mod)) x
      (u.stream key).early = [] → (u.stream key).unacked < 16 → goes .flitReceive u) ∧
    (s.due = some (.flitReceive h f true) → up → plain_ → late → goes .flitReceive s) ∧
    (s.due = some (.flitReceive h f true) → up → plain_ → ¬ late → f.seq ≠ st.rx →
      (f.seq + 256 - st.rx) % 256 < 64 → st.early = [] →
      goes .flitReceive (s.updStream key (fun x => { x with early := x.early ++ [f], discard := rest }))) ∧
    (s.due = some (.flitReceive h f false) → up → (s.countCrc h).linkUp h.src h.dst = true → f.tries < 9 →
      goes .flitReceive (refused (s.countCrc h))) ∧
    (s.due = some (.flitReceive h f false) → up → (s.countCrc h).linkUp h.src h.dst = true → 9 ≤ f.tries →
      let u := (s.countCrc h).linkFault h.src h.dst h.mod 1
      goes .flitReceive (if u.linkUp h.src h.dst then refused u else u)) ∧
    (∀ n, s.due = some (.ackOnlyFlit h ack nak false n) → up → goes .ackOnlyFlit (s.countCrc h)) ∧
    (∀ n, s.due = some (.ackOnlyFlit h ack nak true n) → up → n ≠ (s.stream (hopKey h.dst h.src)).epoch → goes .ackOnlyFlit s) ∧
    (s.due = some (.ackOnlyFlit h ack nak true (s.stream (hopKey h.dst h.src)).epoch) → up →
      let u := s.takeAck h.dst h.src (some ack)
      goes .ackOnlyFlit (if nak then u.replay h.dst h.src else u)) ∧
    (s.due = some (.ackTimer h) → h.src ≠ h.dst → up → st.unacked ≠ 0 → goes .ackTimer (sends s false)) ∧
    (s.due = some (.ackTimer h) → h.src = .md port → h.dst = .md port → (s.md port).portUp = true → (s.md port).portUnacked ≠ 0 →
      goes .ackTimer (acks s port (s.md port).portPeer false)) ∧
    (s.due = some (.replayTimeout h) → h.src ≠ h.dst → st.buf ≠ [] → goes .replayTimeout (s.replay h.src h.dst)) ∧
    (s.due = some (.replayTimeout h) → h.src = .md port → h.dst = .md port → (s.md port).portBuf ≠ [] →
      goes .replayTimeout (s.resendFrames port)) ∧
    (s.due = some (.errorInterval d m) → goes .errorInterval { s with modErr := kdel s.modErr (ctrKey d m) }) ∧
    (s.due = some (.scaleUpFrame port fr true) → (s.md port).portUp = true → fr.ack = none → fr.nak = false → fr.slots = [] →
      goes .scaleUpFrame s) ∧
    -- an acknowledgement that covers nothing is no progress
    (s.due = some (.scaleUpFrame port fr true) → (s.md port).portUp = true → fr.ack = some ack → fr.nak = false → fr.slots = [] →
      goes .scaleUpFrame ((s.updMd port (fun q => { q with portBuf := framesAfter q.portBuf ack, portTries :=
        if (framesAfter q.portBuf ack).length = q.portBuf.length then q.portTries else 0 })).drainPort port 256)) ∧
    (s.due = some (.scaleUpFrame port fr true) → (s.md port).portUp = true → fr.ack = none → fr.nak = true → fr.slots = [] →
      goes .scaleUpFrame (s.resendFrames port)) ∧
    (∀ r, s.due = some (.scaleUpFrame port fr true) → fine → fr.slots = [.request r] → fr.seq = (s.md port).portRx →
      s.pkg.timeNs.toNat / 2 ^ fld s.pkg.wlen 3 0 ≤ fr.stamp + 1 →
      let u := ((s.updMd port (fun q => { q with portBad := none })).updMd port (fun q =>
        { q with portRx := (q.portRx + 1) % 65536, portUnacked := q.portUnacked + 1, portPeer := fr.src })).deliver (.md port)
          (512 + port) (.request { r with dst := .md port })
      (u.md port).portEarly = [] → goes .scaleUpFrame (if 16 ≤ (u.md port).portUnacked then acks u port fr.src false else u)) ∧
    (s.due = some (.scaleUpFrame port fr true) → fine → fr.slots ≠ [] → fr.seq ≠ (s.md port).portRx →
      (fr.seq + 65536 - (s.md port).portRx) % 65536 < 256 → (s.md port).portEarly = [] → goes .scaleUpFrame
        (s.updMd port (fun q => { q with portEarly := q.portEarly ++ [fr], portBad := none }))) ∧
    (s.due = some (.scaleUpFrame port fr false) → (s.md port).portUp = true → fr.slots = [] →
      goes .scaleUpFrame (s.bump (512 + port) 0)) ∧
    (s.due = some (.scaleUpFrame port fr false) → (s.md port).portUp = true → fr.slots ≠ [] →
      let first := fun (q : Md) => if frameAfter q.portRx fr.seq then q.portRx else fr.seq
      goes .scaleUpFrame (acks ((s.bump (512 + port) 0).updMd port (fun q => { q with portBad := some (match q.portBad with
        | some n => if frameAfter n (first q) then first q else n
        | none => first q) })) port fr.src true)) ∧
    (s.due = some (.train d m) → peer → mode = 0 → goes .train (s.setMod d p (m % 2) 1)) ∧
    (s.due = some (.takeDown d m) → peer → mode ≠ 0 → goes .takeDown (s.declareDown d p 6)) ∧
    (s.due = some (.trainingEnd d m true true) → peer → mode = 1 → goes .trainingEnd (s.enterL0 d p (m % 2) false none)) ∧
    (s.due = some (.trainingEnd d m lo hi) → peer → mode = 1 → lo ≠ hi → s.pkg.linkpol.getLsbD 63 = true →
      goes .trainingEnd (s.enterL0 d p (m % 2) true half)) ∧
    (s.due = some (.trainingEnd d m lo hi) → peer → mode = 1 → ¬ (lo = true ∧ hi = true) →
      ((lo = false ∧ hi = false) ∨ s.pkg.linkpol.getLsbD 63 = false) → goes .trainingEnd (s.declareDown d p 2)) ∧
    (s.due = some (.retrainEnd d m lo hi) → peer → mode = 6 → (lo = true ∨ hi = true) →
      goes .retrainEnd (((s.resync d p).resync p d).enterL0 d p (m % 2) true half)) ∧
    (s.due = some (.retrainEnd d m false false) → peer → mode = 6 → goes .retrainEnd (s.declareDown d p 5)) ∧
    (s.due = some (.l0nIdle d m) → peer → fld pol 47 40 ≠ 0 → mode = 2 → (s.lkst d m).getLsbD 60 = false → quiet →
      goes .l0nIdle (s.setMod d p (m % 2) 3)) ∧
    (s.due = some (.l1sIdle d m) → peer → fld pol 39 32 ≠ 0 → (mode = 2 ∨ mode = 3) → quiet →
      goes .l1sIdle (s.setMod d p (m % 2) 4)) ∧
    (s.due = some (.wakeComplete d m) → peer → mode = 5 → goes .wakeComplete
      (s.enterL0 d p (m % 2) ((s.lkst d m).getLsbD 60) none)) ∧
    (s.due = some (.wakeTimeout d m) → peer → mode = 5 → goes .wakeTimeout (s.declareDown d p 3)) ∧
    (s.due = some (.unresponsiveTimeout d m) → peer → mode ≠ 0 → (s.stream (hopKey d p)).buf ≠ [] →
      goes .unresponsiveTimeout (s.declareDown d p 4))

/-- 15 R380, 16 R404-R407, R417, 17 R418-R428, 14 R364: the steps of the host and of the management unit: transactions,
register writes, the repartition commands, the mailbox, the start, stops, the power window, and a step of the time base. Such
a step is due when someone outside has put it there (log 4); results of commands, what survives a stop, and the signatures
are the model's readings and choices (log 52, log 33, log 53, log 12), and so are the mailbox's word widths (log
67), that a host's read before READY does nothing (log 85), when keys and certificates stand (log 54), and which copy of the
boot status block a cut write leaves (log 105). -/
def Obligations.ManagementStepsComplete : Prop :=
  ∀ (s : State) (a pa len : Nat) (data : List Byte) (bad min : Bool) (cols : BitVec 4) (r : RegPlace) (v fl : DWord)
    (nonce : BitVec 256) (step_ unit watts tj : Nat) (i : StartInputs) (n : Word) (code : DWord),
    let goes := fun (i : Instr) (t : State) => exec i s = .next t
    let ends := fun (s : State) (st : Nat) =>
      (s.setPkg (fun p => { p with mailStat := st, mailBusy := false })).emit (.msix 9)
    let result := fun (s : State) (n : Nat) => s.setPkg (fun p => { p with partcmd := BitVec.ofNat 64 (n * 2 ^ 60) })
    let idle := s.pkg.mailBusy = false
    let ready := s.pkg.phase = .ready
    let stops := fun (ph : Phase) (t : State) => t.blocks = [] ∧ t.cores = [] ∧ t.l1 = [] ∧ t.l2 = [] ∧ t.tlb = [] ∧
      t.packets = [] ∧ t.inbox = [] ∧ t.pkg.phase = ph ∧ t.pkg.fuses = s.pkg.fuses ∧
      (∀ k, cget t.mem k = if 16 ≤ keyPlace k then cget s.mem k else 0)
    -- the boot status block is as it was
    let booted := fun (t : State) => t.pkg.fcnt = s.pkg.fcnt ∧ t.pkg.history = s.pkg.history ∧ t.pkg.seqByte = s.pkg.seqByte
    -- the older copy of the boot status block takes the new content
    let boots := fun (s : State) (f : Pkg → Pkg) =>
      s.setPkg (fun p => { f p with seqByte := p.seqByte + 1, spare := some p.boot, bootAt := s.clock })
    (s.due = some (.hostAccess (.hostWrite a data bad)) → ∃ t, exec .hostAccess s = .next t ∧
      cread t.mem (16 * 2 ^ 48 + a) data.length = data ∧ SameOutside s t (16 * 2 ^ 48 + a) data.length ∧
      (bad = true → ∀ x ∈ sectorsOf (16 * 2 ^ 48 + a) data.length, x ∈ t.poison)) ∧
    (s.due = some (.hostAccess (.readReg r)) → (ready ∨ ∃ n, r = .pkg n) → goes .hostAccess (s.emit (.regAnswer (s.readReg r)))) ∧
    (s.due = some (.hostAccess (.write pa data bad)) → ready → s.hostHeld pa data.length = false →
      goes .hostAccess (s.hostWrite pa data bad)) ∧
    (s.due = some (.hostAccess (.read pa len)) → ready → s.hostHeld pa len = false → goes .hostAccess (s.hostRead pa len)) ∧
    (s.due = some (.hostAccess (.read pa len)) → ¬ ready → goes .hostAccess s) ∧
    (s.due = some (.hostAccess (.mailWrite 64 data)) → data.length ≤ 4032 → ∃ t, exec .hostAccess s = .next t ∧
      cread t.pkg.mail 64 data.length = data ∧ t.inbox = s.inbox ∧ SameMemory s t) ∧
    (s.due = some (.hostAccess (.mailWrite 0 (leBytes 8 5))) → ∃ t, exec .hostAccess s = .next t ∧
      t.inbox = (s.post (.raisefloor (BitVec.ofNat 64 (leNat (cread s.pkg.mail 64 8))))).inbox) ∧
    (s.due = some (.hostAccess (.readMail 8 8)) → goes .hostAccess (s.emit (.answer (leBytes 8 s.pkg.mailStat) false))) ∧
    (s.due = some (.registerWrite r v) → (ready ∨ ∃ n, r = .pkg n) → goes .registerWrite (s.writeReg r v)) ∧
    (s.due = some (.quiesce cols) → s.pkg.stage = 0 → s.wholeParts cols = false → goes .quiesce (result s 3)) ∧
    (s.due = some (.quiesce cols) → s.pkg.stage ≠ 0 → goes .quiesce (result s 4)) ∧
    (s.due = some (.quiesce cols) → s.pkg.stage = 0 → s.wholeParts cols = true → s.cds.length = 8 → ∃ t, exec .quiesce s = .next t ∧
      (∀ d, d < 8 → (t.cd d).quiet = (cols.getLsbD (d % 4) || (s.cd d).quiet)) ∧ t.pkg.stage = 1 ∧ t.pkg.stageCols = cols ∧
      t.pkg.partcmd = 0) ∧
    (s.due = some (.commit cols) → (s.pkg.stage ≠ 1 ∨ s.pkg.stageCols ≠ cols) → goes .commit (result s 4)) ∧
    (s.due = some (.commit cols) → s.pkg.stage = 1 → s.pkg.stageCols = cols → ∀ k, s.drainRefusal cols = some k →
      goes .commit (result s k)) ∧
    (s.due = some (.commit cols) → s.pkg.stage = 1 → s.pkg.stageCols = cols → s.drainRefusal cols = none →
      let u := (s.l2.filter (fun x => (colDies cols).contains x.die)).foldl (fun s x => s.l2Drop x) s
      let w := (colMds cols).foldl (fun s m => s.updMd m (fun d => { d with held := [], metaHit := [], lines := [] })) u
      w.stagedOk cols = true →
      goes .commit (result (((colDies cols).foldl (fun s d => s.applyStaged d) w).setPkg (fun p => { p with stage := 2 })) 0)) ∧
    (s.due = some (.release cols) → s.pkg.stage = 2 → s.pkg.stageCols = cols → goes .release (result (s.unquiet cols) 0)) ∧
    (s.due = some (.abort cols) → s.pkg.stage = 1 → s.pkg.stageCols = cols → goes .abort (result (s.unquiet cols) 0)) ∧
    (s.due = some (.restart min) → ∃ t, exec .restart s = .next t ∧ stops .inReset t ∧ booted t ∧
      t.pkg.wantMin = min ∧ t.pkg.mailStat = 0) ∧
    (s.due = some .fundamentalReset → ∃ t, exec .fundamentalReset s = .next t ∧ stops .inReset t ∧ booted t) ∧
    (s.due = some .powerLoss → ∃ t, exec .powerLoss s = .next t ∧ stops .off t ∧
      -- a write of the boot status block that is under way may be cut: then the copy before it is left (R422)
      (s.pkg.bootAt + 1 < s.clock → booted t) ∧ (booted t ∨ ∃ x, s.pkg.spare = some x ∧ t.pkg.boot = x)) ∧
    (s.due = some (.thermalTrip unit) → ∃ t, exec .thermalTrip s = .next t ∧ t.pkg.phase = .failed ∧ t.blocks = [] ∧
      t.pkg.history = ((9, (if s.pkg.step = 0 then 6 else s.pkg.step), unit) :: s.pkg.history).take 8 ∧
      t.pkg.fcnt = Nat.min (s.pkg.fcnt + 1) 255) ∧
    (s.due = some (.startStepTimeout step_ unit) → s.pkg.step = step_ → step_ ≠ 0 → ∃ t, exec .startStepTimeout s = .next t ∧
      t.pkg.phase = .failed ∧ t.pkg.history = ((7, step_, unit) :: s.pkg.history).take 8 ∧ t.pkg.progress = false) ∧
    (s.due = some (.start i) → s.pkg.phase = .inReset → s.pkg.step = 5 → ∃ t, exec .start s = .next t ∧ t.pkg.phase = .ready ∧
      t.pkg.step = 0 ∧ t.pkg.progress = false ∧ (s.pkg.minimal = false → t.pkg.fcnt = 0) ∧ t.blocks = s.blocks ∧ t.mem = s.mem) ∧
    (s.due = some (.start i) → s.pkg.phase = .inReset → s.pkg.step = 0 → s.pkg.progress = false → i.rails = true →
      ∃ t, exec .start s = .next t ∧ t.pkg.step = 1 ∧ t.pkg.progress = true ∧
        t.pkg.minimal = (decide (3 ≤ s.pkg.fcnt) || s.pkg.wantMin) ∧ t.inbox = s.inbox ++ [.start i]) ∧
    (s.due = some .clearfail → idle → goes .clearfail
      (ends (boots s (fun p => { p with fcnt := 0 })) 0)) ∧
    (s.due = some (.raisefloor fl) → idle → fl ≤ s.pkg.version → fl.toNat ≤ 64 →
      goes .raisefloor (ends (s.setPkg (fun p => { p with fuses := Nat.max p.fuses fl.toNat })) 0)) ∧
    (s.due = some (.raisefloor fl) → idle → (s.pkg.version < fl ∨ 64 < fl.toNat) → goes .raisefloor (ends s 3)) ∧
    -- the keys stand once the firmware has been verified (R421)
    (s.due = some (.getcert v) → idle → s.pkg.attKey ≠ none → fld v 63 48 = 0 → goes .getcert
      (ends (s.putAll (16 * 2 ^ 48 + fld v 47 0) (Config.identityCert ++ s.pkg.attCert)) 0)) ∧
    (s.due = some (.attest nonce v) → v.getLsbD 63 = false → idle → s.pkg.attKey ≠ none → fld v 63 48 = 0 → goes .attest
      ((s.setPkg (fun p => { p with mailBusy := true, mailStat := 1 })).post (.attest nonce (v ||| 0x8000000000000000)))) ∧
    (s.due = some (.getcert v) → idle → (s.pkg.attKey = none ∨ fld v 63 48 ≠ 0) → goes .getcert (ends s 3)) ∧
    (s.due = some (.attest nonce v) → v.getLsbD 63 = false → idle → (s.pkg.attKey = none ∨ fld v 63 48 ≠ 0) →
      goes .attest (ends s 3)) ∧
    (s.due = some (.attest nonce v) → v.getLsbD 63 = true → s.pkg.mailBusy = true → goes .attest
      (ends (s.putAll (16 * 2 ^ 48 + fld v 47 0)
        (reportBytes s nonce ++ padTo 29792 (Config.slhSign (s.pkg.attKey.getD []) (reportBytes s nonce)))) 0)) ∧
    (s.due = some (.badCommand code) → idle → goes .badCommand (ends s 2)) ∧
    (s.due = some (.badCommand code) → s.pkg.mailBusy = true → goes .badCommand
      ((s.setPkg (fun p => { p with mailStat := 1 })).emit (.msix 9))) ∧
    (s.due = some (.powerWindow watts tj) → watts ≤ fld s.pkg.pwrlim 15 0 → tj ≤ 100 → ∃ t, exec .powerWindow s = .next t ∧
      t.pkg.pwrstat = BitVec.ofNat 64 (watts % 2 ^ 16 * 2 ^ 48 + tj * 2 ^ 40 + fld s.pkg.pwrstat 31 0)) ∧
    (s.due = some (.timeStep n) → n ≠ 0 → ∃ t, exec .timeStep s = .next t ∧
      t.pkg.timeNs = s.pkg.timeNs + BitVec.ofNat 64 n.toNat)

/-! ## Decoding, stepping, reset, and what every step keeps -/

/-- The words that the spec prints beside an assembly line decode to that line. -/
def Obligations.PrintedWordsDecode : Prop :=
  decodeWord 0x6E080831 = some (.shflUp 2 1 3) ∧ decodeWord 0x38A7D031 = some (.cmp 5 1 122 3 1) ∧
  decodeWord 0x06080FFF = some (.addi 2 1 0x7FF) ∧ decodeWord 0x32400064 = some (.movh 16 100) ∧
  decodeWord 0x9C104000 = some (.csrw 4 0x100) ∧ decodeWord 0xFC000050 = some (.trap 5) ∧
  decodeWord 0xFC000011 = some (.svc 1) ∧ decodeWord 0xFC000002 = some .rft ∧ decodeWord 0xE0000400 = some (.mma 0 4 0 0) ∧
  decodeWord 0xEA300000 = some (.mrdy 3) ∧ decodeWord 0xFA080007 = some (.time 2) ∧ decodeWord 0xF600000B = some .yield ∧
  decodeWord 0xD4000003 = some (.fence 3) ∧ decodeWord 0x7C000000 = some .rcv ∧ decodeWord 0x96082800 = some (.yset 2 5)

/-- 02 R32, R50-R52: no bit of an encoding is dropped: the decoder reads every encoded instruction back from its word, with every
operand at every value of its field. -/
def Obligations.EncodedWordsDecode : Prop :=
∀ i w, encode i = some w → decodeWord w = some i

/-- 02 R33, R50: every word that decodes is the one encoding of what it decodes to, so a word with a 1 in an unused bit decodes to
nothing; field values that no form lists are refused at issue (`wellFormed`), not here. -/
def Obligations.DecodedWordsEncode : Prop :=
∀ w i, decodeWord w = some i → encode i = some w

/-- 02 R32, 12 R312: a thread whose turn it is goes on with the instruction that it waits in, or fetches the little-endian
word at its PC, counted at its home, and runs what it decodes to; a word that decodes to nothing is ILLEGAL_INSTRUCTION. A step (log
3): time passes; then a thread that is ready issues, or a due step is taken, the first of its channel; where both could, or several
channels hold steps, the device chooses; with neither, nothing else happens. The order of turns is the model's choice (log 3), and so
is the passing of time (log 13). -/
def Obligations.StepRunsDecodedInstruction : Prop :=
  (∀ (s : State) (t : ThreadRef) (b : Block) (th : Thread) (i : Instr) (k : Nat),
      s.blk? t.blk = some b → s.thread? t = some th →
        let s2 := { s.setHold t none with cur := some t }.fetchRead b th
        let word := BitVec.ofNat 32 (leNat (cread s.mem k 4))
        let there := s.translateNow b.die (clusterOf b.coreIx) b.desc th.pc.toNat .fetch th.trap = .hit k
        (th.hold.bind (·.ins) = some i → s.runThread t = exec i { s with cur := some t }) ∧
        (th.hold.bind (·.ins) = none → there → decodeWord word = some i → s.runThread t = exec i s2) ∧
        (th.hold.bind (·.ins) = none → there → decodeWord word = none → s.runThread t = exec (.illegalInstruction word) s2)) ∧
  (∀ (s u v : State) (t : ThreadRef) (e : Event),
      let o := s.opening
      (o.choose = some (t, u) → o.inbox = [] → step s = u.runThread t) ∧
      (o.choose = some (t, u) → o.inbox ≠ [] → { o with free := u.free + 1 }.takeEvent = some (e, v) → step s =
        if Config.freeBool (nth u.free 0) = true then { u with free := u.free + 1 }.runThread t
        else exec e.instr { v with due := some e }) ∧
      (o.choose = none → o.takeEvent = some (e, v) → step s = exec e.instr { v with due := some e }) ∧
      (o.choose = none → o.inbox = [] → step s = .next o) ∧
      (s.inbox ≠ [] → ∃ d w, s.takeEvent = some (d, w)) ∧
      (s.takeEvent = some (e, v) → ∃ before after, s.inbox = before ++ e :: after ∧ v.inbox = before ++ after ∧
        ∀ x ∈ before, Event.lane x ≠ Event.lane e))

/-- 16 R413, R414, 14 R364, R369, 11 R289, R296: what reset leaves. That the cluster TLBs are empty, and that the counts of the
performance counters are 0, where R370 gives resets of their configurations only, are the model's choices (log 9). -/
def Obligations.ResetValues : Prop :=
  (∀ d, d < 8 → State.reset.cdReg d 0x301 = 0xFEDCBA9876543210) ∧
  (∀ d, d < 8 → (State.reset.cdReg d 0x302, State.reset.cdReg d 0x303, State.reset.cdReg d 0x304, State.reset.cdReg d 0x305)
    = (0, 3, 0, 1)) ∧
  (∀ d n, d < 8 → 0x3E4 ≤ n → n ≤ 0x3E9 → State.reset.cdReg d n = 0) ∧
  (∀ c i, (State.reset.core c).pmc.getD i 0 = 0 ∧ (State.reset.core c).pmcfg.getD i 0 = 0) ∧
  (∀ c i, cget (State.reset.core c).att i = 0 ∧ cget (State.reset.core c).recon i = 0) ∧
  State.reset.blocks = [] ∧ State.reset.tlb = [] ∧ State.reset.l1 = [] ∧ State.reset.l2 = [] ∧ State.reset.packets = [] ∧
  State.reset.pkg.devno = 0 ∧ State.reset.pkg.timeNs = 0

/-- At reset memory is in canonical form (the model's own invariant). What unlisted memory reads as is the model's choice
(log 1). -/
def Obligations.ResetMemoryCanonical : Prop :=
Memory.wf State.reset.mem

/-- Every step keeps memory in canonical form: addresses rise strictly, and no entry holds what an unlisted address reads as.
What unlisted memory reads as is the model's choice (log 1). -/
def Obligations.MemoryStaysCanonical : Prop :=
∀ s t, Memory.wf s.mem → step s = .next t → Memory.wf t.mem

/-- 02 R32, 04 R89: what an instruction that only writes registers leaves alone, where its thread goes straight on, no
promise or B register is held, and no old window stands beside a WIN of the other arm (04 R86): memory, every other block, every agent of the machine, the block's own scratch, tiles, barriers,
counters, bobbins, Y registers and regions, its other warps, and every register that is not written; the last write reads
back, and the PC stands at the next word. -/
def Obligations.RegisterWriteFrame : Prop :=
  ∀ (s : State) (sp : Spec) (c : Ctx) (ws : List RegWrite),
    s.ctx? = some c → c.th.wbUse = none → c.th.wins = [] → c.b.bheld = [] → popsDq sp = false → c.straight (c.th.pc + 4) = true →
    (∀ w ∈ ws, w.front = c.front ∧ w.lane < 32) →
      let t := s.done sp c ws .seq
      SameMemory s t ∧ SameMachine s t ∧ (∀ k, k ≠ c.t.blk → t.blk? k = s.blk? k) ∧
      ∃ b, t.blk? c.t.blk = some b ∧
        { b with warps := c.b.warps, front := c.b.front } = c.b ∧
        (∀ n, n ≠ c.t.warp → b.warps[n]? = c.b.warps[n]?) ∧
        (c.front = true → b.warps = c.b.warps ∧ b.front.swb = c.b.front.swb ∧ b.front.b = c.b.front.b) ∧
        (c.front = false → b.front = c.b.front) ∧
        (∃ th, b.thread? c.t.warp c.t.armE = some th ∧ th.pc = c.th.pc + 4 ∧ th.exm = c.th.exm ∧ th.fmt = c.th.fmt ∧
          th.trap = c.th.trap ∧ th.pends = c.th.pends) ∧
        (∀ r, (∀ w ∈ ws, w.reg ≠ r) → b.front.sget r = c.b.front.sget r) ∧
        (∀ r v l, ws.getLast? = some { front := true, reg := r, lane := l, val := v } → b.front.sget r = v) ∧
        (∀ x y, c.b.warps[c.t.warp]? = some x → b.warps[c.t.warp]? = some y →
          y.k = x.k ∧ y.g = x.g ∧ y.wb = x.wb ∧ y.stack = x.stack ∧
          (∀ r l, l < 32 → (∀ w ∈ ws, ¬ (w.reg = r ∧ w.lane = l)) → y.vget r l = x.vget r l) ∧
          (∀ r l v, ws.getLast? = some { front := false, reg := r, lane := l, val := v } → y.vget r l = v.setWidth 32))

/-- 16 R413: with the reset interleave over four columns no two addresses of device memory share a byte: the physical address map
is one to one. -/
def Obligations.InterleaveIsOneToOne : Prop :=
  ∀ (s : State) (d p q k : Nat), s.pkg.minimal = false → s.cols d = 15 → s.cdReg d 0x301 = 0xFEDCBA9876543210 →
    p < 16 * 98048 * 2 ^ 20 → q < 16 * 98048 * 2 ^ 20 → s.paKey d p = some k → s.paKey d q = some k → p = q

end
end

