-- ==== Sys2Proof/Laws/Access.lean ====
section
/-!
SUPPORT. Laws/Access.lean: the checks that stand before an access pass where the claims' vocabulary says so.
-/
namespace Sys2Proof.Machine

theorem checkRights_granted {g : Region} {right : Right} {bounds : List Acc} (h : Granted g right bounds) :
    checkRights g right = none := by
  have hk : ¬ g.kind = 0#3 := h.kind
  simp [checkRights, hk, h.whole, h.grants, h.held]

/-- The checks of 08 R191 pass on a granted access. -/
theorem checkRegion_granted {c : Ctx} {g : Region} {right : Right} {bounds : List Acc} (h : Granted g right bounds) :
    checkRegion c g right bounds = none := by
  have hb : bounds.filter (fun x => decide (g.bytes < x.2.1 + x.2.2)) = [] := by
    rw [List.filter_eq_nil_iff]
    intro x hx
    have := h.inside x hx
    simp
    omega
  simp [checkRegion, checkRights_granted h, laneRefusal, hb]

/-- An engine's scratch access passes where it is granted in scratch space. -/
theorem scratchCheck_granted {c : Ctx} {g : Region} {right : Right} {off n : Nat} (h : Granted g right [(0, off, n)])
    (hs : g.space = 2) : scratchCheck c g right off n = none := by
  simp [scratchCheck, hs, checkRegion_granted h]

/-- An engine instruction whose bytes are present and whose queue has room enters it. -/
theorem enqueue_room {c : Ctx} {s : State} {eng : Engine} {needs : List (Nat × Nat)} {held : List (Nat × Nat × Nat)}
    {o : EngineOp} (hp : c.b.absentOf needs = none)
    (hr : ((s.core c.b.coreIx).queueOf eng).countP (fun y => !y.started) < engineSize eng) :
    enqueue c s eng needs held o = .done (s.enterEngine c eng held o) [] .seq := by
  have hw : ¬ engineSize eng ≤ (s.core c.b.coreIx).waitingIn eng := by
    rw [Core.waitingIn, ← List.countP_eq_length_filter]
    omega
  simp [enqueue, hp, hw]

end Sys2Proof.Machine
end

