-- ==== Sys2Proof/Laws/Encoding.lean ====
section
/-!
SUPPORT. Laws/Encoding.lean: a word that is made from a row of the opcode map is read back by that row: the fields stand where
they were put, and no other row has the word's fixed bits.
-/
namespace Sys2Proof

/-- The bits that the fields of a row take. -/
def fieldMask : List (Nat × Nat) → Nat
  | [] => 0
  | f :: fs => ((2 ^ f.2 - 1) <<< f.1) ||| fieldMask fs

/-- Fields stand apart from each other and from the fixed bits, inside 32 bits. -/
def fieldsApart : List (Nat × Nat) → Bool
  | [] => true
  | f :: fs => ((2 ^ f.2 - 1) <<< f.1) &&& fieldMask fs == 0 && fieldsApart fs

/-- A row whose parts fill a word and do not meet. -/
def Row.sound (r : Row) : Bool :=
  fieldsApart r.fields && r.mask &&& fieldMask r.fields == 0 && r.pat &&& r.mask == r.pat
    && r.mask ||| fieldMask r.fields == 2 ^ 32 - 1

theorem rows_sound : rows.all Row.sound = true := by decide +kernel

/-- No word has the fixed bits of two rows. -/
def Row.apart (r q : Row) : Bool := r.pat &&& q.mask != q.pat &&& r.mask

def rowsApart : List Row → Bool
  | [] => true
  | r :: rs => rs.all r.apart && rowsApart rs

theorem rows_apart : rowsApart rows = true := by decide +kernel

theorem fits_apart {r q : Row} {w : Nat} (h : r.apart q = true) (hr : r.fits w = true) : q.fits w = false := by
  simp only [Row.apart, bne_iff_ne, ne_eq] at h
  simp only [Row.fits, beq_iff_eq] at hr
  simp only [Row.fits, beq_eq_false_iff_ne, ne_eq]
  intro hq
  apply h
  rw [← hr, ← hq]
  rw [Nat.and_assoc, Nat.and_assoc, Nat.and_comm r.mask q.mask]

theorem apart_symm {r q : Row} (h : r.apart q = true) : q.apart r = true := by
  simp only [Row.apart, bne_iff_ne, ne_eq] at *
  exact fun e => h e.symm

/-- A row of a list whose rows do not meet is the one that a word with its fixed bits finds. -/
theorem find_row {rs : List Row} (h : rowsApart rs = true) {r : Row} (hm : r ∈ rs) {w : Nat} (hf : r.fits w = true) :
    rs.find? (fun q => q.fits w) = some r := by
  induction rs with
  | nil => cases hm
  | cons q rs ih =>
    simp only [rowsApart, Bool.and_eq_true, List.all_eq_true] at h
    rcases List.mem_cons.1 hm with rfl | hm
    · simp [hf]
    · have : q.fits w = false := fits_apart (apart_symm (h.1 r hm)) hf
      simp [this, ih h.2 hm]

/-- A word decodes by the row whose fixed bits it has. -/
theorem decode_row {r : Row} (hm : r ∈ rows) {w : Word} (hf : r.fits w.toNat = true) :
    decodeWord w = r.build (r.fields.map (bitsAt w.toNat)) := by
  simp [decodeWord, find_row rows_apart hm hf]

theorem testBit_fieldMask_lt {m i : Nat} (h : (2 ^ 32 - 1).testBit i = false) (hm : m ≤ 2 ^ 32 - 1) : m.testBit i = false := by
  have hi : 32 ≤ i := by
    by_contra hc
    rw [Nat.testBit_two_pow_sub_one] at h
    simp at h
    omega
  exact Nat.testBit_lt_two_pow (lt_of_le_of_lt hm (lt_of_lt_of_le (by decide) (Nat.pow_le_pow_right (by decide) hi)))

/-- Values that fit the widths of their fields. -/
def fitting : List (Nat × Nat) → List Nat → Prop
  | [], [] => True
  | f :: fs, v :: vs => v < 2 ^ f.2 ∧ fitting fs vs
  | _, _ => False

theorem placed_inside {fs : List (Nat × Nat)} : ∀ {vs : List Nat}, fitting fs vs → ∀ i, (placeFields fs vs).testBit i = true →
    (fieldMask fs).testBit i = true := by
  induction fs with
  | nil => intro vs h i hb; cases vs <;> simp [placeFields] at hb
  | cons f fs ih =>
    intro vs h i hb
    cases vs with
    | nil => exact h.elim
    | cons v vs =>
      obtain ⟨hv, h⟩ := h
      simp only [placeFields, fieldMask, Nat.testBit_or, Bool.or_eq_true] at *
      rcases hb with hb | hb
      · left
        rw [Nat.testBit_shiftLeft] at *
        simp only [Bool.and_eq_true, decide_eq_true_eq, ge_iff_le] at *
        refine ⟨hb.1, ?_⟩
        rw [Nat.testBit_two_pow_sub_one]
        simp only [decide_eq_true_eq]
        by_contra hc
        have := Nat.testBit_lt_two_pow (lt_of_lt_of_le hv (Nat.pow_le_pow_right (by decide) (by omega : f.2 ≤ i - f.1)))
        simp [this] at hb
      · right; exact ih h i hb

theorem meet_zero {a b : Nat} (h : a &&& b = 0) (i : Nat) (ha : a.testBit i = true) : b.testBit i = false := by
  have := congrArg (fun n => n.testBit i) h
  simp only [Nat.testBit_and, ha, Bool.true_and, Nat.zero_testBit] at this
  exact this

/-- Each field reads back what was put there, over anything that stands apart from the fields. -/
theorem bits_placed {fs : List (Nat × Nat)} : ∀ {vs : List Nat} {p : Nat}, fieldsApart fs = true → fitting fs vs →
    p &&& fieldMask fs = 0 → fs.map (bitsAt (p ||| placeFields fs vs)) = vs := by
  induction fs with
  | nil => intro vs p _ h _; cases vs with
    | nil => rfl
    | cons _ _ => exact h.elim
  | cons f fs ih =>
    intro vs p ha h hp
    cases vs with
    | nil => exact h.elim
    | cons v vs =>
      obtain ⟨hv, h⟩ := h
      simp only [fieldsApart, Bool.and_eq_true, beq_iff_eq] at ha
      simp only [fieldMask] at hp
      have hp1 : p &&& ((2 ^ f.2 - 1) <<< f.1) = 0 := by
        apply Nat.eq_of_testBit_eq
        intro i
        have := congrArg (fun n => n.testBit i) hp
        simp only [Nat.testBit_and, Nat.testBit_or, Nat.zero_testBit] at this ⊢
        cases h1 : p.testBit i <;> simp_all
      have hp2 : (p ||| v <<< f.1) &&& fieldMask fs = 0 := by
        apply Nat.eq_of_testBit_eq
        intro i
        have hq := congrArg (fun n => n.testBit i) hp
        have hr := congrArg (fun n => n.testBit i) ha.1
        simp only [Nat.testBit_and, Nat.testBit_or, Nat.zero_testBit] at hq hr ⊢
        cases hm : (fieldMask fs).testBit i with
        | false => simp
        | true =>
          simp only [hm, Bool.and_true, Bool.or_true] at hq hr ⊢
          simp only [hq, Bool.false_or]
          cases hs : (v <<< f.1).testBit i with
          | false => rfl
          | true =>
            have := @placed_inside [f] [v] ⟨hv, trivial⟩ i (by simpa [placeFields] using hs)
            simp only [fieldMask, Nat.or_zero] at this
            rw [this] at hr
            cases hr
      have hw : p ||| placeFields (f :: fs) (v :: vs) = (p ||| v <<< f.1) ||| placeFields fs vs := by
        simp [placeFields, Nat.or_assoc]
      rw [List.map_cons, hw, ih ha.2 h hp2]
      congr 1
      apply Nat.eq_of_testBit_eq
      intro i
      simp only [bitsAt, Nat.testBit_mod_two_pow, Nat.testBit_shiftRight, Nat.testBit_or, Nat.testBit_shiftLeft]
      by_cases hi : i < f.2
      · have hin : ((2 ^ f.2 - 1) <<< f.1).testBit (f.1 + i) = true := by
          simp [Nat.testBit_shiftLeft, Nat.testBit_two_pow_sub_one, hi]
        have h1 : p.testBit (f.1 + i) = false := by
          rw [Nat.and_comm] at hp1
          exact meet_zero hp1 _ hin
        have h2 : (placeFields fs vs).testBit (f.1 + i) = false := by
          cases hb : (placeFields fs vs).testBit (f.1 + i) with
          | false => rfl
          | true => exact absurd (placed_inside h _ hb) (by rw [meet_zero ha.1 _ hin]; decide)
        simp [hi, h1, h2]
      · have : v.testBit i = false :=
          Nat.testBit_lt_two_pow (lt_of_lt_of_le hv (Nat.pow_le_pow_right (by decide) (by omega)))
        simp [hi, this]

theorem row_sound {r : Row} (hm : r ∈ rows) : r.sound = true := List.all_eq_true.1 rows_sound r hm

theorem le_of_or_eq {a b n : Nat} (h : a ||| b = n) : b ≤ n := h ▸ Nat.right_le_or

/-- A word made from a row decodes to what the row makes of the same fields. -/
theorem decode_word {r : Row} (hm : r ∈ rows) {vs : List Nat} (hv : fitting r.fields vs) :
    decodeWord (r.word vs) = r.build vs := by
  have hs := row_sound hm
  simp only [Row.sound, Bool.and_eq_true, beq_iff_eq] at hs
  obtain ⟨⟨⟨ha, hz⟩, hp⟩, hf⟩ := hs
  have hpz : r.pat &&& fieldMask r.fields = 0 := by
    rw [← hp, Nat.and_assoc, hz, Nat.and_zero]
  have hlt : r.pat ||| placeFields r.fields vs < 2 ^ 32 := by
    apply Nat.lt_pow_two_of_testBit
    intro i hi
    have hb : (2 ^ 32 - 1).testBit i = false := by
      rw [Nat.testBit_two_pow_sub_one]; simp; omega
    have hmask : (r.mask ||| fieldMask r.fields).testBit i = false := by rw [hf]; exact hb
    rw [Nat.testBit_or, Bool.or_eq_false_iff] at hmask
    rw [Nat.testBit_or, Bool.or_eq_false_iff]
    constructor
    · rw [← hp, Nat.testBit_and, hmask.1, Bool.and_false]
    · cases hc : (placeFields r.fields vs).testBit i with
      | false => rfl
      | true => exact absurd (placed_inside hv _ hc) (by rw [hmask.2]; decide)
  have hw : (r.word vs).toNat = r.pat ||| placeFields r.fields vs := by
    simp only [Row.word, BitVec.toNat_ofNat]
    exact Nat.mod_eq_of_lt hlt
  have hfit : r.fits (r.word vs).toNat = true := by
    rw [hw]
    simp only [Row.fits, beq_iff_eq]
    apply Nat.eq_of_testBit_eq
    intro i
    simp only [Nat.testBit_and, Nat.testBit_or]
    have h1 := congrArg (fun n => n.testBit i) hp
    simp only [Nat.testBit_and] at h1
    cases hmi : r.mask.testBit i with
    | false => simp [hmi] at h1; simp [h1]
    | true =>
      have : (placeFields r.fields vs).testBit i = false := by
        cases hc : (placeFields r.fields vs).testBit i with
        | false => rfl
        | true => exact absurd (placed_inside hv _ hc) (by rw [meet_zero hz _ hmi]; decide)
      simp [this]
  rw [decode_row hm hfit, hw, bits_placed ha hv hpz]

end Sys2Proof
end

