-- ==== Sys2Proof/Laws/Issue.lean ====
section
/-!
SUPPORT. Laws/Issue.lean: what an issue comes to, once for every instruction: one lemma for each way out of `gate`, and what
`finish` makes of each outcome.
-/
namespace Sys2Proof.Machine

theorem gate_clear {s : State} {i : Instr} {sp : Spec} {c : Ctx} (h : Clear s i sp c) :
    gate s c i sp = .go (c.operands sp) s := by
  have hl := h.lanes
  have hg := h.legal
  have hu := h.unowed
  have he := h.entry
  have hk := h.kept
  unfold gate Ctx.operands
  simp only [hl, hg, hu, hk]
  by_cases hp : (popsDq sp && !c.front) = true
  · simp only [hp, Bool.true_and] at he
    simp [hp, he]
  · simp only [Bool.not_eq_true] at hp
    simp [hp]

/-- An instruction with nothing in its way is finished from its own outcome. -/
theorem issue_clear {s : State} {i : Instr} {sp : Spec} {c : Ctx} {body : Ctx → State → Res} (h : Clear s i sp c) :
    issue s i sp body = .next (finish s i sp (c.operands sp) true (body (c.operands sp) (s.countIssue c))) := by
  unfold issue
  rw [h.thread]
  simp only [h.fresh, gate_clear h]
  rfl

/-- One that only writes registers completes. -/
theorem issueRegs_clear {s : State} {i : Instr} {sp : Spec} {c : Ctx} {f : Ctx → List RegWrite} (h : Clear s i sp c) :
    issueRegs s i sp f = .next ((s.countIssue c).done sp c (f (c.operands sp)) .seq) := issue_clear h

/-- One that issued before goes on. -/
theorem issue_resumed {s : State} {i : Instr} {sp : Spec} {c : Ctx} {body : Ctx → State → Res} (h : Resumed s i sp c) :
    issue s i sp body = .next (finish s i sp c false (body c s)) := by
  unfold issue
  rw [h.thread]
  have hr : c.resumed = true := by simp [Ctx.resumed, h.issued]
  simp only [hr, h.kept]
  rfl

/-- A refusal by items 1 to 6 of R45. -/
theorem issue_refused {s : State} {i : Instr} {sp : Spec} {c : Ctx} {body : Ctx → State → Res} {code : Nat}
    (ht : s.ctx? = some c) (hf : c.resumed = false) (h : staticRefusal s c i sp (c.covered && c.act == 0) = some code) :
    issue s i sp body = .next (s.refuse c code 0 c.allLanes) := by
  unfold issue
  rw [ht]
  simp only [hf, gate, h]
  rfl

@[simp] theorem finish_done {s0 s : State} {i : Instr} {sp : Spec} {c : Ctx} {fresh : Bool} {ws : List RegWrite} {nx : Next} :
    finish s0 i sp c fresh (.done s ws nx) = (if fresh then s else s.countIssue c).complete sp c fresh ws nx := rfl
@[simp] theorem finish_refuse {s0 : State} {i : Instr} {sp : Spec} {c : Ctx} {fresh : Bool} {code addr : Nat} {l : Word} :
    finish s0 i sp c fresh (.refuse code addr l) = s0.refuse c code addr l := rfl
@[simp] theorem finish_trap {s0 s : State} {i : Instr} {sp : Spec} {c : Ctx} {fresh : Bool} {r : FaultRec} :
    finish s0 i sp c fresh (.trap r s) = (if fresh then s.uncountIssue c else s).refuseWith c r := rfl
@[simp] theorem finish_wait {s0 s : State} {i : Instr} {sp : Spec} {c : Ctx} {fresh : Bool} {w : Wait} {n : Nat} :
    finish s0 i sp c fresh (.wait w n s) = s.waits i sp c w n fresh := rfl

/-! ## The shapes of completion statements -/

/-- A meaning whose body completes at once. -/
theorem completes_of {i : Instr} {sp : Spec} {body : Ctx → State → Res} {f : Effect} (he : ∀ s, exec i s = issue s i sp body)
    (hb : ∀ x s, body x s = .done (f x s).1 (f x s).2.1 (f x s).2.2) : Completes i sp f := by
  intro s c h
  rw [he, issue_clear h, hb]
  rfl

theorem completesWhen_of {i : Instr} {sp : Spec} {p : Ctx → State → Prop} {body : Ctx → State → Res} {f : Effect}
    (he : ∀ s, exec i s = issue s i sp body)
    (hb : ∀ x s, x.stage = 0 → p x s → body x s = .done (f x s).1 (f x s).2.1 (f x s).2.2) : CompletesWhen i sp p f := by
  intro s c h hp
  rw [he, issue_clear h, hb (c.operands sp) _ h.start hp]
  rfl

theorem endsWhen_of {i : Instr} {sp : Spec} {p : Ctx → State → Prop} {body : Ctx → State → Res} {f : Effect}
    (he : ∀ s, exec i s = issue s i sp body)
    (hb : ∀ x s, p x s → body x s = .done (f x s).1 (f x s).2.1 (f x s).2.2) : EndsWhen i sp p f := by
  intro s c h hp
  rw [he, issue_resumed h, hb _ _ hp]
  rfl

theorem waitsWhen_of {i : Instr} {sp : Spec} {p : Ctx → State → Prop} {body : Ctx → State → Res}
    {f : Ctx → State → State × Wait × Nat} (he : ∀ s, exec i s = issue s i sp body)
    (hb : ∀ x s, x.stage = 0 → p x s → body x s = .wait (f x s).2.1 (f x s).2.2 (f x s).1) : WaitsWhen i sp p f := by
  intro s c h hp
  rw [he, issue_clear h, hb (c.operands sp) _ h.start hp]
  rfl

theorem refusedWhen_of {i : Instr} {sp : Spec} {p : Ctx → State → Prop} {body : Ctx → State → Res}
    {f : Ctx → State → Nat × Nat × Word} (he : ∀ s, exec i s = issue s i sp body)
    (hb : ∀ x s, x.stage = 0 → p x s → body x s = .refuse (f x s).1 (f x s).2.1 (f x s).2.2) : RefusedWhen i sp p f := by
  intro s c h hp
  rw [he, issue_clear h, hb (c.operands sp) _ h.start hp]
  rfl

end Sys2Proof.Machine
end

