-- ==== Sys2Proof/Laws/Maps.lean ====
section
/-!
SUPPORT. Laws/Maps.lean: reading after writing in the sparse lists of the state, and that every write keeps a memory in its
canonical form.
-/
namespace Sys2Proof.Machine

/-! ## Maps -/

@[simp] theorem kget_nil {α : Type} (k : Nat) : kget ([] : KMap α) k = none := rfl

theorem kget_kins {α : Type} (m : KMap α) (j k : Nat) (v : α) (h : kget m j = none) :
    kget (kins m j v) k = if j = k then some v else kget m k := by
  induction m with
  | nil => simp [kins, kget]
  | cons e r ih =>
    obtain ⟨a, x⟩ := e
    simp only [kget] at h
    split at h
    · cases h
    · rename_i ha
      unfold kins
      split
      · simp [kget]
      · simp only [kget, ih h]
        by_cases hk : a = k
        · subst hk; simp [Ne.symm ha]
        · simp [hk]

theorem kget_kdel {α : Type} (m : KMap α) (j k : Nat) : kget (kdel m j) k = if j = k then none else kget m k := by
  induction m with
  | nil => simp [kdel, kget]
  | cons e r ih =>
    obtain ⟨a, x⟩ := e
    simp only [kdel] at ih ⊢
    by_cases ha : a = j
    · subst ha
      simp only [List.filter_cons, bne_self_eq_false, Bool.false_eq_true, if_false, ih, kget]
      by_cases hk : a = k <;> simp [hk]
    · simp only [List.filter_cons, ne_eq, ha, not_false_eq_true, bne_iff_ne, if_true, kget, ih]
      by_cases hk : a = k
      · subst hk; simp [Ne.symm ha]
      · simp [hk]

/-- A map reads what was last set at a key, and elsewhere what it read before. -/
@[simp] theorem kget_kset {α : Type} (m : KMap α) (j k : Nat) (v : α) :
    kget (kset m j v) k = if j = k then some v else kget m k := by
  unfold kset
  rw [kget_kins _ _ _ _ (by simp [kget_kdel]), kget_kdel]
  by_cases h : j = k <;> simp [h]

@[simp] theorem kget_kupd {α : Type} (m : KMap α) (j k : Nat) (f : α → α) :
    kget (kupd m j f) k = if j = k then (kget m k).map f else kget m k := by
  induction m with
  | nil => simp [kupd, kget]
  | cons e r ih =>
    obtain ⟨a, x⟩ := e
    simp only [kupd, List.map_cons] at ih ⊢
    by_cases ha : a = j
    · subst ha
      simp only [if_true, kget, ih]
      by_cases hk : a = k <;> simp [hk]
    · simp only [ha, if_false, kget, ih]
      by_cases hk : a = k
      · subst hk; simp [Ne.symm ha]
      · simp [hk]

@[simp] theorem lset_length {α : Type} (l : List α) (i : Nat) (f : α → α) : (lset l i f).length = l.length := by
  induction l generalizing i with
  | nil => rfl
  | cons x r ih => cases i <;> simp [lset, ih]

@[simp] theorem lset_get {α : Type} (l : List α) (i j : Nat) (f : α → α) :
    (lset l i f)[j]? = if i = j then (l[j]?).map f else l[j]? := by
  induction l generalizing i j with
  | nil => simp [lset]
  | cons x r ih =>
    cases i <;> cases j <;> simp [lset, ih]

/-! ## Sparse arrays -/

@[simp] theorem cget_cset {w : Nat} (m : Cells w) (j k : Nat) (v : BitVec w) :
    cget (cset m j v) k = if j = k then v else cget m k := by
  unfold cget cset
  split
  · rename_i h
    rw [kget_kdel]
    by_cases hk : j = k <;> simp [hk, h]
  · rw [kget_kset]
    by_cases hk : j = k <;> simp [hk]

/-- Consecutive writes are read back inside their range, and change nothing outside it. -/
theorem cget_cwrite {w : Nat} (vs : List (BitVec w)) : ∀ (m : Cells w) (j k : Nat),
    cget (cwrite m j vs) k = if j ≤ k ∧ k < j + vs.length then vs.getD (k - j) 0 else cget m k := by
  induction vs with
  | nil =>
    intro m j k
    rw [cwrite, if_neg (by simp)]
  | cons v r ih =>
    intro m j k
    rw [cwrite, ih, cget_cset]
    by_cases h : j = k
    · subst h
      simp
    · by_cases h1 : j + 1 ≤ k ∧ k < j + 1 + r.length
      · have h2 : k - j = k - (j + 1) + 1 := by omega
        have h3 : j ≤ k ∧ k < j + (r.length + 1) := by omega
        simp [h1, h3, h2]
      · have h3 : ¬ (j ≤ k ∧ k < j + (r.length + 1)) := by omega
        rw [if_neg h1, if_neg h, if_neg (by simpa using h3)]

/-- What was written is read back. -/
theorem cread_cwrite {w : Nat} (m : Cells w) (k : Nat) (vs : List (BitVec w)) :
    cread (cwrite m k vs) k vs.length = vs := by
  apply List.ext_getElem
  · simp [cread]
  · intro i h1 h2
    simp [cread, cget_cwrite, h2]

/-! ## The canonical form -/

/-- Every key of the array is above `n`. -/
def Cells.above {w : Nat} (n : Nat) (m : Cells w) : Prop := ∀ e ∈ m, n < e.1

theorem Cells.wf_cons {w : Nat} (j : Nat) (v : BitVec w) (m : Cells w) :
    Cells.wf ((j, v) :: m) = true ↔ v ≠ 0 ∧ Cells.above j m ∧ Cells.wf m = true := by
  induction m generalizing j v with
  | nil => simp [Cells.wf, Cells.above]
  | cons e r ih =>
    obtain ⟨k, x⟩ := e
    simp only [Cells.wf, Bool.and_eq_true, bne_iff_ne, decide_eq_true_eq, and_assoc]
    constructor
    · rintro ⟨hv, hj, h⟩
      refine ⟨hv, ?_, h⟩
      have hk := ((ih k x).mp h).2.1
      intro e he
      rcases List.mem_cons.mp he with rfl | he
      · exact hj
      · exact lt_trans hj (hk e he)
    · rintro ⟨hv, ha, h⟩
      exact ⟨hv, ha (k, x) (by simp), h⟩

theorem Cells.above_kdel {w : Nat} {n j : Nat} {m : Cells w} (h : Cells.above n m) : Cells.above n (kdel m j) :=
  fun e he => h e (List.mem_filter.mp he).1

theorem Cells.wf_filter {w : Nat} (p : Nat × BitVec w → Bool) {m : Cells w} (h : Cells.wf m = true) :
    Cells.wf (m.filter p) = true := by
  induction m with
  | nil => rfl
  | cons e r ih =>
    obtain ⟨k, x⟩ := e
    obtain ⟨hx, ha, hr⟩ := (Cells.wf_cons k x r).mp h
    rw [List.filter_cons]
    split
    · exact (Cells.wf_cons _ _ _).mpr ⟨hx, fun e he => ha e (List.mem_filter.mp he).1, ih hr⟩
    · exact ih hr

theorem Cells.wf_kdel {w : Nat} {m : Cells w} (j : Nat) (h : Cells.wf m = true) : Cells.wf (kdel m j) = true :=
  Cells.wf_filter _ h

theorem Cells.above_kins {w : Nat} {n j : Nat} {v : BitVec w} {m : Cells w} (hj : n < j) (h : Cells.above n m) :
    Cells.above n (kins m j v) := by
  induction m with
  | nil => intro e he; simp [kins] at he; subst he; exact hj
  | cons e r ih =>
    obtain ⟨k, x⟩ := e
    unfold kins
    split
    · intro e he
      rcases List.mem_cons.mp he with rfl | he
      · exact hj
      · exact h e he
    · intro e he
      rcases List.mem_cons.mp he with rfl | he
      · exact h _ (by simp)
      · exact ih (fun e he => h e (by simp [he])) e he

theorem Cells.wf_kins {w : Nat} {m : Cells w} {j : Nat} {v : BitVec w} (hv : v ≠ 0) (hj : kget m j = none)
    (h : Cells.wf m = true) : Cells.wf (kins m j v) = true := by
  induction m with
  | nil => simpa [kins, Cells.wf] using hv
  | cons e r ih =>
    obtain ⟨k, x⟩ := e
    obtain ⟨hx, ha, hr⟩ := (Cells.wf_cons k x r).mp h
    simp only [kget] at hj
    split at hj
    · cases hj
    · rename_i hk
      unfold kins
      split
      · rename_i hlt
        refine (Cells.wf_cons _ _ _).mpr ⟨hv, ?_, h⟩
        intro e he
        rcases List.mem_cons.mp he with rfl | he
        · exact hlt
        · exact lt_trans hlt (ha e he)
      · rename_i hlt
        exact (Cells.wf_cons _ _ _).mpr ⟨hx, Cells.above_kins (by omega) ha, ih hj hr⟩

theorem Cells.wf_cset {w : Nat} {m : Cells w} (j : Nat) (v : BitVec w) (h : Cells.wf m = true) :
    Cells.wf (cset m j v) = true := by
  unfold cset
  split
  · exact Cells.wf_kdel j h
  · rename_i hv
    unfold kset
    exact Cells.wf_kins hv (by simp [kget_kdel]) (Cells.wf_kdel j h)

theorem Cells.wf_cwrite {w : Nat} (vs : List (BitVec w)) : ∀ (m : Cells w) (j : Nat), Cells.wf m = true →
    Cells.wf (cwrite m j vs) = true := by
  induction vs with
  | nil => intro m j h; exact h
  | cons v r ih => intro m j h; exact ih _ _ (Cells.wf_cset j v h)

/-- Equal reads make equal memories: the canonical form is one. -/
theorem Cells.ext_of_wf {w : Nat} : ∀ {m n : Cells w}, Cells.wf m = true → Cells.wf n = true →
    (∀ k, cget m k = cget n k) → m = n := by
  have hnone : ∀ {m : Cells w} {j k : Nat}, Cells.above j m → k ≤ j → kget m k = none := by
    intro m
    induction m with
    | nil => intros; rfl
    | cons e r ih =>
      intro j k ha hk
      obtain ⟨a, x⟩ := e
      have h1 : j < a := ha (a, x) (by simp)
      simp only [kget]
      rw [if_neg (by omega)]
      exact ih (fun e he => ha e (by simp [he])) hk
  intro m
  induction m with
  | nil =>
    intro n _ hn h
    cases n with
    | nil => rfl
    | cons e r =>
      obtain ⟨k, x⟩ := e
      have := h k
      have hx := ((Cells.wf_cons k x r).mp hn).1
      simp [cget, kget] at this
      exact absurd this.symm hx
  | cons e r ih =>
    intro n hm hn h
    obtain ⟨k, x⟩ := e
    obtain ⟨hx, ha, hr⟩ := (Cells.wf_cons k x r).mp hm
    cases n with
    | nil =>
      have := h k
      simp [cget, kget] at this
      exact absurd this hx
    | cons e' r' =>
      obtain ⟨k', x'⟩ := e'
      obtain ⟨hx', ha', hr'⟩ := (Cells.wf_cons k' x' r').mp hn
      have hk : k = k' := by
        rcases lt_trichotomy k k' with hlt | he | hlt
        · have := h k
          simp only [cget, kget, if_true, if_neg (show ¬ k' = k by omega),
            hnone ha' (show k ≤ k' by omega)] at this
          exact absurd this hx
        · exact he
        · have := h k'
          simp only [cget, kget, if_true, if_neg (show ¬ k = k' by omega),
            hnone ha (show k' ≤ k by omega)] at this
          exact absurd this.symm hx'
      subst hk
      have hxx : x = x' := by
        have := h k
        simpa [cget, kget] using this
      subst hxx
      congr 1
      apply ih hr hr'
      intro j
      by_cases hj : j = k
      · subst hj
        simp [cget, hnone ha (le_refl j), hnone ha' (le_refl j)]
      · have := h j
        simpa [cget, kget, Ne.symm hj] using this

/-! ## Memory -/

@[simp] theorem State.memPut_mem (s : State) (k : Nat) (bs : List Byte) : (s.memPut k bs).mem = cwrite s.mem k bs := rfl

theorem State.memPut_wf {s : State} (k : Nat) (bs : List Byte) (h : Memory.wf s.mem) : Memory.wf (s.memPut k bs).mem :=
  Cells.wf_cwrite bs s.mem k h

/-- A store writes its bytes. -/
theorem State.memPut_read (s : State) (k : Nat) (bs : List Byte) : cread (s.memPut k bs).mem k bs.length = bs :=
  cread_cwrite s.mem k bs

/-- A store writes no other byte. -/
theorem State.memPut_outside (s : State) (k a : Nat) (bs : List Byte) (h : a < k ∨ k + bs.length ≤ a) :
    cget (s.memPut k bs).mem a = cget s.mem a := by
  rw [State.memPut_mem, cget_cwrite, if_neg (by omega)]

end Sys2Proof.Machine
end

