-- ==== Sys2Proof/Laws/PerInstr.lean ====
section
/-!
SUPPORT. Laws/PerInstr.lean: the family RoundTrip, one lemma per constructor: the decoder reads every encoded instruction back
from its word. A step of another agent has no word.
-/
namespace Sys2Proof.Laws.RoundTrip

/-- The word of an instruction decodes to it. -/
def Statement (i : Instr) : Prop := ∀ w, encode i = some w → decodeWord w = some i

/-- A row of the table whose fields hold the instruction's own values. -/
theorem of_row {i : Instr} {r : Row} {vs : List Nat} (n : Nat) (hr : rows[n]? = some r) (he : encode i = some (r.word vs))
    (hv : fitting r.fields vs) (hb : r.build vs = some i) : Statement i := by
  intro w h
  rw [he] at h
  cases h
  rw [decode_word (List.mem_of_getElem? hr) hv, hb]

/-- What has no word. -/
theorem of_none {i : Instr} (he : encode i = none) : Statement i := by
  intro w h
  rw [he] at h
  cases h

theorem add d a b sat ty : Statement (.add d a b sat ty) :=
  of_row 0 rfl rfl ⟨d.isLt, a.isLt, b.isLt, sat.isLt, ty.isLt, trivial⟩ (by simp [rowAdd])
theorem sub d a b sat ty : Statement (.sub d a b sat ty) :=
  of_row 1 rfl rfl ⟨d.isLt, a.isLt, b.isLt, sat.isLt, ty.isLt, trivial⟩ (by simp [rowSub])
theorem addi d a imm : Statement (.addi d a imm) :=
  of_row 2 rfl rfl ⟨d.isLt, a.isLt, imm.isLt, trivial⟩ (by simp [rowAddi])
theorem neg d a sat ty : Statement (.neg d a sat ty) :=
  of_row 3 rfl rfl ⟨d.isLt, a.isLt, sat.isLt, ty.isLt, trivial⟩ (by simp [rowNeg])
theorem abs d a sat ty : Statement (.abs d a sat ty) :=
  of_row 4 rfl rfl ⟨d.isLt, a.isLt, sat.isLt, ty.isLt, trivial⟩ (by simp [rowAbs])
theorem mul d a b sat ty : Statement (.mul d a b sat ty) :=
  of_row 5 rfl rfl ⟨d.isLt, a.isLt, b.isLt, sat.isLt, ty.isLt, trivial⟩ (by simp [rowMul])
theorem mulh d a b w : Statement (.mulh d a b w) :=
  of_row 6 rfl rfl ⟨d.isLt, a.isLt, b.isLt, w.isLt, trivial⟩ (by simp [rowMulh])
theorem mulhn d a b w : Statement (.mulhn d a b w) :=
  of_row 7 rfl rfl ⟨d.isLt, a.isLt, b.isLt, w.isLt, trivial⟩ (by simp [rowMulhn])
theorem mad d a b sat ty : Statement (.mad d a b sat ty) :=
  of_row 8 rfl rfl ⟨d.isLt, a.isLt, b.isLt, sat.isLt, ty.isLt, trivial⟩ (by simp [rowMad])
theorem madw d a b n : Statement (.madw d a b n) :=
  of_row 9 rfl rfl ⟨d.isLt, a.isLt, b.isLt, n.isLt, trivial⟩ (by simp [rowMadw])
theorem div d a b la : Statement (.div d a b la) :=
  of_row 10 rfl rfl ⟨d.isLt, a.isLt, b.isLt, la.isLt, trivial⟩ (by simp [rowDiv])
theorem divn d a b la : Statement (.divn d a b la) :=
  of_row 11 rfl rfl ⟨d.isLt, a.isLt, b.isLt, la.isLt, trivial⟩ (by simp [rowDivn])
theorem rem d a b la : Statement (.rem d a b la) :=
  of_row 12 rfl rfl ⟨d.isLt, a.isLt, b.isLt, la.isLt, trivial⟩ (by simp [rowRem])
theorem remn d a b la : Statement (.remn d a b la) :=
  of_row 13 rfl rfl ⟨d.isLt, a.isLt, b.isLt, la.isLt, trivial⟩ (by simp [rowRemn])
theorem min d a b w : Statement (.min d a b w) :=
  of_row 14 rfl rfl ⟨d.isLt, a.isLt, b.isLt, w.isLt, trivial⟩ (by simp [rowMin])
theorem max d a b w : Statement (.max d a b w) :=
  of_row 15 rfl rfl ⟨d.isLt, a.isLt, b.isLt, w.isLt, trivial⟩ (by simp [rowMax])
theorem minn d a b w : Statement (.minn d a b w) :=
  of_row 16 rfl rfl ⟨d.isLt, a.isLt, b.isLt, w.isLt, trivial⟩ (by simp [rowMinn])
theorem maxn d a b w : Statement (.maxn d a b w) :=
  of_row 17 rfl rfl ⟨d.isLt, a.isLt, b.isLt, w.isLt, trivial⟩ (by simp [rowMaxn])
theorem and d a b w : Statement (.and d a b w) :=
  of_row 18 rfl rfl ⟨d.isLt, a.isLt, b.isLt, w.isLt, trivial⟩ (by simp [rowAnd])
theorem or d a b w : Statement (.or d a b w) :=
  of_row 19 rfl rfl ⟨d.isLt, a.isLt, b.isLt, w.isLt, trivial⟩ (by simp [rowOr])
theorem xor d a b w : Statement (.xor d a b w) :=
  of_row 20 rfl rfl ⟨d.isLt, a.isLt, b.isLt, w.isLt, trivial⟩ (by simp [rowXor])
theorem andn d a b w : Statement (.andn d a b w) :=
  of_row 21 rfl rfl ⟨d.isLt, a.isLt, b.isLt, w.isLt, trivial⟩ (by simp [rowAndn])
theorem not d a w : Statement (.not d a w) :=
  of_row 22 rfl rfl ⟨d.isLt, a.isLt, w.isLt, trivial⟩ (by simp [rowNot])
theorem shl d a b w : Statement (.shl d a b w) :=
  of_row 23 rfl rfl ⟨d.isLt, a.isLt, b.isLt, w.isLt, trivial⟩ (by simp [rowShl])
theorem shr d a b w : Statement (.shr d a b w) :=
  of_row 24 rfl rfl ⟨d.isLt, a.isLt, b.isLt, w.isLt, trivial⟩ (by simp [rowShr])
theorem sar d a b w : Statement (.sar d a b w) :=
  of_row 25 rfl rfl ⟨d.isLt, a.isLt, b.isLt, w.isLt, trivial⟩ (by simp [rowSar])
theorem rot d a b w : Statement (.rot d a b w) :=
  of_row 26 rfl rfl ⟨d.isLt, a.isLt, b.isLt, w.isLt, trivial⟩ (by simp [rowRot])
theorem shli d a w c : Statement (.shli d a w c) :=
  of_row 27 rfl rfl ⟨d.isLt, a.isLt, w.isLt, c.isLt, trivial⟩ (by simp [rowShli])
theorem shri d a w c : Statement (.shri d a w c) :=
  of_row 28 rfl rfl ⟨d.isLt, a.isLt, w.isLt, c.isLt, trivial⟩ (by simp [rowShri])
theorem sari d a w c : Statement (.sari d a w c) :=
  of_row 29 rfl rfl ⟨d.isLt, a.isLt, w.isLt, c.isLt, trivial⟩ (by simp [rowSari])
theorem bfx d a b w : Statement (.bfx d a b w) :=
  of_row 30 rfl rfl ⟨d.isLt, a.isLt, b.isLt, w.isLt, trivial⟩ (by simp [rowBfx])
theorem bfxn d a b w : Statement (.bfxn d a b w) :=
  of_row 31 rfl rfl ⟨d.isLt, a.isLt, b.isLt, w.isLt, trivial⟩ (by simp [rowBfxn])
theorem bfi d a b w : Statement (.bfi d a b w) :=
  of_row 32 rfl rfl ⟨d.isLt, a.isLt, b.isLt, w.isLt, trivial⟩ (by simp [rowBfi])
theorem popc d a w : Statement (.popc d a w) :=
  of_row 33 rfl rfl ⟨d.isLt, a.isLt, w.isLt, trivial⟩ (by simp [rowPopc])
theorem clz d a w : Statement (.clz d a w) :=
  of_row 34 rfl rfl ⟨d.isLt, a.isLt, w.isLt, trivial⟩ (by simp [rowClz])
theorem ctz d a w : Statement (.ctz d a w) :=
  of_row 35 rfl rfl ⟨d.isLt, a.isLt, w.isLt, trivial⟩ (by simp [rowCtz])
theorem brev d a w : Statement (.brev d a w) :=
  of_row 36 rfl rfl ⟨d.isLt, a.isLt, w.isLt, trivial⟩ (by simp [rowBrev])
theorem mov d a w : Statement (.mov d a w) :=
  of_row 37 rfl rfl ⟨d.isLt, a.isLt, w.isLt, trivial⟩ (by simp [rowMov])
theorem movi d imm : Statement (.movi d imm) :=
  of_row 38 rfl rfl ⟨d.isLt, imm.isLt, trivial⟩ (by simp [rowMovi])
theorem movh d imm : Statement (.movh d imm) :=
  of_row 39 rfl rfl ⟨d.isLt, imm.isLt, trivial⟩ (by simp [rowMovh])
theorem sel d a b w k : Statement (.sel d a b w k) :=
  of_row 40 rfl rfl ⟨d.isLt, a.isLt, b.isLt, w.isLt, k.isLt, trivial⟩ (by simp [rowSel])
theorem lea d a b sc : Statement (.lea d a b sc) :=
  of_row 41 rfl rfl ⟨d.isLt, a.isLt, b.isLt, sc.isLt, trivial⟩ (by simp [rowLea])
theorem cmp cond k a b ty : Statement (.cmp cond k a b ty) :=
  of_row 42 rfl rfl ⟨cond.isLt, k.isLt, a.isLt, b.isLt, ty.isLt, trivial⟩ (by simp [rowCmp])
theorem cmpi cond k a imm : Statement (.cmpi cond k a imm) :=
  of_row 43 rfl rfl ⟨cond.isLt, k.isLt, a.isLt, imm.isLt, trivial⟩ (by simp [rowCmpi])
theorem fadd d a b ty : Statement (.fadd d a b ty) :=
  of_row 44 rfl rfl ⟨d.isLt, a.isLt, b.isLt, ty.isLt, trivial⟩ (by simp [rowFadd])
theorem fsub d a b ty : Statement (.fsub d a b ty) :=
  of_row 45 rfl rfl ⟨d.isLt, a.isLt, b.isLt, ty.isLt, trivial⟩ (by simp [rowFsub])
theorem fmul d a b ty : Statement (.fmul d a b ty) :=
  of_row 46 rfl rfl ⟨d.isLt, a.isLt, b.isLt, ty.isLt, trivial⟩ (by simp [rowFmul])
theorem ffma d a b ty : Statement (.ffma d a b ty) :=
  of_row 47 rfl rfl ⟨d.isLt, a.isLt, b.isLt, ty.isLt, trivial⟩ (by simp [rowFfma])
theorem fmin d a b ty : Statement (.fmin d a b ty) :=
  of_row 48 rfl rfl ⟨d.isLt, a.isLt, b.isLt, ty.isLt, trivial⟩ (by simp [rowFmin])
theorem fmax d a b ty : Statement (.fmax d a b ty) :=
  of_row 49 rfl rfl ⟨d.isLt, a.isLt, b.isLt, ty.isLt, trivial⟩ (by simp [rowFmax])
theorem fabs d a ty : Statement (.fabs d a ty) :=
  of_row 50 rfl rfl ⟨d.isLt, a.isLt, ty.isLt, trivial⟩ (by simp [rowFabs])
theorem fneg d a ty : Statement (.fneg d a ty) :=
  of_row 51 rfl rfl ⟨d.isLt, a.isLt, ty.isLt, trivial⟩ (by simp [rowFneg])
theorem fcmp cond k a b ty : Statement (.fcmp cond k a b ty) :=
  of_row 52 rfl rfl ⟨cond.isLt, k.isLt, a.isLt, b.isLt, ty.isLt, trivial⟩ (by simp [rowFcmp])
theorem fclass d a ty : Statement (.fclass d a ty) :=
  of_row 53 rfl rfl ⟨d.isLt, a.isLt, ty.isLt, trivial⟩ (by simp [rowFclass])
theorem frcp d a ty la : Statement (.frcp d a ty la) :=
  of_row 54 rfl rfl ⟨d.isLt, a.isLt, ty.isLt, la.isLt, trivial⟩ (by simp [rowFrcp])
theorem frsq d a ty la : Statement (.frsq d a ty la) :=
  of_row 55 rfl rfl ⟨d.isLt, a.isLt, ty.isLt, la.isLt, trivial⟩ (by simp [rowFrsq])
theorem fsqrt d a ty la : Statement (.fsqrt d a ty la) :=
  of_row 56 rfl rfl ⟨d.isLt, a.isLt, ty.isLt, la.isLt, trivial⟩ (by simp [rowFsqrt])
theorem fexp2 d a ty la : Statement (.fexp2 d a ty la) :=
  of_row 57 rfl rfl ⟨d.isLt, a.isLt, ty.isLt, la.isLt, trivial⟩ (by simp [rowFexp2])
theorem flog2 d a ty la : Statement (.flog2 d a ty la) :=
  of_row 58 rfl rfl ⟨d.isLt, a.isLt, ty.isLt, la.isLt, trivial⟩ (by simp [rowFlog2])
theorem fsin d a ty la : Statement (.fsin d a ty la) :=
  of_row 59 rfl rfl ⟨d.isLt, a.isLt, ty.isLt, la.isLt, trivial⟩ (by simp [rowFsin])
theorem fcos d a ty la : Statement (.fcos d a ty la) :=
  of_row 60 rfl rfl ⟨d.isLt, a.isLt, ty.isLt, la.isLt, trivial⟩ (by simp [rowFcos])
theorem fdivF32 d a b la : Statement (.fdivF32 d a b la) :=
  of_row 61 rfl rfl ⟨d.isLt, a.isLt, b.isLt, la.isLt, trivial⟩ (by simp [rowFdivF32])
theorem fdivF64 d a b la : Statement (.fdivF64 d a b la) :=
  of_row 62 rfl rfl ⟨d.isLt, a.isLt, b.isLt, la.isLt, trivial⟩ (by simp [rowFdivF64])
theorem fscale d a b ty : Statement (.fscale d a b ty) :=
  of_row 63 rfl rfl ⟨d.isLt, a.isLt, b.isLt, ty.isLt, trivial⟩ (by simp [rowFscale])
theorem frnd d a ty : Statement (.frnd d a ty) :=
  of_row 64 rfl rfl ⟨d.isLt, a.isLt, ty.isLt, trivial⟩ (by simp [rowFrnd])
theorem fcvt d a sat dfmt sfmt : Statement (.fcvt d a sat dfmt sfmt) :=
  of_row 65 rfl rfl ⟨d.isLt, a.isLt, sat.isLt, dfmt.isLt, sfmt.isLt, trivial⟩ (by simp [rowFcvt])
theorem icvt d a dfmt ty : Statement (.icvt d a dfmt ty) :=
  of_row 66 rfl rfl ⟨d.isLt, a.isLt, dfmt.isLt, ty.isLt, trivial⟩ (by simp [rowIcvt])
theorem ftoi d a ty sfmt : Statement (.ftoi d a ty sfmt) :=
  of_row 67 rfl rfl ⟨d.isLt, a.isLt, ty.isLt, sfmt.isLt, trivial⟩ (by simp [rowFtoi])
theorem pack d a b part w : Statement (.pack d a b part w) :=
  of_row 68 rfl rfl ⟨d.isLt, a.isLt, b.isLt, part.isLt, w.isLt, trivial⟩ (by simp [rowPack])
theorem unpk d a part w : Statement (.unpk d a part w) :=
  of_row 69 rfl rfl ⟨d.isLt, a.isLt, part.isLt, w.isLt, trivial⟩ (by simp [rowUnpk])
theorem bpsplit d a j : Statement (.bpsplit d a j) :=
  of_row 70 rfl rfl ⟨d.isLt, a.isLt, j.isLt, trivial⟩ (by simp [rowBpsplit])
theorem bpjoin d a n : Statement (.bpjoin d a n) :=
  of_row 71 rfl rfl ⟨d.isLt, a.isLt, n.isLt, trivial⟩ (by simp [rowBpjoin])
theorem bpdot d a b la : Statement (.bpdot d a b la) :=
  of_row 72 rfl rfl ⟨d.isLt, a.isLt, b.isLt, la.isLt, trivial⟩ (by simp [rowBpdot])
theorem kand d a b : Statement (.kand d a b) :=
  of_row 73 rfl rfl ⟨d.isLt, a.isLt, b.isLt, trivial⟩ (by simp [rowKand])
theorem kor d a b : Statement (.kor d a b) :=
  of_row 74 rfl rfl ⟨d.isLt, a.isLt, b.isLt, trivial⟩ (by simp [rowKor])
theorem kxor d a b : Statement (.kxor d a b) :=
  of_row 75 rfl rfl ⟨d.isLt, a.isLt, b.isLt, trivial⟩ (by simp [rowKxor])
theorem kandn d a b : Statement (.kandn d a b) :=
  of_row 76 rfl rfl ⟨d.isLt, a.isLt, b.isLt, trivial⟩ (by simp [rowKandn])
theorem knot d a : Statement (.knot d a) :=
  of_row 77 rfl rfl ⟨d.isLt, a.isLt, trivial⟩ (by simp [rowKnot])
theorem kmov d a : Statement (.kmov d a) :=
  of_row 78 rfl rfl ⟨d.isLt, a.isLt, trivial⟩ (by simp [rowKmov])
theorem kset d a : Statement (.kset d a) :=
  of_row 79 rfl rfl ⟨d.isLt, a.isLt, trivial⟩ (by simp [rowKset])
theorem kget d a : Statement (.kget d a) :=
  of_row 80 rfl rfl ⟨d.isLt, a.isLt, trivial⟩ (by simp [rowKget])
theorem ksave d : Statement (.ksave d) :=
  of_row 81 rfl rfl ⟨d.isLt, trivial⟩ (by simp [rowKsave])
theorem krest a : Statement (.krest a) :=
  of_row 82 rfl rfl ⟨a.isLt, trivial⟩ (by simp [rowKrest])
theorem exmget d : Statement (.exmget d) :=
  of_row 83 rfl rfl ⟨d.isLt, trivial⟩ (by simp [rowExmget])
theorem exmset a : Statement (.exmset a) :=
  of_row 84 rfl rfl ⟨a.isLt, trivial⟩ (by simp [rowExmset])
theorem shflIdx d a b : Statement (.shflIdx d a b) :=
  of_row 85 rfl rfl ⟨d.isLt, a.isLt, b.isLt, trivial⟩ (by simp [rowShflIdx])
theorem shflUp d a b : Statement (.shflUp d a b) :=
  of_row 86 rfl rfl ⟨d.isLt, a.isLt, b.isLt, trivial⟩ (by simp [rowShflUp])
theorem shflDn d a b : Statement (.shflDn d a b) :=
  of_row 87 rfl rfl ⟨d.isLt, a.isLt, b.isLt, trivial⟩ (by simp [rowShflDn])
theorem shflXor d a b : Statement (.shflXor d a b) :=
  of_row 88 rfl rfl ⟨d.isLt, a.isLt, b.isLt, trivial⟩ (by simp [rowShflXor])
theorem voteAny d k : Statement (.voteAny d k) :=
  of_row 89 rfl rfl ⟨d.isLt, k.isLt, trivial⟩ (by simp [rowVoteAny])
theorem voteAll d k : Statement (.voteAll d k) :=
  of_row 90 rfl rfl ⟨d.isLt, k.isLt, trivial⟩ (by simp [rowVoteAll])
theorem voteBal d k : Statement (.voteBal d k) :=
  of_row 91 rfl rfl ⟨d.isLt, k.isLt, trivial⟩ (by simp [rowVoteBal])
theorem bra off : Statement (.bra off) :=
  of_row 92 rfl rfl ⟨off.isLt, trivial⟩ (by simp [rowBra])
theorem brd k rec tgt : Statement (.brd k rec tgt) :=
  of_row 93 rfl rfl ⟨k.isLt, rec.isLt, tgt.isLt, trivial⟩ (by simp [rowBrd])
theorem rcv : Statement .rcv := of_row 94 rfl rfl trivial rfl
theorem call off : Statement (.call off) :=
  of_row 95 rfl rfl ⟨off.isLt, trivial⟩ (by simp [rowCall])
theorem ret : Statement .ret := of_row 96 rfl rfl trivial rfl
theorem jmpi a : Statement (.jmpi a) :=
  of_row 97 rfl rfl ⟨a.isLt, trivial⟩ (by simp [rowJmpi])
theorem exit : Statement .exit := of_row 98 rfl rfl trivial rfl
theorem nop : Statement .nop := of_row 99 rfl rfl trivial rfl
theorem bru d cond off : Statement (.bru d cond off) :=
  of_row 100 rfl rfl ⟨d.isLt, cond.isLt, off.isLt, trivial⟩ (by simp [rowBru])
theorem rds d n : Statement (.rds d n) :=
  of_row 101 rfl rfl ⟨d.isLt, n.isLt, trivial⟩ (by simp [rowRds])
theorem win k : Statement (.win k) :=
  of_row 102 rfl rfl ⟨k.isLt, trivial⟩ (by simp [rowWin])
theorem setf a b : Statement (.setf a b) :=
  of_row 103 rfl rfl ⟨a.isLt, b.isLt, trivial⟩ (by simp [rowSetf])
theorem getf d : Statement (.getf d) :=
  of_row 104 rfl rfl ⟨d.isLt, trivial⟩ (by simp [rowGetf])
theorem flags d a : Statement (.flags d a) :=
  of_row 105 rfl rfl ⟨d.isLt, a.isLt, trivial⟩ (by simp [rowFlags])
theorem yset n a : Statement (.yset n a) :=
  of_row 106 rfl rfl ⟨n.isLt, a.isLt, trivial⟩ (by simp [rowYset])
theorem swin b : Statement (.swin b) :=
  of_row 107 rfl rfl ⟨b.isLt, trivial⟩ (by simp [rowSwin])
theorem csrr d n : Statement (.csrr d n) :=
  of_row 108 rfl rfl ⟨d.isLt, n.isLt, trivial⟩ (by simp [rowCsrr])
theorem csrw d n : Statement (.csrw d n) :=
  of_row 109 rfl rfl ⟨d.isLt, n.isLt, trivial⟩ (by simp [rowCsrw])
theorem csrwSet d n : Statement (.csrwSet d n) :=
  of_row 110 rfl rfl ⟨d.isLt, n.isLt, trivial⟩ (by simp [rowCsrwSet])
theorem csrwClr d n : Statement (.csrwClr d n) :=
  of_row 111 rfl rfl ⟨d.isLt, n.isLt, trivial⟩ (by simp [rowCsrwClr])
theorem lwake a : Statement (.lwake a) :=
  of_row 112 rfl rfl ⟨a.isLt, trivial⟩ (by simp [rowLwake])
theorem tlbinv a b : Statement (.tlbinv a b) :=
  of_row 113 rfl rfl ⟨a.isLt, b.isLt, trivial⟩ (by simp [rowTlbinv])
theorem ld32 d rg idx sc la : Statement (.ld32 d rg idx sc la) :=
  of_row 114 rfl rfl ⟨d.isLt, rg.isLt, idx.isLt, sc.isLt, la.isLt, trivial⟩ (by simp [rowLd32])
theorem ld64 d rg idx sc la : Statement (.ld64 d rg idx sc la) :=
  of_row 115 rfl rfl ⟨d.isLt, rg.isLt, idx.isLt, sc.isLt, la.isLt, trivial⟩ (by simp [rowLd64])
theorem ldI8 d rg idx sc la : Statement (.ldI8 d rg idx sc la) :=
  of_row 116 rfl rfl ⟨d.isLt, rg.isLt, idx.isLt, sc.isLt, la.isLt, trivial⟩ (by simp [rowLdI8])
theorem ldN8 d rg idx sc la : Statement (.ldN8 d rg idx sc la) :=
  of_row 117 rfl rfl ⟨d.isLt, rg.isLt, idx.isLt, sc.isLt, la.isLt, trivial⟩ (by simp [rowLdN8])
theorem ldI16 d rg idx sc la : Statement (.ldI16 d rg idx sc la) :=
  of_row 118 rfl rfl ⟨d.isLt, rg.isLt, idx.isLt, sc.isLt, la.isLt, trivial⟩ (by simp [rowLdI16])
theorem ldN16 d rg idx sc la : Statement (.ldN16 d rg idx sc la) :=
  of_row 119 rfl rfl ⟨d.isLt, rg.isLt, idx.isLt, sc.isLt, la.isLt, trivial⟩ (by simp [rowLdN16])
theorem st32 d rg idx sc la : Statement (.st32 d rg idx sc la) :=
  of_row 120 rfl rfl ⟨d.isLt, rg.isLt, idx.isLt, sc.isLt, la.isLt, trivial⟩ (by simp [rowSt32])
theorem st64 d rg idx sc la : Statement (.st64 d rg idx sc la) :=
  of_row 121 rfl rfl ⟨d.isLt, rg.isLt, idx.isLt, sc.isLt, la.isLt, trivial⟩ (by simp [rowSt64])
theorem st8 d rg idx sc la : Statement (.st8 d rg idx sc la) :=
  of_row 122 rfl rfl ⟨d.isLt, rg.isLt, idx.isLt, sc.isLt, la.isLt, trivial⟩ (by simp [rowSt8])
theorem st16 d rg idx sc la : Statement (.st16 d rg idx sc la) :=
  of_row 123 rfl rfl ⟨d.isLt, rg.isLt, idx.isLt, sc.isLt, la.isLt, trivial⟩ (by simp [rowSt16])
theorem ldn d rg idx sc la : Statement (.ldn d rg idx sc la) :=
  of_row 124 rfl rfl ⟨d.isLt, rg.isLt, idx.isLt, sc.isLt, la.isLt, trivial⟩ (by simp [rowLdn])
theorem stn d rg idx sc la : Statement (.stn d rg idx sc la) :=
  of_row 125 rfl rfl ⟨d.isLt, rg.isLt, idx.isLt, sc.isLt, la.isLt, trivial⟩ (by simp [rowStn])
theorem ldbp d rg idx sc la : Statement (.ldbp d rg idx sc la) :=
  of_row 126 rfl rfl ⟨d.isLt, rg.isLt, idx.isLt, sc.isLt, la.isLt, trivial⟩ (by simp [rowLdbp])
theorem stbe d rg idx sc la : Statement (.stbe d rg idx sc la) :=
  of_row 127 rfl rfl ⟨d.isLt, rg.isLt, idx.isLt, sc.isLt, la.isLt, trivial⟩ (by simp [rowStbe])
theorem cpy d a b : Statement (.cpy d a b) :=
  of_row 128 rfl rfl ⟨d.isLt, a.isLt, b.isLt, trivial⟩ (by simp [rowCpy])
theorem cpyg d a b : Statement (.cpyg d a b) :=
  of_row 129 rfl rfl ⟨d.isLt, a.isLt, b.isLt, trivial⟩ (by simp [rowCpyg])
theorem xst d a b : Statement (.xst d a b) :=
  of_row 130 rfl rfl ⟨d.isLt, a.isLt, b.isLt, trivial⟩ (by simp [rowXst])
theorem dupd d a b : Statement (.dupd d a b) :=
  of_row 131 rfl rfl ⟨d.isLt, a.isLt, b.isLt, trivial⟩ (by simp [rowDupd])
theorem pref a b : Statement (.pref a b) :=
  of_row 132 rfl rfl ⟨a.isLt, b.isLt, trivial⟩ (by simp [rowPref])
theorem res a b : Statement (.res a b) :=
  of_row 133 rfl rfl ⟨a.isLt, b.isLt, trivial⟩ (by simp [rowRes])
theorem pwait a b : Statement (.pwait a b) :=
  of_row 134 rfl rfl ⟨a.isLt, b.isLt, trivial⟩ (by simp [rowPwait])
theorem borrow d a b tr k : Statement (.borrow d a b tr k) :=
  of_row 135 rfl rfl ⟨d.isLt, a.isLt, b.isLt, tr.isLt, k.isLt, trivial⟩ (by simp [rowBorrow])
theorem reborrowS d b : Statement (.reborrowS d b) :=
  of_row 136 rfl rfl ⟨d.isLt, b.isLt, trivial⟩ (by simp [rowReborrowS])
theorem reborrowE d b : Statement (.reborrowE d b) :=
  of_row 137 rfl rfl ⟨d.isLt, b.isLt, trivial⟩ (by simp [rowReborrowE])
theorem split d a b eq n : Statement (.split d a b eq n) :=
  of_row 138 rfl rfl ⟨d.isLt, a.isLt, b.isLt, eq.isLt, n.isLt, trivial⟩ (by simp [rowSplit])
theorem share d a b : Statement (.share d a b) :=
  of_row 139 rfl rfl ⟨d.isLt, a.isLt, b.isLt, trivial⟩ (by simp [rowShare])
theorem give a : Statement (.give a) :=
  of_row 140 rfl rfl ⟨a.isLt, trivial⟩ (by simp [rowGive])
theorem join a : Statement (.join a) :=
  of_row 141 rfl rfl ⟨a.isLt, trivial⟩ (by simp [rowJoin])
theorem returnR a : Statement (.returnR a) :=
  of_row 142 rfl rfl ⟨a.isLt, trivial⟩ (by simp [rowReturnR])
theorem rginfo d a : Statement (.rginfo d a) :=
  of_row 143 rfl rfl ⟨d.isLt, a.isLt, trivial⟩ (by simp [rowRginfo])
theorem rgmov d a : Statement (.rgmov d a) :=
  of_row 144 rfl rfl ⟨d.isLt, a.isLt, trivial⟩ (by simp [rowRgmov])
theorem rgclr a : Statement (.rgclr a) :=
  of_row 145 rfl rfl ⟨a.isLt, trivial⟩ (by simp [rowRgclr])
theorem rgclrTaint a : Statement (.rgclrTaint a) :=
  of_row 146 rfl rfl ⟨a.isLt, trivial⟩ (by simp [rowRgclrTaint])
theorem atomAdd d w rg ord scope : Statement (.atomAdd d w rg ord scope) :=
  of_row 147 rfl rfl ⟨d.isLt, w.isLt, rg.isLt, ord.isLt, scope.isLt, trivial⟩ (by simp [rowAtomAdd])
theorem atomFadd d w rg ord scope : Statement (.atomFadd d w rg ord scope) :=
  of_row 148 rfl rfl ⟨d.isLt, w.isLt, rg.isLt, ord.isLt, scope.isLt, trivial⟩ (by simp [rowAtomFadd])
theorem atomSwap d w rg ord scope : Statement (.atomSwap d w rg ord scope) :=
  of_row 149 rfl rfl ⟨d.isLt, w.isLt, rg.isLt, ord.isLt, scope.isLt, trivial⟩ (by simp [rowAtomSwap])
theorem atomCas d w rg ord scope : Statement (.atomCas d w rg ord scope) :=
  of_row 150 rfl rfl ⟨d.isLt, w.isLt, rg.isLt, ord.isLt, scope.isLt, trivial⟩ (by simp [rowAtomCas])
theorem atomAnd d w rg ord scope : Statement (.atomAnd d w rg ord scope) :=
  of_row 151 rfl rfl ⟨d.isLt, w.isLt, rg.isLt, ord.isLt, scope.isLt, trivial⟩ (by simp [rowAtomAnd])
theorem atomOr d w rg ord scope : Statement (.atomOr d w rg ord scope) :=
  of_row 152 rfl rfl ⟨d.isLt, w.isLt, rg.isLt, ord.isLt, scope.isLt, trivial⟩ (by simp [rowAtomOr])
theorem atomXor d w rg ord scope : Statement (.atomXor d w rg ord scope) :=
  of_row 153 rfl rfl ⟨d.isLt, w.isLt, rg.isLt, ord.isLt, scope.isLt, trivial⟩ (by simp [rowAtomXor])
theorem atomMin d w rg ord scope : Statement (.atomMin d w rg ord scope) :=
  of_row 154 rfl rfl ⟨d.isLt, w.isLt, rg.isLt, ord.isLt, scope.isLt, trivial⟩ (by simp [rowAtomMin])
theorem atomMax d w rg ord scope : Statement (.atomMax d w rg ord scope) :=
  of_row 155 rfl rfl ⟨d.isLt, w.isLt, rg.isLt, ord.isLt, scope.isLt, trivial⟩ (by simp [rowAtomMax])
theorem atomMinn d w rg ord scope : Statement (.atomMinn d w rg ord scope) :=
  of_row 156 rfl rfl ⟨d.isLt, w.isLt, rg.isLt, ord.isLt, scope.isLt, trivial⟩ (by simp [rowAtomMinn])
theorem atomMaxn d w rg ord scope : Statement (.atomMaxn d w rg ord scope) :=
  of_row 157 rfl rfl ⟨d.isLt, w.isLt, rg.isLt, ord.isLt, scope.isLt, trivial⟩ (by simp [rowAtomMaxn])
theorem atomLd d w rg ord scope : Statement (.atomLd d w rg ord scope) :=
  of_row 158 rfl rfl ⟨d.isLt, w.isLt, rg.isLt, ord.isLt, scope.isLt, trivial⟩ (by simp [rowAtomLd])
theorem atomSt d w rg ord scope : Statement (.atomSt d w rg ord scope) :=
  of_row 159 rfl rfl ⟨d.isLt, w.isLt, rg.isLt, ord.isLt, scope.isLt, trivial⟩ (by simp [rowAtomSt])
theorem redAdd d w rg ord scope : Statement (.redAdd d w rg ord scope) :=
  of_row 160 rfl rfl ⟨d.isLt, w.isLt, rg.isLt, ord.isLt, scope.isLt, trivial⟩ (by simp [rowRedAdd])
theorem redFadd d w rg ord scope : Statement (.redFadd d w rg ord scope) :=
  of_row 161 rfl rfl ⟨d.isLt, w.isLt, rg.isLt, ord.isLt, scope.isLt, trivial⟩ (by simp [rowRedFadd])
theorem redMin d w rg ord scope : Statement (.redMin d w rg ord scope) :=
  of_row 162 rfl rfl ⟨d.isLt, w.isLt, rg.isLt, ord.isLt, scope.isLt, trivial⟩ (by simp [rowRedMin])
theorem redMax d w rg ord scope : Statement (.redMax d w rg ord scope) :=
  of_row 163 rfl rfl ⟨d.isLt, w.isLt, rg.isLt, ord.isLt, scope.isLt, trivial⟩ (by simp [rowRedMax])
theorem redFmin d w rg ord scope : Statement (.redFmin d w rg ord scope) :=
  of_row 164 rfl rfl ⟨d.isLt, w.isLt, rg.isLt, ord.isLt, scope.isLt, trivial⟩ (by simp [rowRedFmin])
theorem redFmax d w rg ord scope : Statement (.redFmax d w rg ord scope) :=
  of_row 165 rfl rfl ⟨d.isLt, w.isLt, rg.isLt, ord.isLt, scope.isLt, trivial⟩ (by simp [rowRedFmax])
theorem redAnd d w rg ord scope : Statement (.redAnd d w rg ord scope) :=
  of_row 166 rfl rfl ⟨d.isLt, w.isLt, rg.isLt, ord.isLt, scope.isLt, trivial⟩ (by simp [rowRedAnd])
theorem redOr d w rg ord scope : Statement (.redOr d w rg ord scope) :=
  of_row 167 rfl rfl ⟨d.isLt, w.isLt, rg.isLt, ord.isLt, scope.isLt, trivial⟩ (by simp [rowRedOr])
theorem redXor d w rg ord scope : Statement (.redXor d w rg ord scope) :=
  of_row 168 rfl rfl ⟨d.isLt, w.isLt, rg.isLt, ord.isLt, scope.isLt, trivial⟩ (by simp [rowRedXor])
theorem redMinn d w rg ord scope : Statement (.redMinn d w rg ord scope) :=
  of_row 169 rfl rfl ⟨d.isLt, w.isLt, rg.isLt, ord.isLt, scope.isLt, trivial⟩ (by simp [rowRedMinn])
theorem redMaxn d w rg ord scope : Statement (.redMaxn d w rg ord scope) :=
  of_row 170 rfl rfl ⟨d.isLt, w.isLt, rg.isLt, ord.isLt, scope.isLt, trivial⟩ (by simp [rowRedMaxn])
theorem fence scope : Statement (.fence scope) :=
  of_row 171 rfl rfl ⟨scope.isLt, trivial⟩ (by simp [rowFence])
theorem mma d c sat la : Statement (.mma d c sat la) :=
  of_row 172 rfl rfl ⟨d.isLt, c.isLt, sat.isLt, la.isLt, trivial⟩ (by simp [rowMma])
theorem mmas d c la : Statement (.mmas d c la) :=
  of_row 173 rfl rfl ⟨d.isLt, c.isLt, la.isLt, trivial⟩ (by simp [rowMmas])
theorem mbp d c mid sat la : Statement (.mbp d c mid sat la) :=
  of_row 174 rfl rfl ⟨d.isLt, c.isLt, mid.isLt, sat.isLt, la.isLt, trivial⟩ (by simp [rowMbp])
theorem mzero d la : Statement (.mzero d la) :=
  of_row 175 rfl rfl ⟨d.isLt, la.isLt, trivial⟩ (by simp [rowMzero])
theorem mld d n c la : Statement (.mld d n c la) :=
  of_row 176 rfl rfl ⟨d.isLt, n.isLt, c.isLt, la.isLt, trivial⟩ (by simp [rowMld])
theorem mst n src c la : Statement (.mst n src c la) :=
  of_row 177 rfl rfl ⟨n.isLt, src.isLt, c.isLt, la.isLt, trivial⟩ (by simp [rowMst])
theorem mcpy d src la : Statement (.mcpy d src la) :=
  of_row 178 rfl rfl ⟨d.isLt, src.isLt, la.isLt, trivial⟩ (by simp [rowMcpy])
theorem mcvt n src c la : Statement (.mcvt n src c la) :=
  of_row 179 rfl rfl ⟨n.isLt, src.isLt, c.isLt, la.isLt, trivial⟩ (by simp [rowMcvt])
theorem mtrn d src la : Statement (.mtrn d src la) :=
  of_row 180 rfl rfl ⟨d.isLt, src.isLt, la.isLt, trivial⟩ (by simp [rowMtrn])
theorem mperm d src c la : Statement (.mperm d src c la) :=
  of_row 181 rfl rfl ⟨d.isLt, src.isLt, c.isLt, la.isLt, trivial⟩ (by simp [rowMperm])
theorem mrsum d src c la : Statement (.mrsum d src c la) :=
  of_row 182 rfl rfl ⟨d.isLt, src.isLt, c.isLt, la.isLt, trivial⟩ (by simp [rowMrsum])
theorem mrdy b : Statement (.mrdy b) :=
  of_row 183 rfl rfl ⟨b.isLt, trivial⟩ (by simp [rowMrdy])
theorem mwait d : Statement (.mwait d) :=
  of_row 184 rfl rfl ⟨d.isLt, trivial⟩ (by simp [rowMwait])
theorem mstat e c la : Statement (.mstat e c la) :=
  of_row 185 rfl rfl ⟨e.isLt, c.isLt, la.isLt, trivial⟩ (by simp [rowMstat])
theorem rank d src c ty la : Statement (.rank d src c ty la) :=
  of_row 186 rfl rfl ⟨d.isLt, src.isLt, c.isLt, ty.isLt, la.isLt, trivial⟩ (by simp [rowRank])
theorem rmma d src c tie la : Statement (.rmma d src c tie la) :=
  of_row 187 rfl rfl ⟨d.isLt, src.isLt, c.isLt, tie.isLt, la.isLt, trivial⟩ (by simp [rowRmma])
theorem rtv d src c la : Statement (.rtv d src c la) :=
  of_row 188 rfl rfl ⟨d.isLt, src.isLt, c.isLt, la.isLt, trivial⟩ (by simp [rowRtv])
theorem rlst d src c la : Statement (.rlst d src c la) :=
  of_row 189 rfl rfl ⟨d.isLt, src.isLt, c.isLt, la.isLt, trivial⟩ (by simp [rowRlst])
theorem ratl src c la : Statement (.ratl src c la) :=
  of_row 190 rfl rfl ⟨src.isLt, c.isLt, la.isLt, trivial⟩ (by simp [rowRatl])
theorem rrcl src c la : Statement (.rrcl src c la) :=
  of_row 191 rfl rfl ⟨src.isLt, c.isLt, la.isLt, trivial⟩ (by simp [rowRrcl])
theorem tspawn d a b : Statement (.tspawn d a b) :=
  of_row 192 rfl rfl ⟨d.isLt, a.isLt, b.isLt, trivial⟩ (by simp [rowTspawn])
theorem tret a : Statement (.tret a) :=
  of_row 193 rfl rfl ⟨a.isLt, trivial⟩ (by simp [rowTret])
theorem fwait d a b : Statement (.fwait d a b) :=
  of_row 194 rfl rfl ⟨d.isLt, a.isLt, b.isLt, trivial⟩ (by simp [rowFwait])
theorem ffill d a b : Statement (.ffill d a b) :=
  of_row 195 rfl rfl ⟨d.isLt, a.isLt, b.isLt, trivial⟩ (by simp [rowFfill])
theorem fown d a b : Statement (.fown d a b) :=
  of_row 196 rfl rfl ⟨d.isLt, a.isLt, b.isLt, trivial⟩ (by simp [rowFown])
theorem lock d a b : Statement (.lock d a b) :=
  of_row 197 rfl rfl ⟨d.isLt, a.isLt, b.isLt, trivial⟩ (by simp [rowLock])
theorem unlock d a b : Statement (.unlock d a b) :=
  of_row 198 rfl rfl ⟨d.isLt, a.isLt, b.isLt, trivial⟩ (by simp [rowUnlock])
theorem qpush d a b : Statement (.qpush d a b) :=
  of_row 199 rfl rfl ⟨d.isLt, a.isLt, b.isLt, trivial⟩ (by simp [rowQpush])
theorem qpop d a b : Statement (.qpop d a b) :=
  of_row 200 rfl rfl ⟨d.isLt, a.isLt, b.isLt, trivial⟩ (by simp [rowQpop])
theorem succ d a b : Statement (.succ d a b) :=
  of_row 201 rfl rfl ⟨d.isLt, a.isLt, b.isLt, trivial⟩ (by simp [rowSucc])
theorem launch d a b : Statement (.launch d a b) :=
  of_row 202 rfl rfl ⟨d.isLt, a.isLt, b.isLt, trivial⟩ (by simp [rowLaunch])
theorem yield : Statement .yield := of_row 203 rfl rfl trivial rfl
theorem dqpush a b : Statement (.dqpush a b) :=
  of_row 204 rfl rfl ⟨a.isLt, b.isLt, trivial⟩ (by simp [rowDqpush])
theorem dqpop d : Statement (.dqpop d) :=
  of_row 205 rfl rfl ⟨d.isLt, trivial⟩ (by simp [rowDqpop])
theorem srput b : Statement (.srput b) :=
  of_row 206 rfl rfl ⟨b.isLt, trivial⟩ (by simp [rowSrput])
theorem srwaitC d b : Statement (.srwaitC d b) :=
  of_row 207 rfl rfl ⟨d.isLt, b.isLt, trivial⟩ (by simp [rowSrwaitC])
theorem srwaitP d b : Statement (.srwaitP d b) :=
  of_row 208 rfl rfl ⟨d.isLt, b.isLt, trivial⟩ (by simp [rowSrwaitP])
theorem srrel b : Statement (.srrel b) :=
  of_row 209 rfl rfl ⟨b.isLt, trivial⟩ (by simp [rowSrrel])
theorem barArr d lev n : Statement (.barArr d lev n) :=
  of_row 210 rfl rfl ⟨d.isLt, lev.isLt, n.isLt, trivial⟩ (by simp [rowBarArr])
theorem barWait a lev n : Statement (.barWait a lev n) :=
  of_row 211 rfl rfl ⟨a.isLt, lev.isLt, n.isLt, trivial⟩ (by simp [rowBarWait])
theorem barSync d lev n : Statement (.barSync d lev n) :=
  of_row 212 rfl rfl ⟨d.isLt, lev.isLt, n.isLt, trivial⟩ (by simp [rowBarSync])
theorem barSet a n : Statement (.barSet a n) :=
  of_row 213 rfl rfl ⟨a.isLt, n.isLt, trivial⟩ (by simp [rowBarSet])
theorem cntRd d c : Statement (.cntRd d c) :=
  of_row 214 rfl rfl ⟨d.isLt, c.isLt, trivial⟩ (by simp [rowCntRd])
theorem cntWait a c : Statement (.cntWait a c) :=
  of_row 215 rfl rfl ⟨a.isLt, c.isLt, trivial⟩ (by simp [rowCntWait])
theorem cntClr c : Statement (.cntClr c) :=
  of_row 216 rfl rfl ⟨c.isLt, trivial⟩ (by simp [rowCntClr])
theorem time d : Statement (.time d) :=
  of_row 217 rfl rfl ⟨d.isLt, trivial⟩ (by simp [rowTime])
theorem winw d : Statement (.winw d) :=
  of_row 218 rfl rfl ⟨d.isLt, trivial⟩ (by simp [rowWinw])
theorem perf d a : Statement (.perf d a) :=
  of_row 219 rfl rfl ⟨d.isLt, a.isLt, trivial⟩ (by simp [rowPerf])
theorem trap n : Statement (.trap n) :=
  of_row 220 rfl rfl ⟨n.isLt, trivial⟩ (by simp [rowTrap])
theorem svc n : Statement (.svc n) :=
  of_row 221 rfl rfl ⟨n.isLt, trivial⟩ (by simp [rowSvc])
theorem rft : Statement .rft := of_row 222 rfl rfl trivial rfl
theorem brk n : Statement (.brk n) :=
  of_row 223 rfl rfl ⟨n.isLt, trivial⟩ (by simp [rowBrk])
theorem killb d a : Statement (.killb d a) :=
  of_row 224 rfl rfl ⟨d.isLt, a.isLt, trivial⟩ (by simp [rowKillb])
theorem pblk k n pat : Statement (.pblk k n pat) :=
  of_row 225 rfl rfl ⟨k.isLt, n.isLt, pat.isLt, trivial⟩ (by simp [rowPblk])
theorem loadDataReturn : Statement .loadDataReturn := of_none rfl
theorem pageWalk : Statement .pageWalk := of_none rfl
theorem sideLogReplay : Statement .sideLogReplay := of_none rfl
theorem copyLanding : Statement .copyLanding := of_none rfl
theorem engineStart : Statement .engineStart := of_none rfl
theorem engineComplete : Statement .engineComplete := of_none rfl
theorem trapEntry : Statement .trapEntry := of_none rfl
theorem faultReport : Statement .faultReport := of_none rfl
theorem packetFetch : Statement .packetFetch := of_none rfl
theorem dependencePoll : Statement .dependencePoll := of_none rfl
theorem gangPlacement : Statement .gangPlacement := of_none rfl
theorem seniorGang : Statement .seniorGang := of_none rfl
theorem taskStart : Statement .taskStart := of_none rfl
theorem adoption : Statement .adoption := of_none rfl
theorem wake : Statement .wake := of_none rfl
theorem parkRetry : Statement .parkRetry := of_none rfl
theorem preemptSave : Statement .preemptSave := of_none rfl
theorem restore : Statement .restore := of_none rfl
theorem unpickerPass : Statement .unpickerPass := of_none rfl
theorem req : Statement .req := of_none rfl
theorem grant : Statement .grant := of_none rfl
theorem returnMessage : Statement .returnMessage := of_none rfl
theorem count : Statement .count := of_none rfl
theorem pending : Statement .pending := of_none rfl
theorem reclaim : Statement .reclaim := of_none rfl
theorem lost : Statement .lost := of_none rfl
theorem retack : Statement .retack := of_none rfl
theorem eopDiscard : Statement .eopDiscard := of_none rfl
theorem requestDelivery : Statement .requestDelivery := of_none rfl
theorem sliceBounce : Statement .sliceBounce := of_none rfl
theorem heatHalving : Statement .heatHalving := of_none rfl
theorem heatSample : Statement .heatSample := of_none rfl
theorem scTicket : Statement .scTicket := of_none rfl
theorem windowMark : Statement .windowMark := of_none rfl
theorem systemScPerform : Statement .systemScPerform := of_none rfl
theorem cleanAfterRelease : Statement .cleanAfterRelease := of_none rfl
theorem flitReceive : Statement .flitReceive := of_none rfl
theorem ackOnlyFlit : Statement .ackOnlyFlit := of_none rfl
theorem ackTimer : Statement .ackTimer := of_none rfl
theorem replayTimeout : Statement .replayTimeout := of_none rfl
theorem errorInterval : Statement .errorInterval := of_none rfl
theorem scaleUpFrame : Statement .scaleUpFrame := of_none rfl
theorem trainingEnd : Statement .trainingEnd := of_none rfl
theorem retrainEnd : Statement .retrainEnd := of_none rfl
theorem l0nIdle : Statement .l0nIdle := of_none rfl
theorem l1sIdle : Statement .l1sIdle := of_none rfl
theorem wakeComplete : Statement .wakeComplete := of_none rfl
theorem wakeTimeout : Statement .wakeTimeout := of_none rfl
theorem unresponsiveTimeout : Statement .unresponsiveTimeout := of_none rfl
theorem hostAccess : Statement .hostAccess := of_none rfl
theorem train : Statement .train := of_none rfl
theorem takeDown : Statement .takeDown := of_none rfl
theorem lqbell : Statement .lqbell := of_none rfl
theorem fltreplay : Statement .fltreplay := of_none rfl
theorem preempt : Statement .preempt := of_none rfl
theorem resume : Statement .resume := of_none rfl
theorem timeStep : Statement .timeStep := of_none rfl
theorem heatctlClr : Statement .heatctlClr := of_none rfl
theorem hclr : Statement .hclr := of_none rfl
theorem dirtyBitmapReadClear : Statement .dirtyBitmapReadClear := of_none rfl
theorem quiesce : Statement .quiesce := of_none rfl
theorem commit : Statement .commit := of_none rfl
theorem release : Statement .release := of_none rfl
theorem abort : Statement .abort := of_none rfl
theorem registerWrite : Statement .registerWrite := of_none rfl
theorem restart : Statement .restart := of_none rfl
theorem clearfail : Statement .clearfail := of_none rfl
theorem attest : Statement .attest := of_none rfl
theorem getcert : Statement .getcert := of_none rfl
theorem raisefloor : Statement .raisefloor := of_none rfl
theorem start : Statement .start := of_none rfl
theorem startStepTimeout : Statement .startStepTimeout := of_none rfl
theorem powerWindow : Statement .powerWindow := of_none rfl
theorem thermalTrip : Statement .thermalTrip := of_none rfl
theorem illegalInstruction w : Statement (.illegalInstruction w) := of_none rfl
theorem fundamentalReset : Statement .fundamentalReset := of_none rfl
theorem powerLoss : Statement .powerLoss := of_none rfl
theorem chunkDescriptorWrite : Statement .chunkDescriptorWrite := of_none rfl
theorem badCommand : Statement .badCommand := of_none rfl

end Sys2Proof.Laws.RoundTrip
end

