-- ==== Sys2Proof/Laws/State.lean ====
section
/-!
SUPPORT. Laws/State.lean: what each update of the state leaves in each field, one lemma for each, so that no proof unfolds a
record update.
-/
namespace Sys2Proof.Machine

/-! ## State.updCore -/

@[simp] theorem State.updCore_mem (s : State) (c : Nat) (f : Core → Core) : (s.updCore c f).mem = s.mem := rfl
@[simp] theorem State.updCore_poison (s : State) (c : Nat) (f : Core → Core) : (s.updCore c f).poison = s.poison := rfl
@[simp] theorem State.updCore_sums (s : State) (c : Nat) (f : Core → Core) : (s.updCore c f).sums = s.sums := rfl
@[simp] theorem State.updCore_blocks (s : State) (c : Nat) (f : Core → Core) : (s.updCore c f).blocks = s.blocks := rfl
@[simp] theorem State.updCore_cores (s : State) (c : Nat) (f : Core → Core) : (s.updCore c f).cores = kset s.cores c (f (s.core c)) := rfl
@[simp] theorem State.updCore_l1 (s : State) (c : Nat) (f : Core → Core) : (s.updCore c f).l1 = s.l1 := rfl
@[simp] theorem State.updCore_l2 (s : State) (c : Nat) (f : Core → Core) : (s.updCore c f).l2 = s.l2 := rfl
@[simp] theorem State.updCore_tlb (s : State) (c : Nat) (f : Core → Core) : (s.updCore c f).tlb = s.tlb := rfl
@[simp] theorem State.updCore_cds (s : State) (c : Nat) (f : Core → Core) : (s.updCore c f).cds = s.cds := rfl
@[simp] theorem State.updCore_mds (s : State) (c : Nat) (f : Core → Core) : (s.updCore c f).mds = s.mds := rfl
@[simp] theorem State.updCore_proxy (s : State) (c : Nat) (f : Core → Core) : (s.updCore c f).proxy = s.proxy := rfl
@[simp] theorem State.updCore_clBars (s : State) (c : Nat) (f : Core → Core) : (s.updCore c f).clBars = s.clBars := rfl
@[simp] theorem State.updCore_dieBars (s : State) (c : Nat) (f : Core → Core) : (s.updCore c f).dieBars = s.dieBars := rfl
@[simp] theorem State.updCore_grBars (s : State) (c : Nat) (f : Core → Core) : (s.updCore c f).grBars = s.grBars := rfl
@[simp] theorem State.updCore_places (s : State) (c : Nat) (f : Core → Core) : (s.updCore c f).places = s.places := rfl
@[simp] theorem State.updCore_streams (s : State) (c : Nat) (f : Core → Core) : (s.updCore c f).streams = s.streams := rfl
@[simp] theorem State.updCore_modCtr (s : State) (c : Nat) (f : Core → Core) : (s.updCore c f).modCtr = s.modCtr := rfl
@[simp] theorem State.updCore_modErr (s : State) (c : Nat) (f : Core → Core) : (s.updCore c f).modErr = s.modErr := rfl
@[simp] theorem State.updCore_idlePol (s : State) (c : Nat) (f : Core → Core) : (s.updCore c f).idlePol = s.idlePol := rfl
@[simp] theorem State.updCore_filters (s : State) (c : Nat) (f : Core → Core) : (s.updCore c f).filters = s.filters := rfl
@[simp] theorem State.updCore_nextReq (s : State) (c : Nat) (f : Core → Core) : (s.updCore c f).nextReq = s.nextReq := rfl
@[simp] theorem State.updCore_waitReq (s : State) (c : Nat) (f : Core → Core) : (s.updCore c f).waitReq = s.waitReq := rfl
@[simp] theorem State.updCore_packets (s : State) (c : Nat) (f : Core → Core) : (s.updCore c f).packets = s.packets := rfl
@[simp] theorem State.updCore_gangs (s : State) (c : Nat) (f : Core → Core) : (s.updCore c f).gangs = s.gangs := rfl
@[simp] theorem State.updCore_pools (s : State) (c : Nat) (f : Core → Core) : (s.updCore c f).pools = s.pools := rfl
@[simp] theorem State.updCore_pkg (s : State) (c : Nat) (f : Core → Core) : (s.updCore c f).pkg = s.pkg := rfl
@[simp] theorem State.updCore_inbox (s : State) (c : Nat) (f : Core → Core) : (s.updCore c f).inbox = s.inbox := rfl
@[simp] theorem State.updCore_due (s : State) (c : Nat) (f : Core → Core) : (s.updCore c f).due = s.due := rfl
@[simp] theorem State.updCore_cur (s : State) (c : Nat) (f : Core → Core) : (s.updCore c f).cur = s.cur := rfl
@[simp] theorem State.updCore_reported (s : State) (c : Nat) (f : Core → Core) : (s.updCore c f).reported = s.reported := rfl
@[simp] theorem State.updCore_clock (s : State) (c : Nat) (f : Core → Core) : (s.updCore c f).clock = s.clock := rfl
@[simp] theorem State.updCore_free (s : State) (c : Nat) (f : Core → Core) : (s.updCore c f).free = s.free := rfl
@[simp] theorem State.updCore_fresh (s : State) (c : Nat) (f : Core → Core) : (s.updCore c f).fresh = s.fresh := rfl
@[simp] theorem State.updCore_out (s : State) (c : Nat) (f : Core → Core) : (s.updCore c f).out = s.out := rfl

/-! ## State.updCd -/

@[simp] theorem State.updCd_mem (s : State) (d : Nat) (f : Cd → Cd) : (s.updCd d f).mem = s.mem := rfl
@[simp] theorem State.updCd_poison (s : State) (d : Nat) (f : Cd → Cd) : (s.updCd d f).poison = s.poison := rfl
@[simp] theorem State.updCd_sums (s : State) (d : Nat) (f : Cd → Cd) : (s.updCd d f).sums = s.sums := rfl
@[simp] theorem State.updCd_blocks (s : State) (d : Nat) (f : Cd → Cd) : (s.updCd d f).blocks = s.blocks := rfl
@[simp] theorem State.updCd_cores (s : State) (d : Nat) (f : Cd → Cd) : (s.updCd d f).cores = s.cores := rfl
@[simp] theorem State.updCd_l1 (s : State) (d : Nat) (f : Cd → Cd) : (s.updCd d f).l1 = s.l1 := rfl
@[simp] theorem State.updCd_l2 (s : State) (d : Nat) (f : Cd → Cd) : (s.updCd d f).l2 = s.l2 := rfl
@[simp] theorem State.updCd_tlb (s : State) (d : Nat) (f : Cd → Cd) : (s.updCd d f).tlb = s.tlb := rfl
@[simp] theorem State.updCd_cds (s : State) (d : Nat) (f : Cd → Cd) : (s.updCd d f).cds = lset s.cds d f := rfl
@[simp] theorem State.updCd_mds (s : State) (d : Nat) (f : Cd → Cd) : (s.updCd d f).mds = s.mds := rfl
@[simp] theorem State.updCd_proxy (s : State) (d : Nat) (f : Cd → Cd) : (s.updCd d f).proxy = s.proxy := rfl
@[simp] theorem State.updCd_clBars (s : State) (d : Nat) (f : Cd → Cd) : (s.updCd d f).clBars = s.clBars := rfl
@[simp] theorem State.updCd_dieBars (s : State) (d : Nat) (f : Cd → Cd) : (s.updCd d f).dieBars = s.dieBars := rfl
@[simp] theorem State.updCd_grBars (s : State) (d : Nat) (f : Cd → Cd) : (s.updCd d f).grBars = s.grBars := rfl
@[simp] theorem State.updCd_places (s : State) (d : Nat) (f : Cd → Cd) : (s.updCd d f).places = s.places := rfl
@[simp] theorem State.updCd_streams (s : State) (d : Nat) (f : Cd → Cd) : (s.updCd d f).streams = s.streams := rfl
@[simp] theorem State.updCd_modCtr (s : State) (d : Nat) (f : Cd → Cd) : (s.updCd d f).modCtr = s.modCtr := rfl
@[simp] theorem State.updCd_modErr (s : State) (d : Nat) (f : Cd → Cd) : (s.updCd d f).modErr = s.modErr := rfl
@[simp] theorem State.updCd_idlePol (s : State) (d : Nat) (f : Cd → Cd) : (s.updCd d f).idlePol = s.idlePol := rfl
@[simp] theorem State.updCd_filters (s : State) (d : Nat) (f : Cd → Cd) : (s.updCd d f).filters = s.filters := rfl
@[simp] theorem State.updCd_nextReq (s : State) (d : Nat) (f : Cd → Cd) : (s.updCd d f).nextReq = s.nextReq := rfl
@[simp] theorem State.updCd_waitReq (s : State) (d : Nat) (f : Cd → Cd) : (s.updCd d f).waitReq = s.waitReq := rfl
@[simp] theorem State.updCd_packets (s : State) (d : Nat) (f : Cd → Cd) : (s.updCd d f).packets = s.packets := rfl
@[simp] theorem State.updCd_gangs (s : State) (d : Nat) (f : Cd → Cd) : (s.updCd d f).gangs = s.gangs := rfl
@[simp] theorem State.updCd_pools (s : State) (d : Nat) (f : Cd → Cd) : (s.updCd d f).pools = s.pools := rfl
@[simp] theorem State.updCd_pkg (s : State) (d : Nat) (f : Cd → Cd) : (s.updCd d f).pkg = s.pkg := rfl
@[simp] theorem State.updCd_inbox (s : State) (d : Nat) (f : Cd → Cd) : (s.updCd d f).inbox = s.inbox := rfl
@[simp] theorem State.updCd_due (s : State) (d : Nat) (f : Cd → Cd) : (s.updCd d f).due = s.due := rfl
@[simp] theorem State.updCd_cur (s : State) (d : Nat) (f : Cd → Cd) : (s.updCd d f).cur = s.cur := rfl
@[simp] theorem State.updCd_reported (s : State) (d : Nat) (f : Cd → Cd) : (s.updCd d f).reported = s.reported := rfl
@[simp] theorem State.updCd_clock (s : State) (d : Nat) (f : Cd → Cd) : (s.updCd d f).clock = s.clock := rfl
@[simp] theorem State.updCd_free (s : State) (d : Nat) (f : Cd → Cd) : (s.updCd d f).free = s.free := rfl
@[simp] theorem State.updCd_fresh (s : State) (d : Nat) (f : Cd → Cd) : (s.updCd d f).fresh = s.fresh := rfl
@[simp] theorem State.updCd_out (s : State) (d : Nat) (f : Cd → Cd) : (s.updCd d f).out = s.out := rfl

/-! ## State.updBlk -/

@[simp] theorem State.updBlk_mem (s : State) (b : Nat) (f : Block → Block) : (s.updBlk b f).mem = s.mem := rfl
@[simp] theorem State.updBlk_poison (s : State) (b : Nat) (f : Block → Block) : (s.updBlk b f).poison = s.poison := rfl
@[simp] theorem State.updBlk_sums (s : State) (b : Nat) (f : Block → Block) : (s.updBlk b f).sums = s.sums := rfl
@[simp] theorem State.updBlk_blocks (s : State) (b : Nat) (f : Block → Block) : (s.updBlk b f).blocks = kupd s.blocks b f := rfl
@[simp] theorem State.updBlk_cores (s : State) (b : Nat) (f : Block → Block) : (s.updBlk b f).cores = s.cores := rfl
@[simp] theorem State.updBlk_l1 (s : State) (b : Nat) (f : Block → Block) : (s.updBlk b f).l1 = s.l1 := rfl
@[simp] theorem State.updBlk_l2 (s : State) (b : Nat) (f : Block → Block) : (s.updBlk b f).l2 = s.l2 := rfl
@[simp] theorem State.updBlk_tlb (s : State) (b : Nat) (f : Block → Block) : (s.updBlk b f).tlb = s.tlb := rfl
@[simp] theorem State.updBlk_cds (s : State) (b : Nat) (f : Block → Block) : (s.updBlk b f).cds = s.cds := rfl
@[simp] theorem State.updBlk_mds (s : State) (b : Nat) (f : Block → Block) : (s.updBlk b f).mds = s.mds := rfl
@[simp] theorem State.updBlk_proxy (s : State) (b : Nat) (f : Block → Block) : (s.updBlk b f).proxy = s.proxy := rfl
@[simp] theorem State.updBlk_clBars (s : State) (b : Nat) (f : Block → Block) : (s.updBlk b f).clBars = s.clBars := rfl
@[simp] theorem State.updBlk_dieBars (s : State) (b : Nat) (f : Block → Block) : (s.updBlk b f).dieBars = s.dieBars := rfl
@[simp] theorem State.updBlk_grBars (s : State) (b : Nat) (f : Block → Block) : (s.updBlk b f).grBars = s.grBars := rfl
@[simp] theorem State.updBlk_places (s : State) (b : Nat) (f : Block → Block) : (s.updBlk b f).places = s.places := rfl
@[simp] theorem State.updBlk_streams (s : State) (b : Nat) (f : Block → Block) : (s.updBlk b f).streams = s.streams := rfl
@[simp] theorem State.updBlk_modCtr (s : State) (b : Nat) (f : Block → Block) : (s.updBlk b f).modCtr = s.modCtr := rfl
@[simp] theorem State.updBlk_modErr (s : State) (b : Nat) (f : Block → Block) : (s.updBlk b f).modErr = s.modErr := rfl
@[simp] theorem State.updBlk_idlePol (s : State) (b : Nat) (f : Block → Block) : (s.updBlk b f).idlePol = s.idlePol := rfl
@[simp] theorem State.updBlk_filters (s : State) (b : Nat) (f : Block → Block) : (s.updBlk b f).filters = s.filters := rfl
@[simp] theorem State.updBlk_nextReq (s : State) (b : Nat) (f : Block → Block) : (s.updBlk b f).nextReq = s.nextReq := rfl
@[simp] theorem State.updBlk_waitReq (s : State) (b : Nat) (f : Block → Block) : (s.updBlk b f).waitReq = s.waitReq := rfl
@[simp] theorem State.updBlk_packets (s : State) (b : Nat) (f : Block → Block) : (s.updBlk b f).packets = s.packets := rfl
@[simp] theorem State.updBlk_gangs (s : State) (b : Nat) (f : Block → Block) : (s.updBlk b f).gangs = s.gangs := rfl
@[simp] theorem State.updBlk_pools (s : State) (b : Nat) (f : Block → Block) : (s.updBlk b f).pools = s.pools := rfl
@[simp] theorem State.updBlk_pkg (s : State) (b : Nat) (f : Block → Block) : (s.updBlk b f).pkg = s.pkg := rfl
@[simp] theorem State.updBlk_inbox (s : State) (b : Nat) (f : Block → Block) : (s.updBlk b f).inbox = s.inbox := rfl
@[simp] theorem State.updBlk_due (s : State) (b : Nat) (f : Block → Block) : (s.updBlk b f).due = s.due := rfl
@[simp] theorem State.updBlk_cur (s : State) (b : Nat) (f : Block → Block) : (s.updBlk b f).cur = s.cur := rfl
@[simp] theorem State.updBlk_reported (s : State) (b : Nat) (f : Block → Block) : (s.updBlk b f).reported = s.reported := rfl
@[simp] theorem State.updBlk_clock (s : State) (b : Nat) (f : Block → Block) : (s.updBlk b f).clock = s.clock := rfl
@[simp] theorem State.updBlk_free (s : State) (b : Nat) (f : Block → Block) : (s.updBlk b f).free = s.free := rfl
@[simp] theorem State.updBlk_fresh (s : State) (b : Nat) (f : Block → Block) : (s.updBlk b f).fresh = s.fresh := rfl
@[simp] theorem State.updBlk_out (s : State) (b : Nat) (f : Block → Block) : (s.updBlk b f).out = s.out := rfl

/-! ## State.updThread -/

@[simp] theorem State.updThread_mem (s : State) (t : ThreadRef) (f : Thread → Thread) : (s.updThread t f).mem = s.mem := rfl
@[simp] theorem State.updThread_poison (s : State) (t : ThreadRef) (f : Thread → Thread) : (s.updThread t f).poison = s.poison := rfl
@[simp] theorem State.updThread_sums (s : State) (t : ThreadRef) (f : Thread → Thread) : (s.updThread t f).sums = s.sums := rfl
@[simp] theorem State.updThread_blocks (s : State) (t : ThreadRef) (f : Thread → Thread) : (s.updThread t f).blocks = kupd s.blocks t.blk (fun b => b.updThread t.warp t.armE f) := rfl
@[simp] theorem State.updThread_cores (s : State) (t : ThreadRef) (f : Thread → Thread) : (s.updThread t f).cores = s.cores := rfl
@[simp] theorem State.updThread_l1 (s : State) (t : ThreadRef) (f : Thread → Thread) : (s.updThread t f).l1 = s.l1 := rfl
@[simp] theorem State.updThread_l2 (s : State) (t : ThreadRef) (f : Thread → Thread) : (s.updThread t f).l2 = s.l2 := rfl
@[simp] theorem State.updThread_tlb (s : State) (t : ThreadRef) (f : Thread → Thread) : (s.updThread t f).tlb = s.tlb := rfl
@[simp] theorem State.updThread_cds (s : State) (t : ThreadRef) (f : Thread → Thread) : (s.updThread t f).cds = s.cds := rfl
@[simp] theorem State.updThread_mds (s : State) (t : ThreadRef) (f : Thread → Thread) : (s.updThread t f).mds = s.mds := rfl
@[simp] theorem State.updThread_proxy (s : State) (t : ThreadRef) (f : Thread → Thread) : (s.updThread t f).proxy = s.proxy := rfl
@[simp] theorem State.updThread_clBars (s : State) (t : ThreadRef) (f : Thread → Thread) : (s.updThread t f).clBars = s.clBars := rfl
@[simp] theorem State.updThread_dieBars (s : State) (t : ThreadRef) (f : Thread → Thread) : (s.updThread t f).dieBars = s.dieBars := rfl
@[simp] theorem State.updThread_grBars (s : State) (t : ThreadRef) (f : Thread → Thread) : (s.updThread t f).grBars = s.grBars := rfl
@[simp] theorem State.updThread_places (s : State) (t : ThreadRef) (f : Thread → Thread) : (s.updThread t f).places = s.places := rfl
@[simp] theorem State.updThread_streams (s : State) (t : ThreadRef) (f : Thread → Thread) : (s.updThread t f).streams = s.streams := rfl
@[simp] theorem State.updThread_modCtr (s : State) (t : ThreadRef) (f : Thread → Thread) : (s.updThread t f).modCtr = s.modCtr := rfl
@[simp] theorem State.updThread_modErr (s : State) (t : ThreadRef) (f : Thread → Thread) : (s.updThread t f).modErr = s.modErr := rfl
@[simp] theorem State.updThread_idlePol (s : State) (t : ThreadRef) (f : Thread → Thread) : (s.updThread t f).idlePol = s.idlePol := rfl
@[simp] theorem State.updThread_filters (s : State) (t : ThreadRef) (f : Thread → Thread) : (s.updThread t f).filters = s.filters := rfl
@[simp] theorem State.updThread_nextReq (s : State) (t : ThreadRef) (f : Thread → Thread) : (s.updThread t f).nextReq = s.nextReq := rfl
@[simp] theorem State.updThread_waitReq (s : State) (t : ThreadRef) (f : Thread → Thread) : (s.updThread t f).waitReq = s.waitReq := rfl
@[simp] theorem State.updThread_packets (s : State) (t : ThreadRef) (f : Thread → Thread) : (s.updThread t f).packets = s.packets := rfl
@[simp] theorem State.updThread_gangs (s : State) (t : ThreadRef) (f : Thread → Thread) : (s.updThread t f).gangs = s.gangs := rfl
@[simp] theorem State.updThread_pools (s : State) (t : ThreadRef) (f : Thread → Thread) : (s.updThread t f).pools = s.pools := rfl
@[simp] theorem State.updThread_pkg (s : State) (t : ThreadRef) (f : Thread → Thread) : (s.updThread t f).pkg = s.pkg := rfl
@[simp] theorem State.updThread_inbox (s : State) (t : ThreadRef) (f : Thread → Thread) : (s.updThread t f).inbox = s.inbox := rfl
@[simp] theorem State.updThread_due (s : State) (t : ThreadRef) (f : Thread → Thread) : (s.updThread t f).due = s.due := rfl
@[simp] theorem State.updThread_cur (s : State) (t : ThreadRef) (f : Thread → Thread) : (s.updThread t f).cur = s.cur := rfl
@[simp] theorem State.updThread_reported (s : State) (t : ThreadRef) (f : Thread → Thread) : (s.updThread t f).reported = s.reported := rfl
@[simp] theorem State.updThread_clock (s : State) (t : ThreadRef) (f : Thread → Thread) : (s.updThread t f).clock = s.clock := rfl
@[simp] theorem State.updThread_free (s : State) (t : ThreadRef) (f : Thread → Thread) : (s.updThread t f).free = s.free := rfl
@[simp] theorem State.updThread_fresh (s : State) (t : ThreadRef) (f : Thread → Thread) : (s.updThread t f).fresh = s.fresh := rfl
@[simp] theorem State.updThread_out (s : State) (t : ThreadRef) (f : Thread → Thread) : (s.updThread t f).out = s.out := rfl

/-! ## State.updWarp -/

@[simp] theorem State.updWarp_mem (s : State) (t : ThreadRef) (f : Warp → Warp) : (s.updWarp t f).mem = s.mem := rfl
@[simp] theorem State.updWarp_poison (s : State) (t : ThreadRef) (f : Warp → Warp) : (s.updWarp t f).poison = s.poison := rfl
@[simp] theorem State.updWarp_sums (s : State) (t : ThreadRef) (f : Warp → Warp) : (s.updWarp t f).sums = s.sums := rfl
@[simp] theorem State.updWarp_blocks (s : State) (t : ThreadRef) (f : Warp → Warp) : (s.updWarp t f).blocks = kupd s.blocks t.blk (fun b => b.updWarp t.warp f) := rfl
@[simp] theorem State.updWarp_cores (s : State) (t : ThreadRef) (f : Warp → Warp) : (s.updWarp t f).cores = s.cores := rfl
@[simp] theorem State.updWarp_l1 (s : State) (t : ThreadRef) (f : Warp → Warp) : (s.updWarp t f).l1 = s.l1 := rfl
@[simp] theorem State.updWarp_l2 (s : State) (t : ThreadRef) (f : Warp → Warp) : (s.updWarp t f).l2 = s.l2 := rfl
@[simp] theorem State.updWarp_tlb (s : State) (t : ThreadRef) (f : Warp → Warp) : (s.updWarp t f).tlb = s.tlb := rfl
@[simp] theorem State.updWarp_cds (s : State) (t : ThreadRef) (f : Warp → Warp) : (s.updWarp t f).cds = s.cds := rfl
@[simp] theorem State.updWarp_mds (s : State) (t : ThreadRef) (f : Warp → Warp) : (s.updWarp t f).mds = s.mds := rfl
@[simp] theorem State.updWarp_proxy (s : State) (t : ThreadRef) (f : Warp → Warp) : (s.updWarp t f).proxy = s.proxy := rfl
@[simp] theorem State.updWarp_clBars (s : State) (t : ThreadRef) (f : Warp → Warp) : (s.updWarp t f).clBars = s.clBars := rfl
@[simp] theorem State.updWarp_dieBars (s : State) (t : ThreadRef) (f : Warp → Warp) : (s.updWarp t f).dieBars = s.dieBars := rfl
@[simp] theorem State.updWarp_grBars (s : State) (t : ThreadRef) (f : Warp → Warp) : (s.updWarp t f).grBars = s.grBars := rfl
@[simp] theorem State.updWarp_places (s : State) (t : ThreadRef) (f : Warp → Warp) : (s.updWarp t f).places = s.places := rfl
@[simp] theorem State.updWarp_streams (s : State) (t : ThreadRef) (f : Warp → Warp) : (s.updWarp t f).streams = s.streams := rfl
@[simp] theorem State.updWarp_modCtr (s : State) (t : ThreadRef) (f : Warp → Warp) : (s.updWarp t f).modCtr = s.modCtr := rfl
@[simp] theorem State.updWarp_modErr (s : State) (t : ThreadRef) (f : Warp → Warp) : (s.updWarp t f).modErr = s.modErr := rfl
@[simp] theorem State.updWarp_idlePol (s : State) (t : ThreadRef) (f : Warp → Warp) : (s.updWarp t f).idlePol = s.idlePol := rfl
@[simp] theorem State.updWarp_filters (s : State) (t : ThreadRef) (f : Warp → Warp) : (s.updWarp t f).filters = s.filters := rfl
@[simp] theorem State.updWarp_nextReq (s : State) (t : ThreadRef) (f : Warp → Warp) : (s.updWarp t f).nextReq = s.nextReq := rfl
@[simp] theorem State.updWarp_waitReq (s : State) (t : ThreadRef) (f : Warp → Warp) : (s.updWarp t f).waitReq = s.waitReq := rfl
@[simp] theorem State.updWarp_packets (s : State) (t : ThreadRef) (f : Warp → Warp) : (s.updWarp t f).packets = s.packets := rfl
@[simp] theorem State.updWarp_gangs (s : State) (t : ThreadRef) (f : Warp → Warp) : (s.updWarp t f).gangs = s.gangs := rfl
@[simp] theorem State.updWarp_pools (s : State) (t : ThreadRef) (f : Warp → Warp) : (s.updWarp t f).pools = s.pools := rfl
@[simp] theorem State.updWarp_pkg (s : State) (t : ThreadRef) (f : Warp → Warp) : (s.updWarp t f).pkg = s.pkg := rfl
@[simp] theorem State.updWarp_inbox (s : State) (t : ThreadRef) (f : Warp → Warp) : (s.updWarp t f).inbox = s.inbox := rfl
@[simp] theorem State.updWarp_due (s : State) (t : ThreadRef) (f : Warp → Warp) : (s.updWarp t f).due = s.due := rfl
@[simp] theorem State.updWarp_cur (s : State) (t : ThreadRef) (f : Warp → Warp) : (s.updWarp t f).cur = s.cur := rfl
@[simp] theorem State.updWarp_reported (s : State) (t : ThreadRef) (f : Warp → Warp) : (s.updWarp t f).reported = s.reported := rfl
@[simp] theorem State.updWarp_clock (s : State) (t : ThreadRef) (f : Warp → Warp) : (s.updWarp t f).clock = s.clock := rfl
@[simp] theorem State.updWarp_free (s : State) (t : ThreadRef) (f : Warp → Warp) : (s.updWarp t f).free = s.free := rfl
@[simp] theorem State.updWarp_fresh (s : State) (t : ThreadRef) (f : Warp → Warp) : (s.updWarp t f).fresh = s.fresh := rfl
@[simp] theorem State.updWarp_out (s : State) (t : ThreadRef) (f : Warp → Warp) : (s.updWarp t f).out = s.out := rfl

/-! ## State.updFront -/

@[simp] theorem State.updFront_mem (s : State) (b : Nat) (f : Front → Front) : (s.updFront b f).mem = s.mem := rfl
@[simp] theorem State.updFront_poison (s : State) (b : Nat) (f : Front → Front) : (s.updFront b f).poison = s.poison := rfl
@[simp] theorem State.updFront_sums (s : State) (b : Nat) (f : Front → Front) : (s.updFront b f).sums = s.sums := rfl
@[simp] theorem State.updFront_cores (s : State) (b : Nat) (f : Front → Front) : (s.updFront b f).cores = s.cores := rfl
@[simp] theorem State.updFront_l1 (s : State) (b : Nat) (f : Front → Front) : (s.updFront b f).l1 = s.l1 := rfl
@[simp] theorem State.updFront_l2 (s : State) (b : Nat) (f : Front → Front) : (s.updFront b f).l2 = s.l2 := rfl
@[simp] theorem State.updFront_tlb (s : State) (b : Nat) (f : Front → Front) : (s.updFront b f).tlb = s.tlb := rfl
@[simp] theorem State.updFront_cds (s : State) (b : Nat) (f : Front → Front) : (s.updFront b f).cds = s.cds := rfl
@[simp] theorem State.updFront_mds (s : State) (b : Nat) (f : Front → Front) : (s.updFront b f).mds = s.mds := rfl
@[simp] theorem State.updFront_proxy (s : State) (b : Nat) (f : Front → Front) : (s.updFront b f).proxy = s.proxy := rfl
@[simp] theorem State.updFront_clBars (s : State) (b : Nat) (f : Front → Front) : (s.updFront b f).clBars = s.clBars := rfl
@[simp] theorem State.updFront_dieBars (s : State) (b : Nat) (f : Front → Front) : (s.updFront b f).dieBars = s.dieBars := rfl
@[simp] theorem State.updFront_grBars (s : State) (b : Nat) (f : Front → Front) : (s.updFront b f).grBars = s.grBars := rfl
@[simp] theorem State.updFront_places (s : State) (b : Nat) (f : Front → Front) : (s.updFront b f).places = s.places := rfl
@[simp] theorem State.updFront_streams (s : State) (b : Nat) (f : Front → Front) : (s.updFront b f).streams = s.streams := rfl
@[simp] theorem State.updFront_modCtr (s : State) (b : Nat) (f : Front → Front) : (s.updFront b f).modCtr = s.modCtr := rfl
@[simp] theorem State.updFront_modErr (s : State) (b : Nat) (f : Front → Front) : (s.updFront b f).modErr = s.modErr := rfl
@[simp] theorem State.updFront_idlePol (s : State) (b : Nat) (f : Front → Front) : (s.updFront b f).idlePol = s.idlePol := rfl
@[simp] theorem State.updFront_filters (s : State) (b : Nat) (f : Front → Front) : (s.updFront b f).filters = s.filters := rfl
@[simp] theorem State.updFront_nextReq (s : State) (b : Nat) (f : Front → Front) : (s.updFront b f).nextReq = s.nextReq := rfl
@[simp] theorem State.updFront_waitReq (s : State) (b : Nat) (f : Front → Front) : (s.updFront b f).waitReq = s.waitReq := rfl
@[simp] theorem State.updFront_packets (s : State) (b : Nat) (f : Front → Front) : (s.updFront b f).packets = s.packets := rfl
@[simp] theorem State.updFront_gangs (s : State) (b : Nat) (f : Front → Front) : (s.updFront b f).gangs = s.gangs := rfl
@[simp] theorem State.updFront_pools (s : State) (b : Nat) (f : Front → Front) : (s.updFront b f).pools = s.pools := rfl
@[simp] theorem State.updFront_pkg (s : State) (b : Nat) (f : Front → Front) : (s.updFront b f).pkg = s.pkg := rfl
@[simp] theorem State.updFront_inbox (s : State) (b : Nat) (f : Front → Front) : (s.updFront b f).inbox = s.inbox := rfl
@[simp] theorem State.updFront_due (s : State) (b : Nat) (f : Front → Front) : (s.updFront b f).due = s.due := rfl
@[simp] theorem State.updFront_cur (s : State) (b : Nat) (f : Front → Front) : (s.updFront b f).cur = s.cur := rfl
@[simp] theorem State.updFront_reported (s : State) (b : Nat) (f : Front → Front) : (s.updFront b f).reported = s.reported := rfl
@[simp] theorem State.updFront_clock (s : State) (b : Nat) (f : Front → Front) : (s.updFront b f).clock = s.clock := rfl
@[simp] theorem State.updFront_free (s : State) (b : Nat) (f : Front → Front) : (s.updFront b f).free = s.free := rfl
@[simp] theorem State.updFront_fresh (s : State) (b : Nat) (f : Front → Front) : (s.updFront b f).fresh = s.fresh := rfl
@[simp] theorem State.updFront_out (s : State) (b : Nat) (f : Front → Front) : (s.updFront b f).out = s.out := rfl

/-! ## State.setHold -/

@[simp] theorem State.setHold_mem (s : State) (t : ThreadRef) (h : Option Hold) : (s.setHold t h).mem = s.mem := rfl
@[simp] theorem State.setHold_poison (s : State) (t : ThreadRef) (h : Option Hold) : (s.setHold t h).poison = s.poison := rfl
@[simp] theorem State.setHold_sums (s : State) (t : ThreadRef) (h : Option Hold) : (s.setHold t h).sums = s.sums := rfl
@[simp] theorem State.setHold_cores (s : State) (t : ThreadRef) (h : Option Hold) : (s.setHold t h).cores = s.cores := rfl
@[simp] theorem State.setHold_l1 (s : State) (t : ThreadRef) (h : Option Hold) : (s.setHold t h).l1 = s.l1 := rfl
@[simp] theorem State.setHold_l2 (s : State) (t : ThreadRef) (h : Option Hold) : (s.setHold t h).l2 = s.l2 := rfl
@[simp] theorem State.setHold_tlb (s : State) (t : ThreadRef) (h : Option Hold) : (s.setHold t h).tlb = s.tlb := rfl
@[simp] theorem State.setHold_cds (s : State) (t : ThreadRef) (h : Option Hold) : (s.setHold t h).cds = s.cds := rfl
@[simp] theorem State.setHold_mds (s : State) (t : ThreadRef) (h : Option Hold) : (s.setHold t h).mds = s.mds := rfl
@[simp] theorem State.setHold_proxy (s : State) (t : ThreadRef) (h : Option Hold) : (s.setHold t h).proxy = s.proxy := rfl
@[simp] theorem State.setHold_clBars (s : State) (t : ThreadRef) (h : Option Hold) : (s.setHold t h).clBars = s.clBars := rfl
@[simp] theorem State.setHold_dieBars (s : State) (t : ThreadRef) (h : Option Hold) : (s.setHold t h).dieBars = s.dieBars := rfl
@[simp] theorem State.setHold_grBars (s : State) (t : ThreadRef) (h : Option Hold) : (s.setHold t h).grBars = s.grBars := rfl
@[simp] theorem State.setHold_places (s : State) (t : ThreadRef) (h : Option Hold) : (s.setHold t h).places = s.places := rfl
@[simp] theorem State.setHold_streams (s : State) (t : ThreadRef) (h : Option Hold) : (s.setHold t h).streams = s.streams := rfl
@[simp] theorem State.setHold_modCtr (s : State) (t : ThreadRef) (h : Option Hold) : (s.setHold t h).modCtr = s.modCtr := rfl
@[simp] theorem State.setHold_modErr (s : State) (t : ThreadRef) (h : Option Hold) : (s.setHold t h).modErr = s.modErr := rfl
@[simp] theorem State.setHold_idlePol (s : State) (t : ThreadRef) (h : Option Hold) : (s.setHold t h).idlePol = s.idlePol := rfl
@[simp] theorem State.setHold_filters (s : State) (t : ThreadRef) (h : Option Hold) : (s.setHold t h).filters = s.filters := rfl
@[simp] theorem State.setHold_nextReq (s : State) (t : ThreadRef) (h : Option Hold) : (s.setHold t h).nextReq = s.nextReq := rfl
@[simp] theorem State.setHold_waitReq (s : State) (t : ThreadRef) (h : Option Hold) : (s.setHold t h).waitReq = s.waitReq := rfl
@[simp] theorem State.setHold_packets (s : State) (t : ThreadRef) (h : Option Hold) : (s.setHold t h).packets = s.packets := rfl
@[simp] theorem State.setHold_gangs (s : State) (t : ThreadRef) (h : Option Hold) : (s.setHold t h).gangs = s.gangs := rfl
@[simp] theorem State.setHold_pools (s : State) (t : ThreadRef) (h : Option Hold) : (s.setHold t h).pools = s.pools := rfl
@[simp] theorem State.setHold_pkg (s : State) (t : ThreadRef) (h : Option Hold) : (s.setHold t h).pkg = s.pkg := rfl
@[simp] theorem State.setHold_inbox (s : State) (t : ThreadRef) (h : Option Hold) : (s.setHold t h).inbox = s.inbox := rfl
@[simp] theorem State.setHold_due (s : State) (t : ThreadRef) (h : Option Hold) : (s.setHold t h).due = s.due := rfl
@[simp] theorem State.setHold_cur (s : State) (t : ThreadRef) (h : Option Hold) : (s.setHold t h).cur = s.cur := rfl
@[simp] theorem State.setHold_reported (s : State) (t : ThreadRef) (h : Option Hold) : (s.setHold t h).reported = s.reported := rfl
@[simp] theorem State.setHold_clock (s : State) (t : ThreadRef) (h : Option Hold) : (s.setHold t h).clock = s.clock := rfl
@[simp] theorem State.setHold_free (s : State) (t : ThreadRef) (h : Option Hold) : (s.setHold t h).free = s.free := rfl
@[simp] theorem State.setHold_fresh (s : State) (t : ThreadRef) (h : Option Hold) : (s.setHold t h).fresh = s.fresh := rfl
@[simp] theorem State.setHold_out (s : State) (t : ThreadRef) (h : Option Hold) : (s.setHold t h).out = s.out := rfl

/-! ## State.unhold -/

@[simp] theorem State.unhold_mem (s : State) (t : ThreadRef) : (s.unhold t).mem = s.mem := rfl
@[simp] theorem State.unhold_poison (s : State) (t : ThreadRef) : (s.unhold t).poison = s.poison := rfl
@[simp] theorem State.unhold_sums (s : State) (t : ThreadRef) : (s.unhold t).sums = s.sums := rfl
@[simp] theorem State.unhold_cores (s : State) (t : ThreadRef) : (s.unhold t).cores = s.cores := rfl
@[simp] theorem State.unhold_l1 (s : State) (t : ThreadRef) : (s.unhold t).l1 = s.l1 := rfl
@[simp] theorem State.unhold_l2 (s : State) (t : ThreadRef) : (s.unhold t).l2 = s.l2 := rfl
@[simp] theorem State.unhold_tlb (s : State) (t : ThreadRef) : (s.unhold t).tlb = s.tlb := rfl
@[simp] theorem State.unhold_cds (s : State) (t : ThreadRef) : (s.unhold t).cds = s.cds := rfl
@[simp] theorem State.unhold_mds (s : State) (t : ThreadRef) : (s.unhold t).mds = s.mds := rfl
@[simp] theorem State.unhold_proxy (s : State) (t : ThreadRef) : (s.unhold t).proxy = s.proxy := rfl
@[simp] theorem State.unhold_clBars (s : State) (t : ThreadRef) : (s.unhold t).clBars = s.clBars := rfl
@[simp] theorem State.unhold_dieBars (s : State) (t : ThreadRef) : (s.unhold t).dieBars = s.dieBars := rfl
@[simp] theorem State.unhold_grBars (s : State) (t : ThreadRef) : (s.unhold t).grBars = s.grBars := rfl
@[simp] theorem State.unhold_places (s : State) (t : ThreadRef) : (s.unhold t).places = s.places := rfl
@[simp] theorem State.unhold_streams (s : State) (t : ThreadRef) : (s.unhold t).streams = s.streams := rfl
@[simp] theorem State.unhold_modCtr (s : State) (t : ThreadRef) : (s.unhold t).modCtr = s.modCtr := rfl
@[simp] theorem State.unhold_modErr (s : State) (t : ThreadRef) : (s.unhold t).modErr = s.modErr := rfl
@[simp] theorem State.unhold_idlePol (s : State) (t : ThreadRef) : (s.unhold t).idlePol = s.idlePol := rfl
@[simp] theorem State.unhold_filters (s : State) (t : ThreadRef) : (s.unhold t).filters = s.filters := rfl
@[simp] theorem State.unhold_nextReq (s : State) (t : ThreadRef) : (s.unhold t).nextReq = s.nextReq := rfl
@[simp] theorem State.unhold_waitReq (s : State) (t : ThreadRef) : (s.unhold t).waitReq = s.waitReq := rfl
@[simp] theorem State.unhold_packets (s : State) (t : ThreadRef) : (s.unhold t).packets = s.packets := rfl
@[simp] theorem State.unhold_gangs (s : State) (t : ThreadRef) : (s.unhold t).gangs = s.gangs := rfl
@[simp] theorem State.unhold_pools (s : State) (t : ThreadRef) : (s.unhold t).pools = s.pools := rfl
@[simp] theorem State.unhold_pkg (s : State) (t : ThreadRef) : (s.unhold t).pkg = s.pkg := rfl
@[simp] theorem State.unhold_inbox (s : State) (t : ThreadRef) : (s.unhold t).inbox = s.inbox := rfl
@[simp] theorem State.unhold_due (s : State) (t : ThreadRef) : (s.unhold t).due = s.due := rfl
@[simp] theorem State.unhold_cur (s : State) (t : ThreadRef) : (s.unhold t).cur = s.cur := rfl
@[simp] theorem State.unhold_reported (s : State) (t : ThreadRef) : (s.unhold t).reported = s.reported := rfl
@[simp] theorem State.unhold_clock (s : State) (t : ThreadRef) : (s.unhold t).clock = s.clock := rfl
@[simp] theorem State.unhold_free (s : State) (t : ThreadRef) : (s.unhold t).free = s.free := rfl
@[simp] theorem State.unhold_fresh (s : State) (t : ThreadRef) : (s.unhold t).fresh = s.fresh := rfl
@[simp] theorem State.unhold_out (s : State) (t : ThreadRef) : (s.unhold t).out = s.out := rfl

/-! ## State.answer -/

@[simp] theorem State.answer_mem (s : State) (t : ThreadRef) (v : List DWord) : (s.answer t v).mem = s.mem := rfl
@[simp] theorem State.answer_poison (s : State) (t : ThreadRef) (v : List DWord) : (s.answer t v).poison = s.poison := rfl
@[simp] theorem State.answer_sums (s : State) (t : ThreadRef) (v : List DWord) : (s.answer t v).sums = s.sums := rfl
@[simp] theorem State.answer_cores (s : State) (t : ThreadRef) (v : List DWord) : (s.answer t v).cores = s.cores := rfl
@[simp] theorem State.answer_l1 (s : State) (t : ThreadRef) (v : List DWord) : (s.answer t v).l1 = s.l1 := rfl
@[simp] theorem State.answer_l2 (s : State) (t : ThreadRef) (v : List DWord) : (s.answer t v).l2 = s.l2 := rfl
@[simp] theorem State.answer_tlb (s : State) (t : ThreadRef) (v : List DWord) : (s.answer t v).tlb = s.tlb := rfl
@[simp] theorem State.answer_cds (s : State) (t : ThreadRef) (v : List DWord) : (s.answer t v).cds = s.cds := rfl
@[simp] theorem State.answer_mds (s : State) (t : ThreadRef) (v : List DWord) : (s.answer t v).mds = s.mds := rfl
@[simp] theorem State.answer_proxy (s : State) (t : ThreadRef) (v : List DWord) : (s.answer t v).proxy = s.proxy := rfl
@[simp] theorem State.answer_clBars (s : State) (t : ThreadRef) (v : List DWord) : (s.answer t v).clBars = s.clBars := rfl
@[simp] theorem State.answer_dieBars (s : State) (t : ThreadRef) (v : List DWord) : (s.answer t v).dieBars = s.dieBars := rfl
@[simp] theorem State.answer_grBars (s : State) (t : ThreadRef) (v : List DWord) : (s.answer t v).grBars = s.grBars := rfl
@[simp] theorem State.answer_places (s : State) (t : ThreadRef) (v : List DWord) : (s.answer t v).places = s.places := rfl
@[simp] theorem State.answer_streams (s : State) (t : ThreadRef) (v : List DWord) : (s.answer t v).streams = s.streams := rfl
@[simp] theorem State.answer_modCtr (s : State) (t : ThreadRef) (v : List DWord) : (s.answer t v).modCtr = s.modCtr := rfl
@[simp] theorem State.answer_modErr (s : State) (t : ThreadRef) (v : List DWord) : (s.answer t v).modErr = s.modErr := rfl
@[simp] theorem State.answer_idlePol (s : State) (t : ThreadRef) (v : List DWord) : (s.answer t v).idlePol = s.idlePol := rfl
@[simp] theorem State.answer_filters (s : State) (t : ThreadRef) (v : List DWord) : (s.answer t v).filters = s.filters := rfl
@[simp] theorem State.answer_nextReq (s : State) (t : ThreadRef) (v : List DWord) : (s.answer t v).nextReq = s.nextReq := rfl
@[simp] theorem State.answer_waitReq (s : State) (t : ThreadRef) (v : List DWord) : (s.answer t v).waitReq = s.waitReq := rfl
@[simp] theorem State.answer_packets (s : State) (t : ThreadRef) (v : List DWord) : (s.answer t v).packets = s.packets := rfl
@[simp] theorem State.answer_gangs (s : State) (t : ThreadRef) (v : List DWord) : (s.answer t v).gangs = s.gangs := rfl
@[simp] theorem State.answer_pools (s : State) (t : ThreadRef) (v : List DWord) : (s.answer t v).pools = s.pools := rfl
@[simp] theorem State.answer_pkg (s : State) (t : ThreadRef) (v : List DWord) : (s.answer t v).pkg = s.pkg := rfl
@[simp] theorem State.answer_inbox (s : State) (t : ThreadRef) (v : List DWord) : (s.answer t v).inbox = s.inbox := rfl
@[simp] theorem State.answer_due (s : State) (t : ThreadRef) (v : List DWord) : (s.answer t v).due = s.due := rfl
@[simp] theorem State.answer_cur (s : State) (t : ThreadRef) (v : List DWord) : (s.answer t v).cur = s.cur := rfl
@[simp] theorem State.answer_reported (s : State) (t : ThreadRef) (v : List DWord) : (s.answer t v).reported = s.reported := rfl
@[simp] theorem State.answer_clock (s : State) (t : ThreadRef) (v : List DWord) : (s.answer t v).clock = s.clock := rfl
@[simp] theorem State.answer_free (s : State) (t : ThreadRef) (v : List DWord) : (s.answer t v).free = s.free := rfl
@[simp] theorem State.answer_fresh (s : State) (t : ThreadRef) (v : List DWord) : (s.answer t v).fresh = s.fresh := rfl
@[simp] theorem State.answer_out (s : State) (t : ThreadRef) (v : List DWord) : (s.answer t v).out = s.out := rfl

/-! ## State.setPkg -/

@[simp] theorem State.setPkg_mem (s : State) (f : Pkg → Pkg) : (s.setPkg f).mem = s.mem := rfl
@[simp] theorem State.setPkg_poison (s : State) (f : Pkg → Pkg) : (s.setPkg f).poison = s.poison := rfl
@[simp] theorem State.setPkg_sums (s : State) (f : Pkg → Pkg) : (s.setPkg f).sums = s.sums := rfl
@[simp] theorem State.setPkg_blocks (s : State) (f : Pkg → Pkg) : (s.setPkg f).blocks = s.blocks := rfl
@[simp] theorem State.setPkg_cores (s : State) (f : Pkg → Pkg) : (s.setPkg f).cores = s.cores := rfl
@[simp] theorem State.setPkg_l1 (s : State) (f : Pkg → Pkg) : (s.setPkg f).l1 = s.l1 := rfl
@[simp] theorem State.setPkg_l2 (s : State) (f : Pkg → Pkg) : (s.setPkg f).l2 = s.l2 := rfl
@[simp] theorem State.setPkg_tlb (s : State) (f : Pkg → Pkg) : (s.setPkg f).tlb = s.tlb := rfl
@[simp] theorem State.setPkg_cds (s : State) (f : Pkg → Pkg) : (s.setPkg f).cds = s.cds := rfl
@[simp] theorem State.setPkg_mds (s : State) (f : Pkg → Pkg) : (s.setPkg f).mds = s.mds := rfl
@[simp] theorem State.setPkg_proxy (s : State) (f : Pkg → Pkg) : (s.setPkg f).proxy = s.proxy := rfl
@[simp] theorem State.setPkg_clBars (s : State) (f : Pkg → Pkg) : (s.setPkg f).clBars = s.clBars := rfl
@[simp] theorem State.setPkg_dieBars (s : State) (f : Pkg → Pkg) : (s.setPkg f).dieBars = s.dieBars := rfl
@[simp] theorem State.setPkg_grBars (s : State) (f : Pkg → Pkg) : (s.setPkg f).grBars = s.grBars := rfl
@[simp] theorem State.setPkg_places (s : State) (f : Pkg → Pkg) : (s.setPkg f).places = s.places := rfl
@[simp] theorem State.setPkg_streams (s : State) (f : Pkg → Pkg) : (s.setPkg f).streams = s.streams := rfl
@[simp] theorem State.setPkg_modCtr (s : State) (f : Pkg → Pkg) : (s.setPkg f).modCtr = s.modCtr := rfl
@[simp] theorem State.setPkg_modErr (s : State) (f : Pkg → Pkg) : (s.setPkg f).modErr = s.modErr := rfl
@[simp] theorem State.setPkg_idlePol (s : State) (f : Pkg → Pkg) : (s.setPkg f).idlePol = s.idlePol := rfl
@[simp] theorem State.setPkg_filters (s : State) (f : Pkg → Pkg) : (s.setPkg f).filters = s.filters := rfl
@[simp] theorem State.setPkg_nextReq (s : State) (f : Pkg → Pkg) : (s.setPkg f).nextReq = s.nextReq := rfl
@[simp] theorem State.setPkg_waitReq (s : State) (f : Pkg → Pkg) : (s.setPkg f).waitReq = s.waitReq := rfl
@[simp] theorem State.setPkg_packets (s : State) (f : Pkg → Pkg) : (s.setPkg f).packets = s.packets := rfl
@[simp] theorem State.setPkg_gangs (s : State) (f : Pkg → Pkg) : (s.setPkg f).gangs = s.gangs := rfl
@[simp] theorem State.setPkg_pools (s : State) (f : Pkg → Pkg) : (s.setPkg f).pools = s.pools := rfl
@[simp] theorem State.setPkg_pkg (s : State) (f : Pkg → Pkg) : (s.setPkg f).pkg = f s.pkg := rfl
@[simp] theorem State.setPkg_inbox (s : State) (f : Pkg → Pkg) : (s.setPkg f).inbox = s.inbox := rfl
@[simp] theorem State.setPkg_due (s : State) (f : Pkg → Pkg) : (s.setPkg f).due = s.due := rfl
@[simp] theorem State.setPkg_cur (s : State) (f : Pkg → Pkg) : (s.setPkg f).cur = s.cur := rfl
@[simp] theorem State.setPkg_reported (s : State) (f : Pkg → Pkg) : (s.setPkg f).reported = s.reported := rfl
@[simp] theorem State.setPkg_clock (s : State) (f : Pkg → Pkg) : (s.setPkg f).clock = s.clock := rfl
@[simp] theorem State.setPkg_free (s : State) (f : Pkg → Pkg) : (s.setPkg f).free = s.free := rfl
@[simp] theorem State.setPkg_fresh (s : State) (f : Pkg → Pkg) : (s.setPkg f).fresh = s.fresh := rfl
@[simp] theorem State.setPkg_out (s : State) (f : Pkg → Pkg) : (s.setPkg f).out = s.out := rfl

/-! ## State.updStream -/

@[simp] theorem State.updStream_mem (s : State) (k : Nat) (f : Stream → Stream) : (s.updStream k f).mem = s.mem := rfl
@[simp] theorem State.updStream_poison (s : State) (k : Nat) (f : Stream → Stream) : (s.updStream k f).poison = s.poison := rfl
@[simp] theorem State.updStream_sums (s : State) (k : Nat) (f : Stream → Stream) : (s.updStream k f).sums = s.sums := rfl
@[simp] theorem State.updStream_blocks (s : State) (k : Nat) (f : Stream → Stream) : (s.updStream k f).blocks = s.blocks := rfl
@[simp] theorem State.updStream_cores (s : State) (k : Nat) (f : Stream → Stream) : (s.updStream k f).cores = s.cores := rfl
@[simp] theorem State.updStream_l1 (s : State) (k : Nat) (f : Stream → Stream) : (s.updStream k f).l1 = s.l1 := rfl
@[simp] theorem State.updStream_l2 (s : State) (k : Nat) (f : Stream → Stream) : (s.updStream k f).l2 = s.l2 := rfl
@[simp] theorem State.updStream_tlb (s : State) (k : Nat) (f : Stream → Stream) : (s.updStream k f).tlb = s.tlb := rfl
@[simp] theorem State.updStream_cds (s : State) (k : Nat) (f : Stream → Stream) : (s.updStream k f).cds = s.cds := rfl
@[simp] theorem State.updStream_mds (s : State) (k : Nat) (f : Stream → Stream) : (s.updStream k f).mds = s.mds := rfl
@[simp] theorem State.updStream_proxy (s : State) (k : Nat) (f : Stream → Stream) : (s.updStream k f).proxy = s.proxy := rfl
@[simp] theorem State.updStream_clBars (s : State) (k : Nat) (f : Stream → Stream) : (s.updStream k f).clBars = s.clBars := rfl
@[simp] theorem State.updStream_dieBars (s : State) (k : Nat) (f : Stream → Stream) : (s.updStream k f).dieBars = s.dieBars := rfl
@[simp] theorem State.updStream_grBars (s : State) (k : Nat) (f : Stream → Stream) : (s.updStream k f).grBars = s.grBars := rfl
@[simp] theorem State.updStream_places (s : State) (k : Nat) (f : Stream → Stream) : (s.updStream k f).places = s.places := rfl
@[simp] theorem State.updStream_streams (s : State) (k : Nat) (f : Stream → Stream) : (s.updStream k f).streams = kset s.streams k (f (s.stream k)) := rfl
@[simp] theorem State.updStream_modCtr (s : State) (k : Nat) (f : Stream → Stream) : (s.updStream k f).modCtr = s.modCtr := rfl
@[simp] theorem State.updStream_modErr (s : State) (k : Nat) (f : Stream → Stream) : (s.updStream k f).modErr = s.modErr := rfl
@[simp] theorem State.updStream_idlePol (s : State) (k : Nat) (f : Stream → Stream) : (s.updStream k f).idlePol = s.idlePol := rfl
@[simp] theorem State.updStream_filters (s : State) (k : Nat) (f : Stream → Stream) : (s.updStream k f).filters = s.filters := rfl
@[simp] theorem State.updStream_nextReq (s : State) (k : Nat) (f : Stream → Stream) : (s.updStream k f).nextReq = s.nextReq := rfl
@[simp] theorem State.updStream_waitReq (s : State) (k : Nat) (f : Stream → Stream) : (s.updStream k f).waitReq = s.waitReq := rfl
@[simp] theorem State.updStream_packets (s : State) (k : Nat) (f : Stream → Stream) : (s.updStream k f).packets = s.packets := rfl
@[simp] theorem State.updStream_gangs (s : State) (k : Nat) (f : Stream → Stream) : (s.updStream k f).gangs = s.gangs := rfl
@[simp] theorem State.updStream_pools (s : State) (k : Nat) (f : Stream → Stream) : (s.updStream k f).pools = s.pools := rfl
@[simp] theorem State.updStream_pkg (s : State) (k : Nat) (f : Stream → Stream) : (s.updStream k f).pkg = s.pkg := rfl
@[simp] theorem State.updStream_inbox (s : State) (k : Nat) (f : Stream → Stream) : (s.updStream k f).inbox = s.inbox := rfl
@[simp] theorem State.updStream_due (s : State) (k : Nat) (f : Stream → Stream) : (s.updStream k f).due = s.due := rfl
@[simp] theorem State.updStream_cur (s : State) (k : Nat) (f : Stream → Stream) : (s.updStream k f).cur = s.cur := rfl
@[simp] theorem State.updStream_reported (s : State) (k : Nat) (f : Stream → Stream) : (s.updStream k f).reported = s.reported := rfl
@[simp] theorem State.updStream_clock (s : State) (k : Nat) (f : Stream → Stream) : (s.updStream k f).clock = s.clock := rfl
@[simp] theorem State.updStream_free (s : State) (k : Nat) (f : Stream → Stream) : (s.updStream k f).free = s.free := rfl
@[simp] theorem State.updStream_fresh (s : State) (k : Nat) (f : Stream → Stream) : (s.updStream k f).fresh = s.fresh := rfl
@[simp] theorem State.updStream_out (s : State) (k : Nat) (f : Stream → Stream) : (s.updStream k f).out = s.out := rfl

/-! ## State.setCdReg -/

@[simp] theorem State.setCdReg_mem (s : State) (d n : Nat) (v : DWord) : (s.setCdReg d n v).mem = s.mem := rfl
@[simp] theorem State.setCdReg_poison (s : State) (d n : Nat) (v : DWord) : (s.setCdReg d n v).poison = s.poison := rfl
@[simp] theorem State.setCdReg_sums (s : State) (d n : Nat) (v : DWord) : (s.setCdReg d n v).sums = s.sums := rfl
@[simp] theorem State.setCdReg_blocks (s : State) (d n : Nat) (v : DWord) : (s.setCdReg d n v).blocks = s.blocks := rfl
@[simp] theorem State.setCdReg_cores (s : State) (d n : Nat) (v : DWord) : (s.setCdReg d n v).cores = s.cores := rfl
@[simp] theorem State.setCdReg_l1 (s : State) (d n : Nat) (v : DWord) : (s.setCdReg d n v).l1 = s.l1 := rfl
@[simp] theorem State.setCdReg_l2 (s : State) (d n : Nat) (v : DWord) : (s.setCdReg d n v).l2 = s.l2 := rfl
@[simp] theorem State.setCdReg_tlb (s : State) (d n : Nat) (v : DWord) : (s.setCdReg d n v).tlb = s.tlb := rfl
@[simp] theorem State.setCdReg_mds (s : State) (d n : Nat) (v : DWord) : (s.setCdReg d n v).mds = s.mds := rfl
@[simp] theorem State.setCdReg_proxy (s : State) (d n : Nat) (v : DWord) : (s.setCdReg d n v).proxy = s.proxy := rfl
@[simp] theorem State.setCdReg_clBars (s : State) (d n : Nat) (v : DWord) : (s.setCdReg d n v).clBars = s.clBars := rfl
@[simp] theorem State.setCdReg_dieBars (s : State) (d n : Nat) (v : DWord) : (s.setCdReg d n v).dieBars = s.dieBars := rfl
@[simp] theorem State.setCdReg_grBars (s : State) (d n : Nat) (v : DWord) : (s.setCdReg d n v).grBars = s.grBars := rfl
@[simp] theorem State.setCdReg_places (s : State) (d n : Nat) (v : DWord) : (s.setCdReg d n v).places = s.places := rfl
@[simp] theorem State.setCdReg_streams (s : State) (d n : Nat) (v : DWord) : (s.setCdReg d n v).streams = s.streams := rfl
@[simp] theorem State.setCdReg_modCtr (s : State) (d n : Nat) (v : DWord) : (s.setCdReg d n v).modCtr = s.modCtr := rfl
@[simp] theorem State.setCdReg_modErr (s : State) (d n : Nat) (v : DWord) : (s.setCdReg d n v).modErr = s.modErr := rfl
@[simp] theorem State.setCdReg_idlePol (s : State) (d n : Nat) (v : DWord) : (s.setCdReg d n v).idlePol = s.idlePol := rfl
@[simp] theorem State.setCdReg_filters (s : State) (d n : Nat) (v : DWord) : (s.setCdReg d n v).filters = s.filters := rfl
@[simp] theorem State.setCdReg_nextReq (s : State) (d n : Nat) (v : DWord) : (s.setCdReg d n v).nextReq = s.nextReq := rfl
@[simp] theorem State.setCdReg_waitReq (s : State) (d n : Nat) (v : DWord) : (s.setCdReg d n v).waitReq = s.waitReq := rfl
@[simp] theorem State.setCdReg_packets (s : State) (d n : Nat) (v : DWord) : (s.setCdReg d n v).packets = s.packets := rfl
@[simp] theorem State.setCdReg_gangs (s : State) (d n : Nat) (v : DWord) : (s.setCdReg d n v).gangs = s.gangs := rfl
@[simp] theorem State.setCdReg_pools (s : State) (d n : Nat) (v : DWord) : (s.setCdReg d n v).pools = s.pools := rfl
@[simp] theorem State.setCdReg_pkg (s : State) (d n : Nat) (v : DWord) : (s.setCdReg d n v).pkg = s.pkg := rfl
@[simp] theorem State.setCdReg_inbox (s : State) (d n : Nat) (v : DWord) : (s.setCdReg d n v).inbox = s.inbox := rfl
@[simp] theorem State.setCdReg_due (s : State) (d n : Nat) (v : DWord) : (s.setCdReg d n v).due = s.due := rfl
@[simp] theorem State.setCdReg_cur (s : State) (d n : Nat) (v : DWord) : (s.setCdReg d n v).cur = s.cur := rfl
@[simp] theorem State.setCdReg_reported (s : State) (d n : Nat) (v : DWord) : (s.setCdReg d n v).reported = s.reported := rfl
@[simp] theorem State.setCdReg_clock (s : State) (d n : Nat) (v : DWord) : (s.setCdReg d n v).clock = s.clock := rfl
@[simp] theorem State.setCdReg_free (s : State) (d n : Nat) (v : DWord) : (s.setCdReg d n v).free = s.free := rfl
@[simp] theorem State.setCdReg_fresh (s : State) (d n : Nat) (v : DWord) : (s.setCdReg d n v).fresh = s.fresh := rfl
@[simp] theorem State.setCdReg_out (s : State) (d n : Nat) (v : DWord) : (s.setCdReg d n v).out = s.out := rfl

/-! ## State.addCdReg -/

@[simp] theorem State.addCdReg_mem (s : State) (d n : Nat) : (s.addCdReg d n).mem = s.mem := rfl
@[simp] theorem State.addCdReg_poison (s : State) (d n : Nat) : (s.addCdReg d n).poison = s.poison := rfl
@[simp] theorem State.addCdReg_sums (s : State) (d n : Nat) : (s.addCdReg d n).sums = s.sums := rfl
@[simp] theorem State.addCdReg_blocks (s : State) (d n : Nat) : (s.addCdReg d n).blocks = s.blocks := rfl
@[simp] theorem State.addCdReg_cores (s : State) (d n : Nat) : (s.addCdReg d n).cores = s.cores := rfl
@[simp] theorem State.addCdReg_l1 (s : State) (d n : Nat) : (s.addCdReg d n).l1 = s.l1 := rfl
@[simp] theorem State.addCdReg_l2 (s : State) (d n : Nat) : (s.addCdReg d n).l2 = s.l2 := rfl
@[simp] theorem State.addCdReg_tlb (s : State) (d n : Nat) : (s.addCdReg d n).tlb = s.tlb := rfl
@[simp] theorem State.addCdReg_mds (s : State) (d n : Nat) : (s.addCdReg d n).mds = s.mds := rfl
@[simp] theorem State.addCdReg_proxy (s : State) (d n : Nat) : (s.addCdReg d n).proxy = s.proxy := rfl
@[simp] theorem State.addCdReg_clBars (s : State) (d n : Nat) : (s.addCdReg d n).clBars = s.clBars := rfl
@[simp] theorem State.addCdReg_dieBars (s : State) (d n : Nat) : (s.addCdReg d n).dieBars = s.dieBars := rfl
@[simp] theorem State.addCdReg_grBars (s : State) (d n : Nat) : (s.addCdReg d n).grBars = s.grBars := rfl
@[simp] theorem State.addCdReg_places (s : State) (d n : Nat) : (s.addCdReg d n).places = s.places := rfl
@[simp] theorem State.addCdReg_streams (s : State) (d n : Nat) : (s.addCdReg d n).streams = s.streams := rfl
@[simp] theorem State.addCdReg_modCtr (s : State) (d n : Nat) : (s.addCdReg d n).modCtr = s.modCtr := rfl
@[simp] theorem State.addCdReg_modErr (s : State) (d n : Nat) : (s.addCdReg d n).modErr = s.modErr := rfl
@[simp] theorem State.addCdReg_idlePol (s : State) (d n : Nat) : (s.addCdReg d n).idlePol = s.idlePol := rfl
@[simp] theorem State.addCdReg_filters (s : State) (d n : Nat) : (s.addCdReg d n).filters = s.filters := rfl
@[simp] theorem State.addCdReg_nextReq (s : State) (d n : Nat) : (s.addCdReg d n).nextReq = s.nextReq := rfl
@[simp] theorem State.addCdReg_waitReq (s : State) (d n : Nat) : (s.addCdReg d n).waitReq = s.waitReq := rfl
@[simp] theorem State.addCdReg_packets (s : State) (d n : Nat) : (s.addCdReg d n).packets = s.packets := rfl
@[simp] theorem State.addCdReg_gangs (s : State) (d n : Nat) : (s.addCdReg d n).gangs = s.gangs := rfl
@[simp] theorem State.addCdReg_pools (s : State) (d n : Nat) : (s.addCdReg d n).pools = s.pools := rfl
@[simp] theorem State.addCdReg_pkg (s : State) (d n : Nat) : (s.addCdReg d n).pkg = s.pkg := rfl
@[simp] theorem State.addCdReg_inbox (s : State) (d n : Nat) : (s.addCdReg d n).inbox = s.inbox := rfl
@[simp] theorem State.addCdReg_due (s : State) (d n : Nat) : (s.addCdReg d n).due = s.due := rfl
@[simp] theorem State.addCdReg_cur (s : State) (d n : Nat) : (s.addCdReg d n).cur = s.cur := rfl
@[simp] theorem State.addCdReg_reported (s : State) (d n : Nat) : (s.addCdReg d n).reported = s.reported := rfl
@[simp] theorem State.addCdReg_clock (s : State) (d n : Nat) : (s.addCdReg d n).clock = s.clock := rfl
@[simp] theorem State.addCdReg_free (s : State) (d n : Nat) : (s.addCdReg d n).free = s.free := rfl
@[simp] theorem State.addCdReg_fresh (s : State) (d n : Nat) : (s.addCdReg d n).fresh = s.fresh := rfl
@[simp] theorem State.addCdReg_out (s : State) (d n : Nat) : (s.addCdReg d n).out = s.out := rfl

/-! ## State.bump -/

@[simp] theorem State.bump_mem (s : State) (c i : Nat) : (s.bump c i).mem = s.mem := rfl
@[simp] theorem State.bump_poison (s : State) (c i : Nat) : (s.bump c i).poison = s.poison := rfl
@[simp] theorem State.bump_sums (s : State) (c i : Nat) : (s.bump c i).sums = s.sums := rfl
@[simp] theorem State.bump_blocks (s : State) (c i : Nat) : (s.bump c i).blocks = s.blocks := rfl
@[simp] theorem State.bump_cores (s : State) (c i : Nat) : (s.bump c i).cores = s.cores := rfl
@[simp] theorem State.bump_l1 (s : State) (c i : Nat) : (s.bump c i).l1 = s.l1 := rfl
@[simp] theorem State.bump_l2 (s : State) (c i : Nat) : (s.bump c i).l2 = s.l2 := rfl
@[simp] theorem State.bump_tlb (s : State) (c i : Nat) : (s.bump c i).tlb = s.tlb := rfl
@[simp] theorem State.bump_cds (s : State) (c i : Nat) : (s.bump c i).cds = s.cds := rfl
@[simp] theorem State.bump_mds (s : State) (c i : Nat) : (s.bump c i).mds = s.mds := rfl
@[simp] theorem State.bump_proxy (s : State) (c i : Nat) : (s.bump c i).proxy = s.proxy := rfl
@[simp] theorem State.bump_clBars (s : State) (c i : Nat) : (s.bump c i).clBars = s.clBars := rfl
@[simp] theorem State.bump_dieBars (s : State) (c i : Nat) : (s.bump c i).dieBars = s.dieBars := rfl
@[simp] theorem State.bump_grBars (s : State) (c i : Nat) : (s.bump c i).grBars = s.grBars := rfl
@[simp] theorem State.bump_places (s : State) (c i : Nat) : (s.bump c i).places = s.places := rfl
@[simp] theorem State.bump_streams (s : State) (c i : Nat) : (s.bump c i).streams = s.streams := rfl
@[simp] theorem State.bump_modErr (s : State) (c i : Nat) : (s.bump c i).modErr = s.modErr := rfl
@[simp] theorem State.bump_idlePol (s : State) (c i : Nat) : (s.bump c i).idlePol = s.idlePol := rfl
@[simp] theorem State.bump_filters (s : State) (c i : Nat) : (s.bump c i).filters = s.filters := rfl
@[simp] theorem State.bump_nextReq (s : State) (c i : Nat) : (s.bump c i).nextReq = s.nextReq := rfl
@[simp] theorem State.bump_waitReq (s : State) (c i : Nat) : (s.bump c i).waitReq = s.waitReq := rfl
@[simp] theorem State.bump_packets (s : State) (c i : Nat) : (s.bump c i).packets = s.packets := rfl
@[simp] theorem State.bump_gangs (s : State) (c i : Nat) : (s.bump c i).gangs = s.gangs := rfl
@[simp] theorem State.bump_pools (s : State) (c i : Nat) : (s.bump c i).pools = s.pools := rfl
@[simp] theorem State.bump_pkg (s : State) (c i : Nat) : (s.bump c i).pkg = s.pkg := rfl
@[simp] theorem State.bump_inbox (s : State) (c i : Nat) : (s.bump c i).inbox = s.inbox := rfl
@[simp] theorem State.bump_due (s : State) (c i : Nat) : (s.bump c i).due = s.due := rfl
@[simp] theorem State.bump_cur (s : State) (c i : Nat) : (s.bump c i).cur = s.cur := rfl
@[simp] theorem State.bump_reported (s : State) (c i : Nat) : (s.bump c i).reported = s.reported := rfl
@[simp] theorem State.bump_clock (s : State) (c i : Nat) : (s.bump c i).clock = s.clock := rfl
@[simp] theorem State.bump_free (s : State) (c i : Nat) : (s.bump c i).free = s.free := rfl
@[simp] theorem State.bump_fresh (s : State) (c i : Nat) : (s.bump c i).fresh = s.fresh := rfl
@[simp] theorem State.bump_out (s : State) (c i : Nat) : (s.bump c i).out = s.out := rfl

/-! ## State.post -/

@[simp] theorem State.post_mem (s : State) (e : Event) : (s.post e).mem = s.mem := rfl
@[simp] theorem State.post_poison (s : State) (e : Event) : (s.post e).poison = s.poison := rfl
@[simp] theorem State.post_sums (s : State) (e : Event) : (s.post e).sums = s.sums := rfl
@[simp] theorem State.post_blocks (s : State) (e : Event) : (s.post e).blocks = s.blocks := rfl
@[simp] theorem State.post_cores (s : State) (e : Event) : (s.post e).cores = s.cores := rfl
@[simp] theorem State.post_l1 (s : State) (e : Event) : (s.post e).l1 = s.l1 := rfl
@[simp] theorem State.post_l2 (s : State) (e : Event) : (s.post e).l2 = s.l2 := rfl
@[simp] theorem State.post_tlb (s : State) (e : Event) : (s.post e).tlb = s.tlb := rfl
@[simp] theorem State.post_cds (s : State) (e : Event) : (s.post e).cds = s.cds := rfl
@[simp] theorem State.post_mds (s : State) (e : Event) : (s.post e).mds = s.mds := rfl
@[simp] theorem State.post_proxy (s : State) (e : Event) : (s.post e).proxy = s.proxy := rfl
@[simp] theorem State.post_clBars (s : State) (e : Event) : (s.post e).clBars = s.clBars := rfl
@[simp] theorem State.post_dieBars (s : State) (e : Event) : (s.post e).dieBars = s.dieBars := rfl
@[simp] theorem State.post_grBars (s : State) (e : Event) : (s.post e).grBars = s.grBars := rfl
@[simp] theorem State.post_places (s : State) (e : Event) : (s.post e).places = s.places := rfl
@[simp] theorem State.post_streams (s : State) (e : Event) : (s.post e).streams = s.streams := rfl
@[simp] theorem State.post_modCtr (s : State) (e : Event) : (s.post e).modCtr = s.modCtr := rfl
@[simp] theorem State.post_modErr (s : State) (e : Event) : (s.post e).modErr = s.modErr := rfl
@[simp] theorem State.post_idlePol (s : State) (e : Event) : (s.post e).idlePol = s.idlePol := rfl
@[simp] theorem State.post_filters (s : State) (e : Event) : (s.post e).filters = s.filters := rfl
@[simp] theorem State.post_nextReq (s : State) (e : Event) : (s.post e).nextReq = s.nextReq := rfl
@[simp] theorem State.post_waitReq (s : State) (e : Event) : (s.post e).waitReq = s.waitReq := rfl
@[simp] theorem State.post_packets (s : State) (e : Event) : (s.post e).packets = s.packets := rfl
@[simp] theorem State.post_gangs (s : State) (e : Event) : (s.post e).gangs = s.gangs := rfl
@[simp] theorem State.post_pools (s : State) (e : Event) : (s.post e).pools = s.pools := rfl
@[simp] theorem State.post_pkg (s : State) (e : Event) : (s.post e).pkg = s.pkg := rfl
@[simp] theorem State.post_inbox (s : State) (e : Event) : (s.post e).inbox = s.inbox ++ [e] := rfl
@[simp] theorem State.post_due (s : State) (e : Event) : (s.post e).due = s.due := rfl
@[simp] theorem State.post_cur (s : State) (e : Event) : (s.post e).cur = s.cur := rfl
@[simp] theorem State.post_reported (s : State) (e : Event) : (s.post e).reported = s.reported := rfl
@[simp] theorem State.post_clock (s : State) (e : Event) : (s.post e).clock = s.clock := rfl
@[simp] theorem State.post_free (s : State) (e : Event) : (s.post e).free = s.free := rfl
@[simp] theorem State.post_fresh (s : State) (e : Event) : (s.post e).fresh = s.fresh := rfl
@[simp] theorem State.post_out (s : State) (e : Event) : (s.post e).out = s.out := rfl

/-! ## State.postAll -/

@[simp] theorem State.postAll_mem (s : State) (es : List Event) : (s.postAll es).mem = s.mem := rfl
@[simp] theorem State.postAll_poison (s : State) (es : List Event) : (s.postAll es).poison = s.poison := rfl
@[simp] theorem State.postAll_sums (s : State) (es : List Event) : (s.postAll es).sums = s.sums := rfl
@[simp] theorem State.postAll_blocks (s : State) (es : List Event) : (s.postAll es).blocks = s.blocks := rfl
@[simp] theorem State.postAll_cores (s : State) (es : List Event) : (s.postAll es).cores = s.cores := rfl
@[simp] theorem State.postAll_l1 (s : State) (es : List Event) : (s.postAll es).l1 = s.l1 := rfl
@[simp] theorem State.postAll_l2 (s : State) (es : List Event) : (s.postAll es).l2 = s.l2 := rfl
@[simp] theorem State.postAll_tlb (s : State) (es : List Event) : (s.postAll es).tlb = s.tlb := rfl
@[simp] theorem State.postAll_cds (s : State) (es : List Event) : (s.postAll es).cds = s.cds := rfl
@[simp] theorem State.postAll_mds (s : State) (es : List Event) : (s.postAll es).mds = s.mds := rfl
@[simp] theorem State.postAll_proxy (s : State) (es : List Event) : (s.postAll es).proxy = s.proxy := rfl
@[simp] theorem State.postAll_clBars (s : State) (es : List Event) : (s.postAll es).clBars = s.clBars := rfl
@[simp] theorem State.postAll_dieBars (s : State) (es : List Event) : (s.postAll es).dieBars = s.dieBars := rfl
@[simp] theorem State.postAll_grBars (s : State) (es : List Event) : (s.postAll es).grBars = s.grBars := rfl
@[simp] theorem State.postAll_places (s : State) (es : List Event) : (s.postAll es).places = s.places := rfl
@[simp] theorem State.postAll_streams (s : State) (es : List Event) : (s.postAll es).streams = s.streams := rfl
@[simp] theorem State.postAll_modCtr (s : State) (es : List Event) : (s.postAll es).modCtr = s.modCtr := rfl
@[simp] theorem State.postAll_modErr (s : State) (es : List Event) : (s.postAll es).modErr = s.modErr := rfl
@[simp] theorem State.postAll_idlePol (s : State) (es : List Event) : (s.postAll es).idlePol = s.idlePol := rfl
@[simp] theorem State.postAll_filters (s : State) (es : List Event) : (s.postAll es).filters = s.filters := rfl
@[simp] theorem State.postAll_nextReq (s : State) (es : List Event) : (s.postAll es).nextReq = s.nextReq := rfl
@[simp] theorem State.postAll_waitReq (s : State) (es : List Event) : (s.postAll es).waitReq = s.waitReq := rfl
@[simp] theorem State.postAll_packets (s : State) (es : List Event) : (s.postAll es).packets = s.packets := rfl
@[simp] theorem State.postAll_gangs (s : State) (es : List Event) : (s.postAll es).gangs = s.gangs := rfl
@[simp] theorem State.postAll_pools (s : State) (es : List Event) : (s.postAll es).pools = s.pools := rfl
@[simp] theorem State.postAll_pkg (s : State) (es : List Event) : (s.postAll es).pkg = s.pkg := rfl
@[simp] theorem State.postAll_inbox (s : State) (es : List Event) : (s.postAll es).inbox = s.inbox ++ es := rfl
@[simp] theorem State.postAll_due (s : State) (es : List Event) : (s.postAll es).due = s.due := rfl
@[simp] theorem State.postAll_cur (s : State) (es : List Event) : (s.postAll es).cur = s.cur := rfl
@[simp] theorem State.postAll_reported (s : State) (es : List Event) : (s.postAll es).reported = s.reported := rfl
@[simp] theorem State.postAll_clock (s : State) (es : List Event) : (s.postAll es).clock = s.clock := rfl
@[simp] theorem State.postAll_free (s : State) (es : List Event) : (s.postAll es).free = s.free := rfl
@[simp] theorem State.postAll_fresh (s : State) (es : List Event) : (s.postAll es).fresh = s.fresh := rfl
@[simp] theorem State.postAll_out (s : State) (es : List Event) : (s.postAll es).out = s.out := rfl

/-! ## State.emit -/

@[simp] theorem State.emit_mem (s : State) (o : Output) : (s.emit o).mem = s.mem := rfl
@[simp] theorem State.emit_poison (s : State) (o : Output) : (s.emit o).poison = s.poison := rfl
@[simp] theorem State.emit_sums (s : State) (o : Output) : (s.emit o).sums = s.sums := rfl
@[simp] theorem State.emit_blocks (s : State) (o : Output) : (s.emit o).blocks = s.blocks := rfl
@[simp] theorem State.emit_cores (s : State) (o : Output) : (s.emit o).cores = s.cores := rfl
@[simp] theorem State.emit_l1 (s : State) (o : Output) : (s.emit o).l1 = s.l1 := rfl
@[simp] theorem State.emit_l2 (s : State) (o : Output) : (s.emit o).l2 = s.l2 := rfl
@[simp] theorem State.emit_tlb (s : State) (o : Output) : (s.emit o).tlb = s.tlb := rfl
@[simp] theorem State.emit_cds (s : State) (o : Output) : (s.emit o).cds = s.cds := rfl
@[simp] theorem State.emit_mds (s : State) (o : Output) : (s.emit o).mds = s.mds := rfl
@[simp] theorem State.emit_proxy (s : State) (o : Output) : (s.emit o).proxy = s.proxy := rfl
@[simp] theorem State.emit_clBars (s : State) (o : Output) : (s.emit o).clBars = s.clBars := rfl
@[simp] theorem State.emit_dieBars (s : State) (o : Output) : (s.emit o).dieBars = s.dieBars := rfl
@[simp] theorem State.emit_grBars (s : State) (o : Output) : (s.emit o).grBars = s.grBars := rfl
@[simp] theorem State.emit_places (s : State) (o : Output) : (s.emit o).places = s.places := rfl
@[simp] theorem State.emit_streams (s : State) (o : Output) : (s.emit o).streams = s.streams := rfl
@[simp] theorem State.emit_modCtr (s : State) (o : Output) : (s.emit o).modCtr = s.modCtr := rfl
@[simp] theorem State.emit_modErr (s : State) (o : Output) : (s.emit o).modErr = s.modErr := rfl
@[simp] theorem State.emit_idlePol (s : State) (o : Output) : (s.emit o).idlePol = s.idlePol := rfl
@[simp] theorem State.emit_filters (s : State) (o : Output) : (s.emit o).filters = s.filters := rfl
@[simp] theorem State.emit_nextReq (s : State) (o : Output) : (s.emit o).nextReq = s.nextReq := rfl
@[simp] theorem State.emit_waitReq (s : State) (o : Output) : (s.emit o).waitReq = s.waitReq := rfl
@[simp] theorem State.emit_packets (s : State) (o : Output) : (s.emit o).packets = s.packets := rfl
@[simp] theorem State.emit_gangs (s : State) (o : Output) : (s.emit o).gangs = s.gangs := rfl
@[simp] theorem State.emit_pools (s : State) (o : Output) : (s.emit o).pools = s.pools := rfl
@[simp] theorem State.emit_pkg (s : State) (o : Output) : (s.emit o).pkg = s.pkg := rfl
@[simp] theorem State.emit_inbox (s : State) (o : Output) : (s.emit o).inbox = s.inbox := rfl
@[simp] theorem State.emit_due (s : State) (o : Output) : (s.emit o).due = s.due := rfl
@[simp] theorem State.emit_cur (s : State) (o : Output) : (s.emit o).cur = s.cur := rfl
@[simp] theorem State.emit_reported (s : State) (o : Output) : (s.emit o).reported = s.reported := rfl
@[simp] theorem State.emit_clock (s : State) (o : Output) : (s.emit o).clock = s.clock := rfl
@[simp] theorem State.emit_free (s : State) (o : Output) : (s.emit o).free = s.free := rfl
@[simp] theorem State.emit_fresh (s : State) (o : Output) : (s.emit o).fresh = s.fresh := rfl
@[simp] theorem State.emit_out (s : State) (o : Output) : (s.emit o).out = o :: s.out := rfl

/-! ## State.takeFree -/

@[simp] theorem State.takeFree_mem (s : State) : (s.takeFree.2).mem = s.mem := rfl
@[simp] theorem State.takeFree_poison (s : State) : (s.takeFree.2).poison = s.poison := rfl
@[simp] theorem State.takeFree_sums (s : State) : (s.takeFree.2).sums = s.sums := rfl
@[simp] theorem State.takeFree_blocks (s : State) : (s.takeFree.2).blocks = s.blocks := rfl
@[simp] theorem State.takeFree_cores (s : State) : (s.takeFree.2).cores = s.cores := rfl
@[simp] theorem State.takeFree_l1 (s : State) : (s.takeFree.2).l1 = s.l1 := rfl
@[simp] theorem State.takeFree_l2 (s : State) : (s.takeFree.2).l2 = s.l2 := rfl
@[simp] theorem State.takeFree_tlb (s : State) : (s.takeFree.2).tlb = s.tlb := rfl
@[simp] theorem State.takeFree_cds (s : State) : (s.takeFree.2).cds = s.cds := rfl
@[simp] theorem State.takeFree_mds (s : State) : (s.takeFree.2).mds = s.mds := rfl
@[simp] theorem State.takeFree_proxy (s : State) : (s.takeFree.2).proxy = s.proxy := rfl
@[simp] theorem State.takeFree_clBars (s : State) : (s.takeFree.2).clBars = s.clBars := rfl
@[simp] theorem State.takeFree_dieBars (s : State) : (s.takeFree.2).dieBars = s.dieBars := rfl
@[simp] theorem State.takeFree_grBars (s : State) : (s.takeFree.2).grBars = s.grBars := rfl
@[simp] theorem State.takeFree_places (s : State) : (s.takeFree.2).places = s.places := rfl
@[simp] theorem State.takeFree_streams (s : State) : (s.takeFree.2).streams = s.streams := rfl
@[simp] theorem State.takeFree_modCtr (s : State) : (s.takeFree.2).modCtr = s.modCtr := rfl
@[simp] theorem State.takeFree_modErr (s : State) : (s.takeFree.2).modErr = s.modErr := rfl
@[simp] theorem State.takeFree_idlePol (s : State) : (s.takeFree.2).idlePol = s.idlePol := rfl
@[simp] theorem State.takeFree_filters (s : State) : (s.takeFree.2).filters = s.filters := rfl
@[simp] theorem State.takeFree_nextReq (s : State) : (s.takeFree.2).nextReq = s.nextReq := rfl
@[simp] theorem State.takeFree_waitReq (s : State) : (s.takeFree.2).waitReq = s.waitReq := rfl
@[simp] theorem State.takeFree_packets (s : State) : (s.takeFree.2).packets = s.packets := rfl
@[simp] theorem State.takeFree_gangs (s : State) : (s.takeFree.2).gangs = s.gangs := rfl
@[simp] theorem State.takeFree_pools (s : State) : (s.takeFree.2).pools = s.pools := rfl
@[simp] theorem State.takeFree_pkg (s : State) : (s.takeFree.2).pkg = s.pkg := rfl
@[simp] theorem State.takeFree_inbox (s : State) : (s.takeFree.2).inbox = s.inbox := rfl
@[simp] theorem State.takeFree_due (s : State) : (s.takeFree.2).due = s.due := rfl
@[simp] theorem State.takeFree_cur (s : State) : (s.takeFree.2).cur = s.cur := rfl
@[simp] theorem State.takeFree_reported (s : State) : (s.takeFree.2).reported = s.reported := rfl
@[simp] theorem State.takeFree_clock (s : State) : (s.takeFree.2).clock = s.clock := rfl
@[simp] theorem State.takeFree_free (s : State) : (s.takeFree.2).free = s.free + 1 := rfl
@[simp] theorem State.takeFree_fresh (s : State) : (s.takeFree.2).fresh = s.fresh := rfl
@[simp] theorem State.takeFree_out (s : State) : (s.takeFree.2).out = s.out := rfl
@[simp] theorem State.takeFree_fst (s : State) : s.takeFree.1 = s.free := rfl

/-! ## State.takeFresh -/

@[simp] theorem State.takeFresh_mem (s : State) : (s.takeFresh.2).mem = s.mem := rfl
@[simp] theorem State.takeFresh_poison (s : State) : (s.takeFresh.2).poison = s.poison := rfl
@[simp] theorem State.takeFresh_sums (s : State) : (s.takeFresh.2).sums = s.sums := rfl
@[simp] theorem State.takeFresh_blocks (s : State) : (s.takeFresh.2).blocks = s.blocks := rfl
@[simp] theorem State.takeFresh_cores (s : State) : (s.takeFresh.2).cores = s.cores := rfl
@[simp] theorem State.takeFresh_l1 (s : State) : (s.takeFresh.2).l1 = s.l1 := rfl
@[simp] theorem State.takeFresh_l2 (s : State) : (s.takeFresh.2).l2 = s.l2 := rfl
@[simp] theorem State.takeFresh_tlb (s : State) : (s.takeFresh.2).tlb = s.tlb := rfl
@[simp] theorem State.takeFresh_cds (s : State) : (s.takeFresh.2).cds = s.cds := rfl
@[simp] theorem State.takeFresh_mds (s : State) : (s.takeFresh.2).mds = s.mds := rfl
@[simp] theorem State.takeFresh_proxy (s : State) : (s.takeFresh.2).proxy = s.proxy := rfl
@[simp] theorem State.takeFresh_clBars (s : State) : (s.takeFresh.2).clBars = s.clBars := rfl
@[simp] theorem State.takeFresh_dieBars (s : State) : (s.takeFresh.2).dieBars = s.dieBars := rfl
@[simp] theorem State.takeFresh_grBars (s : State) : (s.takeFresh.2).grBars = s.grBars := rfl
@[simp] theorem State.takeFresh_places (s : State) : (s.takeFresh.2).places = s.places := rfl
@[simp] theorem State.takeFresh_streams (s : State) : (s.takeFresh.2).streams = s.streams := rfl
@[simp] theorem State.takeFresh_modCtr (s : State) : (s.takeFresh.2).modCtr = s.modCtr := rfl
@[simp] theorem State.takeFresh_modErr (s : State) : (s.takeFresh.2).modErr = s.modErr := rfl
@[simp] theorem State.takeFresh_idlePol (s : State) : (s.takeFresh.2).idlePol = s.idlePol := rfl
@[simp] theorem State.takeFresh_filters (s : State) : (s.takeFresh.2).filters = s.filters := rfl
@[simp] theorem State.takeFresh_nextReq (s : State) : (s.takeFresh.2).nextReq = s.nextReq := rfl
@[simp] theorem State.takeFresh_waitReq (s : State) : (s.takeFresh.2).waitReq = s.waitReq := rfl
@[simp] theorem State.takeFresh_packets (s : State) : (s.takeFresh.2).packets = s.packets := rfl
@[simp] theorem State.takeFresh_gangs (s : State) : (s.takeFresh.2).gangs = s.gangs := rfl
@[simp] theorem State.takeFresh_pools (s : State) : (s.takeFresh.2).pools = s.pools := rfl
@[simp] theorem State.takeFresh_pkg (s : State) : (s.takeFresh.2).pkg = s.pkg := rfl
@[simp] theorem State.takeFresh_inbox (s : State) : (s.takeFresh.2).inbox = s.inbox := rfl
@[simp] theorem State.takeFresh_due (s : State) : (s.takeFresh.2).due = s.due := rfl
@[simp] theorem State.takeFresh_cur (s : State) : (s.takeFresh.2).cur = s.cur := rfl
@[simp] theorem State.takeFresh_reported (s : State) : (s.takeFresh.2).reported = s.reported := rfl
@[simp] theorem State.takeFresh_clock (s : State) : (s.takeFresh.2).clock = s.clock := rfl
@[simp] theorem State.takeFresh_free (s : State) : (s.takeFresh.2).free = s.free := rfl
@[simp] theorem State.takeFresh_fresh (s : State) : (s.takeFresh.2).fresh = s.fresh + 1 := rfl
@[simp] theorem State.takeFresh_out (s : State) : (s.takeFresh.2).out = s.out := rfl
@[simp] theorem State.takeFresh_fst (s : State) : s.takeFresh.1 = s.fresh := rfl

/-! ## State.updMd -/

@[simp] theorem State.updMd_mem (s : State) (h : Nat) (f : Md → Md) : (s.updMd h f).mem = s.mem := by
  unfold State.updMd; split <;> rfl
@[simp] theorem State.updMd_poison (s : State) (h : Nat) (f : Md → Md) : (s.updMd h f).poison = s.poison := by
  unfold State.updMd; split <;> rfl
@[simp] theorem State.updMd_sums (s : State) (h : Nat) (f : Md → Md) : (s.updMd h f).sums = s.sums := by
  unfold State.updMd; split <;> rfl
@[simp] theorem State.updMd_blocks (s : State) (h : Nat) (f : Md → Md) : (s.updMd h f).blocks = s.blocks := by
  unfold State.updMd; split <;> rfl
@[simp] theorem State.updMd_cores (s : State) (h : Nat) (f : Md → Md) : (s.updMd h f).cores = s.cores := by
  unfold State.updMd; split <;> rfl
@[simp] theorem State.updMd_l1 (s : State) (h : Nat) (f : Md → Md) : (s.updMd h f).l1 = s.l1 := by
  unfold State.updMd; split <;> rfl
@[simp] theorem State.updMd_l2 (s : State) (h : Nat) (f : Md → Md) : (s.updMd h f).l2 = s.l2 := by
  unfold State.updMd; split <;> rfl
@[simp] theorem State.updMd_tlb (s : State) (h : Nat) (f : Md → Md) : (s.updMd h f).tlb = s.tlb := by
  unfold State.updMd; split <;> rfl
@[simp] theorem State.updMd_cds (s : State) (h : Nat) (f : Md → Md) : (s.updMd h f).cds = s.cds := by
  unfold State.updMd; split <;> rfl
@[simp] theorem State.updMd_clBars (s : State) (h : Nat) (f : Md → Md) : (s.updMd h f).clBars = s.clBars := by
  unfold State.updMd; split <;> rfl
@[simp] theorem State.updMd_dieBars (s : State) (h : Nat) (f : Md → Md) : (s.updMd h f).dieBars = s.dieBars := by
  unfold State.updMd; split <;> rfl
@[simp] theorem State.updMd_grBars (s : State) (h : Nat) (f : Md → Md) : (s.updMd h f).grBars = s.grBars := by
  unfold State.updMd; split <;> rfl
@[simp] theorem State.updMd_places (s : State) (h : Nat) (f : Md → Md) : (s.updMd h f).places = s.places := by
  unfold State.updMd; split <;> rfl
@[simp] theorem State.updMd_streams (s : State) (h : Nat) (f : Md → Md) : (s.updMd h f).streams = s.streams := by
  unfold State.updMd; split <;> rfl
@[simp] theorem State.updMd_modCtr (s : State) (h : Nat) (f : Md → Md) : (s.updMd h f).modCtr = s.modCtr := by
  unfold State.updMd; split <;> rfl
@[simp] theorem State.updMd_modErr (s : State) (h : Nat) (f : Md → Md) : (s.updMd h f).modErr = s.modErr := by
  unfold State.updMd; split <;> rfl
@[simp] theorem State.updMd_idlePol (s : State) (h : Nat) (f : Md → Md) : (s.updMd h f).idlePol = s.idlePol := by
  unfold State.updMd; split <;> rfl
@[simp] theorem State.updMd_filters (s : State) (h : Nat) (f : Md → Md) : (s.updMd h f).filters = s.filters := by
  unfold State.updMd; split <;> rfl
@[simp] theorem State.updMd_nextReq (s : State) (h : Nat) (f : Md → Md) : (s.updMd h f).nextReq = s.nextReq := by
  unfold State.updMd; split <;> rfl
@[simp] theorem State.updMd_waitReq (s : State) (h : Nat) (f : Md → Md) : (s.updMd h f).waitReq = s.waitReq := by
  unfold State.updMd; split <;> rfl
@[simp] theorem State.updMd_packets (s : State) (h : Nat) (f : Md → Md) : (s.updMd h f).packets = s.packets := by
  unfold State.updMd; split <;> rfl
@[simp] theorem State.updMd_gangs (s : State) (h : Nat) (f : Md → Md) : (s.updMd h f).gangs = s.gangs := by
  unfold State.updMd; split <;> rfl
@[simp] theorem State.updMd_pools (s : State) (h : Nat) (f : Md → Md) : (s.updMd h f).pools = s.pools := by
  unfold State.updMd; split <;> rfl
@[simp] theorem State.updMd_pkg (s : State) (h : Nat) (f : Md → Md) : (s.updMd h f).pkg = s.pkg := by
  unfold State.updMd; split <;> rfl
@[simp] theorem State.updMd_inbox (s : State) (h : Nat) (f : Md → Md) : (s.updMd h f).inbox = s.inbox := by
  unfold State.updMd; split <;> rfl
@[simp] theorem State.updMd_due (s : State) (h : Nat) (f : Md → Md) : (s.updMd h f).due = s.due := by
  unfold State.updMd; split <;> rfl
@[simp] theorem State.updMd_cur (s : State) (h : Nat) (f : Md → Md) : (s.updMd h f).cur = s.cur := by
  unfold State.updMd; split <;> rfl
@[simp] theorem State.updMd_reported (s : State) (h : Nat) (f : Md → Md) : (s.updMd h f).reported = s.reported := by
  unfold State.updMd; split <;> rfl
@[simp] theorem State.updMd_clock (s : State) (h : Nat) (f : Md → Md) : (s.updMd h f).clock = s.clock := by
  unfold State.updMd; split <;> rfl
@[simp] theorem State.updMd_free (s : State) (h : Nat) (f : Md → Md) : (s.updMd h f).free = s.free := by
  unfold State.updMd; split <;> rfl
@[simp] theorem State.updMd_fresh (s : State) (h : Nat) (f : Md → Md) : (s.updMd h f).fresh = s.fresh := by
  unfold State.updMd; split <;> rfl
@[simp] theorem State.updMd_out (s : State) (h : Nat) (f : Md → Md) : (s.updMd h f).out = s.out := by
  unfold State.updMd; split <;> rfl

/-! ## Blocks, warps and the front thread -/

@[simp] theorem Block.updWarp_die (b : Block) (w : Nat) (f : Warp → Warp) : (b.updWarp w f).die = b.die := rfl
@[simp] theorem Block.updWarp_core (b : Block) (w : Nat) (f : Warp → Warp) : (b.updWarp w f).core = b.core := rfl
@[simp] theorem Block.updWarp_slot (b : Block) (w : Nat) (f : Warp → Warp) : (b.updWarp w f).slot = b.slot := rfl
@[simp] theorem Block.updWarp_home (b : Block) (w : Nat) (f : Warp → Warp) : (b.updWarp w f).home = b.home := rfl
@[simp] theorem Block.updWarp_ctx (b : Block) (w : Nat) (f : Warp → Warp) : (b.updWarp w f).ctx = b.ctx := rfl
@[simp] theorem Block.updWarp_pkt (b : Block) (w : Nat) (f : Warp → Warp) : (b.updWarp w f).pkt = b.pkt := rfl
@[simp] theorem Block.updWarp_desc (b : Block) (w : Nat) (f : Warp → Warp) : (b.updWarp w f).desc = b.desc := rfl
@[simp] theorem Block.updWarp_allot (b : Block) (w : Nat) (f : Warp → Warp) : (b.updWarp w f).allot = b.allot := rfl
@[simp] theorem Block.updWarp_scrBase (b : Block) (w : Nat) (f : Warp → Warp) : (b.updWarp w f).scrBase = b.scrBase := rfl
@[simp] theorem Block.updWarp_blockIx (b : Block) (w : Nat) (f : Warp → Warp) : (b.updWarp w f).blockIx = b.blockIx := rfl
@[simp] theorem Block.updWarp_clIx (b : Block) (w : Nat) (f : Warp → Warp) : (b.updWarp w f).clIx = b.clIx := rfl
@[simp] theorem Block.updWarp_clusIx (b : Block) (w : Nat) (f : Warp → Warp) : (b.updWarp w f).clusIx = b.clusIx := rfl
@[simp] theorem Block.updWarp_gridM1 (b : Block) (w : Nat) (f : Warp → Warp) : (b.updWarp w f).gridM1 = b.gridM1 := rfl
@[simp] theorem Block.updWarp_clusz (b : Block) (w : Nat) (f : Warp → Warp) : (b.updWarp w f).clusz = b.clusz := rfl
@[simp] theorem Block.updWarp_coop (b : Block) (w : Nat) (f : Warp → Warp) : (b.updWarp w f).coop = b.coop := rfl
@[simp] theorem Block.updWarp_grp (b : Block) (w : Nat) (f : Warp → Warp) : (b.updWarp w f).grp = b.grp := rfl
@[simp] theorem Block.updWarp_task (b : Block) (w : Nat) (f : Warp → Warp) : (b.updWarp w f).task = b.task := rfl
@[simp] theorem Block.updWarp_below (b : Block) (w : Nat) (f : Warp → Warp) : (b.updWarp w f).below = b.below := rfl
@[simp] theorem Block.updWarp_frame (b : Block) (w : Nat) (f : Warp → Warp) : (b.updWarp w f).frame = b.frame := rfl
@[simp] theorem Block.updWarp_frameVa (b : Block) (w : Nat) (f : Warp → Warp) : (b.updWarp w f).frameVa = b.frameVa := rfl
@[simp] theorem Block.updWarp_frameKeys (b : Block) (w : Nat) (f : Warp → Warp) : (b.updWarp w f).frameKeys = b.frameKeys := rfl
@[simp] theorem Block.updWarp_front (b : Block) (w : Nat) (f : Warp → Warp) : (b.updWarp w f).front = b.front := rfl
@[simp] theorem Block.updWarp_y (b : Block) (w : Nat) (f : Warp → Warp) : (b.updWarp w f).y = b.y := rfl
@[simp] theorem Block.updWarp_scratch (b : Block) (w : Nat) (f : Warp → Warp) : (b.updWarp w f).scratch = b.scratch := rfl
@[simp] theorem Block.updWarp_absent (b : Block) (w : Nat) (f : Warp → Warp) : (b.updWarp w f).absent = b.absent := rfl
@[simp] theorem Block.updWarp_swapped (b : Block) (w : Nat) (f : Warp → Warp) : (b.updWarp w f).swapped = b.swapped := rfl
@[simp] theorem Block.updWarp_spoison (b : Block) (w : Nat) (f : Warp → Warp) : (b.updWarp w f).spoison = b.spoison := rfl
@[simp] theorem Block.updWarp_ssums (b : Block) (w : Nat) (f : Warp → Warp) : (b.updWarp w f).ssums = b.ssums := rfl
@[simp] theorem Block.updWarp_tile (b : Block) (w : Nat) (f : Warp → Warp) : (b.updWarp w f).tile = b.tile := rfl
@[simp] theorem Block.updWarp_tvalid (b : Block) (w : Nat) (f : Warp → Warp) : (b.updWarp w f).tvalid = b.tvalid := rfl
@[simp] theorem Block.updWarp_tdirty (b : Block) (w : Nat) (f : Warp → Warp) : (b.updWarp w f).tdirty = b.tdirty := rfl
@[simp] theorem Block.updWarp_bheld (b : Block) (w : Nat) (f : Warp → Warp) : (b.updWarp w f).bheld = b.bheld := rfl
@[simp] theorem Block.updWarp_dq (b : Block) (w : Nat) (f : Warp → Warp) : (b.updWarp w f).dq = b.dq := rfl
@[simp] theorem Block.updWarp_bobs (b : Block) (w : Nat) (f : Warp → Warp) : (b.updWarp w f).bobs = b.bobs := rfl
@[simp] theorem Block.updWarp_bars (b : Block) (w : Nat) (f : Warp → Warp) : (b.updWarp w f).bars = b.bars := rfl
@[simp] theorem Block.updWarp_counts (b : Block) (w : Nat) (f : Warp → Warp) : (b.updWarp w f).counts = b.counts := rfl
@[simp] theorem Block.updWarp_attUsed (b : Block) (w : Nat) (f : Warp → Warp) : (b.updWarp w f).attUsed = b.attUsed := rfl
@[simp] theorem Block.updWarp_recUsed (b : Block) (w : Nat) (f : Warp → Warp) : (b.updWarp w f).recUsed = b.recUsed := rfl
@[simp] theorem Block.updWarp_attSave (b : Block) (w : Nat) (f : Warp → Warp) : (b.updWarp w f).attSave = b.attSave := rfl
@[simp] theorem Block.updWarp_recSave (b : Block) (w : Nat) (f : Warp → Warp) : (b.updWarp w f).recSave = b.recSave := rfl
@[simp] theorem Block.updWarp_started (b : Block) (w : Nat) (f : Warp → Warp) : (b.updWarp w f).started = b.started := rfl
@[simp] theorem Block.updWarp_argReq (b : Block) (w : Nat) (f : Warp → Warp) : (b.updWarp w f).argReq = b.argReq := rfl
@[simp] theorem Block.updWarp_ending (b : Block) (w : Nat) (f : Warp → Warp) : (b.updWarp w f).ending = b.ending := rfl
@[simp] theorem Block.updWarp_killed (b : Block) (w : Nat) (f : Warp → Warp) : (b.updWarp w f).killed = b.killed := rfl
@[simp] theorem Block.updWarp_warps (b : Block) (w : Nat) (f : Warp → Warp) : (b.updWarp w f).warps = lset b.warps w f := rfl
@[simp] theorem Block.updThread_die (b : Block) (w : Nat) (e : Bool) (f : Thread → Thread) : (b.updThread w e f).die = b.die := by
  unfold Block.updThread; split <;> rfl
@[simp] theorem Block.updThread_core (b : Block) (w : Nat) (e : Bool) (f : Thread → Thread) : (b.updThread w e f).core = b.core := by
  unfold Block.updThread; split <;> rfl
@[simp] theorem Block.updThread_slot (b : Block) (w : Nat) (e : Bool) (f : Thread → Thread) : (b.updThread w e f).slot = b.slot := by
  unfold Block.updThread; split <;> rfl
@[simp] theorem Block.updThread_home (b : Block) (w : Nat) (e : Bool) (f : Thread → Thread) : (b.updThread w e f).home = b.home := by
  unfold Block.updThread; split <;> rfl
@[simp] theorem Block.updThread_ctx (b : Block) (w : Nat) (e : Bool) (f : Thread → Thread) : (b.updThread w e f).ctx = b.ctx := by
  unfold Block.updThread; split <;> rfl
@[simp] theorem Block.updThread_pkt (b : Block) (w : Nat) (e : Bool) (f : Thread → Thread) : (b.updThread w e f).pkt = b.pkt := by
  unfold Block.updThread; split <;> rfl
@[simp] theorem Block.updThread_desc (b : Block) (w : Nat) (e : Bool) (f : Thread → Thread) : (b.updThread w e f).desc = b.desc := by
  unfold Block.updThread; split <;> rfl
@[simp] theorem Block.updThread_allot (b : Block) (w : Nat) (e : Bool) (f : Thread → Thread) : (b.updThread w e f).allot = b.allot := by
  unfold Block.updThread; split <;> rfl
@[simp] theorem Block.updThread_scrBase (b : Block) (w : Nat) (e : Bool) (f : Thread → Thread) : (b.updThread w e f).scrBase = b.scrBase := by
  unfold Block.updThread; split <;> rfl
@[simp] theorem Block.updThread_blockIx (b : Block) (w : Nat) (e : Bool) (f : Thread → Thread) : (b.updThread w e f).blockIx = b.blockIx := by
  unfold Block.updThread; split <;> rfl
@[simp] theorem Block.updThread_clIx (b : Block) (w : Nat) (e : Bool) (f : Thread → Thread) : (b.updThread w e f).clIx = b.clIx := by
  unfold Block.updThread; split <;> rfl
@[simp] theorem Block.updThread_clusIx (b : Block) (w : Nat) (e : Bool) (f : Thread → Thread) : (b.updThread w e f).clusIx = b.clusIx := by
  unfold Block.updThread; split <;> rfl
@[simp] theorem Block.updThread_gridM1 (b : Block) (w : Nat) (e : Bool) (f : Thread → Thread) : (b.updThread w e f).gridM1 = b.gridM1 := by
  unfold Block.updThread; split <;> rfl
@[simp] theorem Block.updThread_clusz (b : Block) (w : Nat) (e : Bool) (f : Thread → Thread) : (b.updThread w e f).clusz = b.clusz := by
  unfold Block.updThread; split <;> rfl
@[simp] theorem Block.updThread_coop (b : Block) (w : Nat) (e : Bool) (f : Thread → Thread) : (b.updThread w e f).coop = b.coop := by
  unfold Block.updThread; split <;> rfl
@[simp] theorem Block.updThread_grp (b : Block) (w : Nat) (e : Bool) (f : Thread → Thread) : (b.updThread w e f).grp = b.grp := by
  unfold Block.updThread; split <;> rfl
@[simp] theorem Block.updThread_task (b : Block) (w : Nat) (e : Bool) (f : Thread → Thread) : (b.updThread w e f).task = b.task := by
  unfold Block.updThread; split <;> rfl
@[simp] theorem Block.updThread_below (b : Block) (w : Nat) (e : Bool) (f : Thread → Thread) : (b.updThread w e f).below = b.below := by
  unfold Block.updThread; split <;> rfl
@[simp] theorem Block.updThread_frame (b : Block) (w : Nat) (e : Bool) (f : Thread → Thread) : (b.updThread w e f).frame = b.frame := by
  unfold Block.updThread; split <;> rfl
@[simp] theorem Block.updThread_frameVa (b : Block) (w : Nat) (e : Bool) (f : Thread → Thread) : (b.updThread w e f).frameVa = b.frameVa := by
  unfold Block.updThread; split <;> rfl
@[simp] theorem Block.updThread_frameKeys (b : Block) (w : Nat) (e : Bool) (f : Thread → Thread) : (b.updThread w e f).frameKeys = b.frameKeys := by
  unfold Block.updThread; split <;> rfl
@[simp] theorem Block.updThread_y (b : Block) (w : Nat) (e : Bool) (f : Thread → Thread) : (b.updThread w e f).y = b.y := by
  unfold Block.updThread; split <;> rfl
@[simp] theorem Block.updThread_scratch (b : Block) (w : Nat) (e : Bool) (f : Thread → Thread) : (b.updThread w e f).scratch = b.scratch := by
  unfold Block.updThread; split <;> rfl
@[simp] theorem Block.updThread_absent (b : Block) (w : Nat) (e : Bool) (f : Thread → Thread) : (b.updThread w e f).absent = b.absent := by
  unfold Block.updThread; split <;> rfl
@[simp] theorem Block.updThread_swapped (b : Block) (w : Nat) (e : Bool) (f : Thread → Thread) : (b.updThread w e f).swapped = b.swapped := by
  unfold Block.updThread; split <;> rfl
@[simp] theorem Block.updThread_spoison (b : Block) (w : Nat) (e : Bool) (f : Thread → Thread) : (b.updThread w e f).spoison = b.spoison := by
  unfold Block.updThread; split <;> rfl
@[simp] theorem Block.updThread_ssums (b : Block) (w : Nat) (e : Bool) (f : Thread → Thread) : (b.updThread w e f).ssums = b.ssums := by
  unfold Block.updThread; split <;> rfl
@[simp] theorem Block.updThread_tile (b : Block) (w : Nat) (e : Bool) (f : Thread → Thread) : (b.updThread w e f).tile = b.tile := by
  unfold Block.updThread; split <;> rfl
@[simp] theorem Block.updThread_tvalid (b : Block) (w : Nat) (e : Bool) (f : Thread → Thread) : (b.updThread w e f).tvalid = b.tvalid := by
  unfold Block.updThread; split <;> rfl
@[simp] theorem Block.updThread_tdirty (b : Block) (w : Nat) (e : Bool) (f : Thread → Thread) : (b.updThread w e f).tdirty = b.tdirty := by
  unfold Block.updThread; split <;> rfl
@[simp] theorem Block.updThread_bheld (b : Block) (w : Nat) (e : Bool) (f : Thread → Thread) : (b.updThread w e f).bheld = b.bheld := by
  unfold Block.updThread; split <;> rfl
@[simp] theorem Block.updThread_dq (b : Block) (w : Nat) (e : Bool) (f : Thread → Thread) : (b.updThread w e f).dq = b.dq := by
  unfold Block.updThread; split <;> rfl
@[simp] theorem Block.updThread_bobs (b : Block) (w : Nat) (e : Bool) (f : Thread → Thread) : (b.updThread w e f).bobs = b.bobs := by
  unfold Block.updThread; split <;> rfl
@[simp] theorem Block.updThread_bars (b : Block) (w : Nat) (e : Bool) (f : Thread → Thread) : (b.updThread w e f).bars = b.bars := by
  unfold Block.updThread; split <;> rfl
@[simp] theorem Block.updThread_counts (b : Block) (w : Nat) (e : Bool) (f : Thread → Thread) : (b.updThread w e f).counts = b.counts := by
  unfold Block.updThread; split <;> rfl
@[simp] theorem Block.updThread_attUsed (b : Block) (w : Nat) (e : Bool) (f : Thread → Thread) : (b.updThread w e f).attUsed = b.attUsed := by
  unfold Block.updThread; split <;> rfl
@[simp] theorem Block.updThread_recUsed (b : Block) (w : Nat) (e : Bool) (f : Thread → Thread) : (b.updThread w e f).recUsed = b.recUsed := by
  unfold Block.updThread; split <;> rfl
@[simp] theorem Block.updThread_attSave (b : Block) (w : Nat) (e : Bool) (f : Thread → Thread) : (b.updThread w e f).attSave = b.attSave := by
  unfold Block.updThread; split <;> rfl
@[simp] theorem Block.updThread_recSave (b : Block) (w : Nat) (e : Bool) (f : Thread → Thread) : (b.updThread w e f).recSave = b.recSave := by
  unfold Block.updThread; split <;> rfl
@[simp] theorem Block.updThread_started (b : Block) (w : Nat) (e : Bool) (f : Thread → Thread) : (b.updThread w e f).started = b.started := by
  unfold Block.updThread; split <;> rfl
@[simp] theorem Block.updThread_argReq (b : Block) (w : Nat) (e : Bool) (f : Thread → Thread) : (b.updThread w e f).argReq = b.argReq := by
  unfold Block.updThread; split <;> rfl
@[simp] theorem Block.updThread_ending (b : Block) (w : Nat) (e : Bool) (f : Thread → Thread) : (b.updThread w e f).ending = b.ending := by
  unfold Block.updThread; split <;> rfl
@[simp] theorem Block.updThread_killed (b : Block) (w : Nat) (e : Bool) (f : Thread → Thread) : (b.updThread w e f).killed = b.killed := by
  unfold Block.updThread; split <;> rfl
@[simp] theorem Block.setRegion_die (b : Block) (w r : Nat) (g : Region) : (b.setRegion w r g).die = b.die := by
  by_cases h : w = 32 <;> simp [Block.setRegion, h]
@[simp] theorem Block.setRegion_core (b : Block) (w r : Nat) (g : Region) : (b.setRegion w r g).core = b.core := by
  by_cases h : w = 32 <;> simp [Block.setRegion, h]
@[simp] theorem Block.setRegion_slot (b : Block) (w r : Nat) (g : Region) : (b.setRegion w r g).slot = b.slot := by
  by_cases h : w = 32 <;> simp [Block.setRegion, h]
@[simp] theorem Block.setRegion_home (b : Block) (w r : Nat) (g : Region) : (b.setRegion w r g).home = b.home := by
  by_cases h : w = 32 <;> simp [Block.setRegion, h]
@[simp] theorem Block.setRegion_ctx (b : Block) (w r : Nat) (g : Region) : (b.setRegion w r g).ctx = b.ctx := by
  by_cases h : w = 32 <;> simp [Block.setRegion, h]
@[simp] theorem Block.setRegion_pkt (b : Block) (w r : Nat) (g : Region) : (b.setRegion w r g).pkt = b.pkt := by
  by_cases h : w = 32 <;> simp [Block.setRegion, h]
@[simp] theorem Block.setRegion_desc (b : Block) (w r : Nat) (g : Region) : (b.setRegion w r g).desc = b.desc := by
  by_cases h : w = 32 <;> simp [Block.setRegion, h]
@[simp] theorem Block.setRegion_allot (b : Block) (w r : Nat) (g : Region) : (b.setRegion w r g).allot = b.allot := by
  by_cases h : w = 32 <;> simp [Block.setRegion, h]
@[simp] theorem Block.setRegion_scrBase (b : Block) (w r : Nat) (g : Region) : (b.setRegion w r g).scrBase = b.scrBase := by
  by_cases h : w = 32 <;> simp [Block.setRegion, h]
@[simp] theorem Block.setRegion_blockIx (b : Block) (w r : Nat) (g : Region) : (b.setRegion w r g).blockIx = b.blockIx := by
  by_cases h : w = 32 <;> simp [Block.setRegion, h]
@[simp] theorem Block.setRegion_clIx (b : Block) (w r : Nat) (g : Region) : (b.setRegion w r g).clIx = b.clIx := by
  by_cases h : w = 32 <;> simp [Block.setRegion, h]
@[simp] theorem Block.setRegion_clusIx (b : Block) (w r : Nat) (g : Region) : (b.setRegion w r g).clusIx = b.clusIx := by
  by_cases h : w = 32 <;> simp [Block.setRegion, h]
@[simp] theorem Block.setRegion_gridM1 (b : Block) (w r : Nat) (g : Region) : (b.setRegion w r g).gridM1 = b.gridM1 := by
  by_cases h : w = 32 <;> simp [Block.setRegion, h]
@[simp] theorem Block.setRegion_clusz (b : Block) (w r : Nat) (g : Region) : (b.setRegion w r g).clusz = b.clusz := by
  by_cases h : w = 32 <;> simp [Block.setRegion, h]
@[simp] theorem Block.setRegion_coop (b : Block) (w r : Nat) (g : Region) : (b.setRegion w r g).coop = b.coop := by
  by_cases h : w = 32 <;> simp [Block.setRegion, h]
@[simp] theorem Block.setRegion_grp (b : Block) (w r : Nat) (g : Region) : (b.setRegion w r g).grp = b.grp := by
  by_cases h : w = 32 <;> simp [Block.setRegion, h]
@[simp] theorem Block.setRegion_task (b : Block) (w r : Nat) (g : Region) : (b.setRegion w r g).task = b.task := by
  by_cases h : w = 32 <;> simp [Block.setRegion, h]
@[simp] theorem Block.setRegion_below (b : Block) (w r : Nat) (g : Region) : (b.setRegion w r g).below = b.below := by
  by_cases h : w = 32 <;> simp [Block.setRegion, h]
@[simp] theorem Block.setRegion_frame (b : Block) (w r : Nat) (g : Region) : (b.setRegion w r g).frame = b.frame := by
  by_cases h : w = 32 <;> simp [Block.setRegion, h]
@[simp] theorem Block.setRegion_frameVa (b : Block) (w r : Nat) (g : Region) : (b.setRegion w r g).frameVa = b.frameVa := by
  by_cases h : w = 32 <;> simp [Block.setRegion, h]
@[simp] theorem Block.setRegion_frameKeys (b : Block) (w r : Nat) (g : Region) : (b.setRegion w r g).frameKeys = b.frameKeys := by
  by_cases h : w = 32 <;> simp [Block.setRegion, h]
@[simp] theorem Block.setRegion_y (b : Block) (w r : Nat) (g : Region) : (b.setRegion w r g).y = b.y := by
  by_cases h : w = 32 <;> simp [Block.setRegion, h]
@[simp] theorem Block.setRegion_scratch (b : Block) (w r : Nat) (g : Region) : (b.setRegion w r g).scratch = b.scratch := by
  by_cases h : w = 32 <;> simp [Block.setRegion, h]
@[simp] theorem Block.setRegion_absent (b : Block) (w r : Nat) (g : Region) : (b.setRegion w r g).absent = b.absent := by
  by_cases h : w = 32 <;> simp [Block.setRegion, h]
@[simp] theorem Block.setRegion_swapped (b : Block) (w r : Nat) (g : Region) : (b.setRegion w r g).swapped = b.swapped := by
  by_cases h : w = 32 <;> simp [Block.setRegion, h]
@[simp] theorem Block.setRegion_spoison (b : Block) (w r : Nat) (g : Region) : (b.setRegion w r g).spoison = b.spoison := by
  by_cases h : w = 32 <;> simp [Block.setRegion, h]
@[simp] theorem Block.setRegion_ssums (b : Block) (w r : Nat) (g : Region) : (b.setRegion w r g).ssums = b.ssums := by
  by_cases h : w = 32 <;> simp [Block.setRegion, h]
@[simp] theorem Block.setRegion_tile (b : Block) (w r : Nat) (g : Region) : (b.setRegion w r g).tile = b.tile := by
  by_cases h : w = 32 <;> simp [Block.setRegion, h]
@[simp] theorem Block.setRegion_tvalid (b : Block) (w r : Nat) (g : Region) : (b.setRegion w r g).tvalid = b.tvalid := by
  by_cases h : w = 32 <;> simp [Block.setRegion, h]
@[simp] theorem Block.setRegion_tdirty (b : Block) (w r : Nat) (g : Region) : (b.setRegion w r g).tdirty = b.tdirty := by
  by_cases h : w = 32 <;> simp [Block.setRegion, h]
@[simp] theorem Block.setRegion_bheld (b : Block) (w r : Nat) (g : Region) : (b.setRegion w r g).bheld = b.bheld := by
  by_cases h : w = 32 <;> simp [Block.setRegion, h]
@[simp] theorem Block.setRegion_dq (b : Block) (w r : Nat) (g : Region) : (b.setRegion w r g).dq = b.dq := by
  by_cases h : w = 32 <;> simp [Block.setRegion, h]
@[simp] theorem Block.setRegion_bobs (b : Block) (w r : Nat) (g : Region) : (b.setRegion w r g).bobs = b.bobs := by
  by_cases h : w = 32 <;> simp [Block.setRegion, h]
@[simp] theorem Block.setRegion_bars (b : Block) (w r : Nat) (g : Region) : (b.setRegion w r g).bars = b.bars := by
  by_cases h : w = 32 <;> simp [Block.setRegion, h]
@[simp] theorem Block.setRegion_counts (b : Block) (w r : Nat) (g : Region) : (b.setRegion w r g).counts = b.counts := by
  by_cases h : w = 32 <;> simp [Block.setRegion, h]
@[simp] theorem Block.setRegion_attUsed (b : Block) (w r : Nat) (g : Region) : (b.setRegion w r g).attUsed = b.attUsed := by
  by_cases h : w = 32 <;> simp [Block.setRegion, h]
@[simp] theorem Block.setRegion_recUsed (b : Block) (w r : Nat) (g : Region) : (b.setRegion w r g).recUsed = b.recUsed := by
  by_cases h : w = 32 <;> simp [Block.setRegion, h]
@[simp] theorem Block.setRegion_attSave (b : Block) (w r : Nat) (g : Region) : (b.setRegion w r g).attSave = b.attSave := by
  by_cases h : w = 32 <;> simp [Block.setRegion, h]
@[simp] theorem Block.setRegion_recSave (b : Block) (w r : Nat) (g : Region) : (b.setRegion w r g).recSave = b.recSave := by
  by_cases h : w = 32 <;> simp [Block.setRegion, h]
@[simp] theorem Block.setRegion_started (b : Block) (w r : Nat) (g : Region) : (b.setRegion w r g).started = b.started := by
  by_cases h : w = 32 <;> simp [Block.setRegion, h]
@[simp] theorem Block.setRegion_argReq (b : Block) (w r : Nat) (g : Region) : (b.setRegion w r g).argReq = b.argReq := by
  by_cases h : w = 32 <;> simp [Block.setRegion, h]
@[simp] theorem Block.setRegion_ending (b : Block) (w r : Nat) (g : Region) : (b.setRegion w r g).ending = b.ending := by
  by_cases h : w = 32 <;> simp [Block.setRegion, h]
@[simp] theorem Block.setRegion_killed (b : Block) (w r : Nat) (g : Region) : (b.setRegion w r g).killed = b.killed := by
  by_cases h : w = 32 <;> simp [Block.setRegion, h]
@[simp] theorem Warp.vset_role (w : Warp) (r l : Nat) (x : Word) : (w.vset r l x).role = w.role := rfl
@[simp] theorem Warp.vset_allot (w : Warp) (r l : Nat) (x : Word) : (w.vset r l x).allot = w.allot := rfl
@[simp] theorem Warp.vset_wb (w : Warp) (r l : Nat) (x : Word) : (w.vset r l x).wb = w.wb := rfl
@[simp] theorem Warp.vset_k (w : Warp) (r l : Nat) (x : Word) : (w.vset r l x).k = w.k := rfl
@[simp] theorem Warp.vset_g (w : Warp) (r l : Nat) (x : Word) : (w.vset r l x).g = w.g := rfl
@[simp] theorem Warp.vset_stack (w : Warp) (r l : Nat) (x : Word) : (w.vset r l x).stack = w.stack := rfl
@[simp] theorem Warp.vset_held (w : Warp) (r l : Nat) (x : Word) : (w.vset r l x).held = w.held := rfl
@[simp] theorem Warp.vset_split (w : Warp) (r l : Nat) (x : Word) : (w.vset r l x).split = w.split := rfl
@[simp] theorem Warp.vset_exited (w : Warp) (r l : Nat) (x : Word) : (w.vset r l x).exited = w.exited := rfl
@[simp] theorem Warp.vset_t (w : Warp) (r l : Nat) (x : Word) : (w.vset r l x).t = w.t := rfl
@[simp] theorem Warp.vset_e (w : Warp) (r l : Nat) (x : Word) : (w.vset r l x).e = w.e := rfl
@[simp] theorem Warp.vset_aside (w : Warp) (r l : Nat) (x : Word) : (w.vset r l x).aside = w.aside := rfl
@[simp] theorem Warp.vset_trapE (w : Warp) (r l : Nat) (x : Word) : (w.vset r l x).trapE = w.trapE := rfl
@[simp] theorem Warp.vset_since (w : Warp) (r l : Nat) (x : Word) : (w.vset r l x).since = w.since := rfl
@[simp] theorem Front.sset_th (f : Front) (r : Nat) (x : DWord) : (f.sset r x).th = f.th := rfl
@[simp] theorem Front.sset_swb (f : Front) (r : Nat) (x : DWord) : (f.sset r x).swb = f.swb := rfl
@[simp] theorem Front.sset_b (f : Front) (r : Nat) (x : DWord) : (f.sset r x).b = f.b := rfl
@[simp] theorem Front.sset_stack (f : Front) (r : Nat) (x : DWord) : (f.sset r x).stack = f.stack := rfl
@[simp] theorem Front.sset_held (f : Front) (r : Nat) (x : DWord) : (f.sset r x).held = f.held := rfl
@[simp] theorem Front.sset_aside (f : Front) (r : Nat) (x : DWord) : (f.sset r x).aside = f.aside := rfl

end Sys2Proof.Machine
end

