-- ==== Sys2Proof/Tests/Slice0.lean ====
section
/-!
SUPPORT. Tests/Slice0.lean: words written out from the spec's encodings and what they decode to, an ill-formed term for each
check, one step each on small states, and for each statement of Obligations.lean states that meet its hypotheses.
-/
namespace Sys2Proof.Machine.Tests

set_option Elab.async false

/-! ## States -/

/-- A ready package with one block, whose thread `warp` issues: 0-3 MATRIX, 4 VECTOR, 5 COPY, 32 the front thread. -/
def at_ (warp : Nat) : State :=
  { State.reset with
    pkg := { State.reset.pkg with phase := .ready }
    blocks := [(0, fetchBlock warp fetchPc)]
    tlb := [{ cluster := 0, asid := 0, glb := true, va := 0x4000, pa := 0x4000, bits := 14, perm := 0xF }]
    fresh := 1
    cur := some { blk := 0, warp := warp, armE := false } }

/-- The same after a change of the block. -/
def atWith (warp : Nat) (f : Block → Block) : State := (at_ warp).updBlk 0 f

def clearB (s : State) (i : Instr) (sp : Spec) (c : Ctx) : Bool :=
  !c.resumed && c.stage == 0 && !(c.covered && c.act == 0) && (staticRefusal s c i sp false).isNone && !c.scoreboard sp
    && !(popsDq sp && !c.front && c.entry.isNone) && !c.breaks sp

/-- Some context of `s` meets the hypotheses of a statement about an instruction that issues. -/
def Met (s : State) (i : Instr) (sp : Spec) (p : Ctx → State → Prop) : Prop :=
  ∃ c, Clear s i sp c ∧ p (c.operands sp) (s.countIssue c)

/-- Some context of `s` meets the hypotheses of a statement about an instruction that goes on from its wait. -/
def MetLate (s : State) (i : Instr) (sp : Spec) (p : Ctx → State → Prop) : Prop := ∃ c, Resumed s i sp c ∧ p c s

def metB (s : State) (i : Instr) (sp : Spec) (p : Ctx → State → Bool) : Bool :=
  match s.ctx? with
  | none => false
  | some c => clearB s i sp c && p (c.operands sp) (s.countIssue c)

theorem met_of {s : State} {i : Instr} {sp : Spec} {p : Ctx → State → Prop} [∀ x t, Decidable (p x t)]
    (h : metB s i sp (fun x t => decide (p x t)) = true) : Met s i sp p := by
  unfold metB at h
  split at h
  · cases h
  · rename_i c hc
    simp only [clearB, Bool.and_eq_true, decide_eq_true_eq, Bool.not_eq_true', beq_iff_eq, Option.isNone_iff_eq_none] at h
    obtain ⟨⟨⟨⟨⟨⟨⟨h1, h2⟩, h3⟩, h4⟩, h5⟩, h6⟩, h7⟩, h8⟩ := h
    exact ⟨c, ⟨hc, h1, h2, h3, h4, h5, h6, h7⟩, h8⟩

def metLateB (s : State) (i : Instr) (sp : Spec) (p : Ctx → State → Bool) : Bool :=
  match s.ctx? with
  | none => false
  | some c => decide (c.th.hold.bind (·.ins) = some i) && !(c.b.desc.dbg && c.breaks sp) && p c s

theorem metLate_of {s : State} {i : Instr} {sp : Spec} {p : Ctx → State → Prop} [∀ x t, Decidable (p x t)]
    (h : metLateB s i sp (fun x t => decide (p x t)) = true) : MetLate s i sp p := by
  unfold metLateB at h
  split at h
  · cases h
  · rename_i c hc
    simp only [Bool.and_eq_true, decide_eq_true_eq, Bool.not_eq_true'] at h
    exact ⟨c, ⟨hc, h.1.1, h.1.2⟩, h.2⟩

/-- Every instruction of the list issues at its state with nothing in its way. -/
def AllMet (l : List (State × Instr × Spec)) : Prop := ∀ x ∈ l, Met x.1 x.2.1 x.2.2 (fun _ _ => True)

theorem allMet_of {l : List (State × Instr × Spec)} (h : l.all (fun x => metB x.1 x.2.1 x.2.2 (fun _ _ => true)) = true) :
    AllMet l := by
  intro x hx
  exact met_of (by simpa using List.all_eq_true.mp h x hx)

/-! ## The checks of an access, as truth values -/

def grantedB (g : Region) (right : Right) (l : List Acc) : Bool :=
  g.kind != 0 && !g.splitp && kindGrants g.kind g.space right && !g.lost && l.all (fun x => decide (x.2.1 + x.2.2 ≤ g.bytes))

theorem grantedB_iff (g : Region) (right : Right) (l : List Acc) : grantedB g right l = true ↔ Granted g right l := by
  simp only [grantedB, Bool.and_eq_true, bne_iff_ne, Bool.not_eq_true', List.all_eq_true, decide_eq_true_eq]
  exact ⟨fun h => ⟨h.1.1.1.1, h.1.1.1.2, h.1.1.2, h.1.2, h.2⟩, fun h => ⟨⟨⟨⟨h.kind, h.whole⟩, h.grants⟩, h.held⟩, h.inside⟩⟩

def goesB : Pass → Bool
  | .go => true
  | _ => false

theorem goesB_iff (p : Pass) : goesB p = true ↔ p = .go := by cases p <;> simp [goesB]

def unhinderedB (c : Ctx) (s : State) (g : Region) (acc : Access) (kind : Nat) (l : List Acc) : Bool :=
  goesB (pass c s g acc l) && (watched c s g kind l).isNone && (heldUp c s g acc l).isNone

theorem unhinderedB_iff (c : Ctx) (s : State) (g : Region) (acc : Access) (kind : Nat) (l : List Acc) :
    unhinderedB c s g acc kind l = true ↔ Unhindered c s g acc kind l := by
  simp only [unhinderedB, Bool.and_eq_true, goesB_iff, Option.isNone_iff_eq_none]
  exact ⟨fun h => ⟨h.1.1, h.1.2, h.2⟩, fun h => ⟨⟨h.mapped, h.unwatched⟩, h.present⟩⟩

/-! ## Statements about register instructions: their hypotheses are met -/

def dab : Spec := plain .both [.dst 0, .src 2, .src 4]
def da : Spec := plain .both [.dst 0, .src 2]
def dabW : Spec := plain .both [.dst64 0, .src64 2, .src64 4]
def dabP : Spec := plain .warp [.dst 0, .src 2, .src 4]
def daP : Spec := plain .warp [.dst 0, .src 2]
def late (sp : Spec) : Spec := { sp with la := some 0 }

/-- Lane `l` of register `r` of warp 4 holds `f l`. -/
def setV (r : Nat) (f : Nat → Word) (b : Block) : Block :=
  b.updWarp 4 (fun w => (List.range 32).foldl (fun w l => w.vset r l (f l)) w)
/-- Front register `r` holds `v`. -/
def setS (r : Nat) (v : DWord) (b : Block) : Block := { b with front := b.front.sset r v }
def setTh (warp : Nat) (f : Thread → Thread) (b : Block) : Block := b.updThread warp false f

theorem witness_arithmetic : AllMet [
    (at_ 4, .add 0 2 4 0 0, dab), (at_ 4, .add 0 2 4 1 3, dabW), (at_ 4, .sub 0 2 4 0 0, dab), (at_ 4, .mul 0 2 4 0 0, dab),
    (at_ 4, .neg 0 2 0 0, da), (at_ 4, .abs 0 2 0 0, da), (at_ 4, .mad 0 2 4 0 0, plain .both [.dst 0, .src 0, .src 2, .src 4]),
    (at_ 32, .add 0 2 4 0 7, dab), (at_ 4, .min 0 2 4 0, dab), (at_ 4, .max 0 2 4 0, dab), (at_ 4, .minn 0 2 4 0, dab),
    (at_ 4, .maxn 0 2 4 0, dab)] := allMet_of (by decide +kernel)

theorem witness_moves : AllMet [
    (at_ 4, .addi 0 2 1, da), (at_ 32, .addi 0 2 1, da), (at_ 4, .lea 0 2 4 3, dab), (at_ 32, .lea 0 2 4 3, dab),
    (at_ 4, .mov 0 2 0, da), (at_ 4, .mov 0 2 1, plain .both [.dst64 0, .src64 2]), (at_ 4, .movi 0 1, plain .both [.dst 0]),
    (at_ 4, .movh 0 1, plain .both [.dst 0, .src 0]), (at_ 4, .sel 0 2 4 0 1, dabP), (at_ 4, .mulh 0 2 4 0, dab),
    (at_ 4, .mulhn 0 2 4 1, dabW), (at_ 4, .madw 0 2 4 0, plain .both [.dst64 0, .src64 0, .src 2, .src 4])] :=
  allMet_of (by decide +kernel)

theorem witness_division : ∀ i ∈ [Instr.div 0 2 4 0, .divn 0 2 4 0, .rem 0 2 4 0, .remn 0 2 4 0],
    Met (atWith 4 (setV 4 fun _ => 1)) i (late dab) (fun x _ => ∀ l ∈ x.lanes, x.r32 4 l ≠ 0) ∧
    Met (at_ 4) i (late dab) (fun x _ => ∃ l ∈ x.lanes, x.r32 4 l = 0) := by
  intro i hi
  fin_cases hi <;> exact ⟨met_of (by decide +kernel), met_of (by decide +kernel)⟩

/-- A refusal before the division's own: a register past the allotment. -/
theorem witness_division_refused : ∃ c, (atWith 4 (fun b => b.updWarp 4 (fun w => { w with allot := 4 }))).ctx? = some c ∧
    c.resumed = false ∧ staticRefusal (at_ 4) c (.div 0 2 4 0) (late dab) (c.covered && c.act == 0) = some 6 :=
  ⟨_, rfl, by decide +kernel, by decide +kernel⟩

theorem witness_logic : AllMet [
    (at_ 4, .and 0 2 4 0, dab), (at_ 4, .or 0 2 4 0, dab), (at_ 4, .xor 0 2 4 1, dabW), (at_ 4, .andn 0 2 4 0, dab),
    (at_ 4, .not 0 2 0, da), (at_ 4, .shl 0 2 4 0, dab), (at_ 4, .shr 0 2 4 0, dab),
    (at_ 4, .sar 0 2 4 1, plain .both [.dst64 0, .src64 2, .src 4]), (at_ 4, .rot 0 2 4 0, dab), (at_ 4, .shli 0 2 0 31, da),
    (at_ 4, .shri 0 2 0 0, da), (at_ 4, .sari 0 2 1 63, plain .both [.dst64 0, .src64 2])] := allMet_of (by decide +kernel)

theorem witness_bit_fields : AllMet [
    (at_ 4, .bfxn 0 2 4 0, dab), (at_ 4, .bfx 0 2 4 0, dab), (at_ 4, .bfi 0 2 4 0, plain .both [.dst 0, .src 0, .src 2, .src 4]),
    (at_ 4, .popc 0 2 0, da), (at_ 4, .clz 0 2 0, da), (at_ 4, .ctz 0 2 1, plain .both [.dst 0, .src64 2]),
    (at_ 4, .brev 0 2 0, da)] := allMet_of (by decide +kernel)

theorem witness_compares : AllMet [
    (at_ 4, .cmp 0 0 2 4 0, plain .warp [.src 2, .src 4]), (at_ 4, .cmp 5 7 2 4 2, plain .warp [.src64 2, .src64 4]),
    (at_ 4, .cmpi 13 0 2 5, plain .warp [.src 2])] := allMet_of (by decide +kernel)

theorem witness_lane_exchange : AllMet [
    (at_ 4, .shflIdx 0 2 4, dabP), (at_ 4, .shflUp 0 2 4, dabP), (at_ 4, .shflDn 0 2 4, dabP), (at_ 4, .shflXor 0 2 4, dabP),
    (at_ 4, .voteAny 0 1, plain .warp [.dst 0]), (at_ 4, .voteAll 0 1, plain .warp [.dst 0]),
    (at_ 4, .voteBal 0 1, plain .warp [.dst 0])] := allMet_of (by decide +kernel)

theorem witness_masks : AllMet [
    (at_ 4, .kand 0 1 2, plain .warp []), (at_ 4, .kor 0 1 2, plain .warp []), (at_ 4, .kxor 0 1 2, plain .warp []),
    (at_ 4, .kandn 0 1 2, plain .warp []), (at_ 4, .knot 0 1, plain .warp []), (at_ 4, .kmov 0 1, plain .warp []),
    (at_ 4, .kset 0 2, plain .warp [.src 2]), (at_ 4, .kget 2 0, plain .warp [.dst 2]),
    (at_ 4, .ksave 104, plain .warp [.run 104 8 true]), (at_ 4, .krest 0, plain .warp [.run 0 8 false]),
    (at_ 4, .exmget 2, plain .warp [.dst 2])] := allMet_of (by decide +kernel)

theorem witness_exmset :
    Met (atWith 4 (setV 2 fun _ => 1)) (.exmset 2) (plain .warp [.src 2]) (fun x _ => x.r32 2 x.low &&& x.th.path ≠ 0) ∧
    Met (at_ 4) (.exmset 2) (plain .warp [.src 2]) (fun x _ => x.r32 2 x.low &&& x.th.path = 0) :=
  ⟨met_of (by decide +kernel), met_of (by decide +kernel)⟩

theorem witness_float : AllMet [
    (at_ 4, .fadd 0 2 4 0, dabP), (at_ 4, .fsub 0 2 4 2, dabP), (at_ 4, .fmul 0 2 4 3, dabP),
    (at_ 4, .ffma 0 2 4 1, plain .warp [.dst64 0, .src64 0, .src64 2, .src64 4]), (at_ 4, .fmin 0 2 4 0, dabP),
    (at_ 4, .fmax 0 2 4 0, dabP), (at_ 4, .fabs 0 2 0, daP), (at_ 4, .fneg 0 2 0, daP), (at_ 4, .fdivF32 0 2 4 0, late dabP),
    (at_ 4, .fdivF64 0 2 4 0, late (plain .warp [.dst64 0, .src64 2, .src64 4])), (at_ 4, .fscale 0 2 4 0, dabP),
    (at_ 4, .frnd 0 2 0, daP), (at_ 4, .frcp 0 2 0 0, late daP), (at_ 4, .frsq 0 2 0 0, late daP),
    (at_ 4, .fsqrt 0 2 0 0, late daP), (at_ 4, .fexp2 0 2 0 0, late daP), (at_ 4, .flog2 0 2 0 0, late daP),
    (at_ 4, .fsin 0 2 0 0, late daP), (at_ 4, .fcos 0 2 0 0, late daP), (at_ 4, .fcmp 7 0 2 4 0, plain .warp [.src 2, .src 4]),
    (at_ 4, .fclass 0 2 2, daP), (at_ 4, .fcvt 0 2 1 4 0, daP), (at_ 4, .icvt 0 2 0 6, daP), (at_ 4, .ftoi 0 2 7 3, daP)] :=
  allMet_of (by decide +kernel)

theorem witness_packing : AllMet [
    (at_ 4, .pack 0 2 4 0 0, plain .warp [.run 0 1 true, .run 0 1 false, .src 2, .src 4]),
    (at_ 4, .unpk 0 2 0 0, plain .warp [.run 0 1 true, .src 2]),
    (at_ 4, .pack 0 4 6 0 1, plain .warp [.run 0 3 true, .run 0 3 false, .src 4, .src 6]),
    (at_ 4, .unpk 0 2 1 1, plain .warp [.run 0 2 true, .run 2 3 false]), (at_ 4, .bpsplit 0 2 7, daP),
    (at_ 4, .bpjoin 0 2 7, plain .warp [.dst 0, .run 2 8 false]),
    (at_ 4, .bpdot 0 8 16 0, late (plain .warp [.dst 0, .src 0, .run 8 8 false, .run 16 8 false]))] :=
  allMet_of (by decide +kernel)

/-! ## Control flow -/

def entry (k : StackKind) (l : LogStack) : StackEntry := { kind := k, log := l, pc := 0x4100, mask := 1, fmt := 0 }
/-- The stack of warp 4. -/
def setStack4 (l : List StackEntry) (b : Block) : Block := b.setStack 4 l 0

theorem witness_jumps : AllMet [(at_ 4, .bra 1, flow .both []), (at_ 32, .bra 1, flow .both []),
    (at_ 32, .bru 0 3 5, flow .front [.src64 0]), (at_ 32, .nop, flow .both [])] := allMet_of (by decide +kernel)

theorem witness_calls :
    Met (at_ 4) (.call 1) (flow .both []) (fun x _ => (x.b.stackOf x.t.warp).length < 64) ∧
    Met (atWith 4 (setStack4 (List.replicate 63 (entry .call .warp)))) (.call 1) (flow .both [])
      (fun x _ => (x.b.stackOf x.t.warp).length < 64) ∧
    Met (atWith 4 (setStack4 (List.replicate 64 (entry .call .warp)))) (.call 1) (flow .both [])
      (fun x _ => 64 ≤ (x.b.stackOf x.t.warp).length) ∧
    Met (atWith 4 (setStack4 [entry .call .warp])) .ret (flow .both [])
      (fun x _ => (x.b.ownEntries x.t).head? = some (entry .call .warp) ∧ (entry .call .warp).kind = .call) ∧
    Met (at_ 4) .ret (flow .both []) (fun x _ => ∀ e ∈ (x.b.ownEntries x.t).head?, e.kind ≠ .call) ∧
    Met (at_ 32) (.jmpi 2) (flow .both [.src64 2])
      (fun x _ => (x.r64 2 x.low).toNat < 2 ^ 56 ∧ (x.r64 2 x.low).toNat % 4 = 0) ∧
    Met (atWith 32 (setS 2 2)) (.jmpi 2) (flow .both [.src64 2])
      (fun x _ => 2 ^ 56 ≤ (x.r64 2 x.low).toNat ∨ (x.r64 2 x.low).toNat % 4 ≠ 0) ∧
    Met (at_ 4) .rcv (flow .warp []) (fun x _ => x.b.curRec x.t = none) :=
  ⟨met_of (by decide +kernel), met_of (by decide +kernel), met_of (by decide +kernel), met_of (by decide +kernel),
   met_of (by decide +kernel), met_of (by decide +kernel), met_of (by decide +kernel), met_of (by decide +kernel)⟩

def setK4 (v : Word) (b : Block) : Block := b.updWarp 4 (fun w => { w with k := lset w.k 0 (fun _ => v) })

theorem witness_divergence :
    let i := Instr.brd 0 4 8
    let taken := fun (x : Ctx) => x.th.exm &&& x.w.kreg 0
    let splits := fun (x : Ctx) (s : State) => taken x ≠ x.th.exm ∧ taken x ≠ 0 ∧ s.pkg.minimal = false
    Met (atWith 4 (setK4 0xFFFFFFFF)) i (flow .warp []) (fun x _ => taken x = x.th.exm) ∧
    Met (at_ 4) i (flow .warp []) (fun x _ => taken x = 0 ∧ x.th.exm ≠ 0) ∧
    Met (atWith 4 (setK4 1)) i (flow .warp []) (fun x s => splits x s ∧ x.b.logOf x.t = .warp ∧ (x.b.stackOf x.t.warp).length < 64) ∧
    Met (atWith 4 (fun b => setK4 1 (b.updWarp 4 (fun w => { w with split := true })))) i (flow .warp [])
      (fun x s => splits x s ∧ x.b.logOf x.t ≠ .warp ∧ (x.b.stackOf x.t.warp).length < 63) ∧
    Met (atWith 4 (fun b => setK4 1 (setStack4 (List.replicate 64 (entry .call .warp)) b))) i (flow .warp [])
      (fun x s => taken x ≠ x.th.exm ∧ taken x ≠ 0 ∧ (s.pkg.minimal = true ∨
        64 < (x.b.stackOf x.t.warp).length + (if x.b.logOf x.t = .warp then 1 else 2))) := by
  refine ⟨?_, ?_, ?_, ?_, ?_⟩ <;> exact met_of (by decide +kernel)

/-- A thread that waits in `i`. -/
def waiting (warp : Nat) (i : Instr) (w : Wait) (stage : Nat) (answer : Option (List DWord)) (f : Block → Block) : State :=
  atWith warp (fun b => setTh warp (fun th =>
    { th with hold := some { wait := w, ins := some i, stage := stage, answer := answer, dq := none } }) (f b))

def owedOp : Pend := { id := 1, regs := [], memOp := true, rg := none }

theorem witness_paths :
    Met (atWith 4 (setStack4 [entry .reconverge .warp])) .rcv (flow .warp []) (fun x _ => (x.b.curRec x.t).isSome) ∧
    Met (at_ 4) .exit (flow .both []) (fun x s => exitWait s x = none) ∧
    Met (at_ 32) .exit (flow .both []) (fun x s => exitWait s x = none) ∧
    Met (atWith 4 (setTh 4 fun th => { th with pends := [owedOp] })) .exit (flow .both [])
      (fun x s => exitWait s x = some .performed) ∧
    MetLate (waiting 4 .exit .performed 0 none id) .exit (flow .both []) (fun x s => exitWait s x = none) ∧
    AllMet [(at_ 4, .yield, { plain .both [] with roles := [.vector], ends := true })] ∧
    Met { at_ 4 with pkg := { (at_ 4).pkg with minimal := true } } (.pblk 0 7 0xFF) (flow .warp []) (fun _ _ => True) :=
  ⟨met_of (by decide +kernel), met_of (by decide +kernel), met_of (by decide +kernel), met_of (by decide +kernel),
   metLate_of (by decide +kernel), allMet_of (by decide +kernel), met_of (by decide +kernel)⟩

/-- A predicate block whose captured mask leaves the next word no active lane. -/
theorem witness_covered : ∃ c, (atWith 4 (setTh 4 fun th => { th with pblk := some { left := 1, pattern := 1, kcap := 0 } })).ctx?
      = some c ∧ c.resumed = false ∧ c.th.pblk.isSome ∧ c.act = 0 ∧
    staticRefusal (at_ 4) c (.add 0 2 4 0 0) dab true = none :=
  ⟨_, rfl, by decide +kernel, by decide +kernel, by decide +kernel, by decide +kernel⟩

/-! ## Thread and system registers -/

def owedReg : Pend := { id := 1, regs := [.v 9], memOp := false, rg := none }
/-- A thread in its handler. -/
def inTrap (warp : Nat) (f : Block → Block) : State := atWith warp (fun b => setTh warp (fun th => { th with trap := true }) (f b))

theorem witness_thread_registers :
    let set := plain .front [.src64 2]
    AllMet [(at_ 4, .rds 0 15, plain .both [.dst 0]), (at_ 32, .rds 0 0, plain .both [.dst 0]), (at_ 32, .swin 2, plain .front [])] ∧
    Met (at_ 32) (.yset 7 2) set (fun x s => s.allPerformed x.t = true) ∧
    Met (atWith 32 (setTh 32 fun th => { th with pends := [owedOp] })) (.yset 7 2) set (fun x s => s.allPerformed x.t = false) :=
  ⟨allMet_of (by decide +kernel), met_of (by decide +kernel), met_of (by decide +kernel)⟩

theorem witness_windows :
    let inside := fun (x : Ctx) => (6 : BitVec 11).toNat < 1024 ∧ 16 * (6 : BitVec 11).toNat < x.w.allot
    Met (at_ 4) (.win 6) (plain .warp []) (fun x _ => inside x ∧ (x.w.split = false ∨ x.th.trap = true)) ∧
    Met (inTrap 4 (fun b => b.updWarp 4 (fun w => { w with split := true }))) (.win 6) (plain .warp [])
      (fun x _ => inside x ∧ (x.w.split = false ∨ x.th.trap = true)) ∧
    Met (atWith 4 (fun b => b.updWarp 4 (fun w => { w with split := true }))) (.win 6) (plain .warp [])
      (fun x _ => inside x ∧ x.w.split = true ∧ x.th.trap = false) ∧
    Met (at_ 4) (.win 7) (plain .warp []) (fun x _ => x.w.allot ≤ 16 * (7 : BitVec 11).toNat) :=
  ⟨met_of (by decide +kernel), met_of (by decide +kernel), met_of (by decide +kernel), met_of (by decide +kernel)⟩

theorem witness_formats :
    let merged := fun (x : Ctx) => (x.th.fmt &&& ~~~(x.r32 4 x.low)) ||| (x.r32 2 x.low &&& x.r32 4 x.low)
    let legal := fun (v : Word) => (v.extractLsb' 22 2).toNat ≤ 1 ∧ v.extractLsb' 19 3 ≠ 0 ∧ v.extractLsb' 16 3 ≠ 0 ∧
      (v.extractLsb' 16 3).toNat ≤ (v.extractLsb' 19 3).toNat
    let setf := plain .warp [.src 2, .src 4]
    Met (at_ 4) (.setf 2 4) setf (fun x _ => x.th.pends = [] ∧ legal (merged x)) ∧
    Met (atWith 4 (setV 4 fun _ => 0x380000)) (.setf 2 4) setf (fun x _ => x.th.pends = [] ∧ ¬ legal (merged x)) ∧
    Met (atWith 4 (setTh 4 fun th => { th with pends := [owedReg] })) (.setf 2 4) setf (fun x _ => x.th.pends ≠ []) ∧
    Met (at_ 4) (.getf 2) (plain .warp [.dst 2]) (fun x _ => x.th.pends = []) ∧
    Met (at_ 4) (.flags 2 4) (plain .warp [.src 4, .dst 2]) (fun x _ => x.th.pends = []) ∧
    Met (atWith 4 (setTh 4 fun th => { th with pends := [owedReg] })) (.getf 2) (plain .warp [.dst 2]) (fun x _ => x.th.pends ≠ []) ∧
    Met (atWith 4 (setTh 4 fun th => { th with pends := [owedReg] })) (.flags 2 4) (plain .warp [.src 4, .dst 2])
      (fun x _ => x.th.pends ≠ []) := by
  refine ⟨?_, ?_, ?_, ?_, ?_, ?_, ?_⟩ <;> exact met_of (by decide +kernel)

def csrwSpec (front : Bool) : Spec := { plain .both [.src64 2, .run 2 (if front then 1 else 2) false] with priv := true }

theorem witness_system_registers :
    Met (at_ 32) (.csrr 2 0x300) (plain .both [.items 2 1 true]) (fun x _ => x.th.pends = []) ∧
    Met (inTrap 32 id) (.csrr 2 0x101) { plain .both [.items 2 1 true] with priv := true } (fun x _ => x.th.pends = []) ∧
    Met (inTrap 32 id) (.csrw 2 0x301) (csrwSpec true) (fun x _ => x.th.pends = []) ∧
    Met (inTrap 4 id) (.csrwSet 2 0x301) (csrwSpec false) (fun x _ => x.th.pends = []) ∧
    Met (inTrap 4 id) (.csrwClr 2 0x301) (csrwSpec false) (fun x _ => x.th.pends = []) ∧
    Met (atWith 32 (setS 2 7)) (.lwake 2) (plain .both [.items 2 1 false])
      (fun x _ => (x.item 2 0).toNat < 8 ∨ (16 ≤ (x.item 2 0).toNat ∧ (x.item 2 0).toNat < 32)) ∧
    Met (inTrap 32 (setS 4 0x100000000)) (.tlbinv 2 4) { plain .both [.items 2 1 false, .items 4 1 false] with priv := true }
      (fun x s => fld (x.item 4 0) 31 18 = 0 ∧ fld (x.item 4 0) 63 48 = 0 ∧ (fld (x.item 4 0) 17 16 = 0 ↔ fld (x.item 4 0) 47 32 ≠ 0) ∧
        (fld (x.item 4 0) 17 16 = 0 → (x.item 2 0).toNat % 2 ^ 14 = 0) ∧ s.allPerformed x.t = true) ∧
    AllMet [(at_ 32, .time 2, flow .both [.items 2 1 true]), (at_ 32, .winw 2, flow .both [.items 2 2 true])] := by
  refine ⟨?_, ?_, ?_, ?_, ?_, ?_, ?_, ?_⟩
  case refine_8 => exact allMet_of (by decide +kernel)
  all_goals exact met_of (by decide +kernel)

/-- A trap register outside trap mode, with a register past the allotment and without. -/
theorem witness_trap_register :
    let sp := plain .both [.items 2 1 true]
    (∃ c, (at_ 32).ctx? = some c ∧ c.resumed = false ∧ (c.covered && c.act == 0) = false ∧ c.th.trap = false ∧
      staticRefusal (at_ 32) c (.csrr 2 0x100) sp false = none) ∧
    (∃ c, (atWith 4 (fun b => b.updWarp 4 (fun w => { w with allot := 2 }))).ctx? = some c ∧ c.resumed = false ∧
      (c.covered && c.act == 0) = false ∧ c.th.trap = false ∧ staticRefusal (at_ 4) c (.csrr 2 0x101) sp false = some 6) :=
  ⟨⟨_, rfl, by decide +kernel⟩, ⟨_, rfl, by decide +kernel⟩⟩

theorem witness_counters :
    let perf := flow .both [.items 2 1 true, .items 4 1 false]
    let open_ := fun (x : Ctx) (s : State) => x.th.trap = true ∨
      ((s.core x.b.coreIx).pmcfg.getD ((x.item 4 0).toNat % 8) 0).getLsbD 62 = true
    Met (inTrap 32 (setS 4 7)) (.perf 2 4) perf (fun x s => (x.item 4 0).toNat < 8 ∧ open_ x s) ∧
    Met (inTrap 32 (setS 4 8)) (.perf 2 4) perf (fun x s => 8 ≤ (x.item 4 0).toNat ∧ open_ x s) ∧
    Met (at_ 32) (.perf 2 4) perf (fun x s => ¬ open_ x s) :=
  ⟨met_of (by decide +kernel), met_of (by decide +kernel), met_of (by decide +kernel)⟩

/-! ## Loads, stores and copies -/

def reg (kind : BitVec 3) (space : BitVec 2) : Region := { Region.empty with kind := kind, space := space, lenm1 := 31, slot := 0 }
def setR (warp r : Nat) (g : Region) (b : Block) : Block := b.setRegion warp r g

def ldSpec (st : Streams) (dst : Opd) (roles : List Role) : Spec :=
  { plain st [dst, .src 2, .region 0] with la := some 0, roles := roles }
def accs (x : Ctx) (size : Nat) : List Acc := x.lanes.map (fun l => (l, x.offset 2 0 l, size))
@[reducible] def loadOk (x : Ctx) (s : State) (bounds accs : List Acc) : Prop :=
  let g := x.rg 0
  grantedB g .load bounds ∧ unhinderedB x s g .read 62 accs ∧
  (∀ e ∈ (s.core x.b.coreIx).log, s.orderedBy x.t e.t e.id = true → ∀ a ∈ accs, e.covers g a.2.1 a.2.2 = false) ∧
  (g.space = 0 → ((s.entry x.b.die g.tag).map (·.stamp)).getD 0 = 0) ∧ ownAtomic x s g accs = false

theorem witness_loads :
    let all := [Role.matrix, .copy, .vector]
    ∀ x ∈ [(Instr.ld32 0 0 2 0 0, Streams.both, Opd.dst 0, all, 4), (.ld64 0 0 2 0 0, .both, .dst64 0, all, 8),
        (.ldI8 0 0 2 0 0, .warp, .dst 0, all, 1), (.ldN8 0 0 2 0 0, .warp, .dst 0, all, 1), (.ldI16 0 0 2 0 0, .warp, .dst 0, all, 2),
        (.ldN16 0 0 2 0 0, .warp, .dst 0, all, 2), (.ldn 0 0 2 0 0, .warp, .dst 0, [.matrix, .vector], 4)],
      Met (atWith 4 (fun b => setR 4 0 (reg 1 2) (setV 2 (fun _ => 4088) b))) x.1 (ldSpec x.2.1 x.2.2.1 x.2.2.2.1)
        (fun c s => loadOk c s (accs c x.2.2.2.2) (accs c x.2.2.2.2) ∧ ∀ l ∈ c.lanes, c.offset 2 0 l % x.2.2.2.2 = 0) := by
  intro all x hx
  fin_cases hx <;> exact met_of (by decide +kernel)

theorem witness_plane_load :
    let sp : Spec := { plain .warp [.run 8 8 true, .run 2 2 false, .region 0] with la := some 0, roles := [.matrix, .vector] }
    Met (atWith 4 (fun b => setR 4 0 (reg 2 2) (setV 3 (fun _ => 580) b))) (.ldbp 8 0 2 0 0) sp (fun x s =>
      loadOk x s (x.lanes.map (fun l => (l, x.offset 2 0 l, 7 * (x.r32 3 l).toNat + 4)))
        (x.lanes.flatMap (fun l => (List.range 8).map (fun j => (l, x.offset 2 0 l + j * (x.r32 3 l).toNat, 4)))) ∧
      ∀ l ∈ x.lanes, x.offset 2 0 l % 4 = 0 ∧ (x.r32 3 l).toNat % 4 = 0) := by
  intro sp
  exact met_of (by decide +kernel)

def outs (x : Ctx) : List Acc := (accs x 4).filter (fun a => decide ((x.rg 0).bytes < a.2.1 + 4))
def odds (x : Ctx) : List Acc := (accs x 4).filter (fun a => decide (a.2.1 % 4 ≠ 0))
def protB : Pass → Option (Nat × Word)
  | .prot va m => some (va, m)
  | _ => none

theorem witness_access_refusals :
    let st := plain .both [.src 0, .src 2, .region 0]
    ∀ x ∈ [(Instr.ld32 0 0 2 0 0, ldSpec .both (.dst 0) [.matrix, .copy, .vector], Right.load, Access.read),
        (.st32 0 0 2 0 0, { st with la := some 0, roles := [.copy, .vector] }, .store, .write)],
      Met (atWith 4 (fun b => setR 4 0 (reg 1 2) (setV 2 (fun _ => 4096) b))) x.1 x.2.1
        (fun c _ => checkRights (c.rg 0) x.2.2.1 = none ∧ outs c ≠ []) ∧
      Met (atWith 4 (fun b => setR 4 0 (reg 1 2) (setV 2 (fun _ => 2) b))) x.1 x.2.1
        (fun c _ => grantedB (c.rg 0) x.2.2.1 (accs c 4) ∧ odds c ≠ []) ∧
      Met { atWith 4 (setR 4 0 { reg 1 0 with base := 128 }) with
          tlb := [{ cluster := 0, asid := 0, glb := true, va := 0x4000, pa := 0x4000, bits := 14, perm := 0 }] } x.1 x.2.1
        (fun c s => grantedB (c.rg 0) x.2.2.1 (accs c 4) ∧ odds c = [] ∧ (protB (pass c s (c.rg 0) x.2.2.2 (accs c 4))).isSome) ∧
      Met (at_ 4) x.1 x.2.1 (fun c _ => (c.rg 0).kind = 0) ∧
      Met (atWith 4 (setR 4 0 { reg 1 2 with splitp := true })) x.1 x.2.1 (fun c _ => (c.rg 0).kind ≠ 0 ∧ (c.rg 0).splitp) ∧
      Met (atWith 4 (setR 4 0 (reg 3 2))) x.1 x.2.1 (fun c _ => (c.rg 0).kind ≠ 0 ∧ (c.rg 0).splitp = false ∧
        kindGrants (c.rg 0).kind (c.rg 0).space x.2.2.1 = false) := by
  intro st x hx
  fin_cases hx <;> (refine ⟨?_, ?_, ?_, ?_, ?_, ?_⟩ <;> exact met_of (by decide +kernel))

theorem witness_stores :
    let half := [Role.copy, Role.vector]
    ∀ x ∈ [(Instr.st32 0 0 2 0 0, Streams.both, Opd.src 0, half, 4), (.st64 0 0 2 0 0, .both, .src64 0, half, 8),
        (.st16 0 0 2 0 0, .warp, .src 0, half, 2), (.st8 0 0 2 0 0, .warp, .src 0, half, 1),
        (.stn 0 0 2 0 0, .warp, .src 0, [.vector], 4), (.stbe 0 0 2 0 0, .warp, .run 0 2 false, [.vector], 4)],
      Met (atWith 4 (fun b => setR 4 0 (reg 1 2) (setV 2 (fun _ => 4088) b))) x.1 (ldSpec x.2.1 x.2.2.1 x.2.2.2.1)
        (fun c s => grantedB (c.rg 0) .store (accs c x.2.2.2.2) ∧ unhinderedB c s (c.rg 0) .write 61 (accs c x.2.2.2.2) ∧
          ownEntry c s (c.rg 0) = false ∧ ∀ l ∈ c.lanes, c.offset 2 0 l % x.2.2.2.2 = 0) := by
  intro half x hx
  fin_cases hx <;> exact met_of (by decide +kernel)

/-- The scratch of a block, and a global line that the L1 holds. -/
theorem witness_scratch_access : ∃ (s : State) (c : Ctx), s.ctx? = some c ∧ s.blk? c.t.blk = some c.b ∧
    2 ≤ (reg 1 2).space.toNat ∧ (∀ a ∈ [((0 : Nat), (8 : Nat), (4 : Nat))],
      (∀ x ∈ sectorsOf (c.b.scratchOff 2 ((reg 1 2).addr a.2.1)) a.2.2, x ∉ c.b.spoison ∧ kget c.b.ssums x = none) ∧
      c.b.absentIn (c.b.scratchOff 2 ((reg 1 2).addr a.2.1)) a.2.2 = false) :=
  ⟨at_ 4, _, rfl, by decide +kernel, by decide +kernel, by decide +kernel⟩

def line0 : L1Line :=
  { core := 0, asid := 0, glb := true, shared := false, line := 0, phys := 0, slot := 0, st := .clean, data := List.replicate 128 0,
    poison := 0, sums := [], parts := [], who := [] }

/-- Two lanes store to one line, with bytes in common. -/
theorem witness_cached_store : ∃ (s : State) (c : Ctx), s.ctx? = some c ∧ s.blk? c.t.blk = some c.b ∧ (reg 1 0).cached = true ∧
    ∀ e ∈ [((0 : Nat), (124 : Nat), (7 : DWord), (0xFFFFFFFF : DWord)), (1, 122, 9, 0xFFFF)],
      (reg 1 0).addr e.2.1 % 128 + 4 ≤ 128 ∧ s.lineOf c.b (reg 1 0) ((reg 1 0).addr e.2.1) = some line0 ∧
        keyPlace (128 * line0.phys) ≠ 16 ∧ keyPlace (128 * line0.phys) ≠ 17 :=
  ⟨{ at_ 4 with l1 := [line0] }, _, rfl, by decide +kernel, by decide +kernel, by decide +kernel⟩

/-! ### Copies -/

def copying (st : Streams) (opds : List Opd) : Spec := { plain st opds with roles := [.copy] }
def regAt (kind : BitVec 3) (space : BitVec 2) (base : BitVec 49) : Region := { reg kind space with base := base, lenm1 := 7 }
/-- Two regions of 1 KiB in scratch, and the items of a copy. -/
def copyState (gd : Region) (dO sO ctl : DWord) : State :=
  atWith 32 (fun b => setR 32 0 gd (setR 32 1 (regAt 2 2 8) (setS 2 dO (setS 3 sO (setS 4 ctl b)))))

@[reducible] def copyOk (x : Ctx) (s : State) (gd gs : Region) (dst src : List Acc) : Prop :=
  grantedB gd .store dst ∧ grantedB gs .load src ∧ s.allPerformed x.t = true

theorem witness_copies :
    let dO := fun (x : Ctx) => (x.item 2 0).toNat
    let sO := fun (x : Ctx) => (x.item 2 1).toNat
    let ctl := fun (x : Ctx) => (x.item 2 2).toNat
    let len := fun (x : Ctx) => ctl x % 2 ^ 32
    let sizes := fun (x : Ctx) (limit : Nat) => dO x % 16 = 0 ∧ sO x % 16 = 0 ∧ len x % 16 = 0 ∧ 0 < len x ∧ len x ≤ 2 ^ 31 ∧
      ctl x < limit
    let items := [Opd.region 0, .region 1, .items 2 3 false]
    Met (copyState (regAt 1 2 0) 1008 1008 0xF00000010) (.cpy 0 1 2) (copying .both items) (fun x s =>
      copyOk x s (x.rg 0) (x.rg 1) [(x.low, dO x, len x)] [(x.low, sO x, len x)] ∧ sizes x (2 ^ 36)) ∧
    Met ((copyState (regAt 2 2 8) 0 0 0).updBlk 0 (fun b => setR 32 0 (regAt 1 2 0) (setS 2 16 (setS 3 0 (setS 4 0x10 b)))))
      (.cpy 0 0 2) (copying .both [.region 0, .region 0, .items 2 3 false]) (fun x _ => dO x + len x ≤ sO x ∨ sO x + len x ≤ dO x) ∧
    Met (copyState (regAt 1 3 0) 0 0 0x0F00000010) (.xst 0 1 2) (copying .both items) (fun x s =>
      copyOk x s (x.rg 0) (x.rg 1) [(x.low, dO x, len x)] [(x.low, sO x, len x)] ∧ sizes x (2 ^ 40) ∧ (x.rg 0).space = 3 ∧
        ctl x / 2 ^ 36 < x.b.clusz) := by
  refine ⟨?_, ?_, ?_⟩ <;> exact met_of (by decide +kernel)

/-- The COPY warp. -/
def setV5 (r : Nat) (f : Nat → Word) (b : Block) : Block :=
  b.updWarp 5 (fun w => (List.range 32).foldl (fun w l => w.vset r l (f l)) w)
def gatherState (ctl : Word) (gd : Region) : State :=
  atWith 5 (fun b => setR 5 0 gd (setR 5 1 (regAt 2 2 8) (setV5 2 (fun l => BitVec.ofNat 32 (4 * l)) (setV5 3 (fun _ => 1020)
    (setV5 4 (fun _ => ctl) b)))))

theorem witness_gathers :
    let gctl := fun (x : Ctx) => (x.r32 4 x.low).toNat
    let size := fun (x : Ctx) => [4, 8, 16, 128].getD (gctl x % 4) 128
    let elems := fun (x : Ctx) (r : Nat) => x.lanes.map (fun l => (l, (x.r32 r l).toNat, size x))
    Met (gatherState 0xF0 (regAt 1 2 0)) (.cpyg 0 1 2) (copying .warp [.region 0, .region 1, .run 2 3 false]) (fun x s =>
      copyOk x s (x.rg 0) (x.rg 1) (elems x 2) (elems x 3) ∧ gctl x < 256 ∧ gctl x / 4 % 4 = 0 ∧
        ∀ l ∈ x.lanes, (x.r32 2 l).toNat % size x = 0 ∧ (x.r32 3 l).toNat % size x = 0) ∧
    Met (atWith 5 (fun b => setR 5 0 (regAt 1 2 0) (setV5 2 (fun l => BitVec.ofNat 32 (4 * l)) (setV5 3 (fun _ => 0xF09) b))))
      (.dupd 0 6 2) (copying .warp [.region 0, .run 6 1 false, .run 2 2 false]) (fun x s =>
      let ctl := (x.r32 3 x.low).toNat
      let accs := x.lanes.map (fun l => (l, (x.r32 2 l).toNat, 4))
      grantedB (x.rg 0) .update accs ∧ s.allPerformed x.t = true ∧ (∀ l ∈ x.lanes, (x.r32 2 l).toNat % 4 = 0) ∧
      ctl < 4096 ∧ ctl / 64 % 4 = 0 ∧ (dupdOp (ctl % 16) (ctl / 16 % 4)).isSome ∧
      goesB (pass x s (x.rg 0) .write accs) ∧ ownEntry x s (x.rg 0) = false) := by
  exact ⟨met_of (by decide +kernel), met_of (by decide +kernel)⟩

theorem witness_hints :
    let sp := copying .both [.region 0, .items 2 2 false]
    let off := fun (x : Ctx) => (x.item 2 0).toNat
    let ctl := fun (x : Ctx) => (x.item 2 1).toNat
    let granted := fun (x : Ctx) => grantedB (x.rg 0) .load [(x.low, off x, ctl x % 2 ^ 32)]
    let line := fun (x : Ctx) => x.b.scratchOff (x.rg 0).space.toNat ((x.rg 0).addr (off x))
    let clean := fun (x : Ctx) (s : State) => (x.rg 0).space = 0 → ((s.entry x.b.die (x.rg 0).tag).map (·.stamp)).getD 0 = 0
    Met (copyState (regAt 1 2 0) 0 0x200000400 0) (.pref 0 2) sp (fun x s => (granted x ∧ (x.rg 0).kind ≠ 4) ∧ ctl x < 3 * 2 ^ 32 ∧ clean x s) ∧
    Met (copyState (regAt 2 0 0) 0 0x100000400 0) (.pref 0 2) sp (fun x s => (granted x ∧ (x.rg 0).kind ≠ 4) ∧ ctl x < 3 * 2 ^ 32 ∧
      clean x s) ∧
    Met (copyState (regAt 2 0 0) 0 0x100000400 0) (.res 0 2) sp (fun x _ => (granted x ∧ (x.rg 0).kind ≠ 4) ∧ ctl x < 2 ^ 33) ∧
    Met (copyState (regAt 2 2 0) 0 1024 0) (.pwait 0 2) sp (fun x _ => ctl x < 2 ^ 32 ∧ 2 ≤ (x.rg 0).space.toNat ∧ granted x ∧
      x.b.absentIn (line x) (ctl x % 2 ^ 32) = false) ∧
    Met ((copyState (regAt 2 2 0) 0 1024 0).updBlk 0 (fun b => { b with absent := [(7, 1)] })) (.pwait 0 2) sp (fun x _ =>
      ctl x < 2 ^ 32 ∧ 2 ≤ (x.rg 0).space.toNat ∧ granted x ∧ x.b.absentIn (line x) (ctl x % 2 ^ 32) = true) := by
  refine ⟨?_, ?_, ?_, ?_, ?_⟩ <;> exact met_of (by decide +kernel)

/-! ## Borrows and regions -/

def borrowSpec : Spec := { plain .both [.region 0, .items 2 1 false, .items 4 1 false, .items 4 1 true] with roles := [.vector] }
def borrowState (av bv : DWord) : State := atWith 32 (fun b => setS 2 av (setS 4 bv b))

/-- An empty table gives the index that the free value names, within its size. -/
theorem kfree_nil {α : Type} (f n : Nat) (h : 0 < n) : kfree ([] : KMap α) f n = some (f % n) := by
  simp [kfree, kget, Nat.mod_lt f h]

theorem witness_borrow : ∃ c, Clear (borrowState 0 0x8000000000001000) (.borrow 0 2 4 0 0) borrowSpec c ∧
    let x := c.operands borrowSpec
    let av := x.item 2 0
    let bv := x.item 4 0
    let space := fld bv 63 62
    let base := fld av 55 0
    let len := fld bv 41 0
    let s := borrowState 0 0x8000000000001000
    let table := s.localTab c.b.coreIx space
    let e := newEntry c.b c.t.blk 1 space base len s.fresh false [] (.thread c.t 0)
    fld av 63 56 = 0 ∧ fld bv 61 42 = 0 ∧ base % 128 = 0 ∧ len % 128 = 0 ∧ 0 < len ∧ len ≤ 2 ^ 41 ∧
    base + len ≤ s.spaceLimit c.b space ∧ (c.b.region c.t.warp 0).kind = 0 ∧ space ≠ 0 ∧
    (space = 1 → c.b.coreIx / 128 < s.cds.length) ∧ s.roomFor c.b.coreIx space c.t = true ∧ (∀ f, (kfree table f (tableSize space)).isSome) ∧ localFree table e = true := by
  have h : Met (borrowState 0 0x8000000000001000) (.borrow 0 2 4 0 0) borrowSpec (fun x t =>
      let c := x
      let s := borrowState 0 0x8000000000001000
      let av := x.item 2 0
      let bv := x.item 4 0
      let space := fld bv 63 62
      let base := fld av 55 0
      let len := fld bv 41 0
      let table := s.localTab c.b.coreIx space
      let e := newEntry c.b c.t.blk 1 space base len s.fresh false [] (.thread c.t 0)
      fld av 63 56 = 0 ∧ fld bv 61 42 = 0 ∧ base % 128 = 0 ∧ len % 128 = 0 ∧ 0 < len ∧ len ≤ 2 ^ 41 ∧
      base + len ≤ s.spaceLimit c.b space ∧ (c.b.region c.t.warp 0).kind = 0 ∧ space ≠ 0 ∧
      (space = 1 → c.b.coreIx / 128 < s.cds.length) ∧ s.roomFor c.b.coreIx space c.t = true ∧ table = [] ∧
        tableSize space = 64 ∧ localFree table e = true) :=
    met_of (by decide +kernel)
  obtain ⟨c, hc, h1, h2, h3, h4, h5, h6, h7, h8, h9, h10, h11, h12, h13, h14⟩ := h
  refine ⟨c, hc, h1, h2, h3, h4, h5, h6, h7, h8, h9, h10, h11, ?_, h14⟩
  have h := kfree_nil (α := DieEntry)
  intro f
  change (kfree ((borrowState 0 0x8000000000001000).localTab (c.operands borrowSpec).b.coreIx _) f _).isSome = true
  rw [h12, h13]
  simp [h f 64 (by decide)]

theorem witness_borrow_answers :
    let reb : Spec := { plain .both [.region 0, .items 4 1 true] with roles := [.vector] }
    MetLate (waiting 32 (.borrow 0 2 4 0 0) (.borrow 0) 1 (some [0]) id) (.borrow 0 2 4 0 0) borrowSpec
      (fun x _ => x.stage = 1 ∧ x.answer = some [0]) ∧
    MetLate (waiting 32 (.reborrowS 0 4) (.convert 0 0) 2 (some [0]) id) (.reborrowS 0 4) reb
      (fun x _ => x.stage = 2 ∧ x.answer = some [0]) ∧
    MetLate (waiting 32 (.reborrowE 0 4) (.convert 0 0) 2 (some [1]) id) (.reborrowE 0 4) reb
      (fun x _ => x.stage = 2 ∧ x.answer = some [1]) :=
  ⟨metLate_of (by decide +kernel), metLate_of (by decide +kernel), metLate_of (by decide +kernel)⟩

theorem witness_borrow_refusals :
    let av := fun (x : Ctx) => x.item 2 0
    let bv := fun (x : Ctx) => x.item 4 0
    let space := fun (x : Ctx) => fld (bv x) 63 62
    let base := fun (x : Ctx) => fld (av x) 55 0
    let len := fun (x : Ctx) => fld (bv x) 41 0
    let bad := fun (x : Ctx) (s : State) => fld (av x) 63 56 ≠ 0 ∨ fld (bv x) 61 42 ≠ 0 ∨ base x % 128 ≠ 0 ∨ len x % 128 ≠ 0 ∨
      len x = 0 ∨ 2 ^ 41 < len x ∨ s.spaceLimit x.b (space x) < base x + len x
    Met (borrowState 0 0x8000000000001080) (.borrow 0 2 4 0 0) borrowSpec bad ∧
    Met (borrowState 0 0x8000000000001000) (.borrow 0 2 4 0 2) borrowSpec (fun x s => ¬ bad x s ∧
      ((x.b.region x.t.warp 0).kind ≠ 0 ∨ (2 ≤ (2 : Nat) ∧ 2 ≤ space x))) ∧
    Met ((borrowState 0 0x8000000000001000).updBlk 0 (setR 32 0 (reg 2 2))) (.borrow 0 2 4 0 0) borrowSpec (fun x s => ¬ bad x s ∧
      ((x.b.region x.t.warp 0).kind ≠ 0 ∨ (2 ≤ (0 : Nat) ∧ 2 ≤ space x))) :=
  ⟨met_of (by decide +kernel), met_of (by decide +kernel), met_of (by decide +kernel)⟩

def vectorSpec (opds : List Opd) : Spec := { plain .both opds with roles := [.vector] }
def privSpec (opds : List Opd) : Spec := { plain .both opds with roles := [.vector], priv := true }
@[reducible] def whole (g : Region) : Prop := g.kind ≠ 0 ∧ g.splitp = false
@[reducible] def top (g : Region) : Prop := whole g ∧ g.hasParent = false ∧ g.lost = false
def child (g : Region) : Region := { g with parent := 0x800#12 }

def soleEntry : DieEntry :=
  { kind := 2, state := .held, wp := false, taint := false, space := 2, proxy := false, base := 0, lenm1 := 31, lcount := 0, ctx := 0,
    core := 0, blk := 0, pieces := [], plist := 0, back := 0, try_ := false, user := .none, order := 0, status := 0, want := 0, stamp := 0 }

theorem witness_reborrow :
    let rd := fun (x : Ctx) => x.b.region x.t.warp 0
    let reb := vectorSpec [.region 0, .items 4 1 true]
    let at0 := fun (g : Region) => atWith 32 (setR 32 0 g)
    Met (at0 (reg 2 0)) (.reborrowS 0 4) reb (fun x _ => top (rd x) ∧ (rd x).kind = 2) ∧
    Met ((at0 (reg 1 2)).updCore 0 (fun c => { c with scratchTab := [(0, { soleEntry with kind := 1 })] })) (.reborrowS 0 4) reb
      (fun x s => top (rd x) ∧ (rd x).kind = 1 ∧ (rd x).space ≠ 0 ∧ s.busyRange x.b (rd x) = false ∧ s.opsPerformed x.t = true ∧
        (kget (s.localTab x.b.coreIx (rd x).space.toNat) (rd x).tag).any
          (fun e => e.state == .held && e.kind == 1 && e.blk == x.t.blk) = true) ∧
    Met (at0 (reg 1 0)) (.reborrowE 0 4) reb (fun x _ => top (rd x) ∧ (rd x).kind = 1) ∧
    Met (at0 (reg 2 2)) (.reborrowE 0 4) reb (fun x s => top (rd x) ∧ (rd x).kind = 2 ∧ (rd x).space ≠ 0 ∧
      s.soleLocal x.b.coreIx (rd x) = false) ∧
    Met ((at0 (reg 2 2)).updCore 0 (fun c => { c with scratchTab := [(0, soleEntry)] })) (.reborrowE 0 4) reb (fun x s =>
      top (rd x) ∧ (rd x).kind = 2 ∧ (rd x).space ≠ 0 ∧ s.soleLocal x.b.coreIx (rd x) = true) := by
  refine ⟨?_, ?_, ?_, ?_, ?_⟩ <;> exact met_of (by decide +kernel)

theorem witness_regions :
    let ra := fun (x : Ctx) => x.b.region x.t.warp 1
    let rd := fun (x : Ctx) => x.b.region x.t.warp 0
    let idle := fun (x : Ctx) (s : State) (g : Region) => s.busyRange x.b g = false ∧ s.opsPerformed x.t = true
    let quiet := fun (x : Ctx) (s : State) (g : Region) => s.busyL1 x.b g = false
    let at1 := fun (g : Region) (v : DWord) => (at_ 32).updBlk 0 (fun b => setR 32 1 g (setS 4 v (setS 5 1024 { b with
      warps := (fetchBlock 4 fetchPc).warps })))
    let targets := fun (x : Ctx) => (List.range 2).map (fun i => fld (x.item 4 0) (8 * i + 7) (8 * i))
    let shared := fun (x : Ctx) => ((List.range 8).map (fun i => fld (x.item 4 0) (8 * i + 7) (8 * i))).takeWhile (· ≠ 255)
    Met (at1 (reg 1 2) 0x2004) (.split 0 1 4 0 1) (vectorSpec [.region 0, .region 1, .items 4 2 false]) (fun x s => whole (ra x) ∧
      (ra x).kind ≠ 4 ∧ (∀ t ∈ targets x, targetOk x 0 1 t = true) ∧ (targets x).Nodup ∧
      cutPoints x 4 false 2 ((ra x).lenm1.toNat + 1) = some [0, 8, 32] ∧ quiet x s (ra x)) ∧
    Met (at1 (reg 1 2) 0x2004) (.split 0 1 4 1 1) (vectorSpec [.region 0, .region 1, .items 4 1 false]) (fun x s => whole (ra x) ∧
      (ra x).kind ≠ 4 ∧ (∀ t ∈ targets x, targetOk x 0 1 t = true) ∧ (targets x).Nodup ∧
      cutPoints x 4 true 2 ((ra x).lenm1.toNat + 1) = some [0, 16, 32] ∧ quiet x s (ra x)) ∧
    Met (at1 (reg 2 2) 0xFFFFFFFFFFFFFF04) (.share 0 1 4) (vectorSpec [.region 0, .region 1, .items 4 1 false]) (fun x s =>
      whole (ra x) ∧ (ra x).kind = 2 ∧ (∀ t ∈ shared x, targetOk x 0 1 t = true) ∧ (shared x).Nodup ∧ shared x ≠ [] ∧
      quiet x s (ra x)) ∧
    Met (at1 (child (reg 1 2)) 0) (.give 1) (vectorSpec [.region 1]) (fun x s => whole (ra x) ∧ (ra x).hasParent = true ∧
      quiet x (s.setRegion x.t 1 Region.empty) (ra x) ∧ (s.setRegion x.t 1 Region.empty).opsPerformed x.t = true) ∧
    Met (at1 { reg 1 2 with splitp := true } 0) (.join 1) (vectorSpec [.region 1])
      (fun x _ => (ra x).kind ≠ 0 ∧ ((ra x).splitp = true → (ra x).nsplit = 0)) ∧
    Met (at1 { reg 1 2 with splitp := true, nsplit := 1 } 0) (.join 1) (vectorSpec [.region 1])
      (fun x _ => (ra x).kind ≠ 0 ∧ (ra x).splitp = true ∧ (ra x).nsplit ≠ 0) ∧
    Met (at1 (reg 1 2) 0) (.returnR 1) (vectorSpec [.region 1]) (fun x s => top (ra x) ∧ (ra x).space ≠ 0 ∧
      idle x (s.setRegion x.t 1 Region.empty) (ra x)) ∧
    Met (at1 (reg 1 2) 0) (.rgmov 0 1) (vectorSpec [.region 0, .region 1])
      (fun x _ => (ra x).kind ≠ 0 ∧ ((0 : BitVec 5) ≠ 1 → (rd x).kind = 0)) ∧
    Met ((at1 { reg 1 0 with lost := true } 0).updBlk 0 (setTh 32 fun th => { th with trap := true })) (.rgclr 1)
      (privSpec [.region 1]) (fun x _ => (ra x).lost = true) ∧
    Met (((at1 { reg 1 0 with taint := true } 0).updBlk 0 (setTh 32 fun th => { th with trap := true })).updCd 0 (fun c =>
        { c with entries := [(0, soleEntry)] })) (.rgclrTaint 1) (privSpec [.region 1]) (fun x s => (ra x).kind = 1 ∧
      (ra x).taint = true ∧ (ra x).space = 0 ∧ s.entry x.b.die (ra x).tag = some soleEntry) := by
  refine ⟨?_, ?_, ?_, ?_, ?_, ?_, ?_, ?_, ?_, ?_⟩ <;> exact met_of (by decide +kernel)

theorem witness_rginfo : AllMet [(at_ 4, .rginfo 0 0, plain .both [.run 0 4 true, .region 0]),
    (at_ 32, .rginfo 0 0, plain .both [.run 0 2 true, .region 0])] := allMet_of (by decide +kernel)

/-! ## Atomics, reductions and fences -/

def slotSpec (n : Nat) (write : Bool) : Spec := { plain .both [.slots 4 n false write, .region 0] with roles := [.vector] }
/-- A region of kind `kind` in die-shared space, and two operands. -/
def sharedState (kind : BitVec 3) : State := atWith 32 (setR 32 0 (reg kind 1))

theorem witness_atomics :
    let accs := fun (x : Ctx) => x.lanes.map (fun l => (l, x.slotOff 4 0 l, 4))
    let ok := fun (x : Ctx) (s : State) (op : MemOp) (ord : BitVec 3) => grantedB (x.rg 0) .atom (accs x) = true ∧
      unhinderedB x s (x.rg 0) .atom 60 (accs x) = true ∧ pathBad x s (x.rg 0) .atom false op 0 0 (accs x) = [] ∧
      (2 ≤ ord.toNat → s.allPerformed x.t = true ∧ ∀ m ∈ x.th.sentWin, m + 2 ≤ s.pkg.timeNs.toNat / 2 ^ s.winK)
    (∀ i ∈ [(Instr.atomAdd 4 0 0 0 0, MemOp.add, true), (.atomSwap 4 0 0 0 0, .swap, true), (.atomAnd 4 0 0 0 0, .and, true),
        (.atomOr 4 0 0 0 0, .or, true), (.atomXor 4 0 0 0 0, .xor, true), (.atomMin 4 0 0 0 0, .min, true),
        (.atomMax 4 0 0 0 0, .max, true), (.atomMinn 4 0 0 0 0, .minn, true), (.atomMaxn 4 0 0 0 0, .maxn, true),
        (.atomFadd 4 0 0 0 0, .fadd, true), (.atomLd 4 0 0 0 0, .ld, true), (.atomSt 4 0 0 0 0, .st, false)],
      Met (sharedState 4) i.1 (slotSpec 2 i.2.2) (fun x s => ok x s i.2.1 0)) ∧
    Met (sharedState 4) (.atomCas 4 0 0 2 0) (slotSpec 3 true) (fun x s => ok x s .cas 2) ∧
    Met (sharedState 4) (.atomAdd 4 0 0 4 0) (slotSpec 2 true) (fun x s => ok x s .add 4) ∧
    MetLate (waiting 32 (.atomAdd 4 0 0 4 0) .performed 2 none id) (.atomAdd 4 0 0 4 0) (slotSpec 2 true) (fun x _ => x.stage = 2) := by
  refine ⟨?_, met_of (by decide +kernel), met_of (by decide +kernel), metLate_of (by decide +kernel)⟩
  intro i hi
  fin_cases hi <;> exact met_of (by decide +kernel)

/-- A request of an atomic on die-shared memory of die 7, and one on stack 15. -/
theorem witness_atomic_place :
    keyPlace (placeKey 519 8) = 512 + 7 ∧ placeKey 519 8 % 8 = 0 ∧ State.reset.cds.length = 8 ∧ (State.reset.cd 7).shpoison = [] ∧
    (State.reset.cd 7).shsums = [] ∧ keyAddr (placeKey 519 8) < 192 * 2 ^ 20 ∧
    keyPlace (placeKey 15 8) < 18 ∧ State.reset.poison = [] ∧ State.reset.sums = [] ∧
    (State.reset.md (keyPlace (placeKey 15 8))).wp = [] ∧ (State.reset.md (keyPlace (placeKey 15 8))).overflow = [] ∧
    kget (State.reset.md (keyPlace (placeKey 15 8))).chunks (chunkOf (placeKey 15 8)) = none := by
  decide +kernel

theorem witness_reductions :
    let accs := fun (x : Ctx) => x.lanes.map (fun l => (l, x.slotOff 4 0 l, 4))
    let out := fun (x : Ctx) (s : State) => (accs x).filter (fun y => (s.lineOf x.b (x.rg 0) ((x.rg 0).addr y.2.1)).isNone)
    ∀ i ∈ [(Instr.redAdd 4 0 0 2 0, MemOp.add), (.redFadd 4 0 0 0 0, .fadd), (.redMin 4 0 0 0 0, .min), (.redMax 4 0 0 0 0, .max),
        (.redFmin 4 0 0 0 0, .fmin), (.redFmax 4 0 0 0 0, .fmax), (.redAnd 4 0 0 0 0, .and), (.redOr 4 0 0 0 0, .or),
        (.redXor 4 0 0 0 0, .xor), (.redMinn 4 0 0 0 0, .minn), (.redMaxn 4 0 0 0 0, .maxn)],
      Met (sharedState 3) i.1 (slotSpec 2 false) (fun x s => grantedB (x.rg 0) .red (accs x) = true ∧
        goesB (pass x s (x.rg 0) .write (out x s)) = true ∧ (watched x s (x.rg 0) 60 (accs x)).isNone ∧
        heldUp x s (x.rg 0) .write (out x s) = none ∧ pathBad x s (x.rg 0) .write true i.2 0 0 (accs x) = [] ∧
        ownEntry x s (x.rg 0) = false ∧ s.allPerformed x.t = true) := by
  intro accs out i hi
  fin_cases hi <;> exact met_of (by decide +kernel)

theorem witness_fence :
    let released := fun (x : Ctx) (s : State) => s.allPerformed x.t = true ∧
      (∀ m ∈ x.th.sentWin, m + 2 ≤ s.pkg.timeNs.toNat / 2 ^ s.winK)
    Met (at_ 4) (.fence 4) (plain .both []) released ∧
    Met { atWith 4 (setTh 4 fun th => { th with sentWin := some 0 }) with
        pkg := { (at_ 4).pkg with timeNs := 0x100000 } } (.fence 4) (plain .both []) released ∧
    MetLate (waiting 4 (.fence 3) .performed 0 none id) (.fence 3) (plain .both []) released ∧
    Met (atWith 4 (setTh 4 fun th => { th with pends := [owedOp] })) (.fence 3) (plain .both [])
      (fun x s => s.allPerformed x.t = false) ∧
    Met (atWith 4 (setTh 4 fun th => { th with sentWin := some 0 })) (.fence 4) (plain .both [])
      (fun x s => s.allPerformed x.t = true ∧ x.th.sentWin = some 0 ∧ s.pkg.timeNs.toNat / 2 ^ s.winK < 0 + 2) :=
  ⟨met_of (by decide +kernel), met_of (by decide +kernel), metLate_of (by decide +kernel), met_of (by decide +kernel),
   met_of (by decide +kernel)⟩

/-! ## Matrix and rank engines -/

@[reducible] def enters (eng : Engine) (x : Ctx) (s : State) (needs : List (Nat × Nat)) : Prop :=
  x.b.absentOf needs = none ∧ ((s.core x.b.coreIx).queueOf eng).countP (fun y => !y.started) < engineSize eng

/-- The front thread with a scratch region in B0 and B1, and a descriptor in S4 and S5. -/
def engineState (g : Region) (m m2 : DWord) : State := atWith 32 (fun b => setR 32 0 g (setR 32 1 g (setS 4 m (setS 5 m2 b))))
def big (kind : BitVec 3) : Region := { reg kind 2 with lenm1 := 255 }

theorem witness_products :
    let sp := matrixSpec [.run 4 1 false] 0
    let m := fun (x : Ctx) => x.b.front.sget (x.b.front.swb + 4)
    let aty := fun (x : Ctx) => fld (m x) 63 60
    let bty := fun (x : Ctx) => fld (m x) 59 56
    let g := fun (x : Ctx) => x.rg (BitVec.ofNat 5 (fld (m x) 55 52))
    let off := fun (x : Ctx) => fld (m x) 51 32
    let stride := fun (x : Ctx) => fld (m x) 31 16
    let base := fun (x : Ctx) => fld (m x) 15 7
    let width := fun (t : Nat) => [16, 16, 8, 8, 6, 6, 4, 8].getD t 0
    let depth := fun (t : Nat) => [32, 32, 64, 64, 128, 128, 128, 64].getD t 0
    let meet := fun (x : Ctx) => aty x ≤ 7 ∧ bty x ≤ 7 ∧ depth (aty x) = depth (bty x) ∧ (aty x = 7 ↔ bty x = 7)
    let common := fun (x : Ctx) (s : State) (row scales regs : Nat) =>
      let span := if scales = 0 then 63 * stride x + row else 64 * stride x + scales
      (31 : BitVec 5).toNat < x.b.allot.tiles ∧ off x % 16 = 0 ∧ stride x % 16 = 0 ∧ row ≤ stride x ∧
      (∀ q, q < 4 → ((x.b.matrixWarp q).any (fun w => decide (base x + regs ≤ w.allot))) = true) ∧
      grantedB (g x) .load [(0, off x, span)] = true ∧ (g x).space = 2 ∧
      enters .array x s ((List.range 64).map (fun j => (x.b.pos (g x) (off x + j * stride x), row)) ++
        (if scales = 0 then [] else [(x.b.pos (g x) (off x + 64 * stride x), scales)]))
    let row := fun (x : Ctx) => depth (aty x) * width (aty x) / 8
    Met (engineState (big 2) 0x0000000000403400 0) (.mma 31 4 0 0) sp (fun x s => meet x ∧ fld (m x) 6 0 = 0 ∧
      common x s (row x) 0 (depth (bty x) * width (bty x) / 64)) ∧
    Met (engineState (big 2) 0x7710000000400000 0) (.mma 31 4 1 0) sp (fun x s => meet x ∧ fld (m x) 6 0 = 0 ∧ aty x = 7 ∧
      common x s (row x) 0 (depth (bty x) * width (bty x) / 64)) ∧
    Met (engineState (big 2) 0x2200000000400000 0) (.mmas 31 4 0) sp (fun x s => meet x ∧ fld (m x) 6 0 = 0 ∧ 2 ≤ aty x ∧
      aty x ≤ 6 ∧ 2 ≤ bty x ∧ bty x ≤ 6 ∧
      common x s (row x) (64 * (depth (aty x) / 32)) (depth (bty x) * width (bty x) / 64 + 1)) ∧
    Met (engineState (big 2) 0x7000000000400072 0) (.mbp 31 4 0 0 0) sp (fun x s => aty x = 7 ∧ bty x = 0 ∧ fld (m x) 0 0 = 0 ∧
      1 ≤ fld (m x) 3 1 ∧ fld (m x) 3 1 ≤ fld (m x) 6 4 ∧ common x s 64 0 (fld (m x) 3 1 + 1)) := by
  refine ⟨?_, ?_, ?_, ?_⟩ <;> exact met_of (by decide +kernel)

/-- A tile in flight: an instruction of the array that writes tile 0. -/
def flying (s : State) : State :=
  match s.ctx? with
  | some x => s.updCore 0 (fun c => { c with array := [{ EngineOp.make x (.mtrn 0 1 0) 0 with started := true }] })
  | none => s

theorem witness_tiles :
    let m := fun (x : Ctx) => x.b.front.sget (x.b.front.swb + 4)
    let has := fun (x : Ctx) (t : BitVec 5) => t.toNat < x.b.allot.tiles
    let idle := fun (x : Ctx) (s : State) => (s.inFlight x.t.blk x.b).getLsbD 0 = false
    let off := fun (x : Ctx) => fld (m x) 51 32
    let stride := fun (x : Ctx) => fld (m x) 31 16
    let rows := fun (x : Ctx) (k : Nat) => (List.range 64).map (fun j => (x.b.pos (x.rg 0) (off x + j * stride x), k))
    let whole := fun (x : Ctx) (right : Right) (row : Nat) => off x % 16 = 0 ∧ stride x % 16 = 0 ∧ row ≤ stride x ∧
      grantedB (x.rg 0) right [(0, off x, 63 * stride x + row)] = true ∧ (x.rg 0).space = 2
    let row := fun (x : Ctx) => 8 * [16, 16, 8, 8, 6, 6, 4, 8].getD (fld (m x) 63 60) 0
    let spg := matrixSpec [.region 0, .run 4 1 false] 0
    let spr := matrixSpec [.run 4 1 false] 0
    Met (at_ 32) (.mtrn 0 31 0) (matrixSpec [] 0) (fun x s => has x 0 ∧ has x 31 ∧ enters .array x s []) ∧
    Met (engineState (big 2) 0 0) (.mperm 0 1 4 0) spr (fun x s => has x 0 ∧ has x 1 ∧ fld (m x) 63 56 = 0 ∧ fld (m x) 31 0 = 0 ∧
      off x % 16 = 0 ∧ grantedB (x.rg 0) .load [(0, off x, 128)] = true ∧ (x.rg 0).space = 2 ∧
      enters .array x s [(x.b.pos (x.rg 0) (off x), 128)]) ∧
    Met (engineState (big 2) 1 0) (.mrsum 0 1 4 0) spr (fun x s => has x 0 ∧ has x 1 ∧ fld (m x) 63 1 = 0 ∧ enters .array x s []) ∧
    Met (at_ 32) (.mzero 0 0) (matrixSpec [] 0) (fun x s => has x 0 ∧ idle x s ∧ enters .tile x s []) ∧
    Met (engineState (big 2) 0x1000000 0) (.mld 0 0 4 0) spg (fun x s => has x 0 ∧ idle x s ∧ fld (m x) 63 52 = 0 ∧
      fld (m x) 15 0 = 0 ∧ whole x .load 256 ∧ enters .tile x s (rows x 256)) ∧
    Met (engineState (big 1) 0x1000000 0) (.mst 0 0 4 0) spg (fun x s => has x 0 ∧ fld (m x) 63 52 = 0 ∧ fld (m x) 15 0 = 0 ∧
      whole x .store 256 ∧ enters .tile x s []) ∧
    Met (at_ 32) (.mcpy 0 31 0) (matrixSpec [] 0) (fun x s => has x 0 ∧ has x 31 ∧ idle x s ∧ enters .tile x s []) ∧
    Met (engineState (big 1) 0x7000000000400000 0) (.mcvt 0 0 4 0) spg (fun x s => has x 0 ∧ fld (m x) 63 60 < 8 ∧
      fld (m x) 56 52 = 0 ∧ fld (m x) 15 0 = 0 ∧ whole x .store (row x) ∧ enters .tile x s []) ∧
    Met (flying (at_ 32)) (.mcpy 0 31 0) (matrixSpec [] 0) (fun x s => has x 0 ∧ has x 31 ∧ ¬ idle x s) ∧
    Met (flying (at_ 32)) (.mzero 0 0) (matrixSpec [] 0) (fun x s => has x 0 ∧ ¬ idle x s) ∧
    Met (flying (engineState (big 2) 0x1000000 0)) (.mld 0 0 4 0) spg (fun x s => has x 0 ∧ ¬ idle x s ∧ fld (m x) 63 52 = 0 ∧
      fld (m x) 15 0 = 0 ∧ whole x .load 256) := by
  refine ⟨?_, ?_, ?_, ?_, ?_, ?_, ?_, ?_, ?_, ?_, ?_⟩ <;> exact met_of (by decide +kernel)

/-- A tile that is not allotted: the one written, and the one read. -/
theorem witness_missing_tiles :
    let has := fun (x : Ctx) (t : BitVec 5) => t.toNat < x.b.allot.tiles
    let none_ := engineState (big 2) 0 0 |>.updBlk 0 (fun b => { b with allot := { b.allot with tiles := 1 } })
    let spr := matrixSpec [.run 4 1 false] 0
    let spg := matrixSpec [.region 0, .run 4 1 false] 0
    (∀ i ∈ [(Instr.mtrn 1 0 0, matrixSpec [] 0), (.mcpy 1 0 0, matrixSpec [] 0), (.mperm 1 0 4 0, spr), (.mrsum 1 0 4 0, spr),
        (.mzero 1 0, matrixSpec [] 0), (.mld 1 0 4 0, spg)], Met none_ i.1 i.2 (fun x _ => ¬ has x 1)) ∧
    (∀ i ∈ [(Instr.mtrn 0 1 0, matrixSpec [] 0), (.mcpy 0 1 0, matrixSpec [] 0), (.mperm 0 1 4 0, spr), (.mrsum 0 1 4 0, spr),
        (.mst 0 1 4 0, spg), (.mcvt 0 1 4 0, spg)], Met none_ i.1 i.2 (fun x _ => ¬ has x 1)) := by
  constructor <;> (intro i hi; fin_cases hi <;> exact met_of (by decide +kernel))

theorem witness_matrix_control :
    let sp : Spec := { plain .front [] with matrix := true }
    let arrives := fun (x : Ctx) (s : State) => s.allPerformed x.t = true ∧
      (x.b.bars[0]?).any (fun r => decide (memberOf x.b x.t 0 ∈ r.members) && !r.broken) = true
    let arrived := fun (x : Ctx) (s : State) => (s.arrive x.t x.b 0 0).2
    let bar := fun (x : Ctx) (s : State) => s.bar? ((s.blk? x.t.blk).getD x.b) 0 0
    let alone := fun (b : Block) => { b with bars := lset b.bars 0 (fun r => { r with members := [32] }) }
    Met (atWith 32 alone) (.mrdy 0) sp (fun x s => arrives x s ∧ (bar x (arrived x s)).all (fun r => r.c != (s.arrive x.t x.b 0 0).1) ∧
      ((s.blk? x.t.blk).all (fun b => b.warps.all (fun w => w.role != .matrix || (w.t.pends.isEmpty && w.e.pends.isEmpty))))) ∧
    Met (atWith 32 (fun b => { b with bars := lset b.bars 0 (fun r => { r with members := [0, 32] }), warps :=
        (fetchBlock 0 fetchPc).warps })) (.mrdy 0) sp (fun x s => arrives x s ∧
      (bar x (arrived x s)).any (fun r => r.c == (s.arrive x.t x.b 0 0).1 && !r.broken)) ∧
    MetLate (waiting 32 (.mrdy 0) (.barrier 0 0 7) 1 none id) (.mrdy 0) sp (fun x s => x.stage = 1 ∧ x.token = 7 ∧
      (bar x s).all (fun r => r.c != 7)) ∧
    MetLate (waiting 32 (.mrdy 0) .bquarter 2 none id) (.mrdy 0) sp (fun x _ => x.stage = 2) ∧
    Met (at_ 32) (.mwait 0) sp (fun x s => (0 : Nat) < x.b.allot.tiles ∧ ¬ (s.inFlight x.t.blk x.b).getLsbD 0 = true) ∧
    Met (flying (at_ 32)) (.mwait 0) sp (fun x s => (0 : Nat) < x.b.allot.tiles ∧ (s.inFlight x.t.blk x.b).getLsbD 0 = true) ∧
    MetLate (waiting 32 (.mwait 0) (.tiles 1) 0 none id) (.mwait 0) sp
      (fun x s => (0 : Nat) < x.b.allot.tiles ∧ ¬ (s.inFlight x.t.blk x.b).getLsbD 0 = true) ∧
    AllMet [(at_ 32, .mstat 0 4 0, matrixSpec [.run 4 1 true] 0), (at_ 32, .mstat 1 4 0, matrixSpec [.run 4 1 true] 0)] :=
  ⟨met_of (by decide +kernel), met_of (by decide +kernel), metLate_of (by decide +kernel), metLate_of (by decide +kernel),
   met_of (by decide +kernel), met_of (by decide +kernel), metLate_of (by decide +kernel), allMet_of (by decide +kernel)⟩

theorem witness_rank :
    let sp := matrixSpec [.region 0, .region 1, .run 4 1 false] 0
    let sp1 := matrixSpec [.region 1, .run 4 1 false] 0
    let m := fun (x : Ctx) => x.b.front.sget (x.b.front.swb + 4)
    let m2 := fun (x : Ctx) => x.b.front.sget (x.b.front.swb + 5)
    let src := fun (x : Ctx) => fld (m x) 63 44
    let dst := fun (x : Ctx) => fld (m x) 43 24
    let n := fun (x : Ctx) => fld (m x) 23 13
    let k := fun (x : Ctx) => fld (m x) 12 2
    let sized := fun (x : Ctx) => 1 ≤ n x ∧ n x ≤ 1024
    let bytes := fun (n : Nat) => 4 + 4 * ((n + 1) / 2)
    let has := fun (g : Region) (right : Right) (o k : Nat) => grantedB g right [(0, o, k)] = true ∧ g.space = 2
    let unsized := fun (x : Ctx) => n x = 0 ∨ 1024 < n x
    let broken := fun (x : Ctx) => unsized x ∨ fld (m x) 1 0 ≠ 0 ∨ k x = 0 ∨ n x < k x ∨ src x % 4 ≠ 0 ∨ dst x % 4 ≠ 0
    let listed := fun (x : Ctx) => x.listNeeds (x.rg 1) (src x) ((x.rg 1).bytes - src x)
    let table := fun (x : Ctx) => fld (m x) 33 24 = 0 ∧ fld (m x) 12 0 = 0 ∧ src x % 16 = 0 ∧ sized x ∧
      fld (m x) 43 34 + n x ≤ 1024 ∧ has (x.rg 1) .load (src x) (2 * n x)
    -- N = K = 1024, the list from 4096 to 6148 of the region
    Met (engineState (big 1) 0x0000001000801000 0) (.rank 0 1 4 0 0) sp (fun x s => sized x ∧ fld (m x) 1 0 = 0 ∧ 1 ≤ k x ∧
      k x ≤ n x ∧ src x % 4 = 0 ∧ dst x % 4 = 0 ∧ has (x.rg 0) .store (dst x) (bytes (k x)) ∧ has (x.rg 1) .load (src x) (n x * 4) ∧
      spansMeet [(x.b.pos (x.rg 1) (src x), n x * 4)] [(x.b.pos (x.rg 0) (dst x), bytes (k x))] = false ∧
      enters .rank x s [(x.b.pos (x.rg 1) (src x), n x * 4)]) ∧
    Met (engineState (big 1) 0 0) (.rmma 0 1 4 1 0) (matrixSpec [.region 1, .run 4 2 false] 0) (fun x s => src x % 4 = 0 ∧
      fld (m x) 43 28 % 4 = 0 ∧ fld (m x) 27 24 = 0 ∧ fld (m x) 17 13 = 0 ∧ fld (m x) 12 3 % 32 = 0 ∧ fld (m x) 12 3 ≤ 992 ∧
      fld (m x) 2 0 = 0 ∧ fld (m2 x) 63 9 = 0 ∧
      (∀ q, q < 4 → ((x.b.matrixWarp q).any (fun w => decide (fld (m2 x) 8 0 + 8 ≤ w.allot))) = true) ∧
      has (x.rg 1) .load (src x) 4 ∧ enters .array x s (((List.range (fld (m x) 23 18 + 1)).map (fun j =>
        src x + j * fld (m x) 43 28)).flatMap (fun o => x.listNeeds (x.rg 1) o ((x.rg 1).bytes - o)))) ∧
    Met (engineState (big 1) 0x0000001000801000 0) (.rtv 0 1 4 0) sp (fun x s => sized x ∧ fld (m x) 11 0 = 0 ∧ src x % 4 = 0 ∧
      dst x % 4 = 0 ∧ has (x.rg 0) .store (dst x) (n x * 4) ∧ has (x.rg 1) .load (src x) (bytes (n x)) ∧
      enters .rank x s (listed x)) ∧
    Met (engineState (big 1) 0x00000FFC00002000 0) (.ratl 1 4 0) sp1 (fun x s => table x ∧
      x.b.absentOf [(x.b.pos (x.rg 1) (src x), 2 * n x)] = none ∧ (s.core x.b.coreIx).waitingIn .array < engineSize .array) ∧
    Met (engineState (big 1) 0x0000000000800000 0) (.rrcl 1 4 0) sp1 (fun x s => table x ∧
      x.b.absentOf [(x.b.pos (x.rg 1) (src x), 2 * n x)] = none ∧ (s.core x.b.coreIx).waitingIn .rank < engineSize .rank) ∧
    Met ((engineState (big 1) 0x0000001000800000 0).updBlk 0 (setR 32 0 { reg 1 3 with lenm1 := 255 })) (.rlst 0 1 4 0) sp
      (fun x s => sized x ∧ fld (m x) 4 0 = 0 ∧ src x % 4 = 0 ∧ dst x % 4 = 0 ∧
        ((x.rg 0).space = 0 ∨ ((x.rg 0).space = 3 ∧ fld (m x) 12 9 < x.b.clusz)) ∧
        grantedB (x.rg 0) .store [(0, dst x, bytes (n x))] = true ∧ has (x.rg 1) .load (src x) (bytes (n x)) ∧
        x.b.absentOf (listed x) = none ∧ s.allPerformed x.t = true) ∧
    (∀ m0 ∈ [(0 : DWord), 0x0000001000801001, 0x0000001000800000, 0x0000001000801008, 0x0000201000801000, 0x0000001001801000],
      Met (engineState (big 1) m0 0) (.rank 0 1 4 0 0) sp (fun x _ => broken x)) ∧
    Met (engineState (big 1) 0x0000000000801000 0) (.rank 0 1 4 0 0) sp (fun x _ => ¬ broken x ∧
      has (x.rg 0) .store (dst x) (bytes (k x)) ∧ has (x.rg 1) .load (src x) (n x * 4) ∧
      spansMeet [(x.b.pos (x.rg 1) (src x), n x * 4)] [(x.b.pos (x.rg 0) (dst x), bytes (k x))] = true) ∧
    (∀ m0 ∈ [(0x0000200000000000 : DWord), 0x10000000, 0x1000000, 0x2000, 8, 0x1F08, 1],
      Met (engineState (big 1) m0 0) (.rmma 0 1 4 1 0) (matrixSpec [.region 1, .run 4 2 false] 0) (fun x _ =>
        (0 : Nat) < x.b.allot.tiles ∧ (src x % 4 ≠ 0 ∨ fld (m x) 43 28 % 4 ≠ 0 ∨ fld (m x) 27 24 ≠ 0 ∨ fld (m x) 17 13 ≠ 0 ∨
          fld (m x) 12 3 % 32 ≠ 0 ∨ 992 < fld (m x) 12 3 ∨ fld (m x) 2 0 ≠ 0))) ∧
    (∀ m0 ∈ [(0 : DWord), 0x2001, 0x0000100000002000, 0x0000000001002000, 0x0000000002003000],
      Met (engineState (big 1) m0 0) (.rtv 0 1 4 0) sp (fun x _ => unsized x ∨ fld (m x) 11 0 ≠ 0 ∨ src x % 4 ≠ 0 ∨
        dst x % (if (m x).getLsbD 12 then 4 else 2) ≠ 0)) ∧
    (∀ m0 ∈ [(0 : DWord), 0x2001, 0x0000100000002000, 0x0000000001002000],
      Met (engineState (big 1) m0 0) (.rlst 0 1 4 0) sp (fun x _ => unsized x ∨ fld (m x) 4 0 ≠ 0 ∨ src x % 4 ≠ 0 ∨ dst x % 4 ≠ 0)) ∧
    (∀ i ∈ [Instr.ratl 1 4 0, .rrcl 1 4 0], ∀ m0 ∈ [(0 : DWord), 0x00000FFC00004000, 0x1002000, 0x2001, 0x0000100000002000],
      Met (engineState (big 1) m0 0) i sp1 (fun x _ => unsized x ∨ 1024 < fld (m x) 43 34 + n x ∨ fld (m x) 33 24 ≠ 0 ∨
        fld (m x) 12 0 ≠ 0 ∨ src x % 16 ≠ 0)) := by
  refine ⟨?_, ?_, ?_, ?_, ?_, ?_, ?_, ?_, ?_, ?_, ?_, ?_⟩
  case refine_7 => intro i hi; fin_cases hi <;> exact met_of (by decide +kernel)
  case refine_9 => intro i hi; fin_cases hi <;> exact met_of (by decide +kernel)
  case refine_10 => intro i hi; fin_cases hi <;> exact met_of (by decide +kernel)
  case refine_11 => intro i hi; fin_cases hi <;> exact met_of (by decide +kernel)
  case refine_12 => intro i hi m0 hm; fin_cases hi <;> fin_cases hm <;> exact met_of (by decide +kernel)
  all_goals exact met_of (by decide +kernel)

/-! ## Tasks and their objects -/

def objSpec (nB nD : Nat) : Spec :=
  { plain .both [.region 0, .items 4 nB false, .items 8 nD true] with roles := [.vector] }
/-- An object at offset 128 of die-shared space, word 0 `w0`, word 1 `w1`. -/
def objState (w0 w1 item1 : DWord) : State :=
  (atWith 32 (fun b => setR 32 0 (reg 4 1) (setS 4 128 (setS 5 item1 b)))).sharedPut 0 128 (leBytes 8 w0.toNat ++ leBytes 8 w1.toNat)

def doneB : Checked → Nat → Bool
  | .done l, n => decide (n ≤ l.length)
  | _, _ => false
def waitB : Checked → Bool
  | .wait _ => true
  | _ => false

@[reducible] def objOk (x : Ctx) (s : State) (size : Nat) : Prop :=
  grantedB (x.rg 0) .atom [(x.low, (x.item 4 0).toNat, size)] = true ∧ (x.item 4 0).toNat % size = 0 ∧
  goesB (pass x s (x.rg 0) .atom [(x.low, (x.item 4 0).toNat, size)]) = true ∧
  (watched x s (x.rg 0) 60 [(x.low, (x.item 4 0).toNat, size)]).isNone ∧
  objectKey x s (x.rg 0) (x.item 4 0).toNat = some (sharedKey 0 128) ∧ keyPlace (sharedKey 0 128) ≠ 16 ∧
  foreignKey (sharedKey 0 128) = false ∧ s.keyDie x.b.die (sharedKey 0 128) = .cd x.b.die ∧ s.allPerformed x.t = true

def objStep (x : Ctx) (s : State) (op : ObjOp) (args : List DWord) : Checked :=
  ((s.newId (.cd x.b.die)).2.objectStep op (sharedKey 0 128) args { task := x.b.task.getD 0xFFFFFFFF, t := x.t }).1

theorem witness_objects :
    Met (objState 0x8000000000000000 7 0) (.fwait 8 0 4) (objSpec 1 2) (fun x s => objOk x s 16 ∧ doneB (objStep x s .fwait []) 2) ∧
    Met (objState 0x4000000000000005 0 0) (.fwait 8 0 4) (objSpec 1 2) (fun x s => objOk x s 16 ∧ waitB (objStep x s .fwait [])) ∧
    Met (objState 0 0 9) (.ffill 8 0 4) (objSpec 3 1) (fun x s => (x.item 4 2).toNat ≤ 1 ∧ objOk x s 16 ∧
      doneB (objStep x s .ffill [x.item 4 1, x.item 4 2]) 1) ∧
    Met (objState 0 0 2) (.fown 8 0 4) (objSpec 2 1) (fun x s => (x.item 4 1).toNat ≤ 3 ∧ objOk x s 16 ∧
      doneB (objStep x s .fown [x.item 4 1]) 1) ∧
    Met (objState 0 0 3) (.fown 8 0 4) (objSpec 2 1) (fun x s => (x.item 4 1).toNat ≤ 3 ∧ objOk x s 64 ∧
      doneB (objStep x s .fownQ [x.item 4 1]) 1) ∧
    Met (objState 0 0 1) (.lock 8 0 4) (objSpec 2 1) (fun x s => (x.item 4 1).toNat ≤ 1 ∧ objOk x s 8 ∧
      doneB (objStep x s .lock [x.item 4 1]) 1) ∧
    Met (objState 0x8000000000000000 0 0) (.lock 8 0 4) (objSpec 2 1) (fun x s => (x.item 4 1).toNat ≤ 1 ∧ objOk x s 8 ∧
      waitB (objStep x s .lock [x.item 4 1])) ∧
    Met (objState 0x8000000000000000 0 0) (.unlock 8 0 4) (objSpec 1 1) (fun x s => objOk x s 8 ∧ doneB (objStep x s .unlock []) 1) ∧
    Met (objState 0 1 0) (.qpop 8 0 4) (objSpec 2 2) (fun x s => (x.item 4 1).toNat ≤ 1 ∧ objOk x s 64 ∧
      doneB (objStep x s .qpop [x.item 4 1]) 2) ∧
    Met (objState 0 0 0) (.qpop 8 0 4) (objSpec 2 2) (fun x s => (x.item 4 1).toNat ≤ 1 ∧ objOk x s 64 ∧
      waitB (objStep x s .qpop [x.item 4 1])) ∧
    Met (objState 2 0 0) (.succ 8 0 4) (objSpec 1 1) (fun x s => objOk x s 8 ∧ doneB (objStep x s .succ []) 1) ∧
    MetLate (waiting 32 (.fwait 8 0 4) .reply 4 (some [0, 0, 7]) id) (.fwait 8 0 4) (objSpec 1 2)
      (fun x _ => 4 ≤ x.stage ∧ x.answer = some (0 :: [0, 7]) ∧ 2 ≤ [(0 : DWord), 7].length) := by
  refine ⟨?_, ?_, ?_, ?_, ?_, ?_, ?_, ?_, ?_, ?_, ?_, metLate_of (by decide +kernel)⟩ <;> exact met_of (by decide +kernel)

/-- The states that the clauses on objects speak of: each word 0 of a future, a lock and a queue. -/
theorem witness_object_rules :
    let k := sharedKey 7 64
    let at_ := fun (w0 w1 : DWord) => State.reset.sharedPut 7 64 (leBytes 8 w0.toNat ++ leBytes 8 w1.toNat)
    let w0 := fun (s : State) => BitVec.ofNat 64 (s.numAt k 8)
    keyPlace k = 512 + 7 ∧ keyPlace (k + 15) = 512 + 7 ∧ k % 8 = 0 ∧ keyAddr k + 64 ≤ 192 * 2 ^ 20 ∧ State.reset.cds.length = 8 ∧
    (State.reset.cd 7).park.length < 4096 ∧
    2 ≤ ((w0 (at_ 0xC000000000000000 0)).extractLsb' 62 2).toNat ∧ ((w0 (at_ 0x4000000000000003 0)).extractLsb' 62 2) = 1 ∧
    (w0 (at_ 0x8000000000000003 0)).getLsbD 63 = true ∧ (w0 (at_ 3 0)).getLsbD 63 = false ∧
    (at_ 3 4).numAt k 8 ≠ (at_ 3 4).numAt (k + 8) 8 ∧ (at_ 3 3).numAt k 8 = (at_ 3 3).numAt (k + 8) 8 := by
  decide +kernel

/-! ### Tasks -/

def pool0 : Pool :=
  { pkt := 0, die := 0, desc := (fetchBlock 32 fetchPc).desc, allot := (fetchBlock 32 fetchPc).allot, tcap := 4, nframe := 1,
    keys := [placeKey 3 0x100000], heads := [0, 0, 0, 0], tails := [0, 0, 0, 0], late := [], gens := [], tasks := [],
    slots := [(0, 0, 0)], live := 0, noframe := 0, ntret := 0, nkill := 0, rescan := false, placed := true, killed := false }
def task0 : Task :=
  { st := .running, rec_ := 0x4040, id := 0, frame := none, blk := some 0, prio := 0, order := 0, waits := none }
def poolState (p : Pool) (f : Block → Block) : State :=
  { atWith 32 f with
    pools := [(0, p)]
    tlb := [{ cluster := 0, asid := 0, glb := true, va := 0x4000, pa := 0x4000, bits := 14, perm := 0xF }] }

def idB : Spawn → Bool
  | .id _ => true
  | _ => false
def badB : Spawn → Bool
  | .malformed => true
  | _ => false
def fullB : Spawn → Bool
  | .full => true
  | _ => false
def okB {α β : Type} : Except α β → Bool
  | .ok _ => true
  | .error _ => false

/-- The end of a task is held up by nothing. -/
def unheldB (s : State) (bk : Nat) (b : Block) : Except Nat (EndKey × EndKey) → Bool
  | .ok (f, u) => (s.endHeld bk b f u).isNone
  | .error _ => false

theorem witness_tasks :
    let spawn : Spec := { plain .both [.items 2 1 false, .items 4 1 false, .items 8 2 true] with roles := [.vector] }
    let ret : Spec := { plain .both [.items 2 1 false] with roles := [.vector] }
    let push : Spec := { plain .both [.items 2 2 false, .items 4 1 false, .items 8 1 true] with roles := [.vector] }
    let launch : Spec := { plain .both [.items 2 1 false, .items 4 1 false, .items 8 1 true] with roles := [.vector] }
    let A := fun (x : Ctx) => x.item 2 0
    let B := fun (x : Ctx) => x.item 4 0
    let pool := fun (x : Ctx) => if fld (B x) 9 0 = 0x3FF then x.b.task.map (fun t => t.toNat / 2 ^ 22) else some (fld (B x) 9 0)
    let asks := fun (x : Ctx) (s : State) => fld (B x) 15 10 = 0 ∧ fld (B x) 63 17 = 0 ∧ (A x).toNat % 64 = 0 ∧
      s.allPerformed x.t = true
    let found := fun (x : Ctx) (s : State) => pool x = some 0 ∧
      ((s.poolAt x.b.die 0).any (fun y => y.1 == 0 && y.2.placed && !y.2.killed)) = true
    let near := fun (x : Ctx) => (A x).toNat < 2 ^ 56
    let dir := fun (x : Ctx) (s : State) => fld (A x) 6 0 = 0 ∧ fld (B x) 63 12 = 0 ∧ s.allPerformed x.t = true
    let own := fun (b : Block) => { b with task := some (0 : Word) }
    Met (poolState pool0 (fun b => setS 2 0x4040 (setS 4 0x3FF (own b)))) (.tspawn 8 2 4) spawn (fun x s => asks x s ∧ found x s ∧
      near x ∧ idB (s.spawn 0 (A x).toNat).1) ∧
    Met (poolState { pool0 with tcap := 0, tasks := [(0, task0)] } (setS 2 0x4040)) (.tspawn 8 2 4) spawn (fun x s => asks x s ∧
      found x s ∧ near x ∧ fullB (s.spawn 0 (A x).toNat).1 ∧ (B x).getLsbD 16 = false) ∧
    -- NO_POOL: no pool of that index, and one that is killed; MALFORMED: an address past 2^56, and a bad record; FULL
    Met (at_ 32) (.tspawn 8 2 4) spawn (fun x s => asks x s ∧ pool x = some 0 ∧ (s.poolAt x.b.die 0).isNone) ∧
    Met (poolState { pool0 with killed := true } id) (.tspawn 8 2 4) spawn (fun x s => asks x s ∧ pool x = some 0 ∧
      ((s.poolAt x.b.die 0).all (fun y => !y.2.placed || y.2.killed)) = true) ∧
    Met (poolState pool0 (setS 2 0x100000000000000)) (.tspawn 8 2 4) spawn (fun x s => asks x s ∧ found x s ∧ ¬ near x) ∧
    Met ((poolState pool0 (setS 2 0x4040)).memPut 0x4040 (List.replicate 64 0xFF)) (.tspawn 8 2 4) spawn (fun x s => asks x s ∧
      found x s ∧ near x ∧ badB (s.spawn 0 (A x).toNat).1) ∧
    Met (poolState { pool0 with tcap := 0, tasks := [(0, task0)] } (fun b => setS 2 0x4040 (setS 4 0x10000 b))) (.tspawn 8 2 4) spawn
      (fun x s => asks x s ∧ found x s ∧ near x ∧ fullB (s.spawn 0 (A x).toNat).1 ∧ (B x).getLsbD 16 = true) ∧
    Met (at_ 32) (.tret 2) ret (fun x s => s.taskOf x.b = none) ∧
    Met (poolState { pool0 with tasks := [(0, task0)] } own) (.tret 2) ret (fun x s => (s.taskOf x.b).isSome) ∧
    MetLate { waiting 32 (.tret 2) .drained 1 none own with pools := [(0, { pool0 with tasks := [(0, task0)] })] } (.tret 2) ret
      (fun x s => x.stage = 1 ∧ (s.taskOf x.b).isSome ∧ unheldB s x.t.blk x.b (s.endKeys { pool0 with tasks := [(0, task0)] } task0)) ∧
    Met (at_ 32) (.qpush 8 2 4) push (fun x s => fld (B x) 63 1 = 0 ∧ s.allPerformed x.t = true ∧
      s.queueHeader x.b.die (A x) = none) ∧
    MetLate (waiting 32 (.qpush 8 2 4) .reply 4 (some [1]) (setS 4 1)) (.qpush 8 2 4) push
      (fun x _ => 4 ≤ x.stage ∧ x.answer = some [1] ∧ ((1 : DWord) = 1 → (B x).getLsbD 0 = true)) ∧
    MetLate (waiting 32 (.qpush 8 2 4) .reply 4 (some [1]) id) (.qpush 8 2 4) push
      (fun x _ => 4 ≤ x.stage ∧ x.answer = some [1] ∧ (B x).getLsbD 0 = false) ∧
    Met (atWith 32 (setS 2 0x4000)) (.launch 8 2 4) launch (fun x s => dir x s ∧
      ((s.pagePa x.b.die (clusterOf x.b.coreIx) x.b.desc (A x).toNat .read x.priv).1).isSome ∧
      (s.queueDesc x.b.die (fld (B x) 11 0)).any (fun q => q.home == x.b.die)) ∧
    MetLate (waiting 32 (.launch 8 2 4) .reply 4 (some [0]) id) (.launch 8 2 4) launch (fun x _ => 4 ≤ x.stage ∧ x.answer = some [0]) := by
  refine ⟨?_, ?_, ?_, ?_, ?_, ?_, ?_, ?_, ?_, metLate_of (by decide +kernel), ?_, metLate_of (by decide +kernel),
    metLate_of (by decide +kernel), ?_, metLate_of (by decide +kernel)⟩ <;> exact met_of (by decide +kernel)

/-! ## Barriers, counters, queues and bobbins -/

/-- Barrier 0 of the block, with the front thread as its one member. -/
def alone (b : Block) : Block := { b with bars := lset b.bars 0 (fun r => { r with members := [32] }) }
def both (b : Block) : Block :=
  { b with bars := lset b.bars 0 (fun r => { r with members := [0, 32] }), warps := (fetchBlock 0 fetchPc).warps }

theorem witness_barriers :
    let give := flow .both [.items 4 1 true]
    let take := flow .both [.items 4 1 false]
    let mine := fun (x : Ctx) (s : State) => (s.bar? x.b 0 0).any (fun r => decide (memberOf x.b x.t 0 ∈ r.members) && !r.broken) = true
    let free := fun (x : Ctx) (s : State) => s.allPerformed x.t = true
    let now := fun (x : Ctx) (s : State) => s.bar? ((s.blk? x.t.blk).getD x.b) 0 0
    let arrived := fun (x : Ctx) (s : State) => s.arrive x.t x.b 0 0
    let synced := fun (x : Ctx) (s : State) => (arrived x s).2.applyWrites x.t (x.wItem 4 0 ((arrived x s).1.setWidth 64))
    let word := fun (x : Ctx) => (x.item 4 0).setWidth 32
    let used := fun (x : Ctx) (s : State) => s.useBar x.t x.b 0 0
    let over_ := fun (x : Ctx) (s : State) (v : Word) => (now x s).any (fun q => q.c != v) = true
    let runs := fun (x : Ctx) (s : State) (v : Word) => (now x s).any (fun q => q.c == v && !q.broken) = true
    let mask := fun (x : Ctx) => x.item 4 0
    let members := fun (x : Ctx) => (List.range 33).filter (fun i => (mask x).getLsbD i)
    Met (at_ 4) (.barArr 4 0 0) give (fun x s => mine x s ∧ free x s) ∧
    Met (atWith 4 (setV 4 fun _ => 5)) (.barWait 4 0 0) take (fun x s => mine x s ∧ over_ x (used x s) (word x)) ∧
    Met (at_ 4) (.barWait 4 0 0) take (fun x s => mine x s ∧ runs x (used x s) (word x)) ∧
    Met (atWith 32 alone) (.barSync 4 0 0) give (fun x s => mine x s ∧ free x s ∧ over_ x (synced x s) (arrived x s).1) ∧
    Met (atWith 32 both) (.barSync 4 0 0) give (fun x s => mine x s ∧ free x s ∧ runs x (synced x s) (arrived x s).1) ∧
    MetLate (waiting 32 (.barWait 4 0 0) (.barrier 0 0 7) 1 none id) (.barWait 4 0 0) take
      (fun x s => x.stage = 1 ∧ x.token = 7 ∧ over_ x s 7) ∧
    MetLate (waiting 32 (.barSync 4 0 0) (.barrier 0 0 7) 1 none id) (.barSync 4 0 0) give
      (fun x s => x.stage = 1 ∧ x.token = 7 ∧ over_ x s 7) ∧
    Met (atWith 32 (setS 4 0x100000001)) (.barSet 4 0) take (fun x s => mine x s ∧ fld (mask x) 63 33 = 0 ∧ members x ≠ [] ∧
      ∀ i ∈ members x, i = 32 ∨ i < x.b.warps.length) ∧
    Met (at_ 4) (.barArr 4 1 0) give (fun x s => ((1 : BitVec 2) ≠ 0 ∧ x.t.warp ≠ 32) ∨
      (s.bar? x.b 1 0).all (fun q => decide (memberOf x.b x.t 1 ∉ q.members))) ∧
    Met (atWith 32 (fun b => { alone b with bars := lset b.bars 0 (fun r => { r with members := [0] }) })) (.barSync 4 0 0) give
      (fun x s => ((0 : BitVec 2) ≠ 0 ∧ x.t.warp ≠ 32) ∨ (s.bar? x.b 0 0).all (fun q => decide (memberOf x.b x.t 0 ∉ q.members))) ∧
    Met (atWith 32 (fun b => { b with bars := lset b.bars 0 (fun r => { r with broken := true }) })) (.barWait 4 0 0) take
      (fun x s => ((0 : BitVec 2) = 0 ∨ x.t.warp = 32) ∧
        (s.bar? x.b 0 0).any (fun q => decide (memberOf x.b x.t 0 ∈ q.members) && q.broken)) ∧
    -- BAR.SET: no member, a bit past the threads, no thread at all, a thread that the block has not; a broken barrier
    Met (atWith 32 (fun b => { alone b with bars := lset b.bars 0 (fun r => { r with members := [0] }) })) (.barSet 4 0) take
      (fun x s => (s.bar? x.b 0 0).all (fun q => decide (memberOf x.b x.t 0 ∉ q.members))) ∧
    Met (atWith 32 (setS 4 0x200000001)) (.barSet 4 0) take (fun x s => mine x s ∧ fld (mask x) 63 33 ≠ 0) ∧
    Met (at_ 32) (.barSet 4 0) take (fun x s => mine x s ∧ members x = []) ∧
    Met (atWith 32 (setS 4 0x80)) (.barSet 4 0) take
      (fun x s => mine x s ∧ ∃ i ∈ members x, i ≠ 32 ∧ x.b.warps.length ≤ i) ∧
    Met (atWith 32 (fun b => { b with bars := lset b.bars 0 (fun r => { r with broken := true }) })) (.barSet 4 0) take
      (fun x s => (s.bar? x.b 0 0).any (fun q => decide (memberOf x.b x.t 0 ∈ q.members) && q.broken)) ∧
    AllMet [(at_ 4, .cntRd 4 15, give), (at_ 4, .cntClr 15, flow .both [])] ∧
    Met (at_ 4) (.cntWait 4 0) take (fun x _ => word x ≤ x.b.counts.getD 0 0) ∧
    Met (atWith 4 (setV 4 fun _ => 1)) (.cntWait 4 0) take (fun x _ => x.b.counts.getD 0 0 < word x) ∧
    MetLate (waiting 4 (.cntWait 4 0) (.counter 0 0) 0 none id) (.cntWait 4 0) take (fun x _ => word x ≤ x.b.counts.getD 0 0) := by
  refine ⟨?_, ?_, ?_, ?_, ?_, metLate_of (by decide +kernel), metLate_of (by decide +kernel), ?_, ?_, ?_, ?_, ?_, ?_, ?_, ?_, ?_,
    allMet_of (by decide +kernel), ?_, ?_, metLate_of (by decide +kernel)⟩ <;> exact met_of (by decide +kernel)

/-- A block whose barrier 0 waits for its last member, and one that waits for two. -/
theorem witness_barrier_phase : ∃ (s : State) (b : Block) (r : Barrier), s.blk? 0 = some b ∧ b.bars[0]? = some r ∧
    r.broken = false ∧ (∀ m ∈ r.members, m ∈ [32] ∨ b.ownerGone m = true) :=
  ⟨atWith 32 alone, _, _, rfl, rfl, rfl, by decide +kernel⟩

theorem witness_queues :
    let push := plain .front [.src64 2, .src64 4]
    let give := plain .both [.dst 8]
    let mask := fun (x : Ctx) => (x.r64 4 0).setWidth 32 &&& x.b.liveWarps
    let live := fun (b : Block) => setS 4 1 { b with warps := (fetchBlock 0 fetchPc).warps }
    let full := fun (b : Block) => { live b with dq := List.replicate 4 { value := 0, target := 1, popped := 0 } }
    let slotC := fun (x : Ctx) => x.b.bobAt 7 x.th.consCur
    let slotP := fun (x : Ctx) => x.b.bobAt 7 x.th.prodCur
    let bob := fun (f e : Bool) (b : Block) => { b with
      bobs := List.replicate 8 (List.replicate 2 { f := f, e := e, prod := 0, cons := 0 }) }
    let none_ := fun (b : Block) => { b with bobs := [] }
    Met (atWith 32 live) (.dqpush 2 4) push (fun x s => mask x ≠ 0 ∧ x.b.dq.length < x.b.allot.dqd ∧
      s.allPerformed x.t = true) ∧
    Met (at_ 32) (.dqpush 2 4) push (fun x _ => mask x = 0) ∧
    Met (atWith 32 full) (.dqpush 2 4) push (fun x _ => mask x ≠ 0 ∧ x.b.allot.dqd ≤ x.b.dq.length) ∧
    (∃ c, (atWith 4 (fun b => { b with allot := { b.allot with dqd := 0 } })).ctx? = some c ∧ c.resumed = false ∧
      c.b.allot.dqd = 0) ∧
    AllMet [(atWith 4 (fun b => { b with dq := [{ value := 9, target := 16, popped := 0 }] }), .dqpop 8,
      plain .warp [.src64 121, .dst64 8])] ∧
    Met (at_ 32) (.srput 7) (plain .both []) (fun x s => (slotP x).any (fun z => z.1.e == z.2) = true ∧ s.allPerformed x.t = true) ∧
    Met (atWith 32 (bob true false)) (.srrel 7) (plain .both [])
      (fun x s => (slotC x).any (fun z => z.1.f != z.2) = true ∧ s.allPerformed x.t = true) ∧
    Met (atWith 32 (bob true false)) (.srwaitC 8 7) give (fun x _ => (slotC x).any (fun z => z.1.f != z.2) = true) ∧
    Met (at_ 4) (.srwaitP 8 7) give (fun x _ => (slotP x).any (fun z => z.1.e == z.2) = true) ∧
    Met (at_ 4) (.srwaitC 8 7) give (fun x _ => (slotC x).any (fun z => z.1.f == z.2) = true) ∧
    Met (atWith 4 (bob false true)) (.srwaitP 8 7) give (fun x _ => (slotP x).any (fun z => z.1.e != z.2) = true) ∧
    Met (atWith 32 none_) (.srput 7) (plain .both []) (fun x _ => x.b.bobAt 7 x.th.prodCur = none) ∧
    Met (atWith 32 none_) (.srrel 7) (plain .both []) (fun x _ => x.b.bobAt 7 x.th.consCur = none) ∧
    Met (atWith 32 none_) (.srwaitC 8 7) give (fun x _ => x.b.bobAt 7 x.th.consCur = none) ∧
    Met (atWith 32 none_) (.srwaitP 8 7) give (fun x _ => x.b.bobAt 7 x.th.prodCur = none) := by
  refine ⟨?_, ?_, ?_, ⟨_, rfl, by decide +kernel⟩, allMet_of (by decide +kernel), ?_, ?_, ?_, ?_, ?_, ?_, ?_, ?_, ?_, ?_⟩ <;> exact met_of (by decide +kernel)

/-! ## Traps -/

def killSpec : Spec := { flow .both [.items 4 1 false, .items 2 1 true] with roles := [.vector] }
theorem witness_traps :
    let sp := flow .both []
    let v := fun (x : Ctx) => x.item 4 0
    let mode := fun (x : Ctx) => fld (v x) 63 62
    let fields := fun (x : Ctx) => [decide (fld (v x) 61 0 = 0), decide (fld (v x) 61 51 = 0 ∧ fld (v x) 31 0 = 0),
      decide (fld (v x) 61 32 = 0)].getD (mode x) false = true
    AllMet [(at_ 4, .trap 0x3FFF, sp), (at_ 32, .svc 1, sp), (at_ 4, .brk 0, sp)] ∧
    Met (at_ 4) .rft sp (fun x _ => x.th.trap = false) ∧
    Met (inTrap 4 id) .rft sp (fun x _ => x.th.trap = true ∧ x.th.pends = [] ∧ x.th.trctl.getLsbD 2 = false) ∧
    Met (inTrap 4 (setTh 4 fun th => { th with trctl := 4 })) .rft sp (fun x s => x.th.trap = true ∧ x.th.pends = [] ∧
      x.th.trctl.getLsbD 2 = true ∧ s.allPerformed x.t = true ∧ busyBorrow s x = none) ∧
    Met (at_ 32) (.killb 2 4) killSpec (fun x _ => mode x = 0 ∧ fields x) ∧
    Met (atWith 32 (setS 4 0x4000000000000000)) (.killb 2 4) killSpec (fun x _ => (mode x = 1 ∨ mode x = 2) ∧ x.th.trap = false) ∧
    Met (atWith 32 (setS 4 0x8000000000000000)) (.killb 2 4) killSpec (fun x _ => (mode x = 1 ∨ mode x = 2) ∧ x.th.trap = false) ∧
    Met (atWith 32 (setS 4 1)) (.killb 2 4) killSpec (fun x _ => ¬ fields x ∧ (mode x = 0 ∨ mode x = 3 ∨ x.th.trap = true)) ∧
    Met (atWith 32 (setS 4 0xC000000000000000)) (.killb 2 4) killSpec
      (fun x _ => ¬ fields x ∧ (mode x = 0 ∨ mode x = 3 ∨ x.th.trap = true)) ∧
    Met (inTrap 32 (setS 4 0x4000000900000000)) (.killb 2 4) killSpec (fun x s => mode x ≠ 0 ∧ fields x ∧ x.th.trap = true ∧
      s.killTarget x.b (v x) = .none) ∧
    Met (inTrap 32 (setS 4 0x4000000000000000)) (.killb 2 4) killSpec (fun x s => mode x ≠ 0 ∧ fields x ∧ x.th.trap = true ∧
      s.killTarget x.b (v x) = .block 0) ∧
    Met { inTrap 32 (setS 4 0x4000000000000000) with
        blocks := (inTrap 32 (setS 4 0x4000000000000000)).blocks ++ [(1, { fetchBlock 32 fetchPc with below := some 0 })] }
      (.killb 2 4) killSpec (fun x s => mode x ≠ 0 ∧ fields x ∧ x.th.trap = true ∧ s.killTarget x.b (v x) = .nested) ∧
    MetLate (waiting 32 (.killb 2 4) (.gone 1) 1 none id) (.killb 2 4) killSpec (fun x _ => x.stage = 1) ∧
    ∃ c, (at_ 4).ctx? = some c ∧ c.resumed = false ∧ barSetLevel 0 = false := by
  refine ⟨allMet_of (by decide +kernel), ?_, ?_, ?_, ?_, ?_, ?_, ?_, ?_, ?_, ?_, ?_, metLate_of (by decide +kernel),
    _, rfl, by decide +kernel, by decide +kernel⟩ <;> exact met_of (by decide +kernel)

/-- A thread whose fault is taken at once, one in its handler, and one with no handler. -/
theorem witness_trap_entry :
    let t : ThreadRef := { blk := 0, warp := 4, armE := false }
    let s := atWith 4 (fun b => { b with desc := { b.desc with trapva := 0x8000 }, frameKeys := (List.range 16).map (fun i => placeKey 3 (0x10000 + 0x4000 * i)) })
    (∃ b th, s.blk? 0 = some b ∧ b.thread? 4 false = some th ∧ th.trap = false ∧ b.desc.trapva ≠ 0 ∧ b.quietWarp 4 = true ∧
      b.otherInTrap t = false ∧ b.killed = none ∧ s.beingSaved t.blk = false ∧
      (t.warp ≠ 32 → (s.thread? (otherArm t)).bind (·.record) = none) ∧ (b.frameKey (trapOff 4)).isSome ∧
      (b.frameKey (trapOff 4)).all (fun k => decide (keyPlace k < 16)) ∧ (∀ d ∈ s.mds, d.chunks = [] ∧ d.overflow = [])) ∧
    (∃ b th, (at_ 4).blk? 0 = some b ∧ b.thread? 4 false = some th ∧ (th.trap = true ∨ b.desc.trapva = 0)) ∧
    (∃ b th, (inTrap 32 id).blk? 0 = some b ∧ b.thread? 32 false = some th ∧ (th.trap = true ∨ b.desc.trapva = 0)) :=
  ⟨⟨_, _, rfl, rfl, by decide +kernel⟩, ⟨_, _, rfl, rfl, by decide +kernel⟩, ⟨_, _, rfl, rfl, by decide +kernel⟩⟩

/-- The premises of each refusal of R45 that stands before an instruction's own. -/
theorem witness_refusals :
    (∃ c, (at_ 32).ctx? = some c ∧ c.resumed = false ∧
      staticRefusal (at_ 32) c (.kmov 0 1) (plain .warp []) (c.covered && c.act == 0) = some 2) ∧
    (∃ c, (at_ 5).ctx? = some c ∧ c.resumed = false ∧ c.covered = false ∧ c.t.warp ≠ 32 ∧ c.w.role ≠ .vector ∧
      (at_ 5).pkg.minimal = false ∧ wellFormed (.csrw 2 0x301) = true ∧ c.th.trap = false) ∧
    (∃ c, (at_ 32).ctx? = some c ∧ c.resumed = false ∧ c.covered = false ∧ c.t.warp = 32) ∧
    (∃ c, (atWith 4 (fun b => b.updWarp 4 (fun w => { w with allot := 16 }))).ctx? = some c ∧ c.resumed = false ∧
      c.covered = false ∧ c.w.allot ≤ c.w.wb.toNat + (16 : BitVec 7).toNat) :=
  ⟨⟨_, rfl, by decide +kernel⟩, ⟨_, rfl, by decide +kernel⟩, ⟨_, rfl, by decide +kernel⟩, ⟨_, rfl, by decide +kernel⟩⟩

/-! ## Steps of the other agents -/

def due (e : Event) : State := { State.reset with due := some e }

def engineOp (i : Instr) (desc : DWord) (started : Bool) (reads : List (Nat × Nat)) (src : List (List Byte)) : EngineOp :=
  match (at_ 32).ctx? with
  | some x => { EngineOp.make x i desc with started := started, reads := reads, src := src }
  | none => { EngineOp.make { t := ⟨0, 32, false⟩, b := fetchBlock 32 fetchPc, th := Thread.fresh 0, act := 1, dq := none, stage := 0,
                              answer := none } i desc with started := started, reads := reads, src := src }

def zeros (n k : Nat) : List (List Byte) := List.replicate n (List.replicate k 0)

theorem witness_engine_steps :
    let start := fun (eng : Engine) (o : EngineOp) =>
      let s := { (at_ 32).updCore 0 (fun c => c.setQueue eng [o]) with due := some (.engineStart 0 eng) }
      (s.core 0).queueOf eng = [o] ∧ (s.blk? o.blk).isSome ∧ o.started = false ∧ (s.core 0).mayStart eng o = true
    let ends := fun (eng : Engine) (o : EngineOp) =>
      let s := { (at_ 32).updCore 0 (fun c => c.setQueue eng [o]) with due := some (.engineComplete 0 eng) }
      (s.core 0).queueOf eng = [o] ∧ o.started = true ∧ o.bad = [] ∧ o.fail = [] ∧ o.wild = false ∧
      (s.blk? o.blk).any (fun b => o.src == o.reads.map (fun x => cread b.scratch x.1 x.2)) = true
    start .tile (engineOp (.mzero 31 0) 0 false [] []) ∧ start .array (engineOp (.mtrn 0 1 0) 0 false [] []) ∧
    ends .tile (engineOp (.mzero 31 0) 0 true [] []) ∧ ends .tile (engineOp (.mcpy 0 31 0) 0 true [] []) ∧
    ends .array (engineOp (.mtrn 31 31 0) 0 true [] []) ∧
    ends .tile (engineOp (.mld 0 0 4 0) 0 true (List.replicate 64 (0, 256)) (zeros 64 256)) ∧
    (ends .array (engineOp (.mma 0 4 0 0) 0x7700000000000000 true (List.replicate 64 (0, 64)) (zeros 64 64)) ∧
      mdAtype 0x7700000000000000 = 7) ∧
    ends .array (engineOp (.ratl 0 4 0) 0x2000 true [(0, 2)] (zeros 1 2)) := by
  decide +kernel

theorem witness_rank_list : 1 ≤ 1 ∧ 1 ≤ [(5 : Int), 7].length ∧ [(5 : Int), 7].length ≤ 1024 := by decide

def msg (kind status flags window : Nat) : EopMsg :=
  { typ := 0, flags := BitVec.ofNat 4 flags, kind := kind, status := status, src := .cd 0, id := 0, base := 0, lenm1 := 0, devno := 0, home := 0,
    dieIx := 0, window := window, via := none }
def homeEntry (state : EntryState) : HomeEntry :=
  { kind := 2, state := state, wp := false, base := 0, lenm1 := 0, rcount := 0, devno := 0, cd := 0, hslot := 0, lastwb := 0, try_ := false,
    next := none, via := none, order := 0 }
def dieEntry (state : EntryState) (pieces : List Piece) : DieEntry := { soleEntry with state := state, pieces := pieces, space := 0 }
def piece0 : Piece := { home := 0, base := 0, lenm1 := 0, ix := 0, granted := false }
/-- The package after its start. -/
def started (s : State) : State := s.setPkg (fun p => { p with phase := .ready })
/-- A step due, with an entry of its own at compute die 7 and at home 15. -/
def owned (ev : Event) (e : DieEntry) (x : HomeEntry) : State :=
  ((due ev).updCd 7 (fun c => { c with entries := [(0, e)] })).updMd 15 (fun q => { q with home := [(0, x)] })

def fullHome : KMap HomeEntry := List.replicate homeSize (0, homeEntry .held)

theorem witness_full_home : homeSize ≤ fullHome.length ∧ kget fullHome 0 = some (homeEntry .held) :=
  ⟨by simp [fullHome], by decide +kernel⟩

theorem witness_ownership_steps :
    let e := fun (ev : Event) (st : EntryState) (ps : List Piece) => (owned ev (dieEntry st ps) (homeEntry .held)).entry 7 0
    -- requests, at both ends of the kinds
    (msg 1 0 0 0).kind ≠ 5 ∧ (msg 1 0 0 0).kind ≠ 6 ∧ (msg 5 0 0 0).kind = 5 ∧ (msg 6 0 0 0).kind = 6 ∧
    -- returns, with and without an entry
    kget ((owned (.returnMessage 15 (msg 0 0 0 0)) soleEntry (homeEntry .held)).md 15).home 0 = some (homeEntry .held) ∧
    (msg 0 0 0 0).flags.getLsbD 0 = false ∧ (msg 0 0 1 0).flags.getLsbD 0 = true ∧ kget ((due (.returnMessage 16 (msg 0 0 0 0))).md 16).home 0 = none ∧
    -- a LOST entry that a RETURN or a RECLAIM meets
    (kget ((owned (.returnMessage 15 (msg 0 0 0 0)) soleEntry (homeEntry .lost)).md 15).home 0).all (fun y => decide (y.state ≠ .held)) = true ∧
    -- a home table with room, and a full one
    ((owned (.reclaim 15 (msg 0 0 1 0)) soleEntry (homeEntry .held)).md 15).home.length < homeSize ∧
    -- reclaims
    kget ((due (.reclaim 16 (msg 0 0 0 0))).md 16).home 0 = none ∧
    kget ((owned (.reclaim 15 (msg 0 0 1 0)) soleEntry (homeEntry .held)).md 15).home 0 = some (homeEntry .held) ∧
    (msg 0 0 0 0).flags.getLsbD 1 = false ∧ ((msg 0 0 1 0).flags.getLsbD 1 = false ∧ (msg 0 0 1 0).flags.getLsbD 0 = true) ∧
    -- grants
    (e (.grant 7 (msg 0 1 0 0)) .requesting [piece0] = some (dieEntry .requesting [piece0]) ∧ (msg 0 1 0 0).status ≠ 0 ∧
      (msg 0 1 0 0).status ≠ 3) ∧
    ((dieEntry .requesting [piece0]).state = .requesting ∧ nextPiece (dieEntry .requesting [piece0]).pieces = some 0) ∧
    -- a waiting writer
    ((dieEntry .held []).state = .held ∧ (dieEntry .held []).kind = 2 ∧ (msg 1 0 0 0).kind = 1) ∧
    ((dieEntry .requesting []).state = .requesting ∧ (dieEntry .requesting []).kind = 2) ∧
    ((dieEntry .returning []).state ≠ .held ∧ (dieEntry .returning []).state ≠ .requesting) ∧
    -- the end of a return: the last piece, and one of two
    (∀ p ∈ pieceBack (msg 0 0 0 0) [{ piece0 with granted := true }], p.gone = true) ∧
    (∃ p ∈ pieceBack (msg 0 0 0 0) [{ piece0 with granted := true }, { piece0 with granted := true, base := 1 }], p.gone = false) ∧
    -- a stamp that has passed
    (e (.cleanAfterRelease 7 0) .held [] = some (dieEntry .held []) ∧ (dieEntry .held []).stamp * 2 ^ fld State.reset.pkg.wlen 3 0 ≤ State.reset.pkg.timeNs.toNat) ∧
    -- HCLR of a lost entry
    (kget ((started (owned (.hclr 15 0x8000000000000000) soleEntry (homeEntry .lost))).md 15).home 0 = some (homeEntry .lost) ∧
      (0x8000000000000000 : DWord).getLsbD 63 = true ∧ (0x8000000000000000 : DWord).getLsbD 62 = false ∧
      fld (0x8000000000000000 : DWord) 61 18 = 0) := by
  decide +kernel

def logEntry0 : LogEntry :=
  { id := 3, t := { blk := 0, warp := 4, armE := false }, ctx := 0, pc := 0x4000, region := reg 1 0, ins := .st32 0 0 2 0 0,
    lanes := [(0, 0, 7, 0xFFFFFFFF)], counter := none, priv := false, waits := false }
def copy0 : CopyCmd :=
  { id := 3, t := { blk := 0, warp := 5, armE := false }, pc := 0x4000, ins := .cpy 0 1 2, src := reg 2 2, dst := reg 1 2,
    moves := [(0, 1024, 16)], vals := [], op := 0, ty := 0, target := 0, counter := none, lines := [], priv := false, paused := none,
    act := 1, hits := 0 }
def leafB : WalkRes → Bool
  | .leaf _ => true
  | _ => false
def absentB : WalkRes → Bool
  | .notPresent => true
  | _ => false

/-- Compute die 7 with one row of its slice map, and the map that generation 5 had. -/
def sliced (row : BitVec 8) (old : Cells 8) : State :=
  State.reset.updCd 7 (fun c => { c with slice := [(sliceRow 1, row)], sliceOld := [(5, old)] })

theorem witness_memory_steps :
    let t : ThreadRef := { blk := 0, warp := 4, armE := false }
    let held := atWith 4 (setTh 4 fun th => { th with hold := some { wait := .scoreboard, ins := none, stage := 0, answer := none, dq := none } })
    -- tables at 0x10000 whose first entry leads to a leaf, and tables with no entry
    let key := fun (pa : Nat) => ((at_ 4).paKey 0 pa).getD 0
    let mapped := ((at_ 4).memPut (key 0x10000) (leBytes 8 0x20001)).memPut (key 0x20000) (leBytes 8 0x3F)
    -- data for a thread that waits for nothing, and for one at the scoreboard
    let returned := fun (s : State) => ((s.applyWrites t []).updThread t (fun y => { y with pends := y.pends.filter (fun p => p.id != 3) })).updThread
      (otherArm t) (fun y => { y with pends := y.pends.filter (fun p => p.id != 3) })
    let alone := fun (s : State) => t.warp = 32 ∨ ((returned s).thread? (otherArm t)).all (fun y => y.hold.isNone) = true
    (((returned (at_ 4)).thread? t).any (fun th => th.hold.isNone) = true ∧ alone (at_ 4)) ∧
    ((at_ 4).thread? t).all (fun y => y.pends.all (fun p => p.id != 3 || p.loose.isEmpty)) = true ∧
    (held.thread? t).all (fun y => y.pends.all (fun p => p.id != 3 || p.loose.isEmpty)) = true ∧
    (((returned held).thread? t).any (fun th => th.hold.any (fun h => h.wait == .scoreboard && h.ins.isNone)) = true ∧ alone held) ∧
    leafB (mapped.walk 0 0 0x4000 4 0x10000) = true ∧ absentB (mapped.walk 0 0 0x4000 4 0x90000) = true ∧
    mapped.anyHeld = false ∧
    -- a side-log entry, a copy
    (((at_ 4).updCore 0 (fun c => { c with log := [logEntry0] })).core 0).log.find? (fun x => x.id == 3) = some logEntry0 ∧
    logEntry0.waits = false ∧ behindEntry (at_ 4) [logEntry0] logEntry0 = false ∧
    (at_ 4).updateEarly [logEntry0] logEntry0 = false ∧
    (((at_ 5).updCore 0 (fun c => { c with copies := [copy0] })).core 0).copies.find? (fun x => x.id == 3) = some copy0 ∧
    copy0.paused = none ∧ ((at_ 5).blk? copy0.t.blk).isSome ∧
    -- requests, new and repeated
    State.reset.repeated 0 (.md 3) 1 = none ∧
    (State.reset.noteSeen 0 (.md 3) 1 (some ([5], false))).repeated 0 (.md 3) 1 = some (some ([5], false)) ∧
    -- at the slice: a request of the current generation, one of an older map that names another slice, one that names the same
    (let slices := fun (s : State) => (sliceIn ((kget (s.cd 7).sliceOld 5).getD []) 1, sliceIn (s.cd 7).slice 1)
     fld ((sliced 9 []).cdReg 7 0x3C0) 7 0 = 0 ∧ (sliced 9 []).eighths 7 ≠ 8 ∧ (slices (sliced 9 [])).1 ≠ (slices (sliced 9 [])).2 ∧
     (slices (sliced 9 [(sliceRow 1, 9)])).1 = (slices (sliced 9 [(sliceRow 1, 9)])).2 ∧
     ((sliced 9 []).setCdReg 7 0x300 0x800000000000).eighths 7 = 8) ∧
    -- heat, chunks and places
    State.reset.mds.length = 16 ∧ ((State.reset.md 15).heat.map (·.1)).Nodup ∧ ((started State.reset).md 15).overflow = [] ∧
    ((started State.reset).md 15).stalled = [] ∧ ((started State.reset).place 15).early = [] ∧
    ((started State.reset).place 15).marks = [] ∧
    placeOf (placeKey 3 64) = some 3 ∧ placeDie 3 ≠ .md 0 ∧
    ¬ ((({ next := 1, perform := 0, early := [], system := [], marks := [] } : ScPlace).system = []) ∧
      (1 : Nat) = 0) := by
  decide +kernel

/-! ## Steps of queues, placement, tasks and the fault path -/

def mapAll : TlbEntry := { cluster := 0, asid := 0, glb := true, va := 0, pa := 0, bits := 30, perm := 0xF }
def desc0 : CtxDesc := { l4pa := 0, asid := 0, dbg := false, saveva := 0x100000, trapva := 0 }
def packet0 (task : Bool) : Packet :=
  { pa := 0, queue := 0, die := 0, desc := desc0, frontImg := 0x4000, warpImg := 0x4000, entries := [], argBase := 0, argLen := 0,
    gridM1 := 0, clusz := 1, coop := false, task := task, prio := 0, dieMask := 0xFF, allot := (fetchBlock 32 fetchPc).allot,
    doneAddr := 0, next := 0, lastDie := 0, placed := 0, ended := 0, ndone := 0, nkilled := false, taken := 0, owed := false }
def gang0 (blocks : List Nat) : Gang :=
  { pkt := 1, blocks := blocks, hold := false, senior := none, target := none, stuck := false, since := 0 }
/-- A packet whose gang waits; with a saved block or with no block. -/
def gangState (task : Bool) (saved : Bool) : State :=
  let s := atWith 32 (fun b => { b with home := false, pkt := 1, desc := desc0, frameVa := 0x100000 })
  { s with tlb := [mapAll], packets := [(1, packet0 task)], gangs := [(2, gang0 (if saved then [0] else []))],
           blocks := if saved then s.blocks else [] }

@[reducible] def Settled (s : State) : Prop := ∀ y ∈ s.blocks, y.2.started = true
def nextGang (s : State) : Option (Nat × Gang × Packet × List (Nat × Nat × Nat)) :=
  s.candidates.findSome? (fun y => match kget s.packets y.2.pkt with
    | some p => if p.owed then none else (s.planOf y.2 p).map (fun plan => (y.1, y.2, p, plan))
    | none => none)
def gangB (s : State) (saved task : Bool) : Bool :=
  match nextGang s with
  | some (_, g, p, _) => s.isSaved g == saved && p.task == task
  | none => false

theorem witness_gangs :
    Settled (gangState false true) ∧ gangB (gangState false true) true false = true ∧
    Settled (gangState false false) ∧ gangB (gangState false false) false false = true ∧
    Settled (gangState true false) ∧ gangB (gangState true false) false true = true := by
  decide +kernel

def parkB : Choice → Bool
  | .park => true
  | _ => false
def noFrameB : Choice → Bool
  | .noFrame => true
  | _ => false
def freshB : Choice → Bool
  | .fresh _ _ _ _ _ => true
  | _ => false
def chainB : Choice → Bool
  | .saved _ _ _ => true
  | _ => false
def startB : StartKeys → Bool
  | .ok _ _ => true
  | _ => false
def keysB : Keys → Bool
  | .ok _ => true
  | _ => false
def savedB (s : State) (n : Nat) (hold nest : Bool) : Bool :=
  match s.saveBlock n hold nest with
  | .done s' => s'.pools.isEmpty || nest
  | _ => false
def savedDoneB : Saved → Bool
  | .done _ => true
  | _ => false
/-- A saved chain takes slot 0 of core 0. -/
def chainTakesB (s : State) (die e bk j : Nat) : Bool :=
  match s.chainKeys die (s.chainBlocks 8 (some bk)) [] with
  | .ok ks => savedDoneB (s.takeChain 0 e bk 0 0 0 j ks)
  | .error _ => false
/-- The chain that a task is saved in can be translated. -/
def chainKeysB (s : State) (die : Nat) (bk : Nat) : Bool :=
  match s.chainKeys die (s.chainBlocks 8 (some bk)) [] with
  | .ok _ => true
  | .error _ => false
def holdWait (w : Wait) (th : Thread) : Thread :=
  { th with hold := some { wait := w, ins := none, stage := 0, answer := none, dq := none } }
def queueState (en : Nat) : State :=
  let key := (State.reset.paKey 0 0x40000).getD 0
  (State.reset.setCdReg 0 0x3D0 0x40001).memPut key (leBytes 8 0x50000 ++ [4, BitVec.ofNat 8 (128 * en), 0, 0])

/-- An allotment with nothing beyond the first 256 KiB of a frame. -/
def smallAllot : Allot := { (fetchBlock 32 fetchPc).allot with roles := [], tiles := 0, scratch := 0 }
def queued0 : Task := { task0 with st := .queued, blk := none }
/-- A pool whose run queue of priority 0 holds the task of entry 0. -/
def pool1 : Pool :=
  { pool0 with desc := desc0, allot := smallAllot, tcap := 0, pkt := 1, heads := [0x4040, 0, 0, 0], tails := [0x4040, 0, 0, 0], tasks := [(0, queued0)] }
/-- A front thread that waits at an object while its chain is about to leave the slot; its block has a frame. -/
def framed (f : Block → Block) : State :=
  { atWith 32 (fun b => f (setTh 32 (holdWait .object) { b with
      warps := [], allot := smallAllot, desc := desc0, frameVa := 0x300000 })) with
    tlb := [mapAll] }
/-- A saved gang whose block has nothing beyond the first 256 KiB of its frame. -/
def smallSaved : State := (gangState false true).updBlk 0 (fun b => { b with warps := [], allot := smallAllot })
def parking (s : State) : State := s.updCd 0 (fun c => { c with parking := [0] })

/-- The blocks of a saved gang take their slots: their frames are translated, and are read back. -/
def readB (s : State) (g : Gang) (p : Packet) : Bool :=
  match s.planOf g p with
  | none => false
  | some plan =>
    match s.manyKeys (fun i => ((plan.getD i (0, 0, 0)).1) / 128) p.desc ((s.savedClusters g).flatten.map (fun x => x.2.frameVa)) 0 [] with
    | .ok ks =>
      let moved := (s.savedClusters g).flatten.zip (plan.zip ks)
      let s2 := moved.foldl (fun (s : State) x => (s.renumber x.1.1 (x.2.1.1 / 128)).updBlk x.1.1
        (fun b => { b with frameKeys := x.2.2, die := x.2.1.1 / 128 })) s
      savedDoneB (s2.readFrames (moved.map (·.1.1)))
    | .error _ => false

theorem witness_work_steps :
    let t : ThreadRef := { blk := 0, warp := 32, armE := false }
    -- a queue that is on, a quiet die, an active queue
    ((queueState 1).queueDesc 0 0).any (fun d => d.en && d.home == 0) = true ∧ (0 ∉ ((queueState 1).cd 0).active) ∧
    (((State.reset.updCd 0 (fun c => { c with quiet := true })).cd 0).quiet = true) ∧
    (((State.reset.updCd 0 (fun c => { c with bells := [1] })).cd 0).bells ≠ []) ∧
    -- a gang that has waited
    (kget (gangState false false).gangs 2 = some (gang0 []) ∧ (gang0 []).senior = none ∧ (gang0 []).hold = false ∧
      kget (gangState false false).packets (gang0 []).pkt = some (packet0 false)) ∧
    -- a task at the head of its queue, a slot, a frame; its table is as the device wrote it
    (let s := ({ gangState true false with pools := [(0, pool1)] }).syncPool 0 0
     let late := (s.queueLate 0).upset 0
     kget late.pools 0 = some pool1 ∧ (late.idleSlots pool1).contains 0 = true ∧ (late.cd pool1.die).quiet = false ∧
     pool1.oldestReady = none ∧ late.headTask pool1 = .task 0 queued0 0 ∧ pool1.freeFrame = some 0 ∧
     startB (late.startKeys pool1 0x4040 0) = true) ∧
    -- a wait with no owner that can run, and with one whose pool has no frame
    (let s := parking (framed id)
     ∃ b th, s.blk? 0 = some b ∧ s.thread? t = some th ∧ b.home = true ∧ b.killed = none ∧ b.ending = false ∧
       (s.cd b.die).saving.contains 0 = false ∧ th.hold.map (·.wait) = some .object ∧ (s.cd b.die).parking.contains 0 = true ∧
       parkB (s.chooseOwner b 0xFFFFFFFF) = true ∧ s.quietBlock 0 b none = true) ∧
    (let s := { framed id with pools := [(0, { pool1 with nframe := 0 })] }
     ∃ b th, s.blk? 0 = some b ∧ s.thread? t = some th ∧ b.home = true ∧ b.killed = none ∧ b.ending = false ∧
       (s.cd b.die).saving.contains 0 = false ∧ th.hold.map (·.wait) = some .object ∧ noFrameB (s.chooseOwner b 0) = true) ∧
    -- a waiter outside any task, a thread that waits for a park entry
    ((at_ 32).blk? 0).bind (fun b => (at_ 32).task? b.die 0xFFFFFFFF) = none ∧
    (((atWith 32 (fun b => setTh 32 (holdWait .parkRoom) b)).thread? t).any (fun th => th.hold.any (fun h => h.wait == .parkRoom)) = true) ∧
    -- PREEMPT of a context, a save with nothing left, and a block to save
    ((1 : DWord).getLsbD 0 = true ∧ ((at_ 32).cdReg 0 0x3B3).getLsbD 63 = false ∧
      ((at_ 32).ctxBlock 0 (fld (1 : DWord) 47 32)).any (fun x => x.2.home && x.2.killed.isNone) = true) ∧
    ((at_ 32).cd 0).saving = [] ∧
    (let s := (framed id).updCd 0 (fun c => { c with saving := [0] })
     ∃ b, s.blk? 0 = some b ∧ b.home = true ∧ b.killed = none ∧ s.quietBlock 0 b none = true ∧
       savedB s 0 (bitOf (s.cdReg 0 0x3B3) 1) false = true) ∧
    -- RESUME of a saved context, its restore
    ((gangState false true).ctxBlock 0 (fld (1 : DWord) 47 32)).any (fun x => !x.2.home && x.1 == 0) = true ∧
    (kget smallSaved.gangs 2 = some (gang0 [0]) ∧ smallSaved.restoreShort (packet0 false) = false ∧
      readB smallSaved (gang0 [0]) (packet0 false) = true) ∧
    -- a dead context
    (let s := (atWith 32 (fun b => { b with killed := some 33 })).updCd 0 (fun c => { c with dead := [0] })
     ∃ b, s.blk? 0 = some b ∧ (s.cd 0).marks = [] ∧ (s.cd 0).dead = [0] ∧ b.home = true ∧ s.quietBlock 0 b none = true ∧
       s.endWaitsPage 0 b = false ∧ (s.unpick 0 b 33).blk? 0 = none ∧ ((s.unpick 0 b 33).cd 0).dead = [0] ∧
       ((s.unpick 0 b 33).blocks.all (fun y => !y.2.over)) = true) ∧
    -- a thread with no record yet
    ((at_ 32).thread? t).any (fun th => th.live && th.record.isNone && th.later.isNone) = true ∧
    ((at_ 32).blk? t.blk).bind (·.killed) = none ∧ (at_ 32).beingSaved t.blk = false ∧
    -- a thread whose record is delivered
    (let s := atWith 32 (setTh 32 fun th => { th with record := some ((at_ 32).unitRecord 0 1 2 0 0 0) })
     ∃ b th, s.blk? 0 = some b ∧ s.thread? t = some th ∧ b.home = true ∧ th.live = true ∧ b.killed = none ∧ th.record.isSome = true ∧
       s.beingSaved t.blk = false ∧ b.otherInTrap t = false ∧ b.quietWarp t.warp = true ∧ s.firstRecord t th = t) := by
  refine ⟨by decide +kernel, by decide +kernel, by decide +kernel, by decide +kernel, by decide +kernel, by decide +kernel,
    ⟨_, _, rfl, rfl, by decide +kernel⟩, ⟨_, _, rfl, rfl, by decide +kernel⟩, by decide +kernel, by decide +kernel,
    by decide +kernel, by decide +kernel, ⟨_, rfl, by decide +kernel⟩, by decide +kernel, by decide +kernel,
    ⟨_, rfl, by decide +kernel⟩, by decide +kernel, by decide +kernel, by decide +kernel, ⟨_, _, rfl, rfl, by decide +kernel⟩⟩

/-- A saved block that holds a task, with its frame. -/
def savedTask : Block :=
  { fetchBlock 32 fetchPc with
    home := false, warps := [], allot := smallAllot, task := some 0, desc := desc0, frameVa := 0x200000, frame := some 0 }

theorem witness_task_unit_steps :
    let t : ThreadRef := { blk := 0, warp := 32, armE := false }
    -- a READY chain for an idle slot, and a slot that is not idle
    (let p := { pool1 with tasks := [(0, { task0 with st := .ready, blk := some 5 })] }
     let s := ({ gangState true false with pools := [(0, p)], blocks := [(5, savedTask)] }).syncPool 0 0
     let late := (s.queueLate 0).upset 0
     kget late.pools 0 = some p ∧ (late.idleSlots p).contains 0 = true ∧ (late.cd p.die).quiet = false ∧
     p.oldestReady = some (0, { task0 with st := .ready, blk := some 5 }) ∧ late.chainBlocks 8 (some 5) = [(5, savedTask)] ∧
     chainKeysB late 0 5 = true ∧ chainTakesB late 0 0 5 0 = true) ∧
    (let s := ({ at_ 32 with pools := [(0, pool1)] }).syncPool 0 0
     let late := (s.queueLate 0).upset 0
     kget late.pools 0 = some pool1 ∧ (late.idleSlots pool1).contains 0 = false) ∧
    -- the owner is queued, and is not; the work of the block is done, and is not; the wait is over
    (let s := parking { framed id with pools := [(0, { pool1 with nframe := 2 })] }
     ∃ b, s.blk? 0 = some b ∧ freshB (s.chooseOwner b 0) = true ∧ s.quietBlock 0 b none = true ∧
       startB (s.startKeys pool1 0x4040 0) = true ∧ okB (s.unlinkTask 0 pool1 queued0) = true ∧ savedB s 0 false true = true) ∧
    (let p := { pool1 with tasks := [(0, { task0 with st := .parked, blk := some 5 })] }
     let s := parking { framed id with pools := [(0, p)] }
     let s := { s with blocks := s.blocks ++ [(5, savedTask)] }
     ∃ b, s.blk? 0 = some b ∧ chainB (s.chooseOwner b 0) = true ∧ s.quietBlock 0 b none = true ∧ savedB s 0 false true = true ∧
       s.blk? 5 = some savedTask ∧ keysB (s.frameKeys 0 savedTask.desc savedTask.frameVa) = true) ∧
    (let s := parking (framed (fun b => setTh 32 (fun th => { th with pends := [owedOp] }) b))
     ∃ b, s.blk? 0 = some b ∧ noFrameB (s.chooseOwner b 0) = false ∧ s.quietBlock 0 b none = false) ∧
    (let s := parking { framed (setTh 32 fun th => { th with hold := none }) with pools := [(0, pool1)] }
     ∃ b th, s.blk? 0 = some b ∧ s.thread? t = some th ∧ th.hold.map (·.wait) ≠ some .object ∧ parkB (s.chooseOwner b 0) = false) ∧
    -- a task to wake: in a pool that is not placed, parked, running in this block, in another, or nested
    (let woken := fun (p : Pool) (n : Nat) => (({ at_ 32 with pools := [(0, p)] }.task? 0 0).any (fun (y : Nat × Pool × Nat × Task) =>
       y.2.1.placed == (n != 0) && y.2.2.2.st == [TaskState.queued, .parked, .running, .nested].getD n .queued)) = true
     woken { pool1 with placed := false } 0 ∧ woken { pool1 with tasks := [(0, { task0 with st := .parked, blk := some 5 })] } 1 ∧
     woken { pool1 with tasks := [(0, task0)] } 2 ∧ task0.blk = some t.blk ∧
     woken { pool1 with tasks := [(0, { task0 with blk := some 1 })] } 2 ∧
     woken { pool1 with tasks := [(0, { task0 with st := .nested })] } 3) := by
  refine ⟨by decide +kernel, by decide +kernel, ⟨_, rfl, by decide +kernel⟩, ⟨_, rfl, by decide +kernel⟩,
    ⟨_, rfl, by decide +kernel⟩, ⟨_, _, rfl, rfl, by decide +kernel⟩, by decide +kernel⟩

/-! ## Steps of links and ports -/

/-- A link between compute die 0 and memory-side die 0 with its modules in the given states. -/
def linkState (lo hi : Nat) : State :=
  (State.reset.setLkst (.cd 0) 0 (BitVec.ofNat 64 (lo * 2 ^ 61))).setLkst (.cd 0) 1 (BitVec.ofNat 64 (hi * 2 ^ 61))
def flit0 (seq : Nat) (tries : Nat) : Flit := { seq := seq, ack := none, resync := false, tries := tries, slots := [] }
def frame0 : Frame := { seq := 0, ack := none, nak := false, src := 0, dst := 0, stamp := 0, slots := [] }

def request0 : Request :=
  { id := 1, dev := 2, src := .md 15, dst := .md 15, owner := .waits { blk := 0, warp := 4, armE := false }, body := .access .add .w32 4 (placeKey 15 8) 1 0 .none, pc := 0,
    lanes := 1, ticket := 0, seq := 0 }
/-- Port 15 up, with frames that it has not acknowledged. -/
def portState : State := State.reset.updMd 15 (fun q => { q with portUp := true, portUnacked := 3 })

theorem witness_link_steps :
    let h : Hop := { src := .cd 0, dst := .md 0, mod := 0 }
    let key := hopKey h.src h.dst
    let withStream := fun (f : Stream → Stream) => (linkState 2 3).updStream key f
    let late := fun (st : Stream) (f : Flit) => (st.discard.map (seqAfter f.seq)).getD false
    (State.reset.linkUp h.src h.dst = false) ∧ ((linkState 2 3).linkUp h.src h.dst = true) ∧
    (let st := (linkState 2 3).stream key
     late st (flit0 0 0) = false ∧ (flit0 0 0).ack = none ∧ (flit0 0 0).nak = false ∧ (flit0 0 0).epoch = st.epoch ∧ (flit0 0 0).seq = st.rx ∧ (flit0 0 0).slots = [] ∧ st.early = [] ∧ st.unacked < 15) ∧
    (let st := (withStream (fun x => { x with unacked := 15 })).stream key
     late st (flit0 0 0) = false ∧ (flit0 0 0).seq = st.rx ∧ st.early = [] ∧ st.unacked = 15) ∧
    (let u := (withStream (fun y => { y with rx := (y.rx + 1) % 256, discard := none, unacked := y.unacked + 1 })).deliver h.dst
       (ctrKey h.dst (modOf h.dst h.src h.mod)) (.mark 0 5)
     (u.stream key).early = [] ∧ (u.stream key).unacked < 16) ∧
    -- a flit after one that failed, and the failed one itself, sent again
    (late ((withStream (fun x => { x with discard := some 3 })).stream key) (flit0 5 0) = true) ∧
    (late ((withStream (fun x => { x with discard := some 0 })).stream key) (flit0 0 0) = false) ∧
    (late ((linkState 2 3).stream key) (flit0 5 0) = false ∧ (flit0 5 0).seq ≠ ((linkState 2 3).stream key).rx ∧ ((flit0 5 0).seq + 256 - ((linkState 2 3).stream key).rx) % 256 < 64) ∧
    (((linkState 2 3).countCrc h).linkUp h.src h.dst = true ∧ (flit0 0 0).tries < 9 ∧ 9 ≤ (flit0 0 9).tries) ∧
    (((withStream (fun x => { x with unacked := 3 })).stream key).unacked ≠ 0) ∧
    -- a flit and an acknowledgement of the numbering before a resync
    ((flit0 0 0).epoch ≠ ((withStream (fun x => { x with epoch := 1 })).stream key).epoch ∧
      (1 : Nat) ≠ ((linkState 2 3).stream (hopKey h.dst h.src)).epoch) ∧
    (((withStream (fun x => { x with buf := [flit0 0 0] })).stream key).buf ≠ [] ∧ h.src ≠ h.dst) ∧
    (((State.reset.updMd 15 (fun q => { q with portBuf := [frame0] })).md 15).portBuf ≠ []) ∧
    ((portState.md 15).portUp = true ∧ (portState.md 15).portUnacked ≠ 0 ∧ (portState.md 15).portBad = none ∧ frame0.ack = none ∧
      frame0.nak = false ∧ frame0.slots = [] ∧ (portState.md 15).portEarly = [] ∧ frame0.seq = (portState.md 15).portRx ∧
      portState.pkg.timeNs.toNat / 2 ^ fld portState.pkg.wlen 3 0 ≤ frame0.stamp + 1) ∧
    -- a frame that comes early, with a slot
    ({ frame0 with seq := 5 }.seq ≠ (portState.md 15).portRx ∧ ({ frame0 with seq := 5 }.seq + 65536 - (portState.md 15).portRx) % 65536 < 256) ∧
    -- after a request in order nothing is held
    ((((portState.updMd 15 (fun q => { q with portBad := none })).updMd 15 (fun q =>
      { q with portRx := (q.portRx + 1) % 65536, portUnacked := q.portUnacked + 1, portPeer := 2 })).deliver (.md 15) 527
        (.request { request0 with dst := .md 15 })).md 15).portEarly = [] ∧
    -- the modes that each step leaves, at the peer of module 0
    linkPeer (.cd 0) (0 / 2) = some (.md 0) ∧ State.reset.modState (.cd 0) 0 = 0 ∧ (linkState 1 0).modState (.cd 0) 0 = 1 ∧
    (linkState 2 2).modState (.cd 0) 0 = 2 ∧ (linkState 3 2).modState (.cd 0) 0 = 3 ∧ (linkState 5 2).modState (.cd 0) 0 = 5 ∧
    (linkState 6 2).modState (.cd 0) 0 = 6 ∧ ((linkState 2 2).lkst (.cd 0) 0).getLsbD 60 = false ∧
    ((0x8000000000000000 : DWord).getLsbD 63 = true) ∧
    (let s := { linkState 2 2 with idlePol := [(ctrKey (.cd 0) 0, 0x0000010100000000)] }
     let pol := (kget s.idlePol (ctrKey (.cd 0) 0)).getD 0
     fld pol 47 40 ≠ 0 ∧ fld pol 39 32 ≠ 0) ∧
    ((linkState 2 2).stream (hopKey (.cd 0) (.md 0))).queue = [] ∧ ((linkState 2 2).stream (hopKey (.md 0) (.cd 0))).queue = [] := by
  decide +kernel

/-! ## Steps of the host and of the management unit -/

theorem witness_management_steps :
    let p := fun (f : Pkg → Pkg) => State.reset.setPkg f
    let ready := p (fun p => { p with phase := .ready })
    let keyed := p (fun p => { p with attKey := some [1] })
    let staged := fun (n : Nat) => p (fun p => { p with stage := n, stageCols := 15 })
    State.reset.pkg.phase ≠ .ready ∧ ready.pkg.phase = .ready ∧ ready.hostHeld 0 64 = false ∧ ready.hostHeld 0xFFFFFFFFFFFF 64 = false ∧
    -- repartition
    State.reset.pkg.stage = 0 ∧ State.reset.wholeParts 15 = true ∧ State.reset.wholeParts 3 = false ∧ State.reset.cds.length = 8 ∧
    (staged 1).pkg.stage ≠ 0 ∧ ((staged 1).pkg.stage = 1 ∧ (staged 1).pkg.stageCols = 15 ∧ (staged 1).pkg.stageCols ≠ 3) ∧
    (((staged 1).updCd 0 (fun c => { c with entries := [(0, soleEntry)] })).drainRefusal 15 = some 2) ∧
    ((staged 1).drainRefusal 15 = none) ∧
    (((colMds 15).foldl (fun s m => s.updMd m (fun d => { d with held := [], metaHit := [] })) (staged 1)).stagedOk 15 = true) ∧
    (staged 2).pkg.stage = 2 ∧
    -- stops and starts
    State.reset.pkg.phase = .inReset ∧ (p (fun p => { p with step := 5 })).pkg.step = 5 ∧ State.reset.pkg.step = 0 ∧
    State.reset.pkg.progress = false ∧
    -- the mailbox
    (List.replicate 4032 (0 : Byte)).length ≤ 4032 ∧ mailCommand (cwrite [] 0 [3]) = .attest 0 0 ∧ mailCommand [] = .badCommand 0 ∧
    State.reset.pkg.mailBusy = false ∧ (p (fun p => { p with mailBusy := true })).pkg.mailBusy = true ∧
    ((0 : DWord) ≤ State.reset.pkg.version ∧ (0 : DWord).toNat ≤ 64) ∧ State.reset.pkg.version < (1 : DWord) ∧ 64 < (65 : DWord).toNat ∧
    fld (0x1000 : DWord) 63 48 = 0 ∧ (0x8000000000001000 : DWord).getLsbD 63 = true ∧ (0x1000 : DWord).getLsbD 63 = false ∧
    keyed.pkg.attKey ≠ none ∧ keyed.pkg.mailBusy = false ∧ State.reset.pkg.attKey = none ∧ fld (0x1000000000000 : DWord) 63 48 ≠ 0 ∧
    -- a boot block that was written long ago, and one that is being written
    State.reset.pkg.bootAt + 1 < { State.reset with clock := 9 }.clock ∧ ¬ State.reset.pkg.bootAt + 1 < State.reset.clock ∧
    -- the power window at its bounds, a step of the time base
    3000 ≤ fld State.reset.pkg.pwrlim 15 0 ∧ (1 : Word) ≠ 0 := by
  decide +kernel

/-! ## Stepping, frames, and the physical map -/

/-- The one thread of `State.withFetchWord`, and a thread that waits in an instruction. -/
theorem witness_fetch :
    let s := State.reset.withFetchWord 32 0x98000000
    let t : ThreadRef := { blk := 0, warp := 4, armE := false }
    (s.thread? t).any (fun th => (th.hold.bind (·.ins)).isNone && s.translateNow 0 0 (fetchBlock 4 fetchPc).desc th.pc.toNat .fetch
      th.trap == .hit 0x4000 && (decodeWord (BitVec.ofNat 32 (leNat (cread s.mem 0x4000 4)))).isSome) = true ∧
    decodeWord 0 = none ∧
    ((waiting 4 (.mwait 0) (.tiles 1) 1 none id).thread? t).any (fun th => th.hold.bind (·.ins) == some (.mwait 0)) = true := by
  decide +kernel

/-- A thread whose turn it is, a due step with none, both, and neither; steps of two channels. -/
theorem witness_steps :
    (let s := State.reset.withFetchWord 32 0x98000000
     s.opening.inbox = [] ∧ s.opening.choose.isSome = true) ∧
    (let s := { State.reset with inbox := [.clearfail] }
     s.opening.choose.isNone = true ∧ (s.opening.takeEvent.map (fun (x : Event × State) => x.1)) = some .clearfail) ∧
    (let s := { State.reset.withFetchWord 32 0x98000000 with inbox := [.clearfail] }
     s.opening.choose.isSome = true ∧ s.opening.inbox ≠ [] ∧
       ({ s.opening with free := s.opening.free + 1 }.takeEvent.map (fun (x : Event × State) => x.1)) = some .clearfail) ∧
    (State.reset.opening.inbox = [] ∧ State.reset.opening.choose.isNone = true) ∧
    ((firstOf [.clearfail, .copyLanding 0 1, .resume 0 0, .copyLanding 0 2]).map (·.1) =
      [.clearfail, .copyLanding 0 1, .copyLanding 0 2]) := by
  decide +kernel

theorem witness_register_frame :
    ∃ c, (at_ 4).ctx? = some c ∧ c.th.wbUse = none ∧ c.th.wins = [] ∧ c.b.bheld = [] ∧ popsDq dab = false ∧ c.straight (c.th.pc + 4) = true ∧
      ∀ w ∈ [RegWrite.mk false 111 31 7], w.front = c.front ∧ w.lane < 32 :=
  ⟨_, rfl, by decide +kernel⟩

theorem witness_interleave :
    State.reset.pkg.minimal = false ∧ State.reset.cols 7 = 15 ∧ State.reset.cdReg 7 0x301 = 0xFEDCBA9876543210 ∧
    (State.reset.paKey 7 (16 * 98048 * 2 ^ 20 - 1)).isSome = true ∧ (State.reset.paKey 0 0).isSome = true := by
  decide +kernel

theorem witness_rounding : (fp32.round 3 false true 5 (-200)).2 &&& 4 = 0 ∧ (fp16.round 0 false false 2049 4).2 &&& 4 = 0 ∧
    (fp16.round 0 false false 2049 8).2 &&& 4 ≠ 0 ∧ (fp32.val 0x7FC00000).isNan = true ∧ (fp32.val 0).isNan = false ∧
    codeWidth 9 = 8 := by decide +kernel

/-! ## Words of the spec's encodings -/

/-- The words that chapters 02, 04 and 05 print. -/
theorem test_decode_arithmetic :
    decodeWord 0x6E080831 = some (.shflUp 2 1 3) ∧ decodeWord 0x38A7D031 = some (.cmp 5 1 122 3 1) ∧
    decodeWord 0x34081781 = some (.sel 2 2 120 0 1) ∧ decodeWord 0x0C07D7A0 = some (.mul 1 122 122 0 0) ∧
    decodeWord 0x06080FFF = some (.addi 2 1 0x7FF) ∧ decodeWord 0x02180FF2 = some (.add 6 1 127 0 2) ∧
    decodeWord 0x66300080 = some (.bpdot 12 0 8 0) ∧ decodeWord 0x32400064 = some (.movh 16 100) ∧
    decodeWord 0x3A47D010 = some (.cmpi 2 1 122 16) := by decide +kernel

/-- FADD.F32 V3, V1, V2: major 0x20, D 3, A 1, B 2, F 0. -/
theorem test_decode_float : decodeWord 0x400C0820 = some (.fadd 3 1 2 0) := by decide +kernel

/-- Words of chapters 02, 04, 06 and 12. -/
theorem test_decode_flow :
    decodeWord 0xFE901800 = some (.pblk 2 2 3) ∧ decodeWord 0x94008110 = some (.setf 16 17) ∧
    decodeWord 0x680C0820 = some (.kand 3 1 2) ∧ decodeWord 0x7C000000 = some .rcv ∧ decodeWord 0x78000006 = some (.bra 6) ∧
    decodeWord 0x7A404003 = some (.brd 1 8 3) ∧ decodeWord 0x98000002 = some (.swin 2) ∧ decodeWord 0x96082800 = some (.yset 2 5) ∧
    decodeWord 0x92000003 = some (.win 3) ∧ decodeWord 0x90100080 = some (.rds 4 2) ∧ decodeWord 0xF600000B = some .yield ∧
    decodeWord 0xF8001010 = some (.dqpush 2 1) := by decide +kernel

/-- Words of chapters 02, 08 and 09; ATOM.ADD with D 4, W 1, region 5, order 1, scope 3 in major 0x68. -/
theorem test_decode_memory :
    decodeWord 0xA0206163 = some (.ld32 8 3 5 2 3) ∧ decodeWord 0xAC1401A0 = some (.st32 5 0 6 2 0) ∧
    decodeWord 0xBA0441E0 = some (.stbe 1 2 7 2 0) ∧ decodeWord 0xBC101080 = some (.cpy 4 2 8) ∧
    decodeWord 0xD4000003 = some (.fence 3) ∧ decodeWord 0xD0112960 = some (.atomAdd 4 1 5 1 3) ∧
    decodeWord 0xC00C50B0 = some (.borrow 3 10 11 0 0) ∧ decodeWord 0xC414194B = some (.split 5 3 20 1 3) ∧
    decodeWord 0xC4080000 = some (.split 2 0 0 0 0) ∧ decodeWord 0xCE002800 = some (.rginfo 0 5) ∧
    decodeWord 0x9E002051 = some (.tlbinv 4 5) := by decide +kernel

/-- Words of chapters 07 and 11; RANK with D 1, S 2, C 8, T 1 in major 0x78. -/
theorem test_decode_engines :
    decodeWord 0xE0000400 = some (.mma 0 4 0 0) ∧ decodeWord 0xEA300000 = some (.mrdy 3) ∧ decodeWord 0xEA008720 = some (.mstat 1 7 0) ∧
    decodeWord 0xF2210A10 = some (.rmma 2 2 10 1 0) ∧ decodeWord 0xF4010C20 = some (.ratl 2 12 0) ∧
    decodeWord 0xF0110810 = some (.rank 1 2 8 1 0) := by decide +kernel

/-- Words of chapters 12 to 16. -/
theorem test_decode_system :
    decodeWord 0x9A104000 = some (.csrr 4 0x100) ∧ decodeWord 0x9C104000 = some (.csrw 4 0x100) ∧
    decodeWord 0xFC000050 = some (.trap 5) ∧ decodeWord 0xFC000011 = some (.svc 1) ∧ decodeWord 0xFC000002 = some .rft ∧
    decodeWord 0xFC000003 = some (.brk 0) ∧ decodeWord 0xFC183804 = some (.killb 6 7) ∧ decodeWord 0x9E002000 = some (.lwake 4) ∧
    decodeWord 0xFA0C0202 = some (.barSync 3 1 0) ∧ decodeWord 0xFA140002 = some (.barSync 5 0 0) ∧
    decodeWord 0xFA003835 = some (.cntWait 7 3) ∧ decodeWord 0xFA080007 = some (.time 2) ∧
    decodeWord 0xF610286A = some (.launch 4 5 6) ∧ decodeWord 0xF6202862 = some (.fwait 8 5 6) ∧
    decodeWord 0xF6001801 = some (.tret 3) := by decide +kernel

/-- Major 0 is not assigned, and RCV has no operand: a 1 in an unused bit is no encoding (02 R50). -/
theorem test_decode_refuses : decodeWord 0 = none ∧ decodeWord 0x7C000001 = none ∧ decodeWord 0x400C0824 = none := by
  decide +kernel

/-- The encoder lays the same fields out. -/
theorem test_encode : encode (.ld32 8 3 5 2 3) = some 0xA0206163 ∧ encode (.split 5 3 20 1 3) = some 0xC414194B ∧
    encode (.csrw 4 0x100) = some 0x9C104000 := by decide +kernel

/-! ## An ill-formed term for each check -/

theorem test_ill_formed : [
    Instr.shli 0 2 0 32, .shri 0 2 0 63, .sari 0 2 0 32, .cmp 6 0 2 4 0, .cmpi 7 0 2 5, .cmpi 14 0 2 5, .fcmp 8 0 2 4 0,
    .fexp2 0 2 1 0, .flog2 0 2 1 0, .fsin 0 2 1 0, .fcos 0 2 2 0, .fcvt 0 2 0 10 0, .fcvt 0 2 0 0 10, .icvt 0 2 10 0, .ftoi 0 2 0 10,
    .pack 0 2 4 2 2, .unpk 0 2 1 3, .bpjoin 0 2 0, .bru 0 0 0x8000, .rds 4 0x10, .swin 3, .csrr 4 0, .csrw 4 0x102, .csrwSet 4 0x3A1,
    .csrwClr 4 0x40C, .pblk 2 1 4, .barArr 3 1 8, .barWait 3 2 4, .barSync 3 3 2, .illegalInstruction 0].all
      (fun i => !wellFormed i) = true := by decide +kernel

theorem test_ill_formed_memory : [
    Instr.atomAdd 4 2 5 0 0, .atomFadd 4 0 5 5 0, .atomSwap 4 0 5 0 5, .atomCas 4 2 5 0 0, .atomAnd 4 2 5 0 0, .atomOr 4 2 5 0 0,
    .atomXor 4 2 5 0 0, .atomMin 4 2 5 0 0, .atomMax 4 2 5 0 0, .atomMinn 4 2 5 0 0, .atomMaxn 4 2 5 0 0, .atomLd 4 0 5 0 7,
    .atomSt 4 0 5 6 0, .redAdd 4 2 5 0 0, .redFadd 4 3 5 0 0, .redMin 4 0 5 1 0, .redMax 4 0 5 3 0, .redFmin 4 0 5 4 0,
    .redFmax 4 0 5 0 5, .redAnd 4 2 5 0 0, .redOr 4 2 5 0 0, .redXor 4 2 5 0 0, .redMinn 4 2 5 0 0, .redMaxn 4 2 5 0 0, .fence 5,
    .mld 0 16 4 0, .mst 16 0 4 0, .mcvt 16 0 4 0, .mrdy 16, .mstat 2 7 0, .rank 1 2 8 3 0, .rank 16 2 8 0 0, .rank 1 16 8 0 0,
    .rmma 2 16 10 0 0, .rtv 16 2 8 0, .rtv 2 16 8 0, .rlst 16 2 8 0, .rlst 2 16 8 0, .ratl 16 12 0, .rrcl 16 12 0].all
      (fun i => !wellFormed i) = true := by decide +kernel

/-! ## One step -/

def nextOf (r : Host.Outcome State Fault Refusal) : Option State :=
  match r with
  | .next t => some t
  | _ => none
/-- Lane `l` of register `r` of warp 4 after `i` at `s`, once no result is outstanding. -/
def vAfter (s : State) (i : Instr) (r l : Nat) : Option Word :=
  ((nextOf (exec i s)).bind (fun t => t.blk? 0)).bind (fun b => (b.warps[4]?).map (fun w => w.vget r l))
def sAfter (s : State) (i : Instr) (r : Nat) : Option DWord :=
  ((nextOf (exec i s)).bind (fun t => t.blk? 0)).map (fun b => b.front.sget r)
def pcAfter (s : State) (i : Instr) (warp : Nat) : Option (BitVec 56) :=
  ((nextOf (exec i s)).bind (fun t => t.thread? { blk := 0, warp := warp, armE := false })).map (·.pc)

/-- 2^32 − 1 plus 1 wraps to 0, in the last lane too. -/
theorem test_add_wraps : vAfter (atWith 4 (fun b => setV 2 (fun _ => 0xFFFFFFFF) (setV 4 (fun _ => 1) b))) (.add 3 2 4 0 0) 3 31 = some 0 := by
  decide +kernel
/-- A source that is the destination: each lane subtracts its own number from itself. -/
theorem test_sub_in_place : vAfter (atWith 4 (setV 2 fun l => BitVec.ofNat 32 (7 * l))) (.sub 2 2 122 0 0) 2 31 = some 186 := by
  decide +kernel
/-- 02: `ADDI V2, V1, #-1`. -/
theorem test_addi_negative : vAfter (at_ 4) (.addi 2 1 0x7FF) 2 0 = some 0xFFFFFFFF := by decide +kernel
/-- 05: a MOVI of −1 and a MOVH of 100 give 100 × 2^14 + 0x3FFF. -/
theorem test_movh_keeps_low : vAfter (atWith 4 (setV 16 fun _ => 0xFFFFFFFF)) (.movh 16 100) 16 5 = some 0x193FFF := by decide +kernel
/-- The front thread's ADD.I64 takes 64 bits. -/
theorem test_add_wide : sAfter (atWith 32 (fun b => setS 2 0xFFFFFFFF (setS 4 1 b))) (.add 6 2 4 0 2) 6 = some 0x100000000 := by
  decide +kernel
/-- `BRA` with offset 6 goes 24 bytes on from its own word. -/
theorem test_bra : pcAfter (at_ 4) (.bra 6) 4 = some 0x4018 := by decide +kernel
theorem test_bra_back : pcAfter (at_ 32) (.bra 0x1FFFFFF) 32 = some 0x3FFC := by decide +kernel
/-- 0x3C00 + 0x3C00 is 2 in FP16: 0x4000. -/
theorem test_fadd_f16 : vAfter (atWith 4 (setV 2 fun _ => 0x3C003C00)) (.fadd 3 2 2 2) 3 0 = some 0x40004000 := by decide +kernel
/-- A store to a scratch region writes its four bytes, the least significant first. -/
theorem test_store_scratch :
    ((nextOf (exec (.st32 5 0 2 0 0) (atWith 32 (fun b => setR 32 0 (reg 1 2) (setS 5 0x11223344 (setS 2 64 b)))))).bind
      (fun t => t.blk? 0)).map (fun b => cread b.scratch 64 4) = some [0x44, 0x33, 0x22, 0x11] := by decide +kernel
/-- A word that decodes to nothing takes ILLEGAL_INSTRUCTION, code 1: the machine goes on. -/
theorem test_illegal_goes_on :
    ((nextOf (step (State.reset.withFetchWord 32 0))).bind (fun t => t.blk? 0)).isSome = true := by decide +kernel
/-- A fetched MOVI runs as the first instruction after reset. -/
theorem test_step_runs_movi :
    (((nextOf (step (State.reset.withFetchWord 32 0x06080FFF))).bind (fun t => t.blk? 0)).map (fun b =>
      b.warps.any (fun w => w.vget 2 0 == 0xFFFFFFFF) || b.front.sget 2 == 0xFFFFFFFFFFFFFFFF)) = some true := by decide +kernel

end Sys2Proof.Machine.Tests
end

/-!
What a store writes (O24): the bytes of one element, the lanes one after another, and the whole store.
-/
namespace Sys2Proof.Machine

/-! ## Little-endian bytes -/

@[simp] theorem leBytes_length (n v : Nat) : (leBytes n v).length = n := by
  induction n generalizing v with
  | zero => rfl
  | succ n ih => simp [leBytes, ih]

theorem leBytes_getD {n i : Nat} (v : Nat) (h : i < n) : (leBytes n v).getD i 0 = BitVec.ofNat 8 (v >>> (8 * i)) := by
  induction n generalizing i v with
  | zero => omega
  | succ n ih =>
    cases i with
    | zero => simp [leBytes]
    | succ i =>
      rw [leBytes, List.getD_cons_succ, ih _ (by omega), show v / 256 = v >>> 8 by rw [Nat.shiftRight_eq_div_pow],
        ← Nat.shiftRight_add, show 8 + 8 * i = 8 * (i + 1) by ring]

theorem leNat_div_pow (bs : List Byte) (i : Nat) : BitVec.ofNat 8 (leNat bs / 256 ^ i) = bs.getD i 0 := by
  induction bs generalizing i with
  | nil => simp [leNat]
  | cons b r ih =>
    cases i with
    | zero =>
      apply BitVec.eq_of_toNat_eq
      simp [leNat, b.isLt]
    | succ i =>
      have hd : (b.toNat + 256 * leNat r) / 256 = leNat r := by omega
      rw [leNat, Nat.pow_succ', ← Nat.div_div_eq_div_mul, hd, ih, List.getD_cons_succ]

/-- Byte `i` of the 64-bit word of a byte list. -/
theorem leNat_extract (bs : List Byte) {i : Nat} (h : i < 8) :
    (BitVec.ofNat 64 (leNat bs)).extractLsb' (8 * i) 8 = bs.getD i 0 := by
  rw [← leNat_div_pow bs i, show (256 : Nat) ^ i = 2 ^ (8 * i) by rw [Nat.pow_mul], ← Nat.shiftRight_eq_div_pow]
  apply BitVec.eq_of_getLsbD_eq
  intro j hj
  simp only [BitVec.getLsbD_extractLsb', BitVec.getLsbD_ofNat, Nat.testBit_shiftRight]
  have : 8 * i + j < 64 := by omega
  simp [this]

theorem leBytes_byte {n i : Nat} (x : DWord) (h : i < n) : (leBytes n x.toNat).getD i 0 = x.extractLsb' (8 * i) 8 :=
  leBytes_getD x.toNat h

/-! ## What one element of a store writes (09 R224, R229) -/

/-- The byte at `k` once an element of `n` bytes at `p` has written its enabled bits over `v`. -/
def elemByte (p n : Nat) (data en : DWord) (k : Nat) (v : Byte) : Byte :=
  if p ≤ k ∧ k - p < n then mergeBits v (data.extractLsb' (8 * (k - p)) 8) (en.extractLsb' (8 * (k - p)) 8) else v

/-- The bits of an element of `n` bytes. -/
abbrev elemMask (n : Nat) : DWord := BitVec.ofNat 64 (2 ^ (8 * n) - 1)

theorem elemMask_byte {n i : Nat} (h : i < n) (hn : n ≤ 8) : (elemMask n).extractLsb' (8 * i) 8 = BitVec.allOnes 8 := by
  apply BitVec.eq_of_getLsbD_eq
  intro j hj
  simp only [BitVec.getLsbD_extractLsb', elemMask, BitVec.getLsbD_ofNat, Nat.testBit_two_pow_sub_one, BitVec.getLsbD_allOnes, hj]
  simp
  omega

/-- The enables of byte `i`, by what they leave of the element's bits. -/
theorem enables_byte {n i : Nat} {en m : DWord} (h : en &&& elemMask n = m) (hi : i < n) (hn : n ≤ 8) :
    en.extractLsb' (8 * i) 8 = m.extractLsb' (8 * i) 8 := by
  rw [← h, BitVec.extractLsb'_and, elemMask_byte hi hn, BitVec.and_allOnes]

theorem mergeBits_none (old data : Byte) : mergeBits old data 0 = old := by
  rw [mergeBits, show ~~~(0 : Byte) = BitVec.allOnes 8 from rfl, BitVec.and_allOnes]
  simp
theorem mergeBits_all (old data : Byte) : mergeBits old data (BitVec.allOnes 8) = data := by
  rw [mergeBits, BitVec.and_allOnes]
  simp

/-- What `putElem` does where reading the old bytes changes nothing: nothing if no bit of the element is enabled, else one write
of the old bytes with their enabled bits replaced. -/
theorem State.putElem_cases {s : State} {bk : Nat} {b : Block} {g : Region} {o n : Nat} (data en : DWord) {priv fill : Bool}
    {who : Who} {pc : BitVec 56} {old : List Byte} (hn : n ≤ 8)
    (hp : s.peekAt bk b g o n .write priv fill who pc = (old, s)) :
    (s.putElem bk b g o n data en priv fill who pc = s ∧ ∀ i, i < n → en.extractLsb' (8 * i) 8 = 0) ∨
    ∃ bs : List Byte, s.putElem bk b g o n data en priv fill who pc = s.writeAt bk b g o bs .write priv fill who pc ∧
      bs.length = n ∧ ∀ i, i < n →
        bs.getD i 0 = mergeBits (old.getD i 0) (data.extractLsb' (8 * i) 8) (en.extractLsb' (8 * i) 8) := by
  unfold State.putElem
  by_cases h0 : en &&& elemMask n = 0
  · left
    refine ⟨if_pos h0, fun i hi => ?_⟩
    rw [enables_byte h0 hi hn]
    simp
  · right
    by_cases h1 : en &&& elemMask n = elemMask n
    · refine ⟨leBytes n data.toNat, by simp only [if_neg h0, if_pos h1], by simp, fun i hi => ?_⟩
      rw [enables_byte h1 hi hn, elemMask_byte hi hn, mergeBits_all, leBytes_byte _ hi]
    · refine ⟨leBytes n ((BitVec.ofNat 64 (leNat old) &&& ~~~en) ||| (data &&& en)).toNat,
        by simp only [if_neg h0, if_neg h1, hp], by simp, fun i hi => ?_⟩
      rw [leBytes_byte _ hi, mergeBits, ← leNat_extract old (by omega)]
      apply BitVec.eq_of_getLsbD_eq
      intro j hj
      have hb : 8 * i + j < 64 := by omega
      simp [hj, hb]

/-! ## In scratch and exchange space (09 R215) -/

@[simp] theorem Block.scratchPut_scratchOff (b : Block) (o : Nat) (bs : List Byte) :
    (b.scratchPut o bs).scratchOff = b.scratchOff := rfl

@[simp] theorem State.blk?_updBlk_self (s : State) (k : Nat) (f : Block → Block) :
    (s.updBlk k f).blk? k = (s.blk? k).map f := by
  simp [State.blk?]

theorem State.writeAt_scratch {s : State} {bk : Nat} {b : Block} {g : Region} {o : Nat} {bs : List Byte} {acc : Access}
    {priv fill : Bool} {who : Who} {pc : BitVec 56} (hg : 2 ≤ g.space.toNat) :
    s.writeAt bk b g o bs acc priv fill who pc =
      s.updBlk bk (fun b => b.scratchPut (b.scratchOff g.space.toNat (g.addr o)) bs) := by
  unfold State.writeAt
  exact if_pos hg

theorem State.peekAt_scratch {s : State} {bk : Nat} {b b' : Block} {g : Region} {o n : Nat} {acc : Access}
    {priv fill : Bool} {who : Who} {pc : BitVec 56} (hb : s.blk? bk = some b') (hg : 2 ≤ g.space.toNat) :
    s.peekAt bk b g o n acc priv fill who pc = (cread b'.scratch (b.scratchOff g.space.toNat (g.addr o)) n, s) := by
  unfold State.peekAt
  rw [hb]
  exact if_pos hg

theorem cread_getD {w : Nat} (m : Cells w) {p n i : Nat} (h : i < n) : (cread m p n).getD i 0 = cget m (p + i) := by
  simp [cread, h]

/-- Over a byte `v`, an element of which no bit is enabled leaves `v`. -/
theorem elemByte_none {p n k : Nat} {data en : DWord} {v : Byte} (he : ∀ i, i < n → en.extractLsb' (8 * i) 8 = 0) :
    elemByte p n data en k v = v := by
  unfold elemByte
  split
  next h => rw [he _ h.2, mergeBits_none]
  next => rfl

/-- Writing the merged bytes of an element at `p` over `v` makes of it what the element makes of it. -/
theorem elemByte_written {p n k : Nat} {data en : DWord} {v : Byte} {old bs : List Byte}
    (hbs : ∀ i, i < n → bs.getD i 0 = mergeBits (old.getD i 0) (data.extractLsb' (8 * i) 8) (en.extractLsb' (8 * i) 8))
    (hold : p ≤ k → k - p < n → old.getD (k - p) 0 = v) :
    (if p ≤ k ∧ k < p + n then bs.getD (k - p) 0 else v) = elemByte p n data en k v := by
  unfold elemByte
  by_cases h : p ≤ k ∧ k - p < n
  · rw [if_pos h, if_pos (by omega), hbs _ h.2, hold h.1 h.2]
  · rw [if_neg h, if_neg (by omega)]

theorem State.putElem_scratch {s : State} {bk n : Nat} {b b' : Block} {g : Region} (o : Nat) (data en : DWord)
    (priv fill : Bool) (who : Who) (pc : BitVec 56) (hb : s.blk? bk = some b') (ho : b'.scratchOff = b.scratchOff)
    (hg : 2 ≤ g.space.toNat) (hn : n ≤ 8) :
    ∃ b'', (s.putElem bk b g o n data en priv fill who pc).blk? bk = some b'' ∧ b''.scratchOff = b.scratchOff ∧
      (s.putElem bk b g o n data en priv fill who pc).mem = s.mem ∧
      ∀ k, cget b''.scratch k = elemByte (b.scratchOff g.space.toNat (g.addr o)) n data en k (cget b'.scratch k) := by
  rcases putElem_cases data en hn (peekAt_scratch (b := b) hb hg) with ⟨hs, he⟩ | ⟨bs, hs, hlen, hbs⟩
  · rw [hs]
    exact ⟨b', hb, ho, rfl, fun k => (elemByte_none he).symm⟩
  · rw [hs, writeAt_scratch hg]
    refine ⟨b'.scratchPut (b.scratchOff g.space.toNat (g.addr o)) bs, by simp [hb, ho], ho, rfl, fun k => ?_⟩
    simp only [Block.scratchPut, cget_cwrite, hlen]
    exact elemByte_written hbs (fun hk hi => by rw [cread_getD _ hi, Nat.add_sub_cancel' hk])

/-! ## In lines that L1 holds (09 R224) -/

theorem getD_patchLine (line : Nat) (data : List Byte) (k : Nat) (bs : List Byte) {i : Nat} (h : i < 128) :
    (patchLine line data k bs).getD i 0 =
      if k ≤ 128 * line + i ∧ 128 * line + i < k + bs.length then bs.getD (128 * line + i - k) 0 else data.getD i 0 := by
  simp [patchLine, h]

theorem L1Line.same_iff {x y : L1Line} : x.same y = true ↔
    x.core = y.core ∧ x.asid = y.asid ∧ x.shared = y.shared ∧ x.slot = y.slot ∧ x.line = y.line := by
  simp [L1Line.same, and_assoc]

theorem State.lineOf_eq_some {s : State} {b : Block} {g : Region} {a : Nat} {x : L1Line} (h : s.lineOf b g a = some x) :
    x.core = b.coreIx ∧ x.asid = b.desc.asid ∧ x.shared = (g.space == 1) ∧ x.slot = g.tag ∧ x.line = a / 128 := by
  simpa [and_assoc] using List.find?_some h

theorem State.lineOf_congr {s : State} {b : Block} {g : Region} {k a : Nat} (h : k / 128 = a / 128) :
    s.lineOf b g k = s.lineOf b g a := by
  unfold State.lineOf
  rw [h]

/-- A line is found as the change has left it, where the change keeps what lines are found by. -/
theorem State.lineOf_l1Upd (s : State) (b : Block) (g : Region) (a : Nat) (x : L1Line) {f : L1Line → L1Line}
    (hf : ∀ y, (f y).same y = true) :
    (s.l1Upd x f).lineOf b g a = (s.lineOf b g a).map (fun y => if x.same y then f y else y) := by
  unfold State.l1Upd State.lineOf State.l1Find
  rw [List.find?_map]
  congr 2
  funext y
  obtain ⟨hc, ha, hs, ht, hl⟩ := L1Line.same_iff.1 (hf y)
  by_cases h : x.same y = true <;> simp [h, hc, ha, hs, ht, hl]

/-- The byte of a region that a core's L1 holds at `a`, where it holds its line. -/
def State.cachedByte (s : State) (b : Block) (g : Region) (a : Nat) : Option Byte :=
  (s.lineOf b g a).map (fun y => y.data.getD (a % 128) 0)

/-- The line at `a` is in L1, and is no line of host or pool memory, which a store reaches at once (10 R267). -/
def State.HoldsOwn (s : State) (b : Block) (g : Region) (a : Nat) : Prop :=
  ∃ x, s.lineOf b g a = some x ∧ (!x.shared && portKey (128 * x.phys)) = false

/-- A line as a store of the bytes `bs` at `a` leaves it (09 R224). -/
def L1Line.stored (a : Nat) (bs : List Byte) (ts : List ThreadRef) (x : L1Line) : L1Line :=
  { x.patched (a / 128) a bs with st := .dirty, who := (x.who ++ ts).dedup }

theorem L1Line.stored_same (a : Nat) (bs : List Byte) (ts : List ThreadRef) (x : L1Line) : (x.stored a bs ts).same x = true :=
  L1Line.same_iff.2 ⟨rfl, rfl, rfl, rfl, rfl⟩

theorem Region.space_lt_of_cached {g : Region} (h : g.cached = true) : ¬ 2 ≤ g.space.toNat := by
  simp only [Region.cached, Bool.and_eq_true, decide_eq_true_eq] at h
  omega

theorem State.writeAt_held {s : State} {bk : Nat} {b : Block} {g : Region} {o : Nat} {bs : List Byte} {acc : Access}
    {priv fill : Bool} {who : Who} {pc : BitVec 56} {x : L1Line} (hg : g.cached = true) (hx : s.lineOf b g (g.addr o) = some x)
    (hp : (!x.shared && portKey (128 * x.phys)) = false) :
    ∃ ts, s.writeAt bk b g o bs acc priv fill who pc = s.l1Upd x (L1Line.stored (g.addr o) bs ts) := by
  unfold State.writeAt
  rw [if_neg (Region.space_lt_of_cached hg)]
  simp only [hx, hp]
  exact ⟨_, rfl⟩

theorem State.peekAt_held {s : State} {bk : Nat} {b : Block} {g : Region} {o n : Nat} {acc : Access}
    {priv fill : Bool} {who : Who} {pc : BitVec 56} {x : L1Line} (hg : g.cached = true) (hx : s.lineOf b g (g.addr o) = some x) :
    s.peekAt bk b g o n acc priv fill who pc = ((x.data.drop (g.addr o % 128)).take n, s) := by
  unfold State.peekAt State.lineFor
  rw [if_neg (Region.space_lt_of_cached hg), hx]
  rfl

/-- A store into the line of `a` writes its bytes there, and no byte of another line. -/
theorem State.cachedByte_stored {s : State} {b : Block} {g : Region} {a : Nat} {x : L1Line} {bs : List Byte}
    {ts : List ThreadRef} (hx : s.lineOf b g a = some x) (ha : a % 128 + bs.length ≤ 128) (k : Nat) :
    (s.l1Upd x (L1Line.stored a bs ts)).cachedByte b g k =
      (s.cachedByte b g k).map (fun v => if a ≤ k ∧ k < a + bs.length then bs.getD (k - a) 0 else v) := by
  obtain ⟨xc, xa, xs, xt, xl⟩ := lineOf_eq_some hx
  simp only [State.cachedByte, lineOf_l1Upd s b g k x (L1Line.stored_same a bs ts), Option.map_map]
  cases hy : s.lineOf b g k with
  | none => rfl
  | some y =>
    obtain ⟨yc, ya, ys, yt, yl⟩ := lineOf_eq_some hy
    simp only [Option.map_some, Function.comp, Option.some.injEq]
    by_cases hk : a / 128 = k / 128
    · have hs : x.same y = true := by simp [L1Line.same_iff, *]
      have hkk : 128 * (a / 128) + k % 128 = k := by omega
      rw [if_pos hs]
      simp only [L1Line.stored, L1Line.patched, getD_patchLine _ _ _ _ (Nat.mod_lt k (by decide : 128 > 0)), hkk]
    · have hs : ¬ x.same y = true := by simp [L1Line.same_iff, *]
      rw [if_neg hs, if_neg (by omega)]

theorem State.HoldsOwn.stored {s : State} {b : Block} {g : Region} {k : Nat} (h : s.HoldsOwn b g k) (x : L1Line) (a : Nat)
    (bs : List Byte) (ts : List ThreadRef) : (s.l1Upd x (L1Line.stored a bs ts)).HoldsOwn b g k := by
  obtain ⟨y, hy, hp⟩ := h
  refine ⟨_, by rw [lineOf_l1Upd s b g k x (L1Line.stored_same a bs ts), hy]; rfl, ?_⟩
  by_cases hs : x.same y = true
  · simp only [hs, if_true]
    exact hp
  · simp only [hs]
    exact hp

theorem State.putElem_held {s : State} (bk : Nat) {b : Block} {g : Region} {o n : Nat} (data en : DWord)
    (priv fill : Bool) (who : Who) (pc : BitVec 56) (hg : g.cached = true) (hn : n ≤ 8) (hl : g.addr o % 128 + n ≤ 128)
    (hx : s.HoldsOwn b g (g.addr o)) :
    let t := s.putElem bk b g o n data en priv fill who pc
    t.mem = s.mem ∧ t.blocks = s.blocks ∧ (∀ k, s.HoldsOwn b g k → t.HoldsOwn b g k) ∧
      ∀ k, t.cachedByte b g k = (s.cachedByte b g k).map (elemByte (g.addr o) n data en k) := by
  obtain ⟨x, hx, hp⟩ := hx
  intro t
  rcases putElem_cases data en hn (peekAt_held hg hx) with ⟨hs, he⟩ | ⟨bs, hs, hlen, hbs⟩
  · rw [show t = s from hs]
    refine ⟨rfl, rfl, fun _ h => h, fun k => ?_⟩
    rw [show elemByte (g.addr o) n data en k = id from funext fun _ => elemByte_none he, Option.map_id, id]
  · obtain ⟨ts, hw⟩ : ∃ ts, s.writeAt bk b g o bs .write priv fill who pc = s.l1Upd x (L1Line.stored (g.addr o) bs ts) :=
      writeAt_held hg hx hp
    rw [show t = s.l1Upd x (L1Line.stored (g.addr o) bs ts) from hs.trans hw]
    refine ⟨rfl, rfl, fun k h => h.stored x _ bs ts, fun k => ?_⟩
    rw [cachedByte_stored hx (by omega), hlen]
    cases hy : s.lineOf b g k with
    | none => simp [cachedByte, hy]
    | some y =>
      simp only [cachedByte, hy, Option.map_some, Option.some.injEq]
      refine elemByte_written hbs (fun hk hi => ?_)
      have hxy : x = y := by
        rw [lineOf_congr (show k / 128 = g.addr o / 128 by omega), hx] at hy
        exact Option.some.inj hy
      rw [hxy, List.getD_eq_getElem?_getD, List.getElem?_take_of_lt hi, List.getElem?_drop,
        show g.addr o % 128 + (k - g.addr o) = k % 128 by omega, List.getD_eq_getElem?_getD]

/-! ## The lanes of a store, one after another (00 R10) -/

/-- What the elements of a store, each of lane, offset, data and enables, make of the byte at `k`, the highest lane last. -/
def elemsByte (place : Nat → Nat) (n : Nat) (ls : List (Nat × Nat × DWord × DWord)) (k : Nat) (v : Byte) : Byte :=
  ls.foldl (fun v e => elemByte (place e.2.1) n e.2.2.1 e.2.2.2 k v) v

/-- The elements of a store, written one after another. -/
abbrev State.putElems (s : State) (bk : Nat) (b : Block) (g : Region) (n : Nat) (priv fill : Bool) (who : Who) (pc : BitVec 56)
    (ls : List (Nat × Nat × DWord × DWord)) : State :=
  ls.foldl (fun s e => s.putElem bk b g e.2.1 n e.2.2.1 e.2.2.2 priv fill who pc) s

section
variable (bk : Nat) {n : Nat} {b : Block} {g : Region} (priv fill : Bool) (who : Who) (pc : BitVec 56)

theorem State.putElems_scratch {s : State} {b' : Block} (ls : List (Nat × Nat × DWord × DWord)) (hb : s.blk? bk = some b')
    (ho : b'.scratchOff = b.scratchOff) (hg : 2 ≤ g.space.toNat) (hn : n ≤ 8) :
    ∃ b'', (s.putElems bk b g n priv fill who pc ls).blk? bk = some b'' ∧
      (s.putElems bk b g n priv fill who pc ls).mem = s.mem ∧
      ∀ k, cget b''.scratch k = elemsByte (fun o => b.scratchOff g.space.toNat (g.addr o)) n ls k (cget b'.scratch k) := by
  induction ls generalizing s b' with
  | nil => exact ⟨b', hb, rfl, fun _ => rfl⟩
  | cons e ls ih =>
    obtain ⟨b1, h1, ho1, hm1, hc1⟩ := putElem_scratch e.2.1 e.2.2.1 e.2.2.2 priv fill who pc hb ho hg hn
    obtain ⟨b2, h2, hm2, hc2⟩ := ih h1 ho1
    exact ⟨b2, h2, hm2.trans hm1, fun k => (hc2 k).trans (by rw [hc1]; rfl)⟩

theorem State.putElems_held {s : State} (ls : List (Nat × Nat × DWord × DWord)) (hg : g.cached = true) (hn : n ≤ 8)
    (hl : ∀ e ∈ ls, g.addr e.2.1 % 128 + n ≤ 128 ∧ s.HoldsOwn b g (g.addr e.2.1)) :
    let t := s.putElems bk b g n priv fill who pc ls
    t.mem = s.mem ∧ t.blocks = s.blocks ∧ ∀ k, t.cachedByte b g k = (s.cachedByte b g k).map (elemsByte g.addr n ls k) := by
  induction ls generalizing s with
  | nil => exact ⟨rfl, rfl, fun k => (congrFun Option.map_id (s.cachedByte b g k)).symm⟩
  | cons e ls ih =>
    obtain ⟨hin, hx⟩ := hl e (by simp)
    obtain ⟨hm1, hb1, hk1, hc1⟩ := putElem_held bk e.2.2.1 e.2.2.2 priv fill who pc hg hn hin hx
    obtain ⟨hm2, hb2, hc2⟩ := ih (fun e' he' => ⟨(hl e' (by simp [he'])).1, hk1 _ (hl e' (by simp [he'])).2⟩)
    exact ⟨hm2.trans hm1, hb2.trans hb1, fun k => (hc2 k).trans (by rw [hc1, Option.map_map]; rfl)⟩

end

/-! ## The whole store -/

/-- Counting an event changes the counters of cores. -/
theorem State.pmcCount_eq (s : State) (core event n : Nat) : ∃ cs, s.pmcCount core event n = { s with cores := cs } := by
  simp only [State.pmcCount]
  split
  · exact ⟨_, rfl⟩
  · exact ⟨s.cores, rfl⟩

/-- Elements of which none, or every one, finds its line in L1 are written in the order of the lanes. -/
theorem storeLanes_inOrder {c : Ctx} {s : State} {g : Region} {n : Nat} {fill : Bool} {ls : List (Nat × Nat × DWord × DWord)}
    (hit : Bool) (h : ∀ e ∈ ls, (g.cached && (s.lineOf c.b g (g.addr e.2.1)).isSome) = hit) :
    ∃ who, storeLanes c s g n fill ls = (s.putElems c.t.blk c.b g n c.priv fill who c.th.pc ls).seen := by
  have hp : (ls.partition (fun e => g.cached && (s.lineOf c.b g (g.addr e.2.1)).isSome)).1 ++
      (ls.partition (fun e => g.cached && (s.lineOf c.b g (g.addr e.2.1)).isSome)).2 = ls := by
    rw [List.partition_eq_filter_filter]
    cases hit with
    | false =>
      rw [List.filter_eq_nil_iff.2 (fun e he => by simp [h e he]), List.filter_eq_self.2 (fun e he => by simp [h e he]),
        List.nil_append]
    | true =>
      rw [List.filter_eq_self.2 h, List.filter_eq_nil_iff.2 (fun e he => by simp [h e he]), List.append_nil]
  unfold storeLanes State.putElems
  simp only [hp]
  exact ⟨_, rfl⟩

/-- With no access cut off, the misses are counted in the core and every lane writes, in the order of the lanes where none or
every one of them finds its line in L1. -/
theorem State.storeNow_inOrder {s : State} {c : Ctx} {g : Region} {ls : List (Nat × Nat × DWord × DWord)} (n : Nat)
    (fill hit : Bool)
    (h : ∀ e ∈ ls, (g.cached && (s.lineOf c.b g (g.addr e.2.1)).isSome) = hit) :
    ∃ cs who, s.storeNow c g n fill ls [] =
      (State.putElems { s with cores := cs } c.t.blk c.b g n c.priv fill who c.th.pc ls).seen := by
  have hall : ls.filter (fun x => !([] : List Acc).any (fun d => d.1 == x.1)) = ls := List.filter_eq_self.2 (fun _ _ => rfl)
  unfold State.storeNow
  simp only [hall]
  split
  · obtain ⟨cs, hcs⟩ := s.pmcCount_eq c.b.coreIx 4 _
    rw [hcs]
    exact ⟨cs, storeLanes_inOrder hit h⟩
  · exact ⟨s.cores, storeLanes_inOrder hit h⟩

/-- Settles O24: the lanes write one after another, each its enabled bits, in the block's scratch bytes or in lines that L1
holds. -/
theorem storedBytes : Obligations.StoredBytes := by
  unfold Obligations.StoredBytes
  intro s c g n fill ls t merged byte cached hb _ hn
  constructor
  · intro hg
    have hc : g.cached = false := by
      by_contra h
      exact Region.space_lt_of_cached (by simpa using h) hg
    obtain ⟨cs, who, ht⟩ := State.storeNow_inOrder (s := s) (c := c) (ls := ls) n fill false (fun e _ => by rw [hc]; rfl)
    obtain ⟨b', hb', hm, hk⟩ :=
      State.putElems_scratch (s := { s with cores := cs }) c.t.blk c.priv fill who c.th.pc ls hb rfl hg hn
    rw [show t = _ from ht]
    refine ⟨fun k => congrArg (cget · k) hm, fun k => ?_⟩
    simp only [byte, hb, Option.map_some, Option.getD_some]
    exact (congrArg (fun x => (x.map (fun b => cget b.scratch k)).getD 0) hb').trans (hk k)
  · intro hc hl
    have hx : ∀ e ∈ ls, g.addr e.2.1 % 128 + n ≤ 128 ∧ s.HoldsOwn c.b g (g.addr e.2.1) := by
      intro e he
      obtain ⟨hin, x, hx, hp⟩ := hl e he
      refine ⟨hin, x, hx, ?_⟩
      rcases hp with hp | hp <;> simp [portKey, hp]
    obtain ⟨cs, who, ht⟩ := State.storeNow_inOrder (s := s) (c := c) (ls := ls) n fill true (fun e he => by
      obtain ⟨_, x, hx, _⟩ := hx e he
      rw [hc, hx]
      rfl)
    obtain ⟨hm, hbl, hk⟩ := State.putElems_held (s := { s with cores := cs }) c.t.blk c.priv fill who c.th.pc ls hc hn hx
    rw [show t = _ from ht]
    exact ⟨fun k => congrArg (cget · k) hm, hbl, hk⟩

end Sys2Proof.Machine

/-!
What an instruction that only writes registers leaves alone (O58): rules for changes of blocks, warps and threads, the register
writes, and completion.
-/
namespace Sys2Proof.Machine

/-! ## Changes in turn -/

/-- Changing an element twice is changing it once. -/
theorem lset_lset {α : Type} (l : List α) (i : Nat) (f g : α → α) : lset (lset l i f) i g = lset l i (g ∘ f) := by
  induction l generalizing i with
  | nil => rfl
  | cons x r ih => cases i <;> simp [lset, ih]

theorem lset_id {α : Type} (l : List α) (i : Nat) : lset l i id = l := by
  induction l generalizing i with
  | nil => rfl
  | cons x r ih => cases i <;> simp [lset, ih]

theorem kupd_kupd {α : Type} (m : KMap α) (k : Nat) (f g : α → α) : kupd (kupd m k f) k g = kupd m k (g ∘ f) := by
  simp only [kupd, List.map_map]
  congr 1
  funext e
  by_cases h : e.1 = k <;> simp [h]

theorem Block.updWarp_updWarp (b : Block) (n : Nat) (f g : Warp → Warp) :
    (b.updWarp n f).updWarp n g = b.updWarp n (g ∘ f) := by
  simp [Block.updWarp, lset_lset]

theorem State.updBlk_updBlk (s : State) (k : Nat) (f g : Block → Block) :
    (s.updBlk k f).updBlk k g = s.updBlk k (g ∘ f) := by
  simp [State.updBlk, kupd_kupd]

theorem State.blk?_updBlk_other (s : State) {j k : Nat} (f : Block → Block) (h : k ≠ j) :
    (s.updBlk j f).blk? k = s.blk? k := by
  simp [State.blk?, h.symm]

/-! ## Changes of a thread -/

/-- The arm of a warp that a thread reference names changes. -/
def Warp.updArm (x : Warp) (armE : Bool) (f : Thread → Thread) : Warp :=
  if armE then { x with e := f x.e } else { x with t := f x.t }

@[simp] theorem Warp.updArm_k (x : Warp) (armE : Bool) (f : Thread → Thread) : (x.updArm armE f).k = x.k := by
  cases armE <;> rfl
@[simp] theorem Warp.updArm_g (x : Warp) (armE : Bool) (f : Thread → Thread) : (x.updArm armE f).g = x.g := by
  cases armE <;> rfl
@[simp] theorem Warp.updArm_wb (x : Warp) (armE : Bool) (f : Thread → Thread) : (x.updArm armE f).wb = x.wb := by
  cases armE <;> rfl
@[simp] theorem Warp.updArm_stack (x : Warp) (armE : Bool) (f : Thread → Thread) : (x.updArm armE f).stack = x.stack := by
  cases armE <;> rfl
@[simp] theorem Warp.updArm_split (x : Warp) (armE : Bool) (f : Thread → Thread) : (x.updArm armE f).split = x.split := by
  cases armE <;> rfl
@[simp] theorem Warp.vget_updArm (x : Warp) (armE : Bool) (f : Thread → Thread) (r l : Nat) :
    (x.updArm armE f).vget r l = x.vget r l := by
  cases armE <;> rfl

theorem Block.updThread_front (b : Block) (armE : Bool) (f : Thread → Thread) :
    b.updThread 32 armE f = { b with front := { b.front with th := f b.front.th } } := rfl

theorem Block.updThread_warp (b : Block) {n : Nat} (armE : Bool) (f : Thread → Thread) (h : n ≠ 32) :
    b.updThread n armE f = b.updWarp n (fun x => x.updArm armE f) := if_neg h

theorem Block.updThread_updThread (b : Block) (n : Nat) (armE : Bool) (f g : Thread → Thread) :
    (b.updThread n armE f).updThread n armE g = b.updThread n armE (g ∘ f) := by
  by_cases h : n = 32
  · subst h
    rfl
  · simp only [Block.updThread_warp _ _ _ h, Block.updWarp_updWarp]
    congr 1
    funext x
    cases armE <;> rfl

theorem Block.thread?_updThread (b : Block) (n : Nat) (armE : Bool) (f : Thread → Thread) :
    (b.updThread n armE f).thread? n armE = (b.thread? n armE).map f := by
  by_cases h : n = 32
  · subst h
    rfl
  · rw [Block.updThread_warp _ _ _ h]
    simp only [Block.thread?, if_neg h, Block.updWarp_warps, lset_get, if_true, Option.map_map]
    congr 1
    funext x
    cases armE <;> rfl

theorem State.updThread_updThread (s : State) (t : ThreadRef) (f g : Thread → Thread) :
    (s.updThread t f).updThread t g = s.updThread t (g ∘ f) := by
  simp only [State.updThread, State.updBlk_updBlk, Function.comp_def, Block.updThread_updThread]

/-- The reconvergence entry of a thread rests on the stack of its owner and on which logical stack is its own. -/
theorem Block.curRec_congr {b b' : Block} {t : ThreadRef} (hl : b'.logOf t = b.logOf t)
    (hs : b'.stackOf t.warp = b.stackOf t.warp) : b'.curRec t = b.curRec t := by
  unfold Block.curRec Block.ownEntries
  rw [hl, hs]

theorem Block.logOf_updThread (b : Block) (t : ThreadRef) (f : Thread → Thread) :
    (b.updThread t.warp t.armE f).logOf t = b.logOf t := by
  by_cases h : t.warp = 32
  · simp [Block.logOf, h]
  · simp [Block.logOf, h, Block.updThread_warp, Function.comp_def]

theorem Block.stackOf_updThread (b : Block) (n : Nat) (armE : Bool) (f : Thread → Thread) :
    (b.updThread n armE f).stackOf n = b.stackOf n := by
  by_cases h : n = 32
  · subst h
    rfl
  · simp [Block.stackOf, h, Block.updThread_warp, Function.comp_def]

/-- A change of a thread leaves its reconvergence entry. -/
theorem Block.curRec_updThread (b : Block) (t : ThreadRef) (f : Thread → Thread) :
    (b.updThread t.warp t.armE f).curRec t = b.curRec t :=
  Block.curRec_congr (b.logOf_updThread t f) (b.stackOf_updThread t.warp t.armE f)

/-! ## The issuing thread -/

theorem Ctx.front_iff {c : Ctx} : c.front = true ↔ c.t.warp = 32 := by simp [Ctx.front]
theorem Ctx.not_front_iff {c : Ctx} : c.front = false ↔ c.t.warp ≠ 32 := by simp [Ctx.front]

/-- A context without a kept `WB` is that of a thread as its block holds it. -/
theorem State.ctx?_thread {s : State} {c : Ctx} (h : s.ctx? = some c) (hw : c.th.wbUse = none) :
    s.blk? c.t.blk = some c.b ∧ c.b.thread? c.t.warp c.t.armE = some c.th := by
  unfold State.ctx? at h
  split at h
  · cases h
  split at h
  · cases h
  next b hb =>
  split at h
  · cases h
  next th hth =>
  split at h
  · obtain rfl := Option.some.inj h
    change th.wbUse = none at hw
    simp only [hw, Block.mapWith]
    exact ⟨hb, hth⟩
  · cases h

/-! ## Lists of register writes -/

/-- The front thread's registers after a list of writes. -/
def Front.written (f : Front) (ws : List RegWrite) : Front := ws.foldl (fun f w => f.sset w.reg w.val) f

/-- A warp's registers after a list of writes. -/
def Warp.written (x : Warp) (ws : List RegWrite) : Warp := ws.foldl (fun x w => x.vset w.reg w.lane (w.val.setWidth 32)) x

theorem applyWrite_fold_front (b : Block) (n : Nat) {ws : List RegWrite} (h : ∀ w ∈ ws, w.front = true) :
    ws.foldl (fun b w => applyWrite b n w) b = { b with front := b.front.written ws } := by
  induction ws generalizing b with
  | nil => rfl
  | cons w ws ih =>
    have hw : applyWrite b n w = { b with front := b.front.sset w.reg w.val } := by simp [applyWrite, h w (by simp)]
    rw [List.foldl_cons, hw, ih _ (fun w' hw' => h w' (by simp [hw']))]
    rfl

theorem applyWrite_fold_warp (b : Block) (n : Nat) {ws : List RegWrite} (h : ∀ w ∈ ws, w.front = false) :
    ws.foldl (fun b w => applyWrite b n w) b = b.updWarp n (fun x => x.written ws) := by
  induction ws generalizing b with
  | nil => exact (congrArg (fun l => { b with warps := l }) (lset_id b.warps n)).symm
  | cons w ws ih =>
    have hw : applyWrite b n w = b.updWarp n (fun x => x.vset w.reg w.lane (w.val.setWidth 32)) := by
      simp [applyWrite, h w (by simp)]
    rw [List.foldl_cons, hw, ih _ (fun w' hw' => h w' (by simp [hw'])), Block.updWarp_updWarp]
    rfl

/-- Writes change nothing of the front thread but its registers. -/
theorem Front.written_eq (f : Front) (ws : List RegWrite) : f.written ws = { f with s := (f.written ws).s } := by
  induction ws generalizing f with
  | nil => rfl
  | cons w ws ih => exact ih (f.sset w.reg w.val)

/-- Writes change nothing of a warp but its registers. -/
theorem Warp.written_eq (x : Warp) (ws : List RegWrite) : x.written ws = { x with v := (x.written ws).v } := by
  induction ws generalizing x with
  | nil => rfl
  | cons w ws ih => exact ih (x.vset w.reg w.lane (w.val.setWidth 32))

@[simp] theorem Front.written_th (f : Front) (ws : List RegWrite) : (f.written ws).th = f.th := by
  rw [Front.written_eq]
@[simp] theorem Front.written_swb (f : Front) (ws : List RegWrite) : (f.written ws).swb = f.swb := by
  rw [Front.written_eq]
@[simp] theorem Front.written_b (f : Front) (ws : List RegWrite) : (f.written ws).b = f.b := by
  rw [Front.written_eq]
@[simp] theorem Warp.written_k (x : Warp) (ws : List RegWrite) : (x.written ws).k = x.k := by
  rw [Warp.written_eq]
@[simp] theorem Warp.written_g (x : Warp) (ws : List RegWrite) : (x.written ws).g = x.g := by
  rw [Warp.written_eq]
@[simp] theorem Warp.written_wb (x : Warp) (ws : List RegWrite) : (x.written ws).wb = x.wb := by
  rw [Warp.written_eq]
@[simp] theorem Warp.written_stack (x : Warp) (ws : List RegWrite) : (x.written ws).stack = x.stack := by
  rw [Warp.written_eq]
@[simp] theorem Warp.written_split (x : Warp) (ws : List RegWrite) : (x.written ws).split = x.split := by
  rw [Warp.written_eq]
@[simp] theorem Warp.written_t (x : Warp) (ws : List RegWrite) : (x.written ws).t = x.t := by
  rw [Warp.written_eq]
@[simp] theorem Warp.written_e (x : Warp) (ws : List RegWrite) : (x.written ws).e = x.e := by
  rw [Warp.written_eq]

theorem Front.written_append (f : Front) (ws vs : List RegWrite) : f.written (ws ++ vs) = (f.written ws).written vs :=
  List.foldl_append

theorem Warp.written_append (x : Warp) (ws vs : List RegWrite) : x.written (ws ++ vs) = (x.written ws).written vs :=
  List.foldl_append

theorem Front.sget_sset (f : Front) (r j : Nat) (v : DWord) : (f.sset r v).sget j = if r = j then v else f.sget j :=
  cget_cset f.s r j v

/-- The lanes of different registers stand apart. -/
theorem Warp.vget_vset (x : Warp) {r l j m : Nat} (v : Word) (hl : l < 32) (hm : m < 32) :
    (x.vset r l v).vget j m = if r = j ∧ l = m then v else x.vget j m := by
  unfold Warp.vget Warp.vset
  rw [cget_cset]
  exact if_congr (by omega) rfl rfl

theorem Front.sget_written_other (f : Front) {ws : List RegWrite} {r : Nat} (h : ∀ w ∈ ws, w.reg ≠ r) :
    (f.written ws).sget r = f.sget r := by
  induction ws generalizing f with
  | nil => rfl
  | cons w ws ih =>
    have hw := ih (f.sset w.reg w.val) (fun w' hw' => h w' (by simp [hw']))
    rwa [Front.sget_sset, if_neg (h w (by simp))] at hw

theorem Warp.vget_written_other (x : Warp) {ws : List RegWrite} {r l : Nat} (hl : l < 32) (hws : ∀ w ∈ ws, w.lane < 32)
    (h : ∀ w ∈ ws, ¬ (w.reg = r ∧ w.lane = l)) : (x.written ws).vget r l = x.vget r l := by
  induction ws generalizing x with
  | nil => rfl
  | cons w ws ih =>
    have hw := ih (x.vset w.reg w.lane (w.val.setWidth 32)) (fun w' hw' => hws w' (by simp [hw']))
      (fun w' hw' => h w' (by simp [hw']))
    rwa [Warp.vget_vset _ _ (hws w (by simp)) hl, if_neg (h w (by simp))] at hw

theorem Front.sget_written_last (f : Front) {ws : List RegWrite} {w : RegWrite} (h : ws.getLast? = some w) :
    (f.written ws).sget w.reg = w.val := by
  obtain ⟨ws, rfl⟩ := List.getLast?_eq_some_iff.1 h
  rw [Front.written_append]
  exact (Front.sget_sset _ _ _ _).trans (if_pos rfl)

theorem Warp.vget_written_last (x : Warp) {ws : List RegWrite} {w : RegWrite} (h : ws.getLast? = some w) (hl : w.lane < 32) :
    (x.written ws).vget w.reg w.lane = w.val.setWidth 32 := by
  obtain ⟨ws, rfl⟩ := List.getLast?_eq_some_iff.1 h
  rw [Warp.written_append]
  exact (Warp.vget_vset _ _ hl hl).trans (if_pos ⟨rfl, rfl⟩)

/-! ## The block after the writes of a thread -/

/-- A block after the register writes of a thread, of the front thread's or a warp's registers. -/
def Ctx.wrote (c : Ctx) (ws : List RegWrite) : Block := ws.foldl (fun b w => applyWrite b c.t.warp w) c.b

theorem Ctx.wrote_front {c : Ctx} {ws : List RegWrite} (h : ∀ w ∈ ws, w.front = true) :
    c.wrote ws = { c.b with front := c.b.front.written ws } := applyWrite_fold_front c.b c.t.warp h

theorem Ctx.wrote_warp {c : Ctx} {ws : List RegWrite} (h : ∀ w ∈ ws, w.front = false) :
    c.wrote ws = c.b.updWarp c.t.warp (fun x => x.written ws) := applyWrite_fold_warp c.b c.t.warp h

/-- Register writes leave the reconvergence entry of their thread. -/
theorem Ctx.curRec_wrote {c : Ctx} {ws : List RegWrite} (h : ∀ w ∈ ws, w.front = c.front) :
    (c.wrote ws).curRec c.t = c.b.curRec c.t := by
  cases hf : c.front with
  | true =>
    have hw := Ctx.front_iff.1 hf
    simp [Block.curRec, hw]
  | false =>
    have hw := Ctx.not_front_iff.1 hf
    rw [Ctx.wrote_warp (hf ▸ h)]
    refine Block.curRec_congr ?_ ?_
    · simp [Block.logOf, hw, Function.comp_def]
    · simp [Block.stackOf, hw, Function.comp_def]

/-- Writes of a thread's registers leave its thread. -/
theorem Ctx.thread?_wrote {c : Ctx} {ws : List RegWrite} (h : ∀ w ∈ ws, w.front = c.front) :
    (c.wrote ws).thread? c.t.warp c.t.armE = c.b.thread? c.t.warp c.t.armE := by
  cases hf : c.front with
  | true =>
    have hw := Ctx.front_iff.1 hf
    rw [Ctx.wrote_front (hf ▸ h), hw]
    exact congrArg some (Front.written_th c.b.front ws)
  | false =>
    have hw := Ctx.not_front_iff.1 hf
    rw [Ctx.wrote_warp (hf ▸ h)]
    simp only [Block.thread?, if_neg hw, Block.updWarp_warps, lset_get, if_true, Option.map_map]
    simp [Function.comp_def]

/-! ## Completion -/

/-- Where an array instruction holds no B register, writes spoil none (07 R169). -/
theorem Block.spoiled_nil {b : Block} (h : b.bheld = []) (n : Nat) (ws : List RegWrite) : b.spoiled n ws = [] := by
  unfold Block.spoiled
  split
  · simp [h]
  · rfl

theorem State.applyWrites_unheld {s : State} {t : ThreadRef} {b : Block} (hb : s.blk? t.blk = some b) (h : b.bheld = [])
    (ws : List RegWrite) : s.applyWrites t ws = s.updBlk t.blk (fun b => ws.foldl (fun b w => applyWrite b t.warp w) b) := by
  simp [State.applyWrites, hb, Block.spoiled_nil h]

/-- The thread of an instruction that is over, at the next word (02 R32). -/
def Ctx.nextWord (c : Ctx) (sp : Spec) (clock : Nat) (th : Thread) : Thread :=
  { th with hold := none, wins := nextWins c sp, pblk := nextPblk th.pblk, wskip := false, wbUse := none,
            pc := c.th.pc + 4, readyAt := clock }

/-- The PC of a thread whose path does not end there is set (06 R144). -/
theorem State.goTo_straight {s : State} {t : ThreadRef} {pc : BitVec 56} {b : Block} (hb : s.blk? t.blk = some b)
    (h : ∀ r, b.curRec t = some r → r.pc ≠ pc) :
    s.goTo t pc = s.updThread t (fun th => { th with pc := pc, readyAt := s.clock }) := by
  have hr : ((s.updThread t (fun th => { th with pc := pc, readyAt := s.clock })).blk? t.blk).bind (fun b => b.curRec t)
      = b.curRec t := by
    simp [State.updThread, hb, Block.curRec_updThread]
  simp only [State.goTo, hr]
  split
  next r hr => exact if_neg (h r hr)
  next => rfl

/-- An instruction whose path does not end leaves its thread at the next word. -/
theorem State.retire_seq {s : State} {c : Ctx} {b : Block} (sp : Spec) (hb : s.blk? c.t.blk = some b)
    (h : ∀ r, b.curRec c.t = some r → r.pc ≠ c.th.pc + 4) :
    s.retire c sp .seq = s.updThread c.t (c.nextWord sp s.clock) := by
  unfold State.retire
  dsimp only
  rw [State.goTo_straight (by rw [State.updThread, State.blk?_updBlk_self, hb]; rfl)
    (by rw [Block.curRec_updThread]; exact h), State.updThread_updThread]
  rfl

/-- What completion comes to for an instruction that only writes registers (02 R32): the writes, and its thread at the next
word. -/
theorem State.done_regs {s : State} {sp : Spec} {c : Ctx} {ws : List RegWrite} (hb : s.blk? c.t.blk = some c.b)
    (hwins : c.th.wins = []) (hheld : c.b.bheld = []) (hpop : popsDq sp = false) (hst : c.straight (c.th.pc + 4) = true)
    (hws : ∀ w ∈ ws, w.front = c.front) :
    s.done sp c ws .seq = (s.updBlk c.t.blk (fun b => ws.foldl (fun b w => applyWrite b c.t.warp w) b)).updThread c.t
      ((c.operands sp).nextWord sp s.clock) := by
  have hp : s.popEntryOf sp (c.operands sp) true = s := by simp [State.popEntryOf, hpop]
  have hm : mixWrites s (c.operands sp) ws = (ws, s) := if_pos (by rw [show (c.operands sp).th.wins = [] from hwins]; rfl)
  have hr : ∀ r, (c.wrote ws).curRec c.t = some r → r.pc ≠ c.th.pc + 4 := by
    intro r hr
    rw [Ctx.curRec_wrote hws] at hr
    simpa [Ctx.straight, hr] using hst
  unfold State.done State.complete
  simp only [hp, hm]
  rw [show (c.operands sp).t = c.t from rfl, State.applyWrites_unheld hb hheld]
  exact State.retire_seq (c := c.operands sp) (b := c.wrote ws) sp ((State.blk?_updBlk_self _ _ _).trans (congrArg _ hb)) hr

/-- The block that is left: its thread is at the next word. -/
theorem State.done_regs_blk {s : State} {c : Ctx} (hb : s.blk? c.t.blk = some c.b) (ws : List RegWrite) (f : Thread → Thread) :
    ((s.updBlk c.t.blk (fun b => ws.foldl (fun b w => applyWrite b c.t.warp w) b)).updThread c.t f).blk? c.t.blk =
      some ((c.wrote ws).updThread c.t.warp c.t.armE f) := by
  simp [State.updThread, hb, Ctx.wrote]

/-- Settles O58: completion is the writes and the thread's step to the next word, and neither touches anything else. -/
theorem registerWriteFrame : Obligations.RegisterWriteFrame := by
  unfold Obligations.RegisterWriteFrame
  intro s sp c ws hc hwb hwins hheld hpop hst hws t
  obtain ⟨hb, hth⟩ := State.ctx?_thread hc hwb
  have hfr : ∀ w ∈ ws, w.front = c.front := fun w hw => (hws w hw).1
  have hln : ∀ w ∈ ws, w.lane < 32 := fun w hw => (hws w hw).2
  have ht : t = _ := State.done_regs hb hwins hheld hpop hst hfr
  rw [ht]
  refine ⟨fun _ => rfl, rfl, fun k hk => ?_, _, State.done_regs_blk hb ws _, ?_⟩
  · simp [State.updThread, State.blk?_updBlk_other _ _ hk]
  have hth' : ((c.wrote ws).updThread c.t.warp c.t.armE ((c.operands sp).nextWord sp s.clock)).thread? c.t.warp c.t.armE =
      some ((c.operands sp).nextWord sp s.clock c.th) := by
    rw [Block.thread?_updThread, Ctx.thread?_wrote hfr, hth]
    rfl
  cases hf : c.front with
  | true =>
    have hw := Ctx.front_iff.1 hf
    rw [hf] at hfr
    refine ⟨?_, ?_, fun _ => ?_, nofun, ⟨_, hth', rfl, rfl, rfl, rfl, rfl⟩, ?_, ?_, ?_⟩
    all_goals rw [Ctx.wrote_front hfr, hw, Block.updThread_front]
    · exact fun _ _ => rfl
    · exact ⟨rfl, Front.written_swb _ ws, Front.written_b _ ws⟩
    · exact fun r hr => Front.sget_written_other c.b.front hr
    · exact fun r v l hl => Front.sget_written_last c.b.front hl
    · intro x y hx hy
      obtain rfl : x = y := Option.some.inj (hx.symm.trans hy)
      refine ⟨rfl, rfl, rfl, rfl, fun _ _ _ _ => rfl, fun r l v hl => ?_⟩
      exact absurd (hfr _ (List.mem_of_getLast? hl)) (by simp)
  | false =>
    have hw := Ctx.not_front_iff.1 hf
    rw [hf] at hfr
    refine ⟨?_, ?_, nofun, fun _ => ?_, ⟨_, hth', rfl, rfl, rfl, rfl, rfl⟩, ?_, ?_, ?_⟩
    all_goals rw [Ctx.wrote_warp hfr, Block.updThread_warp _ _ _ hw, Block.updWarp_updWarp]
    · rfl
    · intro n hn
      simp [hn.symm]
    · rfl
    · exact fun _ _ => rfl
    · intro r v l hl
      exact absurd (hfr _ (List.mem_of_getLast? hl)) (by simp)
    · intro x y hx hy
      obtain rfl : (x.written ws).updArm c.t.armE _ = y := by simpa [hx] using hy
      refine ⟨by simp, by simp, by simp, by simp, fun r l hl hn => ?_, fun r l v hl => ?_⟩
      · rw [Warp.vget_updArm, x.vget_written_other hl hln hn]
      · rw [Warp.vget_updArm]
        exact x.vget_written_last hl (hln _ (List.mem_of_getLast? hl))

end Sys2Proof.Machine

/-!
The order of the refusals 1 to 6 of R45 (O43): what an instruction that item 1 lets pass is refused with, and each of the six on one
instruction.
-/
namespace Sys2Proof.Machine

/-! ## Item 1 -/

/-- What item 1 of R45 asks of an instruction that no predicate block covers: its fields hold listed values, its operand fields name
registers, and what it reads from the front registers ends at S191. -/
structure Ctx.Legal (c : Ctx) (i : Instr) (sp : Spec) : Prop where
  formed    : wellFormed i = true
  operands  : ∀ o ∈ sp.opds, o.illegal c.front c.b.allot.dqd = false
  queue     : usesDq i = false
  runs      : c.front = true → ∀ o ∈ sp.opds, o.pastS c.b.front.swb = false
  uncovered : c.covered = false

theorem staticRefusal_illegal {c : Ctx} {sp : Spec} {o : Opd} (s : State) (i : Instr) (skip : Bool) (ho : o ∈ sp.opds)
    (h : o.illegal c.front c.b.allot.dqd = true) : staticRefusal s c i sp skip = some 1 := by
  have hany : sp.opds.any (fun o => o.illegal c.front c.b.allot.dqd) = true := List.any_eq_true.2 ⟨o, ho, h⟩
  simp [staticRefusal, hany]

/-- In a warp what the front thread's registers limit does not matter. -/
theorem Ctx.Legal.of_warp {c : Ctx} {i : Instr} {sp : Spec} (hf : c.front = false) (hi : wellFormed i = true)
    (ho : ∀ o ∈ sp.opds, o.illegal false c.b.allot.dqd = false) (hq : usesDq i = false) (hu : c.covered = false) :
    c.Legal i sp := ⟨hi, by rwa [hf], hq, by simp [hf], hu⟩

/-! Operand fields of a warp that name registers (R35, R37). -/

theorem Opd.illegal_src {n : Nat} (dqd : Nat) (h : n < 112) : (Opd.src n).illegal false dqd = false := by
  simp [illegal]; omega

theorem Opd.illegal_src64 {n : Nat} (dqd : Nat) (h : n < 112) (hev : n % 2 = 0) :
    (Opd.src64 n).illegal false dqd = false := by
  simp [illegal]; omega

theorem Opd.illegal_dst {n : Nat} (dqd : Nat) (h : n < 112) : (Opd.dst n).illegal false dqd = false := by
  simp [illegal]; omega

theorem Opd.illegal_run {n k : Nat} (dqd : Nat) (w : Bool) (h : n + k ≤ 112) :
    (Opd.run n k w).illegal false dqd = false := by
  simp [illegal]; omega

/-! ## The items after it -/

/-- The refusals of items 2 and 4 to 6 of R45, in their order; none of them looks at the instruction itself. -/
def Ctx.laterRefusal (c : Ctx) (sp : Spec) : Option Nat :=
  if (sp.streams = .warp ∧ c.front) ∨ (sp.streams = .front ∧ !c.front) then some 2
  else if (!c.front && !sp.roles.contains c.w.role)
      || (sp.matrix && !(c.b.warps.any (fun w => w.role == .matrix))) then some 4
  else if sp.priv && !c.priv then some 5
  else if !c.front && (c.named sp).any (fun r => c.w.allot ≤ r.1) then some 6
  else none

section
variable {c : Ctx} {i : Instr} {sp : Spec}

theorem Ctx.Legal.item1 (h : c.Legal i sp) :
    (!wellFormed i || sp.opds.any (fun o => o.illegal c.front c.b.allot.dqd) || (usesDq i && c.b.allot.dqd == 0)
      || (c.front && sp.opds.any (fun o => o.pastS c.b.front.swb)) || (c.covered && sp.barred)) = false := by
  have ho : sp.opds.any (fun o => o.illegal c.front c.b.allot.dqd) = false := by simpa using h.operands
  have hr : (c.front && sp.opds.any (fun o => o.pastS c.b.front.swb)) = false := by simpa using h.runs
  simp [h.formed, ho, h.queue, hr, h.uncovered]

/-- PBLK in normal mode is refused before the stream that it issues in is looked at. -/
theorem staticRefusal_pblk {s : State} {k n : BitVec 3} {pat : BitVec 8} (h : c.Legal (.pblk k n pat) sp)
    (hm : s.pkg.minimal = false) : staticRefusal s c (.pblk k n pat) sp false = some 3 := by
  simp [staticRefusal, h.item1, hm]

/-- What item 1 lets pass, PBLK apart, is left to the later items. -/
theorem staticRefusal_later (s : State) (h : c.Legal i sp) (hp : ∀ k n pat, i ≠ .pblk k n pat) :
    staticRefusal s c i sp false = c.laterRefusal sp := by
  unfold staticRefusal
  rw [h.item1, if_neg Bool.false_ne_true, if_neg Bool.false_ne_true]
  split
  next k n pat => exact absurd rfl (hp k n pat)
  next => exact if_neg Bool.false_ne_true

/-- An instruction of the warp stream in a front thread, or the other way round. -/
theorem Ctx.laterRefusal_stream (h : sp.streams = .warp ∧ c.front = true ∨ sp.streams = .front ∧ c.front = false) :
    c.laterRefusal sp = some 2 := by
  rcases h with ⟨hs, hf⟩ | ⟨hs, hf⟩ <;> simp [laterRefusal, hs, hf]

theorem Ctx.laterRefusal_role (hs : sp.streams = .both) (hf : c.front = false) (hr : c.w.role ∉ sp.roles) :
    c.laterRefusal sp = some 4 := by
  simp [laterRefusal, hs, hf, hr]

/-- An instruction of both streams that every role may issue. -/
theorem Ctx.laterRefusal_plain (opds : List Opd) (priv : Bool) :
    c.laterRefusal { plain .both opds with priv := priv } =
      if priv && !c.th.trap then some 5
      else if !c.front && (c.named (plain .both opds)).any (fun r => c.w.allot ≤ r.1) then some 6
      else none := by
  unfold laterRefusal
  rw [if_neg (by simp [plain]), if_neg (by cases c.w.role <;> simp [plain])]
  rfl

end

/-! ## The refused instructions -/

/-- An instruction that no predicate block covers is refused at issue. -/
theorem exec_refused {s : State} {c : Ctx} {i : Instr} {sp : Spec} {body : Ctx → State → Res} {code : Nat}
    (he : exec i s = issue s i sp body) (hc : s.ctx? = some c) (hn : c.resumed = false) (hu : c.covered = false)
    (h : staticRefusal s c i sp false = some code) : exec i s = .next (s.refuse c code 0 c.allLanes) :=
  he.trans (issue_refused hc hn (by rwa [hu]))

/-- One that item 1 lets pass is refused by the first of the later items that stands against it. -/
theorem exec_refused_later {s : State} {c : Ctx} {i : Instr} {sp : Spec} {body : Ctx → State → Res} {code : Nat}
    (he : exec i s = issue s i sp body) (hc : s.ctx? = some c) (hn : c.resumed = false) (hl : c.Legal i sp)
    (hp : ∀ k n pat, i ≠ .pblk k n pat) (h : c.laterRefusal sp = some code) :
    exec i s = .next (s.refuse c code 0 c.allLanes) :=
  exec_refused he hc hn hl.uncovered ((staticRefusal_later s hl hp).trans h)

/-- Settles O43: each of the six stands first in the order of R45 for its instruction. -/
theorem refusalOrder : Obligations.RefusalOrder := by
  unfold Obligations.RefusalOrder
  intro s c d a n y m pat refused
  refine ⟨fun i sp body code hc hn h => issue_refused hc hn h, fun hc hn hu => ⟨?_, ?_, ?_, ?_, ?_, ?_, ?_⟩⟩
  · intro hw hd
    have hf := Ctx.not_front_iff.2 hw
    have ho : (Opd.dst64 d.toNat).illegal c.front c.b.allot.dqd = true := by simp [Opd.illegal, hf, hd]
    exact exec_refused (by rfl) hc hn hu (staticRefusal_illegal s _ false List.mem_cons_self ho)
  · intro hm hpat
    have hl : c.Legal (.pblk y m pat) (flow .warp []) := ⟨by simp [wellFormed, hpat], nofun, rfl, nofun, hu⟩
    exact exec_refused (by rfl) hc hn hu (staticRefusal_pblk hl hm)
  · intro hw ha hev
    have hf := Ctx.not_front_iff.2 hw
    have hl : c.Legal (.yset y a) (plain .front [.src64 a.toNat]) :=
      .of_warp hf rfl (by simp [plain, Opd.illegal_src64 _ ha hev]) rfl hu
    exact exec_refused_later (by rfl) hc hn hl nofun (Ctx.laterRefusal_stream (.inr ⟨rfl, hf⟩))
  · intro hw
    have hf := Ctx.front_iff.2 hw
    have hl : c.Legal (.kmov y y) (plain .warp []) := ⟨rfl, nofun, rfl, nofun, hu⟩
    exact exec_refused_later (by rfl) hc hn hl nofun (Ctx.laterRefusal_stream (.inl ⟨rfl, hf⟩))
  · intro hw hr
    have hl : c.Legal .yield { plain .both [] with roles := [.vector], ends := true } := ⟨rfl, nofun, rfl, nofun, hu⟩
    exact exec_refused_later (by rfl) hc hn hl nofun
      (Ctx.laterRefusal_role rfl (Ctx.not_front_iff.2 hw) (by simpa using hr))
  · intro hw hd hev hwf ht
    have hl : c.Legal (.csrw d n)
        { plain .both [.src64 d.toNat, .run d.toNat (if s.frontCur then 1 else 2) false] with priv := true } := by
      refine .of_warp (Ctx.not_front_iff.2 hw) hwf ?_ rfl hu
      have hrun : (Opd.run d.toNat (if s.frontCur then 1 else 2) false).illegal false c.b.allot.dqd = false :=
        Opd.illegal_run _ _ (by split <;> omega)
      simp [plain, Opd.illegal_src64 _ hd hev, hrun]
    refine exec_refused_later (by rfl) hc hn hl nofun ?_
    simp [Ctx.laterRefusal_plain, ht]
  · intro hw hd ha hal
    have hf := Ctx.not_front_iff.2 hw
    have hl : c.Legal (.mov d a 0) (plain .both [.dst d.toNat, .src a.toNat]) :=
      .of_warp hf rfl (by simp [plain, Opd.illegal_dst _ hd, Opd.illegal_src _ ha]) rfl hu
    refine exec_refused_later (by rfl) hc hn hl nofun ((Ctx.laterRefusal_plain _ false).trans ?_)
    simp [hf, Ctx.named, plain, Opd.regs, Ctx.base, hal]

end Sys2Proof.Machine

/-!
The encodings (O51, O52, O53): each instruction is read back from its word, and each word that decodes is made again from the fields
that its row reads.
-/
namespace Sys2Proof.Laws.RoundTrip

/-- Every encoded instruction has its lemma; a step of another agent has no word. -/
theorem all : ∀ i, Statement i
  | .add .. => add _ _ _ _ _ | .sub .. => sub _ _ _ _ _ | .addi .. => addi _ _ _ | .neg .. => neg _ _ _ _
  | .abs .. => abs _ _ _ _ | .mul .. => mul _ _ _ _ _ | .mulh .. => mulh _ _ _ _ | .mulhn .. => mulhn _ _ _ _
  | .mad .. => mad _ _ _ _ _ | .madw .. => madw _ _ _ _ | .div .. => div _ _ _ _ | .divn .. => divn _ _ _ _
  | .rem .. => rem _ _ _ _ | .remn .. => remn _ _ _ _ | .min .. => min _ _ _ _ | .max .. => max _ _ _ _
  | .minn .. => minn _ _ _ _ | .maxn .. => maxn _ _ _ _ | .and .. => and _ _ _ _ | .or .. => or _ _ _ _
  | .xor .. => xor _ _ _ _ | .andn .. => andn _ _ _ _ | .not .. => not _ _ _ | .shl .. => shl _ _ _ _ | .shr .. => shr _ _ _ _
  | .sar .. => sar _ _ _ _ | .rot .. => rot _ _ _ _ | .shli .. => shli _ _ _ _ | .shri .. => shri _ _ _ _
  | .sari .. => sari _ _ _ _ | .bfx .. => bfx _ _ _ _ | .bfxn .. => bfxn _ _ _ _ | .bfi .. => bfi _ _ _ _
  | .popc .. => popc _ _ _ | .clz .. => clz _ _ _ | .ctz .. => ctz _ _ _ | .brev .. => brev _ _ _ | .mov .. => mov _ _ _
  | .movi .. => movi _ _ | .movh .. => movh _ _ | .sel .. => sel _ _ _ _ _ | .lea .. => lea _ _ _ _ | .cmp .. => cmp _ _ _ _ _
  | .cmpi .. => cmpi _ _ _ _ | .fadd .. => fadd _ _ _ _ | .fsub .. => fsub _ _ _ _ | .fmul .. => fmul _ _ _ _
  | .ffma .. => ffma _ _ _ _ | .fmin .. => fmin _ _ _ _ | .fmax .. => fmax _ _ _ _ | .fabs .. => fabs _ _ _
  | .fneg .. => fneg _ _ _ | .fcmp .. => fcmp _ _ _ _ _ | .fclass .. => fclass _ _ _ | .frcp .. => frcp _ _ _ _
  | .frsq .. => frsq _ _ _ _ | .fsqrt .. => fsqrt _ _ _ _ | .fexp2 .. => fexp2 _ _ _ _ | .flog2 .. => flog2 _ _ _ _
  | .fsin .. => fsin _ _ _ _ | .fcos .. => fcos _ _ _ _ | .fdivF32 .. => fdivF32 _ _ _ _ | .fdivF64 .. => fdivF64 _ _ _ _
  | .fscale .. => fscale _ _ _ _ | .frnd .. => frnd _ _ _ | .fcvt .. => fcvt _ _ _ _ _ | .icvt .. => icvt _ _ _ _
  | .ftoi .. => ftoi _ _ _ _ | .pack .. => pack _ _ _ _ _ | .unpk .. => unpk _ _ _ _ | .bpsplit .. => bpsplit _ _ _
  | .bpjoin .. => bpjoin _ _ _ | .bpdot .. => bpdot _ _ _ _ | .kand .. => kand _ _ _ | .kor .. => kor _ _ _
  | .kxor .. => kxor _ _ _ | .kandn .. => kandn _ _ _ | .knot .. => knot _ _ | .kmov .. => kmov _ _ | .kset .. => kset _ _
  | .kget .. => kget _ _ | .ksave .. => ksave _ | .krest .. => krest _ | .exmget .. => exmget _ | .exmset .. => exmset _
  | .shflIdx .. => shflIdx _ _ _ | .shflUp .. => shflUp _ _ _ | .shflDn .. => shflDn _ _ _ | .shflXor .. => shflXor _ _ _
  | .voteAny .. => voteAny _ _ | .voteAll .. => voteAll _ _ | .voteBal .. => voteBal _ _ | .bra .. => bra _
  | .brd .. => brd _ _ _ | .rcv => rcv | .call .. => call _ | .ret => ret | .jmpi .. => jmpi _ | .exit => exit | .nop => nop
  | .bru .. => bru _ _ _ | .rds .. => rds _ _ | .win .. => win _ | .setf .. => setf _ _ | .getf .. => getf _
  | .flags .. => flags _ _ | .yset .. => yset _ _ | .swin .. => swin _ | .csrr .. => csrr _ _ | .csrw .. => csrw _ _
  | .csrwSet .. => csrwSet _ _ | .csrwClr .. => csrwClr _ _ | .lwake .. => lwake _ | .tlbinv .. => tlbinv _ _
  | .ld32 .. => ld32 _ _ _ _ _ | .ld64 .. => ld64 _ _ _ _ _ | .ldI8 .. => ldI8 _ _ _ _ _ | .ldN8 .. => ldN8 _ _ _ _ _
  | .ldI16 .. => ldI16 _ _ _ _ _ | .ldN16 .. => ldN16 _ _ _ _ _ | .st32 .. => st32 _ _ _ _ _ | .st64 .. => st64 _ _ _ _ _
  | .st8 .. => st8 _ _ _ _ _ | .st16 .. => st16 _ _ _ _ _ | .ldn .. => ldn _ _ _ _ _ | .stn .. => stn _ _ _ _ _
  | .ldbp .. => ldbp _ _ _ _ _ | .stbe .. => stbe _ _ _ _ _ | .cpy .. => cpy _ _ _ | .cpyg .. => cpyg _ _ _
  | .xst .. => xst _ _ _ | .dupd .. => dupd _ _ _ | .pref .. => pref _ _ | .res .. => res _ _ | .pwait .. => pwait _ _
  | .borrow .. => borrow _ _ _ _ _ | .reborrowS .. => reborrowS _ _ | .reborrowE .. => reborrowE _ _
  | .split .. => split _ _ _ _ _ | .share .. => share _ _ _ | .give .. => give _ | .join .. => join _
  | .returnR .. => returnR _ | .rginfo .. => rginfo _ _ | .rgmov .. => rgmov _ _ | .rgclr .. => rgclr _
  | .rgclrTaint .. => rgclrTaint _ | .atomAdd .. => atomAdd _ _ _ _ _ | .atomFadd .. => atomFadd _ _ _ _ _
  | .atomSwap .. => atomSwap _ _ _ _ _ | .atomCas .. => atomCas _ _ _ _ _ | .atomAnd .. => atomAnd _ _ _ _ _
  | .atomOr .. => atomOr _ _ _ _ _ | .atomXor .. => atomXor _ _ _ _ _ | .atomMin .. => atomMin _ _ _ _ _
  | .atomMax .. => atomMax _ _ _ _ _ | .atomMinn .. => atomMinn _ _ _ _ _ | .atomMaxn .. => atomMaxn _ _ _ _ _
  | .atomLd .. => atomLd _ _ _ _ _ | .atomSt .. => atomSt _ _ _ _ _ | .redAdd .. => redAdd _ _ _ _ _
  | .redFadd .. => redFadd _ _ _ _ _ | .redMin .. => redMin _ _ _ _ _ | .redMax .. => redMax _ _ _ _ _
  | .redFmin .. => redFmin _ _ _ _ _ | .redFmax .. => redFmax _ _ _ _ _ | .redAnd .. => redAnd _ _ _ _ _
  | .redOr .. => redOr _ _ _ _ _ | .redXor .. => redXor _ _ _ _ _ | .redMinn .. => redMinn _ _ _ _ _
  | .redMaxn .. => redMaxn _ _ _ _ _ | .fence .. => fence _ | .mma .. => mma _ _ _ _ | .mmas .. => mmas _ _ _
  | .mbp .. => mbp _ _ _ _ _ | .mzero .. => mzero _ _ | .mld .. => mld _ _ _ _ | .mst .. => mst _ _ _ _
  | .mcpy .. => mcpy _ _ _ | .mcvt .. => mcvt _ _ _ _ | .mtrn .. => mtrn _ _ _ | .mperm .. => mperm _ _ _ _
  | .mrsum .. => mrsum _ _ _ _ | .mrdy .. => mrdy _ | .mwait .. => mwait _ | .mstat .. => mstat _ _ _
  | .rank .. => rank _ _ _ _ _ | .rmma .. => rmma _ _ _ _ _ | .rtv .. => rtv _ _ _ _ | .rlst .. => rlst _ _ _ _
  | .ratl .. => ratl _ _ _ | .rrcl .. => rrcl _ _ _ | .tspawn .. => tspawn _ _ _ | .tret .. => tret _
  | .fwait .. => fwait _ _ _ | .ffill .. => ffill _ _ _ | .fown .. => fown _ _ _ | .lock .. => lock _ _ _
  | .unlock .. => unlock _ _ _ | .qpush .. => qpush _ _ _ | .qpop .. => qpop _ _ _ | .succ .. => succ _ _ _
  | .launch .. => launch _ _ _ | .yield => yield | .dqpush .. => dqpush _ _ | .dqpop .. => dqpop _ | .srput .. => srput _
  | .srwaitC .. => srwaitC _ _ | .srwaitP .. => srwaitP _ _ | .srrel .. => srrel _ | .barArr .. => barArr _ _ _
  | .barWait .. => barWait _ _ _ | .barSync .. => barSync _ _ _ | .barSet .. => barSet _ _ | .cntRd .. => cntRd _ _
  | .cntWait .. => cntWait _ _ | .cntClr .. => cntClr _ | .time .. => time _ | .winw .. => winw _ | .perf .. => perf _ _
  | .trap .. => trap _ | .svc .. => svc _ | .rft => rft | .brk .. => brk _ | .killb .. => killb _ _ | .pblk .. => pblk _ _ _
  | .loadDataReturn | .pageWalk | .sideLogReplay | .copyLanding | .engineStart | .engineComplete | .trapEntry
  | .faultReport | .packetFetch | .dependencePoll | .gangPlacement | .seniorGang | .taskStart | .adoption | .wake
  | .parkRetry | .preemptSave | .restore | .unpickerPass | .req | .grant | .returnMessage | .count | .pending | .reclaim
  | .lost | .retack | .eopDiscard | .requestDelivery | .sliceBounce | .heatHalving | .heatSample | .scTicket
  | .windowMark | .systemScPerform | .cleanAfterRelease | .flitReceive | .ackOnlyFlit | .ackTimer | .replayTimeout
  | .errorInterval | .scaleUpFrame | .trainingEnd | .retrainEnd | .l0nIdle | .l1sIdle | .wakeComplete | .wakeTimeout
  | .unresponsiveTimeout | .hostAccess | .train | .takeDown | .lqbell | .fltreplay | .preempt | .resume | .timeStep
  | .heatctlClr | .hclr | .dirtyBitmapReadClear | .quiesce | .commit | .release | .abort | .registerWrite | .restart
  | .clearfail | .attest | .getcert | .raisefloor | .start | .startStepTimeout | .powerWindow | .thermalTrip
  | .illegalInstruction .. | .fundamentalReset | .powerLoss | .chunkDescriptorWrite | .badCommand =>
    of_none rfl

end Sys2Proof.Laws.RoundTrip

namespace Sys2Proof

theorem bitsAt_lt (w : Nat) (f : Nat × Nat) : bitsAt w f < 2 ^ f.2 := Nat.mod_lt _ (Nat.two_pow_pos _)

/-- A field put back in its place is the word's bits at that place. -/
theorem shiftLeft_bitsAt (w : Nat) (f : Nat × Nat) : bitsAt w f <<< f.1 = w &&& fieldMask [f] := by
  apply Nat.eq_of_testBit_eq
  intro i
  simp only [fieldMask, Nat.or_zero, bitsAt, Nat.testBit_and, Nat.testBit_shiftLeft, Nat.testBit_mod_two_pow,
    Nat.testBit_shiftRight, Nat.testBit_two_pow_sub_one]
  by_cases h : f.1 ≤ i
  · simp [h, Bool.and_comm]
  · simp [h]

theorem placeFields_bitsAt (w : Nat) (fs : List (Nat × Nat)) : placeFields fs (fs.map (bitsAt w)) = w &&& fieldMask fs := by
  induction fs with
  | nil => exact (Nat.and_zero w).symm
  | cons f fs ih => simp only [List.map_cons, placeFields, ih, shiftLeft_bitsAt, fieldMask, Nat.or_zero, Nat.and_or_distrib_left]

/-- A word with a row's fixed bits is the row's word for its own fields: no bit stands outside the two. -/
theorem Row.word_bitsAt {r : Row} (hm : r ∈ rows) {w : Word} (hf : r.fits w.toNat = true) :
    r.word (r.fields.map (bitsAt w.toNat)) = w := by
  have hs := row_sound hm
  simp only [Row.sound, Bool.and_eq_true, beq_iff_eq] at hs
  obtain ⟨_, hfull⟩ := hs
  rw [Row.fits, beq_iff_eq] at hf
  rw [Row.word, placeFields_bitsAt, ← hf, ← Nat.and_or_distrib_left, hfull, Nat.and_two_pow_sub_one_of_lt_two_pow w.isLt]
  simp

theorem decodeWord_eq_some {w : Word} {i : Instr} :
    decodeWord w = some i ↔ ∃ r ∈ rows, r.fits w.toNat = true ∧ r.build (r.fields.map (bitsAt w.toNat)) = some i := by
  constructor
  · intro h
    unfold decodeWord at h
    split at h
    next r hr => exact ⟨r, List.mem_of_find?_eq_some hr, List.find?_some (p := fun q : Row => q.fits w.toNat) hr, h⟩
    next => cases h
  · rintro ⟨r, hm, hf, hb⟩
    rw [decode_row hm hf, hb]

/-- What a row builds from values is encoded by the same row, each value cut to the width of its field. -/
def Row.Encodes (r : Row) : Prop :=
  ∀ w, (r.build (r.fields.map (bitsAt w))).bind encode =
    some (r.word (r.fields.map (fun f => (BitVec.ofNat f.2 (bitsAt w f)).toNat)))

theorem encodes_of_mem_rows : ∀ r ∈ rows, r.Encodes := by
  intro r hr
  simp only [rows, List.mem_append, or_assoc] at hr
  rcases hr with hr | hr | hr | hr | hr | hr | hr | hr | hr | hr <;> fin_cases hr <;> exact fun _ => rfl

/-- The bits of a field fill its width and no more. -/
theorem Row.encode_bitsAt {r : Row} (hm : r ∈ rows) {w : Nat} {i : Instr} (hb : r.build (r.fields.map (bitsAt w)) = some i) :
    encode i = some (r.word (r.fields.map (bitsAt w))) := by
  have h := encodes_of_mem_rows r hm w
  simpa only [hb, Option.bind_some, BitVec.toNat_ofNat, Nat.mod_eq_of_lt (bitsAt_lt w _)] using h

/-- Settles O52: every row reads its own words back. -/
theorem encodedWordsDecode : Obligations.EncodedWordsDecode := by
  unfold Obligations.EncodedWordsDecode
  exact Laws.RoundTrip.all

/-- Settles O53: the row that a word matches holds the word's fixed bits, and the fields that it reads are all the others. -/
theorem decodedWordsEncode : Obligations.DecodedWordsEncode := by
  unfold Obligations.DecodedWordsEncode
  intro w i h
  obtain ⟨r, hm, hf, hb⟩ := decodeWord_eq_some.1 h
  rw [r.encode_bitsAt hm hb, Row.word_bitsAt hm hf]

/-- Settles O51: each printed word is the encoding of its line. -/
theorem printedWordsDecode : Obligations.PrintedWordsDecode := by
  unfold Obligations.PrintedWordsDecode
  and_intros <;> exact encodedWordsDecode _ _ rfl

end Sys2Proof

/-!
Control flow (O16, O18): where jumps go, room on the divergence stack, and words under a predicate block.
-/
namespace Sys2Proof.Machine

/-! ## Where a jump goes -/

/-- A branch goes to PC + 4 × its signed offset, whatever the width of the offset (02 R34). -/
theorem target_eq {n : Nat} (pc : BitVec 56) (off : BitVec n) :
    target pc off = BitVec.ofInt 56 ((pc.toNat : Int) + 4 * off.toInt) := by
  rw [target, BitVec.signExtend, BitVec.ofInt_add, BitVec.ofInt_mul, BitVec.ofInt_natCast, BitVec.ofNat_toNat,
    BitVec.setWidth_eq]
  rfl

/-! What BRU looks at, as the signed value of the register (06 R155). -/

theorem beq_zero_eq_toInt (v : DWord) : (v == 0) = decide (v.toInt = 0) := by
  simp [Bool.beq_eq_decide_eq, ← BitVec.toInt_inj]

theorem getLsbD_63_eq_toInt (v : DWord) : v.getLsbD 63 = decide (v.toInt < 0) :=
  (BitVec.msb_eq_getLsbD_last v).symm.trans BitVec.msb_eq_toInt

/-- What JMPI refuses is what is no aligned 56-bit address. -/
theorem misaligned_iff (v : DWord) : (fld v 1 0 ≠ 0 ∨ fld v 63 56 ≠ 0) ↔ (2 ^ 56 ≤ v.toNat ∨ v.toNat % 4 ≠ 0) := by
  have := v.isLt
  simp [fld, Nat.shiftRight_eq_div_pow]
  omega

theorem Block.stackRoom_iff (b : Block) (warp n : Nat) : b.stackRoom warp n = true ↔ (b.stackOf warp).length + n ≤ 64 :=
  decide_eq_true_iff

theorem completes_bra (off : BitVec 25) : Completes (.bra off) (flow .both [])
    (fun x s => (s, [], .jump (BitVec.ofInt 56 ((x.th.pc.toNat : Int) + 4 * off.toInt)))) :=
  completes_of (fun _ => rfl) (fun x s => by rw [target_eq])

theorem completes_bru (d : BitVec 7) (cond : BitVec 2) (off : BitVec 16) :
    Completes (.bru d cond off) (flow .front [.src64 d.toNat]) (fun x s =>
      let v := (x.r64 d.toNat 0).toInt
      (s, [], if [decide (v = 0), decide (v ≠ 0), decide (v < 0), decide (0 ≤ v)].getD cond.toNat false
        then .jump (BitVec.ofInt 56 ((x.th.pc.toNat : Int) + 4 * off.toInt)) else .seq)) := by
  refine completes_of (fun _ => rfl) (fun x s => ?_)
  have h := cond.isLt
  generalize cond.toNat = n at h
  dsimp only
  rw [bne, beq_zero_eq_toInt, getLsbD_63_eq_toInt, target_eq]
  interval_cases n <;> simp

/-- Settles O16: a call rests on the room of its stack, a return on the entry on top, an indirect jump on its target. -/
theorem jumpsComplete : Obligations.JumpsComplete := by
  unfold Obligations.JumpsComplete
  refine ⟨fun off o16 d a cond => ⟨completes_bra off, completes_bru d cond o16, ?call, fun e => ?ret, ?jmpi,
    completes_of (fun _ => rfl) (fun _ _ => rfl)⟩, fun off a => ⟨?callFull, ?retNone, ?jmpiMisaligned, ?rcvNone⟩⟩
  case call =>
    refine completesWhen_of (fun _ => rfl) (fun x s _ h => ?_)
    rw [target_eq, if_pos ((x.b.stackRoom_iff _ 1).2 h)]
  case ret =>
    refine completesWhen_of (fun _ => rfl) (fun x s _ h => ?_)
    obtain ⟨he, hk⟩ := h
    obtain ⟨l, hl⟩ := List.head?_eq_some_iff.1 he
    simp [hl, hk]
  case jmpi =>
    refine completesWhen_of (fun _ => rfl) (fun x s _ h => ?_)
    have hm : ¬ (fld (x.r64 a.toNat x.low) 1 0 ≠ 0 ∨ fld (x.r64 a.toNat x.low) 63 56 ≠ 0) := by
      rw [misaligned_iff]
      omega
    exact if_neg hm
  case callFull =>
    refine refusedWhen_of (fun _ => rfl) (fun x s _ h => ?_)
    have hr : ¬ x.b.stackRoom x.t.warp 1 = true := by
      rw [Block.stackRoom_iff]
      omega
    exact if_neg hr
  case retNone =>
    refine refusedWhen_of (fun _ => rfl) (fun x s _ h => ?_)
    cases hl : x.b.ownEntries x.t with
    | nil => rfl
    | cons e l => simp [h e (by simp [hl])]
  case jmpiMisaligned => exact refusedWhen_of (fun _ => rfl) (fun x s _ h => if_pos ((misaligned_iff _).2 h))
  case rcvNone => exact refusedWhen_of (fun _ => rfl) (fun x s _ h => by simp [h])

/-! ## Words under a predicate block -/

/-- A covered word acts on the lanes of EXM where the captured mask agrees with the pattern's lowest bit (02 R46). -/
theorem activeLanes_getLsbD {th : Thread} {p : Pblk} (h : th.pblk = some p) (l : Nat) :
    (activeLanes th).getLsbD l = (th.exm.getLsbD l && (p.kcap.getLsbD l == p.pattern.getLsbD 0)) := by
  simp only [activeLanes, h]
  cases p.pattern.getLsbD 0 with
  | true => simp
  | false =>
    by_cases hl : l < 32
    · simp [hl]
    · simp [BitVec.getLsbD_of_ge _ l (Nat.le_of_not_lt hl)]

/-- A covered word with no active lane that item 1 of R45 lets pass is only passed over (02 R46). -/
theorem exec_skipped {s : State} {i : Instr} {sp : Spec} {c : Ctx} {body : Ctx → State → Res}
    (he : exec i s = issue s i sp body) (hc : s.ctx? = some c) (hn : c.resumed = false) (hp : c.th.pblk.isSome)
    (ha : c.act = 0) (h : staticRefusal s c i sp true = none) : exec i s = .next (s.passWord c sp) := by
  have hs : (c.covered && c.act == 0) = true := by simp [Ctx.covered, hp, ha]
  have hg : gate s c i sp = .skipped := by
    unfold gate
    simp only [hs, h, if_true]
  rw [he, issue, hc]
  simp only [hn, hg]
  rfl

/-- Settles O18: what each instruction leaves is its own body's; a word with no active lane is passed over. -/
theorem pathsAndPredicatesComplete : Obligations.PathsAndPredicatesComplete := by
  unfold Obligations.PathsAndPredicatesComplete
  refine ⟨fun k n pat w => ⟨?rcv, ?exit, ?exitWaits, ?exitEnds, ?pblk, ?yield⟩, fun th p l h => activeLanes_getLsbD h l,
    fun _ => rfl, ?skipped⟩
  case rcv =>
    refine completesWhen_of (fun _ => rfl) (fun x s _ h => ?_)
    obtain ⟨e, he⟩ := Option.isSome_iff_exists.1 h
    simp [he]
  case exit => exact completesWhen_of (fun _ => rfl) (fun x s _ h => by simp [h])
  case exitWaits => exact waitsWhen_of (fun _ => rfl) (fun x s _ h => by simp [h])
  case exitEnds => exact endsWhen_of (fun _ => rfl) (fun x s h => by simp [h])
  case pblk => exact completes_of (fun _ => rfl) (fun _ _ => rfl)
  case yield => exact completes_of (fun _ => rfl) (fun _ _ => rfl)
  case skipped =>
    intro s c d a b sat ty i sp hc hn hp ha h
    exact exec_skipped (by rfl) hc hn hp ha h

end Sys2Proof.Machine

/-!
Trap instructions (O41): an instruction that its operand makes privileged, once for all of them, then TRAP, SVC, BRK, RFT and KILLB.
-/
namespace Sys2Proof.Machine

/-! ## Instructions that an operand's value makes privileged -/

section
variable {s : State} {i : Instr} {sp : Spec} {c : Ctx} {read : Opd} {needs : Ctx → Bool} {body : Ctx → State → Res}

/-- What items 1 to 6 of R45 leave standing names no register past the allotment; item 5 apart, they leave it standing whether it
is privileged or not. -/
theorem staticRefusal_eq_none (h : staticRefusal s c i sp false = none) :
    (!c.front && (c.named sp).any (fun r => c.w.allot ≤ r.1)) = false ∧
    ∀ p, staticRefusal s c i { sp with priv := p } false = if p && !c.priv then some 5 else none := by
  unfold staticRefusal at h ⊢
  simp only [ite_eq_iff, reduceCtorEq, and_false, false_or, Bool.false_eq_true, not_false_eq_true, true_and, and_true]
    at h
  obtain ⟨h1, h3, h2, h4, -, h6⟩ := h
  refine ⟨Bool.eq_false_iff.2 h6, fun p => ?_⟩
  rw [if_neg h1, if_neg Bool.false_ne_true, if_neg h3, if_neg h2, if_neg h4]
  split
  · rfl
  · exact if_neg h6

/-- The one operand that is read first names none but the instruction's own registers. -/
theorem Ctx.named_only_subset (c : Ctx) (hr : read ∈ sp.opds) : c.named { sp with opds := [read] } ⊆ c.named sp := by
  intro r h
  simp only [Ctx.named, List.flatMap_cons, List.flatMap_nil, List.append_nil] at h
  exact List.mem_flatMap.2 ⟨read, hr, h⟩

/-- An operand that is read first is read where the instruction issues with nothing in its way. -/
theorem privBy_clear (h : Clear s i sp c) (hr : read ∈ sp.opds) (hp : popsDq { sp with opds := [read] } = popsDq sp) :
    privBy s sp read needs = { sp with priv := needs (c.operands sp) } := by
  have hn := c.named_only_subset hr
  have hpast : (!c.front && (c.named { sp with opds := [read] }).any (fun r => c.w.allot ≤ r.1)) = false := by
    have h6 := (staticRefusal_eq_none h.legal).1
    rw [Bool.and_eq_false_imp] at h6 ⊢
    exact fun hf => List.any_eq_false.2 fun r hm => List.any_eq_false.1 (h6 hf) r (hn hm)
  have howed : c.scoreboard { sp with opds := [read] } = false := by
    have hu := h.unowed
    simp only [Ctx.scoreboard, List.any_eq_false, Ctx.readIds, Ctx.writeIds, List.mem_append, List.mem_map, List.mem_filter]
      at hu ⊢
    rintro r (⟨x, ⟨hx, hw⟩, rfl⟩ | ⟨x, ⟨hx, hw⟩, rfl⟩)
    · exact hu _ (.inl ⟨x, ⟨hn hx, hw⟩, rfl⟩)
    · exact hu _ (.inr ⟨x, ⟨hn hx, hw⟩, rfl⟩)
  unfold privBy
  rw [h.thread]
  simp only [h.fresh, hpast, howed, hp, h.entry, Bool.false_or, Bool.false_eq_true, if_false]
  rfl

/-- What completion and waiting make of an instruction does not rest on item 5. -/
theorem finish_priv (s : State) (i : Instr) (sp : Spec) (p : Bool) (c : Ctx) (fresh : Bool) (r : Res) :
    finish s i { sp with priv := p } c fresh r = finish s i sp c fresh r := by
  cases r with
  | done s ws nx => cases nx <;> rfl
  | _ => rfl

/-- Outside a handler an instruction that its operand makes privileged is refused by item 5. -/
theorem exec_privBy_refused (he : exec i s = issue s i (privBy s sp read needs) body) (h : Clear s i sp c) (hr : read ∈ sp.opds)
    (hp : popsDq { sp with opds := [read] } = popsDq sp) (hn : needs (c.operands sp) = true) (ht : c.th.trap = false) :
    exec i s = .next (s.refuse c 5 0 c.allLanes) := by
  rw [he, privBy_clear h hr hp]
  refine issue_refused h.thread h.fresh ?_
  rw [h.lanes, (staticRefusal_eq_none h.legal).2, hn, Ctx.priv, ht]
  rfl

theorem issue_privBy_clear (h : Clear s i sp c) (hr : read ∈ sp.opds) (hp : popsDq { sp with opds := [read] } = popsDq sp)
    (hn : needs (c.operands sp) = true → c.th.trap = true) :
    issue s i (privBy s sp read needs) body =
      .next (finish s i sp (c.operands sp) true (body (c.operands sp) (s.countIssue c))) := by
  have hc : Clear s i { sp with priv := needs (c.operands sp) } c :=
    { h with
      legal := by
        rw [(staticRefusal_eq_none h.legal).2, Ctx.priv]
        cases hq : needs (c.operands sp) with
        | false => rfl
        | true => rw [hn hq]; rfl }
  rw [privBy_clear h hr hp, issue_clear hc, finish_priv]
  rfl

/-- An instruction that issued before does not read the operand again. -/
theorem privBy_resumed (h : Resumed s i sp c) : privBy s sp read needs = sp := by
  have hr : c.resumed = true := by simp [Ctx.resumed, h.issued]
  unfold privBy
  rw [h.thread]
  simp [hr]

theorem completesWhen_privBy {p : Ctx → State → Prop} {f : Effect}
    (he : ∀ s, exec i s = issue s i (privBy s sp read needs) body)
    (hr : read ∈ sp.opds) (hp : popsDq { sp with opds := [read] } = popsDq sp)
    (hn : ∀ x s, p x s → needs x = true → x.th.trap = true)
    (hb : ∀ x s, x.stage = 0 → p x s → body x s = .done (f x s).1 (f x s).2.1 (f x s).2.2) : CompletesWhen i sp p f := by
  intro s c h hpx
  rw [he, issue_privBy_clear h hr hp (hn _ _ hpx), hb (c.operands sp) _ h.start hpx]
  rfl

theorem waitsWhen_privBy {p : Ctx → State → Prop} {f : Ctx → State → State × Wait × Nat}
    (he : ∀ s, exec i s = issue s i (privBy s sp read needs) body)
    (hr : read ∈ sp.opds) (hp : popsDq { sp with opds := [read] } = popsDq sp)
    (hn : ∀ x s, p x s → needs x = true → x.th.trap = true)
    (hb : ∀ x s, x.stage = 0 → p x s → body x s = .wait (f x s).2.1 (f x s).2.2 (f x s).1) : WaitsWhen i sp p f := by
  intro s c h hpx
  rw [he, issue_privBy_clear h hr hp (hn _ _ hpx), hb (c.operands sp) _ h.start hpx]
  rfl

theorem refusedWhen_privBy {p : Ctx → State → Prop} {f : Ctx → State → Nat × Nat × Word}
    (he : ∀ s, exec i s = issue s i (privBy s sp read needs) body)
    (hr : read ∈ sp.opds) (hp : popsDq { sp with opds := [read] } = popsDq sp)
    (hn : ∀ x s, p x s → needs x = true → x.th.trap = true)
    (hb : ∀ x s, x.stage = 0 → p x s → body x s = .refuse (f x s).1 (f x s).2.1 (f x s).2.2) : RefusedWhen i sp p f := by
  intro s c h hpx
  rw [he, issue_privBy_clear h hr hp (hn _ _ hpx), hb (c.operands sp) _ h.start hpx]
  rfl

theorem endsWhen_privBy {p : Ctx → State → Prop} {f : Effect} (he : ∀ s, exec i s = issue s i (privBy s sp read needs) body)
    (hb : ∀ x s, p x s → body x s = .done (f x s).1 (f x s).2.1 (f x s).2.2) : EndsWhen i sp p f := by
  intro s c h hpx
  rw [he, privBy_resumed h, issue_resumed h, hb _ _ hpx]
  rfl

end

/-! ## The trap instructions -/

theorem staticRefusal_malformed {i : Instr} (s : State) (c : Ctx) (sp : Spec) (skip : Bool) (h : wellFormed i = false) :
    staticRefusal s c i sp skip = some 1 := by
  simp [staticRefusal, h]

theorem exec_illegalInstruction {s : State} {c : Ctx} {w : Word} (hc : s.ctx? = some c) (hn : c.resumed = false)
    (hw : barSetLevel w = false) : exec (.illegalInstruction w) s = .next (s.refuse c 1 0 c.allLanes) := by
  have he : exec (.illegalInstruction w) s = execIllegalInstruction w s := rfl
  rw [he, execIllegalInstruction, hw]
  exact issue_refused hc hn (staticRefusal_malformed s c _ _ rfl)

/-- The bits that a mode of KILLB does not use are 0 (15 R382). -/
theorem killUnused_iff (v : DWord) : killUnused v = false ↔
    [fld v 61 0 = 0, fld v 61 51 = 0 ∧ fld v 31 0 = 0, fld v 61 32 = 0].getD (fld v 63 62) False := by
  have h : fld v 63 62 < 4 := Nat.mod_lt _ (by decide)
  unfold killUnused
  generalize fld v 63 62 = m at h ⊢
  interval_cases m <;> simp

theorem killPriv_iff (v : DWord) : killPriv v = true ↔ fld v 63 62 = 1 ∨ fld v 63 62 = 2 := by
  simp [killPriv]

/-- Settles O41: KILLB's item decides what it is refused for, what it kills and whether it needs privilege. -/
theorem trapInstructionsComplete : Obligations.TrapInstructionsComplete := by
  unfold Obligations.TrapInstructionsComplete
  intro d a n w bk sp kill v mode fields status
  have hr : Opd.items a.toNat 1 false ∈ kill.opds := List.mem_cons_self
  have hp : popsDq { kill with opds := [.items a.toNat 1 false] } = popsDq kill := by
    simp [kill, popsDq, Opd.pops, flow, plain]
  have unpriv : ∀ x, mode x = 0 ∨ mode x = 3 → killPriv (v x) = true → x.th.trap = true := by
    intro x hm hk
    have := (killPriv_iff _).1 hk
    change mode x = 1 ∨ mode x = 2 at this
    omega
  have unused0 : ∀ x, fields x → killUnused (x.item a.toNat 0) = false := fun x => (killUnused_iff _).2
  refine ⟨?trap, ?svc, ?brk, fun s c hc hn hw => exec_illegalInstruction hc hn hw, ?rftOutside, ?rft, ?rftEnds, ?killOwn,
    ?killUnprivileged, ?killMalformed, ?killNone, ?killNested, ?killBlock, ?killEnds⟩
  case trap => exact refusedWhen_of (fun _ => rfl) (fun _ _ _ _ => rfl)
  case svc => exact refusedWhen_of (fun _ => rfl) (fun _ _ _ _ => rfl)
  case brk => exact refusedWhen_of (fun _ => rfl) (fun _ _ _ _ => rfl)
  case rftOutside => exact refusedWhen_of (fun _ => rfl) (fun x s _ h => by simp [h])
  case rft =>
    refine completesWhen_of (fun _ => rfl) (fun x s _ h => ?_)
    obtain ⟨ht, hs, hb⟩ := h
    simp only [ht, hs, bitOf, hb, Ctx.front, beq_iff_eq]
    rfl
  case rftEnds =>
    refine completesWhen_of (fun _ => rfl) (fun x s _ h => ?_)
    obtain ⟨ht, hs, hb, hd, hg⟩ := h
    simp only [ht, hs, bitOf, hb, hd, hg]
    rfl
  case killOwn =>
    refine waitsWhen_privBy (fun _ => rfl) hr hp (fun x _ h => unpriv x (.inl h.1)) (fun x s h0 h => ?_)
    have hm : fld (x.item a.toNat 0) 63 62 = 0 := h.1
    simp [h0, unused0 x h.2, hm]
  case killUnprivileged =>
    intro s c x h hm ht
    exact exec_privBy_refused (needs := fun x => killPriv (v x)) (by rfl) h hr hp ((killPriv_iff _).2 hm) ht
  case killMalformed =>
    refine refusedWhen_privBy (fun _ => rfl) hr hp (fun x _ h => ?_) (fun x s h0 h => ?_)
    · obtain ⟨-, h0 | h3 | ht⟩ := h
      · exact unpriv x (.inl h0)
      · exact unpriv x (.inr h3)
      · exact fun _ => ht
    · have hu : killUnused (x.item a.toNat 0) = true := by
        rw [← Bool.not_eq_false, killUnused_iff]
        exact h.1
      simp [h0, hu]
  case killNone =>
    refine completesWhen_privBy (fun _ => rfl) hr hp (fun x _ h _ => h.2.2.1) (fun x s h0 h => ?_)
    obtain ⟨hm, hf, -, ht⟩ : fld (x.item a.toNat 0) 63 62 ≠ 0 ∧ _ ∧ _ ∧ s.killTarget x.b (x.item a.toNat 0) = _ := h
    simp [h0, unused0 x hf, hm, ht, status]
  case killNested =>
    refine completesWhen_privBy (fun _ => rfl) hr hp (fun x _ h _ => h.2.2.1) (fun x s h0 h => ?_)
    obtain ⟨hm, hf, -, ht⟩ : fld (x.item a.toNat 0) 63 62 ≠ 0 ∧ _ ∧ _ ∧ s.killTarget x.b (x.item a.toNat 0) = _ := h
    simp [h0, unused0 x hf, hm, ht, status]
  case killBlock =>
    refine waitsWhen_privBy (fun _ => rfl) hr hp (fun x _ h _ => h.2.2.1) (fun x s h0 h => ?_)
    obtain ⟨hm, hf, -, ht⟩ : fld (x.item a.toNat 0) 63 62 ≠ 0 ∧ _ ∧ _ ∧ s.killTarget x.b (x.item a.toNat 0) = _ := h
    simp [h0, unused0 x hf, hm, ht]
  case killEnds => exact endsWhen_privBy (fun _ => rfl) (fun x s h => if_pos h)

end Sys2Proof.Machine

/-!
One step of the machine (O54): what a thread fetches does not rest on the threads, and which due step of a channel is taken.
-/
namespace Sys2Proof.Machine

/-! ## Translation and fetch -/

section
variable {s u : State} (hk : u.paKey = s.paKey) (hr : u.runHead = s.runHead) (hm : u.mem = s.mem) (hc : u.clock = s.clock)
include hk hr hm hc

/-- A walk rests on memory and on how its die maps physical addresses. The parts are rewritten inside the compiled recursion: the
recursion's own equations are too deep for the kernel. -/
theorem State.walk_congr : u.walk = s.walk := by
  have hf : State.walk._f u = State.walk._f s := by
    delta State.walk._f
    rw [hk, hr, hm, hc]
  delta State.walk
  rw [hf]

theorem State.translateNow_congr (ht : u.tlb = s.tlb) : u.translateNow = s.translateNow := by
  have hfind : u.tlbFind = s.tlbFind := by
    unfold State.tlbFind
    rw [ht]
  have hleaf : u.useLeaf = s.useLeaf := by
    unfold State.useLeaf
    rw [hk]
  unfold State.translateNow
  rw [hfind, hleaf, State.walk_congr hk hr hm hc]

end

/-- A fetch reads the little-endian word at the PC (02 R32). -/
theorem State.fetch_of_hit {s u : State} {b : Block} {th : Thread} {k : Nat} (ht : u.translateNow = s.translateNow)
    (hm : u.mem = s.mem) (h : s.translateNow b.die (clusterOf b.coreIx) b.desc th.pc.toNat .fetch th.trap = .hit k) :
    u.fetch b th = .word (BitVec.ofNat 32 (leNat (cread s.mem k 4))) := by
  rw [State.fetch, ht, h, hm]

/-! ## The turn of a thread -/

section
variable {s : State} {t : ThreadRef} {b : Block} {th : Thread} (hb : s.blk? t.blk = some b) (ht : s.thread? t = some th)
include hb ht

/-- A thread that waits in an instruction goes on with it. -/
theorem State.runThread_resume {i : Instr} (hi : th.hold.bind (·.ins) = some i) :
    s.runThread t = exec i { s with cur := some t } := by
  unfold State.runThread
  simp only [hb, ht, hi]

/-- A thread that waits in none runs what the word at its PC decodes to. -/
theorem State.runThread_fetch {k : Nat} (hi : th.hold.bind (·.ins) = none)
    (hk : s.translateNow b.die (clusterOf b.coreIx) b.desc th.pc.toNat .fetch th.trap = .hit k) :
    s.runThread t =
      exec ((decodeWord (BitVec.ofNat 32 (leNat (cread s.mem k 4)))).getD
        (.illegalInstruction (BitVec.ofNat 32 (leNat (cread s.mem k 4)))))
        ({ s.setHold t none with cur := some t }.fetchRead b th) := by
  have hf : { s.setHold t none with cur := some t }.fetch b th = .word (BitVec.ofNat 32 (leNat (cread s.mem k 4))) :=
    State.fetch_of_hit (State.translateNow_congr rfl rfl rfl rfl rfl) rfl hk
  unfold State.runThread
  simp only [hb, ht, hi, hf]
  cases decodeWord (BitVec.ofNat 32 (leNat (cread s.mem k 4))) <;> rfl

end

/-! ## The due step that is taken -/

/-- What no earlier step of its channel stands before, and the steps that are left without it. -/
theorem mem_firstOf {l rest : List Event} {e : Event} (h : (e, rest) ∈ firstOf l) :
    ∃ before after, l = before ++ e :: after ∧ rest = before ++ after ∧ ∀ x ∈ before, Event.lane x ≠ Event.lane e := by
  induction l generalizing rest with
  | nil => cases h
  | cons d l ih =>
    rcases List.mem_cons.1 h with h | h
    · cases h
      exact ⟨[], l, rfl, rfl, List.forall_mem_nil _⟩
    · obtain ⟨⟨e', rest'⟩, hx, heq⟩ := List.mem_map.1 h
      cases heq
      obtain ⟨hmem, hne⟩ := List.mem_filter.1 hx
      obtain ⟨before, after, rfl, rfl, hl⟩ := ih hmem
      refine ⟨d :: before, after, rfl, rfl, List.forall_mem_cons.2 ⟨fun hd => ?_, hl⟩⟩
      simp [hd] at hne

theorem State.takeEvent_eq_none {s : State} (h : s.inbox = []) : s.takeEvent = none := by
  rw [State.takeEvent, h]
  rfl

theorem State.takeEvent_isSome {s : State} (h : s.inbox ≠ []) : ∃ e v, s.takeEvent = some (e, v) := by
  obtain ⟨e, l, hl⟩ := List.exists_cons_of_ne_nil h
  rw [State.takeEvent, hl, firstOf]
  split
  next h => cases h
  next => exact ⟨_, _, rfl⟩
  next => exact ⟨_, _, rfl⟩

theorem State.takeEvent_mem {s v : State} {e : Event} (h : s.takeEvent = some (e, v)) :
    (e, v.inbox) ∈ firstOf s.inbox := by
  unfold State.takeEvent at h
  split at h
  next => cases h
  next x hx =>
    cases h
    simp [hx]
  next x l _ hx =>
    rw [hx]
    cases h
    dsimp only
    rw [List.getD_eq_getElem _ _ (Nat.mod_lt _ (List.length_pos_of_ne_nil (List.cons_ne_nil _ _)))]
    exact List.getElem_mem _

/-- Settles O54: a turn is the thread's own instruction or the word at its PC; a step is one turn, one due step, or time alone. -/
theorem stepRunsDecodedInstruction : Obligations.StepRunsDecodedInstruction := by
  unfold Obligations.StepRunsDecodedInstruction
  refine ⟨fun s t b th i k hb ht => ⟨?resume, ?decoded, ?illegal⟩,
    fun s u v t e => ⟨?turn, ?choice, ?due, ?idle, ?some, ?first⟩⟩
  case resume => exact State.runThread_resume hb ht
  case decoded =>
    intro hi hk hd
    rw [State.runThread_fetch hb ht hi hk, hd]
    rfl
  case illegal =>
    intro hi hk hd
    rw [State.runThread_fetch hb ht hi hk, hd]
    rfl
  case turn =>
    intro hc hi
    simp only [step, hc, hi]
    rfl
  case choice =>
    intro hc hi he
    simp only [step, hc, List.isEmpty_eq_false_iff.2 hi, he]
    rfl
  case due =>
    intro hc he
    simp only [step, hc, he]
    rfl
  case idle =>
    intro hc hi
    simp only [step, hc, State.takeEvent_eq_none hi]
  case some => exact State.takeEvent_isSome
  case first => exact fun h => mem_firstOf (State.takeEvent_mem h)

end Sys2Proof.Machine

/-!
Trap entry and return (O42, 15 R371-R384): what a write at its home leaves alone, what it stores, and the registers that a
handler has of its own.
-/
namespace Sys2Proof.Machine

/-! ## What a write at its home leaves alone -/

theorem mem_lset {α : Type} {l : List α} {i : Nat} {f : α → α} {x : α} (h : x ∈ lset l i f) : x ∈ l ∨ ∃ y ∈ l, f y = x := by
  obtain ⟨j, hj⟩ := List.mem_iff_getElem?.1 h
  rw [lset_get] at hj
  split at hj
  · obtain ⟨y, hy, hf⟩ := Option.map_eq_some_iff.1 hj
    exact .inr ⟨y, List.mem_of_getElem? hy, hf⟩
  · exact .inl (List.mem_of_getElem? hj)

/-- No memory-side die holds a chunk or a write (11 R290, R291). -/
def State.Uncompressed (s : State) : Prop := ∀ d ∈ s.mds, d.chunks = [] ∧ d.overflow = []

/-- `u` is `s` but for what stands at the homes, the steps that are due, and the signals sent: threads, clock and memory are as
before, and a write that found no chunk in its way finds none. -/
structure State.HomesOnly (s u : State) : Prop where
  blocks : u.blocks = s.blocks
  clock  : u.clock = s.clock
  mem    : u.mem = s.mem
  held   : s.Uncompressed → u.Uncompressed

theorem State.HomesOnly.refl (s : State) : s.HomesOnly s := ⟨rfl, rfl, rfl, id⟩

theorem State.HomesOnly.trans {s u v : State} (h : s.HomesOnly u) (h' : u.HomesOnly v) : s.HomesOnly v :=
  ⟨h'.blocks.trans h.blocks, h'.clock.trans h.clock, h'.mem.trans h.mem, h'.held ∘ h.held⟩

/-- A change of one memory-side die that leaves its chunks and its held writes. -/
theorem State.updMd_homesOnly (s : State) (m : Nat) {f : Md → Md} (hc : ∀ d, (f d).chunks = d.chunks)
    (ho : ∀ d, (f d).overflow = d.overflow) : s.HomesOnly (s.updMd m f) := by
  refine ⟨by simp, by simp, by simp, fun hu => ?_⟩
  unfold State.updMd
  split
  · exact hu
  · intro d hd
    obtain h | ⟨y, hy, rfl⟩ := mem_lset hd
    · exact hu d h
    · rw [hc, ho]
      exact hu y hy

theorem State.post_homesOnly (s : State) (e : Event) : s.HomesOnly (s.post e) := ⟨rfl, rfl, rfl, id⟩

theorem State.pickOne_homesOnly {α : Type} {s u : State} {l : List α} {x : Option α} (h : s.pickOne l = (x, u)) :
    s.HomesOnly u := by
  unfold State.pickOne at h
  split at h
  · cases h
    exact .refl s
  · cases h
    exact ⟨rfl, rfl, rfl, id⟩

theorem State.HomesOnly.ite {s u v : State} {c : Prop} [Decidable c] (hu : s.HomesOnly u) (hv : s.HomesOnly v) :
    s.HomesOnly (if c then u else v) := by
  split
  · exact hu
  · exact hv

theorem State.touch_homesOnly (s : State) (k : Nat) : s.HomesOnly (s.touch k) := by
  have hcount := s.updMd_homesOnly (keyPlace k) (f := fun d => { d with accesses := d.accesses + 1 })
    (fun _ => rfl) (fun _ => rfl)
  have halving (e : Event) := hcount.trans (State.post_homesOnly _ e)
  unfold State.touch
  dsimp only
  exact .ite (.ite (.ite ((State.HomesOnly.ite (halving _) hcount).trans (State.post_homesOnly _ _)) (.ite (halving _) hcount))
    hcount) (.refl s)

theorem State.cacheLine_homesOnly (s : State) (k : Nat) (dirty : Bool) : s.HomesOnly (s.cacheLine k dirty) := by
  unfold State.cacheLine
  dsimp only
  split
  · exact .refl s
  split
  · exact s.updMd_homesOnly _ (fun _ => rfl) (fun _ => rfl)
  · refine .trans ?_ (State.updMd_homesOnly _ _ ?_ ?_)
    · split
      · split
        next v u h => exact (State.pickOne_homesOnly h).trans (u.updMd_homesOnly _ (fun _ => rfl) (fun _ => rfl))
        next u h => exact State.pickOne_homesOnly h
      · exact .refl s
    · exact fun _ => rfl
    · exact fun _ => rfl

theorem State.metaLookup_homesOnly (s : State) (m g : Nat) : s.HomesOnly (s.metaLookup m g) := by
  unfold State.metaLookup
  dsimp only
  split
  · exact .refl s
  · refine .trans ?_ (State.updMd_homesOnly _ _ ?_ ?_)
    · split
      · split
        next v u h => exact (State.pickOne_homesOnly h).trans (u.updMd_homesOnly _ (fun _ => rfl) (fun _ => rfl))
        next u h => exact State.pickOne_homesOnly h
      · exact .refl s
    · exact fun _ => rfl
    · exact fun _ => rfl

theorem State.markDirty_homesOnly (s : State) (k : Nat) : s.HomesOnly (s.markDirty k) := by
  unfold State.markDirty
  dsimp only
  split
  · exact s.updMd_homesOnly _ (fun _ => rfl) (fun _ => rfl)
  · exact .refl s

/-- Packing a granule changes no thread. -/
theorem State.packGranule_blocks_clock (s : State) (k : Nat) :
    (s.packGranule k).2.blocks = s.blocks ∧ (s.packGranule k).2.clock = s.clock := by
  unfold State.packGranule
  dsimp only
  split
  · exact ⟨rfl, rfl⟩
  split
  · exact ⟨rfl, rfl⟩
  have hm := s.metaLookup_homesOnly (keyPlace k) (keyAddr k >>> 12)
  split
  · exact ⟨(State.updMd_blocks _ _ _).trans hm.blocks, (State.updMd_clock _ _ _).trans hm.clock⟩
  · exact ⟨(State.updMd_blocks _ _ _).trans hm.blocks, (State.updMd_clock _ _ _).trans hm.clock⟩

/-- A write that has reached its home changes no thread. -/
theorem State.settleWrite_blocks_clock (s : State) (k : Nat) (bs : List Byte) (who : Option ThreadRef) :
    (s.settleWrite k bs who).blocks = s.blocks ∧ (s.settleWrite k bs who).clock = s.clock := by
  obtain ⟨hb, hc⟩ := s.packGranule_blocks_clock k
  unfold State.settleWrite
  dsimp only
  split
  · exact ⟨by simp, by simp⟩
  split
  next u h =>
    rw [h] at hb hc
    have hl := u.cacheLine_homesOnly k true
    have hd := ((u.cacheLine k true).memPut k bs).markDirty_homesOnly k
    exact ⟨hd.blocks.trans (hl.blocks.trans hb), hd.clock.trans (hl.clock.trans hc)⟩
  next u h =>
    rw [h] at hb hc
    exact ⟨(State.updMd_blocks _ _ _).trans hb, (State.updMd_clock _ _ _).trans hc⟩

/-! ### Where nothing is compressed -/

theorem State.Uncompressed.md {s : State} (h : s.Uncompressed) {m : Nat} (hm : m < 16) :
    (s.md m).chunks = [] ∧ (s.md m).overflow = [] := by
  rw [State.md, if_neg (by omega), List.getD_eq_getElem?_getD]
  cases hd : s.mds[m]? with
  | none => exact ⟨rfl, rfl⟩
  | some d => exact h d (List.mem_of_getElem? hd)

theorem State.Uncompressed.overflowed {s : State} (h : s.Uncompressed) (k : Nat) : s.overflowed k = false := by
  by_cases hk : keyPlace k < 16
  · simp [State.overflowed, (h.md hk).2]
  · simp [State.overflowed, hk]

theorem State.Uncompressed.packGranule {s : State} (h : s.Uncompressed) (k : Nat) : s.packGranule k = (true, s) := by
  have hc : (if keyPlace k < 16 then kget (s.md (keyPlace k)).chunks (chunkOf k) else none) = none := by
    split
    next hk => rw [(h.md hk).1, kget_nil]
    next => rfl
  unfold State.packGranule
  dsimp only
  rw [hc]

/-- There a write that has reached its home is stored. -/
theorem State.Uncompressed.settleWrite {s : State} (h : s.Uncompressed) (k : Nat) (bs : List Byte) (who : Option ThreadRef) :
    (s.settleWrite k bs who).mem = cwrite s.mem k bs ∧ (s.settleWrite k bs who).Uncompressed := by
  have hl := s.cacheLine_homesOnly k true
  have hd := ((s.cacheLine k true).memPut k bs).markDirty_homesOnly k
  have he : s.settleWrite k bs who = ((s.cacheLine k true).memPut k bs).markDirty k := by
    unfold State.settleWrite
    dsimp only
    rw [h.overflowed, h.packGranule]
    rfl
  rw [he]
  exact ⟨hd.mem.trans (by rw [State.memPut, hl.mem]), hd.held (hl.held h)⟩

/-! ## Blocks but for the windows of what their threads have sent (10 R261) -/

def Thread.unsent (th : Thread) : Thread := { th with sentWin := none }
def Block.unsent (b : Block) : Block := b.mapThreads Thread.unsent

theorem Block.thread?_unsent (b : Block) (n : Nat) (armE : Bool) :
    b.unsent.thread? n armE = (b.thread? n armE).map Thread.unsent := by
  by_cases h : n = 32
  · simp [Block.unsent, Block.thread?, Block.mapThreads, h]
  · simp only [Block.unsent, Block.thread?, Block.mapThreads, h, if_false, List.getElem?_map, Option.map_map]
    congr 1
    funext w
    cases armE <;> rfl

theorem Block.region_unsent (b : Block) (n r : Nat) : b.unsent.region n r = b.region n r := by
  by_cases h : n = 32
  · simp [Block.unsent, Block.region, Block.mapThreads, h]
  · simp [Block.unsent, Block.region, Block.mapThreads, h, Option.bind_map]

/-- Blocks that are the same but for those windows. -/
def State.SameButSent (s u : State) : Prop :=
  (∀ k, (u.blk? k).map Block.unsent = (s.blk? k).map Block.unsent) ∧ u.clock = s.clock

theorem State.SameButSent.trans {s u v : State} (h : s.SameButSent u) (h' : u.SameButSent v) : s.SameButSent v :=
  ⟨fun k => (h'.1 k).trans (h.1 k), h'.2.trans h.2⟩

theorem State.SameButSent.of_blocks {s u : State} (hb : u.blocks = s.blocks) (hc : u.clock = s.clock) : s.SameButSent u :=
  ⟨fun k => by simp only [State.blk?, hb], hc⟩

theorem Block.unsent_updThread (b : Block) (n : Nat) (armE : Bool) (w : Option Nat) :
    (b.updThread n armE (fun th => { th with sentWin := w })).unsent = b.unsent := by
  by_cases h : n = 32
  · subst h
    rfl
  · have hw : (lset b.warps n (fun x => x.updArm armE (fun th => { th with sentWin := w }))).map
          (fun x => { x with t := x.t.unsent, e := x.e.unsent })
        = b.warps.map (fun x => { x with t := x.t.unsent, e := x.e.unsent }) := by
      apply List.ext_getElem?
      intro i
      simp only [List.getElem?_map, lset_get]
      split
      · rw [Option.map_map]
        congr 1
        funext x
        cases armE <;> rfl
      · rfl
    rw [Block.updThread_warp _ _ _ h, Block.unsent, Block.unsent, Block.mapThreads, Block.mapThreads, Block.updWarp, hw]

theorem State.sameButSent_updBlk (s : State) (k : Nat) {f : Block → Block} (hf : ∀ b, (f b).unsent = b.unsent) :
    s.SameButSent (s.updBlk k f) := by
  refine ⟨fun j => ?_, rfl⟩
  by_cases hj : j = k
  · subst hj
    rw [State.blk?_updBlk_self, Option.map_map]
    congr 1
    funext b
    exact hf b
  · rw [State.blk?_updBlk_other _ _ hj]

theorem State.sameButSent_sentNow (s : State) (t : ThreadRef) : s.SameButSent (s.sentNow t) :=
  (s.sameButSent_updBlk _ (fun b => b.unsent_updThread _ _ _)).trans
    (State.sameButSent_updBlk _ _ (fun b => b.unsent_updThread _ _ _))

theorem State.sameButSent_foldl {α : Type} (f : State → α → State) (hf : ∀ (s : State) a, s.SameButSent (f s a)) (l : List α) :
    ∀ s : State, s.SameButSent (l.foldl f s) := by
  induction l with
  | nil => exact fun s => .of_blocks rfl rfl
  | cons a l ih => exact fun s => (hf s a).trans (ih (f s a))

theorem State.sameButSent_sentFor (s : State) (k : Nat) (who : List ThreadRef) : s.SameButSent (s.sentFor k who) := by
  unfold State.sentFor
  split
  · exact State.sameButSent_foldl _ State.sameButSent_sentNow who s
  · exact .of_blocks rfl rfl

theorem State.sameButSent_homeWriteLine (s : State) (k : Nat) (bs : List Byte) : s.SameButSent (s.homeWriteLine k bs) := by
  have ht := s.touch_homesOnly k
  obtain ⟨hb, hc⟩ := ((s.touch k).sentFor k s.cur.toList).settleWrite_blocks_clock k bs s.cur
  exact ((State.SameButSent.of_blocks ht.blocks ht.clock).trans (State.sameButSent_sentFor _ _ _)).trans (.of_blocks hb hc)

theorem State.sameButSent_homeWrite (s : State) (k : Nat) (bs : List Byte) : s.SameButSent (s.homeWrite k bs) :=
  State.sameButSent_foldl _ (fun s _ => s.sameButSent_homeWriteLine _ _) _ s

theorem State.sameButSent_framePut (s : State) (b : Block) (off : Nat) (bs : List Byte) :
    s.SameButSent (s.framePut b off bs) := by
  unfold State.framePut
  split
  next k _ => exact (s.sameButSent_homeWrite k bs).trans (.of_blocks rfl rfl)
  next => exact .of_blocks rfl rfl

/-! ## Where nothing is compressed, a write at its home is stored -/

theorem State.sentFor_mem_mds (s : State) (k : Nat) (who : List ThreadRef) :
    (s.sentFor k who).mem = s.mem ∧ (s.sentFor k who).mds = s.mds := by
  unfold State.sentFor
  split
  · induction who generalizing s with
    | nil => exact ⟨rfl, rfl⟩
    | cons t who ih => exact ih (s.sentNow t)
  · exact ⟨rfl, rfl⟩

theorem State.Uncompressed.homeWriteLine {s : State} (h : s.Uncompressed) (k : Nat) (bs : List Byte) :
    (s.homeWriteLine k bs).mem = cwrite s.mem k bs ∧ (s.homeWriteLine k bs).Uncompressed := by
  have ht := s.touch_homesOnly k
  obtain ⟨hm, hd⟩ := (s.touch k).sentFor_mem_mds k s.cur.toList
  have hu : ((s.touch k).sentFor k s.cur.toList).Uncompressed := by
    rw [State.Uncompressed, hd]
    exact ht.held h
  have hw := hu.settleWrite k bs s.cur
  rw [hm, ht.mem] at hw
  exact hw

/-- The parts of a write, line by line, are its bytes from `off` on. -/
theorem State.Uncompressed.writeLines {k : Nat} {bs : List Byte} (fuel : Nat) : ∀ {s : State} {off len : Nat}, s.Uncompressed →
    k ≤ off → off + len ≤ k + bs.length → (len = 0 ∨ off % 128 + len ≤ 128 * fuel) → ∀ a,
      cget ((chunks 128 fuel off len).foldl (fun s c => s.homeWriteLine c.1 ((bs.drop (c.1 - k)).take c.2)) s).mem a
        = if off ≤ a ∧ a < off + len then bs.getD (a - k) 0 else cget s.mem a := by
  induction fuel with
  | zero =>
    intro s off len _ _ _ hf a
    rw [if_neg (by omega)]
    rfl
  | succ fuel ih =>
    intro s off len hu hk hlen hf a
    by_cases h0 : len = 0
    · rw [chunks, if_pos h0, if_neg (by omega)]
      rfl
    obtain ⟨n, hn⟩ : ∃ n, n = min len (128 - off % 128) := ⟨_, rfl⟩
    obtain ⟨hm, hu'⟩ := hu.homeWriteLine off ((bs.drop (off - k)).take n)
    have hl : ((bs.drop (off - k)).take n).length = n := by
      rw [List.length_take, List.length_drop]
      omega
    rw [chunks, if_neg h0]
    dsimp only
    rw [← hn, List.foldl_cons, ih hu' (by omega) (by omega) (by omega), hm, cget_cwrite, hl]
    by_cases h1 : off + n ≤ a ∧ a < off + n + (len - n)
    · rw [if_pos h1, if_pos (by omega)]
    rw [if_neg h1]
    by_cases h2 : off ≤ a ∧ a < off + n
    · rw [if_pos h2, if_pos (by omega), List.getD_eq_getElem?_getD, List.getD_eq_getElem?_getD,
        List.getElem?_take_of_lt (by omega), List.getElem?_drop]
      congr 2
      omega
    · rw [if_neg h2, if_neg (by omega)]

/-- What a write at its home stores is read back. -/
theorem State.Uncompressed.cread_homeWrite {s : State} (h : s.Uncompressed) (k : Nat) (bs : List Byte) :
    cread (s.homeWrite k bs).mem k bs.length = bs := by
  apply List.ext_getElem
  · simp [cread]
  · intro i _ hi
    have hw := h.writeLines (k := k) (bs := bs) (bs.length / 128 + 2) (off := k) (len := bs.length) le_rfl le_rfl
      (by omega) (k + i)
    rw [if_pos (by omega)] at hw
    have hg : cget (s.homeWrite k bs).mem (k + i) = bs.getD (k + i - k) 0 := hw
    simp [cread, hg, hi]

theorem recBytes_length (r : FaultRec) (h : r.chain.length = 4) : (recBytes r).length = 64 := by
  simp [recBytes, List.length_flatMap, h]

/-! ## Region registers and the set-aside register (02 R40, 15 R375) -/

theorem Block.asideOf_eq {b : Block} {n : Nat} {w : Warp} (h : n ≠ 32) (hw : b.warps[n]? = some w) : b.asideOf n = w.aside := by
  rw [Block.asideOf, if_neg h, hw]
  rfl

/-- A warp of a thread. -/
theorem Block.warp_of_thread? {b : Block} {n : Nat} {armE : Bool} {th : Thread} (h : n ≠ 32) (ht : b.thread? n armE = some th) :
    ∃ w, b.warps[n]? = some w := by
  rw [Block.thread?, if_neg h] at ht
  obtain ⟨w, hw, _⟩ := Option.map_eq_some_iff.1 ht
  exact ⟨w, hw⟩

@[simp] theorem Block.region_updThread (b : Block) (n m r : Nat) (armE : Bool) (f : Thread → Thread) :
    (b.updThread n armE f).region m r = b.region m r := by
  by_cases h : n = 32
  · subst h
    rfl
  · rw [Block.updThread_warp _ _ _ h]
    by_cases hn : n = m
    · simp [Block.region, hn, Option.bind_map]
    · simp [Block.region, hn]

@[simp] theorem Block.asideOf_updThread (b : Block) (n m : Nat) (armE : Bool) (f : Thread → Thread) :
    (b.updThread n armE f).asideOf m = b.asideOf m := by
  by_cases h : n = 32
  · subst h
    rfl
  · rw [Block.updThread_warp _ _ _ h]
    by_cases hn : n = m
    · have ha : ∀ x : Warp, (x.updArm armE f).aside = x.aside := fun x => by cases armE <;> rfl
      simp [Block.asideOf, hn, Function.comp_def, ha]
    · simp [Block.asideOf, hn]

/-- A region register that was set is read back. -/
theorem Block.region_setRegion {b : Block} {n : Nat} {armE : Bool} {th : Thread} (ht : b.thread? n armE = some th) (r : Nat)
    (x : Region) : (b.setRegion n r x).region n r = x := by
  have hput (m : KMap Region) : (kget (if x = Region.empty then kdel m r else kset m r x) r).getD Region.empty = x := by
    split
    next h => simp [kget_kdel, h]
    next => simp
  by_cases h : n = 32
  · subst h
    exact hput _
  · obtain ⟨w, hw⟩ := Block.warp_of_thread? h ht
    simp only [Block.setRegion, Block.region, if_neg h, Block.updWarp_warps, lset_get, if_true, hw, Option.map_some,
      Option.bind_some]
    exact hput _

@[simp] theorem Block.asideOf_setRegion (b : Block) (n r : Nat) (x : Region) (m : Nat) :
    (b.setRegion n r x).asideOf m = b.asideOf m := by
  by_cases h : n = 32
  · subst h
    rfl
  rcases eq_or_ne n m with rfl | hn
  · simp [h, Block.setRegion, Block.asideOf, Function.comp_def]
  · simp [h, hn, Block.setRegion, Block.asideOf]

@[simp] theorem Block.thread?_setRegion (b : Block) (n r : Nat) (x : Region) (m : Nat) (armE : Bool) :
    (b.setRegion n r x).thread? m armE = b.thread? m armE := by
  by_cases h : n = 32
  · subst h
    rfl
  rcases eq_or_ne n m with rfl | hn
  · simp [h, Block.setRegion, Block.thread?, Function.comp_def]
  · simp [h, hn, Block.setRegion, Block.thread?]

/-- A region register is set aside, and the arm whose handler holds it is noted. -/
def Block.keepAside (b : Block) (n : Nat) (x : Region) (arm : Option Bool) : Block :=
  if n = 32 then { b with front := { b.front with aside := x } } else b.updWarp n (fun w => { w with aside := x, trapE := arm })

@[simp] theorem Block.thread?_keepAside (b : Block) (n : Nat) (x : Region) (arm : Option Bool) (m : Nat) (armE : Bool) :
    (b.keepAside n x arm).thread? m armE = b.thread? m armE := by
  by_cases h : n = 32
  · subst h
    rfl
  rcases eq_or_ne n m with rfl | hn
  · simp [h, Block.keepAside, Block.thread?, Function.comp_def]
  · simp [h, hn, Block.keepAside, Block.thread?]

@[simp] theorem Block.region_keepAside (b : Block) (n : Nat) (x : Region) (arm : Option Bool) (m r : Nat) :
    (b.keepAside n x arm).region m r = b.region m r := by
  by_cases h : n = 32
  · subst h
    rfl
  rcases eq_or_ne n m with rfl | hn
  · simp [h, Block.keepAside, Block.region, Option.bind_map]
  · simp [h, hn, Block.keepAside, Block.region]

theorem Block.asideOf_keepAside {b : Block} {n : Nat} {armE : Bool} {th : Thread} (ht : b.thread? n armE = some th) (x : Region)
    (arm : Option Bool) : (b.keepAside n x arm).asideOf n = x := by
  by_cases h : n = 32
  · subst h
    rfl
  · obtain ⟨w, hw⟩ := Block.warp_of_thread? h ht
    simp [Block.keepAside, Block.asideOf, h, hw]

/-! ### A popped entry given back (02 R38) -/

theorem Block.undoPop_front_warps (b : Block) (n seq : Nat) (v : DWord) :
    (b.undoPop n seq v).front = b.front ∧ (b.undoPop n seq v).warps = b.warps := by
  unfold Block.undoPop
  split
  · exact ⟨rfl, rfl⟩
  split
  · exact ⟨rfl, rfl⟩
  · exact ⟨rfl, rfl⟩

/-- What a thread reads of a block rests on its front thread and its warps. -/
theorem Block.thread?_congr {b b' : Block} (hf : b'.front = b.front) (hw : b'.warps = b.warps) (n : Nat) (armE : Bool) :
    b'.thread? n armE = b.thread? n armE := by
  rw [Block.thread?, Block.thread?, hf, hw]

theorem Block.region_congr {b b' : Block} (hf : b'.front = b.front) (hw : b'.warps = b.warps) (n r : Nat) :
    b'.region n r = b.region n r := by
  rw [Block.region, Block.region, hf, hw]

theorem Block.asideOf_congr {b b' : Block} (hf : b'.front = b.front) (hw : b'.warps = b.warps) (n : Nat) :
    b'.asideOf n = b.asideOf n := by
  rw [Block.asideOf, Block.asideOf, hf, hw]

/-- The entry that an interrupted instruction of a thread had popped. -/
def Thread.popped (th : Thread) : Option (Nat × DWord) :=
  th.hold.bind (fun h => (if h.phase then none else h.dq).map (fun v => (h.dqSeq, v)))

/-- That entry given back, if there is one. -/
def Block.giveBack? (b : Block) (t : ThreadRef) (p : Option (Nat × DWord)) : Block :=
  match p with
  | some (seq, v) => b.giveBack t.warp t.armE seq v
  | none => b

theorem Block.thread?_giveBack? (b : Block) (t : ThreadRef) (p : Option (Nat × DWord)) :
    (b.giveBack? t p).thread? t.warp t.armE
      = (b.thread? t.warp t.armE).map (fun th => { th with redo := (p.map (·.1)).orElse (fun _ => th.redo) }) := by
  cases p with
  | none => simp [Block.giveBack?]
  | some p =>
    obtain ⟨hf, hw⟩ := b.undoPop_front_warps t.warp p.1 p.2
    rw [Block.giveBack?, Block.giveBack, Block.thread?_updThread, Block.thread?_congr hf hw]
    rfl

@[simp] theorem Block.region_giveBack? (b : Block) (t : ThreadRef) (p : Option (Nat × DWord)) (n r : Nat) :
    (b.giveBack? t p).region n r = b.region n r := by
  cases p with
  | none => rfl
  | some p =>
    obtain ⟨hf, hw⟩ := b.undoPop_front_warps t.warp p.1 p.2
    rw [Block.giveBack?, Block.giveBack, Block.region_updThread, Block.region_congr hf hw]

@[simp] theorem Block.asideOf_giveBack? (b : Block) (t : ThreadRef) (p : Option (Nat × DWord)) (n : Nat) :
    (b.giveBack? t p).asideOf n = b.asideOf n := by
  cases p with
  | none => rfl
  | some p =>
    obtain ⟨hf, hw⟩ := b.undoPop_front_warps t.warp p.1 p.2
    rw [Block.giveBack?, Block.giveBack, Block.asideOf_updThread, Block.asideOf_congr hf hw]

/-! ## Trap entry (15 R375) -/

/-- The region register of a block that trap entry replaces. -/
def Block.trapRegs (b : Block) (t : ThreadRef) : Block :=
  (b.keepAside t.warp (b.region t.warp (asideReg t.warp)) (some t.armE)).setRegion t.warp (asideReg t.warp)
    (trapRegion b t.warp)

/-- A thread in its handler. -/
def Thread.trapped (x : Thread) (trpc va : BitVec 56) (clock : Nat) : Thread :=
  { x with record := none, kept := x.hold.filter Hold.phase, hold := none, wins := [], trap := true, trpc := trpc.setWidth 64,
           trpcSet := trpc, trctl := if x.pblk.isSome then 1 else 0, pblkSave := x.pblk, pblk := none, pc := va,
           readyAt := clock, wskip := false, wbUse := none }

/-- Where a handler returns to: after TRAP and SVC, else to the instruction (15 R381). -/
def Thread.trapPc (th : Thread) (code : Nat) : BitVec 56 := if code = 31 ∨ code = 32 then th.pc + 4 else th.pc

/-- What trap entry of a thread `th` makes of its block `y`. -/
def Block.trapEntry (y : Block) (t : ThreadRef) (th : Thread) (code : Nat) (va : BitVec 56) (clock : Nat) : Block :=
  ((y.trapRegs t).giveBack? t th.popped).updThread t.warp t.armE (fun x => x.trapped (th.trapPc code) va clock)

theorem Block.trapRegs_eq (b : Block) (t : ThreadRef) :
    (let old := b.region t.warp (if t.warp = 32 then 15 else 31)
     let b := if t.warp = 32 then { b with front := { b.front with aside := old } }
              else b.updWarp t.warp (fun w => { w with aside := old, trapE := some t.armE })
     b.setRegion t.warp (if t.warp = 32 then 15 else 31) (trapRegion b t.warp)) = b.trapRegs t := by
  dsimp only
  by_cases h : t.warp = 32
  · simp only [h, if_true, Block.trapRegs, Block.keepAside, asideReg]
    rfl
  · simp only [h, if_false, Block.trapRegs, Block.keepAside, asideReg]
    rfl

/-- Trap entry outside a handler, TRAPVA being set: the record goes to the frame, then the block changes. -/
theorem State.enterTrap_eq {s : State} {t : ThreadRef} {r : FaultRec} {b : Block} {th : Thread} (hb : s.blk? t.blk = some b)
    (ht : b.thread? t.warp t.armE = some th) (htrap : th.trap = false) (hva : b.desc.trapva ≠ 0) :
    s.enterTrap t r = (s.framePut b (trapOff t.warp) (recBytes r)).updBlk t.blk
      (fun y => y.trapEntry t th r.code b.desc.trapva s.clock) := by
  have hc : (s.framePut b (trapOff t.warp) (recBytes r)).clock = s.clock := (s.sameButSent_framePut _ _ _).2
  have hth : s.thread? t = some th := by simp [State.thread?, hb, ht]
  have hif : ¬ (th.trap || b.desc.trapva == 0) = true := by simpa [htrap] using hva
  unfold State.enterTrap
  rw [hb, hth]
  simp only [Block.trapRegs_eq, if_neg hif]
  cases hh : th.hold with
  | none =>
    have hp : th.popped = none := by rw [Thread.popped, hh]; rfl
    simp only [State.updThread, State.updBlk_updBlk, Function.comp_def, Block.trapEntry, hp, State.updBlk_clock, hc]
    rfl
  | some h =>
    cases hd : (if h.phase then none else h.dq) with
    | none =>
      have hp : th.popped = none := by rw [Thread.popped, hh, Option.bind_some, hd]; rfl
      simp only [hd, State.updThread, State.updBlk_updBlk, Function.comp_def, Block.trapEntry, hp, State.updBlk_clock, hc]
      rfl
    | some v =>
      have hp : th.popped = some (h.dqSeq, v) := by rw [Thread.popped, hh, Option.bind_some, hd]; rfl
      simp only [hd, State.updThread, State.updBlk_updBlk, Function.comp_def, Block.trapEntry, hp, State.updBlk_clock, hc]
      rfl

/-- The block after trap entry: as it was before but for the windows of what its threads sent, then changed. -/
theorem State.enterTrap_blk {s : State} {t : ThreadRef} {r : FaultRec} {b : Block} {th : Thread} (hb : s.blk? t.blk = some b)
    (ht : b.thread? t.warp t.armE = some th) (htrap : th.trap = false) (hva : b.desc.trapva ≠ 0) :
    ∃ y : Block, y.unsent = b.unsent ∧ (s.enterTrap t r).blk? t.blk = some (y.trapEntry t th r.code b.desc.trapva s.clock) := by
  have hk := (s.sameButSent_framePut b (trapOff t.warp) (recBytes r)).1 t.blk
  rw [hb] at hk
  obtain ⟨y, hy, hu⟩ := Option.map_eq_some_iff.1 hk
  refine ⟨y, hu, ?_⟩
  rw [State.enterTrap_eq hb ht htrap hva, State.blk?_updBlk_self, hy, Option.map_some]

theorem Block.thread?_of_unsent {b y : Block} (h : y.unsent = b.unsent) {n : Nat} {armE : Bool} {th : Thread}
    (ht : b.thread? n armE = some th) : ∃ w, y.thread? n armE = some { th with sentWin := w } := by
  have hm := y.thread?_unsent n armE
  rw [h, b.thread?_unsent, ht] at hm
  obtain ⟨x, hx, hu⟩ := Option.map_eq_some_iff.1 hm.symm
  have hs : x = { x.unsent with sentWin := x.sentWin } := rfl
  rw [hu] at hs
  exact ⟨x.sentWin, hx.trans (congrArg some hs)⟩

theorem Block.region_of_unsent {b y : Block} (h : y.unsent = b.unsent) (n r : Nat) : y.region n r = b.region n r := by
  rw [← y.region_unsent, h, b.region_unsent]

theorem Block.frameVa_of_unsent {b y : Block} (h : y.unsent = b.unsent) : y.frameVa = b.frameVa :=
  show y.unsent.frameVa = b.unsent.frameVa from h ▸ rfl

/-- The thread that trap entry leaves. -/
theorem Block.thread?_trapEntry {y : Block} {t : ThreadRef} {x : Thread} (hx : y.thread? t.warp t.armE = some x) (th : Thread)
    (code : Nat) (va : BitVec 56) (clock : Nat) :
    (y.trapEntry t th code va clock).thread? t.warp t.armE = some
      (({ x with redo := (th.popped.map (·.1)).orElse (fun _ => x.redo) } : Thread).trapped (th.trapPc code) va clock) := by
  rw [Block.trapEntry, Block.thread?_updThread, Block.thread?_giveBack?, Block.trapRegs, Block.thread?_setRegion,
    Block.thread?_keepAside, hx]
  rfl

/-- The registers that trap entry leaves. -/
theorem Block.regions_trapEntry {y : Block} {t : ThreadRef} {x : Thread} (hx : y.thread? t.warp t.armE = some x) (th : Thread)
    (code : Nat) (va : BitVec 56) (clock : Nat) :
    (y.trapEntry t th code va clock).region t.warp (asideReg t.warp) = trapRegion y t.warp ∧
      (y.trapEntry t th code va clock).asideOf t.warp = y.region t.warp (asideReg t.warp) := by
  constructor
  · rw [Block.trapEntry, Block.region_updThread, Block.region_giveBack?, Block.trapRegs,
      Block.region_setRegion ((Block.thread?_keepAside _ _ _ _ _ _).trans hx)]
  · rw [Block.trapEntry, Block.asideOf_updThread, Block.asideOf_giveBack?, Block.trapRegs, Block.asideOf_setRegion,
      Block.asideOf_keepAside hx]

/-- The number of the entry that an interrupted instruction pops again. -/
theorem Thread.redo_popped (th : Thread) : (th.popped.map (·.1)).orElse (fun _ => th.redo) =
    match th.hold with
    | some h => if h.phase then th.redo else (h.dq.map (fun _ => h.dqSeq)).orElse (fun _ => th.redo)
    | none => th.redo := by
  cases hh : th.hold with
  | none => simp [Thread.popped, hh]
  | some h => cases hp : h.phase <;> cases hd : h.dq <;> simp [Thread.popped, hh, hp, hd]

theorem State.framePut_mem {s : State} {b : Block} {off k : Nat} (hk : b.frameKey off = some k) (bs : List Byte) :
    (s.framePut b off bs).mem = (s.homeWrite k bs).mem := by
  rw [State.framePut, hk]
  rfl

/-- The record stands in the trap slot of the frame, where nothing is compressed. -/
theorem State.enterTrap_mem {s : State} {t : ThreadRef} {r : FaultRec} {b : Block} {th : Thread} (hb : s.blk? t.blk = some b)
    (ht : b.thread? t.warp t.armE = some th) (htrap : th.trap = false) (hva : b.desc.trapva ≠ 0) {k : Nat}
    (hk : b.frameKey (trapOff t.warp) = some k) (hr : r.chain.length = 4) (hu : s.Uncompressed) :
    cread (s.enterTrap t r).mem k 64 = recBytes r := by
  have hw := hu.cread_homeWrite k (recBytes r)
  rw [recBytes_length r hr] at hw
  rw [State.enterTrap_eq hb ht htrap hva, State.updBlk_mem, State.framePut_mem hk, hw]

/-- A fault in a handler, or with no TRAPVA, is fatal (15 R375). -/
theorem State.enterTrap_fatal {s : State} {t : ThreadRef} {r : FaultRec} {b : Block} {th : Thread} (hb : s.blk? t.blk = some b)
    (ht : b.thread? t.warp t.armE = some th) (h : th.trap = true ∨ b.desc.trapva = 0) :
    s.enterTrap t r = ((s.updThread t (fun x => { x with record := x.later, later := none })).ringPut b.die
      { r with cls := 4 }).startKill t.blk r.code := by
  have hth : s.thread? t = some th := by simp [State.thread?, hb, ht]
  have hif : (th.trap || b.desc.trapva == 0) = true := by simpa using h
  unfold State.enterTrap
  rw [hb, hth]
  exact if_pos hif

/-- A change of one arm of a warp leaves the other. -/
theorem Block.thread?_updThread_otherArm (b : Block) {n : Nat} (h : n ≠ 32) (armE : Bool) (f : Thread → Thread) :
    (b.updThread n armE f).thread? n (!armE) = b.thread? n (!armE) := by
  rw [Block.updThread_warp _ _ _ h]
  simp only [Block.thread?, if_neg h, Block.updWarp_warps, lset_get, if_true, Option.map_map]
  congr 1
  funext x
  cases armE <;> rfl

theorem State.thread?_updThread_otherArm (s : State) {t : ThreadRef} (h : t.warp ≠ 32) (f : Thread → Thread) :
    (s.updThread t f).thread? (otherArm t) = s.thread? (otherArm t) := by
  simp only [State.thread?, otherArm, State.updThread, State.blk?_updBlk_self, Option.bind_map, Function.comp_def,
    Block.thread?_updThread_otherArm _ h]

/-- A precise fault at issue is delivered at once, where nothing of the warp keeps it waiting (15 R373, R375). -/
theorem State.takeTrap_at_once {s : State} {t : ThreadRef} {b : Block} (r : FaultRec) (hb : s.blk? t.blk = some b)
    (hk : b.killed = none) (hs : s.beingSaved t.blk = false) (hq : b.quietWarp t.warp = true) (ho : b.otherInTrap t = false)
    (hr : t.warp ≠ 32 → (s.thread? (otherArm t)).bind (·.record) = none) :
    s.takeTrap t r = (s.updThread t (fun x =>
      { x with record := some r, later := x.record,
               hold := some { wait := .trapping, ins := none, stage := 0, answer := none, dq := none } })).enterTrap t r := by
  have hother (f : Thread → Thread) :
      (t.warp == 32 || (((s.updThread t f).thread? (otherArm t)).bind (·.record)).isNone) = true := by
    by_cases h : t.warp = 32
    · simp [h]
    · rw [State.thread?_updThread_otherArm _ h, hr h]
      simp
  unfold State.takeTrap
  rw [hb]
  simp [hk, hs, hq, ho, hother]

/-! ## Return from a handler (15 R383) -/

/-- The set-aside register goes back, and no arm's handler holds it. -/
def Block.trapExit (b : Block) (t : ThreadRef) : Block :=
  (b.setRegion t.warp (asideReg t.warp) (b.asideOf t.warp)).keepAside t.warp Region.empty none

/-- A thread back from its handler. -/
def Thread.untrapped (th : Thread) (clock : Nat) : Thread :=
  { th with
    trap := false, pc := th.trpc.setWidth 56
    pblk := if th.trctl.getLsbD 0 ∧ th.trpc.setWidth 56 = th.trpcSet then th.pblkSave else none, pblkSave := none
    wskip := th.trctl.getLsbD 1, readyAt := clock, kept := none
    hold := if th.trpc.setWidth 56 = th.trpcSet then th.kept else none
    record := th.record.orElse (fun _ => th.later), later := none }

theorem State.leaveTrap_eq (s : State) (t : ThreadRef) :
    s.leaveTrap t = (s.updBlk t.blk (fun b => b.trapExit t)).updThread t (fun th => th.untrapped s.clock) := by
  have hc (th : Thread) : (bitOf th.trctl 0 && th.trpc.setWidth 56 == th.trpcSet) = true ↔
      th.trctl.getLsbD 0 = true ∧ th.trpc.setWidth 56 = th.trpcSet := by simp [bitOf]
  unfold State.leaveTrap
  simp only [hc]
  rfl

/-- The block after RFT. -/
theorem State.leaveTrap_blk {s : State} {t : ThreadRef} {b : Block} (hb : s.blk? t.blk = some b) :
    (s.leaveTrap t).blk? t.blk = some ((b.trapExit t).updThread t.warp t.armE (fun th => th.untrapped s.clock)) := by
  rw [State.leaveTrap_eq, State.updThread, State.blk?_updBlk_self, State.blk?_updBlk_self, hb]
  rfl

theorem Block.thread?_trapExit (b : Block) (t : ThreadRef) (n : Nat) (armE : Bool) :
    (b.trapExit t).thread? n armE = b.thread? n armE := by
  rw [Block.trapExit, Block.thread?_keepAside, Block.thread?_setRegion]

theorem Block.region_trapExit {b : Block} {t : ThreadRef} {th : Thread} (ht : b.thread? t.warp t.armE = some th) :
    (b.trapExit t).region t.warp (asideReg t.warp) = b.asideOf t.warp := by
  rw [Block.trapExit, Block.region_keepAside, Block.region_setRegion ht]

/-- Settles O42: a write at its home leaves the blocks but for the windows of what was sent, so trap entry finds the block as
the fault left it; what it then sets, and what RFT sets, is read back register by register. -/
theorem trapEntryAndReturn : Obligations.TrapEntryAndReturn := by
  unfold Obligations.TrapEntryAndReturn
  refine ⟨fun s t r b th hb ht => ⟨fun htrap hva => ⟨?_, ?_, ?_⟩, State.enterTrap_fatal hb ht, State.takeTrap_at_once r hb⟩,
    fun s t b th hb ht => ⟨?_, ?_, ?_⟩⟩
  · obtain ⟨y, hu, he⟩ := State.enterTrap_blk (r := r) hb ht htrap hva
    obtain ⟨w, hx⟩ := Block.thread?_of_unsent hu ht
    refine ⟨_, by rw [State.thread?, he, Option.bind_some, Block.thread?_trapEntry hx], ?_⟩
    have hredo : (th.popped.map (·.1)).orElse (fun _ => ({ th with sentWin := w } : Thread).redo) = _ := th.redo_popped
    rw [hredo]
    rfl
  · exact fun k hk _ hr hs => State.enterTrap_mem hb ht htrap hva hk hr hs
  · obtain ⟨y, hu, he⟩ := State.enterTrap_blk (r := r) hb ht htrap hva
    obtain ⟨w, hx⟩ := Block.thread?_of_unsent hu ht
    obtain ⟨hreg, haside⟩ := Block.regions_trapEntry hx th r.code b.desc.trapva s.clock
    rw [Block.region_of_unsent hu] at haside
    refine ⟨_, he, hreg.trans (by rw [trapRegion, trapRegion, Block.frameVa_of_unsent hu]), ?_⟩
    by_cases h : t.warp = 32
    · rw [if_pos h]
      rw [h] at haside
      exact haside
    · rw [if_neg h]
      intro w hw
      rw [Block.asideOf_eq h hw, asideReg, if_neg h] at haside
      exact haside
  · refine ⟨th.untrapped s.clock, ?_, rfl⟩
    rw [State.thread?, State.leaveTrap_blk hb, Option.bind_some, Block.thread?_updThread, Block.thread?_trapExit, ht,
      Option.map_some]
  · exact ⟨_, State.leaveTrap_blk hb, by rw [Block.region_updThread]; exact Block.region_trapExit ht⟩
  · exact ⟨rfl, rfl, rfl, rfl, rfl⟩

end Sys2Proof.Machine

/-!
Rounding (O12): the sizes of a format's finite codes in their order, which of two neighbours a rounding mode picks, and that
`quantize` and `Fmt.round` pick so.
-/
namespace Sys2Proof.Machine

/-! ## Finite codes and their sizes (03 R61) -/

/-- The binade of a magnitude code, 0 for the subnormals and for the lowest normals, which have one quantum. -/
def Fmt.binade (f : Fmt) (c : Nat) : Nat := c / 2 ^ f.m - 1
/-- The integer that a magnitude code holds at the quantum of its binade. -/
def Fmt.codeMant (f : Fmt) (c : Nat) : Nat := c - f.binade c * 2 ^ f.m
/-- The exponent of that quantum. -/
def Fmt.codeExp (f : Fmt) (c : Nat) : Int := f.binade c + 1 - f.bias - f.m
/-- The size of a magnitude code. -/
def Fmt.size (f : Fmt) (c : Nat) : ℚ := f.codeMant c * (2 : ℚ) ^ f.codeExp c

/-- In binade `k` the sizes are the multiples of its quantum, up to the first of the next binade. -/
theorem Fmt.size_binade (f : Fmt) {k s : Nat} (hs : s ≤ 2 * 2 ^ f.m) (hk : k = 0 ∨ 2 ^ f.m ≤ s) :
    f.size (k * 2 ^ f.m + s) = s * (2 : ℚ) ^ ((k : Int) + 1 - f.bias - f.m) := by
  have hB : 0 < 2 ^ f.m := Nat.two_pow_pos _
  rcases hs.lt_or_eq with hlt | rfl
  · have hb : f.binade (k * 2 ^ f.m + s) = k := by
      rw [binade, Nat.add_comm, Nat.add_mul_div_right _ _ hB]
      rcases hk with rfl | hk
      · have : s / 2 ^ f.m < 2 := Nat.div_lt_of_lt_mul (by omega)
        omega
      · have : s / 2 ^ f.m = 1 := Nat.div_eq_of_lt_le (by omega) (by omega)
        omega
    simp [size, codeMant, codeExp, hb]
  · have hb : f.binade (k * 2 ^ f.m + 2 * 2 ^ f.m) = k + 1 := by
      rw [binade, ← Nat.add_mul, Nat.mul_div_cancel _ hB]
      omega
    have hm : f.codeMant (k * 2 ^ f.m + 2 * 2 ^ f.m) = 2 ^ f.m := by
      rw [codeMant, hb, Nat.add_mul]
      omega
    have he : f.codeExp (k * 2 ^ f.m + 2 * 2 ^ f.m) = ((k : Int) + 1 - f.bias - f.m) + 1 := by
      rw [codeExp, hb]
      push_cast
      ring
    rw [size, hm, he, zpow_add_one₀ two_ne_zero]
    push_cast
    ring

theorem Fmt.code_in_binade (f : Fmt) (c : Nat) : c = f.binade c * 2 ^ f.m + f.codeMant c ∧ f.codeMant c < 2 * 2 ^ f.m ∧
    (f.binade c = 0 ∨ 2 ^ f.m ≤ f.codeMant c) := by
  have hB : 0 < 2 ^ f.m := Nat.two_pow_pos _
  have hc := Nat.div_add_mod' c (2 ^ f.m)
  have hr := Nat.mod_lt c hB
  unfold codeMant binade
  rcases Nat.eq_zero_or_eq_succ_pred (c / 2 ^ f.m) with h | h
  · rw [h] at hc ⊢
    omega
  · rw [h, Nat.succ_mul] at hc
    rw [h, Nat.succ_sub_one]
    omega

theorem Fmt.size_strictMono (f : Fmt) : StrictMono f.size := by
  refine strictMono_nat_of_lt_succ fun c => ?_
  obtain ⟨hc, hlt, hk⟩ := f.code_in_binade c
  rw [hc, Nat.add_assoc, f.size_binade (by omega) hk, f.size_binade (by omega) (by omega)]
  exact mul_lt_mul_of_pos_right (by push_cast; linarith) (by positivity)

@[simp] theorem Fmt.size_zero (f : Fmt) : f.size 0 = 0 := by simp [size, codeMant]

theorem Fmt.size_nonneg (f : Fmt) (c : Nat) : 0 ≤ f.size c := by
  rw [← f.size_zero]
  exact f.size_strictMono.monotone c.zero_le

/-! ## The codes of a format (03 R61, R62) -/

theorem Fmt.pow_width (f : Fmt) : 2 ^ f.width = 2 * 2 ^ (f.e + f.m) := by rw [width, Nat.add_assoc, pow_add, pow_one]

theorem Fmt.signed_lt (f : Fmt) (n : Bool) {c : Nat} (h : c < 2 ^ (f.e + f.m)) : f.signed n c < 2 ^ f.width := by
  rw [pow_width, signed]
  split <;> omega

theorem Fmt.signed_parity {f : Fmt} (n : Bool) (c : Nat) (h : 0 < f.e + f.m) : f.signed n c % 2 = c % 2 := by
  have : 2 ∣ 2 ^ (f.e + f.m) := dvd_pow_self 2 h.ne'
  rw [signed]
  split <;> omega

theorem Fmt.eq_signed (f : Fmt) {y : Nat} (h : y < 2 ^ f.width) : ∃ n, ∃ c < 2 ^ (f.e + f.m), y = f.signed n c := by
  rw [pow_width] at h
  by_cases hy : y < 2 ^ (f.e + f.m)
  · exact ⟨false, y, hy, by simp [signed]⟩
  · exact ⟨true, y - 2 ^ (f.e + f.m), by omega, by simp [signed]; omega⟩

theorem Fmt.maxCode_lt (f : Fmt) : f.maxCode < 2 ^ (f.e + f.m) := by
  have h := Nat.two_pow_pos (f.e + f.m)
  have hle : (2 ^ f.e - 1) * 2 ^ f.m ≤ 2 ^ (f.e + f.m) := by
    rw [pow_add]
    exact Nat.mul_le_mul_right _ (Nat.sub_le _ _)
  unfold maxCode
  split_ifs <;> omega

/-- The three fields of a signed code. -/
theorem Fmt.fields_signed (f : Fmt) (n : Bool) {c : Nat} (h : c < 2 ^ (f.e + f.m)) :
    (f.signed n c).testBit (f.e + f.m) = n ∧ f.signed n c / 2 ^ f.m % 2 ^ f.e = c / 2 ^ f.m ∧
      f.signed n c % 2 ^ f.m = c % 2 ^ f.m := by
  have hdiv : c / 2 ^ f.m < 2 ^ f.e := Nat.div_lt_of_lt_mul (by rwa [← pow_add, Nat.add_comm])
  cases n
  · simp [signed, Nat.testBit_lt_two_pow h, Nat.mod_eq_of_lt hdiv]
  · refine ⟨?_, ?_, ?_⟩
    · rw [signed, if_pos rfl, Nat.add_comm, Nat.testBit_two_pow_add_eq, Nat.testBit_lt_two_pow h]
      rfl
    · rw [signed, if_pos rfl, pow_add, Nat.add_mul_div_right _ _ (Nat.two_pow_pos _), Nat.add_mod_right, Nat.mod_eq_of_lt hdiv]
    · rw [signed, if_pos rfl, pow_add, Nat.add_mul_mod_self_right]

/-- Whether a magnitude code is kept for an infinity or a NaN (R61, R62). -/
def Fmt.special (f : Fmt) (c : Nat) : Prop :=
  c / 2 ^ f.m = 2 ^ f.e - 1 ∧ (f.ieee = true ∨ f.e4m3 = true ∧ c % 2 ^ f.m = 2 ^ f.m - 1)

theorem Fmt.special_iff {f : Fmt} (he : 0 < f.e) {c : Nat} (h : c < 2 ^ (f.e + f.m)) : f.special c ↔ f.maxCode < c := by
  have hB : 0 < 2 ^ f.m := Nat.two_pow_pos _
  have hE : 2 ≤ 2 ^ f.e := Nat.le_self_pow he.ne' 2
  have hdiv : c / 2 ^ f.m < 2 ^ f.e := Nat.div_lt_of_lt_mul (by rwa [← pow_add, Nat.add_comm])
  have htop : 1 * 2 ^ f.m ≤ (2 ^ f.e - 1) * 2 ^ f.m := Nat.mul_le_mul_right _ (by omega)
  have hc := Nat.div_add_mod' c (2 ^ f.m)
  have hr := Nat.mod_lt c hB
  have hp : 2 ^ (f.e + f.m) = (2 ^ f.e - 1) * 2 ^ f.m + 2 ^ f.m := by
    rw [pow_add, ← Nat.succ_mul, Nat.succ_eq_add_one, Nat.sub_add_cancel (by omega)]
  have hlow : c / 2 ^ f.m ≠ 2 ^ f.e - 1 → c < (2 ^ f.e - 1) * 2 ^ f.m := fun hne =>
    (Nat.div_lt_iff_lt_mul hB).1 (by omega)
  unfold special maxCode
  by_cases hx : c / 2 ^ f.m = 2 ^ f.e - 1
  · rw [hx] at hc
    generalize (2 ^ f.e - 1) * 2 ^ f.m = top, 2 ^ (f.e + f.m) = all at *
    cases f.ieee <;> cases f.e4m3 <;> simp [hx] <;> omega
  · have := hlow hx
    generalize (2 ^ f.e - 1) * 2 ^ f.m = top, 2 ^ (f.e + f.m) = all at *
    cases f.ieee <;> cases f.e4m3 <;> simp [hx] <;> omega

/-- A code up to the largest finite one stands for its size. -/
theorem Fmt.val_signed {f : Fmt} (hpos : 0 < f.e) (n : Bool) {c : Nat} (h : c ≤ f.maxCode) :
    f.val (f.signed n c) = .fin n (f.codeMant c) (f.codeExp c) := by
  have hlt := h.trans_lt f.maxCode_lt
  have hs : ¬ f.special c := fun hs => absurd ((special_iff hpos hlt).1 hs) (by omega)
  obtain ⟨hn, he, hm⟩ := f.fields_signed n hlt
  have hc := Nat.div_add_mod' c (2 ^ f.m)
  simp only [special, not_and_or, not_or] at hs
  have h1 : ¬ ((f.ieee && c / 2 ^ f.m == 2 ^ f.e - 1) = true) := by simp; tauto
  have h2 : ¬ ((f.e4m3 && c / 2 ^ f.m == 2 ^ f.e - 1 && c % 2 ^ f.m == 2 ^ f.m - 1) = true) := by simp; tauto
  simp only [val, hn, he, hm, if_neg h1, if_neg h2]
  have hB : 0 < 2 ^ f.m := Nat.two_pow_pos _
  by_cases h0 : c / 2 ^ f.m = 0
  · have : c % 2 ^ f.m = c := by rw [h0] at hc; omega
    simp [h0, this, codeMant, codeExp, binade]
  · obtain ⟨k, hk⟩ := Nat.exists_eq_succ_of_ne_zero h0
    rw [hk, Nat.succ_mul] at hc
    have : 2 ^ f.m + c % 2 ^ f.m = c - k * 2 ^ f.m := by omega
    simp [hk, codeMant, codeExp, binade, this]

/-- The other codes stand for no finite value. -/
theorem Fmt.val_special {f : Fmt} (hpos : 0 < f.e) (n : Bool) {c : Nat} (h : f.maxCode < c) (hlt : c < 2 ^ (f.e + f.m))
    (k : Bool) (p : Nat) (g : Int) : f.val (f.signed n c) ≠ .fin k p g := by
  obtain ⟨he, hs⟩ := (special_iff hpos hlt).2 h
  obtain ⟨-, hE, hM⟩ := f.fields_signed n hlt
  rcases hs with hi | ⟨h4, hm⟩
  · simp only [val, hE, hi, he, beq_self_eq_true, Bool.and_self, if_true]
    split_ifs <;> simp
  · simp only [val, hE, hM, he, h4, hm, beq_self_eq_true, Bool.and_self, Bool.and_true, if_true]
    split_ifs <;> simp

/-- Every finite code is the signed code of a size. -/
theorem Fmt.of_val_fin {f : Fmt} (hpos : 0 < f.e) {y p : Nat} {n : Bool} {g : Int} (hy : y < 2 ^ f.width)
    (h : f.val y = .fin n p g) : ∃ c, p = f.codeMant c ∧ g = f.codeExp c := by
  obtain ⟨k, c, hc, rfl⟩ := f.eq_signed hy
  by_cases hm : c ≤ f.maxCode
  · rw [val_signed hpos k hm] at h
    cases h
    exact ⟨c, rfl, rfl⟩
  · exact absurd h (val_special hpos k (by omega) hc n p g)

/-! ## Which of two neighbours a rounding mode picks (03 R65) -/

/-- Whether a size `x` between `a` and `b` goes up to `b`; `odd` says of `a` that its last bit is set. -/
def GoesUp (rm : Nat) (neg : Bool) (x a b : ℚ) (odd : Prop) : Prop :=
  match rm with
  | 0 => a + b < 2 * x ∨ a + b = 2 * x ∧ odd
  | 1 => False
  | 2 => neg = false
  | _ => neg = true

/-- Of the sizes `g`, in their order, `g r` is the one that `x` is rounded to: `x` itself, or one of its two neighbours. -/
inductive Picks (g : Nat → ℚ) (rm : Nat) (neg : Bool) (x : ℚ) : Nat → Prop
  | exact {c : Nat} (h : g c = x) : Picks g rm neg x c
  | up {c : Nat} (ha : g c < x) (hb : x < g (c + 1)) (h : GoesUp rm neg x (g c) (g (c + 1)) (c % 2 = 1)) :
      Picks g rm neg x (c + 1)
  | down {c : Nat} (ha : g c < x) (hb : x < g (c + 1)) (h : ¬ GoesUp rm neg x (g c) (g (c + 1)) (c % 2 = 1)) :
      Picks g rm neg x c

section
variable {g : Nat → ℚ} {rm : Nat} {neg : Bool} {x : ℚ} {c r : Nat}

/-- Every size of an increasing sequence lies on one side of the two neighbours. -/
theorem le_or_succ_le (hg : StrictMono g) (c d : Nat) : g d ≤ g c ∨ g (c + 1) ≤ g d := by
  rcases Nat.lt_or_ge c d with h | h
  · exact .inr (hg.monotone h)
  · exact .inl (hg.monotone h)

/-- RNE: no size is nearer, and of two nearest ones it is the even. -/
theorem Picks.nearest (hg : StrictMono g) (h : Picks g 0 neg x r) (d : Nat) :
    |g r - x| ≤ |g d - x| ∧ (|g r - x| = |g d - x| → g d ≠ g r → r % 2 = 0) := by
  cases h with
  | exact h =>
    rw [h, sub_self, abs_zero]
    exact ⟨abs_nonneg _, fun he hn => absurd (sub_eq_zero.1 (abs_eq_zero.1 he.symm)) hn⟩
  | @up c ha hb h =>
    rw [abs_of_pos (sub_pos.2 hb)]
    rcases le_or_succ_le hg c d with hd | hd
    · rw [abs_of_neg (by linarith)]
      rcases h with h | ⟨h, hodd⟩
      · exact ⟨by linarith, fun he => absurd he (by linarith)⟩
      · exact ⟨by linarith, fun _ _ => by omega⟩
    · rw [abs_of_pos (by linarith)]
      exact ⟨by linarith, fun he hn => absurd (by linarith : g d = g (c + 1)) hn⟩
  | down ha hb h =>
    rw [abs_of_neg (sub_neg.2 ha)]
    have hmid : 2 * x ≤ g r + g (r + 1) := not_lt.1 fun hlt => h (.inl hlt)
    rcases le_or_succ_le hg r d with hd | hd
    · rw [abs_of_neg (by linarith)]
      exact ⟨by linarith, fun he hn => absurd (by linarith : g d = g r) hn⟩
    · rw [abs_of_pos (by linarith)]
      refine ⟨by linarith, fun he _ => ?_⟩
      by_contra hodd
      exact h (.inr ⟨by linarith, by omega⟩)

/-- Where a mode never goes up, the greatest size that is not above. -/
theorem Picks.below (hg : StrictMono g) (h : Picks g rm neg x r) (hn : ∀ a b o, ¬ GoesUp rm neg x a b o) :
    g r ≤ x ∧ ∀ d, g d ≤ x → g d ≤ g r := by
  cases h with
  | exact h => exact ⟨h.le, fun d hd => h ▸ hd⟩
  | up ha hb h => exact absurd h (hn _ _ _)
  | down ha hb h =>
    exact ⟨ha.le, fun d hd => (le_or_succ_le hg r d).resolve_right fun h => absurd (h.trans hd) (not_le.2 hb)⟩

/-- Where it always does, the least size that is not below. -/
theorem Picks.above (hg : StrictMono g) (h : Picks g rm neg x r) (hu : ∀ a b o, GoesUp rm neg x a b o) :
    x ≤ g r ∧ ∀ d, x ≤ g d → g r ≤ g d := by
  cases h with
  | exact h => exact ⟨h.ge, fun d hd => h ▸ hd⟩
  | @up c ha hb h =>
    exact ⟨hb.le, fun d hd => (le_or_succ_le hg c d).resolve_left fun h => absurd (hd.trans h) (not_le.2 ha)⟩
  | down ha hb h => exact absurd (hu _ _ _) h

/-- A pick among the multiples of a quantum is one among sizes that agree with them from `k` on as far as they are needed. -/
theorem Picks.shift {u : ℚ} {k s : Nat} (h : Picks (fun n => n * u) rm neg x s) (hu : 0 < u) (hk : 2 ∣ k) {lo hi : Nat}
    (hlo : lo * u ≤ x) (hhi : x < hi * u) (hg : ∀ n, lo ≤ n → n ≤ hi → g (k + n) = n * u) :
    Picks g rm neg x (k + s) ∧ g (k + s) = s * u := by
  have hle : ∀ n : Nat, x < n * u → lo < n := fun n hn => by
    exact_mod_cast lt_of_mul_lt_mul_right (hlo.trans_lt hn) hu.le
  have hlt : ∀ n : Nat, n * u ≤ x → n < hi := fun n hn => by
    exact_mod_cast lt_of_mul_lt_mul_right (hn.trans_lt hhi) hu.le
  have hpar : ∀ n, (k + n) % 2 = 1 ↔ n % 2 = 1 := by omega
  cases h with
  | exact h =>
    have hs : lo ≤ s := by exact_mod_cast le_of_mul_le_mul_right (hlo.trans h.ge) hu
    have e1 := hg s hs (hlt s h.le).le
    exact ⟨.exact (e1.trans h), e1⟩
  | @up c ha hb h =>
    have e1 := hg c (by have := hle _ hb; omega) (hlt c ha.le).le
    have e2 := hg (c + 1) (hle _ hb).le (hlt c ha.le)
    refine ⟨.up (c := k + c) (e1 ▸ ha) (by rw [Nat.add_assoc, e2]; exact hb) ?_, e2⟩
    rw [Nat.add_assoc, e1, e2, hpar]
    exact h
  | down ha hb h =>
    have e1 := hg s (by have := hle _ hb; omega) (hlt s ha.le).le
    have e2 := hg (s + 1) (hle _ hb).le (hlt s ha.le)
    refine ⟨.down (e1 ▸ ha) (by rw [Nat.add_assoc, e2]; exact hb) ?_, e1⟩
    rw [Nat.add_assoc, e1, e2, hpar]
    exact h

end

/-! ## `quantize` picks a multiple of its quantum -/

/-- The model's test for rounding up, on a size that is cut at bit `r` of its integer. -/
theorem roundsUp_iff {rm : Nat} {neg : Bool} {lo rem r : Nat} {u x : ℚ} (hu : 0 < u) (hrem : rem ≠ 0)
    (hx : x = (2 ^ r * lo + rem : Nat) * u) :
    roundsUp rm neg lo rem r = true ↔ GoesUp rm neg x (lo * (2 ^ r * u)) ((lo + 1 : Nat) * (2 ^ r * u)) (lo % 2 = 1) := by
  have hmid : (lo * (2 ^ r * u) + (lo + 1 : Nat) * (2 ^ r * u) : ℚ) = (2 * (2 ^ r * lo) + 2 ^ r : Nat) * u := by
    push_cast
    ring
  have hx2 : 2 * x = (2 * (2 ^ r * lo) + 2 * rem : Nat) * u := by
    rw [hx]
    push_cast
    ring
  match rm with
  | 0 =>
    simp only [roundsUp, if_neg hrem, GoesUp, hmid, hx2, mul_lt_mul_iff_left₀ hu, mul_left_inj' hu.ne', Nat.cast_lt, Nat.cast_inj,
      Bool.or_eq_true, Bool.and_eq_true, decide_eq_true_eq, beq_iff_eq]
    omega
  | 1 => simp [roundsUp, GoesUp]
  | 2 => simp [roundsUp, GoesUp, hrem]
  | n + 3 => simp [roundsUp, GoesUp, hrem]

/-- What is cut off goes to one of the two multiples beside it, and is none exactly where the multiple below is the number. -/
theorem cut_picks (rm : Nat) (neg : Bool) {lo rem r : Nat} {u : ℚ} (hu : 0 < u) (hr : rem < 2 ^ r) :
    Picks (fun n => n * (2 ^ r * u)) rm neg ((2 ^ r * lo + rem : Nat) * u) (if roundsUp rm neg lo rem r then lo + 1 else lo) ∧
      (rem = 0 ↔ ((if roundsUp rm neg lo rem r then lo + 1 else lo : Nat) : ℚ) * (2 ^ r * u) = (2 ^ r * lo + rem : Nat) * u) := by
  have hlo : (lo : ℚ) * (2 ^ r * u) = (2 ^ r * lo : Nat) * u := by push_cast; ring
  have hhi : ((lo + 1 : Nat) : ℚ) * (2 ^ r * u) = (2 ^ r * lo + 2 ^ r : Nat) * u := by push_cast; ring
  by_cases h0 : rem = 0
  · subst h0
    have : roundsUp rm neg lo 0 r = false := by simp [roundsUp]
    rw [this]
    exact ⟨.exact (by simpa using hlo), by simpa using hlo⟩
  · have ha : (lo : ℚ) * (2 ^ r * u) < (2 ^ r * lo + rem : Nat) * u := by
      rw [hlo, mul_lt_mul_iff_left₀ hu]
      exact_mod_cast (by omega)
    have hb : ((2 ^ r * lo + rem : Nat) : ℚ) * u < (lo + 1 : Nat) * (2 ^ r * u) := by
      rw [hhi, mul_lt_mul_iff_left₀ hu]
      exact_mod_cast (by omega)
    have hup := roundsUp_iff (rm := rm) (neg := neg) (lo := lo) (r := r) hu h0 rfl
    by_cases h : roundsUp rm neg lo rem r = true
    · rw [if_pos h]
      exact ⟨.up ha hb (hup.1 h), by simp only [h0, hb.ne']⟩
    · rw [if_neg h]
      exact ⟨.down ha hb fun hg => h (hup.2 hg), by simp only [h0, ha.ne]⟩

theorem quantize_picks (rm : Nat) (neg : Bool) (m : Nat) (e q : Int) :
    Picks (fun n => n * (2 : ℚ) ^ q) rm neg (m * (2 : ℚ) ^ e) (quantize rm neg m e q).1 ∧
      ((quantize rm neg m e q).2 = false ↔ ((quantize rm neg m e q).1 : ℚ) * (2 : ℚ) ^ q = m * (2 : ℚ) ^ e) := by
  by_cases hq : q ≤ e
  · have he : ((m <<< (e - q).toNat : Nat) : ℚ) * (2 : ℚ) ^ q = m * (2 : ℚ) ^ e := by
      rw [Nat.shiftLeft_eq, Nat.cast_mul, Nat.cast_pow, Nat.cast_ofNat, mul_assoc, ← zpow_natCast, ← zpow_add₀ two_ne_zero,
        show ((e - q).toNat : Int) + q = e by omega]
    simp only [quantize, if_pos hq]
    exact ⟨.exact he, by simp [he]⟩
  · have hpow : (2 : ℚ) ^ q = 2 ^ (q - e).toNat * 2 ^ e := by
      rw [← zpow_natCast, ← zpow_add₀ two_ne_zero, show ((q - e).toNat : Int) + e = q by omega]
    obtain ⟨hp, hx⟩ := cut_picks rm neg (lo := m >>> (q - e).toNat) (u := 2 ^ e) (by positivity)
      (Nat.mod_lt m (Nat.two_pow_pos (q - e).toNat))
    rw [Nat.shiftRight_eq_div_pow, Nat.div_add_mod] at hp hx
    simp only [quantize, if_neg hq, hpow, Nat.shiftRight_eq_div_pow, bne_eq_false_iff_eq]
    exact ⟨hp, hx⟩

/-! ## `Fmt.round` picks a code -/

/-- The size of a non-zero dyadic number lies in its binade. -/
theorem log2_bounds {m : Nat} (hm : 0 < m) (e : Int) :
    (2 : ℚ) ^ ((Nat.log2 m : Int) + e) ≤ m * 2 ^ e ∧ (m : ℚ) * 2 ^ e < 2 ^ ((Nat.log2 m : Int) + e + 1) := by
  have hu : (0 : ℚ) < 2 ^ e := by positivity
  constructor
  · rw [zpow_add₀ two_ne_zero, zpow_natCast]
    exact mul_le_mul_of_nonneg_right (by exact_mod_cast Nat.log2_self_le hm.ne') hu.le
  · rw [show (Nat.log2 m : Int) + e + 1 = ((Nat.log2 m + 1 : Nat) : Int) + e by push_cast; ring, zpow_add₀ two_ne_zero,
      zpow_natCast]
    exact mul_lt_mul_of_pos_right (by exact_mod_cast Nat.lt_log2_self) hu

/-- The exponent of the last bit that rounding keeps. -/
def Fmt.quantum (f : Fmt) (m : Nat) (e : Int) : Int := max (Nat.log2 m + e) (1 - f.bias) - f.m

/-- The magnitude code that rounding gives where the exponents have no upper end. -/
def Fmt.roundCode (f : Fmt) (rm : Nat) (neg : Bool) (m : Nat) (e : Int) : Nat :=
  ((f.quantum m e + f.m + f.bias) * 2 ^ f.m + (quantize rm neg m e (f.quantum m e)).1 - 2 ^ f.m : Int).toNat

/-- What an overflow leaves (R66). -/
def Fmt.overflow (f : Fmt) (rm : Nat) (sat neg : Bool) : Nat :=
  if (!f.ieee && !f.e4m3) || sat || rm == 1 || (rm == 2 && neg) || (2 < rm && !neg) then f.signed neg f.maxCode
  else if f.ieee then f.signed neg f.infCode else f.nanCode

theorem Fmt.round_overflow {f : Fmt} {rm m : Nat} {sat neg : Bool} {e : Int} (hm : 0 < m)
    (h : f.maxCode < f.roundCode rm neg m e) : f.round rm sat neg m e = (f.overflow rm sat neg, 5) := by
  unfold round
  simp only [if_neg hm.ne']
  refine (if_pos h).trans (Prod.ext ?_ rfl)
  simp only [overflow, Bool.or_eq_true, ite_or]
  match rm, neg with
  | 0, _ => rfl
  | 1, _ => rfl
  | 2, true => rfl
  | 2, false => rfl
  | n + 3, true => simp
  | n + 3, false => simp

theorem Fmt.round_fits {f : Fmt} {rm m : Nat} {sat neg : Bool} {e : Int} (hm : 0 < m)
    (h : f.roundCode rm neg m e ≤ f.maxCode) : (f.round rm sat neg m e).1 = f.signed neg (f.roundCode rm neg m e) ∧
      (f.round rm sat neg m e).2 &&& 4 = 0 ∧
      ((f.round rm sat neg m e).2 &&& 1 = 0 ↔ (quantize rm neg m e (f.quantum m e)).2 = false) := by
  have hle := h.not_gt
  unfold roundCode quantum at hle
  simp only [round, if_neg hm.ne', if_neg hle, quantum]
  refine ⟨rfl, ?_, ?_⟩ <;> split_ifs with hx <;> simp [hx, flNX, flUF]

/-- The code that a mode picks among the sizes of the format, were there no largest one. -/
theorem Fmt.roundCode_picks {f : Fmt} (hf : 0 < f.m) {m : Nat} (hm : 0 < m) (rm : Nat) (neg : Bool) (e : Int) :
    Picks f.size rm neg (m * 2 ^ e) (f.roundCode rm neg m e) ∧
      ((quantize rm neg m e (f.quantum m e)).2 = false ↔ f.size (f.roundCode rm neg m e) = m * 2 ^ e) := by
  obtain ⟨hlow, hhigh⟩ := log2_bounds hm e
  obtain ⟨hpick, hnx⟩ := quantize_picks rm neg m e (f.quantum m e)
  -- the binade that the quantum belongs to
  obtain ⟨k, hk⟩ : ∃ k : Nat, max ((Nat.log2 m : Int) + e) (1 - f.bias) = k + 1 - f.bias :=
    ⟨(max ((Nat.log2 m : Int) + e) (1 - f.bias) + f.bias - 1).toNat, by omega⟩
  have hq : f.quantum m e = k + 1 - f.bias - f.m := by rw [quantum, hk]
  have hcode : f.roundCode rm neg m e = k * 2 ^ f.m + (quantize rm neg m e (f.quantum m e)).1 := by
    rw [roundCode, ← Int.toNat_natCast (k * 2 ^ f.m + _), hq]
    congr 1
    push_cast
    ring
  have hu : (0 : ℚ) < 2 ^ f.quantum m e := by positivity
  have hpow : ∀ n : Nat, ((2 ^ n : Nat) : ℚ) * 2 ^ f.quantum m e = 2 ^ ((n : Int) + f.quantum m e) := fun n => by
    rw [zpow_add₀ two_ne_zero, zpow_natCast, Nat.cast_pow, Nat.cast_ofNat]
  have hhi : (m : ℚ) * 2 ^ e < (2 * 2 ^ f.m : Nat) * 2 ^ f.quantum m e := by
    rw [← pow_succ', hpow]
    exact hhigh.trans_le (zpow_le_zpow_right₀ one_le_two (by rw [quantum]; push_cast; omega))
  obtain ⟨lo, hlok, hlo⟩ : ∃ lo : Nat, (k = 0 ∨ 2 ^ f.m ≤ lo) ∧ (lo : ℚ) * 2 ^ f.quantum m e ≤ m * 2 ^ e := by
    by_cases h0 : k = 0
    · exact ⟨0, .inl h0, by rw [Nat.cast_zero, zero_mul]; positivity⟩
    · refine ⟨2 ^ f.m, .inr le_rfl, ?_⟩
      rw [hpow]
      exact (zpow_le_zpow_right₀ one_le_two (by rw [quantum]; omega)).trans hlow
  have hg : ∀ n, lo ≤ n → n ≤ 2 * 2 ^ f.m → f.size (k * 2 ^ f.m + n) = n * 2 ^ f.quantum m e := fun n h1 h2 => by
    rw [f.size_binade h2 (hlok.imp_right (·.trans h1)), hq]
  obtain ⟨hp, hs⟩ := hpick.shift hu (Dvd.dvd.mul_left (dvd_pow_self 2 hf.ne') k) hlo hhi hg
  rw [hcode]
  exact ⟨hp, hs ▸ hnx⟩

/-! ## Signed sizes -/

/-- A size with its sign. -/
def signedSize (neg : Bool) (x : ℚ) : ℚ := if neg then -x else x

theorem signedSize_mul (neg : Bool) (m : Nat) (e : Int) :
    (if neg then -1 else 1) * (m : ℚ) * (2 : ℚ) ^ e = signedSize neg (m * (2 : ℚ) ^ e) := by
  cases neg <;> simp [signedSize]

theorem signedSize_inj (neg : Bool) {x y : ℚ} : signedSize neg x = signedSize neg y ↔ x = y := by
  cases neg <;> simp [signedSize]

theorem abs_signedSize (neg : Bool) {x : ℚ} (h : 0 ≤ x) : |signedSize neg x| = x := by
  cases neg <;> simp [signedSize, abs_of_nonneg h]

theorem abs_signedSize_sub (neg : Bool) (x y : ℚ) : |signedSize neg x - signedSize neg y| = |x - y| := by
  cases neg
  · rfl
  · simp only [signedSize, if_pos]
    rw [neg_sub_neg, abs_sub_comm]

/-- A size of the other sign is further away, but for 0. -/
theorem abs_sub_le_signedSize (n neg : Bool) {s x : ℚ} (hs : 0 ≤ s) (hx : 0 < x) :
    |s - x| ≤ |signedSize n s - signedSize neg x| ∧
      (|s - x| = |signedSize n s - signedSize neg x| → signedSize n s = signedSize neg s) := by
  by_cases hn : n = neg
  · subst hn
    rw [abs_signedSize_sub]
    exact ⟨le_rfl, fun _ => rfl⟩
  · have hother : |signedSize n s - signedSize neg x| = s + x := by
      obtain rfl : n = !neg := Bool.eq_not_of_ne hn
      cases neg
      · simp only [signedSize, Bool.not_false, if_pos]
        rw [if_neg Bool.false_ne_true, abs_of_neg (by linarith)]
        ring
      · simp only [signedSize, Bool.not_true, if_pos]
        rw [if_neg Bool.false_ne_true, abs_of_pos (by linarith)]
        ring
    rw [hother]
    refine ⟨abs_sub_le_iff.2 ⟨by linarith, by linarith⟩, fun he => ?_⟩
    have h0 : s = 0 := by
      rcases abs_cases (s - x) with ⟨ha, -⟩ | ⟨ha, -⟩ <;> linarith
    cases n <;> cases neg <;> simp [signedSize, h0]

/-! ## Rounding, sign and size -/

section
variable {g : Nat → ℚ} {neg : Bool} {x : ℚ} {r : Nat} (hg : StrictMono g) (hg0 : ∀ d, 0 ≤ g d) (hx : 0 < x)
include hg hg0 hx

theorem Picks.signed_nearest (h : Picks g 0 neg x r) (n : Bool) (d : Nat) :
    |signedSize neg (g r) - signedSize neg x| ≤ |signedSize n (g d) - signedSize neg x| ∧
      (|signedSize neg (g r) - signedSize neg x| = |signedSize n (g d) - signedSize neg x| →
        signedSize n (g d) ≠ signedSize neg (g r) → r % 2 = 0) := by
  obtain ⟨hle, htie⟩ := h.nearest hg d
  obtain ⟨hfar, hsame⟩ := abs_sub_le_signedSize n neg (hg0 d) hx
  rw [abs_signedSize_sub]
  refine ⟨hle.trans hfar, fun he hne => htie (le_antisymm hle (he ▸ hfar)) fun hd => hne ?_⟩
  rw [hsame (le_antisymm hfar (he ▸ hle)), hd]

theorem Picks.signed_up (h : Picks g 2 neg x r) : signedSize neg x ≤ signedSize neg (g r) ∧
    ∀ (n : Bool) (d : Nat), signedSize neg x ≤ signedSize n (g d) → signedSize neg (g r) ≤ signedSize n (g d) := by
  cases neg with
  | false =>
    obtain ⟨hle, hleast⟩ := h.above hg fun _ _ _ => rfl
    refine ⟨hle, fun n d hd => ?_⟩
    cases n with
    | false => exact hleast d hd
    | true => exact absurd (hx.trans_le hd) (not_lt.2 (neg_nonpos.2 (hg0 d)))
  | true =>
    obtain ⟨hle, hmost⟩ := h.below hg fun _ _ _ => Bool.noConfusion
    refine ⟨neg_le_neg hle, fun n d hd => ?_⟩
    cases n with
    | false => exact (neg_nonpos.2 (hg0 r)).trans (hg0 d)
    | true => exact neg_le_neg (hmost d (neg_le_neg_iff.1 hd))

theorem Picks.signed_down (h : Picks g 3 neg x r) : signedSize neg (g r) ≤ signedSize neg x ∧
    ∀ (n : Bool) (d : Nat), signedSize n (g d) ≤ signedSize neg x → signedSize n (g d) ≤ signedSize neg (g r) := by
  cases neg with
  | true =>
    obtain ⟨hle, hleast⟩ := h.above hg fun _ _ _ => rfl
    refine ⟨neg_le_neg hle, fun n d hd => ?_⟩
    cases n with
    | false => exact absurd (hd.trans_lt (neg_neg_of_pos hx)) (not_lt.2 (hg0 d))
    | true => exact neg_le_neg (hleast d (neg_le_neg_iff.1 hd))
  | false =>
    obtain ⟨hle, hmost⟩ := h.below hg fun _ _ _ => Bool.noConfusion
    refine ⟨hle, fun n d hd => ?_⟩
    cases n with
    | false => exact hmost d hd
    | true => exact (neg_nonpos.2 (hg0 d)).trans (hg0 r)

end

/-- The formats that the statements about rounding speak of have exponent and fraction bits. -/
theorem fields_pos : ∀ f ∈ [fp32, fp64, fp16, bf16, fpE4M3, fpE5M2, fpE3M2, fpE2M3, fpE2M1], 0 < f.e ∧ 0 < f.m := by
  decide

/-- Settles O12: the code of a rounded value is picked among all codes of the format by the order of their sizes. -/
theorem roundingBrackets : Obligations.RoundingBrackets := by
  intro f hf rm m neg e q v r hrm hm hno
  obtain ⟨he0, hm0⟩ := fields_pos f hf
  have hx : (0 : ℚ) < m * 2 ^ e := by positivity
  obtain ⟨hpick, hnx⟩ := Fmt.roundCode_picks hm0 hm rm neg e
  have hle : f.roundCode rm neg m e ≤ f.maxCode := by
    by_contra hover
    have : r.2 = 5 := by rw [show r = _ from Fmt.round_overflow hm (not_le.1 hover)]
    rw [this] at hno
    exact absurd hno (by decide)
  obtain ⟨hr, -, hflag⟩ := Fmt.round_fits (sat := false) hm hle
  generalize f.roundCode rm neg m e = c at *
  have hr : r.1 = f.signed neg c := hr
  have hqc : ∀ n d, q n (f.codeMant d) (f.codeExp d) = signedSize n (f.size d) := fun n d => signedSize_mul n _ _
  have hv : v = signedSize neg (m * 2 ^ e) := signedSize_mul neg m e
  refine ⟨hr ▸ f.signed_lt neg (hle.trans_lt f.maxCode_lt), _, _, hr ▸ Fmt.val_signed he0 neg hle, ?_⟩
  rw [hqc, hv, signedSize_inj]
  refine ⟨hflag.trans hnx, ?_, ?_, ?_, ?_⟩
  · rintro rfl
    rw [abs_signedSize _ (f.size_nonneg c), abs_signedSize _ hx.le]
    exact (hpick.below f.size_strictMono fun _ _ _ => id).1
  · rintro rfl
    exact (hpick.signed_up f.size_strictMono f.size_nonneg hx).1
  · rintro rfl
    exact (hpick.signed_down f.size_strictMono f.size_nonneg hx).1
  · intro y n my ey hy hval
    obtain ⟨d, rfl, rfl⟩ := Fmt.of_val_fin he0 hy hval
    rw [hqc]
    refine ⟨?_, ?_, ?_, ?_⟩
    · rintro rfl
      rw [hr, Fmt.signed_parity neg c (by omega)]
      exact hpick.signed_nearest f.size_strictMono f.size_nonneg hx n d
    · rintro rfl
      rw [abs_signedSize _ (f.size_nonneg c), abs_signedSize _ (f.size_nonneg d), abs_signedSize _ hx.le]
      exact (hpick.below f.size_strictMono fun _ _ _ => id).2 d
    · rintro rfl
      exact (hpick.signed_up f.size_strictMono f.size_nonneg hx).2 n d
    · rintro rfl
      exact (hpick.signed_down f.size_strictMono f.size_nonneg hx).2 n d

end Sys2Proof.Machine

/-!
Results of the float operations (O13): overflow, NaN operands, the special operands of each operation, and FMIN and FMAX.
-/
namespace Sys2Proof.Machine

/-! ## Overflow (03 R66) -/

theorem Fmt.round_zero (f : Fmt) (rm : Nat) (sat neg : Bool) (e : Int) : f.round rm sat neg 0 e = (f.signed neg 0, 0) := rfl

/-- The overflow flag tells which way rounding went. -/
theorem Fmt.round_of_overflow_flag {f : Fmt} {rm m : Nat} {sat neg : Bool} {e : Int}
    (h : (f.round rm sat neg m e).2 &&& 4 ≠ 0) : f.round rm sat neg m e = (f.overflow rm sat neg, 5) := by
  rcases Nat.eq_zero_or_pos m with rfl | hm
  · exact absurd (by simp [round_zero]) h
  · by_cases hle : f.roundCode rm neg m e ≤ f.maxCode
    · exact absurd (Fmt.round_fits hm hle).2.1 h
    · exact Fmt.round_overflow hm (not_le.1 hle)

/-- A format without infinities has E4M3's NaN, where it has one. -/
theorem overflow_nan : ∀ f ∈ [fp32, fp64, fp16, bf16, fpE4M3, fpE5M2, fpE3M2, fpE2M3, fpE2M1],
    f.ieee = false → f.e4m3 = true → f.nanCode = 0x7F := by
  decide

/-! ## NaN operands (03 R63) -/

section
variable (f : Fmt) (rm : Nat) {a b : FVal}

theorem Fmt.add_nan (h : a.isNan ∨ b.isNan) : f.add rm a b = f.nanOut (a.snan || b.snan) := by
  cases a <;> cases b <;> simp_all [add, FVal.isNan, FVal.snan]

theorem Fmt.mul_nan (h : a.isNan ∨ b.isNan) : f.mul rm a b = f.nanOut (a.snan || b.snan) := by
  cases a <;> cases b <;> simp_all [mul, FVal.mul, FVal.isNan, FVal.snan]

theorem Fmt.div_nan (h : a.isNan ∨ b.isNan) : f.div rm a b = f.nanOut (a.snan || b.snan) := by
  cases a <;> cases b <;> simp_all [div, FVal.isNan, FVal.snan]

theorem Fmt.unary_nan (n : Bool) (h : a.isNan) : ∀ r ∈ [f.sqrt rm a, f.rsqrt rm a, f.exp2 rm a, f.log2 rm a, f.trig n a],
    r = f.nanOut a.snan := by
  cases a with
  | nan s => simp [sqrt, rsqrt, exp2, log2, trig, FVal.snan]
  | inf n => cases h
  | fin n m e => cases h

end

/-! ## Exact zero sums (03 R65) -/

@[simp] theorem atExp_zero (n : Bool) (e g : Int) : atExp n 0 e g = 0 := by cases n <;> simp [atExp]

theorem atExp_not (n : Bool) (m : Nat) (e g : Int) : atExp (!n) m e g = -atExp n m e g := by cases n <;> simp [atExp]

/-- An exact zero sum has the operands' sign where they have one, else the sign that the mode gives it. -/
theorem Fmt.add_zero_sum (f : Fmt) (rm : Nat) {n1 n2 : Bool} {m1 m2 : Nat} {e1 e2 : Int}
    (h : atExp n1 m1 e1 (min e1 e2) + atExp n2 m2 e2 (min e1 e2) = 0) :
    f.add rm (.fin n1 m1 e1) (.fin n2 m2 e2) = (f.signed (if n1 = n2 then n1 else rm == 3) 0, 0) := by
  simp [add, addFin, h, round]

/-! ## Special operands (05 R119, R121, R125) -/

section
variable (f : Fmt) (rm : Nat) (n k : Bool) (m p : Nat) (e g : Int)

theorem Fmt.add_infs : f.add rm (.inf n) (.inf k) = if n = k then (f.signed n f.infCode, 0) else f.nanOut true := rfl

theorem Fmt.mul_inf_zero : f.mul rm (.inf n) (.fin k 0 e) = f.nanOut true ∧ f.mul rm (.fin k 0 e) (.inf n) = f.nanOut true ∧
    ∀ d, f.fma rm (.inf n) (.fin k 0 e) d = f.nanOut true := ⟨rfl, rfl, fun _ => rfl⟩

theorem Fmt.div_invalid : f.div rm (.inf n) (.inf k) = f.nanOut true ∧ f.div rm (.fin n 0 e) (.fin k 0 g) = f.nanOut true :=
  ⟨rfl, rfl⟩

variable {m} (hm : 0 < m)
include hm

theorem Fmt.div_zero : f.div rm (.fin n m e) (.fin k 0 g) = (f.signed (n != k) f.infCode, 8) := by
  simp [div, hm.ne', flDZ]

/-- A root or a logarithm of a number below 0 is invalid. -/
theorem Fmt.of_negative : f.sqrt rm (.fin true m e) = f.nanOut true ∧ f.rsqrt rm (.fin true m e) = f.nanOut true ∧
    f.log2 rm (.fin true m e) = f.nanOut true := by
  simp [sqrt, rsqrt, log2, hm.ne']

end

/-- The logarithm of 1, however it is written. -/
theorem Fmt.log2_one (f : Fmt) (rm p : Nat) : f.log2 rm (.fin false (2 ^ p) (-p)) = (0, 0) := by
  simp [log2, Nat.log2_two_pow, round, signed]

/-! ## FMIN and FMAX (05 R120) -/

section
variable {f : Fmt} {x y : Nat} (hi : Bool)

theorem Fmt.minmax_nan (h : (f.val x).isNan ∨ (f.val y).isNan) : f.minmax hi x y =
    (if !(f.val y).isNan then y else if !(f.val x).isNan then x else f.nanCode,
      if (f.val x).snan || (f.val y).snan then 16 else 0) := by
  cases hx : (f.val x).isNan <;> cases hy : (f.val y).isNan <;> simp_all [minmax, flNV]

theorem Fmt.minmax_numbers (hx : (f.val x).isNan = false) (hy : (f.val y).isNan = false) :
    f.minmax hi x y = (if (f.val x).le true (f.val y) = hi then y else x, 0) := by
  cases hle : (f.val x).le true (f.val y) <;> cases hi <;> simp [minmax, hx, hy, hle]

end

/-- The codes of −0 and +0. -/
theorem val_zeros : ∀ f ∈ [fp32, fp64, fp16, bf16], f.val (2 ^ (f.width - 1)) = .fin true 0 (1 - f.bias - f.m) ∧
    f.val 0 = .fin false 0 (1 - f.bias - f.m) := by
  decide

theorem FVal.zeros_le (n k : Bool) (e g : Int) : (FVal.fin n 0 e).le true (.fin k 0 g) = (n || !k) := rfl

/-- Settles O13: overflow is read off `Fmt.round`, and every other clause off the operation that it names. -/
theorem floatResultRules : Obligations.FloatResultRules := by
  refine ⟨⟨?_, by decide, by decide⟩, ⟨by decide, ?_⟩, ?_⟩
  · intro f hf rm m sat neg e r h
    have hr : r = _ := Fmt.round_of_overflow_flag h
    rw [hr]
    refine ⟨rfl, ?_⟩
    simp only [Fmt.overflow]
    split_ifs with hbig hi
    · rfl
    · rfl
    · exact overflow_nan f hf (by simpa using hi) (by simp_all)
  · intro f _ rm a b d n k m p e g nan inf
    obtain ⟨hmul, hmul', hfma⟩ := f.mul_inf_zero rm n k e
    obtain ⟨hinfs, hzeros⟩ := f.div_invalid rm n k e g
    refine ⟨?_, fun r hr ha => Fmt.unary_nan f rm n ha r hr, ?_, ?_, hmul, hmul', hfma d, hinfs, hzeros, f.div_zero rm n k e g,
      ?_, ?_, rfl, fun hm => (f.of_negative rm e hm).1, ?_, rfl, fun hm => (f.of_negative rm e hm).2.1, ?_, rfl, rfl,
      fun hm => (f.of_negative rm e hm).2.2, ?_, f.log2_one rm p, rfl, rfl⟩
    · intro r hr h
      simp only [List.mem_cons, List.not_mem_nil, or_false] at hr
      rcases hr with rfl | rfl | rfl
      · exact f.add_nan rm h
      · exact f.mul_nan rm h
      · exact f.div_nan rm h
    · rw [f.add_infs, if_neg (by simp)]
      rfl
    · rw [f.add_infs, if_pos rfl]
    · rw [f.add_zero_sum rm (by simp), if_pos rfl]
    · rw [f.add_zero_sum rm (by simp [atExp_not]), if_neg (by simp)]
    · cases n <;> rfl
    · cases n <;> rfl
    · cases n <;> rfl
  · intro f hf x y _ _ a b nv mzero_
    obtain ⟨hm0, hp0⟩ := val_zeros f (by simpa using hf)
    refine ⟨fun ha hb hi => ?_, fun ha hb hi => ?_, fun ha hb hi => ?_, fun ha hb => ⟨fun hi => ?_, fun hne => ?_⟩,
      ?_, ?_, ?_, ?_⟩
    · rw [Fmt.minmax_nan hi (.inl ha)]
      simp_all [a, b, nv]
    · rw [Fmt.minmax_nan hi (.inl ha)]
      simp_all [a, b, nv]
    · rw [Fmt.minmax_nan hi (.inr hb)]
      simp_all [a, b, nv]
    · rw [Fmt.minmax_numbers hi (by simpa using ha) (by simpa using hb)]
      split
      · exact .inr rfl
      · exact .inl rfl
    · have hnum := fun hi => Fmt.minmax_numbers (f := f) (x := x) (y := y) hi (by simpa using ha) (by simpa using hb)
      rw [hnum, hnum]
      cases (f.val x).le true (f.val y) <;> simp [hne, hne.symm]
    all_goals
      rw [Fmt.minmax_numbers _ (by simp [mzero_, hm0, hp0, FVal.isNan]) (by simp [mzero_, hm0, hp0, FVal.isNan])]
      simp [mzero_, hm0, hp0, FVal.zeros_le]

end Sys2Proof.Machine

/-!
Conversions (O14): FCVT, ICVT and FTOI complete, and the special operands of a conversion.
-/
namespace Sys2Proof.Machine

/-! ## Results in the range of an integer type (03 R70, 04 R92, 05 R128) -/

theorem ityWidth_cases (ty : BitVec 3) : ityWidth ty ∈ [8, 16, 32, 64] := by
  revert ty
  decide

/-- Whether an integer is a value of a type. -/
def InType (ty : BitVec 3) (v : Int) : Prop :=
  if itySigned ty then -2 ^ (ityWidth ty - 1) ≤ v ∧ v < 2 ^ (ityWidth ty - 1) else 0 ≤ v ∧ v < 2 ^ ityWidth ty

theorem inType_clamp (ty : BitVec 3) (v : Int) : InType ty (clampInt (ityWidth ty) (itySigned ty) v) := by
  have hw := ityWidth_cases ty
  unfold InType clampInt
  generalize ityWidth ty = w at *
  cases itySigned ty <;> fin_cases hw <;> simp

theorem inType_zero (ty : BitVec 3) : InType ty 0 := by
  unfold InType
  split <;> simp

/-- A value of the type is its own reduction. -/
theorem asInt_wrap {ty : BitVec 3} {v : Int} (h : InType ty v) :
    asInt (ityWidth ty) (itySigned ty) (wrap (ityWidth ty) v) = v := by
  have hw := ityWidth_cases ty
  unfold InType at h
  unfold asInt sgn wrap
  generalize ityWidth ty = w at *
  cases hs : itySigned ty <;> fin_cases hw <;> simp [hs] at h ⊢ <;> omega

/-- The register that takes an integer result holds it modulo the register's size. -/
theorem fit_inType {ty : BitVec 3} {v : Int} (h : InType ty v) :
    fit ty false v = (v % (if ityWide ty then 2 ^ 64 else 2 ^ 32)).toNat := by
  have hf : fit ty false v = wrap (if ityWide ty then 64 else 32) v := by
    simp only [fit, Bool.false_eq_true, if_false, asInt_wrap h]
  rw [hf, wrap]
  cases ityWide ty <;> rfl

theorem toInteger_inType (ty : BitVec 3) (rm : Nat) (v : FVal) : InType ty (toInteger ty rm v).1 := by
  cases v with
  | nan s => exact inType_zero ty
  | inf n => exact inType_clamp ty _
  | fin n m e => exact inType_clamp ty _

/-- The ends of a type's range, for a size that no type reaches. -/
theorem toInteger_inf (ty : BitVec 3) (rm : Nat) (neg : Bool) : toInteger ty rm (.inf neg) =
    (if neg then (if itySigned ty then -2 ^ (ityWidth ty - 1) else 0)
      else if itySigned ty then 2 ^ (ityWidth ty - 1) - 1 else 2 ^ ityWidth ty - 1, 16) := by
  have hw := ityWidth_cases ty
  unfold toInteger clampInt
  generalize ityWidth ty = w at *
  cases neg <;> cases itySigned ty <;> fin_cases hw <;> rfl

/-! ## Special operands of a format (03 R64, R67; 05 R126) -/

section
variable (rm : Nat) (sat neg s : Bool)

/-- An FP32 code with no sign and no fraction. -/
theorem fp32_val {e : Nat} (he : e < 255) :
    fp32.val (e * 2 ^ 23) = .fin false (if e = 0 then 0 else 2 ^ 23) (if e = 0 then -149 else e - 150) := by
  have hmax : e * 2 ^ 23 ≤ fp32.maxCode := by
    simp only [fp32, Fmt.maxCode, if_pos]
    omega
  have hval := Fmt.val_signed (f := fp32) (by decide) false hmax
  have hdiv : e * 2 ^ 23 / 2 ^ fp32.m = e := Nat.mul_div_cancel e (by decide)
  rw [Fmt.signed, if_neg Bool.false_ne_true, Nat.add_zero, Fmt.codeMant, Fmt.codeExp, Fmt.binade, hdiv] at hval
  rw [hval]
  cases e with
  | zero => rfl
  | succ k =>
    simp only [fp32, Fmt.bias, Nat.succ_sub_one, Nat.succ_ne_zero, if_false, FVal.fin.injEq, true_and]
    omega

theorem convert_fp32_e8m0 (x : Nat) : convert 9 0 rm sat x = toE8M0 (fp32.val x) := rfl

/-- R64: E8M0 takes the exponent of an FP32 power of two. -/
theorem convert_e8m0 {e : Nat} (he : e < 255) :
    convert 9 0 rm sat (e % 2 ^ 8 * 2 ^ 23) = if e = 0 then (0, 3) else (e, 0) := by
  rw [Nat.mod_eq_of_lt (by omega), convert_fp32_e8m0, fp32_val he]
  by_cases h0 : e = 0
  · subst h0
    rfl
  · have hlog : Nat.log2 (2 ^ 23) = 23 := Nat.log2_two_pow
    simp only [toE8M0, if_neg h0, hlog, if_true]
    rw [if_neg (by decide), if_neg (by omega), if_neg (by omega), Prod.mk.injEq]
    omega

theorem intoFormat_nan : (∀ c ∈ [6, 7, 8], intoFormat c rm sat (.nan s) = (0, 16)) ∧
    ∀ c ∈ [0, 1, 2, 3, 4, 5], intoFormat c rm sat (.nan s) = ((fmtOf c).nanCode, if s then 16 else 0) := by
  constructor <;> intro c hc <;> fin_cases hc <;> rfl

theorem intoFormat_inf : (∀ c ∈ [6, 7, 8], intoFormat c rm sat (.inf neg) = ((fmtOf c).signed neg (fmtOf c).maxCode, 16)) ∧
    ∀ c ∈ [0, 1, 2, 3], intoFormat c rm sat (.inf neg) = ((fmtOf c).signed neg (fmtOf c).infCode, 0) := by
  constructor <;> intro c hc <;> fin_cases hc <;> rfl

theorem intoFormat_inf_fp8 :
    intoFormat 5 rm sat (.inf neg) = (if sat then ((fmtOf 5).signed neg 0x7B, 16) else ((fmtOf 5).signed neg 0x7C, 0)) ∧
    intoFormat 4 rm sat (.inf neg) = (if sat then ((fmtOf 4).signed neg 0x7E, 16) else (0x7F, 16)) := by
  cases sat <;> exact ⟨rfl, rfl⟩

theorem convert_self {c x : Nat} (h : (codeVal c x).isNan = false) : convert c c rm sat x = (x, 0) := by
  unfold convert
  simp only [if_pos]
  cases hv : codeVal c x with
  | nan s => rw [hv] at h; cases h
  | inf n => rfl
  | fin n m e => rfl

end

/-- Settles O14: FCVT, ICVT and FTOI are one lane's conversion in every active lane; the special operands are `convert`'s,
`intoFormat`'s and `toInteger`'s own cases. -/
theorem conversionsComplete : Obligations.ConversionsComplete := by
  refine ⟨?_, ?_, fun c x rm sat _ _ h => convert_self rm sat h, fun ty rm s neg => ⟨rfl, toInteger_inf ty rm neg⟩⟩
  · intro d a sat df sf ty out rm code
    refine ⟨?_, ?_, ?_⟩
    · refine completes_of (fun _ => rfl) fun x s => ?_
      simp [out, rm, code, List.map_map, List.flatMap_map, Function.comp_def]
    · refine completes_of (fun _ => rfl) fun x s => ?_
      simp [out, rm, List.map_map, List.flatMap_map, Function.comp_def]
    · refine completes_of (fun _ => rfl) fun x s => ?_
      simp [out, rm, code, List.map_map, List.flatMap_map, Function.comp_def, Ctx.putInt, fit_inType (toInteger_inType _ _ _)]
  · intro rm sat neg s m
    obtain ⟨hnone, hnan⟩ := intoFormat_nan rm sat s
    obtain ⟨hmax, hinf⟩ := intoFormat_inf rm sat neg
    obtain ⟨h5, h4⟩ := intoFormat_inf_fp8 rm sat neg
    exact ⟨fun e he => convert_e8m0 rm sat he, rfl, rfl, rfl, fun c hc => ⟨hnone c hc, hmax c hc⟩, hnan, hinf, h5, h4⟩

end Sys2Proof.Machine

/-!
Packing and bit planes (O15): numbers by their bits, slots of a packed run, weights read from planes, and the dot product.
-/
namespace Sys2Proof.Machine

/-! ## Numbers by their bits -/

/-- The number below 2^n whose bits are `p`, as the statement sums it up. -/
def bitSum (n : Nat) (p : Nat → Bool) : Nat := (List.range n).foldl (fun v k => v + if p k then 2 ^ k else 0) 0

theorem bitSum_succ (n : Nat) (p : Nat → Bool) : bitSum (n + 1) p = 2 ^ n * (p n).toNat + bitSum n p := by
  rw [bitSum, List.range_succ, List.foldl_append, List.foldl_cons, List.foldl_nil, ← bitSum]
  cases p n <;> simp [Nat.add_comm]

theorem bitSum_lt (n : Nat) (p : Nat → Bool) : bitSum n p < 2 ^ n := by
  induction n with
  | zero => exact Nat.one_pos
  | succ n ih =>
    rw [bitSum_succ, Nat.pow_succ]
    cases p n <;> simp <;> omega

@[simp] theorem testBit_bitSum (n : Nat) (p : Nat → Bool) (j : Nat) : (bitSum n p).testBit j = (decide (j < n) && p j) := by
  induction n with
  | zero => simp [bitSum]
  | succ n ih =>
    rw [bitSum_succ, Nat.testBit_two_pow_mul_add _ (bitSum_lt n p)]
    split
    next h => rw [ih]; simp [h, h.trans n.lt_succ_self]
    next h =>
      rcases Nat.eq_or_lt_of_not_lt h with rfl | hlt
      · cases p j <;> simp
      · obtain ⟨k, hk⟩ : ∃ k, j - n = k + 1 := ⟨j - n - 1, by omega⟩
        rw [hk]
        cases p n <;> simp [show ¬ j < n + 1 by omega, Nat.testBit_succ]

/-! ## Slots of a packed run (05 R129, 03 R60) -/

theorem testBit_slotGet (w run i k : Nat) : (slotGet w run i).testBit k = (decide (k < w) && run.testBit (w * i + k)) := by
  rw [slotGet, Nat.testBit_mod_two_pow, Nat.testBit_shiftRight]

theorem slotSet_eq (w run i x : Nat) :
    slotSet w run i x = 2 ^ (w * i) * (2 ^ w * (run >>> (w * i) >>> w) + x % 2 ^ w) + run % 2 ^ (w * i) := by
  have hout := Nat.div_add_mod run (2 ^ (w * i))
  have hin := Nat.div_add_mod (run / 2 ^ (w * i)) (2 ^ w)
  simp only [slotSet, slotGet, Nat.shiftLeft_eq, Nat.shiftRight_eq_div_pow]
  generalize run / 2 ^ (w * i) / 2 ^ w = high at *
  generalize run / 2 ^ (w * i) % 2 ^ w = old at *
  rw [← hin] at hout
  rw [Nat.mul_add] at hout ⊢
  rw [Nat.mul_comm old, Nat.mul_comm (x % 2 ^ w)]
  generalize 2 ^ (w * i) * (2 ^ w * high) = a at *
  generalize 2 ^ (w * i) * old = b at *
  omega

/-- Setting a slot changes the bits of that slot. -/
theorem testBit_slotSet {w : Nat} (hw : 0 < w) (run i x k : Nat) :
    (slotSet w run i x).testBit k = if k / w = i then x.testBit (k % w) else run.testBit k := by
  have hk := Nat.div_add_mod k w
  have hr := Nat.mod_lt k hw
  rw [slotSet_eq, Nat.testBit_two_pow_mul_add _ (Nat.mod_lt _ (Nat.two_pow_pos _))]
  rcases Nat.lt_trichotomy (k / w) i with h | h | h
  · have : w * (k / w + 1) ≤ w * i := Nat.mul_le_mul_left w h
    rw [Nat.mul_add] at this
    rw [if_pos (by omega), if_neg h.ne, Nat.testBit_mod_two_pow, decide_eq_true (by omega), Bool.true_and]
  · subst h
    rw [if_neg (by omega), if_pos rfl, Nat.testBit_two_pow_mul_add _ (Nat.mod_lt _ (Nat.two_pow_pos _)), if_pos (by omega),
      Nat.testBit_mod_two_pow, show k - w * (k / w) = k % w by omega, decide_eq_true hr, Bool.true_and]
  · have : w * (i + 1) ≤ w * (k / w) := Nat.mul_le_mul_left w h
    rw [Nat.mul_add] at this
    rw [if_neg (by omega), if_neg h.ne', Nat.testBit_two_pow_mul_add _ (Nat.mod_lt _ (Nat.two_pow_pos _)), if_neg (by omega),
      Nat.testBit_shiftRight, Nat.testBit_shiftRight]
    congr 1
    omega

/-- The bits of a run of three registers. -/
theorem testBit_run3 (reg : Nat → Word) {k : Nat} (hk : k < 96) :
    (run3 (reg 0).toNat (reg 1).toNat (reg 2).toNat).testBit k = (reg (k / 32)).getLsbD (k % 32) := by
  have hrun : run3 (reg 0).toNat (reg 1).toNat (reg 2).toNat =
      2 ^ 32 * (2 ^ 32 * (reg 2).toNat + (reg 1).toNat) + (reg 0).toNat := by
    rw [run3]
    ring
  rw [hrun, Nat.testBit_two_pow_mul_add _ (reg 0).isLt, Nat.testBit_two_pow_mul_add _ (reg 1).isLt]
  simp only [BitVec.getLsbD]
  obtain h | h | h : k / 32 = 0 ∨ k / 32 = 1 ∨ k / 32 = 2 := by omega
  · rw [h, if_pos (by omega), show k % 32 = k by omega]
  · rw [h, if_neg (by omega), if_pos (by omega), show k % 32 = k - 32 by omega]
  · rw [h, if_neg (by omega), if_neg (by omega), show k % 32 = k - 32 - 32 by omega]

/-! ## Weights read from planes (05 R130-R132, 03 R72) -/

/-- The number of `b` bits whose first plane is the highest bit. -/
def planeSum (b : Nat) (p : Nat → Bool) : Nat := ((List.range b).map (fun j => if p j then 2 ^ (b - 1 - j) else 0)).sum

theorem planeSum_succ (b : Nat) (p : Nat → Bool) :
    planeSum (b + 1) p = (if p 0 then 2 ^ b else 0) + planeSum b (fun j => p (j + 1)) := by
  simp only [planeSum, List.range_succ_eq_map, List.map_cons, List.sum_cons, List.map_map, Function.comp_def, Nat.add_sub_cancel,
    Nat.sub_zero]
  congr 4
  funext j
  rw [Nat.sub_sub, Nat.add_comm 1 j]

theorem planeSum_lt (b : Nat) (p : Nat → Bool) : planeSum b p < 2 ^ b := by
  induction b generalizing p with
  | zero => exact Nat.one_pos
  | succ b ih =>
    have := ih (fun j => p (j + 1))
    rw [planeSum_succ, Nat.pow_succ]
    split <;> omega

theorem planeSum_cast (b : Nat) (p : Nat → Bool) :
    ((planeSum b p : Nat) : Int) = ((List.range b).map (fun j => if p j then (2 : Int) ^ (b - 1 - j) else 0)).sum := by
  rw [planeSum, Nat.cast_list_sum, List.map_map]
  congr 2
  funext j
  simp

/-- The model's sum over the planes whose bit is set. -/
theorem foldl_planes (b : Nat) (p : Nat → Bool) :
    ((List.range b).filter p).foldl (fun r j => r + 2 ^ (b - 1 - j)) 0 = planeSum b p := by
  rw [List.foldl_filter, planeSum, List.sum_eq_foldl, List.foldl_map]
  congr 1
  funext r j
  split <;> rfl

/-! ## Signed values (03 R70) -/

theorem sgn_eq_toInt (w n : Nat) : sgn w n = (BitVec.ofNat w n).toInt := by
  rw [sgn, BitVec.toInt_eq_toNat_cond, BitVec.toNat_ofNat]

theorem sgn_toNat {w : Nat} (x : BitVec w) : sgn w x.toNat = x.toInt := by
  rw [sgn_eq_toInt, BitVec.ofNat_toNat, BitVec.setWidth_eq]

theorem sgn_shiftRight {w : Nat} (x : BitVec w) (lo n : Nat) : sgn n (x.toNat >>> lo) = (x.extractLsb' lo n).toInt :=
  sgn_eq_toInt n _

theorem sgn_of_lt {b v : Nat} (h : v < 2 ^ (b + 1)) : sgn (b + 1) v = if 2 ^ b ≤ v then (v : Int) - 2 ^ (b + 1) else v := by
  rw [sgn, Nat.mod_eq_of_lt h]
  by_cases hb : 2 ^ b ≤ v
  · rw [if_neg (by rw [Nat.pow_succ]; omega), if_pos hb, Nat.cast_pow, Nat.cast_ofNat]
  · rw [if_pos (by rw [Nat.pow_succ]; omega), if_neg hb]

/-- The first plane counts negative. -/
theorem sgn_planeSum (b : Nat) (p : Nat → Bool) : sgn (b + 1) (planeSum (b + 1) p) =
    ((List.range (b + 1)).map (fun j => if j = 0 then -(if p 0 then (2 : Int) ^ (b + 1 - 1 - 0) else 0)
      else if p j then (2 : Int) ^ (b + 1 - 1 - j) else 0)).sum := by
  have hrest := planeSum_lt b (fun j => p (j + 1))
  have htail : ((planeSum b (fun j => p (j + 1)) : Nat) : Int) =
      ((List.range b).map (fun j => if p (j + 1) then (2 : Int) ^ (b - (j + 1)) else 0)).sum := by
    simp only [planeSum_cast, Nat.sub_sub, Nat.add_comm 1]
  have hhead : sgn (b + 1) (planeSum (b + 1) p) = -(if p 0 then (2 : Int) ^ b else 0) + planeSum b (fun j => p (j + 1)) := by
    rw [sgn_of_lt (planeSum_lt _ p), planeSum_succ]
    cases p 0
    · simp [hrest]
    · simp [pow_succ]
      ring
  rw [hhead, htail, List.range_succ_eq_map]
  simp [Function.comp_def]

theorem ofNat_wrap (w : Nat) (v : Int) : BitVec.ofNat w (wrap w v) = BitVec.ofInt w v := by
  apply BitVec.eq_of_toNat_eq
  rw [BitVec.toNat_ofNat, BitVec.toNat_ofInt, wrap, Nat.mod_eq_of_lt]
  have := Int.emod_lt_of_pos v (b := ((2 ^ w : Nat) : Int)) (by positivity)
  omega

/-! ## PACK and UNPK (05 R129) -/

/-- A slot of a run of three registers, read bit by bit. -/
theorem bitSum_slot (w : Nat) (reg : Nat → Word) {i : Nat} (h : w * i + w ≤ 96) :
    bitSum w (fun k => (reg ((w * i + k) / 32)).getLsbD ((w * i + k) % 32)) =
      slotGet w (run3 (reg 0).toNat (reg 1).toNat (reg 2).toNat) i := by
  apply Nat.eq_of_testBit_eq
  intro k
  rw [testBit_bitSum, testBit_slotGet]
  by_cases hk : k < w
  · rw [testBit_run3 reg (by omega)]
  · simp [hk]

/-- A register of 32 bits is the sum of its bits. -/
theorem ofNat_bitSum {v : Nat} {p : Nat → Bool} (r : Nat) (h : ∀ k < 32, p k = v.testBit (32 * r + k)) :
    BitVec.ofNat 32 (bitSum 32 p) = BitVec.ofNat 32 (v >>> (32 * r)) := by
  apply BitVec.eq_of_getLsbD_eq
  intro k hk
  rw [BitVec.getLsbD_ofNat, BitVec.getLsbD_ofNat, testBit_bitSum, Nat.testBit_shiftRight, h k hk, decide_eq_true hk,
    Bool.true_and]

theorem ofNat_bitSum_zero {v : Nat} {p : Nat → Bool} (h : ∀ k < 32, p k = v.testBit k) :
    BitVec.ofNat 32 (bitSum 32 p) = BitVec.ofNat 32 v :=
  ofNat_bitSum 0 (by simpa using h)

/-! ## Completion of the packing instructions (05 R129) -/

/-- An instruction that only writes registers writes those of its effect. -/
theorem completes_writing {i : Instr} {sp : Spec} {f g : Ctx → List RegWrite} (he : ∀ s, exec i s = issueRegs s i sp f)
    (hf : ∀ x, f x = g x) : Completes i sp (writing g) :=
  completes_of (body := fun x s => .done s (f x) .seq) he fun x s => by rw [hf]; rfl

/-- The bit of a packed run at `bit`, with the slots that `g` names replaced. -/
def packedBit (w : Nat) (old : Bool) (g : Nat → Option Nat) (bit : Nat) : Bool :=
  match g (bit / w) with
  | some y => y.testBit (bit % w)
  | none => old

/-- Register `r` of the run at D, with the slots that `g` names replaced. -/
def Ctx.packedReg (x : Ctx) (d : BitVec 7) (l w r : Nat) (g : Nat → Option Nat) : Word :=
  BitVec.ofNat 32 (bitSum 32 (fun k => packedBit w ((x.r32 (d.toNat + r) l).getLsbD k) g (32 * r + k)))

/-- Two slots that are set one after another. -/
theorem testBit_slotSet_two {w : Nat} (hw : 0 < w) (run i x y bit : Nat) :
    (slotSet w (slotSet w run i x) (i + 1) y).testBit bit =
      packedBit w (run.testBit bit) (fun k => if k = i then some x else if k = i + 1 then some y else none) bit := by
  rw [testBit_slotSet hw, testBit_slotSet hw, packedBit]
  by_cases h0 : bit / w = i
  · simp [h0]
  · by_cases h1 : bit / w = i + 1 <;> simp [h0, h1]

/-- Four of them. -/
theorem testBit_slotSet_four {w : Nat} (hw : 0 < w) (run i x x' y y' bit : Nat) :
    (slotSet w (slotSet w (slotSet w (slotSet w run i x) (i + 1) x') (i + 2) y) (i + 3) y').testBit bit =
      packedBit w (run.testBit bit) (fun k => if k = i then some x else if k = i + 1 then some x' else if k = i + 2 then some y
        else if k = i + 3 then some y' else none) bit := by
  rw [testBit_slotSet hw, testBit_slotSet hw, testBit_slotSet_two hw, packedBit, packedBit]
  by_cases h3 : bit / w = i + 3
  · simp [h3]
  · by_cases h2 : bit / w = i + 2
    · simp [h2]
    · simp [h2, h3]

/-- The widths but the six-bit one, by their codes. -/
theorem packWidth_narrow {c : BitVec 2} {w : Nat} (h : (c.toNat, w) ∈ [(0, 4), (2, 8), (3, 16)]) :
    (c == 1) = false ∧ packWidth c = w ∧ 0 < w := by
  simp only [List.mem_cons, Prod.mk.injEq, List.not_mem_nil, or_false] at h
  rcases h with ⟨hc, rfl⟩ | ⟨hc, rfl⟩ | ⟨hc, rfl⟩
  · obtain rfl : c = 0 := BitVec.eq_of_toNat_eq hc
    decide
  · obtain rfl : c = 2 := BitVec.eq_of_toNat_eq hc
    decide
  · obtain rfl : c = 3 := BitVec.eq_of_toNat_eq hc
    decide

section
variable (d a b : BitVec 7) (part : BitVec 2)

theorem completes_pack_narrow {c : BitVec 2} {w : Nat} (hc : (c == 1) = false) (hk : packWidth c = w) (hw : 0 < w) :
    Completes (.pack d a b part c)
      (plain .warp [.run d.toNat 1 true, .run d.toNat 1 false, .src a.toNat, .src b.toNat])
      (writing fun x => x.lanes.flatMap (fun l => x.w32 d.toNat l false (x.packedReg d l w 0 (fun i =>
        if i = 2 * part.toNat then some (x.r32 a.toNat l).toNat
        else if i = 2 * part.toNat + 1 then some (x.r32 b.toNat l).toNat else none)))) := by
  refine completes_writing (f := fun x => x.lanes.flatMap (fun l => x.w32 d.toNat l false (BitVec.ofNat 32
    (slotSet w (slotSet w (x.r32 d.toNat l).toNat (2 * part.toNat) (x.r32 a.toNat l).toNat) (2 * part.toNat + 1)
      (x.r32 b.toNat l).toNat)))) (fun s => ?_) fun x => ?_
  · change execPack d a b part c s = _
    unfold execPack
    simp only [hc, hk]
    rfl
  · congr 1
    funext l
    congr 1
    refine (ofNat_bitSum_zero fun k _ => ?_).symm
    rw [testBit_slotSet_two hw, Nat.mul_zero, Nat.zero_add]
    rfl

theorem completes_unpk_narrow {c : BitVec 2} {w : Nat} (hc : (c == 1) = false) (hk : packWidth c = w) :
    Completes (.unpk d a part c) (plain .warp [.run d.toNat 1 true, .run a.toNat 1 false])
      (writing fun x => x.lanes.flatMap (fun l => x.w32 d.toNat l false (BitVec.ofNat 32
        ((x.r32 a.toNat l).toNat / 2 ^ (2 * part.toNat * w) % 2 ^ w +
          2 ^ 16 * ((x.r32 a.toNat l).toNat / 2 ^ ((2 * part.toNat + 1) * w) % 2 ^ w))))) := by
  refine completes_writing (f := fun x => x.lanes.flatMap (fun l => x.w32 d.toNat l false (BitVec.ofNat 32
    (slotGet w (x.r32 a.toNat l).toNat (2 * part.toNat) +
      2 ^ 16 * slotGet w (x.r32 a.toNat l).toNat (2 * part.toNat + 1))))) (fun s => ?_) fun x => ?_
  · change execUnpk d a part c s = _
    unfold execUnpk
    simp only [hc, hk]
    rfl
  · simp only [slotGet, Nat.shiftRight_eq_div_pow, Nat.mul_comm w]

/-- The three registers of a run of sixteen six-bit slots. -/
def Ctx.run6 (x : Ctx) (code l : Nat) : Nat :=
  run3 (x.r32 (code + 0) l).toNat (x.r32 (code + 1) l).toNat (x.r32 (code + 2) l).toNat

theorem completes_pack_six :
    Completes (.pack d a b part 1) (plain .warp [.run d.toNat 3 true, .run d.toNat 3 false, .src a.toNat, .src b.toNat])
      (writing fun x => x.lanes.flatMap (fun l => (List.range 3).flatMap (fun r => x.w32 (d.toNat + r) l false
        (x.packedReg d l 6 r (fun i =>
          if i = 4 * part.toNat then some (x.r32 a.toNat l).toNat
          else if i = 4 * part.toNat + 1 then some ((x.r32 a.toNat l).toNat / 2 ^ 16)
          else if i = 4 * part.toNat + 2 then some (x.r32 b.toNat l).toNat
          else if i = 4 * part.toNat + 3 then some ((x.r32 b.toNat l).toNat / 2 ^ 16) else none))))) := by
  refine completes_writing (f := fun x => x.lanes.flatMap (fun l => (List.range 3).flatMap (fun r =>
    x.w32 (d.toNat + r) l false (BitVec.ofNat 32 (slotSet 6 (slotSet 6 (slotSet 6 (slotSet 6 (x.run6 d.toNat l)
      (4 * part.toNat) (x.r32 a.toNat l).toNat) (4 * part.toNat + 1) ((x.r32 a.toNat l).toNat >>> 16))
      (4 * part.toNat + 2) (x.r32 b.toNat l).toNat) (4 * part.toNat + 3) ((x.r32 b.toNat l).toNat >>> 16) >>> (32 * r))))))
    (fun s => rfl) fun x => ?_
  congr 1
  funext l
  refine List.flatMap_congr fun r hr => ?_
  have hr : r < 3 := List.mem_range.1 hr
  congr 1
  refine (ofNat_bitSum r fun k hk => ?_).symm
  rw [testBit_slotSet_four (by decide), Ctx.run6, testBit_run3 (fun j => x.r32 (d.toNat + j) l) (by omega),
    show (32 * r + k) / 32 = r by omega, show (32 * r + k) % 32 = k by omega, Nat.shiftRight_eq_div_pow,
    Nat.shiftRight_eq_div_pow]

theorem completes_unpk_six :
    Completes (.unpk d a part 1) (plain .warp [.run d.toNat 2 true, .run a.toNat 3 false])
      (writing fun x => x.lanes.flatMap (fun l =>
        let slot := fun i => bitSum 6 (fun k => (x.r32 (a.toNat + (6 * i + k) / 32) l).getLsbD ((6 * i + k) % 32))
        x.w32 d.toNat l false (BitVec.ofNat 32 (slot (4 * part.toNat) + 2 ^ 16 * slot (4 * part.toNat + 1))) ++
        x.w32 (d.toNat + 1) l false
          (BitVec.ofNat 32 (slot (4 * part.toNat + 2) + 2 ^ 16 * slot (4 * part.toNat + 3))))) := by
  refine completes_writing (f := fun x => x.lanes.flatMap (fun l =>
    x.w32 d.toNat l false (BitVec.ofNat 32 (slotGet 6 (x.run6 a.toNat l) (4 * part.toNat) +
      2 ^ 16 * slotGet 6 (x.run6 a.toNat l) (4 * part.toNat + 1))) ++
    x.w32 (d.toNat + 1) l false (BitVec.ofNat 32 (slotGet 6 (x.run6 a.toNat l) (4 * part.toNat + 2) +
      2 ^ 16 * slotGet 6 (x.run6 a.toNat l) (4 * part.toNat + 3))))) (fun s => rfl) fun x => ?_
  have hp := part.isLt
  congr 1
  funext l
  have hslot : ∀ i < 16, bitSum 6 (fun k => (x.r32 (a.toNat + (6 * i + k) / 32) l).getLsbD ((6 * i + k) % 32)) =
      slotGet 6 (x.run6 a.toNat l) i := fun i hi => bitSum_slot 6 (fun j => x.r32 (a.toNat + j) l) (by omega)
  simp only [hslot (4 * part.toNat) (by omega), hslot (4 * part.toNat + 1) (by omega), hslot (4 * part.toNat + 2) (by omega),
    hslot (4 * part.toNat + 3) (by omega)]

end

/-! ## Completion of the plane instructions (05 R131, R132) -/

/-- R131: the planes are the number's bits from the highest down, and the number is signed. -/
theorem completes_bpjoin (d a : BitVec 7) (n : BitVec 3) :
    Completes (.bpjoin d a n) (plain .warp [.dst d.toNat, .run a.toNat (n.toNat + 1) false])
      (writing fun x => x.lanes.flatMap (fun l =>
        let v := ((List.range (n.toNat + 1)).map (fun i =>
          if (x.r32 (a.toNat + i) l).getLsbD l then (2 : Int) ^ (n.toNat - i) else 0)).sum
        x.w32 d.toNat l true (BitVec.ofInt 32 (if 2 ^ n.toNat ≤ v then v - 2 ^ (n.toNat + 1) else v)))) := by
  refine completes_writing (fun s => rfl) fun x => ?_
  congr 1
  funext l
  let p := fun i => (x.r32 (a.toNat + i) l).getLsbD l
  have hv := planeSum_cast (n.toNat + 1) p
  have hsgn := sgn_of_lt (planeSum_lt (n.toNat + 1) p)
  have hle : 2 ^ n.toNat ≤ planeSum (n.toNat + 1) p ↔ (2 : Int) ^ n.toNat ≤ (planeSum (n.toNat + 1) p : Nat) := by
    exact_mod_cast Iff.rfl
  rw [if_congr hle rfl rfl, hv] at hsgn
  change x.w32 d.toNat l true (BitVec.ofNat 32 (wrap 32 (sgn (n.toNat + 1)
    (((List.range (n.toNat + 1)).filter p).foldl (fun r j => r + 2 ^ (n.toNat + 1 - 1 - j)) 0)))) = _
  rw [foldl_planes, ofNat_wrap, hsgn]
  rfl

/-! ## Operands that pop no entry (02 R38) -/

/-- No operand field of an instruction that issues is refused. -/
theorem Clear.operand_legal {s : State} {i : Instr} {sp : Spec} {c : Ctx} (h : Clear s i sp c) {o : Opd} (ho : o ∈ sp.opds) :
    o.illegal c.front c.b.allot.dqd = false := by
  cases ho' : o.illegal c.front c.b.allot.dqd with
  | false => rfl
  | true => exact absurd (h.legal.symm.trans (staticRefusal_illegal s i false ho ho')) nofun

/-- A register below 112 reads the same whatever entry is popped. -/
theorem Ctx.r32_operands (c : Ctx) (sp : Spec) {code : Nat} (l : Nat) (h : c.front = true ∨ code < 112) :
    (c.operands sp).r32 code l = c.r32 code l := by
  unfold r32
  rcases h with h | h
  · rw [if_pos h]
    exact if_pos h
  · simp only [if_pos h]
    rfl

/-- What BPDOT names, once FMT gives the lengths of its runs. -/
def bpdotSpec (d a b : BitVec 7) (la : BitVec 4) (nib : Bool) (p : Nat) : Spec :=
  plainLa .warp [.dst d.toNat, .src d.toNat, .run a.toNat (if nib then 4 else 8) false, .run b.toNat p false] la

/-- Activation `k` of a run of registers. -/
def planeAct (nib : Bool) (regs : Nat → Word) (k : Nat) : Int :=
  if nib then ((regs (k / 8)).extractLsb' (4 * (k % 8)) 4).toInt else ((regs (k / 4)).extractLsb' (8 * (k % 4)) 8).toInt

/-- Weight `k` of `p` planes, of which the first counts negative. -/
def planeWeight (p : Nat) (plane : Nat → Word) (k : Nat) : Int :=
  ((List.range p).map (fun j => if j = 0 then -(if (plane 0).getLsbD k then (2 : Int) ^ (p - 1 - 0) else 0)
    else if (plane j).getLsbD k then (2 : Int) ^ (p - 1 - j) else 0)).sum

theorem bpAct_eq (nib : Bool) (regs : Nat → Word) (k : Nat) :
    bpAct nib (fun j => (regs j).toNat) k = planeAct nib regs k := by
  rw [bpAct, planeAct, sgn_shiftRight, sgn_shiftRight]

/-- Between the planes read and those of the weight lies half a unit of the last plane (03 R72). -/
theorem bpWeight_eq (mid : Bool) (bits p : Nat) (plane : Nat → Word) (k : Nat) :
    bpWeight mid bits (p + 1) (fun j => (plane j).toNat) k =
      if mid && p + 1 < bits then 2 * planeWeight (p + 1) plane k + 1 else planeWeight (p + 1) plane k := by
  have h : sgn (p + 1) (((List.range (p + 1)).filter (fun j => (plane j).toNat.testBit k)).foldl
      (fun r j => r + 2 ^ (p + 1 - 1 - j)) 0) = planeWeight (p + 1) plane k := by
    rw [foldl_planes, sgn_planeSum]
    rfl
  simp only [bpWeight, h]

theorem planeAct_congr {nib : Bool} {u v : Nat → Word} (h : ∀ j < (if nib then 4 else 8), u j = v j) {k : Nat} (hk : k < 32) :
    planeAct nib u k = planeAct nib v k := by
  cases nib
  · rw [planeAct, planeAct, h (k / 4) (Nat.div_lt_of_lt_mul hk)]
    rfl
  · rw [planeAct, planeAct, h (k / 8) (Nat.div_lt_of_lt_mul hk)]
    rfl

theorem planeWeight_congr {p : Nat} {u v : Nat → Word} (h : ∀ j < p, u j = v j) (k : Nat) :
    planeWeight p u k = planeWeight p v k := by
  unfold planeWeight
  congr 1
  refine List.map_congr_left fun j hj => ?_
  have hj := List.mem_range.1 hj
  rw [h j hj, h 0 (by omega)]

theorem fmtAfmt_eq (v : Word) : (fmtAfmt v == 1) = (v.extractLsb' 22 2 == 1) := by
  rw [Bool.eq_iff_iff, beq_iff_eq, beq_iff_eq, BitVec.toNat_eq]
  rfl

/-- BPDOT with the fields of FMT that it reads. -/
theorem exec_bpdot {s : State} {c : Ctx} (d a b : BitVec 7) (la : BitVec 4) (h : s.ctx? = some c) :
    exec (.bpdot d a b la) s = issueRegs s (.bpdot d a b la)
      (bpdotSpec d a b la (c.th.fmt.extractLsb' 22 2 == 1) ((c.th.fmt.extractLsb' 16 3).toNat + 1))
      (fun x => x.lanes.flatMap (fun l => x.w32 d.toNat l true (BitVec.ofInt 32 ((x.r32 d.toNat l).toInt +
        ((List.range 32).map (fun k => planeAct (c.th.fmt.extractLsb' 22 2 == 1) (fun j => x.r32 (a.toNat + j) l) k *
          bpWeight (c.th.fmt.getLsbD 15) ((c.th.fmt.extractLsb' 19 3).toNat + 1) ((c.th.fmt.extractLsb' 16 3).toNat + 1)
            (fun j => (x.r32 (b.toNat + j) l).toNat) k)).sum)))) := by
  change execBpdot d a b la s = _
  unfold execBpdot
  simp only [h, fmtAfmt_eq, ← bpAct_eq, ← ofNat_wrap, ← sgn_toNat, List.sum_eq_foldl, List.foldl_map]
  rfl

/-- What BPDOT reads lies in registers, which no popped entry stands for. -/
theorem bpdot_reads {s : State} {c : Ctx} {d a b : BitVec 7} {la : BitVec 4} {nib : Bool} {p : Nat}
    (h : Clear s (.bpdot d a b la) (bpdotSpec d a b la nib p) c) (l : Nat) :
    (c.operands (bpdotSpec d a b la nib p)).r32 d.toNat l = c.r32 d.toNat l ∧
      (∀ j < (if nib then 4 else 8), (c.operands (bpdotSpec d a b la nib p)).r32 (a.toNat + j) l = c.r32 (a.toNat + j) l) ∧
      ∀ j < p, (c.operands (bpdotSpec d a b la nib p)).r32 (b.toNat + j) l = c.r32 (b.toNat + j) l := by
  have hd := h.operand_legal (o := .dst d.toNat) (by simp [bpdotSpec, plainLa, plain])
  have ha := h.operand_legal (o := .run a.toNat (if nib then 4 else 8) false) (by simp [bpdotSpec, plainLa, plain])
  have hb := h.operand_legal (o := .run b.toNat p false) (by simp [bpdotSpec, plainLa, plain])
  simp only [Opd.illegal, Bool.and_eq_false_iff, Bool.not_eq_false', decide_eq_false_iff_not, not_le, not_lt] at hd ha hb
  exact ⟨c.r32_operands _ l hd, fun j hj => c.r32_operands _ l (ha.imp_right (by omega)),
    fun j hj => c.r32_operands _ l (hb.imp_right (by omega))⟩

/-- Settles O15: the model's slots and planes, bit by bit; the dot product's operands are registers, so no entry is popped. -/
theorem packingAndPlanesComplete : Obligations.PackingAndPlanesComplete := by
  refine ⟨?_, ?_⟩
  · intro d a b part j n p slot put two
    have hput : put = fun x l w r g => x.packedReg d l w r g := rfl
    have hslot : slot = fun x l w code i => bitSum w (fun k =>
      (x.r32 (code + (w * i + k) / 32) l).getLsbD ((w * i + k) % 32)) := rfl
    simp only [hput, hslot]
    refine ⟨fun c w hc => ?_, completes_pack_six d a b part, completes_unpk_six d a part,
      completes_of (fun _ => rfl) fun _ _ => rfl, completes_bpjoin d a n⟩
    obtain ⟨h6, hk, hw⟩ := packWidth_narrow hc
    exact ⟨completes_pack_narrow d a b part h6 hk hw, completes_unpk_narrow d a part h6 hk⟩
  · intro d a b la s c fmt nibbles planes bits sp act top weight w h
    have hx : Clear s (.bpdot d a b la) (bpdotSpec d a b la nibbles planes) c := h
    refine (exec_bpdot d a b la h.thread).trans ((issueRegs_clear hx).trans ?_)
    congr 2
    change c.lanes.flatMap _ = _
    congr 1
    funext l
    obtain ⟨hd, ha, hb⟩ := bpdot_reads hx l
    have hterm : ∀ k ∈ List.range 32,
        planeAct nibbles (fun j => (c.operands (bpdotSpec d a b la nibbles planes)).r32 (a.toNat + j) l) k *
          bpWeight (fmt.getLsbD 15) bits planes
            (fun j => ((c.operands (bpdotSpec d a b la nibbles planes)).r32 (b.toNat + j) l).toNat) k = act l k * w l k := by
      intro k hk
      rw [planeAct_congr ha (List.mem_range.1 hk), bpWeight_eq, planeWeight_congr hb]
      rfl
    change c.w32 d.toNat l true (BitVec.ofInt 32 (((c.operands (bpdotSpec d a b la nibbles planes)).r32 d.toNat l).toInt +
      ((List.range 32).map (fun k => planeAct nibbles _ k * bpWeight (fmt.getLsbD 15) bits planes _ k)).sum)) = _
    rw [List.map_congr_left hterm, hd]

end Sys2Proof.Machine

/-!
Integer results (O2, 04 R92): the value that a result is fitted to, and what the register that takes it holds.
-/
namespace Sys2Proof.Machine

theorem asInt_congr {w n m : Nat} (signed : Bool) (h : n % 2 ^ w = m % 2 ^ w) : asInt w signed n = asInt w signed m := by
  unfold asInt sgn
  rw [h]

theorem wrap_cast (w : Nat) (v : Int) : ((wrap w v : Nat) : Int) = v % 2 ^ w := by
  rw [wrap, Int.toNat_of_nonneg (Int.emod_nonneg _ (by positivity))]
  simp

/-- What is kept of a number in few bits is kept of it in more. -/
theorem wrap_mod {w r : Nat} (h : w ≤ r) (v : Int) : wrap r v % 2 ^ w = wrap w v % 2 ^ w := by
  zify
  rw [wrap_cast, wrap_cast, Int.emod_emod_of_dvd _ (pow_dvd_pow 2 h), Int.emod_emod]

theorem inType_asInt (ty : BitVec 3) (n : Nat) : InType ty (asInt (ityWidth ty) (itySigned ty) n) := by
  have hw := ityWidth_cases ty
  unfold InType asInt sgn
  generalize ityWidth ty = w at *
  cases itySigned ty <;> fin_cases hw <;> simp <;> omega

/-- The value that an integer result is fitted to: held to the type's range, or reduced to it. -/
def fitted (ty : BitVec 3) (sat : Bool) (v : Int) : Int :=
  if sat then clampInt (ityWidth ty) (itySigned ty) v else asInt (ityWidth ty) (itySigned ty) (wrap (ityWidth ty) v)

theorem inType_fitted (ty : BitVec 3) (sat : Bool) (v : Int) : InType ty (fitted ty sat v) := by
  cases sat
  · exact inType_asInt ty _
  · exact inType_clamp ty v

theorem fit_eq (ty : BitVec 3) (sat : Bool) (v : Int) :
    fit ty sat v = wrap (if ityWide ty then 64 else 32) (fitted ty sat v) := rfl

theorem ityWidth_le (ty : BitVec 3) : ityWidth ty ≤ if ityWide ty then 64 else 32 := by
  revert ty
  decide

/-- A register holds the value that its result was fitted to. -/
theorem asInt_fit (ty : BitVec 3) (sat : Bool) (v : Int) :
    asInt (ityWidth ty) (itySigned ty) (fit ty sat v) = fitted ty sat v := by
  rw [fit_eq, asInt_congr _ (wrap_mod (ityWidth_le ty) _), asInt_wrap (inType_fitted ty sat v)]

theorem dvd_sub_asInt (w : Nat) (signed : Bool) (v : Int) : (2 ^ w : Int) ∣ v - asInt w signed (wrap w v) := by
  have hm : ((wrap w v % 2 ^ w : Nat) : Int) = v % 2 ^ w := by
    push_cast
    rw [wrap_cast, Int.emod_emod]
  have hd : (2 ^ w : Int) ∣ v - v % 2 ^ w := Int.dvd_self_sub_emod
  unfold asInt sgn
  rw [hm]
  push_cast
  split
  · split
    · exact hd
    · exact (by ring : v - (v % 2 ^ w - 2 ^ w) = v - v % 2 ^ w + 2 ^ w) ▸ dvd_add hd dvd_rfl
  · exact hd

/-- Settles O2: a result holds the value that it was fitted to, which lies in its type's range. -/
theorem fitRule : Obligations.FitRule := by
  unfold Obligations.FitRule
  intro ty v w lo hi r reg
  have hr : ∀ sat, r sat = fitted ty sat v := fun sat => asInt_fit ty sat v
  have hw := ityWidth_cases ty
  refine ⟨fun sat => ?_, ?_, ?_, fun sat => ?_⟩
  · have h := inType_fitted ty sat v
    rw [hr]
    unfold InType at h
    cases hs : itySigned ty <;> simp only [hs, lo, hi, w, if_true, if_false, Bool.false_eq_true] at h ⊢ <;> omega
  · rw [hr]
    exact dvd_sub_asInt w (itySigned ty) v
  · rw [hr]
    simp only [fitted, if_true, clampInt, lo, hi, w]
    generalize ityWidth ty = w at *
    cases itySigned ty <;> fin_cases hw <;> simp <;> omega
  · rw [hr, fit_eq, wrap_cast]

end Sys2Proof.Machine

/-!
Integer arithmetic, logic and shifts (O1, O5): an operation of the model over numbers is one over bit vectors of 32 or 64 bits.
-/
namespace Sys2Proof.Machine

/-! ## Operations at an integer type (04 R95, R100) -/

section
variable {i : Instr} {d a b : BitVec 7} {sat : BitVec 1} {ty : BitVec 3} {wide : Bool}

theorem completes_intBin {f g : Int → Int → Int} (he : ∀ s, exec i s = intBin i d a b sat ty f s) (hw : ityWide ty = wide)
    (hf : ∀ x y, f x y = g x y) :
    Completes i (plain .both [dstOpd wide d, srcOpd wide a, srcOpd wide b])
      (writing fun x => x.lanes.flatMap (fun l => x.putInt ty sat d l (g (x.int ty a l) (x.int ty b l)))) := by
  subst hw
  exact completes_writing he fun x => by simp only [hf]

theorem completes_intUn {f g : Int → Int} (he : ∀ s, exec i s = intUn i d a sat ty f s) (hf : ∀ x, f x = g x) :
    Completes i (plain .both [dstOpd (ityWide ty) d, srcOpd (ityWide ty) a])
      (writing fun x => x.lanes.flatMap (fun l => x.putInt ty sat d l (g (x.int ty a l)))) :=
  completes_writing he fun x => by simp only [hf]

end

theorem ityWide_minTy (w : BitVec 2) (signed : Bool) : ityWide (minTy w signed) = (w == 1) := by
  revert w signed
  decide

/-- Settles O1: each form is the model's own, and the types of MIN and MAX are as wide as their width codes say. -/
theorem arithmeticCompletes : Obligations.ArithmeticCompletes := by
  unfold Obligations.ArithmeticCompletes
  refine ⟨fun d a b sat ty => ⟨?add, ?sub, ?mul, ?neg, ?abs, ?mad⟩, fun d a b w => ⟨?min, ?max, ?minn, ?maxn⟩⟩
  case add => exact completes_intBin (fun _ => rfl) rfl fun _ _ => rfl
  case sub => exact completes_intBin (fun _ => rfl) rfl fun _ _ => rfl
  case mul => exact completes_intBin (fun _ => rfl) rfl fun _ _ => rfl
  case neg => exact completes_intUn (fun _ => rfl) fun _ => rfl
  case abs => exact completes_intUn (f := fun x => x.natAbs) (g := fun x => |x|) (fun _ => rfl) fun x => (Int.abs_eq_natAbs x).symm
  case mad => exact completes_writing (fun _ => rfl) fun _ => rfl
  case min =>
    exact completes_intBin (ty := minTy w true) (g := fun x y => if x ≤ y then x else y) (fun _ => rfl) (ityWide_minTy w true) Int.min_def
  case max =>
    exact completes_intBin (ty := minTy w true) (g := fun x y => if x ≤ y then y else x) (fun _ => rfl) (ityWide_minTy w true) Int.max_def
  case minn =>
    exact completes_intBin (ty := minTy w false) (g := fun x y => if x ≤ y then x else y) (fun _ => rfl) (ityWide_minTy w false) Int.min_def
  case maxn =>
    exact completes_intBin (ty := minTy w false) (g := fun x y => if x ≤ y then y else x) (fun _ => rfl) (ityWide_minTy w false) Int.max_def

/-! ## Operations over the bits of 32 or 64 (04 R90, R91) -/

theorem Ctx.nat_wide (x : Ctx) (c : BitVec 7) (l : Nat) : x.nat true c l = (x.r64 c.toNat l).toNat := rfl
theorem Ctx.nat_narrow (x : Ctx) (c : BitVec 7) (l : Nat) : x.nat false c l = (x.r32 c.toNat l).toNat := rfl

theorem bitsOfW_wide {w : BitVec 1} (h : (w == 1) = true) : bitsOfW w = 64 := if_pos h
theorem bitsOfW_narrow {w : BitVec 1} (h : (w == 1) = false) : bitsOfW w = 32 :=
  if_neg (Bool.eq_false_iff.1 h)

section
variable {i : Instr} {d a b : BitVec 7} {w : BitVec 1} {signed : Bool}

/-- A result of 32 or 64 bits, by what it is at each width. -/
theorem completes_wide {wide : Bool} {sp : Spec} {n : Ctx → Nat → Nat} {f32 : Ctx → Nat → Word} {f64 : Ctx → Nat → DWord}
    (he : ∀ s, exec i s = issueRegs s i sp (fun x => x.lanes.flatMap (fun l => x.put wide signed d l (n x l))))
    (h64 : wide = true → ∀ x l, BitVec.ofNat 64 (n x l) = f64 x l)
    (h32 : wide = false → ∀ x l, BitVec.ofNat 32 (n x l) = f32 x l) :
    Completes i sp (writing fun x => x.lanes.flatMap (fun l =>
      if wide then x.w64 d.toNat l (f64 x l) else x.w32 d.toNat l signed (f32 x l))) := by
  refine completes_writing he fun x => ?_
  congr 1
  funext l
  cases wide with
  | true => exact congrArg (x.w64 d.toNat l) (h64 rfl x l)
  | false => exact congrArg (x.w32 d.toNat l signed) (h32 rfl x l)

variable (i d a b w signed) in
theorem bitBin_pair (f : Nat → Nat → Nat) (s : State) : bitBin i d a b w false signed f s =
    issueRegs s i (plain .both [dstOpd (w == 1) d, srcOpd (w == 1) a, srcOpd (w == 1) b]) (fun x =>
      x.lanes.flatMap (fun l => x.put (w == 1) signed d l (f (x.nat (w == 1) a l) (x.nat (w == 1) b l)))) := by
  unfold bitBin
  simp only [Bool.not_false, Bool.and_true]

variable (i d a b w signed) in
/-- B is a single register where it is a count or a control word (R91). -/
theorem bitBin_single (f : Nat → Nat → Nat) (s : State) : bitBin i d a b w true signed f s =
    issueRegs s i (plain .both [dstOpd (w == 1) d, srcOpd (w == 1) a, .src b.toNat]) (fun x =>
      x.lanes.flatMap (fun l => x.put (w == 1) signed d l (f (x.nat (w == 1) a l) (x.r32 b.toNat l).toNat))) := by
  unfold bitBin
  simp only [Bool.not_true, Bool.and_false]
  rfl

variable (i d a w signed) in
theorem bitUn_same (f : Nat → Nat) (s : State) : bitUn i d a w false signed f s =
    issueRegs s i (plain .both [dstOpd (w == 1) d, srcOpd (w == 1) a]) (fun x =>
      x.lanes.flatMap (fun l => x.put (w == 1) signed d l (f (x.nat (w == 1) a l)))) := by
  unfold bitUn
  simp only [Bool.not_false, Bool.and_true]

variable (i d a w signed) in
/-- D is a single register where it takes a count (R104). -/
theorem bitUn_single (f : Nat → Nat) (s : State) : bitUn i d a w true signed f s =
    issueRegs s i (plain .both [.dst d.toNat, srcOpd (w == 1) a]) (fun x =>
      x.lanes.flatMap (fun l => x.w32 d.toNat l signed (BitVec.ofNat 32 (f (x.nat (w == 1) a l))))) := by
  unfold bitUn
  simp only [Bool.not_true, Bool.and_false]
  rfl

/-- D := f(A, B), where f over the numbers is `F` at the width of the operands. -/
theorem completes_pair {f : Nat → Nat → Nat} {F : ∀ n, BitVec n → BitVec n → BitVec n}
    (he : ∀ s, exec i s = bitBin i d a b w false signed f s)
    (hf : ∀ n, n = bitsOfW w → ∀ x y : BitVec n, BitVec.ofNat n (f x.toNat y.toNat) = F n x y) :
    Completes i (plain .both [dstOpd (w == 1) d, srcOpd (w == 1) a, srcOpd (w == 1) b])
      (writing fun x => x.lanes.flatMap (fun l =>
        if w == 1 then x.w64 d.toNat l (F 64 (x.r64 a.toNat l) (x.r64 b.toNat l))
        else x.w32 d.toNat l signed (F 32 (x.r32 a.toNat l) (x.r32 b.toNat l)))) := by
  refine completes_wide (fun s => (he s).trans (bitBin_pair ..)) (fun h x l => ?_) fun h x l => ?_
  · rw [h]
    exact hf 64 (bitsOfW_wide h).symm _ _
  · rw [h]
    exact hf 32 (bitsOfW_narrow h).symm _ _

/-- D := f(A, n), where f over the numbers is `F` at the width of A, and n a single register. -/
theorem completes_count {f : Nat → Nat → Nat} {F : ∀ n, BitVec n → Nat → BitVec n}
    (he : ∀ s, exec i s = bitBin i d a b w true signed f s)
    (hf : ∀ n, n = bitsOfW w → ∀ (x : BitVec n) k, BitVec.ofNat n (f x.toNat k) = F n x k) :
    Completes i (plain .both [dstOpd (w == 1) d, srcOpd (w == 1) a, .src b.toNat])
      (writing fun x => x.lanes.flatMap (fun l =>
        if w == 1 then x.w64 d.toNat l (F 64 (x.r64 a.toNat l) (x.r32 b.toNat l).toNat)
        else x.w32 d.toNat l signed (F 32 (x.r32 a.toNat l) (x.r32 b.toNat l).toNat))) := by
  refine completes_wide (fun s => (he s).trans (bitBin_single ..)) (fun h x l => ?_) fun h x l => ?_
  · rw [h]
    exact hf 64 (bitsOfW_wide h).symm _ _
  · rw [h]
    exact hf 32 (bitsOfW_narrow h).symm _ _

/-- D := f(A), where f over the numbers is `F` at the width of A. -/
theorem completes_single {f : Nat → Nat} {F : ∀ n, BitVec n → BitVec n}
    (he : ∀ s, exec i s = bitUn i d a w false signed f s)
    (hf : ∀ n, n = bitsOfW w → ∀ x : BitVec n, BitVec.ofNat n (f x.toNat) = F n x) :
    Completes i (plain .both [dstOpd (w == 1) d, srcOpd (w == 1) a])
      (writing fun x => x.lanes.flatMap (fun l =>
        if w == 1 then x.w64 d.toNat l (F 64 (x.r64 a.toNat l)) else x.w32 d.toNat l signed (F 32 (x.r32 a.toNat l)))) := by
  refine completes_wide (fun s => (he s).trans (bitUn_same ..)) (fun h x l => ?_) fun h x l => ?_
  · rw [h]
    exact hf 64 (bitsOfW_wide h).symm _
  · rw [h]
    exact hf 32 (bitsOfW_narrow h).symm _

end

/-! ## The numbers that logic and shifts make (04 R101, R102) -/

section
variable {w : Nat} (x y : BitVec w) (n : Nat)

theorem ofNat_andn : BitVec.ofNat w (x.toNat ^^^ (x.toNat &&& y.toNat)) = x &&& ~~~y := by
  apply BitVec.eq_of_getLsbD_eq
  intro j hj
  simp only [BitVec.getLsbD_ofNat, Nat.testBit_xor, Nat.testBit_and, BitVec.testBit_toNat, BitVec.getLsbD_and,
    BitVec.getLsbD_not, hj, decide_true, Bool.true_and]
  cases x.getLsbD j <;> cases y.getLsbD j <;> rfl

theorem ofNat_not : BitVec.ofNat w (2 ^ w - 1 - x.toNat) = ~~~x := by
  rw [← BitVec.toNat_not, BitVec.ofNat_toNat, BitVec.setWidth_eq]

theorem ofNat_shlBits : BitVec.ofNat w (shlBits w x.toNat n) = x <<< n := by
  rw [shlBits, ← BitVec.toNat_shiftLeft, BitVec.ofNat_toNat, BitVec.setWidth_eq]

theorem ofNat_shrBits : BitVec.ofNat w (shrBits x.toNat n) = x >>> n := by
  rw [shrBits, ← BitVec.toNat_ushiftRight, BitVec.ofNat_toNat, BitVec.setWidth_eq]

theorem ofNat_sarBits : BitVec.ofNat w (sarBits w x.toNat n) = x.sshiftRight n := by
  rw [sarBits, ofNat_wrap, sgn_toNat, ← Int.shiftRight_eq_div_pow]
  rfl

/-- A rotation by less than the width puts the upper bits, which the shift loses, below the others. -/
theorem ofNat_rotBits (h : n < w) : BitVec.ofNat w (rotBits w x.toNat n) = x.rotateLeft n := by
  have hlow : x.toNat >>> (w - n) < 2 ^ n := by
    rw [Nat.shiftRight_eq_div_pow, Nat.div_lt_iff_lt_mul (by positivity), ← pow_add, Nat.add_sub_cancel' h.le]
    exact x.isLt
  have hhigh : x.toNat <<< n % 2 ^ w = (x.toNat % 2 ^ (w - n)) <<< n := by
    rw [Nat.shiftLeft_eq, Nat.shiftLeft_eq, ← Nat.mul_mod_mul_right, ← pow_add, Nat.sub_add_cancel h.le]
  have hr : rotBits w x.toNat n = (x.rotateLeft n).toNat := by
    rw [BitVec.toNat_rotateLeft, Nat.mod_eq_of_lt h, rotBits, hhigh, Nat.shiftLeft_add_eq_or_of_lt hlow]
  rw [hr, BitVec.ofNat_toNat, BitVec.setWidth_eq]

end

theorem bitsOfW_pos (w : BitVec 1) : 0 < bitsOfW w := by
  unfold bitsOfW
  split <;> decide

/-- Settles O5: each operation over numbers is the bit vectors' own at both widths. -/
theorem logicAndShiftsCompletes : Obligations.LogicAndShiftsCompletes := by
  unfold Obligations.LogicAndShiftsCompletes
  intro d a b w n
  refine ⟨?and, ?or, ?xor, ?andn, ?not, ?shl, ?shr, ?sar, ?rot, ?shli, ?shri, ?sari⟩
  case and =>
    refine completes_pair (F := fun _ x y => x &&& y) (fun _ => rfl) fun n _ x y => ?_
    rw [← BitVec.toNat_and, BitVec.ofNat_toNat, BitVec.setWidth_eq]
  case or =>
    refine completes_pair (F := fun _ x y => x ||| y) (fun _ => rfl) fun n _ x y => ?_
    rw [← BitVec.toNat_or, BitVec.ofNat_toNat, BitVec.setWidth_eq]
  case xor =>
    refine completes_pair (F := fun _ x y => x ^^^ y) (fun _ => rfl) fun n _ x y => ?_
    rw [← BitVec.toNat_xor, BitVec.ofNat_toNat, BitVec.setWidth_eq]
  case andn =>
    exact completes_pair (f := fun x y => x ^^^ (x &&& y)) (F := fun _ x y => x &&& ~~~y) (fun _ => rfl)
      fun _ _ x y => ofNat_andn x y
  case not =>
    exact completes_single (f := fun x => 2 ^ bitsOfW w - 1 - x) (F := fun _ x => ~~~x) (fun _ => rfl)
      fun _ h x => by subst h; exact ofNat_not x
  case shl =>
    exact completes_count (f := fun x k => shlBits (bitsOfW w) x (k % bitsOfW w)) (F := fun n x k => x <<< (k % n))
      (fun _ => rfl) fun _ h x k => by subst h; exact ofNat_shlBits x _
  case shr =>
    exact completes_count (f := fun x k => shrBits x (k % bitsOfW w)) (F := fun n x k => x >>> (k % n))
      (fun _ => rfl) fun _ h x k => by subst h; exact ofNat_shrBits x _
  case sar =>
    exact completes_count (f := fun x k => sarBits (bitsOfW w) x (k % bitsOfW w)) (F := fun n x k => x.sshiftRight (k % n))
      (fun _ => rfl) fun _ h x k => by subst h; exact ofNat_sarBits x _
  case rot =>
    exact completes_count (f := fun x k => rotBits (bitsOfW w) x (k % bitsOfW w)) (F := fun n x k => x.rotateLeft (k % n))
      (fun _ => rfl) fun _ h x k => by subst h; exact ofNat_rotBits x _ (Nat.mod_lt _ (bitsOfW_pos w))
  case shli =>
    exact completes_single (f := fun x => shlBits (bitsOfW w) x n.toNat) (F := fun _ x => x <<< n.toNat)
      (fun _ => rfl) fun _ h x => by subst h; exact ofNat_shlBits x _
  case shri =>
    exact completes_single (f := fun x => shrBits x n.toNat) (F := fun _ x => x >>> n.toNat)
      (fun _ => rfl) fun _ _ x => ofNat_shrBits x _
  case sari =>
    exact completes_single (f := fun x => sarBits (bitsOfW w) x n.toNat) (F := fun _ x => x.sshiftRight n.toNat)
      (fun _ => rfl) fun _ h x => by subst h; exact ofNat_sarBits x _

end Sys2Proof.Machine

/-!
Moves, products and division (O3, O4).
-/
namespace Sys2Proof.Machine

/-! ## Products and moves (04 R97, R98, R105-R107) -/

/-- The upper half of a number of twice as many bits. -/
theorem extract_upper_ofInt (w : Nat) (v : Int) :
    (BitVec.ofInt (2 * w) v).extractLsb' w w = BitVec.ofInt w (v / (2 ^ w : Nat)) := by
  have hp : ((2 ^ w : Nat) : Int) ≠ 0 := by positivity
  have hsq : ((2 ^ (2 * w) : Nat) : Int) = (2 ^ w : Nat) * (2 ^ w : Nat) := by
    rw [Nat.two_mul, pow_add, Nat.cast_mul]
  have hdiv : v % (2 ^ (2 * w) : Nat) / (2 ^ w : Nat) =
      v / (2 ^ w : Nat) + (2 ^ w : Nat) * -(v / (2 ^ (2 * w) : Nat)) := by
    rw [Int.emod_def, hsq, show v - (2 ^ w : Nat) * (2 ^ w : Nat) * (v / ((2 ^ w : Nat) * (2 ^ w : Nat))) =
      v + (2 ^ w : Nat) * ((2 ^ w : Nat) * -(v / ((2 ^ w : Nat) * (2 ^ w : Nat)))) by ring, Int.add_mul_ediv_left _ _ hp]
  apply BitVec.eq_of_toNat_eq
  rw [BitVec.extractLsb'_toNat, BitVec.toNat_ofInt, BitVec.toNat_ofInt, Nat.shiftRight_eq_div_pow]
  zify
  rw [Int.toNat_of_nonneg (Int.emod_nonneg _ (by positivity)), Int.toNat_of_nonneg (Int.emod_nonneg _ (by positivity))]
  have := congrArg (· % ((2 ^ w : Nat) : Int)) hdiv
  simpa using this

theorem ofNat_mulh {w : Nat} (x y : BitVec w) :
    BitVec.ofNat w (wrap w (sgn w x.toNat * sgn w y.toNat / (2 ^ w : Nat))) =
      (x.signExtend (2 * w) * y.signExtend (2 * w)).extractLsb' w w := by
  rw [ofNat_wrap, sgn_toNat, sgn_toNat, ← extract_upper_ofInt, BitVec.ofInt_mul]
  rfl

theorem ofNat_mulhn {w : Nat} (x y : BitVec w) :
    BitVec.ofNat w (x.toNat * y.toNat / 2 ^ w) = (x.setWidth (2 * w) * y.setWidth (2 * w)).extractLsb' w w := by
  have hx := x.isLt
  have hy := y.isLt
  have hpow : 2 ^ w ≤ 2 ^ (2 * w) := Nat.pow_le_pow_right (by decide) (by omega)
  have hxy : x.toNat * y.toNat < 2 ^ (2 * w) := by
    rw [Nat.two_mul, pow_add]
    exact Nat.mul_lt_mul'' hx hy
  apply BitVec.eq_of_toNat_eq
  rw [BitVec.extractLsb'_toNat, BitVec.toNat_mul, BitVec.toNat_setWidth, BitVec.toNat_setWidth, Nat.mod_eq_of_lt (hx.trans_le hpow),
    Nat.mod_eq_of_lt (hy.trans_le hpow), Nat.mod_eq_of_lt hxy, BitVec.toNat_ofNat, Nat.shiftRight_eq_div_pow]

/-- The number of a register, signed or natural, in 64 bits. -/
theorem ofInt_asInt (signed : Bool) (x : Word) :
    BitVec.ofInt 64 (asInt 32 signed x.toNat) = if signed then x.signExtend 64 else x.setWidth 64 := by
  cases signed with
  | true =>
    simp only [asInt, if_true, sgn_toNat]
    rfl
  | false =>
    simp only [asInt, Bool.false_eq_true, if_false, Nat.mod_eq_of_lt x.isLt, BitVec.ofInt_natCast]
    exact BitVec.ofNat_toNat 64 x

theorem ofNat_madw (signed : Bool) (d : DWord) (x y : Word) :
    BitVec.ofNat 64 (wrap 64 (d.toNat + asInt 32 signed x.toNat * asInt 32 signed y.toNat)) =
      d + if signed then x.signExtend 64 * y.signExtend 64 else x.setWidth 64 * y.setWidth 64 := by
  rw [ofNat_wrap, BitVec.ofInt_add, BitVec.ofInt_mul, ofInt_asInt, ofInt_asInt, BitVec.ofInt_natCast, BitVec.ofNat_toNat,
    BitVec.setWidth_eq]
  cases signed <;> rfl

/-- A register, whole or a pair, is written as it was read. -/
theorem Ctx.put_nat (x : Ctx) (wide signed : Bool) (d a : BitVec 7) (l : Nat) : x.put wide signed d l (x.nat wide a l) =
    if wide then x.w64 d.toNat l (x.r64 a.toNat l) else x.w32 d.toNat l signed (x.r32 a.toNat l) := by
  cases wide
  · exact congrArg (x.w32 d.toNat l signed) (BitVec.ofNat_toNat 32 _)
  · exact congrArg (x.w64 d.toNat l) (BitVec.ofNat_toNat 64 _)

theorem mul_two_pow_eq_shiftLeft {w : Nat} (x : BitVec w) (n : Nat) : x * BitVec.ofNat w (2 ^ n) = x <<< n := by
  rw [BitVec.shiftLeft_eq_mul_twoPow]
  congr 1
  apply BitVec.eq_of_toNat_eq
  rw [BitVec.toNat_ofNat, BitVec.toNat_twoPow]

/-- Settles O3: the products are the bit vectors' own, and the rest are the model's. -/
theorem movesCompletes : Obligations.MovesCompletes := by
  unfold Obligations.MovesCompletes
  intro d a b i11 i18 w n sc k
  refine ⟨?addi, ?lea, ?mov, ?movi, ?movh, ?sel, ?mulh, ?mulhn, ?madw⟩
  case addi => exact completes_writing (fun _ => rfl) fun _ => rfl
  case lea =>
    refine completes_writing (fun _ => rfl) fun x => ?_
    simp only [mul_two_pow_eq_shiftLeft]
  case mov =>
    refine completes_single (f := fun x => x) (F := fun _ x => x) (fun _ => rfl) fun n _ x => ?_
    rw [BitVec.ofNat_toNat, BitVec.setWidth_eq]
  case movi => exact completes_writing (fun _ => rfl) fun _ => rfl
  case movh => exact completes_writing (fun _ => rfl) fun _ => rfl
  case sel =>
    refine completes_writing (fun _ => rfl) fun x => ?_
    simp only [apply_ite (x.put _ _ _ _), Ctx.put_nat]
    rfl
  case mulh =>
    exact completes_pair
      (f := fun x y => wrap (bitsOfW w) (sgn (bitsOfW w) x * sgn (bitsOfW w) y / (2 ^ bitsOfW w : Nat)))
      (F := fun n x y => (x.signExtend (2 * n) * y.signExtend (2 * n)).extractLsb' n n) (fun _ => rfl)
      fun _ h x y => by subst h; exact ofNat_mulh x y
  case mulhn =>
    exact completes_pair (f := fun x y => x * y / 2 ^ bitsOfW w)
      (F := fun n x y => (x.setWidth (2 * n) * y.setWidth (2 * n)).extractLsb' n n) (fun _ => rfl)
      fun _ h x y => by subst h; exact ofNat_mulhn x y
  case madw =>
    refine completes_writing (fun _ => rfl) fun x => ?_
    simp only [Ctx.nat_narrow, ofNat_madw, beq_iff_eq]

/-! ## Division (04 R99) -/

theorem Ctx.int_signed (x : Ctx) (c : BitVec 7) (l : Nat) : x.int 0 c l = (x.r32 c.toNat l).toInt := sgn_toNat _

theorem Ctx.int_natural (x : Ctx) (c : BitVec 7) (l : Nat) : x.int 1 c l = ((x.r32 c.toNat l).toNat : Int) :=
  congrArg Nat.cast (Nat.mod_eq_of_lt (x.r32 c.toNat l).isLt)

theorem ofInt_congr {w : Nat} {u v : Int} (h : (2 ^ w : Int) ∣ v - u) : BitVec.ofInt w u = BitVec.ofInt w v := by
  have hm : u % (2 ^ w : Nat) = v % (2 ^ w : Nat) := by
    push_cast
    exact (Int.emod_eq_emod_iff_emod_sub_eq_zero.2 (Int.emod_eq_zero_of_dvd h)).symm
  apply BitVec.eq_of_toNat_eq
  rw [BitVec.toNat_ofInt, BitVec.toNat_ofInt, hm]

/-- A result of 32 bits that is not saturated is the exact one modulo 2^32. -/
theorem Ctx.putInt_word (x : Ctx) {ty : BitVec 3} (h : ty = 0 ∨ ty = 1) (c : BitVec 7) (l : Nat) (v : Int) :
    x.putInt ty 0 c l v = x.w32 c.toNat l (itySigned ty) (BitVec.ofInt 32 v) := by
  have hf : BitVec.ofNat 32 (fit ty false v) = BitVec.ofInt 32 v := by
    rcases h with rfl | rfl
    · exact (ofNat_wrap 32 _).trans (ofInt_congr (dvd_sub_asInt 32 true v))
    · exact (ofNat_wrap 32 _).trans (ofInt_congr (dvd_sub_asInt 32 false v))
  rw [← hf]
  rcases h with rfl | rfl <;> rfl

theorem Ctx.int_eq_zero (x : Ctx) {ty : BitVec 3} (h : ty = 0 ∨ ty = 1) {c : BitVec 7} {l : Nat} :
    x.int ty c l = 0 ↔ x.r32 c.toNat l = 0 := by
  rcases h with rfl | rfl
  · rw [x.int_signed, ← BitVec.toInt_inj, BitVec.toInt_ofNat]
    rfl
  · rw [x.int_natural, Nat.cast_eq_zero, ← BitVec.toNat_inj]
    rfl

section
variable {i : Instr} {d a b : BitVec 7} {la : BitVec 4} {ty : BitVec 3} {f : Int → Int → Int}

/-- Division with no zero divisor in an active lane. -/
theorem completesWhen_div {sp : Spec} {F : Word → Word → Word} (he : ∀ s, exec i s = issue s i sp (divBody d a b ty f))
    (hty : ty = 0 ∨ ty = 1)
    (hf : ∀ (x : Ctx) l, BitVec.ofInt 32 (f (x.int ty a l) (x.int ty b l)) = F (x.r32 a.toNat l) (x.r32 b.toNat l)) :
    CompletesWhen i sp (fun x _ => ∀ l ∈ x.lanes, x.r32 b.toNat l ≠ 0)
      (writing fun x => x.lanes.flatMap (fun l => x.w32 d.toNat l (itySigned ty) (F (x.r32 a.toNat l) (x.r32 b.toNat l)))) := by
  refine completesWhen_of he fun x s _ h => ?_
  have hbad : x.lanes.filter (fun l => x.int ty b l == 0) = [] := by
    rw [List.filter_eq_nil_iff]
    intro l hl
    rw [beq_iff_eq, x.int_eq_zero hty]
    exact h l hl
  simp only [divBody, hbad, x.putInt_word hty, hf]
  rfl

/-- Division with a zero divisor in an active lane (15 R372). -/
theorem refusedWhen_div {sp : Spec} (he : ∀ s, exec i s = issue s i sp (divBody d a b ty f)) (hty : ty = 0 ∨ ty = 1) :
    RefusedWhen i sp (fun x _ => ∃ l ∈ x.lanes, x.r32 b.toNat l = 0)
      (fun x _ => (15, 0, if x.front then 0 else maskOf (x.lanes.filter (fun l => x.r32 b.toNat l == 0)))) := by
  refine refusedWhen_of he fun x s _ h => ?_
  obtain ⟨l, hl, hz⟩ := h
  have hbad : x.lanes.filter (fun l => x.int ty b l == 0) = x.lanes.filter (fun l => x.r32 b.toNat l == 0) := by
    congr 1
    funext l
    rw [Bool.eq_iff_iff, beq_iff_eq, beq_iff_eq, x.int_eq_zero hty]
  have hne : x.lanes.filter (fun l => x.r32 b.toNat l == 0) ≠ [] :=
    List.ne_nil_of_mem (List.mem_filter.2 ⟨hl, beq_iff_eq.2 hz⟩)
  rw [← hbad] at hne ⊢
  exact if_pos hne

end

theorem ofInt_sdiv (x y : Word) : BitVec.ofInt 32 (x.toInt.tdiv y.toInt) = x.sdiv y := by
  apply BitVec.eq_of_toInt_eq
  rw [BitVec.toInt_ofInt, BitVec.toInt_sdiv]

theorem ofInt_srem (x y : Word) : BitVec.ofInt 32 (x.toInt.tmod y.toInt) = x.srem y := by
  rw [← BitVec.toInt_srem, BitVec.ofInt_toInt]

theorem ofInt_udiv (x y : Word) : BitVec.ofInt 32 ((x.toNat : Int).tdiv y.toNat) = x.udiv y := by
  rw [← Int.ofNat_tdiv, BitVec.ofInt_natCast]
  exact BitVec.ofNat_toNat 32 (x.udiv y)

theorem ofInt_umod (x y : Word) : BitVec.ofInt 32 ((x.toNat : Int).tmod y.toNat) = x.umod y := by
  rw [← Int.ofNat_tmod, BitVec.ofInt_natCast]
  exact BitVec.ofNat_toNat 32 (x.umod y)

/-- Settles O4: the exact quotient or remainder of the two types, and the lanes whose divisor is 0. -/
theorem divisionRule : Obligations.DivisionRule := by
  unfold Obligations.DivisionRule
  refine ⟨fun d a b la => ⟨?div, ?divn, ?rem, ?remn⟩, fun d a b la => ?refused⟩
  case div =>
    refine completesWhen_div (ty := 0) (f := fun x y => x.tdiv y) (fun _ => rfl) (.inl rfl) fun x l => ?_
    rw [x.int_signed, x.int_signed, ofInt_sdiv]
  case divn =>
    refine completesWhen_div (ty := 1) (f := fun x y => x.tdiv y) (fun _ => rfl) (.inr rfl) fun x l => ?_
    rw [x.int_natural, x.int_natural, ofInt_udiv]
  case rem =>
    refine completesWhen_div (ty := 0) (f := fun x y => x.tmod y) (fun _ => rfl) (.inl rfl) fun x l => ?_
    rw [x.int_signed, x.int_signed, ofInt_srem]
  case remn =>
    refine completesWhen_div (ty := 1) (f := fun x y => x.tmod y) (fun _ => rfl) (.inr rfl) fun x l => ?_
    rw [x.int_natural, x.int_natural, ofInt_umod]
  case refused =>
    intro sp bad hit i hi
    obtain ⟨ty, f, hty, he⟩ : ∃ ty f, (ty = 0 ∨ ty = 1) ∧ ∀ s, exec i s = issue s i sp (divBody d a b ty f) := by
      simp only [List.mem_cons, List.not_mem_nil, or_false] at hi
      rcases hi with rfl | rfl | rfl | rfl
      · exact ⟨0, fun x y => x.tdiv y, .inl rfl, fun _ => rfl⟩
      · exact ⟨1, fun x y => x.tdiv y, .inr rfl, fun _ => rfl⟩
      · exact ⟨0, fun x y => x.tmod y, .inl rfl, fun _ => rfl⟩
      · exact ⟨1, fun x y => x.tmod y, .inr rfl, fun _ => rfl⟩
    exact ⟨refusedWhen_div he hty, fun s c code hc hn h => (he s).trans (issue_refused hc hn h)⟩

end Sys2Proof.Machine

/-!
Bit fields and bit counts (O6, 04 R103, R104).
-/
namespace Sys2Proof.Machine

/-! ## The control word of a bit field -/

theorem bitsOfW_le (w : BitVec 1) : bitsOfW w ≤ 64 := by
  unfold bitsOfW
  split <;> decide

theorem bfPos_eq (w : BitVec 1) (ctl : Nat) : bfPos (bitsOfW w) ctl = ctl % bitsOfW w := by
  unfold bitsOfW bfPos
  split
  · rw [Nat.and_two_pow_sub_one_eq_mod _ 6]
    omega
  · rw [Nat.and_two_pow_sub_one_eq_mod _ 5]
    omega

theorem bfGet_eq (w : BitVec 1) (x ctl : Nat) : bfGet (bitsOfW w) x ctl =
    x / 2 ^ (ctl % bitsOfW w) % 2 ^ min (ctl / 256 % 128) (bitsOfW w) := by
  rw [bfGet, bfPos_eq, Nat.shiftRight_eq_div_pow]
  rfl

/-- A signed field is the balanced remainder of its number. -/
theorem sgn_eq_bmod (n v : Nat) : sgn n v = Int.bmod v (2 ^ n) := by
  rw [sgn_eq_toInt, BitVec.toInt_ofNat']

/-! ## Results of 32 or 64 bits, by 64 bits -/

/-- A register that is read as 64 bits, whole or zero-extended. -/
theorem Ctx.toNat_extended (x : Ctx) (wide : Bool) (c : BitVec 7) (l : Nat) :
    (if wide then x.r64 c.toNat l else (x.r32 c.toNat l).setWidth 64).toNat = x.nat wide c l := by
  cases wide
  · exact BitVec.toNat_setWidth_of_le (by decide)
  · rfl

theorem Ctx.nat_lt (x : Ctx) (w : BitVec 1) (c : BitVec 7) (l : Nat) : x.nat (w == 1) c l < 2 ^ bitsOfW w := by
  cases h : w == 1
  · rw [bitsOfW_narrow h]
    exact (x.r32 c.toNat l).isLt
  · rw [bitsOfW_wide h]
    exact (x.r64 c.toNat l).isLt

theorem completes_field {i : Instr} {sp : Spec} {d : BitVec 7} {w : BitVec 1} {signed : Bool} {n : Ctx → Nat → Nat}
    {v : Ctx → Nat → DWord}
    (he : ∀ s, exec i s = issueRegs s i sp (fun x => x.lanes.flatMap (fun l => x.put (w == 1) signed d l (n x l))))
    (hv : ∀ x l, BitVec.ofNat (bitsOfW w) (n x l) = (v x l).setWidth (bitsOfW w)) :
    Completes i sp (writing fun x => x.lanes.flatMap (fun l =>
      if w == 1 then x.w64 d.toNat l (v x l) else x.w32 d.toNat l signed ((v x l).setWidth 32))) := by
  refine completes_wide he (fun h x l => ?_) fun h x l => ?_
  · have := hv x l
    rw [bitsOfW_wide h] at this
    exact this.trans (BitVec.setWidth_eq _)
  · have := hv x l
    rwa [bitsOfW_narrow h] at this

theorem wrap_lt (n : Nat) (v : Int) : wrap n v < 2 ^ n := by
  zify
  rw [wrap_cast]
  exact Int.emod_lt_of_pos v (by positivity)

section
variable {n : Nat} (hn : n ≤ 64)
include hn

theorem setWidth_ofInt (v : Int) : (BitVec.ofInt 64 v).setWidth n = BitVec.ofInt n v := by
  apply BitVec.eq_of_toNat_eq
  rw [BitVec.toNat_setWidth, BitVec.toNat_ofInt, BitVec.toNat_ofInt]
  exact (wrap_mod hn v).trans (Nat.mod_eq_of_lt (wrap_lt n v))

/-- A field is inserted bit by bit where its ones stand. -/
theorem ofNat_insert (old x : DWord) (p k : Nat) :
    BitVec.ofNat n ((old.toNat ^^^ (old.toNat &&& ((2 ^ k - 1) <<< p) % 2 ^ n)) ||| (x.toNat <<< p &&& ((2 ^ k - 1) <<< p) % 2 ^ n)) =
      ((old &&& ~~~(BitVec.ofNat 64 (2 ^ k - 1) <<< p)) ||| ((x <<< p) &&& (BitVec.ofNat 64 (2 ^ k - 1) <<< p))).setWidth n := by
  apply BitVec.eq_of_getLsbD_eq
  intro j hj
  have hj' : j < 64 := by omega
  simp only [BitVec.getLsbD_ofNat, BitVec.getLsbD_setWidth, BitVec.getLsbD_or, BitVec.getLsbD_and, BitVec.getLsbD_not,
    BitVec.getLsbD_shiftLeft, Nat.testBit_or, Nat.testBit_xor, Nat.testBit_and, Nat.testBit_mod_two_pow,
    Nat.testBit_shiftLeft, BitVec.testBit_toNat, hj, hj', decide_true, Bool.true_and]
  by_cases hp : p ≤ j
  · have hjp : j - p < 64 := by omega
    simp only [ge_iff_le, hp, hjp, Nat.not_lt.2 hp, decide_true, decide_false, Bool.true_and, Bool.not_false]
    cases old.getLsbD j <;> cases (2 ^ k - 1).testBit (j - p) <;> rfl
  · simp [hp, Nat.lt_of_not_le hp]

end

/-! ## Counts -/

/-- The elements of a range up to the first that fails. -/
theorem length_takeWhile_range {n k : Nat} {p : Nat → Bool} (hk : k ≤ n) (hp : ∀ i < k, p i = true)
    (hq : k < n → p k = false) : ((List.range n).takeWhile p).length = k := by
  obtain ⟨m, rfl⟩ := Nat.exists_eq_add_of_le hk
  rw [List.range_add, List.takeWhile_append_of_pos (by simpa using hp)]
  cases m with
  | zero => simp
  | succ m => simp [List.range_succ_eq_map, hq]

theorem clzCount_eq {n x : Nat} (h : x < 2 ^ n) :
    clzCount n x = ((List.range n).takeWhile (fun i => !x.testBit (n - 1 - i))).length := by
  symm
  unfold clzCount
  split
  next h0 => exact length_takeWhile_range le_rfl (by simp [h0]) (absurd · (lt_irrefl n))
  next h0 =>
    have hlog : Nat.log2 x < n := (Nat.log2_lt h0).2 h
    refine length_takeWhile_range (by omega) (fun i hi => ?_) fun _ => ?_
    · rw [Nat.testBit_lt_two_pow ((Nat.log2_lt h0).1 (by omega))]
      rfl
    · rw [show n - 1 - (n - 1 - Nat.log2 x) = Nat.log2 x by omega, Nat.testBit_log2 h0]
      rfl

theorem ctzCount_eq (n x : Nat) : ctzCount n x = ((List.range n).takeWhile (fun i => !x.testBit i)).length := by
  symm
  unfold ctzCount
  cases h : (List.range n).find? (fun i => x.testBit i) with
  | none =>
    refine length_takeWhile_range le_rfl (fun i hi => ?_) (absurd · (lt_irrefl n))
    simpa using List.find?_eq_none.1 h i (List.mem_range.2 hi)
  | some k =>
    obtain ⟨hk, hm, hlt⟩ := List.find?_range_eq_some.1 h
    exact length_takeWhile_range (List.mem_range.1 hm).le hlt fun _ => by simp [hk]

theorem popCount_eq (n x : Nat) : popCount n x = (List.range n).countP (fun i => x.testBit i) :=
  List.countP_eq_length_filter.symm

/-! ## Reversal -/

/-- Planes from the highest bit down are bits in reverse order. -/
theorem planeSum_eq_bitSum (n : Nat) (p : Nat → Bool) : planeSum n p = bitSum n (fun k => p (n - 1 - k)) := by
  induction n generalizing p with
  | zero => rfl
  | succ n ih =>
    have hrest : bitSum n (fun k => p (n - 1 - k + 1)) = bitSum n (fun k => p (n + 1 - 1 - k)) := by
      apply Nat.eq_of_testBit_eq
      intro j
      simp only [testBit_bitSum]
      by_cases hj : j < n
      · rw [show n - 1 - j + 1 = n + 1 - 1 - j by omega]
      · simp [hj]
    rw [planeSum_succ, bitSum_succ, ih, hrest, Nat.add_sub_cancel, Nat.sub_self]
    cases p 0 <;> simp

theorem ofNat_bitRev {n : Nat} (x : BitVec n) : BitVec.ofNat n (bitRev n x.toNat) = x.reverse := by
  rw [bitRev, foldl_planes, planeSum_eq_bitSum]
  apply BitVec.eq_of_getLsbD_eq
  intro j hj
  simp only [BitVec.getLsbD_ofNat, testBit_bitSum, hj, decide_true, Bool.true_and, BitVec.testBit_toNat, BitVec.getLsbD_reverse,
    BitVec.getMsbD_eq_getLsbD]

/-- Settles O6: the fields of the control word, inserted and read as numbers, and the counts bit by bit. -/
theorem bitFieldsCompletes : Obligations.BitFieldsCompletes := by
  unfold Obligations.BitFieldsCompletes
  intro d a b w wide n A D pos len field ones ctl put one
  have hA : ∀ x l, (A x l).toNat = x.nat (w == 1) a l := fun x l => x.toNat_extended _ a l
  have hD : ∀ x l, (D x l).toNat = x.nat (w == 1) d l := fun x l => x.toNat_extended _ d l
  have hn : n = bitsOfW w := rfl
  have hfield : ∀ x l, bfGet n (x.nat (w == 1) a l) (x.r32 b.toNat l).toNat = field x l := fun x l => by
    rw [← hA]
    exact bfGet_eq w _ _
  refine ⟨?bfxn, ?bfx, ?bfi, ?popc, ?clz, ?ctz, ?brev⟩
  case bfxn =>
    refine completes_field (fun _ => bitBin_single ..) fun x l => ?_
    exact (congrArg _ (hfield x l)).trans (BitVec.setWidth_ofNat_of_le (bitsOfW_le w) _).symm
  case bfx =>
    refine completes_field (fun s => bitBin_single _ d a b w true (fun x y => if bfLen (bitsOfW w) y = 0 then 0
      else wrap (bitsOfW w) (sgn (bfLen (bitsOfW w) y) (bfGet (bitsOfW w) x y))) s) fun x l => ?_
    change BitVec.ofNat _ (if len x l = 0 then 0 else wrap (bitsOfW w) (sgn (len x l) (bfGet n _ _))) = _
    rw [hfield, sgn_eq_bmod]
    split
    · simp
    · rw [ofNat_wrap, setWidth_ofInt (bitsOfW_le w)]
  case bfi =>
    refine completes_field (fun _ => rfl) fun x l => ?_
    rw [← hA, ← hD, bfPos_eq]
    exact ofNat_insert (bitsOfW_le w) ..
  case popc =>
    refine completes_writing (fun _ => bitUn_single ..) fun x => ?_
    simp only [popCount_eq, ← hA]
    rfl
  case clz =>
    refine completes_writing (fun _ => bitUn_single ..) fun x => ?_
    have hlt : ∀ l, (A x l).toNat < 2 ^ bitsOfW w := fun l => by
      rw [hA]
      exact x.nat_lt w a l
    simp only [← hA, clzCount_eq (hlt _)]
    rfl
  case ctz =>
    refine completes_writing (fun _ => bitUn_single ..) fun x => ?_
    simp only [ctzCount_eq, ← hA]
    rfl
  case brev =>
    exact completes_single (f := bitRev (bitsOfW w)) (F := fun _ x => x.reverse) (fun _ => rfl)
      fun _ h x => by subst h; exact ofNat_bitRev x

end Sys2Proof.Machine

/-!
Integer compares, lane exchange and votes (O7, O8; 04 R108-R110).
-/
namespace Sys2Proof.Machine

/-! ## Masks of lanes -/

theorem mem_lanesOf {m : Word} {i : Nat} : i ∈ lanesOf m ↔ i < 32 ∧ lane m i = true := by
  simp [lanesOf]

theorem getLsbD_laneBit {i j : Nat} (hj : j < 32) : (laneBit i).getLsbD j = decide (i = j) := by
  rw [laneBit, BitVec.getLsbD_ofNat, Nat.testBit_two_pow, decide_eq_true hj, Bool.true_and]

theorem getLsbD_foldl_laneBit {j : Nat} (hj : j < 32) (l : List Nat) (m : Word) :
    (l.foldl (fun m i => m ||| laneBit i) m).getLsbD j = (m.getLsbD j || l.contains j) := by
  induction l generalizing m with
  | nil => simp
  | cons i l ih =>
    rw [List.foldl_cons, ih, BitVec.getLsbD_or, getLsbD_laneBit hj, Bool.or_assoc, List.contains_cons]
    congr 2
    rw [Bool.eq_iff_iff, decide_eq_true_iff, beq_iff_eq, eq_comm]

/-- A mask of lanes has the bits of its lanes. -/
theorem getLsbD_maskOf {j : Nat} (hj : j < 32) (l : List Nat) : (maskOf l).getLsbD j = l.contains j := by
  rw [maskOf, getLsbD_foldl_laneBit hj]
  simp

theorem getLsbD_maskWhere {j : Nat} (hj : j < 32) (lanes : List Nat) (p : Nat → Bool) :
    (maskWhere lanes p).getLsbD j = (lanes.contains j && p j) := by
  rw [maskWhere, getLsbD_maskOf hj, Bool.eq_iff_iff]
  simp

theorem getLsbD_mergeMask (old act new : Word) (l : Nat) :
    (mergeMask old act new).getLsbD l = if act.getLsbD l then new.getLsbD l else old.getLsbD l := by
  by_cases hl : l < 32
  · rw [mergeMask, BitVec.getLsbD_or, BitVec.getLsbD_and, BitVec.getLsbD_and, BitVec.getLsbD_not, decide_eq_true hl]
    cases act.getLsbD l <;> simp
  · simp [BitVec.getLsbD_of_ge _ l (Nat.le_of_not_lt hl)]

/-! ## Relations -/

/-- Every field of an instruction that issues holds a listed value (02 R50). -/
theorem Clear.formed {s : State} {i : Instr} {sp : Spec} {c : Ctx} (h : Clear s i sp c) : wellFormed i = true := by
  cases hw : wellFormed i with
  | true => rfl
  | false => exact absurd (h.legal.symm.trans (staticRefusal_malformed s c sp false hw)) nofun

/-- An instruction completes as its body does where its fields hold listed values. -/
theorem completes_of_formed {i : Instr} {sp : Spec} {body : Ctx → State → Res} {f : Effect}
    (he : ∀ s, exec i s = issue s i sp body)
    (hb : wellFormed i = true → ∀ x s, body x s = .done (f x s).1 (f x s).2.1 (f x s).2.2) : Completes i sp f :=
  fun s c h => completes_of he (hb h.formed) s c h

theorem intCond_eq {n : Nat} (h : n ≤ 5) (u v : Int) : intCond n u v =
    [decide (u = v), decide (u ≠ v), decide (u < v), decide (u ≤ v), decide (u > v), decide (u ≥ v)].getD n false := by
  interval_cases n
  · exact beq_eq_decide ..
  · change (u != v) = decide (u ≠ v)
    rw [bne, beq_eq_decide, decide_not]
  all_goals rfl

theorem cmpi_wellFormed {cond : BitVec 4} {k : BitVec 3} {a : BitVec 7} {imm : BitVec 11}
    (h : wellFormed (.cmpi cond k a imm) = true) : cond.toNat % 8 ≤ 5 := by
  simp only [wellFormed, Bool.or_eq_true, Bool.and_eq_true, decide_eq_true_eq, BitVec.le_def] at h
  change cond.toNat ≤ 5 ∨ 8 ≤ cond.toNat ∧ cond.toNat ≤ 13 at h
  omega

/-- Settles O7: the relation that the condition names, over the operands as the type or the condition reads them. -/
theorem comparesComplete : Obligations.ComparesComplete := by
  unfold Obligations.ComparesComplete
  intro cond k ty a b imm rel bits
  refine ⟨?cmp, ?cmpi, getLsbD_mergeMask, fun lanes p l hl => getLsbD_maskWhere hl lanes p⟩
  case cmp =>
    refine completes_of_formed (fun _ => rfl) fun h x s => ?_
    have hc : cond.toNat ≤ 5 := by simpa [wellFormed, BitVec.le_def] using h
    simp only [intCond_eq hc]
    rfl
  case cmpi =>
    refine completes_of_formed (fun _ => rfl) fun h x s => ?_
    simp only [intCond_eq (cmpi_wellFormed h)]
    by_cases hs : cond.toNat < 8
    · have himm : asInt 32 true (imm.signExtend 32).toNat = imm.toInt :=
        (sgn_toNat _).trans (BitVec.toInt_signExtend_of_le (by decide))
      have ha : ∀ l, asInt 32 true (x.nat false a l) = (x.r32 a.toNat l).toInt := fun l => sgn_toNat _
      simp only [hs, decide_true, Nat.mod_eq_of_lt hs, himm, ha]
      rfl
    · have himm : asInt 32 false (imm.signExtend 32).toNat = (imm.signExtend 32).toNat :=
        congrArg Nat.cast (Nat.mod_eq_of_lt (imm.signExtend 32).isLt)
      have ha : ∀ l, asInt 32 false (x.nat false a l) = (x.r32 a.toNat l).toNat := fun l =>
        congrArg Nat.cast (Nat.mod_eq_of_lt (x.r32 a.toNat l).isLt)
      have hc : cond.toNat % 8 = cond.toNat - 8 := by
        have := cond.isLt
        omega
      simp only [hs, decide_false, hc, himm, ha]
      rfl

/-! ## Lane exchange (04 R109) -/

/-- A lane's source as a number that may lie outside the warp. -/
theorem completes_shuffle {i : Instr} {d a b : BitVec 7} {f : Nat → Nat → Option Nat} {src : Nat → Nat → Int}
    (he : ∀ s, exec i s = shuffle i d a b f s)
    (hf : ∀ l n, f l n = if 0 ≤ src l n then some (src l n).toNat else none) :
    Completes i (plain .warp [.dst d.toNat, .src a.toNat, .src b.toNat]) (writing fun x => x.lanes.flatMap (fun l =>
      let m := src l (x.r32 b.toNat l).toNat
      x.w32 d.toNat l false (if 0 ≤ m ∧ m < 32 ∧ m.toNat ∈ lanesOf x.act then x.r32 a.toNat m.toNat else x.r32 a.toNat l))) := by
  refine completes_writing he fun x => ?_
  congr 1
  funext l
  simp only [Ctx.nat_narrow, hf, mem_lanesOf]
  generalize src l (x.r32 b.toNat l).toNat = m
  by_cases hm : 0 ≤ m
  · have h32 : m.toNat < 32 ↔ m < 32 := by omega
    simp only [hm, if_true, true_and, h32, ← and_assoc, and_self, apply_ite (x.r32 a.toNat)]
  · simp [hm]

/-- Settles O8: a lane that is out of range or not active gives way, whichever form names it. -/
theorem laneExchangeCompletes : Obligations.LaneExchangeCompletes := by
  unfold Obligations.LaneExchangeCompletes
  intro d a b k sp from_ vote
  refine ⟨?idx, ?up, ?dn, ?xor, ?any, ?all, ?bal⟩
  case idx => exact completes_shuffle (f := fun _ n => some n) (src := fun _ n => n) (fun _ => rfl) fun l n => by simp
  case up =>
    refine completes_shuffle (f := fun l n => if n ≤ l then some (l - n) else none) (src := fun l n => (l : Int) - n)
      (fun _ => rfl) fun l n => ?_
    simp
  case dn =>
    exact completes_shuffle (f := fun l n => some (l + n)) (src := fun l n => (l : Int) + n) (fun _ => rfl) fun l n => by
      rw [if_pos (by positivity)]
      rfl
  case xor =>
    exact completes_shuffle (f := fun l n => some (l ^^^ (n % 32))) (src := fun l n => ((l ^^^ (n % 32) : Nat) : Int))
      (fun _ => rfl) fun l n => by simp
  case any =>
    refine completes_writing (fun _ => rfl) fun x => ?_
    simp only [ne_eq, ite_not]
  case all => exact completes_writing (fun _ => rfl) fun _ => rfl
  case bal => exact completes_writing (fun _ => rfl) fun _ => rfl

end Sys2Proof.Machine

/-!
Special registers, windows and FMT (O19; 04 R85-R88, 05 R114, R115, 06 R154, R156).
-/
namespace Sys2Proof.Machine

/-! ## Instructions that wait for the thread's earlier ones -/

theorem settled_none {x : Ctx} {s : State} {r : Res} (h : x.th.pends = []) : settled x s r = r := by
  simp [settled, h]

theorem settled_pending {x : Ctx} {s : State} {r : Res} (h : x.th.pends ≠ []) :
    settled x s r = .wait .scoreboard x.stage s := by
  simp [settled, h]

theorem fmtLegal_iff (v : Word) : fmtLegal v = true ↔
    (v.extractLsb' 22 2).toNat ≤ 1 ∧ v.extractLsb' 19 3 ≠ 0 ∧ v.extractLsb' 16 3 ≠ 0 ∧
      (v.extractLsb' 16 3).toNat ≤ (v.extractLsb' 19 3).toNat := by
  have hb : v.extractLsb' 19 3 ≠ 0 ↔ fmtBfmt v ≠ 0 := not_congr BitVec.toNat_inj.symm
  have hp : v.extractLsb' 16 3 ≠ 0 ↔ fmtPcnt v ≠ 0 := not_congr BitVec.toNat_inj.symm
  rw [hb, hp]
  simp only [fmtLegal, Bool.and_eq_true, decide_eq_true_eq, bne_iff_ne, and_assoc]
  rfl

theorem msb_eq_false_iff (k : BitVec 11) : k.msb = false ↔ k.toNat < 1024 := by
  rw [BitVec.msb_eq_false_iff_two_mul_lt]
  omega

/-- A window base inside the allotment is not refused (R85). -/
theorem win_allotted {k : BitVec 11} {allot : Nat} (hk : k.toNat < 1024) (ha : 16 * k.toNat < allot) :
    ¬ (k.msb = true ∨ allot ≤ 16 * k.toNat) := by
  rw [(msb_eq_false_iff k).2 hk]
  simpa using ha

/-- What a special register holds does not rest on the count of the instruction that reads it. -/
theorem special_countIssue (s : State) (c : Ctx) : special (s.countIssue c) = special s := by
  obtain ⟨cs, hcs⟩ : ∃ cs, s.countIssue c = { s with cores := cs } := s.pmcCount_eq _ _ _
  rw [hcs]
  rfl

/-- Settles O19: what each instruction does is its body's; what R88 numbers is read off the thread, the warp and the block. -/
theorem threadRegistersComplete : Obligations.ThreadRegistersComplete := by
  unfold Obligations.ThreadRegistersComplete
  refine ⟨fun d a b n k w y => ?instrs, fun s c l => ?specials⟩
  case instrs =>
    refine ⟨?rds, ?win, ?winBeside, ?winRefused, ?swin, ?yset, ?ysetWaits, ?setf, ?setfRefused, ?setfWaits, ?getf, ?flags,
      ?getfWaits, ?flagsWaits⟩
    case rds =>
      intro s c h
      have he : exec (.rds d n) s = issueRegs s (.rds d n) (plain .both [.dst d.toNat]) (fun x =>
        x.lanes.flatMap (fun l => x.w32 d.toNat l false (special s x n.toNat l))) := rfl
      rw [he, issueRegs_clear h, ← special_countIssue s c]
    case win =>
      refine completesWhen_of (fun _ => rfl) fun x s _ h => ?_
      obtain ⟨hk, ha, hs⟩ := h
      have hboth : (x.w.split && !x.th.trap) = false := by rcases hs with hs | hs <;> simp [hs]
      simp only [if_neg (win_allotted hk ha), hboth]
      rfl
    case winBeside =>
      refine completesWhen_of (fun _ => rfl) fun x s _ h => ?_
      obtain ⟨hk, ha, hs, ht⟩ := h
      simp only [if_neg (win_allotted hk ha), hs, ht]
      rfl
    case winRefused => exact refusedWhen_of (fun _ => rfl) fun x s _ h => if_pos (.inr h)
    case swin => exact completes_of (fun _ => rfl) fun _ _ => rfl
    case yset => exact completesWhen_of (fun _ => rfl) fun x s _ h => if_pos h
    case ysetWaits => exact waitsWhen_of (fun _ => rfl) fun x s _ h => if_neg (Bool.eq_false_iff.1 h)
    case setf =>
      refine completesWhen_of (fun _ => rfl) fun x s _ h => ?_
      obtain ⟨hp, hl⟩ := h
      exact (settled_none hp).trans (if_pos ((fmtLegal_iff _).2 hl))
    case setfRefused =>
      refine refusedWhen_of (fun _ => rfl) fun x s _ h => ?_
      obtain ⟨hp, hl⟩ := h
      exact (settled_none hp).trans (if_neg (mt (fmtLegal_iff _).1 hl))
    case setfWaits => exact waitsWhen_of (fun _ => rfl) fun x s _ h => settled_pending h
    case getf => exact completesWhen_of (fun _ => rfl) fun x s _ h => settled_none h
    case flags => exact completesWhen_of (fun _ => rfl) fun x s _ h => settled_none h
    case getfWaits => exact waitsWhen_of (fun _ => rfl) fun x s _ h => settled_pending h
    case flagsWaits => exact waitsWhen_of (fun _ => rfl) fun x s _ h => settled_pending h
  case specials =>
    have hf : c.front = true ↔ c.t.warp = 32 := Ctx.front_iff
    refine ⟨rfl, rfl, rfl, rfl, rfl, rfl, rfl, ?quarter, rfl, rfl, rfl, ?role, ?frontWindow, ?window, ?allotted, rfl, rfl⟩
    case quarter =>
      change (if c.front then 4 else BitVec.ofNat 32 (c.t.warp % 4)) = _
      simp only [hf]
      split <;> rfl
    case role =>
      change (if c.front then 3 else BitVec.ofNat 32 _) = _
      simp only [hf]
      split
      · rfl
      · cases c.w.role <;> rfl
    case frontWindow =>
      intro hw
      change (if c.front then BitVec.ofNat 32 (if c.front then c.b.front.swb else c.w.wb.toNat) else _) = _
      simp only [hf.2 hw, if_true]
    case window =>
      intro w hw hb
      change (if c.front then _ else (((s.blk? c.t.blk).bind (fun b => b.warps[c.t.warp]?)).map (fun w => w.wb.setWidth 32)).getD 0) = _
      rw [hb, if_neg (mt hf.1 hw)]
      rfl
    case allotted =>
      change (if c.front then 192 else BitVec.ofNat 32 c.w.allot) = _
      simp only [hf]
      split <;> rfl

end Sys2Proof.Machine

/-!
Loads of scratch and exchange space (O23; 04 R82, 09 R215, R226).
-/
namespace Sys2Proof.Machine

section
variable {s : State} {c : Ctx} {g : Region} {accs : List Acc} (hg : 2 ≤ g.space.toNat)
include hg

theorem Region.cached_of_scratch : g.cached = false := by
  simp [Region.cached]
  omega

theorem State.barOf_scratch {b : Block} {o n : Nat} {acc : Access} {priv : Bool}
    (h : b.absentIn (b.scratchOff g.space.toNat (g.addr o)) n = false) : s.barOf b g o n acc priv = .none := by
  unfold State.barOf
  simp only [if_pos hg, h]
  rfl

/-- A scratch access whose lines are present crosses no link. -/
theorem downAccs_scratch {acc : Access}
    (h : ∀ a ∈ accs, c.b.absentIn (c.b.scratchOff g.space.toNat (g.addr a.2.1)) a.2.2 = false) :
    downAccs c s g acc accs = [] := by
  simp only [downAccs, barsOf, List.map_eq_nil_iff, List.filter_eq_nil_iff, List.mem_map]
  rintro _ ⟨a, ha, rfl⟩
  rw [State.barOf_scratch hg (h a ha)]
  exact Bool.false_ne_true

/-- It asks nothing of a home. -/
theorem State.farOf_scratch (x : Acc) : s.farOf c g x = none := by
  refine if_pos fun h => ?_
  rw [h] at hg
  exact absurd hg (by decide)

/-- Where the sectors pass their checks and are not poisoned, a read answers the scratch bytes and changes nothing. -/
theorem State.readAt_scratch {bk o n : Nat} {b b' : Block} {acc : Access} {priv fill : Bool} {who : Who} {pc : BitVec 56}
    (hb : s.blk? bk = some b')
    (h : ∀ x ∈ sectorsOf (b'.scratchOff g.space.toNat (g.addr o)) n, x ∉ b'.spoison ∧ kget b'.ssums x = none) :
    s.readAt bk b g o n acc priv fill who pc = (cread b'.scratch (b'.scratchOff g.space.toNat (g.addr o)) n, false, s) := by
  have hbad : b'.scratchFailing (b'.scratchOff g.space.toNat (g.addr o)) n = [] := by
    rw [Block.scratchFailing, List.filter_eq_nil_iff]
    intro x hx
    simp [(h x hx).2, checkFails]
  have hpoison : (sectorsOf (b'.scratchOff g.space.toNat (g.addr o)) n).any b'.spoison.contains = false := by
    rw [List.any_eq_false]
    intro x hx
    simp [(h x hx).1]
  unfold State.readAt
  simp only [if_pos hg, hb, Option.getD_some, hbad, hpoison]
  rfl

/-- A load reads its accesses one after another, and each answers the scratch bytes. -/
theorem readAll_scratch {b : Block} (id : Nat) (fill : Bool) (hb : s.blk? c.t.blk = some b)
    (h : ∀ a ∈ accs, ∀ x ∈ sectorsOf (b.scratchOff g.space.toNat (g.addr a.2.1)) a.2.2, x ∉ b.spoison ∧ kget b.ssums x = none) :
    readAll c s id g fill accs =
      (accs.map (fun a => (a, cread b.scratch (b.scratchOff g.space.toNat (g.addr a.2.1)) a.2.2, false)), s) := by
  have hfold : ∀ (l : List Acc) (got : List (Acc × List Byte × Bool)), l ⊆ accs →
      l.foldl (fun (x : List (Acc × List Byte × Bool) × State) a =>
        let (bs, p, s) := x.2.readAt c.t.blk c.b g a.2.1 a.2.2 .read c.priv fill (some (c.t, lanesAt g accs, .pend id)) c.th.pc
        (x.1 ++ [(a, bs, p)], s)) (got, s) =
      (got ++ l.map (fun a => (a, cread b.scratch (b.scratchOff g.space.toNat (g.addr a.2.1)) a.2.2, false)), s) := by
    intro l
    induction l with
    | nil => intro got _; simp
    | cons a l ih =>
      intro got hl
      rw [List.cons_subset] at hl
      rw [List.foldl_cons, State.readAt_scratch hg hb (h a hl.1)]
      exact (ih _ hl.2).trans (by simp)
  exact hfold accs [] (List.Subset.refl accs)

end

/-- The block of a thread that owes registers is as before in all that a scratch access looks at. -/
theorem State.owe_blk {s : State} {c : Ctx} (regs : List RegId) (g : Region) (hb : s.blk? c.t.blk = some c.b) :
    ∃ b, (s.owe c regs g).2.blk? c.t.blk = some b ∧ b.scratch = c.b.scratch ∧ b.spoison = c.b.spoison ∧
      b.ssums = c.b.ssums ∧ b.scratchOff = c.b.scratchOff := by
  refine ⟨_, (State.blk?_updBlk_self _ _ _).trans (congrArg _ hb), by simp, by simp, by simp, ?_⟩
  funext sp o
  simp [Block.scratchOff]

/-- No line of L1 holds what is not cached. -/
theorem hitsFirst_uncached {c : Ctx} {s : State} {g : Region} {accs : List Acc} (h : g.cached = false) :
    hitsFirst c s g accs = ([], accs) := by
  simp [hitsFirst, h, List.partition_eq_filter_filter]

/-- What a find by access answers among the results of all. -/
theorem find?_map_access {f : Acc → List Byte × Bool} {accs : List Acc} {a : Acc} (ha : a ∈ accs) :
    (accs.map (fun a => (a, f a))).find? (fun x => x.1 == a) = some (a, f a) := by
  induction accs with
  | nil => cases ha
  | cons b l ih =>
    by_cases h : b = a
    · simp [h]
    · have ha' : a ∈ l := (List.mem_cons.1 ha).resolve_left (Ne.symm h)
      simp [h, ih ha']

/-- Settles O23: nothing stands against the accesses, and each answers the block's own bytes. -/
theorem scratchLoadDelivers : Obligations.ScratchLoadDelivers := by
  unfold Obligations.ScratchLoadDelivers
  intro s c g fill regs accs result at_ bytes o hb hg hsec hpres
  obtain ⟨b, hob, hs, hp, hsum, hoff⟩ := s.owe_blk regs g hb
  have hread : readAll c o.2 o.1 g fill accs = (accs.map (fun a => (a, cread c.b.scratch (at_ a) a.2.2, false)), o.2) := by
    rw [readAll_scratch hg o.1 fill hob (by rw [hp, hsum, hoff]; exact hsec), hs, hoff]
  have hload : s.loadNow c g fill regs accs result =
      o.2.post (.loadDataReturn c.t o.1 (c.lanes.flatMap (fun l => result l (bytes l)))) := by
    have hbytes : ∀ l, (accs.filter (fun a => a.1 == l)).flatMap (fun a =>
        (((accs.map (fun a => (a, cread c.b.scratch (at_ a) a.2.2, false))).find? (fun x => x.1 == a)).map
          (fun x => x.2.1)).getD []) = bytes l := by
      intro l
      refine List.flatMap_congr fun a ha => ?_
      rw [find?_map_access (f := fun a => (cread c.b.scratch (at_ a) a.2.2, false)) (List.mem_of_mem_filter ha)]
      rfl
    have hdown : downAccs c s g .read accs = [] := downAccs_scratch hg hpres
    have hfar : accs.filterMap (s.farOf c g) = [] := List.filterMap_eq_nil_iff.2 fun x _ => State.farOf_scratch hg x
    have hcached : g.cached = false := Region.cached_of_scratch hg
    unfold State.loadNow
    simp only [hdown, List.any_nil, Bool.not_false, List.filter_true, hitsFirst_uncached hcached, hcached, Bool.false_eq_true,
      if_false, hfar, List.isEmpty_nil, if_true, List.nil_append]
    simp only [show s.owe c regs g = o from rfl, hread, List.filterMap_map, Function.comp_def, Bool.false_eq_true, if_false,
      List.filterMap_none, List.any_nil, Bool.not_false, Bool.and_self, List.filter_true]
    rw [show (fun l => result l _) = fun l => result l (bytes l) from funext fun l => congrArg (result l) (hbytes l)]
    rfl
  refine ⟨hload, fun k => ?_⟩
  rw [hload]
  rfl

end Sys2Proof.Machine

/-!
The steps of the memory side (O47).
-/
namespace Sys2Proof.Machine

/-! ## LOAD_DATA_RETURN (04 R82, 06 R145) -/

/-- A thread that waits for data goes on once it has come. -/
def State.woken (s : State) (t : ThreadRef) : State :=
  match s.thread? t with
  | none => s
  | some th =>
    match th.hold with
    | some h =>
      match h.wait with
      | .scoreboard => if h.ins.isNone then s.unhold t else s
      | .pathEnd => if th.pends.isEmpty then s.endPath t 200 else s
      | .otherArm => s.mergeArms t.blk t.warp
      | _ => s
    | none => s

/-- The registers are written and owed no more, by either arm of the warp. -/
def State.returned (s : State) (t : ThreadRef) (id : Nat) (ws : List RegWrite) : State :=
  let paid := fun (y : Thread) => { y with pends := y.pends.filter (fun p => p.id != id) }
  ((s.applyWrites t ws).updThread t paid).updThread (otherArm t) paid

/-- Data of an operation with no register of a broken promise reach their registers as they are. -/
theorem State.mixReturn_firm {s : State} {t : ThreadRef} {id : Nat} {ws : List RegWrite}
    (h : ∀ y, s.thread? t = some y → ∀ p ∈ y.pends, p.id = id → p.loose = []) : s.mixReturn t id ws = (ws, s) := by
  unfold State.mixReturn
  split
  · rfl
  next y hy =>
    have hloose : (y.pends.filter (fun p => p.id == id)).flatMap (·.loose) = [] := by
      rw [List.flatMap_eq_nil_iff]
      intro p hp
      obtain ⟨hp, hid⟩ := List.mem_filter.1 hp
      exact h y hy p hp (beq_iff_eq.1 hid)
    simp [hloose, State.mixInto]

theorem State.dataReturn_firm {s : State} {t : ThreadRef} {id : Nat} {ws : List RegWrite}
    (h : ∀ y, s.thread? t = some y → ∀ p ∈ y.pends, p.id = id → p.loose = []) :
    s.dataReturn t id ws = if t.warp = 32 then (s.returned t id ws).woken t
      else ((s.returned t id ws).woken t).woken (otherArm t) := by
  unfold State.dataReturn
  rw [State.mixReturn_firm h]
  rfl

theorem State.woken_unheld {s : State} {t : ThreadRef} (h : ∀ y, s.thread? t = some y → y.hold = none) : s.woken t = s := by
  unfold State.woken
  cases hy : s.thread? t with
  | none => rfl
  | some y => simp [h y hy]

theorem State.woken_scoreboard {s : State} {t : ThreadRef} {th : Thread} {hd : Hold} (ht : s.thread? t = some th)
    (hh : th.hold = some hd) (hw : hd.wait = .scoreboard) (hi : hd.ins = none) : s.woken t = s.unhold t := by
  simp [State.woken, ht, hh, hw, hi]

/-! ## PAGE_WALK (11 R285) -/

theorem State.walkHome_homesOnly (s : State) (die va l4 : Nat) : s.HomesOnly (s.walkHome die va l4) := by
  unfold State.walkHome
  generalize s.walkKeys die va 4 l4 = ks
  induction ks generalizing s with
  | nil => exact .refl s
  | cons k ks ih => exact ((s.touch_homesOnly k).trans ((s.touch k).cacheLine_homesOnly k false)).trans (ih _)

theorem State.tlbFill_clock (s : State) (cluster : Nat) (e : TlbEntry) : (s.tlbFill cluster e).clock = s.clock := by
  unfold State.tlbFill
  dsimp only
  split
  · split
    next v u h => exact (State.pickOne_homesOnly h).clock
    next u h => exact (State.pickOne_homesOnly h).clock
  · rfl

/-! ## Heat (14 R367) -/

theorem State.md_updMd_self {s : State} {m : Nat} (h : m < s.mds.length) (f : Md → Md) :
    (s.updMd m f).md m = f (s.md m) := by
  by_cases h16 : m = 16
  · simp [State.md, State.updMd, h16]
  · simp only [State.md, State.updMd, if_neg h16, List.getD_eq_getElem?_getD, lset_get, if_true, List.getElem?_eq_getElem h,
      Option.map_some, Option.getD_some]

/-- What a change of a die leaves, it leaves whether there is such a die or not. -/
theorem State.md_updMd_kept {α : Type} {p : Md → α} {f : Md → Md} (hp : ∀ d, p (f d) = p d) (s : State) (m : Nat) :
    p ((s.updMd m f).md m) = p (s.md m) := by
  by_cases h16 : m = 16
  · simp [State.md, State.updMd, h16, hp]
  · simp only [State.md, State.updMd, if_neg h16, List.getD_eq_getElem?_getD, lset_get, if_true]
    cases s.mds[m]? with
    | none => rfl
    | some d => exact hp d

theorem kget_eq_none_of_not_mem {α : Type} {m : KMap α} {j : Nat} (h : j ∉ m.map (·.1)) : kget m j = none := by
  induction m with
  | nil => rfl
  | cons e r ih =>
    rw [List.map_cons, List.mem_cons, not_or] at h
    exact (if_neg (Ne.symm h.1)).trans (ih h.2)

theorem cget_cons {w : Nat} (a : Nat) (x : BitVec w) (r : Cells w) (j : Nat) :
    cget ((a, x) :: r) j = if a = j then x else cget r j := by
  simp only [cget, kget]
  split <;> rfl

/-- An array of which every value changes, and which lists no 0. -/
theorem cget_map_filter {w : Nat} {g : BitVec w → BitVec w} (hg : g 0 = 0) {m : Cells w} (hm : (m.map (·.1)).Nodup) (j : Nat) :
    cget ((m.map (fun x => (x.1, g x.2))).filter (fun x => x.2 != 0)) j = g (cget m j) := by
  induction m with
  | nil => exact hg.symm
  | cons e r ih =>
    obtain ⟨a, x⟩ := e
    rw [List.map_cons, List.nodup_cons] at hm
    obtain ⟨ha, hr⟩ := hm
    rw [List.map_cons, List.filter_cons, cget_cons]
    by_cases hx : g x = 0
    · rw [if_neg (by simp [hx]), ih hr]
      by_cases hj : a = j
      · subst hj
        rw [if_pos rfl, hx, cget, kget_eq_none_of_not_mem ha]
        exact hg
      · rw [if_neg hj]
    · rw [if_pos (by simpa using hx), cget_cons, ih hr]
      exact (apply_ite g _ _ _).symm

/-! ## Chunk descriptors (11 R290, R291) -/

/-- What a descriptor holds, field by field. -/
def Chunk.ofRaw (desc : BitVec 512) : Chunk :=
  { raw := desc, enable := (Config.chunkFields desc).1, base := (Config.chunkFields desc).2.1,
    sectors := (Config.chunkFields desc).2.2.1, reserve := (Config.chunkFields desc).2.2.2 }

/-- A memory-side die that took a new descriptor of chunk `k`, before what OVERFLOW held for it is tried again. -/
def Md.described (k : Nat) (desc : BitVec 512) (d : Md) : Md :=
  { d with
    chunks := kset d.chunks k (Chunk.ofRaw desc)
    overflow := d.overflow.filter (fun y => chunkOf y.1 != k) }

theorem State.advanceAll_quiet {s : State} {n : Nat} (he : (s.place n).early = []) (hm : (s.place n).marks = []) :
    s.advanceAll n = s := by
  simp [State.advanceAll, State.advance, he, hm]

/-- Where nothing is held and nothing waits, nothing is tried again. -/
theorem State.retryHeld_nothing {s : State} {m : Nat} (hs : (s.md m).stalled = []) (he : (s.place m).early = [])
    (hm : (s.place m).marks = []) : s.retryHeld m [] = s := by
  have hupd : s.updMd m (fun d => { d with stalled := d.stalled.filter (fun _ => true) }) = s := by
    simp only [List.filter_true]
    unfold State.updMd
    split
    · rfl
    · exact congrArg (fun l => { s with mds := l }) (lset_id s.mds m)
  unfold State.retryHeld
  simp only [List.foldl_nil, hs, List.filter_nil, List.any_nil, Bool.not_false, hupd]
  exact State.advanceAll_quiet he hm

/-- Settles O47: each step is its agent's own, read off the step that is due; what a walk, a returned load, a wake or a
retry leaves is what the lemmas above say. -/
theorem memoryStepsComplete : Obligations.MemoryStepsComplete := by
  unfold Obligations.MemoryStepsComplete
  intro s t id core d m k n gen ws w e c b here r hist th hd leaf desc rep goes paid walked returned alone firm
  refine ⟨?dataRead, ?dataWaited, ?walkCopy, ?walkLog, ?walkThread, ?replay, ?landing, ?delivery, ?repeated, ?served, ?bounced,
    ?unsliced, ?heatSample, ?heatHalving, ?heatClr, ?dirty, ?chunk, ?scPerform, ?scTicket, ?windowMark⟩
  case dataRead =>
    intro hdue hfirm hth hal hhold
    change execLoadDataReturn s = _
    rw [execLoadDataReturn, hdue]
    refine congrArg Host.Outcome.next ((State.dataReturn_firm hfirm).trans ?_)
    have hself : returned.woken t = returned := State.woken_unheld fun y hy => Option.some.inj (hth.symm.trans hy) ▸ hhold
    split
    · exact hself
    next hw => rw [show (s.returned t id ws).woken t = returned from hself, State.woken_unheld (hal.resolve_left hw)]
  case dataWaited =>
    intro hdue hfirm hth hal hhold hwait hins
    change execLoadDataReturn s = _
    rw [execLoadDataReturn, hdue]
    refine congrArg Host.Outcome.next ((State.dataReturn_firm hfirm).trans ?_)
    have hself : (s.returned t id ws).woken t = returned.unhold t := State.woken_scoreboard hth hhold hwait hins
    rw [hself]
    split
    · rfl
    next hw =>
      refine State.woken_unheld fun y hy => hal.resolve_left hw y ?_
      rwa [State.unhold, State.thread?_updThread_otherArm _ hw] at hy
  case walkCopy =>
    intro hdue hwho hheld hwalk
    change execPageWalk s = _
    simp only [execPageWalk, hdue, hheld, hwalk, hwho]
    rfl
  case walkLog =>
    intro hdue hwho hheld hwalk
    change execPageWalk s = _
    simp only [execPageWalk, hdue, hheld, hwalk, hwho]
    rfl
  case walkThread =>
    intro hdue hwho hheld hwalk
    have hclock : ((s.walkHome (w.cluster / 16) w.va w.l4).tlbFill w.cluster leaf).clock = s.clock :=
      (State.tlbFill_clock _ _ _).trans (s.walkHome_homesOnly _ _ _).clock
    change execPageWalk s = _
    simp only [execPageWalk, hdue, hheld, hwalk, hwho, hclock]
    rfl
  case replay =>
    intro hdue hfind hwaits hbehind hearly hblk
    change execSideLogReplay s = _
    simp only [execSideLogReplay, hdue, hfind, hwaits, hbehind, hearly, hblk]
    rfl
  case landing =>
    intro hdue hfind hblk hpaused hrlst hdupd
    change execCopyLanding s = _
    -- The last arm of the copy's match: simp takes `hrlst` and `hdupd` from the context.
    simp only [execCopyLanding, hdue, hfind, hblk, hpaused]
    rfl
  case delivery =>
    intro hdue hrep
    change execRequestDelivery s = _
    simp only [execRequestDelivery, hdue, hrep]
  case repeated =>
    intro hdue hrep
    change execRequestDelivery s = _
    simp only [execRequestDelivery, hdue, hrep]
  case served =>
    intro hdue h
    change execSliceBounce s = _
    have hw : s.wrongSlice d n gen = false := by
      rcases h with h | h <;> simp [State.wrongSlice, h]
    simp only [execSliceBounce, hdue, hw]
    rfl
  case bounced =>
    intro hdue hgen h8 hslice
    change execSliceBounce s = _
    have hw : s.wrongSlice d n gen = true := by simp [State.wrongSlice, hgen, h8, hslice]
    simp only [execSliceBounce, hdue, hw]
    rfl
  case unsliced =>
    intro hdue h8
    change execSliceBounce s = _
    have hw : s.wrongSlice d n gen = false := by simp [State.wrongSlice, h8]
    simp only [execSliceBounce, hdue, hw]
    rfl
  case heatSample =>
    intro hdue hm hl
    refine ⟨_, by change execHeatSample s = _; simp only [execHeatSample, hdue]; rfl, ?_, fun j hj => ?_⟩
    all_goals rw [State.md_updMd_self (by omega), cget_cset]
    · rw [if_pos rfl, BitVec.toNat_ofNat]
      exact Nat.mod_eq_of_lt (by omega)
    · rw [if_neg (Ne.symm hj)]
  case heatHalving =>
    intro hdue hm hl hheat hnodup
    refine ⟨_, by change execHeatHalving s = _; simp only [execHeatHalving, hdue]; rfl, fun j => ?_⟩
    rw [State.md_updMd_self (by omega), hheat]
    exact cget_map_filter (g := fun x => x >>> 1) rfl hnodup j
  case heatClr =>
    intro hdue hm hl
    refine ⟨_, by change execHeatctlClr s = _; simp only [execHeatctlClr, hdue]; rfl, fun j => ?_, ?_⟩
    all_goals rw [State.md_updMd_self (by omega)]
    rfl
  case dirty =>
    intro hdue hphase
    change execDirtyBitmapReadClear s = _
    simp only [execDirtyBitmapReadClear, hdue, hphase]
    rfl
  case chunk =>
    intro hdue hphase hover hstall hearly hmarks
    have hexec : exec .chunkDescriptorWrite s = .next ((s.updMd m (Md.described k desc)).retryHeld m []) := by
      change execChunkDescriptorWrite s = _
      simp only [execChunkDescriptorWrite, hdue, hphase, hover]
      rfl
    have hplace : (s.updMd m (Md.described k desc)).place m = s.place m := by simp only [State.place, State.updMd_places]
    have hstill : ((s.updMd m (Md.described k desc)).md m).stalled = [] :=
      (State.md_updMd_kept (p := Md.stalled) (f := Md.described k desc) (fun _ => rfl) s m).trans hstall
    rw [State.retryHeld_nothing hstill (hplace ▸ hearly) (hplace ▸ hmarks)] at hexec
    refine ⟨_, hexec, fun hm hl => ?_, State.updMd_mem ..⟩
    rw [State.md_updMd_self (by omega)]
    exact (kget_kset ..).trans (if_pos rfl)
  case scPerform =>
    intro hdue
    change execSystemScPerform s = _
    simp only [execSystemScPerform, hdue]
  case scTicket =>
    intro op ty size v x hdue hbody hplace hmd
    change execScTicket s = _
    simp only [execScTicket, hdue, hbody, hplace]
    exact congrArg Host.Outcome.next (if_neg hmd)
  case windowMark =>
    intro p hdue hplaces hp
    change execWindowMark s = _
    have hskip : (p.system.isEmpty && p.early.isEmpty && p.next == p.perform) = false := by
      simpa [and_assoc] using hp
    simp only [execWindowMark, hdue, hplaces, List.foldl_cons, List.foldl_nil, hskip]
    rfl

end Sys2Proof.Machine

/-!
Floating point (O10, O11; 05 R116, R119-R125): an element of a packed value by its index, and what the elements of the active
lanes leave.
-/
namespace Sys2Proof.Machine

/-! ## Elements of a float type (02 R51, 03 R59) -/

/-- How many elements a register value holds. -/
def ftyCount (ty : BitVec 2) : Nat := if ty.toNat < 2 then 1 else 2

/-- Element `j` of a register value. -/
def ftyElem (ty : BitVec 2) (v j : Nat) : Nat := if ty.toNat < 2 then v else v / 2 ^ (16 * j) % 2 ^ 16

/-- The format of a float type code, as an entry of the list of formats. -/
abbrev fmtAt (ty : BitVec 2) : Fmt := [fp32, fp64, fp16, bf16].getD ty.toNat bf16

theorem fty_cases (ty : BitVec 2) : ty ∈ [0, 1, 2, 3] := by
  revert ty
  decide

theorem ftyFmt_eq (ty : BitVec 2) : ftyFmt ty = fmtAt ty := by
  have h := fty_cases ty
  fin_cases h <;> rfl

theorem ftyElems_eq (ty : BitVec 2) (v : Nat) : ftyElems ty v = (List.range (ftyCount ty)).map (ftyElem ty v) := by
  unfold ftyElems ftyCount
  by_cases h : ty.toNat < 2
  · simp [ftyElem, h]
  · simp [ftyElem, h, List.range_succ]

theorem ftyElems_getD {ty : BitVec 2} {j : Nat} (hj : j < ftyCount ty) (v : Nat) :
    (ftyElems ty v).getD j 0 = ftyElem ty v j := by
  simp [ftyElems_eq, hj]

/-- A register value is the sum of its elements, each at its place. -/
theorem joinElems_range (ty : BitVec 2) (g : Nat → Nat) :
    joinElems ((List.range (ftyCount ty)).map g) = ((List.range (ftyCount ty)).map (fun j => g j * 2 ^ (16 * j))).sum := by
  unfold ftyCount
  by_cases h : ty.toNat < 2
  · simp [h, joinElems]
  · simp [h, joinElems, List.range_succ, Nat.mul_comm]

/-- The sign bit stands above the exponent and the fraction. -/
theorem Fmt.width_sub_one (f : Fmt) : f.width - 1 = f.e + f.m := by
  unfold Fmt.width
  omega

/-! ## What the elements of the active lanes leave (R116) -/

/-- `g` gives the result and the flags of an element of a lane: results go to D, the flags of all of them into FMT. -/
def elementEffect (ty : BitVec 2) (d : BitVec 7) (g : Ctx → Nat → Nat → Nat × Nat) : Effect := fun x s =>
  (s.addFlags x.t (orFlags (x.lanes.flatMap (fun l => (List.range (ftyCount ty)).map (fun j => (g x l j).2)))),
   x.lanes.flatMap (fun l =>
     x.put (ftyWide ty) false d l (((List.range (ftyCount ty)).map (fun j => (g x l j).1 * 2 ^ (16 * j))).sum)),
   Next.seq)

/-- The codes that element `j` of the operands holds in a lane. -/
def elementCodes (ty : BitVec 2) (ops : List (BitVec 7)) (x : Ctx) (l j : Nat) : List Nat :=
  ops.map (fun o => ftyElem ty (x.nat (ftyWide ty) o l) j)

section
variable {i : Instr} {sp : Spec} {ty : BitVec 2} {d : BitVec 7} {e : Effect}

/-- An instruction whose lanes list their elements' results and flags. -/
theorem completes_elements {r : Ctx → Nat → List (Nat × Nat)} {g : Ctx → Nat → Nat → Nat × Nat}
    (he : ∀ s, exec i s = issue s i sp (fun x s =>
      .done (s.addFlags x.t (orFlags ((x.lanes.map (fun l => (l, r x l))).flatMap (fun q => q.2.map (·.2)))))
        ((x.lanes.map (fun l => (l, r x l))).flatMap (fun q => x.put (ftyWide ty) false d q.1 (joinElems (q.2.map (·.1))))) .seq))
    (hr : ∀ x l, r x l = (List.range (ftyCount ty)).map (g x l)) : Completes i sp (elementEffect ty d g) := by
  refine completes_of he fun x s => ?_
  simp only [hr, elementEffect, List.flatMap_map, List.map_map, joinElems_range, Function.comp_def]

/-- An instruction over elements, whose meaning `f` sees an element's operand codes. -/
theorem completes_floatOp {ops : List (BitVec 7)} {f : Fmt → Nat → List Nat → Nat × Nat}
    (he : ∀ s, exec i s = floatOp i sp ty d ops f s)
    (hf : elementEffect ty d (fun x l j => f (fmtAt ty) (fmtRm x.th.fmt) (elementCodes ty ops x l j)) = e) :
    Completes i sp e := by
  subst hf
  refine completes_elements he fun x l => List.map_congr_left fun j hj => ?_
  have hcodes : (ops.map (fun o => ftyElems ty (x.nat (ftyWide ty) o l))).map (·.getD j 0) = elementCodes ty ops x l j := by
    simp only [elementCodes, List.map_map, Function.comp_def, ftyElems_getD (List.mem_range.1 hj)]
  rw [hcodes, ftyFmt_eq]

/-- An instruction of major 0x28, whose meaning `f` sees an element's value (R125). -/
theorem completes_rootOp {a : BitVec 7} {la : BitVec 4} {f : Fmt → Nat → FVal → Nat × Nat}
    (he : ∀ s, exec i s = rootOp i d a ty la f s)
    (hf : elementEffect ty d (fun x l j =>
      f (fmtAt ty) (fmtRm x.th.fmt) ((fmtAt ty).val ((elementCodes ty [a] x l j).getD 0 0))) = e) :
    Completes i { fSpec1 ty d a with la := some la.toNat } e :=
  completes_floatOp (f := fun g rm v => f g rm (g.val (v.getD 0 0))) he hf

end

/-- Settles O10: each instruction is one function of an element's operand codes; FSCALE's power is the same for both elements. -/
theorem floatArithmeticCompletes : Obligations.FloatArithmeticCompletes := by
  unfold Obligations.FloatArithmeticCompletes
  intro d a b ty la wide elem count F out two one late rm bin un
  refine ⟨?fadd, ?fsub, ?fmul, ?ffma, ?fmin, ?fmax, ?fabs, ?fneg, ?fdivF32, ?fdivF64, ?fscale, ?frnd, ?frcp, ?frsq, ?fsqrt,
    ?fexp2, ?flog2, ?fsin, ?fcos⟩
  case fadd => exact completes_floatOp (fun s => (rfl : _ = execFadd d a b ty s)) rfl
  case fsub => exact completes_floatOp (fun s => (rfl : _ = execFsub d a b ty s)) rfl
  case fmul => exact completes_floatOp (fun s => (rfl : _ = execFmul d a b ty s)) rfl
  case ffma => exact completes_floatOp (fun s => (rfl : _ = execFfma d a b ty s)) rfl
  case fmin => exact completes_floatOp (fun s => (rfl : _ = execFmin d a b ty s)) rfl
  case fmax => exact completes_floatOp (fun s => (rfl : _ = execFmax d a b ty s)) rfl
  case fabs =>
    simp only [Fmt.width_sub_one]
    exact completes_floatOp (fun s => (rfl : _ = execFabs d a ty s)) rfl
  case fneg =>
    simp only [Fmt.width_sub_one]
    exact completes_floatOp (fun s => (rfl : _ = execFneg d a ty s)) rfl
  case fdivF32 => exact completes_floatOp (fun s => (rfl : _ = execFdivF32 d a b la s)) rfl
  case fdivF64 => exact completes_floatOp (fun s => (rfl : _ = execFdivF64 d a b la s)) rfl
  case fscale =>
    refine completes_elements (ty := ty) (d := d) (g := fun x l j =>
      (fmtAt ty).scale (fmtRm x.th.fmt) ((fmtAt ty).val (ftyElem ty (x.nat (ftyWide ty) a l) j)) (x.r32 b.toNat l).toInt)
      (fun _ => rfl) fun x l => ?_
    rw [ftyElems_eq, ftyFmt_eq, List.map_map, Ctx.nat_narrow, sgn_toNat]
    rfl
  case frnd => exact completes_floatOp (fun s => (rfl : _ = execFrnd d a ty s)) rfl
  case frcp => exact completes_rootOp (fun s => (rfl : _ = execFrcp d a ty la s)) rfl
  case frsq => exact completes_rootOp (fun s => (rfl : _ = execFrsq d a ty la s)) rfl
  case fsqrt => exact completes_rootOp (fun s => (rfl : _ = execFsqrt d a ty la s)) rfl
  case fexp2 => exact completes_rootOp (fun s => (rfl : _ = execFexp2 d a ty la s)) rfl
  case flog2 => exact completes_rootOp (fun s => (rfl : _ = execFlog2 d a ty la s)) rfl
  case fsin => exact completes_rootOp (fun s => (rfl : _ = execFsin d a ty la s)) rfl
  case fcos => exact completes_rootOp (fun s => (rfl : _ = execFcos d a ty la s)) rfl

/-! ## Compare and classify (R123, R124) -/

theorem ftyElem_zero (x : Ctx) (ty : BitVec 2) (c : BitVec 7) (l : Nat) :
    ftyElem ty (x.nat (ftyWide ty) c l) 0 = x.nat (ftyWide ty) c l % 2 ^ (fmtAt ty).width := by
  have hty := fty_cases ty
  fin_cases hty
  · exact (Nat.mod_eq_of_lt (x.r32 c.toNat l).isLt).symm
  · exact (Nat.mod_eq_of_lt (x.r64 c.toNat l).isLt).symm
  · exact congrArg (· % 2 ^ 16) (Nat.div_one _)
  · exact congrArg (· % 2 ^ 16) (Nat.div_one _)

/-- The mask of FCLASS: a packed value's second element is the upper half of its register. -/
theorem joinElems_map_ftyElems (x : Ctx) (ty : BitVec 2) (c : BitVec 7) (l : Nat) (g : Nat → Nat) :
    joinElems ((ftyElems ty (x.nat (ftyWide ty) c l)).map g) =
      if ty.toNat < 2 then g (x.nat (ftyWide ty) c l)
      else g (x.nat (ftyWide ty) c l % 2 ^ 16) + 2 ^ 16 * g (x.nat (ftyWide ty) c l / 2 ^ 16) := by
  by_cases h : ty.toNat < 2
  · simp only [ftyElems, if_pos h]
    rfl
  · have hwide : ftyWide ty = false := by
      refine beq_false_of_ne fun hty => h ?_
      rw [hty]
      decide
    have hupper : x.nat false c l / 2 ^ 16 % 2 ^ 16 = x.nat false c l / 2 ^ 16 := by
      have hlt : x.nat false c l < 2 ^ 32 := (x.r32 c.toNat l).isLt
      omega
    simp only [ftyElems, if_neg h, hwide, hupper]
    rfl

/-- Settles O11: FCMP's element 0 is what the format's width leaves of the operand; FCLASS classifies every element. -/
theorem floatComparesComplete : Obligations.FloatComparesComplete := by
  unfold Obligations.FloatComparesComplete
  intro cond k d a b ty wide f low
  refine ⟨?fcmp, ?fclass⟩
  case fcmp =>
    refine completes_of (fun _ => rfl) fun x s => ?_
    have hlow : ∀ o l, (ftyFmt ty).val ((ftyElems ty (x.nat (ftyWide ty) o l)).getD 0 0) = low x o l := fun o l => by
      have h0 : 0 < ftyCount ty := by
        unfold ftyCount
        split <;> decide
      rw [ftyElems_getD h0, ftyElem_zero, ftyFmt_eq]
      rfl
    simp only [hlow]
    rfl
  case fclass =>
    refine completes_writing (fun _ => rfl) fun x => ?_
    simp only [joinElems_map_ftyElems, ftyFmt_eq]
    rfl

end Sys2Proof.Machine

/-!
Mask registers and the execution mask (O9; 06 R136, R138).
-/
namespace Sys2Proof.Machine

/-- A mask operation sets the active lanes' bits of Kd to what `f` makes of its two sources (R136). -/
theorem completes_maskOp {i : Instr} {d a b : BitVec 3} {f : Word → Word → Word} (he : ∀ s, exec i s = maskOp i d a b f s) :
    Completes i (plain .warp [])
      (changing fun x s => s.setK x.t d.toNat x.act (f (x.w.kreg a.toNat) (x.w.kreg b.toNat))) :=
  completes_of he fun _ _ => rfl

/-- Settles O9: the six mask operations are one; EXMSET rests on whether its source leaves a lane of the path mask. -/
theorem masksComplete : Obligations.MasksComplete := by
  unfold Obligations.MasksComplete
  refine ⟨fun d a b v => ?instrs, fun a => ?exmsetRefused⟩
  case instrs =>
    refine ⟨?kand, ?kor, ?kxor, ?kandn, ?knot, ?kmov, ?kset, ?kget, ?ksave, ?krest, ?exmget, ?exmset⟩
    case kand => exact completes_maskOp fun _ => rfl
    case kor => exact completes_maskOp fun _ => rfl
    case kxor => exact completes_maskOp fun _ => rfl
    case kandn => exact completes_maskOp (f := fun x y => x &&& ~~~y) fun _ => rfl
    case knot => exact completes_maskOp (b := a) (f := fun x _ => ~~~x) fun _ => rfl
    case kmov => exact completes_maskOp (b := a) (f := fun x _ => x) fun _ => rfl
    case kset =>
      refine completes_of (fun _ => rfl) fun x s => ?_
      simp only [bne, beq_eq_decide, ← decide_not]
      rfl
    case kget => exact completes_writing (fun _ => rfl) fun _ => rfl
    case ksave => exact completes_writing (fun _ => rfl) fun _ => rfl
    case krest => exact completes_of (fun _ => rfl) fun _ _ => rfl
    case exmget => exact completes_writing (fun _ => rfl) fun _ => rfl
    case exmset => exact completesWhen_of (fun _ => rfl) fun _ _ _ h => if_neg h
  case exmsetRefused => exact refusedWhen_of (fun _ => rfl) fun _ _ _ h => if_pos h

end Sys2Proof.Machine

/-!
Divergence (O17; 06 R142): what BRD does for each set of lanes that takes it, and what the room on the divergence stack leaves of a
branch that diverges.
-/
namespace Sys2Proof.Machine

/-! ## The lanes that take a branch -/

theorem and_not_taken (exm k : Word) : exm &&& ~~~(exm &&& k) = exm &&& ~~~k := by
  apply BitVec.eq_of_getLsbD_eq
  intro l hl
  simp only [BitVec.getLsbD_and, BitVec.getLsbD_not, decide_eq_true hl, Bool.true_and]
  cases exm.getLsbD l <;> rfl

/-- What BRD does once it has issued. -/
def brdBody (k : BitVec 3) (rec_ tgt : BitVec 11) (c : Ctx) (s : State) : Res :=
  let t := c.th.exm &&& c.w.kreg k.toNat
  if t = c.th.exm then .done s [] (.jump (target c.th.pc tgt))
  else if t = 0 then .done s [] .seq
  else if s.pkg.minimal then .refuse 1 0 c.allLanes
  else diverge c s t (c.th.exm &&& ~~~t) (target c.th.pc tgt) (target c.th.pc rec_)

section
variable {k : BitVec 3} {rec_ tgt : BitVec 11} {c : Ctx} {s : State}

theorem exec_brd : exec (.brd k rec_ tgt) s = issue s (.brd k rec_ tgt) (flow .warp []) (brdBody k rec_ tgt) := rfl

theorem brdBody_taken (h : c.th.exm &&& c.w.kreg k.toNat = c.th.exm) :
    brdBody k rec_ tgt c s = .done s [] (.jump (BitVec.ofInt 56 ((c.th.pc.toNat : Int) + 4 * tgt.toInt))) := by
  rw [← target_eq]
  exact if_pos h

theorem brdBody_notTaken (h : c.th.exm &&& c.w.kreg k.toNat = 0) (hx : c.th.exm ≠ 0) :
    brdBody k rec_ tgt c s = .done s [] .seq := by
  have hne : c.th.exm &&& c.w.kreg k.toNat ≠ c.th.exm := fun ht => hx (ht.symm.trans h)
  exact (if_neg hne).trans (if_pos h)

variable (hne : c.th.exm &&& c.w.kreg k.toNat ≠ c.th.exm) (h0 : c.th.exm &&& c.w.kreg k.toNat ≠ 0)
include hne h0

theorem brdBody_minimal (hm : s.pkg.minimal = true) : brdBody k rec_ tgt c s = .refuse 1 0 c.allLanes :=
  (if_neg hne).trans ((if_neg h0).trans (if_pos hm))

theorem brdBody_diverges (hm : s.pkg.minimal = false) : brdBody k rec_ tgt c s =
    diverge c s (c.th.exm &&& c.w.kreg k.toNat) (c.th.exm &&& ~~~(c.w.kreg k.toNat))
      (BitVec.ofInt 56 ((c.th.pc.toNat : Int) + 4 * tgt.toInt)) (BitVec.ofInt 56 ((c.th.pc.toNat : Int) + 4 * rec_.toInt)) := by
  rw [← target_eq, ← target_eq, ← and_not_taken]
  exact (if_neg hne).trans ((if_neg h0).trans (if_neg (Bool.eq_false_iff.1 hm)))

end

/-! ## Room for the entries of a branch that diverges (R141, R142) -/

/-- The stack has no room for `n` more entries. -/
theorem Block.stackFull_iff (b : Block) (warp n : Nat) : (!b.stackRoom warp n) = true ↔ 64 < (b.stackOf warp).length + n := by
  rw [Bool.not_eq_true', Bool.eq_false_iff, ne_eq, stackRoom_iff, Nat.not_le]

theorem diverge_full {c : Ctx} {s : State} {t rest : Word} {tgt rpc : BitVec 56}
    (h : 64 < (c.b.stackOf c.t.warp).length + (if c.b.logOf c.t = .warp then 1 else 2)) :
    diverge c s t rest tgt rpc = .refuse 1 0 c.allLanes := by
  have hfull := (c.b.stackFull_iff c.t.warp _).2 h
  unfold diverge
  split at hfull
  next hl => exact (if_pos hl).trans (if_pos hfull)
  next hl => exact (if_neg hl).trans (if_pos hfull)

/-- Settles O17: all or none of the lanes take the branch, or it diverges, and then rests on the mode and on the stack's room. -/
theorem divergenceCompletes : Obligations.DivergenceCompletes := by
  unfold Obligations.DivergenceCompletes
  intro k rec_ tgt i sp taken rest to_ splits entry
  refine ⟨?jumps, ?fallsThrough, ?splitsWarp, ?serialises, ?refused⟩
  case jumps => exact completesWhen_of (fun _ => exec_brd) fun x s _ h => brdBody_taken h
  case fallsThrough =>
    refine completesWhen_of (fun _ => exec_brd) fun x s _ h => ?_
    obtain ⟨h0, hx⟩ := h
    exact brdBody_notTaken h0 hx
  case splitsWarp =>
    refine completesWhen_of (fun _ => exec_brd) fun x s _ h => ?_
    obtain ⟨⟨hne, h0, hm⟩, hl, hr⟩ := h
    simp only [entry, hl]
    exact (brdBody_diverges hne h0 hm).trans ((if_pos hl).trans (if_neg (mt (x.b.stackFull_iff _ 1).1 (by omega))))
  case serialises =>
    refine completesWhen_of (fun _ => exec_brd) fun x s _ h => ?_
    obtain ⟨⟨hne, h0, hm⟩, hl, hr⟩ := h
    exact (brdBody_diverges hne h0 hm).trans ((if_neg hl).trans (if_neg (mt (x.b.stackFull_iff _ 2).1 (by omega))))
  case refused =>
    refine refusedWhen_of (fun _ => exec_brd) fun x s _ h => ?_
    obtain ⟨hne, h0, hm⟩ := h
    cases hmin : s.pkg.minimal with
    | true => exact brdBody_minimal hne h0 hmin
    | false =>
      have hfull := hm.resolve_left (by simp [hmin])
      exact (brdBody_diverges hne h0 hmin).trans (diverge_full hfull)

end Sys2Proof.Machine

/-!
The list of RANK (O45; 07 R178): the elements with their places, sorted, and the entries that the first k of them make.
-/
namespace Sys2Proof.Machine

/-! ## The order of a list -/

/-- Whether an element stands before another: its value is greater, or they are equal and its place is the earlier one. -/
def rankBefore (x y : Nat × Int) : Bool := decide (y.2 < x.2) || (x.2 == y.2 && decide (x.1 ≤ y.1))

theorem rankBefore_iff {x y : Nat × Int} : rankBefore x y = true ↔ y.2 < x.2 ∨ (x.2 = y.2 ∧ x.1 ≤ y.1) := by
  simp [rankBefore]

/-- The elements of a vector with their places, in the order of its list. -/
def ranked (xs : List Int) : List (Nat × Int) := ((List.range xs.length).zip xs).mergeSort rankBefore

theorem ranked_perm (xs : List Int) : (ranked xs).Perm ((List.range xs.length).zip xs) := List.mergeSort_perm _ _

@[simp] theorem ranked_length (xs : List Int) : (ranked xs).length = xs.length := by
  simp [(ranked_perm xs).length_eq]

theorem ranked_pairwise (xs : List Int) : (ranked xs).Pairwise (fun x y => rankBefore x y = true) := by
  refine List.pairwise_mergeSort ?_ ?_ _
  · intro a b c hab hbc
    rw [rankBefore_iff] at *
    omega
  · intro a b
    rw [Bool.or_eq_true, rankBefore_iff, rankBefore_iff]
    omega

/-- Each place stands in the list once. -/
theorem ranked_places_nodup (xs : List Int) : ((ranked xs).map Prod.fst).Nodup := by
  rw [((ranked_perm xs).map Prod.fst).nodup_iff, List.map_fst_zip (by simp)]
  exact List.nodup_range

/-- The list holds every element at its place. -/
theorem mem_ranked {xs : List Int} {p : Nat × Int} : p ∈ ranked xs ↔ p.1 < xs.length ∧ xs.getD p.1 0 = p.2 := by
  rw [(ranked_perm xs).mem_iff, List.mem_iff_getElem]
  constructor
  · rintro ⟨i, hi, rfl⟩
    have hx : i < xs.length := by simpa using hi
    simp [hx]
  · rintro ⟨hp, hv⟩
    refine ⟨p.1, by simpa using hp, ?_⟩
    ext
    · simp
    · simpa [hp] using hv

/-! ## The entries -/

/-- The entries of a list: the places, each marked where its value is that of the one before it. -/
def rankEntries (kept : List (Nat × Int)) : List Nat :=
  ((List.range kept.length).zip kept).map (fun (x : Nat × Nat × Int) =>
    x.2.1 + (if x.1 != 0 && (kept[x.1 - 1]?).map (fun y => y.2) == some x.2.2 then 2 ^ 15 else 0))

@[simp] theorem rankEntries_length (kept : List (Nat × Int)) : (rankEntries kept).length = kept.length := by
  simp [rankEntries]

theorem rankEntries_getD {kept : List (Nat × Int)} {n : Nat} (h : n < kept.length) : (rankEntries kept).getD n 0 =
    kept[n].1 + if 0 < n ∧ kept[n].2 = kept[n - 1].2 then 2 ^ 15 else 0 := by
  have hn : n - 1 < kept.length := by omega
  rw [List.getD_eq_getElem _ _ (by simpa using h)]
  simp only [rankEntries, List.getElem_map, List.getElem_zip, List.getElem_range, List.getElem?_eq_getElem hn, Option.map_some]
  refine congrArg (kept[n].1 + ·) (if_congr ?_ rfl rfl)
  rw [Bool.and_eq_true, bne_iff_ne, beq_iff_eq, Option.some_inj, Nat.pos_iff_ne_zero, eq_comm (a := kept[n].2)]

/-- What RANK makes of elements that are no NaN. -/
theorem rankOf_some (xs : List Int) (k : Nat) :
    let es := rankEntries ((ranked xs).take k)
    rankOf (xs.map some) k = ((if es.any (fun e => e.testBit 15) then 2 ^ 31 else 0) + (if k < xs.length then 2 ^ 30 else 0) +
      2 ^ 11 * xs.length + es.length, es) := by
  have hall : ((List.range xs.length).zip (xs.map some)).filterMap (fun x => x.2.map (fun v => (x.1, v))) =
      (List.range xs.length).zip xs := by
    rw [List.zip_map_right, List.filterMap_map]
    exact List.filterMap_some
  have hnan : (xs.map some).any (·.isNone) = false := by simp
  have hkeys : (xs.map some).length = xs.length := List.length_map some
  have hlen : (((List.range xs.length).zip xs).mergeSort rankBefore).length = xs.length := ranked_length xs
  change rankOf (xs.map some) k = (_, _)
  unfold rankOf
  simp only [hall, hnan, hkeys, Bool.false_eq_true, if_false, Nat.add_zero]
  simp only [show (fun x y : Nat × Int => decide (y.2 < x.2) || (x.2 == y.2 && decide (x.1 ≤ y.1))) = rankBefore from rfl, hlen,
    decide_eq_true_eq]
  rfl

/-! ## The fields of the header (R177) -/

theorem rankHeader_fields {n c : Nat} (ties cut : Prop) [Decidable ties] [Decidable cut] (hn : n ≤ 1024) (hc : c ≤ 1024) :
    let h := (if ties then 2 ^ 31 else 0) + (if cut then 2 ^ 30 else 0) + 2 ^ 11 * n + c
    h % 2 ^ 11 = c ∧ h / 2 ^ 11 % 2 ^ 11 = n ∧ (h.testBit 30 = true ↔ cut) ∧ h.testBit 29 = false := by
  intro h
  have hh : h = (if ties then 2 ^ 31 else 0) + (if cut then 2 ^ 30 else 0) + 2 ^ 11 * n + c := rfl
  clear_value h
  rw [Nat.testBit_eq_decide_div_mod_eq, Nat.testBit_eq_decide_div_mod_eq, decide_eq_true_eq, decide_eq_false_iff_not]
  by_cases hcut : cut
  · rw [if_pos hcut] at hh
    rw [iff_true_right hcut]
    split at hh <;> omega
  · rw [if_neg hcut] at hh
    rw [iff_false_right hcut]
    split at hh <;> omega

/-- Settles O45: an entry's place and mark are those of the sorted list, whose first k elements are kept. -/
theorem rankListRule : Obligations.RankListRule := by
  unfold Obligations.RankListRule
  intro xs k hk hkn hn r at_ val
  set kept := (ranked xs).take k with hkept
  have hlen : kept.length = k := by simp [hkept, hkn]
  have hr : r = _ := rankOf_some xs k
  have hes : r.2 = rankEntries kept := by rw [hr]
  have hmem : ∀ {n} (h : n < kept.length), kept[n].1 < xs.length ∧ xs.getD kept[n].1 0 = kept[n].2 := fun h =>
    mem_ranked.1 (List.mem_of_mem_take (List.getElem_mem h))
  have hentry : ∀ {n} (h : n < kept.length), r.2.getD n 0 =
      kept[n].1 + if 0 < n ∧ kept[n].2 = kept[n - 1].2 then 2 ^ 15 else 0 := fun h => by rw [hes, rankEntries_getD h]
  have hat : ∀ {n} (h : n < kept.length), at_ n = kept[n].1 := by
    intro n h
    have := (hmem h).1
    simp only [at_, hentry h]
    split <;> omega
  have hval : ∀ {n} (h : n < kept.length), val n = kept[n].2 := fun h => by simp only [val, hat h, (hmem h).2]
  have hbefore : kept.Pairwise (fun x y => rankBefore x y = true) := (ranked_pairwise xs).sublist (List.take_sublist _ _)
  have hnodup : (kept.map Prod.fst).Nodup := (ranked_places_nodup xs).sublist ((List.take_sublist _ _).map _)
  have hhead := rankHeader_fields (c := kept.length) ((rankEntries kept).any (fun e => e.testBit 15) = true) (k < xs.length) hn
    (by omega)
  refine ⟨?count, ?places, ?order, ?marks, ?greatest, ?header⟩
  case count => rw [hes, rankEntries_length, hlen]
  case places =>
    intro n h
    rw [← hlen] at h
    rw [hat h]
    exact (hmem h).1
  case order =>
    intro n h
    rw [← hlen] at h
    have hb := rankBefore_iff.1 (List.pairwise_iff_getElem.1 hbefore n (n + 1) (by omega) h (by omega))
    have hne : kept[n].1 ≠ kept[n + 1].1 :=
      List.pairwise_iff_getElem.1 (List.pairwise_map.1 hnodup) n (n + 1) (by omega) h (by omega)
    rw [hat h, hval h, hat (by omega), hval (by omega)]
    omega
  case marks =>
    intro n h
    rw [← hlen] at h
    have hp := (hmem h).1
    rw [hval h, hval (by omega), hentry h, Nat.testBit_eq_decide_div_mod_eq, decide_eq_true_eq]
    split
    next ht => exact iff_of_true (by omega) ht
    next ht => exact iff_of_false (by omega) ht
  case greatest =>
    intro m hm hout
    have hin : (m, xs.getD m 0) ∈ (ranked xs).take k ++ (ranked xs).drop k := by
      rw [List.take_append_drop]
      exact mem_ranked.2 ⟨hm, rfl⟩
    have hlast : k - 1 < kept.length := by omega
    have hrest : (m, xs.getD m 0) ∈ (ranked xs).drop k := by
      refine (List.mem_append.1 hin).resolve_left fun hmem => ?_
      obtain ⟨n, hn, he⟩ := List.mem_iff_getElem.1 hmem
      exact hout n (hlen ▸ hn) ((hat hn).trans (congrArg Prod.fst he))
    have hpair := ranked_pairwise xs
    rw [← List.take_append_drop k (ranked xs)] at hpair
    have hb := rankBefore_iff.1 ((List.pairwise_append.1 hpair).2.2 _ (List.getElem_mem hlast) _ hrest)
    rw [hval hlast]
    change xs.getD m 0 < kept[k - 1].2 ∨ kept[k - 1].2 = xs.getD m 0 ∧ _ at hb
    omega
  case header =>
    obtain ⟨hcount, hlength, hcut, hnan⟩ := hhead
    rw [hr]
    rw [rankEntries_length]
    exact ⟨hcount.trans hlen, hlength, hcut, hnan⟩

end Sys2Proof.Machine

/-!
Instructions of chapter 07 at issue (O31, O32, O34): what their checks ask for, and their way into the queue of an engine.
-/
namespace Sys2Proof.Machine

/-! ## The queue of an engine (07 R160, R162) -/

/-- An instruction that asks for a place in the queue gets it where its bytes are present and the queue has room. -/
theorem entersWhen_of {i : Instr} {sp : Spec} {eng : Engine} {p : Ctx → State → Prop} {body : Ctx → State → Res}
    {needs : Ctx → List (Nat × Nat)} {held : Ctx → List (Nat × Nat × Nat)} {o : Ctx → EngineOp}
    (he : ∀ s, exec i s = issue s i sp body) (hb : ∀ x s, p x s → body x s = enqueue x s eng (needs x) (held x) (o x)) :
    EntersWhen i sp eng p needs held o := by
  refine completesWhen_of he fun x s _ h => ?_
  obtain ⟨hp, hpresent, hroom⟩ := h
  exact (hb x s hp).trans (enqueue_room hpresent (by cases eng <;> exact hroom))

/-- An access that is granted in scratch space goes on past its check (07 R183). -/
theorem scratchCheck_then {c : Ctx} {g : Region} {right : Right} {off n : Nat} {r : Res} (hg : Granted g right [(0, off, n)])
    (h2 : g.space = 2) : (match scratchCheck c g right off n with
      | some (code, addr) => .refuse code addr 0
      | none => r) = r := by
  rw [scratchCheck_granted hg h2]

/-! ## Tiles and B registers (07 R161, R168, R170) -/

theorem Ctx.hasTile_iff {c : Ctx} {t : BitVec 5} : c.hasTile t = true ↔ t.toNat < c.b.allot.tiles := decide_eq_true_iff

theorem Ctx.lacksOne_iff {c : Ctx} {t : BitVec 5} : (!c.hasTile t) = true ↔ ¬ t.toNat < c.b.allot.tiles := by
  simp [Ctx.hasTile]

/-- A tile that is written, or one that is read, is not allotted. -/
theorem Ctx.lacksTile_iff {c : Ctx} {d a : BitVec 5} :
    (!c.hasTile d || !c.hasTile a) = true ↔ ¬ d.toNat < c.b.allot.tiles ∨ ¬ a.toNat < c.b.allot.tiles := by
  simp [Ctx.hasTile]

theorem Ctx.hasBoth {c : Ctx} {d a : BitVec 5} (h : d.toNat < c.b.allot.tiles ∧ a.toNat < c.b.allot.tiles) :
    ¬ (!c.hasTile d || !c.hasTile a) = true := by
  simp [Ctx.hasTile, h]

theorem Ctx.bRunOk_iff {c : Ctx} {base n : Nat} :
    c.bRunOk base n = true ↔ ∀ q, q < 4 → ∃ w, c.b.matrixWarp q = some w ∧ base + n ≤ w.allot := by
  simp only [Ctx.bRunOk, List.all_eq_true, List.mem_range]
  refine forall₂_congr fun q _ => ?_
  cases c.b.matrixWarp q <;> simp

/-! ## The operand descriptor (07 R164, R166) -/

theorem strideOk_iff {d : DWord} {row : Nat} :
    strideOk d row = true ↔ fld d 51 32 % 16 = 0 ∧ fld d 31 16 % 16 = 0 ∧ row ≤ fld d 31 16 := by
  simp only [strideOk, Bool.and_eq_true, beq_iff_eq, decide_eq_true_eq, and_assoc]
  rfl

theorem matrixWidth_eq {t : Nat} (h : t ≤ 7) : matrixWidth t = [16, 16, 8, 8, 6, 6, 4, 8].getD t 0 := by
  interval_cases t <;> rfl

theorem matrixK_eq {t : Nat} (h : t ≤ 7) : matrixK t = [32, 32, 64, 64, 128, 128, 128, 64].getD t 0 := by
  interval_cases t <;> rfl

theorem typesMeet_iff {a b : Nat} : typesMeet a b = true ↔ a ≤ 7 ∧ b ≤ 7 ∧ matrixK a = matrixK b ∧ (a = 7 ↔ b = 7) := by
  have h7 : ((a == 7) == (b == 7)) = true ↔ (a = 7 ↔ b = 7) := by
    rw [beq_iff_eq, Bool.eq_iff_iff, beq_iff_eq, beq_iff_eq]
  simp only [typesMeet, Bool.and_eq_true, decide_eq_true_eq, beq_iff_eq (a := matrixK a), h7, and_assoc]

end Sys2Proof.Machine

/-!
The products (O31; 07 R163-R173).
-/
namespace Sys2Proof.Machine

/-- The scratch bytes of a product: 64 rows of A, and the scales after them where it has any (07 R167). -/
def productReads (c : Ctx) (g : Region) (d : DWord) (row scales : Nat) : List (Nat × Nat) :=
  (List.range 64).map (fun j => (c.b.pos g (fld d 51 32 + j * fld d 31 16), row)) ++
    (if scales = 0 then [] else [(c.b.pos g (fld d 51 32 + 64 * fld d 31 16), scales)])

/-- A product whose checks pass asks for a place in the array queue. -/
theorem productIssue_enqueues {c : Ctx} {s : State} {i : Instr} {t : BitVec 5} {d : DWord} {shape : Bool} {row k8 n : Nat}
    (ht : t.toNat < c.b.allot.tiles) (hs : shape = true) (ho : strideOk d row = true) (hb : c.bRunOk (fld d 15 7) n = true)
    (hg : Granted (c.rg (mdDreg d)) .load
      [(0, fld d 51 32, if 64 * k8 = 0 then 63 * fld d 31 16 + row else 64 * fld d 31 16 + 64 * k8)])
    (h2 : (c.rg (mdDreg d)).space = 2) :
    productIssue c s i t d shape row k8 n =
      enqueue c s .array (productReads c (c.rg (mdDreg d)) d row (64 * k8)) [(t.toNat, fld d 15 7, n)]
        { EngineOp.make c i d with
          regions := [c.rg (mdDreg d)], quarter := c.b.quarters (fld d 15 7) n,
          reads := productReads c (c.rg (mdDreg d)) d row (64 * k8) } := by
  have hk : 64 * k8 = 0 ↔ k8 = 0 := by omega
  have hok : ¬ (!c.hasTile t || !shape || !strideOk d row || !c.bRunOk (mdBbase d) n) = true := by
    simp [Ctx.hasTile_iff.2 ht, hs, ho, show c.bRunOk (mdBbase d) n = true from hb]
  simp only [hk] at hg
  have hc : scratchCheck c (c.rg (mdDreg d)) .load (mdOff d)
      (if k8 = 0 then 63 * mdStride d + row else 64 * mdStride d + 64 * k8) = none := scratchCheck_granted hg h2
  unfold productIssue
  dsimp only
  rw [if_neg hok, hc]
  simp only [productReads, hk]
  rfl

/-- Settles O31: a product is its descriptor's shape and sizes; what those are for each type is a table. -/
theorem productsComplete : Obligations.ProductsComplete := by
  unfold Obligations.ProductsComplete
  intro d r mid sat la sp m aty bty g off stride base width depth meet enters row
  have henters : ∀ (i : Instr) (shape : Ctx → Prop) (row' scales regs : Ctx → Nat) (fits : Ctx → Bool) (row k8 n : Ctx → Nat),
      (∀ s, exec i s = issue s i sp (fun x s => productIssue x s i d (x.desc r) (fits x) (row x) (k8 x) (n x))) →
      (∀ x, shape x → fits x = true ∧ row x = row' x ∧ 64 * k8 x = scales x ∧ n x = regs x) →
      enters i shape row' scales regs := by
    intro i shape row' scales regs fits row k8 n he hshape
    refine entersWhen_of he fun x s h => ?_
    obtain ⟨ht, hs, ho, hst, hrow, hrun, hg, h2⟩ := h
    obtain ⟨hf, hr, hk, hn⟩ := hshape x hs
    simp only [← hr, ← hk, ← hn] at *
    exact productIssue_enqueues ht hf (strideOk_iff.2 ⟨ho, hst, hrow⟩) (Ctx.bRunOk_iff.2 hrun) hg h2
  have hwidth : ∀ {t}, t ≤ 7 → matrixWidth t = width t := matrixWidth_eq
  have hdepth : ∀ {t}, t ≤ 7 → matrixK t = depth t := matrixK_eq
  have hrow : ∀ {t}, t ≤ 7 → matrixRow t = depth t * width t / 8 := fun h => by rw [matrixRow, hdepth h, hwidth h]
  have hregs : ∀ {t}, t ≤ 7 → matrixRegs t = depth t * width t / 64 := fun h => by rw [matrixRegs, hdepth h, hwidth h]
  have hmeet : ∀ {x}, meet x → aty x ≤ 7 ∧ bty x ≤ 7 ∧ typesMeet (aty x) (bty x) = true := by
    rintro x ⟨ha, hb, hd, h7⟩
    exact ⟨ha, hb, typesMeet_iff.2 ⟨ha, hb, by rw [hdepth ha, hdepth hb, hd], h7⟩⟩
  refine ⟨?mma, ?mmas, ?mbp⟩
  case mma =>
    refine henters _ _ _ _ _ _ _ (fun _ => 0) _ (fun _ => rfl) fun x hx => ?_
    obtain ⟨hm, h0, hsat⟩ := hx
    obtain ⟨ha, hb, ht⟩ := hmeet hm
    refine ⟨?_, hrow ha, rfl, hregs hb⟩
    have hsat' : sat = 0 ∨ aty x = 7 := by
      by_cases h1 : sat = 1
      · exact .inr (hsat h1)
      · exact .inl (by bv_omega)
    simp only [Bool.and_eq_true, Bool.or_eq_true, beq_iff_eq]
    exact ⟨⟨ht, h0⟩, hsat'⟩
  case mmas =>
    refine henters _ _ _ _ _ _ _ _ _ (fun _ => rfl) fun x hx => ?_
    obtain ⟨hm, h0, htypes⟩ := hx
    obtain ⟨ha, hb, ht⟩ := hmeet hm
    refine ⟨?_, hrow ha, congrArg (fun k => 64 * (k / 32)) (hdepth ha), congrArg (· + 1) (hregs hb)⟩
    simp only [Bool.and_eq_true, beq_iff_eq, decide_eq_true_eq]
    exact ⟨⟨ht, h0⟩, htypes⟩
  case mbp =>
    refine henters _ _ _ _ _ _ _ (fun _ => 0) _ (fun _ => rfl) fun x hx => ?_
    obtain ⟨h7, h0, hz, hp, hpb⟩ := hx
    refine ⟨?_, rfl, rfl, rfl⟩
    simp only [Bool.and_eq_true, beq_iff_eq, decide_eq_true_eq]
    exact ⟨⟨⟨h7, h0⟩, hz⟩, Nat.succ_le_succ hp, Nat.succ_le_succ hpb⟩

end Sys2Proof.Machine

/-!
The tile instructions (O32; 07 R161, R170, R174, R175).
-/
namespace Sys2Proof.Machine

section
variable {c : Ctx} {s : State} {t : BitVec 5}

/-- A tile is in flight as its bit says (07 R158). -/
theorem Ctx.busyTile_false (h : (s.inFlight c.t.blk c.b).getLsbD t.toNat = false) : ¬ c.busyTile s t = true :=
  Bool.eq_false_iff.1 h

theorem Ctx.busyTile_true (h : ¬ (s.inFlight c.t.blk c.b).getLsbD t.toNat = false) : c.busyTile s t = true :=
  Bool.eq_true_of_not_eq_false h

/-- The tile and the descriptor of a whole move (07 R164, R174). -/
theorem Ctx.moveFields {m : DWord} {row : Nat} (ht : t.toNat < c.b.allot.tiles) (hhi : fld m 63 52 = 0) (hlo : fld m 15 0 = 0)
    (hs : strideOk m row = true) : ¬ (!c.hasTile t || fld m 63 52 ≠ 0 || fld m 15 0 ≠ 0 || !strideOk m row) = true := by
  simp [Ctx.hasTile_iff.2 ht, hhi, hlo, hs]

end

/-- Settles O32: each instruction's checks pass, or the first that fails in the order of R183 refuses it. -/
theorem tileInstructionsComplete : Obligations.TileInstructionsComplete := by
  unfold Obligations.TileInstructionsComplete
  intro d a n r la sp1 spr spg m has idle off stride rows whole row gm mperm mld mst mcvt
  refine ⟨?mtrn, ?mperm, ?mrsum, ?mzero, ?mld, ?mst, ?mcpy, ?mcvt, ?mzeroBusy, ?mcpyBusy, ?mldBusy, ?lackBoth, ?lackWritten,
    ?lackRead⟩
  case mtrn => exact entersWhen_of (fun _ => rfl) fun x s h => if_neg (Ctx.hasBoth h)
  case mperm =>
    refine entersWhen_of (fun _ => rfl) fun x s h => ?_
    obtain ⟨hd, ha, hhi, hlo, hoff, hg, h2⟩ := h
    refine (if_neg ?_).trans (scratchCheck_then hg h2)
    simp only [Bool.or_eq_true, not_or, Bool.not_eq_true', Bool.not_eq_false, decide_eq_true_eq, not_not]
    exact ⟨⟨⟨⟨Ctx.hasTile_iff.2 hd, Ctx.hasTile_iff.2 ha⟩, hhi⟩, hlo⟩, hoff⟩
  case mrsum =>
    refine entersWhen_of (fun _ => rfl) fun x s h => ?_
    obtain ⟨hd, ha, hhi⟩ := h
    refine if_neg ?_
    simp only [Bool.or_eq_true, not_or, Bool.not_eq_true', Bool.not_eq_false, decide_eq_true_eq, not_not]
    exact ⟨⟨Ctx.hasTile_iff.2 hd, Ctx.hasTile_iff.2 ha⟩, hhi⟩
  case mzero =>
    refine entersWhen_of (fun _ => rfl) fun x s h => ?_
    obtain ⟨hd, hidle⟩ := h
    exact (if_neg (mt Ctx.lacksOne_iff.1 (not_not.2 hd))).trans (if_neg (Ctx.busyTile_false hidle))
  case mld =>
    refine entersWhen_of (fun _ => rfl) fun x s h => ?_
    obtain ⟨hd, hidle, hhi, hlo, hoff, hst, hrow, hg, h2⟩ := h
    exact (if_neg (Ctx.moveFields hd hhi hlo (strideOk_iff.2 ⟨hoff, hst, hrow⟩))).trans
      ((scratchCheck_then hg h2).trans (if_neg (Ctx.busyTile_false hidle)))
  case mst =>
    refine entersWhen_of (fun _ => rfl) fun x s h => ?_
    obtain ⟨ha, hhi, hlo, hoff, hst, hrow, hg, h2⟩ := h
    exact (if_neg (Ctx.moveFields ha hhi hlo (strideOk_iff.2 ⟨hoff, hst, hrow⟩))).trans (scratchCheck_then hg h2)
  case mcpy =>
    refine entersWhen_of (fun _ => rfl) fun x s h => ?_
    obtain ⟨hd, ha, hidle⟩ := h
    exact (if_neg (Ctx.hasBoth ⟨hd, ha⟩)).trans (if_neg (Ctx.busyTile_false hidle))
  case mcvt =>
    refine entersWhen_of (fun _ => rfl) fun x s h => ?_
    obtain ⟨ha, htype, hmid, hlo, hw⟩ := h
    have hrow : row x = 8 * matrixWidth (mdAtype (x.desc r)) := congrArg (8 * ·) (matrixWidth_eq (Nat.le_of_lt_succ htype)).symm
    simp only [hrow, whole] at hw ⊢
    obtain ⟨hoff, hst, hle, hg, h2⟩ := hw
    refine (if_neg ?_).trans (scratchCheck_then hg h2)
    simp only [Bool.or_eq_true, not_or, Bool.not_eq_true', Bool.not_eq_false, decide_eq_true_eq, not_not, not_le]
    exact ⟨⟨⟨⟨Ctx.hasTile_iff.2 ha, htype⟩, hmid⟩, hlo⟩, strideOk_iff.2 ⟨hoff, hst, hle⟩⟩
  case mzeroBusy =>
    refine refusedWhen_of (fun _ => rfl) fun x s _ h => ?_
    obtain ⟨hd, hbusy⟩ := h
    exact (if_neg (mt Ctx.lacksOne_iff.1 (not_not.2 hd))).trans (if_pos (Ctx.busyTile_true hbusy))
  case mcpyBusy =>
    refine refusedWhen_of (fun _ => rfl) fun x s _ h => ?_
    obtain ⟨hd, ha, hbusy⟩ := h
    exact (if_neg (Ctx.hasBoth ⟨hd, ha⟩)).trans (if_pos (Ctx.busyTile_true hbusy))
  case mldBusy =>
    refine refusedWhen_of (fun _ => rfl) fun x s _ h => ?_
    obtain ⟨hd, hbusy, hhi, hlo, hoff, hst, hrow, hg, h2⟩ := h
    exact (if_neg (Ctx.moveFields hd hhi hlo (strideOk_iff.2 ⟨hoff, hst, hrow⟩))).trans
      ((scratchCheck_then hg h2).trans (if_pos (Ctx.busyTile_true hbusy)))
  case lackBoth =>
    simp only [List.forall_mem_cons]
    refine ⟨?_, ?_, ?_, ?_, List.forall_mem_nil _⟩
    · exact refusedWhen_of (fun _ => rfl) fun x s _ h => if_pos (Ctx.lacksTile_iff.2 h)
    · exact refusedWhen_of (fun _ => rfl) fun x s _ h => if_pos (Ctx.lacksTile_iff.2 h)
    · exact refusedWhen_of (fun _ => rfl) fun x s _ h => if_pos (by rw [Ctx.lacksTile_iff.2 h]; rfl)
    · exact refusedWhen_of (fun _ => rfl) fun x s _ h => if_pos (by rw [Ctx.lacksTile_iff.2 h]; rfl)
  case lackWritten =>
    simp only [List.forall_mem_cons]
    refine ⟨?_, ?_, List.forall_mem_nil _⟩
    · exact refusedWhen_of (fun _ => rfl) fun x s _ h => if_pos (Ctx.lacksOne_iff.2 h)
    · exact refusedWhen_of (fun _ => rfl) fun x s _ h => if_pos (by rw [Ctx.lacksOne_iff.2 h]; rfl)
  case lackRead =>
    simp only [List.forall_mem_cons]
    refine ⟨?_, ?_, List.forall_mem_nil _⟩
    · exact refusedWhen_of (fun _ => rfl) fun x s _ h => if_pos (by rw [Ctx.lacksOne_iff.2 h]; rfl)
    · exact refusedWhen_of (fun _ => rfl) fun x s _ h => if_pos (by rw [Ctx.lacksOne_iff.2 h]; rfl)

end Sys2Proof.Machine

/-!
MRDY, MWAIT and MSTAT (O33; 07 R169, R176, 14 R355, R358).
-/
namespace Sys2Proof.Machine

/-! ## Block barriers (14 R353, R358) -/

section
variable {c : Ctx} {s : State}

/-- A member of a whole block barrier is not refused. -/
theorem barRefusal_member {n : Nat} {r : Barrier} (hr : c.b.bars[n]? = some r) (hm : memberOf c.b c.t 0 ∈ r.members)
    (hb : r.broken = false) : barRefusal c s 0 n = none := by
  have hbar : s.bar? c.b 0 n = some r := hr
  simp [barRefusal, hbar, hm, hb]

/-- A thread whose operations are performed arrives on a block barrier. -/
theorem arriving_block {n : Nat} {go : Word → State → Res} (h : s.allPerformed c.t = true) :
    arriving c s 0 n go = go (s.arrive c.t c.b 0 n).1 (s.arrive c.t c.b 0 n).2 := by
  simp [arriving, h]

/-- A wait is over where the phase of its token has ended. -/
theorem phaseWait_past {lev n : Nat} {tok : Word} (h : ∀ r, s.bar? ((s.blk? c.t.blk).getD c.b) lev n = some r → r.c ≠ tok) :
    phaseWait c s lev n tok = .done s [] .seq := by
  unfold phaseWait
  split
  next r hr => exact if_pos (bne_iff_ne.2 (h r hr))
  next => rfl

/-- It goes on while a whole barrier's phase is that of its token. -/
theorem phaseWait_within {lev n : Nat} {r : Barrier} (hr : s.bar? ((s.blk? c.t.blk).getD c.b) lev n = some r)
    (hb : r.broken = false) : phaseWait c s lev n r.c = .wait (.barrier lev n r.c) 1 s := by
  simp [phaseWait, hr, hb]

end

/-! ## The register writes of the MATRIX warps (07 R169) -/

theorem State.quarterDue_iff {s : State} {bk : Nat} : s.quarterDue bk = true ↔ ∃ b, s.blk? bk = some b ∧
    ∃ w ∈ b.warps, w.role = .matrix ∧ ¬ (w.t.pends = [] ∧ w.e.pends = []) := by
  unfold State.quarterDue
  cases s.blk? bk with
  | none => simp
  | some b => simp [imp_iff_not_or]

/-! ## Instructions of the front stream (02 R44) -/

theorem Clear.front {s : State} {i : Instr} {sp : Spec} {c : Ctx} (h : Clear s i sp c) (hs : sp.streams = .front) :
    c.front = true := by
  have hl := h.legal
  unfold staticRefusal at hl
  simp only [ite_eq_iff, reduceCtorEq, and_false, false_or, Bool.false_eq_true, not_false_eq_true, true_and, and_true]
    at hl
  obtain ⟨-, -, hstream, -⟩ := hl
  simpa [hs] using hstream

theorem completes_of_front {i : Instr} {sp : Spec} {body : Ctx → State → Res} {f : Effect}
    (he : ∀ s, exec i s = issue s i sp body) (hs : sp.streams = .front)
    (hb : ∀ x s, x.front = true → body x s = .done (f x s).1 (f x s).2.1 (f x s).2.2) : Completes i sp f := by
  intro s c h
  rw [he, issue_clear h, hb (c.operands sp) _ (h.front hs)]
  rfl

/-- A register of two halves. -/
theorem ofNat_halves (lo hi : Word) : BitVec.ofNat 64 (lo.toNat + 2 ^ 32 * hi.toNat) = hi ++ lo := by
  apply BitVec.eq_of_toNat_eq
  rw [BitVec.toNat_append, ← Nat.shiftLeft_add_eq_or_of_lt lo.isLt, Nat.shiftLeft_eq, BitVec.toNat_ofNat]
  omega

/-- Settles O33: MRDY arrives, waits for its phase and then for the writes; MWAIT and MSTAT look at the status bits alone. -/
theorem matrixControlCompletes : Obligations.MatrixControlCompletes := by
  unfold Obligations.MatrixControlCompletes
  intro d e r la tok sp i owed bar arrives arrived past free flying has
  have hpast : ∀ {x : Ctx} {s : State} {t : Word}, (∀ r, bar x s = some r → r.c ≠ t) → ¬ owed x s →
      (match phaseWait x s 0 d.toNat t with
        | .done s _ _ => if s.quarterDue x.t.blk then .wait .bquarter 2 s else .done s [] .seq
        | r => r) = Res.done s [] .seq := by
    intro x s t hc ho
    rw [phaseWait_past hc]
    exact if_neg (mt State.quarterDue_iff.1 ho)
  have harrives : ∀ {x : Ctx} {s : State} {go : Word → State → Res}, arrives x s →
      (match barRefusal x s 0 d.toNat with
        | some code => .refuse code 0 0
        | none => arriving x s 0 d.toNat go) = go (s.arrive x.t x.b 0 d.toNat).1 (arrived x s) := by
    rintro x s go ⟨hp, r, hr, hm, hb⟩
    rw [barRefusal_member hr hm hb]
    exact arriving_block hp
  refine ⟨?arrives, ?waits, ?ends, ?settled, ?mwait, ?mwaitWaits, ?mwaitEnds, ?mstat⟩
  case arrives =>
    refine completesWhen_of (fun _ => rfl) fun x s h0 h => ?_
    obtain ⟨ha, ho, hc⟩ := h
    exact (if_neg (by omega)).trans ((if_neg (by omega)).trans ((harrives ha).trans (hpast hc ho)))
  case waits =>
    refine waitsWhen_of (fun _ => rfl) fun x s h0 h => ?_
    obtain ⟨ha, r, hr, hc, hb⟩ := h
    refine (if_neg (by omega)).trans ((if_neg (by omega)).trans ((harrives ha).trans ?_))
    rw [← hc]
    dsimp only
    rw [phaseWait_within hr hb]
  case ends =>
    refine endsWhen_of (fun _ => rfl) fun x s h => ?_
    obtain ⟨h1, rfl, hc, ho⟩ := h
    exact (if_neg (by omega)).trans ((if_pos h1).trans (hpast hc ho))
  case settled => exact endsWhen_of (fun _ => rfl) fun x s h => if_pos h
  case mwait =>
    refine completesWhen_of (fun _ => rfl) fun x s _ h => ?_
    obtain ⟨ht, hf⟩ := h
    exact (if_neg (mt Ctx.lacksOne_iff.1 (not_not.2 ht))).trans (if_neg hf)
  case mwaitWaits =>
    refine waitsWhen_of (fun _ => rfl) fun x s _ h => ?_
    obtain ⟨ht, hf⟩ := h
    exact (if_neg (mt Ctx.lacksOne_iff.1 (not_not.2 ht))).trans (if_pos hf)
  case mwaitEnds =>
    refine endsWhen_of (fun _ => rfl) fun x s h => ?_
    obtain ⟨ht, hf⟩ := h
    exact (if_neg (mt Ctx.lacksOne_iff.1 (not_not.2 ht))).trans (if_neg hf)
  case mstat =>
    refine completes_of_front (fun _ => rfl) rfl fun x s hf => ?_
    simp only [Ctx.w64, if_pos hf, ofNat_halves, BitVec.ofNat_toNat, apply_ite]

end Sys2Proof.Machine

/-!
The rank instructions (O34; 07 R165, R177-R181, 11 R294, R295).
-/
namespace Sys2Proof.Machine

/-! ## The rank descriptor (07 R165, 11 R295) -/

theorem rankSize_eq (ty : BitVec 2) : rankSize ty = [4, 2, 1].getD ty.toNat 1 := by
  revert ty
  decide

section
variable {m : DWord}

theorem rdNOk_iff : rdNOk m = true ↔ ¬ (fld m 23 13 = 0 ∨ 1024 < fld m 23 13) := by
  rw [rdNOk, decide_eq_true_eq, rdN]
  omega

theorem rdNOk_false : (!rdNOk m) = true ↔ fld m 23 13 = 0 ∨ 1024 < fld m 23 13 := by
  rw [Bool.not_eq_true', Bool.eq_false_iff, ne_eq, rdNOk_iff, not_not]

/-- What a descriptor of RANK is refused for. -/
theorem rankFields_iff (ty : BitVec 2) :
    (!rdNOk m || fld m 1 0 ≠ 0 || fld m 12 2 = 0 || rdN m < fld m 12 2 || rdSrc m % rankSize ty ≠ 0 || rdDst m % 4 ≠ 0) = true ↔
      (fld m 23 13 = 0 ∨ 1024 < fld m 23 13) ∨ fld m 1 0 ≠ 0 ∨ fld m 12 2 = 0 ∨ fld m 23 13 < fld m 12 2 ∨
        fld m 63 44 % [4, 2, 1].getD ty.toNat 1 ≠ 0 ∨ fld m 43 24 % 4 ≠ 0 := by
  simp only [Bool.or_eq_true, decide_eq_true_eq, rdNOk_false, rankSize_eq, or_assoc]
  rfl

/-- What a descriptor of RTV or RLST, with a field that must be 0, is refused for. -/
theorem listFields_iff (unused size : Nat) :
    (!rdNOk m || unused ≠ 0 || rdSrc m % 4 ≠ 0 || rdDst m % size ≠ 0) = true ↔
      (fld m 23 13 = 0 ∨ 1024 < fld m 23 13) ∨ unused ≠ 0 ∨ fld m 63 44 % 4 ≠ 0 ∨ fld m 43 24 % size ≠ 0 := by
  simp only [Bool.or_eq_true, decide_eq_true_eq, rdNOk_false, or_assoc]
  rfl

/-- What a descriptor of RMMA is refused for. -/
theorem rmmaFields_iff :
    (rdSrc m % 4 ≠ 0 || fld m 43 28 % 4 ≠ 0 || fld m 27 24 ≠ 0 || fld m 17 13 ≠ 0 || fld m 12 3 % 32 ≠ 0 || 992 < fld m 12 3 ||
      fld m 2 0 ≠ 0) = true ↔
    fld m 63 44 % 4 ≠ 0 ∨ fld m 43 28 % 4 ≠ 0 ∨ fld m 27 24 ≠ 0 ∨ fld m 17 13 ≠ 0 ∨ fld m 12 3 % 32 ≠ 0 ∨ 992 < fld m 12 3 ∨
      fld m 2 0 ≠ 0 := by
  simp only [Bool.or_eq_true, decide_eq_true_eq, or_assoc]
  rfl

/-- What a descriptor of RATL or RRCL is refused for. -/
theorem tableFields_iff :
    (fld m 33 24 ≠ 0 || fld m 12 0 ≠ 0 || rdSrc m % 16 ≠ 0 || !rdNOk m || 1024 < fld m 43 34 + rdN m) = true ↔
      (fld m 23 13 = 0 ∨ 1024 < fld m 23 13) ∨ 1024 < fld m 43 34 + fld m 23 13 ∨ fld m 33 24 ≠ 0 ∨ fld m 12 0 ≠ 0 ∨
        fld m 63 44 % 16 ≠ 0 := by
  simp only [Bool.or_eq_true, decide_eq_true_eq, rdNOk_false]
  unfold rdSrc rdN
  omega

end

/-! ## The checks of two regions (07 R183) -/

/-- A destination and a source that are granted in scratch space go on past their checks. -/
theorem scratchChecks_then {c : Ctx} {gd gs : Region} {right right' : Right} {o n o' n' : Nat} {r : Res}
    (hd : Granted gd right [(0, o, n)] ∧ gd.space = 2) (hs : Granted gs right' [(0, o', n')] ∧ gs.space = 2) :
    (match (scratchCheck c gd right o n).orElse (fun _ => scratchCheck c gs right' o' n') with
      | some (code, addr) => .refuse code addr 0
      | none => r) = r := by
  rw [scratchCheck_granted hd.1 hd.2, Option.orElse_none, scratchCheck_granted hs.1 hs.2]

/-- So do a destination of another space and a source in scratch. -/
theorem farChecks_then {c : Ctx} {gd gs : Region} {right right' : Right} {o n o' n' : Nat} {r : Res}
    (hd : Granted gd right [(0, o, n)]) (hs : Granted gs right' [(0, o', n')] ∧ gs.space = 2) :
    (match ((checkRegion c gd right [(0, o, n)]).map (fun r => (r.1, r.2.1))).orElse (fun _ => scratchCheck c gs right' o' n') with
      | some (code, addr) => .refuse code addr 0
      | none => r) = r := by
  rw [checkRegion_granted hd, Option.map_none, Option.orElse_none, scratchCheck_granted hs.1 hs.2]

/-- Bytes that are present are not waited for. -/
theorem absentOf_then {b : Block} {spans : List (Nat × Nat)} {s : State} {r : Res} (h : b.absentOf spans = none) :
    (match b.absentOf spans with
      | some (a, z) => .wait (.lines a z) 0 s
      | none => r) = r := by
  rw [h]

/-- Settles O34: an instruction's fields, and then its regions, are well formed, or it is refused. -/
theorem rankInstructionsComplete : Obligations.RankInstructionsComplete := by
  unfold Obligations.RankInstructionsComplete
  refine ⟨fun d a r ty tie la => ?entering, fun d a r ty tie la => ?refusing⟩
  case entering =>
    intro sp sp1 sp2 m src dst n sized bytes has z read write listed k rank rtv rmma rlst wide m2 lists table loads
    have hsized : ∀ {x}, sized x → ¬ (n x = 0 ∨ 1024 < n x) := fun h => by unfold sized at h; omega
    have hloads : ∀ (i : Instr) (eng : Engine) (used : Block → Block),
        (∀ s, exec i s = issue s i sp1 (fun x s => markUsed x.t used (tableIssue x s i eng a (x.desc r)))) → loads i eng used := by
      intro i eng used he
      refine completesWhen_of he fun x s _ h => ?_
      obtain ⟨⟨hz, hz', ho, hn, hb, hg, h2⟩, hpresent, hroom⟩ := h
      have hroom : ((s.core x.b.coreIx).queueOf eng).countP (fun y => !y.started) < engineSize eng := by
        rwa [List.countP_eq_length_filter]
      have hissue : tableIssue x s i eng a (x.desc r) = _ :=
        ((if_neg (mt tableFields_iff.1 (not_or.2 ⟨hsized hn, by
          rintro (h | h | h | h)
          exacts [Nat.not_lt.2 hb h, h hz, h hz', h ho]⟩))).trans (scratchCheck_then hg h2)).trans
          (enqueue_room hpresent hroom)
      rw [hissue]
      rfl
    refine ⟨?rank, ?rmma, ?rtv, hloads _ _ _ fun _ => rfl, hloads _ _ _ fun _ => rfl, ?rlst⟩
    case rank =>
      refine entersWhen_of (fun _ => rfl) fun x s h => ?_
      obtain ⟨hn, hz, hk, hkn, hs, hd, hgd, hgs, hmeet⟩ := h
      rw [show z = rankSize ty from (rankSize_eq ty).symm] at hgs hmeet ⊢
      refine (if_neg (mt (rankFields_iff ty).1 (not_or.2 ⟨hsized hn, ?_⟩))).trans
        ((scratchChecks_then hgd hgs).trans (if_neg (Bool.eq_false_iff.1 hmeet)))
      rintro (h | h | h | h | h)
      exacts [h hz, Nat.one_le_iff_ne_zero.1 hk h, Nat.not_lt.2 hkn h, h hs, h hd]
    case rmma =>
      refine entersWhen_of (fun _ => rfl) fun x s h => ?_
      obtain ⟨ht, hs, hst, hz, hz', hw, hw', hz'', hb, hrun, hg, h2⟩ := h
      have hlists : rmmaLists (x.desc r) (x.rg a) = (lists x).map (fun o => (o, (x.rg a).bytes - o)) := by
        rw [show lists x = (List.range _).map _ from rfl, List.map_map]
        rfl
      refine (if_neg (mt Ctx.lacksOne_iff.1 (not_not.2 ht))).trans ((if_neg (mt rmmaFields_iff.1 ?fields)).trans
        ((if_neg ?base).trans ((scratchCheck_then hg h2).trans ?lists)))
      case fields =>
        rintro (h | h | h | h | h | h | h)
        exacts [h hs, h hst, h hz, h hz', h hw, Nat.not_lt.2 hw' h, h hz'']
      case base =>
        have hrun : x.bRunOk (fld (m2 x) 8 0) 8 = true := Ctx.bRunOk_iff.2 hrun
        simp only [Bool.or_eq_true, not_or, Bool.not_eq_true', Bool.not_eq_false, decide_eq_true_eq, not_not]
        exact ⟨hb, hrun⟩
      case lists =>
        simp only [hlists, List.flatMap_map, List.map_map]
        rfl
    case rtv =>
      refine entersWhen_of (fun _ => rfl) fun x s h => ?_
      obtain ⟨hn, hz, hs, hd, hgd, hgs⟩ := h
      refine (if_neg (mt (listFields_iff _ _).1 (not_or.2 ⟨hsized hn, ?_⟩))).trans (scratchChecks_then hgd hgs)
      rintro (h | h | h)
      exacts [h hz, h hs, h hd]
    case rlst =>
      refine completesWhen_of (fun _ => rfl) fun x s _ h => ?_
      obtain ⟨hn, hz, hs, hd, hto, hgd, hgs, hpresent, hown⟩ := h
      have hspace : ¬ ((x.rg d).kind ≠ 0 ∧ (!(x.rg d).splitp) = true ∧ (x.rg d).space ≠ 3 ∧ (x.rg d).space ≠ 0) := by
        rintro ⟨-, -, h3, h0⟩
        exact hto.elim h0 fun h => h3 h.1
      have hin : ¬ ((x.rg d).space = 3 ∧ x.b.clusz ≤ fld (x.desc r) 12 9) := by
        rintro ⟨h3, hle⟩
        rcases hto with h0 | ⟨-, hlt⟩
        · exact absurd (h0.symm.trans h3) (by decide)
        · exact Nat.not_lt.2 hle hlt
      refine (if_neg (mt (listFields_iff _ _).1 (not_or.2 ⟨hsized hn, ?_⟩))).trans ((if_neg hspace).trans
        ((farChecks_then hgd hgs).trans ((if_neg hin).trans ((absentOf_then hpresent).trans (if_pos hown)))))
      rintro (h | h | h)
      exacts [h hz, h hs, h hd]
  case refusing =>
    intro sp sp1 m src dst n k z unsized bytes has broken out
    refine ⟨?rank, ?rankMeets, ?rmma, ?rtv, ?rlst, ?tables⟩
    case rank => exact refusedWhen_of (fun _ => rfl) fun x s _ h => if_pos ((rankFields_iff ty).2 h)
    case rankMeets =>
      refine refusedWhen_of (fun _ => rfl) fun x s _ h => ?_
      obtain ⟨hok, hgd, hgs, hmeet⟩ := h
      rw [show z = rankSize ty from (rankSize_eq ty).symm] at hgs hmeet
      exact (if_neg (mt (rankFields_iff ty).1 hok)).trans ((scratchChecks_then hgd hgs).trans (if_pos hmeet))
    case rmma =>
      refine refusedWhen_of (fun _ => rfl) fun x s _ h => ?_
      obtain ⟨hd, hbad⟩ := h
      exact (if_neg (mt Ctx.lacksOne_iff.1 (not_not.2 hd))).trans (if_pos (rmmaFields_iff.2 hbad))
    case rtv => exact refusedWhen_of (fun _ => rfl) fun x s _ h => if_pos ((listFields_iff _ _).2 h)
    case rlst => exact refusedWhen_of (fun _ => rfl) fun x s _ h => if_pos ((listFields_iff _ _).2 h)
    case tables =>
      have htable : ∀ {x : Ctx} {s : State} {i : Instr} {eng : Engine} {used : Block → Block},
          unsized x ∨ 1024 < fld (m x) 43 34 + n x ∨ fld (m x) 33 24 ≠ 0 ∨ fld (m x) 12 0 ≠ 0 ∨ src x % 16 ≠ 0 →
          markUsed x.t used (tableIssue x s i eng a (x.desc r)) = .refuse 20 0 0 := fun h =>
        congrArg (markUsed _ _) (if_pos (tableFields_iff.2 h))
      simp only [List.forall_mem_cons]
      refine ⟨?_, ?_, List.forall_mem_nil _⟩
      · exact refusedWhen_of (fun _ => rfl) fun x s _ h => htable h
      · exact refusedWhen_of (fun _ => rfl) fun x s _ h => htable h

end Sys2Proof.Machine

/-!
The steps of the engines (O44; 07 R159-R162, R171-R175, R182, 11 R295): what an instruction that completes with the operands it
read, and no poison among them, makes of the tiles.
-/
namespace Sys2Proof.Machine

/-! ## Operands that nothing changed, and no poison (07 R162, R184) -/

/-- Old and new values that are the same leave the list whatever is picked between them. -/
theorem map_range_zip_zip_self {α : Type} {f : Nat × α × α → α} (l : List α) (h : ∀ i x, f (i, x, x) = x) :
    ((List.range l.length).zip (l.zip l)).map f = l := by
  apply List.ext_getElem <;> simp [h]

section
variable {o : EngineOp} {b : Block}

/-- An instruction whose scratch bytes are as it read them completes with what it read. -/
theorem EngineOp.mixed_unchanged (h : o.src = o.reads.map (fun x => cread b.scratch x.1 x.2)) (n : Nat) : o.mixed b n = o := by
  suffices hsrc : (o.mixed b n).src = o.src from congrArg (fun l => { o with src := l }) hsrc
  apply List.ext_getElem
  · simp [EngineOp.mixed, h]
  · intro i h1 h2
    have hr : i < o.reads.length := by simpa [h] using h2
    have hi : o.src[i] = cread b.scratch o.reads[i].1 o.reads[i].2 := by simp [h]
    simp only [EngineOp.mixed, List.getElem_map, List.getElem_zip, List.getElem_range, ← hi]
    exact map_range_zip_zip_self _ fun k x => if_pos rfl

theorem EngineOp.badSpan_sound (h : o.bad = []) (x : Nat × Nat) : o.badSpan x = false := by simp [EngineOp.badSpan, h]

theorem EngineOp.badRow_sound (h : o.bad = []) (i : Nat) : o.badRow i = false := by
  have hs : o.badSpan = fun _ => false := funext (EngineOp.badSpan_sound h)
  have ho : ∀ {α : Type} (x : Option α), x.any (fun _ => false) = false := fun x => by cases x <;> rfl
  unfold EngineOp.badRow
  split <;> simp [hs, ho]

theorem State.poisonFault_sound (hb : o.bad = []) (hf : o.fail = []) (s : State) (unit : Nat) : s.poisonFault b o unit = s := by
  have hfind : (o.used.flatMap (fun x => sectorsOf x.1 x.2)).find? (fun x => o.bad.contains x && !o.fail.contains x) = none := by
    simp [hb]
  unfold State.poisonFault
  dsimp only
  rw [hfind, hf]
  rfl

theorem State.putRows_sound (hb : o.bad = []) (hf : o.fail = []) (s : State) (t : Nat) (f : Nat → Nat → Nat) :
    s.putRows b o t f = s.putTile o.blk t true f := by
  simp [State.putRows, State.poisonFault_sound hb hf, EngineOp.badRow_sound hb]

end

/-! ## Elements of tiles (07 R157) -/

/-- A tile that is written holds what was written, and no other tile changes. -/
theorem State.tileAt_putTile {s : State} {bk : Nat} {b : Block} (hb : s.blk? bk = some b) (t : Nat) (dirty : Bool)
    (f : Nat → Nat → Nat) (e : Nat) {i j : Nat} (hi : i < 64) (hj : j < 64) :
    (s.putTile bk t dirty f).tileAt bk e i j = if e = t then f i j % 2 ^ 32 else s.tileAt bk e i j := by
  simp only [State.tileAt, State.putTile, State.blk?_updBlk_self, hb, Option.map_some, Option.getD_some, cget_cwrite, List.length_map,
    List.length_range]
  by_cases h : e = t
  · subst h
    have hk : 4096 * e + 64 * i + j - 4096 * e = 64 * i + j := by omega
    have hd : (64 * i + j) / 64 = i := by omega
    have hm : (64 * i + j) % 64 = j := by omega
    rw [if_pos rfl, if_pos (by omega), hk, List.getD_eq_getElem _ _ (by simp; omega)]
    simp [hd, hm]
  · rw [if_neg h, if_neg (by omega)]

theorem State.tileAt_lt (s : State) (bk t i j : Nat) : s.tileAt bk t i j < 2 ^ 32 := by
  unfold State.tileAt
  cases s.blk? bk with
  | none => exact Nat.two_pow_pos 32
  | some b => exact BitVec.isLt _

/-! ## What leaves every tile as it was -/

/-- Tiles hold in `u` what they hold in `s`. -/
def State.SameTiles (s u : State) : Prop := ∀ k, (u.blk? k).map (·.tile) = (s.blk? k).map (·.tile)

theorem State.SameTiles.tileAt {s u : State} (h : s.SameTiles u) (bk t i j : Nat) : u.tileAt bk t i j = s.tileAt bk t i j := by
  have hm : ∀ s : State, s.tileAt bk t i j =
      (((s.blk? bk).map (·.tile)).map (fun m => (cget m (4096 * t + 64 * i + j)).toNat)).getD 0 := fun s => by
    simp [State.tileAt, Function.comp_def]
  rw [hm, hm, h]

theorem State.SameTiles.refl (s : State) : s.SameTiles s := fun _ => rfl

theorem State.SameTiles.trans {s u v : State} (h : s.SameTiles u) (h' : u.SameTiles v) : s.SameTiles v :=
  fun k => (h' k).trans (h k)

theorem State.SameTiles.of_blocks {s u : State} (h : u.blocks = s.blocks) : s.SameTiles u := fun k => by
  simp only [State.blk?, h]

theorem State.SameTiles.foldl {α : Type} {f : State → α → State} (hf : ∀ s a, State.SameTiles s (f s a)) (l : List α) :
    ∀ s : State, s.SameTiles (l.foldl f s) := by
  induction l with
  | nil => exact State.SameTiles.refl
  | cons a l ih => exact fun s => (hf s a).trans (ih _)

theorem State.updBlk_sameTiles (s : State) (k : Nat) {f : Block → Block} (hf : ∀ b, (f b).tile = b.tile) :
    s.SameTiles (s.updBlk k f) := by
  intro j
  by_cases h : j = k
  · subst h
    simp [hf, Function.comp_def]
  · rw [State.blk?_updBlk_other _ _ h]

theorem State.updThread_sameTiles (s : State) (t : ThreadRef) (f : Thread → Thread) : s.SameTiles (s.updThread t f) :=
  s.updBlk_sameTiles t.blk fun b => b.updThread_tile t.warp t.armE f

theorem State.SameButSent.tiles {s u : State} (h : s.SameButSent u) : s.SameTiles u := fun k => by
  have hk := congrArg (Option.map (·.tile)) (h.1 k)
  simpa [Option.map_map, Function.comp_def, Block.unsent, Block.mapThreads] using hk

theorem State.ringDrain_sameTiles (die : Nat) : ∀ (n : Nat) (s : State), s.SameTiles (s.ringDrain die n)
  | 0, s => .refl s
  | n + 1, s => by
    unfold State.ringDrain
    split
    · exact .refl s
    next r rest _ =>
      dsimp only
      split
      · exact .refl s
      next k _ =>
        refine ((s.sameButSent_homeWrite k (recBytes r)).tiles.trans (.of_blocks ?_)).trans (ringDrain_sameTiles die n _)
        simp only [State.emit_blocks, State.setCdReg_blocks, State.updCd_blocks]

theorem State.ringPut_sameTiles (s : State) (die : Nat) (r : FaultRec) : s.SameTiles (s.ringPut die r) :=
  (State.SameTiles.of_blocks (State.updCd_blocks s die _)).trans (State.ringDrain_sameTiles die 64 _)

/-- The record of an imprecise fault changes no tile (15 R374). -/
theorem State.postFault_sameTiles (s : State) (t : ThreadRef) (r : FaultRec) : s.SameTiles (s.postFault t r) := by
  unfold State.postFault
  split
  · split
    · exact s.ringPut_sameTiles _ _
    split
    · exact s.ringPut_sameTiles _ _
    · exact (s.updThread_sameTiles t _).trans (.of_blocks (State.post_blocks _ _))
  · exact s.ringPut_sameTiles _ _

theorem State.engineFault_sameTiles (s : State) (b : Block) (o : EngineOp) (unit code addr : Nat) :
    s.SameTiles (s.engineFault b o unit code addr) := s.postFault_sameTiles _ _

/-- An instruction that leaves its engine changes no tile (07 R159). -/
theorem State.leaveEngine_sameTiles (s : State) (core : Nat) (eng : Engine) (o : EngineOp) :
    s.SameTiles (s.leaveEngine core eng o) :=
  (s.updBlk_sameTiles o.blk (f := fun b => b.unowe o.lines) fun _ => rfl).trans (.of_blocks rfl)

theorem State.core_updCore_self (s : State) (core : Nat) (f : Core → Core) : (s.updCore core f).core core = f (s.core core) := by
  simp [State.core]

theorem State.leaveEngine_core (s : State) (core : Nat) (eng : Engine) (o : EngineOp) : (s.leaveEngine core eng o).core core =
    (s.core core).setQueue eng (((s.core core).queueOf eng).filter (fun x => x.id != o.id)) :=
  State.core_updCore_self (s.updBlk o.blk (fun b => b.unowe o.lines)) core
    (fun k => k.setQueue eng ((k.queueOf eng).filter (fun x => x.id != o.id)))

/-- An instruction that leaves its engine is in its queue no more. -/
theorem State.leaveEngine_queue (s : State) (core : Nat) (eng : Engine) (o : EngineOp) :
    ((s.leaveEngine core eng o).core core).queueOf eng = ((s.core core).queueOf eng).filter (fun x => x.id != o.id) := by
  rw [State.leaveEngine_core]
  cases eng <;> rfl

theorem State.leaveEngine_att (s : State) (core : Nat) (eng : Engine) (o : EngineOp) :
    ((s.leaveEngine core eng o).core core).att = (s.core core).att := by
  rw [State.leaveEngine_core]
  cases eng <;> rfl

/-! ## What an instruction does as it completes -/

/-- The effect of the running instruction, before it leaves its engine (07 R159). -/
def State.engineEffect (s : State) (core : Nat) (b : Block) (o : EngineOp) : State :=
  match o.ins with
  | .rank _ _ _ ty _ => s.rankDone b o ty
  | .rmma d _ _ tie _ => s.rmmaDone core b o d.toNat (tie == 1)
  | .rtv _ _ _ _ => s.rtvDone core b o
  | .ratl _ _ _ =>
    (s.updCore core (fun k => { k with att := cwrite k.att (fld o.desc 43 34) o.entries })).poisonFault b o 2
  | .rrcl _ _ _ =>
    (s.updCore core (fun k => { k with recon := cwrite k.recon (fld o.desc 43 34) o.entries })).poisonFault b o 3
  | _ => s.matrixDone b o

/-- With operands that nothing changed, a completion is the effect and the way out of the engine. -/
theorem exec_engineComplete {s : State} {core : Nat} {eng : Engine} {o : EngineOp} {rest : List EngineOp} {b : Block}
    (hdue : s.due = some (.engineComplete core eng)) (hq : (s.core core).queueOf eng = o :: rest) (hst : o.started = true)
    (hb : s.blk? o.blk = some b) (hsrc : o.src = o.reads.map (fun x => cread b.scratch x.1 x.2)) :
    exec .engineComplete s = .next ((s.takeFree.2.engineEffect core b o).leaveEngine core eng o) := by
  change execEngineComplete s = _
  simp only [execEngineComplete, hdue, hq, hst, if_true, hb, EngineOp.mixed_unchanged hsrc]
  rfl

section
variable {s : State} {core : Nat} {b : Block} {o : EngineOp}

theorem State.engineEffect_mzero {d : BitVec 5} {la : BitVec 4} (h : o.ins = .mzero d la) :
    s.engineEffect core b o = s.takeFree.2.putTile o.blk d.toNat false (fun _ _ => 0) := by
  simp only [engineEffect, matrixDone, h]

theorem State.engineEffect_mtrn {d a : BitVec 5} {la : BitVec 4} (h : o.ins = .mtrn d a la) :
    s.engineEffect core b o = s.takeFree.2.putTile o.blk d.toNat true (fun i j => s.tileAt o.blk a.toNat j i) := by
  simp only [engineEffect, matrixDone, h]
  rfl

theorem State.engineEffect_mcpy {d a : BitVec 5} {la : BitVec 4} (h : o.ins = .mcpy d a la) (hw : o.wild = false) :
    s.engineEffect core b o = s.takeFree.2.putTile o.blk d.toNat true (fun i j => s.tileAt o.blk a.toNat i j) := by
  simp only [engineEffect, matrixDone, h, hw]
  rfl

/-- The products: each element is made of its old value. -/
theorem State.engineEffect_mma {d : BitVec 5} {r : BitVec 7} {sat : BitVec 1} {la : BitVec 4} (h : o.ins = .mma d r sat la) :
    s.engineEffect core b o = s.takeFree.2.putRows b o d.toNat (fun i j => o.cells i j (s.tileAt o.blk d.toNat i j)) := by
  simp only [engineEffect, matrixDone, h]
  rfl

theorem State.engineEffect_mld {d n : BitVec 5} {r : BitVec 7} {la : BitVec 4} (h : o.ins = .mld d n r la) :
    s.engineEffect core b o =
      s.takeFree.2.putRows b o d.toNat (fun i j => leNat (((o.bytes i).drop (4 * j)).take 4)) := by
  simp only [engineEffect, matrixDone, h]

theorem State.engineEffect_ratl {a : BitVec 5} {r : BitVec 7} {la : BitVec 4} (hbad : o.bad = []) (hfail : o.fail = [])
    (h : o.ins = .ratl a r la) : s.engineEffect core b o =
      s.updCore core (fun k => { k with att := cwrite k.att (fld o.desc 43 34) o.entries }) := by
  simp only [engineEffect, h, State.poisonFault_sound hbad hfail]

end

/-! ## The tile that an instruction writes (07 R159) -/

theorem State.poisonFault_sameTiles (s : State) (b : Block) (o : EngineOp) (unit : Nat) : s.SameTiles (s.poisonFault b o unit) := by
  have hfold := State.SameTiles.foldl (fun s x => s.engineFault_sameTiles b o unit 24 (64 * x))
    (o.fail.filter (o.used.flatMap (fun x => sectorsOf x.1 x.2)).contains) s
  unfold State.poisonFault
  dsimp only
  split
  · exact hfold.trans (State.engineFault_sameTiles _ _ _ _ _ _)
  · exact hfold

/-- `u` is `s` with tile `t` of a block written, as far as tiles go. -/
def State.TileWritten (s u : State) (bk t : Nat) : Prop := ∃ dirty f, (s.putTile bk t dirty f).SameTiles u

theorem State.TileWritten.other {s u : State} {bk t e i j : Nat} {b : Block} (h : s.TileWritten u bk t) (hb : s.blk? bk = some b)
    (he : e ≠ t) (hi : i < 64) (hj : j < 64) : u.tileAt bk e i j = s.tileAt bk e i j := by
  obtain ⟨dirty, f, hs⟩ := h
  rw [hs.tileAt, State.tileAt_putTile hb t dirty f e hi hj, if_neg he]

theorem State.tileWritten_putTile (s : State) (bk t : Nat) (dirty : Bool) (f : Nat → Nat → Nat) :
    s.TileWritten (s.takeFree.2.putTile bk t dirty f) bk t := ⟨dirty, f, .of_blocks rfl⟩

theorem State.tileWritten_putRows (s : State) (b : Block) (o : EngineOp) (t : Nat) (f : Nat → Nat → Nat) :
    s.TileWritten (s.takeFree.2.putRows b o t f) o.blk t := by
  obtain ⟨dirty, g, h⟩ := s.tileWritten_putTile o.blk t true (fun i j => if o.badRow i then o.badElem else f i j)
  exact ⟨dirty, g, h.trans (State.poisonFault_sameTiles _ b o 2)⟩

theorem State.tileWritten_rmmaDone (s : State) (core : Nat) (b : Block) (o : EngineOp) (t : Nat) (tie : Bool) :
    s.TileWritten (s.rmmaDone core b o t tie) o.blk t := by
  unfold State.rmmaDone
  dsimp only
  exact ⟨true, _, (State.SameTiles.foldl (fun s _ => s.engineFault_sameTiles b o 2 20 0) _ _).trans
    (State.poisonFault_sameTiles _ b o 2)⟩

theorem State.engineEffect_tileOut {s : State} {core : Nat} {b : Block} {o : EngineOp} {d : Nat} (hd : tileOut o.ins = some d) :
    s.TileWritten (s.engineEffect core b o) o.blk d := by
  unfold tileOut at hd
  split at hd
  case h_11 => cases hd
  all_goals
    rename_i h
    obtain rfl := Option.some.inj hd
    simp only [engineEffect, matrixDone, h]
  case h_4 | h_6 | h_7 | h_9 => exact s.tileWritten_putTile _ _ _ _
  case h_10 => exact s.tileWritten_rmmaDone _ _ _ _ _
  all_goals exact s.tileWritten_putRows _ _ _ _

/-! ## Bytes of scratch as they were read -/

theorem leNat_lt (bs : List Byte) : leNat bs < 256 ^ bs.length := by
  induction bs with
  | nil => exact Nat.one_pos
  | cons b r ih =>
    have hb := b.isLt
    rw [leNat, List.length_cons, Nat.pow_succ]
    omega

theorem cread_drop_take {w : Nat} (m : Cells w) (p : Nat) {n a c : Nat} (h : a + c ≤ n) :
    ((cread m p n).drop a).take c = cread m (p + a) c := by
  apply List.ext_getElem
  · simp [cread]
    omega
  · intro i h1 h2
    simp [cread, Nat.add_assoc]

/-- The bytes of a span, as they stand. -/
theorem EngineOp.bytes_fresh {o : EngineOp} {b : Block} {i p n : Nat} (hsrc : o.src = o.reads.map (fun x => cread b.scratch x.1 x.2))
    (hr : o.reads[i]? = some (p, n)) : o.bytes i = cread b.scratch p n := by
  simp [EngineOp.bytes, hsrc, List.getD_eq_getElem?_getD, hr]

/-- An entry that is loaded is its two bytes of scratch (11 R295). -/
theorem EngineOp.toNat_entries {o : EngineOp} {b : Block} {p i : Nat} (m : Cells 16) (base : Nat) (hbad : o.bad = [])
    (hsrc : o.src = o.reads.map (fun x => cread b.scratch x.1 x.2)) (hr : o.reads = [(p, 2 * fld o.desc 23 13)])
    (hi : i < fld o.desc 23 13) :
    (cget (cwrite m base o.entries) (base + i)).toNat = leNat (cread b.scratch (p + 2 * i) 2) := by
  have hlen : o.entries.length = fld o.desc 23 13 := by simp [EngineOp.entries, rdN]
  have hbytes : ((o.bytes 0).drop (2 * i)).take 2 = cread b.scratch (p + 2 * i) 2 := by
    rw [EngineOp.bytes_fresh hsrc (i := 0) (by rw [hr]; rfl), cread_drop_take _ _ (by omega)]
  rw [cget_cwrite, if_pos (by omega), Nat.add_sub_cancel_left, List.getD_eq_getElem _ _ (by omega)]
  simp only [EngineOp.entries, List.getElem_map, List.getElem_range, EngineOp.badSpan_sound hbad, Bool.false_eq_true, if_false,
    hbytes, BitVec.toNat_ofNat]
  exact Nat.mod_eq_of_lt ((leNat_lt _).trans_eq (by simp [cread]))

/-! ## Sums of an INT32 accumulator (03 R77) -/

theorem accInt_exact (d : Nat) (sum : Int) : ((accInt false d sum : Nat) : Int) = (d + sum) % 2 ^ 32 := by
  have hw : ((accInt false d sum : Nat) : Int) = (sgn 32 d + sum) % 2 ^ 32 := wrap_cast 32 _
  have hm : Int.bmod d (2 ^ 32) % (2 ^ 32 : Nat) = d % (2 ^ 32 : Nat) := Int.bmod_emod
  rw [Nat.cast_pow, Nat.cast_ofNat] at hm
  rw [hw, sgn_eq_bmod, Int.add_emod, hm, ← Int.add_emod]

/-- Two chunks of 32 products add up to all of them. -/
theorem intCell_exact {ps : List Int} (h : ps.length = 64) (old : Nat) :
    ((intCell false ps old : Nat) : Int) = (old + ps.sum) % 2 ^ 32 := by
  have hruns : runs32 ps = [ps.take 32, ps.drop 32] := by
    have hlast : (ps.drop 32).take 32 = ps.drop 32 := List.take_of_length_le (by simp [h])
    simp [runs32, h, List.range_succ, hlast]
  have hsum : (ps.take 32).sum + (ps.drop 32).sum = ps.sum := by
    rw [← List.sum_append, List.take_append_drop]
  simp only [intCell, hruns, List.map_cons, List.map_nil, List.foldl_cons, List.foldl_nil, accInt_exact, ← List.sum_eq_foldl]
  rw [Int.emod_add_emod, Int.add_assoc, hsum]

/-- An element of an unsaturated INT8 product (07 R171). -/
theorem EngineOp.cells_mma {o : EngineOp} {d : BitVec 5} {r : BitVec 7} {la : BitVec 4} (h : o.ins = .mma d r 0 la)
    (ht : mdAtype o.desc = 7) {i j : Nat} (hi : i < 64) (hj : j < 64) (old : Nat) : o.cells i j old =
      intCell false ((((o.aRow 8 64 i).map (sgn 8)).zip ((o.bCol 8 64 j).map (sgn 8))).map (fun x => x.1 * x.2)) old := by
  simp [EngineOp.cells, h, ht, EngineOp.aInts, hi, hj]

/-- Settles O44: a start is the engine's own; a completion is the effect of the instruction, which writes one tile or the table,
and its way out of the queue. -/
theorem engineStepsComplete : Obligations.EngineStepsComplete := by
  unfold Obligations.EngineStepsComplete
  intro s core eng o rest b hq hb
  refine ⟨?starts, ?completes⟩
  case starts =>
    intro hdue hst hmay o1 fail o2
    change execEngineStart s = _
    simp only [execEngineStart, hdue, hq, hst, hmay, hb]
    rfl
  case completes =>
    intro hdue hst hbad hfail hwild hsrc
    have hleave : ∀ e i j, ((s.takeFree.2.engineEffect core b o).leaveEngine core eng o).tileAt o.blk e i j =
        (s.takeFree.2.engineEffect core b o).tileAt o.blk e i j :=
      fun e i j => (State.leaveEngine_sameTiles _ core eng o).tileAt _ _ _ _
    have hb' : s.takeFree.2.takeFree.2.blk? o.blk = some b := hb
    refine ⟨_, exec_engineComplete hdue hq hst hb hsrc, ?gone, ?others, ?mzero, ?mcpy, ?mtrn, ?mld, ?mma, ?ratl⟩
    case gone =>
      intro x hx
      rw [State.leaveEngine_queue] at hx
      simpa using (List.mem_filter.1 hx).2
    case others =>
      intro d hd e i j he hi hj
      exact (hleave e i j).trans ((State.engineEffect_tileOut hd).other hb he hi hj)
    case mzero =>
      intro d la i j h hi hj
      rw [hleave, State.engineEffect_mzero h, State.tileAt_putTile hb' _ _ _ _ hi hj, if_pos rfl, Nat.zero_mod]
    case mcpy =>
      intro d a la i j h hi hj
      rw [hleave, State.engineEffect_mcpy h hwild, State.tileAt_putTile hb' _ _ _ _ hi hj, if_pos rfl]
      exact Nat.mod_eq_of_lt (State.tileAt_lt _ _ _ _ _)
    case mtrn =>
      intro d a la i j h hi hj
      rw [hleave, State.engineEffect_mtrn h, State.tileAt_putTile hb' _ _ _ _ hi hj, if_pos rfl]
      exact Nat.mod_eq_of_lt (State.tileAt_lt _ _ _ _ _)
    case mld =>
      intro d n r la i j p h hi hj hr
      rw [hleave, State.engineEffect_mld h, State.putRows_sound hbad hfail, State.tileAt_putTile hb' _ _ _ _ hi hj, if_pos rfl,
        EngineOp.bytes_fresh hsrc hr, cread_drop_take _ _ (by omega)]
      exact Nat.mod_eq_of_lt ((leNat_lt _).trans_eq (by simp [cread]))
    case mma =>
      intro d r la i j h ht hi hj products
      have hlen : products.length = 64 := by simp [products, EngineOp.aRow, EngineOp.bCol]
      rw [hleave, State.engineEffect_mma h, State.putRows_sound hbad hfail, State.tileAt_putTile hb' _ _ _ _ hi hj, if_pos rfl,
        EngineOp.cells_mma h ht hi hj, Int.natCast_emod, intCell_exact hlen]
      exact Int.emod_emod_of_dvd _ (dvd_refl _)
    case ratl =>
      intro a r la i p h hi hr
      rw [State.leaveEngine_att, State.engineEffect_ratl hbad hfail h, State.core_updCore_self]
      exact EngineOp.toNat_entries _ _ hbad hsrc hr hi

end Sys2Proof.Machine

/-!
Region instructions (O27; 08 R187, R201-R209): what each does on a register that nothing stands against.
-/
namespace Sys2Proof.Machine

/-! ## The issuing thread -/

/-- A context is that of the thread that issues, which its block has. -/
theorem State.ctx?_eq_some {s : State} {c : Ctx} (h : s.ctx? = some c) :
    s.cur = some c.t ∧ ∃ b, s.blk? c.t.blk = some b ∧ b.thread? c.t.warp c.t.armE = some c.th := by
  unfold State.ctx? at h
  split at h
  · cases h
  next t ht =>
  split at h
  · cases h
  next b hb =>
  split at h
  · cases h
  next th hth =>
  split at h
  · obtain rfl := Option.some.inj h
    exact ⟨ht, b, hb, hth⟩
  · cases h

theorem State.frontCur_eq {s : State} {c : Ctx} (h : s.ctx? = some c) : s.frontCur = (c.t.warp == 32) := by
  obtain ⟨hcur, -⟩ := State.ctx?_eq_some h
  simp [State.frontCur, hcur]

/-! ## The checks on a register -/

/-- A whole register of an E or S borrow, top-level and held, is not refused (R201). -/
theorem reborrowRefusal_none {g : Region} (hk : g.kind = 1 ∨ g.kind = 2) (hs : g.splitp = false) (hp : g.hasParent = false)
    (hl : g.lost = false) : reborrowRefusal g = none := by
  rcases hk with hk | hk <;> simp [reborrowRefusal, hk, hs, hp, hl]

/-- A REBORROW.S in local space finds the block's E borrow where its entry is that (log 88). -/
theorem State.stillE_local {s : State} {c : Ctx} {g : Region} (hg : g.space ≠ 0) : s.stillE c g =
    (kget (s.localTab c.b.coreIx g.space.toNat) g.tag).any (fun e => e.state == .held && e.kind == 1 && e.blk == c.t.blk) := by
  have hpos : 1 ≤ g.space.toNat := Nat.one_le_iff_ne_zero.2 fun h => hg (BitVec.eq_of_toNat_eq h)
  rw [State.stillE, Nat.max_eq_right hpos]

/-- The targets of a split or share pass where each may receive and none is named twice (R202, R203). -/
theorem targets_pass {c : Ctx} {d a : BitVec 5} {ts : List Nat} {n : Nat} {bad : Prop} (hbad : ¬ bad)
    (hok : ∀ t ∈ ts, targetOk c d a t = true) (hnd : ts.Nodup) (hn : ts.length = n) :
    ¬ (bad ∨ (!ts.all (targetOk c d a)) = true ∨ ts.dedup.length ≠ n) := by
  have hall : ts.all (targetOk c d a) = true := List.all_eq_true.2 hok
  simp [hbad, hall, hnd.dedup, hn]

theorem shareTargets_eq (v : DWord) :
    shareTargets v = ((List.range 8).map (fun i => fld v (8 * i + 7) (8 * i))).takeWhile (· ≠ 255) :=
  congrArg (List.takeWhile · _) (funext fun _ => (decide_not ..).symm)

/-- A local borrow returns without a wait for its arbiter (R206). -/
theorem returnGo_local {c : Ctx} {s : State} {g : Region} (hg : g.space ≠ 0) :
    returnGo c s g = .done (s.returnBorrow c.b g (.ended c.t.blk)) [] .seq := by
  have hacks : ¬ (g.space = 0 ∧ (g.kind = 1 ∨ g.kind = 3)) := fun h => hg h.1
  simp only [returnGo, if_neg hacks, if_neg (not_and_of_not_left _ hacks)]

/-! ## The 128 bits of a register (R187) -/

theorem toNat_append_eq_add {n m : Nat} (x : BitVec n) (y : BitVec m) : (x ++ y).toNat = x.toNat * 2 ^ m + y.toNat := by
  rw [BitVec.toNat_append, ← Nat.shiftLeft_add_eq_or_of_lt y.isLt, Nat.shiftLeft_eq]

theorem Region.bits_eq_append (g : Region) : g.bits = g.kind ++ g.space ++ (BitVec.ofBool g.splitp) ++
    (BitVec.ofBool g.taint) ++ (BitVec.ofBool g.lost) ++ (BitVec.ofBool g.wpseen) ++ g.nsplit ++ g.child ++ g.parent ++
    g.slot ++ 0#1 ++ g.lenm1 ++ g.base := by
  apply BitVec.eq_of_toNat_eq
  simp only [Region.bits, toNat_append_eq_add, BitVec.toNat_ofNat, BitVec.toNat_ofBool]
  have := g.base.isLt
  have := g.lenm1.isLt
  have := g.slot.isLt
  have := g.parent.isLt
  have := g.child.isLt
  have := g.nsplit.isLt
  have := Bool.toNat_lt g.wpseen
  have := Bool.toNat_lt g.lost
  have := Bool.toNat_lt g.taint
  have := Bool.toNat_lt g.splitp
  have := g.space.isLt
  have := g.kind.isLt
  omega

/-- Settles O27: the checks of each instruction pass, and what it does is its body's; RGINFO's bits stand one field above the
other. -/
theorem regionsComplete : Obligations.RegionsComplete := by
  unfold Obligations.RegionsComplete
  refine ⟨fun d a b eq n cs => ?instrs, fun d a s c => ?rginfo⟩
  case instrs =>
    refine ⟨?sharedAlready, ?downgrade, ?soleAlready, ?upgrade, ?busy, ?split, ?share, ?give, ?join, ?joinWaits, ?returns,
      ?move, ?clear, fun e => ?clearTaint⟩
    case sharedAlready =>
      refine completesWhen_of (fun _ => rfl) fun x s h0 h => ?_
      beta_reduce at h
      obtain ⟨⟨⟨-, hs⟩, hp, hl⟩, hk⟩ := h
      simp only [h0, if_true, reborrowRefusal_none (.inr hk) hs hp hl, hk]
      rfl
    case downgrade =>
      refine completesWhen_of (fun _ => rfl) fun x s h0 h => ?_
      beta_reduce at h
      obtain ⟨⟨⟨-, hs⟩, hp, hl⟩, hk, hg, ⟨hb, ho⟩, he⟩ := h
      simp only [h0, if_true, reborrowRefusal_none (.inl hk) hs hp hl, hk, hb, ho, if_neg hg, State.stillE_local hg, he]
      rfl
    case soleAlready =>
      refine completesWhen_of (fun _ => rfl) fun x s h0 h => ?_
      beta_reduce at h
      obtain ⟨⟨⟨-, hs⟩, hp, hl⟩, hk⟩ := h
      simp only [h0, reborrowRefusal_none (.inl hk) hs hp hl, hk]
      rfl
    case upgrade =>
      refine completesWhen_of (fun _ => rfl) fun x s h0 h => ?_
      beta_reduce at h
      obtain ⟨⟨⟨-, hs⟩, hp, hl⟩, hk, hg, hsole⟩ := h
      simp only [h0, reborrowRefusal_none (.inr hk) hs hp hl, hk, if_neg hg, hsole]
      rfl
    case busy =>
      refine completesWhen_of (fun _ => rfl) fun x s h0 h => ?_
      beta_reduce at h
      obtain ⟨⟨⟨-, hs⟩, hp, hl⟩, hk, hg, hsole⟩ := h
      simp only [h0, reborrowRefusal_none (.inr hk) hs hp hl, hk, if_neg hg, hsole]
      rfl
    case split =>
      refine completesWhen_of (fun _ => rfl) fun x s _ h => ?_
      obtain ⟨⟨hk, hs⟩, hy, hok, hnd, hcut, hq⟩ := h
      have hpass := targets_pass (ts := (List.range (n.toNat + 1)).map (byteOf (x.item b.toNat 0))) hy hok hnd
        ((List.length_map _).trans List.length_range)
      beta_reduce at hk hs hq hcut hpass
      simp only [if_neg hk, hs, if_neg hpass, hcut, hq]
      rfl
    case share =>
      refine completesWhen_of (fun _ => rfl) fun x s _ h => ?_
      beta_reduce at h
      simp only [← shareTargets_eq] at h
      obtain ⟨⟨hk, hs⟩, hS, hok, hnd, hne, hq⟩ := h
      simp only [if_neg hk, hs, if_neg (targets_pass (not_not.2 hS) hok hnd rfl), List.isEmpty_eq_false_iff.2 hne, hq,
        ← shareTargets_eq]
      rfl
    case give =>
      refine completesWhen_of (fun _ => rfl) fun x s h0 h => ?_
      beta_reduce at h
      obtain ⟨⟨hk, hs⟩, hp, hq, ho⟩ := h
      simp only [h0, if_neg hk, hs, hp, hq, ho]
      rfl
    case join =>
      refine completesWhen_of (fun _ => rfl) fun x s _ h => ?_
      beta_reduce at h
      obtain ⟨hk, hn⟩ := h
      cases hs : (x.b.region x.t.warp a.toNat).splitp with
      | false =>
        simp only [if_neg hk, changing, hs]
        rfl
      | true =>
        simp only [if_neg hk, changing, hs, if_pos (hn hs)]
        rfl
    case joinWaits =>
      refine waitsWhen_of (fun _ => rfl) fun x s _ h => ?_
      beta_reduce at h
      obtain ⟨hk, hs, hn⟩ := h
      simp only [if_neg hk, hs, if_neg hn]
      rfl
    case returns =>
      refine completesWhen_of (fun _ => rfl) fun x s h0 h => ?_
      beta_reduce at h
      obtain ⟨⟨⟨hk, hs⟩, hp, hl⟩, hg, hb, ho⟩ := h
      simp only [h0, if_neg hk, hs, hp, hl, hb, ho, returnGo_local hg]
      rfl
    case move =>
      refine completesWhen_of (fun _ => rfl) fun x s _ h => ?_
      beta_reduce at h
      obtain ⟨hk, hfree⟩ := h
      by_cases hd : d = a
      · simp only [if_neg hk, if_pos hd, changing]
      · simp only [if_neg hk, if_neg hd, changing, if_neg (not_not.2 (hfree hd))]
    case clear =>
      refine completesWhen_of (fun _ => rfl) fun x s _ h => ?_
      beta_reduce at h
      by_cases hg : 2 ≤ (x.b.region x.t.warp a.toNat).space.toNat
      · simp only [h, if_pos hg, changing]
        rfl
      · simp only [h, if_neg hg, changing]
        rfl
    case clearTaint =>
      refine completesWhen_of (fun _ => rfl) fun x s _ h => ?_
      beta_reduce at h
      obtain ⟨hk, ht, hg, he⟩ := h
      have hpass : ¬ ((x.b.region x.t.warp a.toNat).kind ≠ 1 ∨ (!(x.b.region x.t.warp a.toNat).taint) = true) := by
        simp [hk, ht]
      have he' (g : Region) : (s.setRegion x.t a.toNat g).entry x.b.die (x.b.region x.t.warp a.toNat).tag = some e := he
      simp only [if_neg hpass, if_pos hg, he', changing]
  case rginfo =>
    intro front sp g v x h
    change execRginfo d a s = _
    rw [execRginfo, State.frontCur_eq h.thread, issueRegs_clear h]
    have hv : ((c.operands sp).b.region (c.operands sp).t.warp a.toNat).bits = v := Region.bits_eq_append g
    simp only [hv, ← BitVec.setWidth_ushiftRight_eq_extractLsb]
    rfl

end Sys2Proof.Machine

/-!
BORROW (O26; 08 R193-R201): tables of local space under the changes that a grant makes, the grant itself, and the refusals.
-/
namespace Sys2Proof.Machine

/-! ## Issue -/

/-- An instruction with nothing in its way does what its body does on its operands. -/
theorem exec_clear {s : State} {i : Instr} {sp : Spec} {c : Ctx} {body : Ctx → State → Res} {r : Res}
    (he : ∀ s, exec i s = issue s i sp body) (h : Clear s i sp c) (hb : body (c.operands sp) (s.countIssue c) = r) :
    exec i s = .next (finish s i sp (c.operands sp) true r) := by
  rw [he, issue_clear h, hb]

/-- The answer of the homes is the status (11 R272). -/
theorem Ctx.status_answered {c : Ctx} {v : DWord} {r : List DWord} (h : c.answer = some (v :: r)) (b : BitVec 7) :
    c.status b ((c.answer.bind (·.head?)).getD 4).toNat = c.wItem b.toNat 0 v := by
  simp [h, Ctx.status]

/-! ## Tables that take a new entry -/

theorem kdel_of_unlisted {α : Type} {m : KMap α} {k : Nat} (h : kget m k = none) : kdel m k = m := by
  induction m with
  | nil => rfl
  | cons e r ih =>
    rw [kget] at h
    split at h
    · cases h
    next hk =>
      have hr : r.filter (fun e => e.1 != k) = r := ih h
      simp [kdel, hk, hr]

theorem any_kins {α : Type} (m : KMap α) (k : Nat) (v : α) (p : Nat × α → Bool) :
    (kins m k v).any p = (p (k, v) || m.any p) := by
  induction m with
  | nil => rfl
  | cons e r ih =>
    rw [kins]
    split
    · rfl
    · simp [ih, Bool.or_left_comm]

/-- A new entry is one more that a property may hold of. -/
theorem any_kset_of_unlisted {α : Type} {m : KMap α} {k : Nat} (h : kget m k = none) (v : α) (p : Nat × α → Bool) :
    (kset m k v).any p = (p (k, v) || m.any p) := by
  rw [kset, kdel_of_unlisted h, any_kins]

/-- The key that `kfree` finds is not listed. -/
theorem kget_kfree {α : Type} {m : KMap α} {base size k : Nat} (h : kfree m base size = some k) : kget m k = none := by
  rw [kfree] at h
  have hfree := List.find?_some h
  simp only [Bool.and_eq_true, Option.isNone_iff_eq_none] at hfree
  exact hfree.2

section
variable {m : KMap DieEntry} {e : DieEntry} {ix : Nat} (hix : kget m ix = none)
include hix

/-- A request's own entry is no taint mark. -/
theorem localTaint_kset_self (he : e.state = .requesting) : localTaint (kset m ix e) e = localTaint m e := by
  simp [localTaint, any_kset_of_unlisted hix, he]

/-- A request does not wait for its own bytes as a writer of others'. -/
theorem localWanted_kset_self : localWanted (kset m ix e) e = localWanted m e := by
  by_cases hk : e.kind = 1
  · simp [localWanted, hk]
  · have hne : (e.kind == 1) = false := beq_eq_false_iff_ne.2 hk
    simp only [localWanted, any_kset_of_unlisted hix, hne, Bool.and_false, Bool.false_or]

end

/-! ## The tables of local space in the state (R193) -/

theorem State.core_updCore_kept {α : Type} {p : Core → α} {f : Core → Core} (hp : ∀ c, p (f c) = p c) (s : State)
    (k j : Nat) : p ((s.updCore k f).core j) = p (s.core j) := by
  by_cases h : k = j
  · rw [← h, State.core_updCore_self, hp]
  · simp [State.core, h]

theorem State.cd_updCd_self {s : State} {die : Nat} (h : die < s.cds.length) (f : Cd → Cd) :
    (s.updCd die f).cd die = f (s.cd die) := by
  simp only [State.cd, State.updCd_cds, List.getD_eq_getElem?_getD, lset_get, if_true, List.getElem?_eq_getElem h,
    Option.map_some, Option.getD_some]

theorem State.cd_updCd_kept {α : Type} {p : Cd → α} {f : Cd → Cd} (hp : ∀ d, p (f d) = p d) (s : State) (k j : Nat) :
    p ((s.updCd k f).cd j) = p (s.cd j) := by
  by_cases h : k = j
  · simp only [State.cd, State.updCd_cds, List.getD_eq_getElem?_getD, lset_get, if_pos h]
    cases s.cds[j]? with
    | none => rfl
    | some d => exact hp d
  · simp [State.cd, h]

theorem State.localTab_updLocal_self {s : State} {core space : Nat} (h : space = 1 → core / 128 < s.cds.length)
    (f : KMap DieEntry → KMap DieEntry) : (s.updLocal core space f).localTab core space = f (s.localTab core space) := by
  by_cases hs : space = 1
  · simp only [State.updLocal, State.localTab, if_pos hs, State.cd_updCd_self (h hs)]
  · simp only [State.updLocal, State.localTab, if_neg hs, State.core_updCore_self]

theorem State.entries_setRoom (s : State) (core space : Nat) (f : List ThreadRef → List ThreadRef) (k : Nat) :
    ((s.setRoom core space f).cd k).entries = (s.cd k).entries := by
  unfold State.setRoom
  split
  · rfl
  · exact State.cd_updCd_kept (p := Cd.entries) (by intro d; rfl) _ _ _

theorem State.scratchTab_setRoom (s : State) (core space : Nat) (f : List ThreadRef → List ThreadRef) (k : Nat) :
    ((s.setRoom core space f).core k).scratchTab = (s.core k).scratchTab := by
  unfold State.setRoom
  split
  · exact State.core_updCore_kept (p := Core.scratchTab) (by intro d; rfl) _ _ _
  · rfl

theorem State.localTab_setRoom (s : State) (core space : Nat) (f : List ThreadRef → List ThreadRef) (k sp : Nat) :
    (s.setRoom core space f).localTab k sp = s.localTab k sp := by
  simp only [State.localTab, State.entries_setRoom, State.scratchTab_setRoom]

theorem State.cds_length_setRoom (s : State) (core space : Nat) (f : List ThreadRef → List ThreadRef) :
    (s.setRoom core space f).cds.length = s.cds.length := by
  unfold State.setRoom
  split
  · rfl
  · simp

theorem State.blk?_setRoom (s : State) (core space : Nat) (f : List ThreadRef → List ThreadRef) (bk : Nat) :
    (s.setRoom core space f).blk? bk = s.blk? bk := by
  unfold State.setRoom
  split <;> rfl

theorem State.cds_length_updLocal (s : State) (core space : Nat) (f : KMap DieEntry → KMap DieEntry) :
    (s.updLocal core space f).cds.length = s.cds.length := by
  unfold State.updLocal
  split
  · simp
  · rfl

theorem State.blk?_updLocal (s : State) (core space : Nat) (f : KMap DieEntry → KMap DieEntry) (bk : Nat) :
    (s.updLocal core space f).blk? bk = s.blk? bk := by
  unfold State.updLocal
  split <;> rfl

/-! ## The count of an issue leaves them -/

theorem State.countIssue_eq (s : State) (c : Ctx) : ∃ cs, s.countIssue c = { s with cores := cs } := s.pmcCount_eq _ _ _

theorem State.core_pmcCount_kept {α : Type} {p : Core → α} (hp : ∀ (c : Core) l, p { c with pmc := l } = p c) (s : State)
    (core event n j : Nat) : p ((s.pmcCount core event n).core j) = p (s.core j) := by
  unfold State.pmcCount
  dsimp only
  split
  · exact State.core_updCore_kept (fun k => hp k _) _ _ _
  · rfl

theorem State.scratchTab_countIssue (s : State) (c : Ctx) (j : Nat) :
    ((s.countIssue c).core j).scratchTab = (s.core j).scratchTab :=
  State.core_pmcCount_kept (fun _ _ => rfl) _ _ _ _ _

theorem State.room_countIssue (s : State) (c : Ctx) (j : Nat) : ((s.countIssue c).core j).room = (s.core j).room :=
  State.core_pmcCount_kept (fun _ _ => rfl) _ _ _ _ _

theorem State.localTab_countIssue (s : State) (c : Ctx) (core space : Nat) :
    (s.countIssue c).localTab core space = s.localTab core space := by
  obtain ⟨cs, hcs⟩ := s.countIssue_eq c
  unfold State.localTab
  rw [State.scratchTab_countIssue, hcs]
  rfl

theorem State.roomFor_countIssue (s : State) (c : Ctx) (core space : Nat) (t : ThreadRef) :
    (s.countIssue c).roomFor core space t = s.roomFor core space t := by
  obtain ⟨cs, hcs⟩ := s.countIssue_eq c
  unfold State.roomFor State.roomList
  rw [State.localTab_countIssue, State.room_countIssue, hcs]
  rfl

/-! ## A grant in local space (R193, R194, R196) -/

/-- The entry of a request once a local table grants it. -/
def DieEntry.granted (m : KMap DieEntry) (e : DieEntry) : DieEntry :=
  { e with state := .held, taint := localTaint m e, wp := e.wp || localWanted m e }

/-- The table that a request is entered in and the table before it grant it alike. -/
theorem DieEntry.granted_kset_self {m : KMap DieEntry} {e : DieEntry} {ix : Nat} (hix : kget m ix = none)
    (he : e.state = .requesting) : e.granted (kset m ix e) = e.granted m := by
  rw [DieEntry.granted, localTaint_kset_self hix he, localWanted_kset_self hix, DieEntry.granted]

/-- The state in which a granted entry is held, before its user is told. -/
def State.entryHeld (s : State) (core space ix : Nat) (e : DieEntry) : State :=
  let s := s.updLocal core space (fun m => kset m ix e)
  if space = 1 then s.l1Drop e.core ix else s

theorem State.localHold_eq {s : State} {core space ix : Nat} {e : DieEntry} (he : kget (s.localTab core space) ix = some e) :
    s.localHold core space ix = (s.entryHeld core space ix (e.granted (s.localTab core space))).tellGranted
      (e.granted (s.localTab core space)) ix := by
  unfold State.localHold
  rw [he]
  rfl

theorem State.blk?_entryHeld (s : State) (core space ix : Nat) (e : DieEntry) (bk : Nat) :
    (s.entryHeld core space ix e).blk? bk = s.blk? bk := by
  rw [← s.blk?_updLocal core space (fun m => kset m ix e) bk]
  unfold State.entryHeld
  split <;> rfl

theorem State.localTab_entryHeld {s : State} {core space : Nat} (h : space = 1 → core / 128 < s.cds.length) (ix : Nat)
    (e : DieEntry) : (s.entryHeld core space ix e).localTab core space = kset (s.localTab core space) ix e := by
  rw [← State.localTab_updLocal_self h (fun m => kset m ix e)]
  unfold State.entryHeld
  split <;> rfl

theorem State.localTab_tellGranted (s : State) (e : DieEntry) (ix core space : Nat) :
    (s.tellGranted e ix).localTab core space = s.localTab core space := by
  unfold State.tellGranted
  split <;> rfl

/-- The thread whose request is granted has the borrow in the register that it named (R200). -/
theorem State.region_tellGranted {s : State} {e : DieEntry} {t : ThreadRef} {r : Nat} {b : Block} {th : Thread}
    (hu : e.user = .thread t r) (hb : s.blk? t.blk = some b) (ht : b.thread? t.warp t.armE = some th) (ix : Nat) :
    ((s.tellGranted e ix).blk? t.blk).map (fun y => y.region t.warp r) = some (grantedRegion e ix) := by
  simp [State.tellGranted, hu, State.answer, State.updThread, State.setRegion, hb, Block.region_setRegion ht]

section
variable {c : Ctx} {s : State} {kind space base len : Nat} (d : BitVec 5) (b : BitVec 7) (tr : Bool)

/-- The entry of a local borrow that a thread asks for. -/
abbrev localRequest (c : Ctx) (s : State) (d : BitVec 5) (kind space base len : Nat) (tr : Bool) : DieEntry :=
  newEntry c.b c.t.blk kind space base len s.fresh tr [] (.thread c.t d.toNat)

/-- The state in which a local borrow's request stands in the table at `ix`. -/
def State.requested (s : State) (c : Ctx) (space ix : Nat) (e : DieEntry) : State :=
  (s.takeFresh.2.takeFree.2.leaveRoom c.b.coreIx space c.t).updLocal c.b.coreIx space (fun m => kset m ix e)

theorem borrowLocal_granted {ix : Nat} (hroom : s.roomFor c.b.coreIx space c.t = true)
    (hix : kfree (s.localTab c.b.coreIx space) (Config.freeNat (nth s.free 0)) (tableSize space) = some ix)
    (hlocal : localFree (s.localTab c.b.coreIx space) (localRequest c s d kind space base len tr) = true) :
    borrowLocal c s d b kind space base len tr =
      .done ((s.requested c space ix (localRequest c s d kind space base len tr)).localHold c.b.coreIx space ix)
        (c.status b (if localTaint (s.localTab c.b.coreIx space) (localRequest c s d kind space base len tr) then 3 else 0))
        .seq := by
  have hfound : (if s.takeFresh.2.takeFree.2.roomFor c.b.coreIx space c.t then
      kfree (s.localTab c.b.coreIx space) (Config.freeNat (nth s.free 0)) (tableSize space) else none) = some ix :=
    (if_pos hroom).trans hix
  simp only [borrowLocal, State.takeFresh, State.takeFree]
  split
  next hnone => cases hfound.symm.trans hnone
  next jx hsome =>
    obtain rfl := Option.some.inj (hfound.symm.trans hsome)
    exact if_pos hlocal

/-- The request stands in the table of its space, and no other entry has gone. -/
theorem State.localTab_requested (hdie : space = 1 → c.b.coreIx / 128 < s.cds.length) (ix : Nat) (e : DieEntry) :
    (s.requested c space ix e).localTab c.b.coreIx space = kset (s.localTab c.b.coreIx space) ix e := by
  have hlen : space = 1 → c.b.coreIx / 128 < (s.takeFresh.2.takeFree.2.leaveRoom c.b.coreIx space c.t).cds.length := by
    rw [State.leaveRoom, State.cds_length_setRoom]
    exact hdie
  rw [State.requested, State.localTab_updLocal_self hlen, State.leaveRoom, State.localTab_setRoom]
  rfl

theorem State.cds_length_requested (ix : Nat) (e : DieEntry) : (s.requested c space ix e).cds.length = s.cds.length := by
  unfold State.requested State.leaveRoom
  rw [State.cds_length_updLocal, State.cds_length_setRoom]
  rfl

theorem State.blk?_requested (ix : Nat) (e : DieEntry) (bk : Nat) : (s.requested c space ix e).blk? bk = s.blk? bk := by
  unfold State.requested State.leaveRoom
  rw [State.blk?_updLocal, State.blk?_setRoom]
  rfl

/-- A local borrow that the table has room for and no borrow conflicts with: its entry is HELD, and its register filled. -/
theorem borrowLocal_grants (hdie : space = 1 → c.b.coreIx / 128 < s.cds.length)
    (hroom : s.roomFor c.b.coreIx space c.t = true)
    (hfree : ∀ f, (kfree (s.localTab c.b.coreIx space) f (tableSize space)).isSome)
    (hlocal : localFree (s.localTab c.b.coreIx space) (localRequest c s d kind space base len tr) = true)
    {y : Block} {th : Thread} (hb : s.blk? c.t.blk = some y) (ht : y.thread? c.t.warp c.t.armE = some th) :
    let table := s.localTab c.b.coreIx space
    let e := localRequest c s d kind space base len tr
    ∃ ix t, kget table ix = none ∧
      borrowLocal c s d b kind space base len tr = .done t (c.status b (if localTaint table e then 3 else 0)) .seq ∧
      kget (t.localTab c.b.coreIx space) ix = some (e.granted table) ∧
      (t.blk? c.t.blk).map (fun z => z.region c.t.warp d.toNat) = some (grantedRegion (e.granted table) ix) := by
  intro table e
  obtain ⟨ix, hix⟩ := Option.isSome_iff_exists.1 (hfree (Config.freeNat (nth s.free 0)))
  have hnew : kget table ix = none := kget_kfree hix
  have htab : (s.requested c space ix e).localTab c.b.coreIx space = kset table ix e := State.localTab_requested hdie ix e
  have hhold := State.localHold_eq (s := s.requested c space ix e) (core := c.b.coreIx) (space := space) (ix := ix) (e := e)
    (by simp [htab])
  rw [htab, DieEntry.granted_kset_self hnew rfl] at hhold
  refine ⟨ix, _, hnew, borrowLocal_granted d b tr hroom hix hlocal, ?entry, ?register⟩
  case entry =>
    rw [hhold, State.localTab_tellGranted, State.localTab_entryHeld, kget_kset, if_pos rfl]
    exact fun hs => (hdie hs).trans_eq (State.cds_length_requested ix e).symm
  case register =>
    rw [hhold]
    refine State.region_tellGranted (b := y) rfl ?_ ht ix
    rw [State.blk?_entryHeld, State.blk?_requested, hb]

end

/-! ## What BORROW refuses before it asks (R200) -/

/-- Operands of BORROW that name no range of their space. -/
abbrev NoRange (s : State) (b : Block) (av bv : DWord) : Prop :=
  fld av 63 56 ≠ 0 ∨ fld bv 61 42 ≠ 0 ∨ fld av 55 0 % 128 ≠ 0 ∨ fld bv 41 0 % 128 ≠ 0 ∨ fld bv 41 0 = 0 ∨
    2 ^ 41 < fld bv 41 0 ∨ s.spaceLimit b (fld bv 63 62) < fld av 55 0 + fld bv 41 0

/-- A register that BORROW may not fill: one that holds a borrow, or one that would hold an A or Y borrow of a core's space. -/
abbrev NoRight (c : Ctx) (d : BitVec 5) (kind : Nat) (bv : DWord) : Prop :=
  (c.b.region c.t.warp d.toNat).kind ≠ 0 ∨ ((kind = 3 ∨ kind = 4) ∧ 2 ≤ fld bv 63 62)

section
variable {s : State} {c : Ctx} {d : BitVec 5} {kind : Nat} {av bv : DWord}

theorem borrowRefusal_noRange (h : NoRange s c.b av bv) : borrowRefusal s c d kind av bv = some (10, av.toNat) := if_pos h

theorem borrowRefusal_noRight (h : ¬ NoRange s c.b av bv) (hr : NoRight c d kind bv) :
    borrowRefusal s c d kind av bv = some (9, 0) := by
  refine (if_neg h).trans ?_
  rcases hr with hr | hr
  · exact if_pos hr
  · exact (ite_eq_left_iff.2 fun _ => if_pos hr)

theorem borrowRefusal_none (h : ¬ NoRange s c.b av bv) (hr : ¬ NoRight c d kind bv) :
    borrowRefusal s c d kind av bv = none :=
  (if_neg h).trans ((if_neg fun hk => hr (.inl hk)).trans (if_neg fun hk => hr (.inr hk)))

end

/-- What BORROW names: the register that it fills, its item of an address, and its item of a length that takes the status. -/
abbrev borrowOperands (d : BitVec 5) (a b : BitVec 7) : Spec :=
  borrowing [.region d.toNat, .items a.toNat 1 false, .items b.toNat 1 false, .items b.toNat 1 true]

/-- A BORROW of local space that nothing refuses is a local borrow. -/
theorem exec_borrow_local {s : State} {c x : Ctx} {d : BitVec 5} {a b : BitVec 7} {tr : BitVec 1} {k : BitVec 2} {av bv : DWord}
    (h : Clear s (.borrow d a b tr k) (borrowOperands d a b) c) (hx : c.operands (borrowOperands d a b) = x)
    (hav : x.item a.toNat 0 = av) (hbv : x.item b.toNat 0 = bv) (hrange : ¬ NoRange (s.countIssue c) x.b av bv)
    (hright : ¬ NoRight x d (k.toNat + 1) bv) (hspace : fld bv 63 62 ≠ 0) :
    exec (.borrow d a b tr k) s = .next (finish s (.borrow d a b tr k) (borrowOperands d a b) x true
      (borrowLocal x (s.countIssue c) d b (k.toNat + 1) (fld bv 63 62) (fld av 55 0) (fld bv 41 0) (tr == 1))) := by
  subst hx hav hbv
  refine exec_clear (fun _ => rfl) h ?_
  have h0 : (c.operands (borrowOperands d a b)).stage = 0 := h.start
  simp only [h0, borrowRefusal_none hrange hright]
  exact if_neg hspace

/-- Settles O26: what passes the checks of R200 in local space is granted there and then; an answer is the status; and the
checks refuse in their order. -/
theorem borrowRule : Obligations.BorrowRule := by
  unfold Obligations.BorrowRule
  refine ⟨fun d a b tr k s c => ?granted, fun d a b tr k v r => ?answered, fun d a b tr k => ?refused⟩
  case granted =>
    intro sp x av bv space base len table e held h hav hbv hbase hlen hpos hmax hin hempty hspace hright hdie hroom hfree hlocal
    obtain ⟨cs, hcs⟩ := s.countIssue_eq c
    obtain ⟨-, y, hy, hth⟩ := State.ctx?_eq_some h.thread
    have hlim : (s.countIssue c).spaceLimit x.b space = s.spaceLimit c.b space := by rw [hcs]; rfl
    have hrange : ¬ NoRange (s.countIssue c) x.b av bv := by
      change ¬ (fld av 63 56 ≠ 0 ∨ fld bv 61 42 ≠ 0 ∨ base % 128 ≠ 0 ∨ len % 128 ≠ 0 ∨ len = 0 ∨
        2 ^ 41 < len ∨ (s.countIssue c).spaceLimit x.b space < base + len)
      omega
    have hmay : ¬ NoRight x d (k.toNat + 1) bv := by
      rintro (hk | ⟨hk, hsp⟩)
      · exact hk hempty
      · change 2 ≤ space at hsp
        omega
    have htab : (s.countIssue c).localTab c.b.coreIx space = table := State.localTab_countIssue s c _ _
    have he : localRequest x (s.countIssue c) d (k.toNat + 1) space base len (tr == 1) = e := by
      change newEntry _ _ _ _ _ _ (s.countIssue c).fresh _ _ _ = _
      rw [hcs]
      rfl
    obtain ⟨ix, t, hnew, hbody, hentry, hreg⟩ := borrowLocal_grants (c := x) (s := s.countIssue c) (kind := k.toNat + 1)
      (space := space) (base := base) (len := len) d b (tr == 1) (by rw [hcs]; exact hdie)
      ((State.roomFor_countIssue s c _ _ _).trans hroom)
      (fun f => (congrArg (fun m => (kfree m f _).isSome) htab).trans (hfree f))
      ((congrArg₂ localFree htab he).trans hlocal) (by rw [hcs]; exact hy) hth
    change (s.countIssue c).localTab x.b.coreIx space = table at htab
    rw [htab, he] at hbody hentry hreg
    rw [htab] at hnew
    refine ⟨ix, t, hnew, ?_, hentry, hreg⟩
    have hstatus : x.status b (if localTaint table e then 3 else 0) =
        x.wItem b.toNat 0 (if localTaint table e then 3 else 0) := by
      split <;> rfl
    rw [exec_borrow_local h rfl rfl rfl hrange hmay hspace, ← hstatus]
    exact congrArg (fun r => Host.Outcome.next (finish s _ _ x true r)) hbody
  case answered =>
    refine ⟨?borrow, ?downgrade, ?upgrade⟩
    case borrow =>
      exact endsWhen_of (fun _ => rfl) fun x s ⟨hst, ha⟩ =>
        (if_pos hst).trans (congrArg (Res.done s · .seq) (Ctx.status_answered ha b))
    case downgrade =>
      exact endsWhen_of (fun _ => rfl) fun x s ⟨hst, ha⟩ =>
        (if_pos hst).trans (congrArg (Res.done s · .seq) (Ctx.status_answered ha b))
    case upgrade =>
      exact endsWhen_of (fun _ => rfl) fun x s ⟨hst, ha⟩ =>
        (if_pos hst).trans (congrArg (Res.done s · .seq) (Ctx.status_answered ha b))
  case refused =>
    refine ⟨?noRange, ?noRight⟩
    case noRange =>
      refine refusedWhen_of (fun _ => rfl) fun x s h0 h => ?_
      simp only [h0, borrowRefusal_noRange h]
      rfl
    case noRight =>
      refine refusedWhen_of (fun _ => rfl) fun x s h0 h => ?_
      obtain ⟨hrange, hr⟩ := h
      have hno : NoRight x d (k.toNat + 1) (x.item b.toNat 0) := hr.imp id fun ⟨hk, hsp⟩ => ⟨by omega, hsp⟩
      simp only [h0, borrowRefusal_noRight hrange hno]
      rfl

end Sys2Proof.Machine

/-!
Memory stays in canonical form (O56, O57; log 1): addresses rise strictly, and no entry is 0. Bytes reach memory by `State.memPut`
alone, which keeps the form, and leave it where a die stops; every other function of the model passes memory on, or hands it to
one that writes. `State.Canon.f`, `Res.Canon.f` and `Leaves.f` say so of the function `f`, in the order of the model's files.
-/
namespace Sys2Proof.Machine

/-- Settles O56: nothing is listed. -/
theorem resetMemoryCanonical : Obligations.ResetMemoryCanonical := rfl

/-- Memory is in canonical form. -/
def State.Canon (s : State) : Prop := Memory.wf s.mem

/-- What an instruction's body answers holds canonical memory. -/
def Res.Canon : Res → Prop
  | .refuse _ _ _ => True
  | .trap _ s => s.Canon
  | .wait _ _ s => s.Canon
  | .done s _ _ => s.Canon

/-- What the refusals before a body leave. -/
def Gate.Canon : Gate → Prop
  | .go _ s => s.Canon
  | _ => True

/-- What the look at an access's pages leaves. -/
def Pass.Canon : Pass → Prop
  | .wait s => s.Canon
  | _ => True

/-- What an attempt to save leaves. -/
def Saved.Canon : Saved → Prop
  | .done s => s.Canon
  | _ => True

/-- The state that a step leaves, if it leaves one. -/
def Leaves : Host.Outcome State Fault Refusal → Prop
  | .next s => s.Canon
  | _ => True

variable {s t : State}

/-! ## Choices, lists of changes, and answers that hold a state -/

theorem State.Canon.ite {p : Prop} [Decidable p] (hs : s.Canon) (ht : t.Canon) : (if p then s else t).Canon :=
  iteInduction (fun _ => hs) fun _ => ht

theorem State.Canon.ite_snd {α : Type} {p : Prop} [Decidable p] {x y : α × State} (hx : x.2.Canon) (hy : y.2.Canon) :
    (if p then x else y).2.Canon :=
  iteInduction (motive := fun z : α × State => z.2.Canon) (fun _ => hx) fun _ => hy

theorem Res.Canon.ite {p : Prop} [Decidable p] {x y : Res} (hx : x.Canon) (hy : y.Canon) : (if p then x else y).Canon :=
  iteInduction (fun _ => hx) fun _ => hy

theorem Gate.Canon.ite {p : Prop} [Decidable p] {x y : Gate} (hx : x.Canon) (hy : y.Canon) : (if p then x else y).Canon :=
  iteInduction (fun _ => hx) fun _ => hy

theorem Pass.Canon.ite {p : Prop} [Decidable p] {x y : Pass} (hx : x.Canon) (hy : y.Canon) : (if p then x else y).Canon :=
  iteInduction (fun _ => hx) fun _ => hy

theorem Leaves.ite {p : Prop} [Decidable p] {x y : Host.Outcome State Fault Refusal} (hx : Leaves x) (hy : Leaves y) :
    Leaves (if p then x else y) :=
  iteInduction (fun _ => hx) fun _ => hy

theorem State.Canon.foldl {α : Type} {f : State → α → State} {l : List α} (hf : ∀ {s} a, s.Canon → (f s a).Canon)
    (hs : s.Canon) : (l.foldl f s).Canon := by
  induction l generalizing s with
  | nil => exact hs
  | cons a l ih => exact ih (hf a hs)

theorem State.Canon.foldl_snd {α β : Type} {f : β × State → α → β × State} {l : List α} {x : β × State}
    (hf : ∀ {x} a, x.2.Canon → (f x a).2.Canon) (hs : x.2.Canon) : (l.foldl f x).2.Canon := by
  induction l generalizing x with
  | nil => exact hs
  | cons a l ih => exact ih (hf a hs)

theorem State.Canon.foldl_snd_snd {α β γ : Type} {f : β × γ × State → α → β × γ × State} {l : List α} {x : β × γ × State}
    (hf : ∀ {x} a, x.2.2.Canon → (f x a).2.2.Canon) (hs : x.2.2.Canon) : (l.foldl f x).2.2.Canon := by
  induction l generalizing x with
  | nil => exact hs
  | cons a l ih => exact ih (hf a hs)

theorem State.Canon.of_snd {α : Type} {p : α × State} {x : α} {u : State} (h : p.2.Canon) (he : p = (x, u)) : u.Canon := by
  subst he
  exact h

theorem State.Canon.of_snd_snd {α β : Type} {p : α × β × State} {x : α} {y : β} {u : State} (h : p.2.2.Canon)
    (he : p = (x, y, u)) : u.Canon := by
  subst he
  exact h

theorem State.Canon.of_saved {x : Saved} {u : State} (h : x.Canon) (he : x = .done u) : u.Canon := by
  subst he
  exact h

theorem State.Canon.of_pass {x : Pass} {u : State} (h : x.Canon) (he : x = .wait u) : u.Canon := by
  subst he
  exact h

theorem Res.Canon.of_watched {c : Ctx} {g : Region} {kind : Nat} {accs : List Acc} {x : Res} (hs : s.Canon)
    (he : watched c s g kind accs = some x) : x.Canon := by
  unfold watched at he
  dsimp only at he
  split at he
  · cases he
  split at he
  · cases he
  · cases he
    exact State.Canon.foldl (fun _ hs => hs) hs

/-- The one way bytes reach memory. -/
theorem State.Canon.memPut {k : Nat} {bs : List Byte} (hs : s.Canon) : (s.memPut k bs).Canon := State.memPut_wf k bs hs

/-! ## Machine/Ops.lean -/

theorem State.Canon.updCore {c : Nat} {f : Core → Core} (hs : s.Canon) : (s.updCore c f).Canon := hs

theorem State.Canon.updCd {d : Nat} {f : Cd → Cd} (hs : s.Canon) : (s.updCd d f).Canon := hs

theorem State.Canon.updMd {h : Nat} {f : Md → Md} (hs : s.Canon) : (s.updMd h f).Canon := .ite hs hs

theorem State.Canon.updBlk {b : Nat} {f : Block → Block} (hs : s.Canon) : (s.updBlk b f).Canon := hs

theorem State.Canon.setPkg {f : Pkg → Pkg} (hs : s.Canon) : (s.setPkg f).Canon := hs

theorem State.Canon.updStream {k : Nat} {f : Stream → Stream} (hs : s.Canon) : (s.updStream k f).Canon := hs

theorem State.Canon.post {i : Event} (hs : s.Canon) : (s.post i).Canon := hs

theorem State.Canon.postAll {is : List Event} (hs : s.Canon) : (s.postAll is).Canon := hs

theorem State.Canon.emit {o : Output} (hs : s.Canon) : (s.emit o).Canon := hs

theorem State.Canon.takeFree (hs : s.Canon) : s.takeFree.2.Canon := hs

theorem State.Canon.takeFresh (hs : s.Canon) : s.takeFresh.2.Canon := hs

theorem State.Canon.pickOne {α : Type} {l : List α} (hs : s.Canon) : (s.pickOne l).2.Canon := .ite_snd hs (.takeFree hs)

theorem State.Canon.updThread {t : ThreadRef} {f : Thread → Thread} (hs : s.Canon) : (s.updThread t f).Canon := .updBlk hs

theorem State.Canon.updWarp {t : ThreadRef} {f : Warp → Warp} (hs : s.Canon) : (s.updWarp t f).Canon := .updBlk hs

theorem State.Canon.updFront {b : Nat} {f : Front → Front} (hs : s.Canon) : (s.updFront b f).Canon := .updBlk hs

theorem State.Canon.begin {bk : Nat} (hs : s.Canon) : (s.begin bk).Canon := .updBlk hs

theorem State.Canon.setHold {t : ThreadRef} {h : Option Hold} (hs : s.Canon) : (s.setHold t h).Canon := .updThread hs

theorem State.Canon.unhold {t : ThreadRef} (hs : s.Canon) : (s.unhold t).Canon := .updThread hs

theorem State.Canon.answer {t : ThreadRef} {vals : List DWord} (hs : s.Canon) : (s.answer t vals).Canon := .updThread hs

theorem State.Canon.spoil {t : ThreadRef} {r : Nat} {ws : List RegWrite} (hs : s.Canon) : (s.spoil t r ws).Canon :=
  .updBlk (.takeFree hs)

theorem State.Canon.applyWrites {t : ThreadRef} {ws : List RegWrite} (hs : s.Canon) : (s.applyWrites t ws).Canon :=
  .foldl (fun _ hs => .spoil hs) (.updBlk hs)

theorem State.Canon.setCdReg {d num : Nat} {v : DWord} (hs : s.Canon) : (s.setCdReg d num v).Canon := .updCd hs

theorem State.Canon.addCdReg {d num : Nat} (hs : s.Canon) : (s.addCdReg d num).Canon := .setCdReg hs

theorem State.Canon.bump {ctr i : Nat} (hs : s.Canon) : (s.bump ctr i).Canon := hs

theorem State.Canon.setLkst {d : DieId} {m : Nat} {v : DWord} (hs : s.Canon) : (s.setLkst d m v).Canon := by
  unfold State.setLkst
  extract_lets
  split
  · exact .updCd hs
  · exact .updMd hs

theorem State.Canon.touch {k : Nat} (hs : s.Canon) : (s.touch k).Canon :=
  .ite (.ite (.ite (.post (.ite (.post (.updMd hs)) (.updMd hs))) (.ite (.post (.updMd hs)) (.updMd hs))) (.updMd hs)) hs

theorem State.Canon.markDirty {k : Nat} (hs : s.Canon) : (s.markDirty k).Canon := .ite (.updMd hs) hs

theorem State.Canon.addPoison {xs : List Nat} (hs : s.Canon) : (s.addPoison xs).Canon := hs

theorem State.Canon.markLine {line poison : Nat} {sums : KMap (BitVec 16)} (hs : s.Canon) :
    (s.markLine line poison sums).Canon := hs

theorem State.Canon.cacheLine {k : Nat} {dirty : Bool} (hs : s.Canon) : (s.cacheLine k dirty).Canon := by
  unfold State.cacheLine
  refine .ite hs (.ite (.updMd hs) (.updMd (.ite ?_ hs)))
  split
  next he => exact .updMd (.of_snd (.pickOne hs) he)
  next he => exact .of_snd (.pickOne hs) he

theorem State.Canon.metaLookup {m g : Nat} (hs : s.Canon) : (s.metaLookup m g).Canon := by
  unfold State.metaLookup
  refine .ite hs (.updMd (.ite ?_ hs))
  split
  next he => exact .updMd (.of_snd (.pickOne hs) he)
  next he => exact .of_snd (.pickOne hs) he

theorem State.Canon.packGranule {k : Nat} (hs : s.Canon) : (s.packGranule k).2.Canon := by
  unfold State.packGranule
  dsimp only
  split
  · exact hs
  · exact .ite_snd hs (.ite_snd (.updMd (.takeFree (.metaLookup hs))) (.emit (.updMd (.takeFree (.metaLookup hs)))))

theorem State.Canon.settleWrite {k : Nat} {bs : List Byte} {who : Option ThreadRef} (hs : s.Canon) :
    (s.settleWrite k bs who).Canon := by
  unfold State.settleWrite
  refine .ite (.updMd hs) ?_
  split
  next he => exact .markDirty (.memPut (.cacheLine (.of_snd (.packGranule hs) he)))
  next he => exact .updMd (.of_snd (.packGranule hs) he)

theorem State.Canon.sentNow {t : ThreadRef} (hs : s.Canon) : (s.sentNow t).Canon := .updThread (.updThread hs)

theorem State.Canon.sentFor {k : Nat} {who : List ThreadRef} (hs : s.Canon) : (s.sentFor k who).Canon :=
  .ite (.foldl (fun _ hs => .sentNow hs) hs) hs

theorem State.Canon.homeWriteLine {k : Nat} {bs : List Byte} (hs : s.Canon) : (s.homeWriteLine k bs).Canon :=
  .settleWrite (.sentFor (.touch hs))

theorem State.Canon.homeWrite {k : Nat} {bs : List Byte} (hs : s.Canon) : (s.homeWrite k bs).Canon :=
  .foldl (fun _ hs => .homeWriteLine hs) hs

theorem State.Canon.homeRead {k n : Nat} (hs : s.Canon) : (s.homeRead k n).2.2.Canon := by
  unfold State.homeRead
  dsimp only
  split
  · split
    · exact .metaLookup (.cacheLine (.touch hs))
    · exact .addPoison (.updMd (.metaLookup (.cacheLine (.touch hs))))
  · exact .cacheLine (.touch hs)

theorem State.Canon.ringDrain {die n : Nat} (hs : s.Canon) : (s.ringDrain die n).Canon := by
  induction n generalizing s with
  | zero => exact hs
  | succ n ih =>
    unfold State.ringDrain
    split
    · exact hs
    · dsimp only
      split
      · exact hs
      · exact ih (.emit (.setCdReg (.updCd (.homeWrite hs))))

theorem State.Canon.ringPut {die : Nat} {r : FaultRec} (hs : s.Canon) : (s.ringPut die r).Canon := .ringDrain (.updCd hs)

theorem State.Canon.walkHome {die va l4 : Nat} (hs : s.Canon) : (s.walkHome die va l4).Canon :=
  .foldl (fun _ hs => .cacheLine (.touch hs)) hs

theorem State.Canon.walkRange {die cluster : Nat} {d : CtxDesc} {va len : Nat} (hs : s.Canon) :
    (s.walkRange die cluster d va len).Canon :=
  .foldl (fun _ hs => .walkHome hs) hs

theorem State.Canon.tlbFill {cluster : Nat} {e : TlbEntry} (hs : s.Canon) :
    (s.tlbFill cluster e).Canon := by
  unfold State.tlbFill
  refine .ite ?_ hs
  split
  next u he =>
    have hu : u.Canon := .of_snd (.pickOne hs) he
    exact hu
  next u he =>
    have hu : u.Canon := .of_snd (.pickOne hs) he
    exact hu

theorem State.Canon.putAll {k : Nat} {bs : List Byte} (hs : s.Canon) : (s.putAll k bs).Canon := .homeWrite hs

theorem State.Canon.framePut {b : Block} {off : Nat} {bs : List Byte} (hs : s.Canon) : (s.framePut b off bs).Canon := by
  unfold State.framePut
  split
  · exact .putAll hs
  · exact hs

theorem State.Canon.startKill {blk code : Nat} (hs : s.Canon) : (s.startKill blk code).Canon := by
  unfold State.startKill
  split
  · exact hs
  · exact .ite hs (.post (.updCd (.updBlk hs)))

theorem State.Canon.enterTrap {t : ThreadRef} {r : FaultRec} (hs : s.Canon) : (s.enterTrap t r).Canon := by
  unfold State.enterTrap
  split
  · refine .ite (.startKill (.ringPut (.updThread hs))) (.updThread ?_)
    split
    · split
      · exact .updBlk (.updBlk (.framePut hs))
      · exact .updBlk (.framePut hs)
    · exact .updBlk (.framePut hs)
  · exact hs

theorem State.Canon.takeTrap {t : ThreadRef} {r : FaultRec} (hs : s.Canon) : (s.takeTrap t r).Canon := by
  unfold State.takeTrap
  split
  · exact hs
  · exact .ite (.ringPut hs) (.ite hs (.ite (.updThread hs) (.ite (.enterTrap (.updThread hs)) (.post (.updThread hs)))))

theorem State.Canon.leaveTrap {t : ThreadRef} (hs : s.Canon) : (s.leaveTrap t).Canon := .updThread (.updBlk hs)

theorem State.Canon.postFault {t : ThreadRef} {r : FaultRec} (hs : s.Canon) : (s.postFault t r).Canon := by
  unfold State.postFault
  split
  · exact .ite (.ringPut hs) (.ite (.ringPut hs) (.post (.updThread hs)))
  · exact .ringPut hs

/-! ## Machine/MemPath.lean -/

theorem State.Canon.report {who : Option ThreadRef} {pc : BitVec 56} {code addr engine : Nat} {lanes : Word} {home : Nat}
    (hs : s.Canon) : (s.report who pc code addr engine lanes home).Canon := by
  unfold State.report
  split
  · split
    · exact .postFault hs
    · exact .ringPut hs
  · exact .ringPut hs

theorem State.Canon.seen (hs : s.Canon) : s.seen.Canon := hs

theorem State.Canon.homeWatch {k n kind : Nat} {who : Who} {pc : BitVec 56} (hs : s.Canon) :
    (s.homeWatch k n kind who pc).Canon := by
  unfold State.homeWatch
  refine .ite ?_ hs
  refine .foldl (fun _ hs => ?_) hs
  extract_lets
  split
  · refine .ite ?_ hs
    extract_lets
    split
    · refine .postFault (.updMd ?_)
      split
      · exact .updThread hs
      · exact hs
      · exact .updCore hs
      · exact hs
    · exact .ringPut (.updMd hs)
  · exact hs

theorem State.Canon.sharedPut {die off : Nat} {bs : List Byte} (hs : s.Canon) : (s.sharedPut die off bs).Canon := .updCd hs

theorem State.Canon.lineHome {line : Nat} {x : LineData} {who : List ThreadRef} (hs : s.Canon) :
    (s.lineHome line x who).Canon :=
  .ite (.markLine (.homeWrite (.sentFor (.homeWatch hs)))) (.markLine
    (.foldl (fun _ hs => .report hs) (.homeWrite (.sentFor (.homeWatch hs)))))

theorem State.Canon.l2Drop {x : L2Line} (hs : s.Canon) : (s.l2Drop x).Canon := .ite (.lineHome hs) hs

theorem State.Canon.l2Add {x : L2Line} (hs : s.Canon) : (s.l2Add x).Canon := by
  unfold State.l2Add
  refine .ite ?_ hs
  split
  next he => exact .l2Drop (.of_snd (.pickOne hs) he)
  next he => exact .of_snd (.pickOne hs) he

theorem State.Canon.lineRead {die line : Nat} {who : Who} {pc : BitVec 56} (hs : s.Canon) :
    (s.lineRead die line who pc).2.2.Canon := by
  unfold State.lineRead
  split
  · exact hs
  · exact .ite (.l2Add (.homeRead (.homeWatch hs))) (.homeRead (.homeWatch hs))

theorem State.Canon.lineWrite {die k : Nat} {bs : List Byte} {ts : List ThreadRef} {who : Who} {pc : BitVec 56}
    (hs : s.Canon) : (s.lineWrite die k bs ts who pc).Canon := by
  unfold State.lineWrite
  refine .ite ?_ (.homeWrite (.sentFor (.homeWatch hs)))
  refine .ite ?_ (.lineRead hs)
  split
  · exact hs
  · exact .l2Add hs

theorem State.Canon.lineBack {die line : Nat} {x : LineData} {who : List ThreadRef} (hs : s.Canon) :
    (s.lineBack die line x who).Canon :=
  .ite (.lineWrite hs) (.lineHome hs)

theorem State.Canon.l2Walk {die first n : Nat} {wb drop : Bool} (hs : s.Canon) : (s.l2Walk die first n wb drop).Canon :=
  .foldl (fun _ hs => .ite (.ite (.lineHome hs) hs) (.ite (.lineHome hs) hs)) hs

theorem State.Canon.l1Upd {x : L1Line} {f : L1Line → L1Line} (hs : s.Canon) : (s.l1Upd x f).Canon := hs

theorem State.Canon.combine {x : L1Line} (hs : s.Canon) : (s.combine x).Canon :=
  .foldl (fun _ hs => .ite (.sharedPut hs) (.settleWrite (.sentFor (.homeWatch hs)))) (.ite hs (.touch hs))

theorem State.Canon.l1Back {x : L1Line} (hs : s.Canon) : (s.l1Back x).Canon := by
  unfold State.l1Back
  split
  · exact hs
  · exact .combine hs
  · exact .ite (.updCd (.sharedPut hs)) (.lineBack hs)

theorem State.Canon.l1Alias {core : Nat} {asid : BitVec 16} {phys line : Nat} (hs : s.Canon) :
    (s.l1Alias core asid phys line).Canon :=
  .foldl (fun _ hs => .l1Back hs) hs

theorem State.Canon.l1Add {x : L1Line} (hs : s.Canon) : (s.l1Add x).Canon := by
  unfold State.l1Add
  refine .ite ?_ hs
  split
  next he => exact .l1Back (.of_snd (.pickOne hs) he)
  next he => exact .of_snd (.pickOne hs) he

theorem State.Canon.l1Drop {core slot : Nat} (hs : s.Canon) : (s.l1Drop core slot).Canon := hs

theorem State.Canon.l1Flush {core slot : Nat} (hs : s.Canon) : (s.l1Flush core slot).Canon :=
  .foldl (fun _ hs => .l1Back hs) hs

theorem State.Canon.lineFor {b : Block} {g : Region} {a : Nat} {acc : Access} {priv fill : Bool} {who : Who}
    {pc : BitVec 56} (hs : s.Canon) : (s.lineFor b g a acc priv fill who pc).2.2.Canon := by
  unfold State.lineFor
  split
  · exact hs
  split
  · exact .ite (.l1Add hs) hs
  split
  · exact .ite (.l1Add (.lineRead (.ite (.l1Alias hs) hs))) (.lineRead (.ite (.l1Alias hs) hs))
  · exact hs

theorem State.Canon.mismatch {who : Who} {pc : BitVec 56} {sectors : List Nat} {home : Nat} (hs : s.Canon) :
    (s.mismatch who pc sectors home).Canon :=
  .foldl (fun _ hs => .report hs) hs

theorem State.Canon.poisonLine {b : Block} {g : Region} {a : Nat} {acc : Access} {priv : Bool} {is : List Nat}
    (hs : s.Canon) : (s.poisonLine b g a acc priv is).Canon := by
  unfold State.poisonLine
  extract_lets p s₁
  have h₁ : s₁.Canon := by
    unfold s₁
    split
    · exact hs
    · exact hs
  refine .ite h₁ ?_
  split
  · extract_lets s₂ there
    have h₂ : s₂.Canon := by
      unfold s₂
      split
      · exact h₁
      · exact h₁
    exact h₂
  · exact h₁

theorem State.Canon.readAt {bk : Nat} {b : Block} {g : Region} {o n : Nat} {acc : Access} {priv fill : Bool} {who : Who}
    {pc : BitVec 56} (hs : s.Canon) : (s.readAt bk b g o n acc priv fill who pc).2.2.Canon := by
  unfold State.readAt
  split
  · exact .ite hs (.mismatch (.updBlk hs))
  split
  · exact .mismatch (.ite (.lineFor hs) (.poisonLine (.lineFor hs)))
  split
  · exact .ite hs (.mismatch (.updCd hs))
  dsimp only
  split
  · exact .mismatch (.addPoison (.homeRead (.homeWatch hs)))
  · exact hs

theorem State.Canon.peekAt {bk : Nat} {b : Block} {g : Region} {o n : Nat} {acc : Access} {priv fill : Bool} {who : Who}
    {pc : BitVec 56} (hs : s.Canon) : (s.peekAt bk b g o n acc priv fill who pc).2.Canon :=
  .ite_snd hs (.lineFor hs)

theorem State.Canon.writeAt {bk : Nat} {b : Block} {g : Region} {o : Nat} {bs : List Byte} {acc : Access}
    {priv fill : Bool} {who : Who} {pc : BitVec 56} (hs : s.Canon) : (s.writeAt bk b g o bs acc priv fill who pc).Canon :=
    by
  unfold State.writeAt
  extract_lets a ts put
  have hput {s : State} (hs : s.Canon) : (put s).Canon := by
    unfold put
    split
    · exact hs
    · exact .ite (.homeWrite (.l1Upd hs)) (.l1Upd hs)
  refine .ite (.updBlk hs) (.ite (hput hs) (.ite (.sharedPut hs) (.ite (hput (.lineFor hs)) ?_)))
  split
  · exact .ite (.homeWrite (.lineWrite hs)) (.lineWrite hs)
  · exact hs

/-! ## Machine/Links.lean -/

theorem State.Canon.setMod {a b : DieId} {m st : Nat} (hs : s.Canon) : (s.setMod a b m st).Canon := .setLkst (.setLkst hs)

theorem State.Canon.idleFrom {a b : DieId} {m : Nat} (hs : s.Canon) : (s.idleFrom a b m).Canon := hs

theorem State.Canon.wakeLink {a b : DieId} (hs : s.Canon) : (s.wakeLink a b).Canon :=
  .foldl (fun _ hs => .ite (.post (.setMod hs)) hs) hs

theorem State.Canon.kick {a b : DieId} {n : Nat} (hs : s.Canon) : (s.kick a b n).Canon := by
  induction n generalizing s with
  | zero => exact hs
  | succ n ih =>
    unfold State.kick
    refine .ite hs ?_
    split
    · exact .wakeLink hs
    · exact .ite hs (ih (.post (.idleFrom (.ite (.updStream hs) (.updStream (.updStream hs))))))

theorem State.Canon.kickAll {a b : DieId} (hs : s.Canon) : (s.kickAll a b).Canon := .kick hs

theorem State.Canon.sendAck {h : Hop} {nak : Bool} (hs : s.Canon) : (s.sendAck h nak).Canon := by
  unfold State.sendAck
  extract_lets
  split
  · exact .post (.idleFrom (.updStream hs))
  · exact .wakeLink (.updStream hs)

theorem State.Canon.send {here dst : DieId} {x : Slot} (hs : s.Canon) : (s.send here dst x).Canon := by
  unfold State.send
  split
  · exact hs
  · exact .kickAll (.updStream hs)

theorem State.Canon.countSeam {own : Nat} {r : List DieId} (hs : s.Canon) : (s.countSeam own r).Canon := by
  unfold State.countSeam
  split
  · exact .ite (.bump hs) hs
  · exact hs

theorem State.Canon.sentSlot {x : Slot} (hs : s.Canon) : (s.sentSlot x).Canon := by
  unfold State.sentSlot
  split
  · refine .ite ?_ hs
    split <;> exact .sentNow hs
  · exact hs

theorem State.Canon.putFrame {port dev : Nat} {slots : List Slot} (hs : s.Canon) : (s.putFrame port dev slots).Canon :=
  .emit (.updMd (.foldl (fun _ hs => .sentSlot hs) hs))

theorem State.Canon.sendFrame {port dev : Nat} {slots : List Slot} (hs : s.Canon) : (s.sendFrame port dev slots).Canon :=
  .ite hs (.ite (.updMd hs) (.putFrame hs))

theorem State.Canon.drainPort {port n : Nat} (hs : s.Canon) : (s.drainPort port n).Canon := by
  induction n generalizing s with
  | zero => exact hs
  | succ n ih =>
    unfold State.drainPort
    dsimp only
    split
    · exact hs
    · exact .ite hs (ih (.putFrame (.updMd hs)))

theorem State.Canon.noteSeen {dev : Nat} {recv : DieId} {id : Nat} {reply : Option (List DWord × Bool)} (hs : s.Canon) :
    (s.noteSeen dev recv id reply).Canon :=
  hs

theorem State.Canon.takeReply {id : Nat} {o : ReqOwner} {vals : List DWord} {poison : Bool} {r : Option Request}
    (hs : s.Canon) : (s.takeReply id o vals poison r).Canon := by
  unfold State.takeReply
  refine .ite ?_ hs
  extract_lets
  split
  · extract_lets
    split
    · exact .postFault (.post hs)
    · exact .post hs
  · exact .answer hs

theorem State.Canon.takeEop {here : DieId} {ctr : Nat} {m : EopMsg} (hs : s.Canon) : (s.takeEop here ctr m).Canon := by
  unfold State.takeEop
  split <;> exact .ite (.post hs) (.ite (.post hs) (.ite (.post hs) (.ite (.post hs) (.post hs))))

theorem State.Canon.freshEop {here : DieId} {ctr : Nat} {m : EopMsg} (hs : s.Canon) : (s.freshEop here ctr m).Canon :=
  .ite (.bump hs) (.takeEop (.noteSeen hs))

theorem State.Canon.deliver {here : DieId} {ctr : Nat} {x : Slot} (hs : s.Canon) : (s.deliver here ctr x).Canon := by
  unfold State.deliver
  refine .ite ?_ (.send hs)
  split
  · split
    · split
      · exact .sendFrame hs
      · exact hs
    · exact .ite (.freshEop hs) (.send hs)
    · exact .freshEop hs
  · exact .post hs
  · exact .takeReply hs
  · exact .post hs

theorem State.Canon.sendOrTake {here dst : DieId} {x : Slot} (hs : s.Canon) : (s.sendOrTake here dst x).Canon :=
  .ite (.deliver hs) (.send hs)

theorem State.Canon.drainEarly {h : Hop} {ctr n : Nat} (hs : s.Canon) : (s.drainEarly h ctr n).Canon := by
  induction n generalizing s with
  | zero => exact hs
  | succ n ih =>
    unfold State.drainEarly
    dsimp only
    split
    · exact hs
    · exact ih (.foldl (fun _ hs => .deliver hs) (.updStream hs))

theorem State.Canon.takeAck {a b : DieId} {ack : Option Nat} (hs : s.Canon) : (s.takeAck a b ack).Canon := by
  unfold State.takeAck
  split
  · exact hs
  · exact .kickAll (.updStream hs)

theorem State.Canon.replay {a b : DieId} (hs : s.Canon) : (s.replay a b).Canon := by
  unfold State.replay
  split
  · exact .wakeLink (.updStream hs)
  · exact .foldl (fun _ hs => .post (.bump hs)) (.idleFrom (.updStream hs))

theorem State.Canon.sendWaiting {a b : DieId} {m : Nat} (hs : s.Canon) : (s.sendWaiting a b m).Canon := by
  unfold State.sendWaiting
  extract_lets
  split
  · exact .sendAck (.kickAll (.ite (.replay hs) hs))
  · exact .kickAll (.ite (.replay hs) hs)

theorem State.Canon.downModules {a b : DieId} {cause : Nat} (hs : s.Canon) : (s.downModules a b cause).Canon :=
  .updStream (.updStream (.foldl (fun _ hs => .setLkst (.setLkst hs)) hs))

theorem State.Canon.toL0 {a b : DieId} {m : Nat} {deg : Bool} {half : Option Nat} (hs : s.Canon) :
    (s.toL0 a b m deg half).Canon :=
  .idleFrom (.ite (.bump (.setLkst (.ite (.bump (.setLkst hs)) (.setLkst hs))))
    (.setLkst (.ite (.bump (.setLkst hs)) (.setLkst hs))))

theorem State.Canon.enterL0 {a b : DieId} {m : Nat} {deg : Bool} {half : Option Nat} (hs : s.Canon) :
    (s.enterL0 a b m deg half).Canon :=
  .sendWaiting (.sendWaiting (.toL0 hs))

theorem Leaves.execErrorInterval (hs : s.Canon) : Leaves (execErrorInterval s) := by
  unfold Machine.execErrorInterval
  split <;> exact hs

theorem State.Canon.idle {d : DieId} {m low : Nat} (hs : s.Canon) : (s.idle d m low).Canon := by
  unfold State.idle
  split
  · exact hs
  · exact .ite (.setMod hs) hs

theorem Leaves.execL0nIdle (hs : s.Canon) : Leaves (execL0nIdle s) := by
  unfold Machine.execL0nIdle
  split
  · exact .idle hs
  · exact hs

theorem Leaves.execL1sIdle (hs : s.Canon) : Leaves (execL1sIdle s) := by
  unfold Machine.execL1sIdle
  split
  · exact .idle hs
  · exact hs

theorem Leaves.execWakeComplete (hs : s.Canon) : Leaves (execWakeComplete s) := by
  unfold Machine.execWakeComplete
  split
  · split
    · exact .ite (.enterL0 hs) hs
    · exact hs
  · exact hs

theorem Leaves.execTrain (hs : s.Canon) : Leaves (execTrain s) := by
  unfold Machine.execTrain
  split
  · split
    · exact .ite (.setMod hs) hs
    · exact hs
  · exact hs

theorem State.Canon.wakeRoute {l : List DieId} (hs : s.Canon) : (s.wakeRoute l).Canon := by
  induction l generalizing s with
  | nil => exact hs
  | cons a l ih =>
    cases l with
    | nil => exact hs
    | cons b l => exact ih (.wakeLink hs)

/-! ## Machine/OwnTables.lean -/

theorem State.Canon.mapSlot {die slot : Nat} {f : Region → Region} (hs : s.Canon) : (s.mapSlot die slot f).Canon := hs

theorem State.Canon.mapScratchSlot {blk slot : Nat} {f : Region → Region} (hs : s.Canon) :
    (s.mapScratchSlot blk slot f).Canon :=
  .updBlk hs

theorem State.Canon.setRegion {t : ThreadRef} {r : Nat} {g : Region} (hs : s.Canon) : (s.setRegion t r g).Canon := .updBlk hs

theorem State.Canon.tellGranted {e : DieEntry} {slot : Nat} (hs : s.Canon) : (s.tellGranted e slot).Canon := by
  unfold State.tellGranted
  split
  · exact .answer (.setRegion hs)
  · exact .setRegion (.begin hs)
  · exact hs

theorem State.Canon.tellRefused {die : Nat} {e : DieEntry} (hs : s.Canon) : (s.tellRefused die e).Canon := by
  unfold State.tellRefused
  split
  · refine .ite ?_ (.answer hs)
    split
    · exact .postFault (.answer hs)
    · exact .answer hs
  · exact .ringPut (.begin hs)
  · exact hs

theorem State.Canon.updLocal {core space : Nat} {f : KMap DieEntry → KMap DieEntry} (hs : s.Canon) :
    (s.updLocal core space f).Canon :=
  .ite (.updCd hs) (.updCore hs)

theorem State.Canon.localHold {core space ix : Nat} (hs : s.Canon) : (s.localHold core space ix).Canon := by
  unfold State.localHold
  split
  · exact hs
  · exact .tellGranted (.ite (.l1Drop (.updLocal hs)) (.updLocal hs))

theorem State.Canon.localGrants {core space : Nat} (hs : s.Canon) : (s.localGrants core space).Canon := by
  unfold State.localGrants
  refine .foldl (fun _ hs => ?_) hs
  split
  · exact .ite hs (.ite (.updLocal hs) (.localHold hs))
  · exact hs

theorem State.Canon.wakeArgs (hs : s.Canon) : s.wakeArgs.Canon := .ite (.post hs) hs

theorem State.Canon.entryFreed {die : Nat} (hs : s.Canon) : (s.entryFreed die).Canon := .wakeArgs (.ite hs (.post hs))

theorem State.Canon.localRelease {core space ix : Nat} {taint : Bool} (hs : s.Canon) :
    (s.localRelease core space ix taint).Canon :=
  .ite (.entryFreed (.localGrants (.updLocal hs))) (.localGrants (.updLocal hs))

theorem State.Canon.localPending {core space : Nat} {e : DieEntry} (hs : s.Canon) : (s.localPending core space e).Canon :=
  .ite (.foldl (fun _ hs => .ite (.mapSlot (.updLocal hs)) (.mapScratchSlot (.updLocal hs))) hs) hs

theorem State.Canon.localNotice {core space ix : Nat} (hs : s.Canon) : (s.localNotice core space ix).Canon := by
  unfold State.localNotice
  split
  · exact .ite (.ite (.mapSlot (.updLocal hs)) (.mapScratchSlot (.updLocal hs))) hs
  · exact hs

theorem State.Canon.setRoom {core space : Nat} {f : List ThreadRef → List ThreadRef} (hs : s.Canon) :
    (s.setRoom core space f).Canon :=
  .ite (.updCore hs) (.updCd hs)

theorem State.Canon.waitRoom {core space : Nat} {t : ThreadRef} (hs : s.Canon) : (s.waitRoom core space t).Canon :=
  .setRoom hs

theorem State.Canon.leaveRoom {core space : Nat} {t : ThreadRef} (hs : s.Canon) : (s.leaveRoom core space t).Canon :=
  .setRoom hs

theorem State.Canon.newId {d : DieId} (hs : s.Canon) : (s.newId d).2.Canon := hs

theorem State.Canon.toHome {die : Nat} {p : Piece} {typ flags kind dieIx window : Nat} (hs : s.Canon) :
    (s.toHome die p typ flags kind dieIx window).Canon :=
  .sendOrTake (.newId hs)

theorem State.Canon.noteWrite {home base lenm1 window : Nat} (hs : s.Canon) : (s.noteWrite home base lenm1 window).Canon :=
  .updMd hs

theorem State.Canon.toDie {home : Nat} {e : HomeEntry} {typ flags status ix : Nat} (hs : s.Canon) :
    (s.toDie home e typ flags status ix).Canon :=
  .ite (.sendOrTake (.newId hs)) (.sendFrame (.newId hs))

theorem State.Canon.updHome {home : Nat} {f : KMap HomeEntry → KMap HomeEntry} (hs : s.Canon) : (s.updHome home f).Canon :=
  .updMd hs

theorem State.Canon.homeNotice {home ix kind : Nat} (hs : s.Canon) : (s.homeNotice home ix kind).Canon := by
  unfold State.homeNotice
  split
  · exact hs
  · exact .ite (.toDie (.ite (.updHome hs) hs)) (.ite (.updHome hs) hs)

theorem State.Canon.homePending {home kind base lenm1 : Nat} (hs : s.Canon) : (s.homePending home kind base lenm1).Canon :=
  .foldl (fun _ hs => .homeNotice hs) hs

theorem State.Canon.homeWanted {home ix : Nat} {e : HomeEntry} (hs : s.Canon) : (s.homeWanted home ix e).Canon :=
  .ite (.homeNotice hs) (.ite (.homeNotice hs) hs)

theorem State.Canon.homeGrant {home ix : Nat} {e : HomeEntry} (hs : s.Canon) : (s.homeGrant home ix e).Canon :=
  .homeWanted (.toDie (.updHome hs))

theorem State.Canon.homeReq {home : Nat} {m : EopMsg} (hs : s.Canon) : (s.homeReq home m).Canon := by
  unfold State.homeReq
  dsimp only
  refine .ite (.toDie hs) ?_
  split
  · exact .ite (.toDie hs) (.updMd hs)
  · exact .ite (.homeGrant hs) (.ite (.toDie hs) (.homePending (.updHome hs)))

theorem State.Canon.homeGrantAll {home : Nat} (hs : s.Canon) : (s.homeGrantAll home).Canon := by
  unfold State.homeGrantAll
  refine .foldl (fun _ hs => ?_) hs
  extract_lets
  split
  · exact hs
  · exact .ite hs (.homeGrant hs)

theorem State.Canon.homeMark {home : Nat} {m : EopMsg} (hs : s.Canon) : (s.homeMark home m).Canon := by
  unfold State.homeMark
  split
  · exact hs
  · exact .homeGrantAll (.updHome (.noteWrite hs))

theorem State.Canon.homeGrants {home : Nat} (hs : s.Canon) : (s.homeGrants home).Canon := by
  unfold State.homeGrants
  refine .foldl (fun _ hs => ?_) (.homeGrantAll hs)
  split
  · exact hs
  · exact .ite hs (.ite (.homeMark (.updMd hs)) (.homeReq (.updMd hs)))

theorem State.Canon.homeFree {home ix : Nat} (hs : s.Canon) : (s.homeFree home ix).Canon := .homeGrants (.updHome hs)

theorem State.Canon.homeReclaim {home : Nat} {m : EopMsg} (hs : s.Canon) : (s.homeReclaim home m).Canon :=
  .ite hs (.ite (.homeFree hs) (.ite (.updMd hs) (.homeMark hs)))

theorem State.Canon.homeConvert {home : Nat} {m : EopMsg} (hs : s.Canon) : (s.homeConvert home m).Canon := by
  unfold State.homeConvert
  extract_lets
  split
  · exact hs
  · exact .ite (.toDie hs) (.ite hs (.ite (.homeGrants (.homeWanted (.noteWrite (.toDie (.updHome hs)))))
      (.ite (.toDie (.updHome hs)) (.toDie hs))))

theorem State.Canon.updEntry {die ix : Nat} {f : DieEntry → DieEntry} (hs : s.Canon) : (s.updEntry die ix f).Canon :=
  .updCd hs

theorem State.Canon.freeEntry {die ix : Nat} (hs : s.Canon) : (s.freeEntry die ix).Canon := .entryFreed (.updCd hs)

theorem State.Canon.requestNext {die ix : Nat} (hs : s.Canon) : (s.requestNext die ix).Canon := by
  unfold State.requestNext
  split
  · exact hs
  split
  · exact .toHome hs
  · exact hs

theorem State.Canon.returnPieces {die ix : Nat} {dirty : Bool} (hs : s.Canon) : (s.returnPieces die ix dirty).Canon := by
  unfold State.returnPieces
  split
  · exact hs
  · exact .ite (.tellRefused (.freeEntry (.updEntry hs))) (.foldl (fun _ hs => .toHome hs) (.updEntry hs))

theorem State.Canon.grantCaches {die ix : Nat} {e : DieEntry} (hs : s.Canon) : (s.grantCaches die ix e).Canon :=
  .foldl (fun _ hs => .l2Walk hs) (.l1Drop hs)

theorem State.Canon.askGlobal {die : Nat} {e : DieEntry} {t : ThreadRef} (hs : s.Canon) : (s.askGlobal die e t).2.Canon := by
  unfold State.askGlobal
  split
  · dsimp only
    split
    · exact .updEntry hs
    · exact hs
    split <;> exact hs
  split
  next u he =>
    have hu : u.Canon := .of_snd (.takeFree hs) he
    dsimp only
    split
    · exact .updEntry hs
    · exact hs
    split
    · exact hs
    split
    · exact hu
    · exact .requestNext (.updCd hu)

theorem State.Canon.releaseSlot {die ix : Nat} {user : EntryUser} {dirty : Bool} (hs : s.Canon) :
    (s.releaseSlot die ix user dirty).Canon := by
  unfold State.releaseSlot
  split
  · exact hs
  · exact .ite (.localRelease hs) (.ite hs (.ite (.foldl (fun _ hs => .toHome hs) (.updEntry hs))
      (.returnPieces (.updEntry hs))))

theorem State.Canon.returnCaches {core ix : Nat} {g : Region} (hs : s.Canon) : (s.returnCaches core ix g).Canon := by
  unfold State.returnCaches
  refine .ite hs (.ite ?_ hs)
  refine .ite ?_ (.l1Flush hs)
  split
  · exact .foldl (fun _ hs => .l2Walk hs) (.l1Flush hs)
  · exact .l1Flush hs

theorem State.Canon.dieLost {die : Nat} {behind : State → Piece → Bool} (hs : s.Canon) : (s.dieLost die behind).Canon := by
  unfold State.dieLost
  refine .foldl (fun _ hs => ?_) hs
  split
  · exact hs
  refine .ite hs ?_
  split
  · exact .wakeArgs (.ite (.mapSlot (.addCdReg (.updEntry hs))) (.tellRefused (.mapSlot (.addCdReg (.updEntry hs)))))
  · exact .returnPieces (.updEntry hs)
  · exact .ite (.returnPieces (.updEntry hs)) (.ite (.tellRefused (.freeEntry (.updEntry hs))) (.updEntry hs))
  · exact .ite (.returnPieces (.updEntry hs)) (.ite (.tellRefused (.freeEntry (.updEntry hs))) (.updEntry hs))
  · exact hs

theorem State.Canon.homeLost {home : Nat} {gone : HomeEntry → Bool} (hs : s.Canon) : (s.homeLost home gone).Canon :=
  .ite hs (.homeGrants (.foldl (fun _ hs => .toDie (.updHome hs)) (.updHome hs)))

theorem State.Canon.lostEvents {s' : State} {a b : DieId} (hs' : s'.Canon) : (s.lostEvents s' a b).Canon := by
  unfold State.lostEvents
  refine .foldl (fun _ hs => ?_) hs'
  split
  · exact hs
  · exact .emit hs

theorem State.Canon.cutRequest {r : Request} {engine : Nat} (hs : s.Canon) : (s.cutRequest r engine).Canon := by
  unfold State.cutRequest
  extract_lets
  split
  · exact .ite (.postFault (.post hs)) (.post hs)
  · exact .ite (.postFault (.answer hs)) (.answer hs)

theorem State.Canon.cutLoads {gone : Nat → Nat → Bool} {engine : Nat → Nat → Nat} (hs : s.Canon) :
    (s.cutLoads gone engine).Canon := by
  unfold State.cutLoads
  refine .foldl (fun _ hs => ?_) hs
  split
  · split
    · dsimp only
      split
      · exact hs
      · exact .postFault hs
    · exact hs
  · exact hs

theorem State.Canon.declareDown {s0 : State} {a b : DieId} {cause : Nat} (hs : s0.Canon) :
    (s0.declareDown a b cause).Canon :=
  .foldl (fun _ hs => .ringPut hs) (.cutLoads (.foldl (fun _ hs => .cutRequest hs)
    (.lostEvents (.foldl (fun _ hs => .homeLost hs) (.foldl (fun _ hs => .dieLost hs) (.downModules hs))))))

/-! ## Machine/OwnSteps.lean -/

theorem Leaves.execReq (hs : s.Canon) : Leaves (execReq s) := by
  unfold Machine.execReq
  split
  · exact State.Canon.ite (.homeConvert hs) (.homeReq hs)
  · exact hs

theorem State.Canon.grantDone {die ix : Nat} (hs : s.Canon) : (s.grantDone die ix).Canon := by
  unfold State.grantDone
  split
  · exact hs
  · exact .ite (.wakeArgs (.tellGranted (.grantCaches (.updEntry hs))))
      (.post (.wakeArgs (.tellGranted (.grantCaches (.updEntry hs)))))

theorem State.Canon.converted {die ix : Nat} {e : DieEntry} {kind : Option Nat} {status : Nat} (hs : s.Canon) :
    (s.converted die ix e kind status).Canon := by
  unfold State.converted
  extract_lets
  split
  · split
    · exact .wakeArgs (.answer (.mapSlot (.updEntry (.updEntry hs))))
    · exact .wakeArgs (.answer (.updEntry hs))
  · exact .updEntry hs

theorem State.Canon.convertPiece {die ix : Nat} {e : DieEntry} {status : Nat} (hs : s.Canon) :
    (s.convertPiece die ix e status).Canon := by
  unfold State.convertPiece
  extract_lets +onlyGivenNames ask
  have hask {s : State} (hs : s.Canon) (p : Option Piece) (kind : Nat) : (ask s p kind).Canon := by
    unfold ask
    split
    · exact .toHome hs
    · exact hs
  split
  · exact hs
  extract_lets +onlyGivenNames undo
  have hundo (n st : Nat) : (undo n st).Canon := hask (.updEntry hs) _ _
  exact .ite (.ite (.converted hs) (hundo _ _)) (.ite (hundo _ _)
    (.ite (hask (.updEntry hs) _ _) (.ite (.converted (.updEntry hs)) (.converted (.updEntry hs)))))

theorem Leaves.execGrant (hs : s.Canon) : Leaves (execGrant s) := by
  unfold Machine.execGrant
  split
  · extract_lets
    split
    · exact State.Canon.ite (.addCdReg (.ite (.addCdReg hs) hs)) (.ite (.addCdReg hs) hs)
    split
    · exact .ite (State.Canon.ite (.grantDone (.updEntry (.ite (.addCdReg (.ite (.addCdReg hs) hs))
        (.ite (.addCdReg hs) hs)))) (.requestNext (.updEntry (.ite (.addCdReg (.ite (.addCdReg hs) hs))
          (.ite (.addCdReg hs) hs))))) (.returnPieces (.updEntry
            (.ite (.addCdReg (.ite (.addCdReg hs) hs)) (.ite (.addCdReg hs) hs))))
    · exact .ite (.returnPieces (.updEntry (.ite (.addCdReg (.ite (.addCdReg hs) hs)) (.ite (.addCdReg hs) hs))))
        (.returnPieces (.ite (.addCdReg (.ite (.addCdReg hs) hs)) (.ite (.addCdReg hs) hs)))
    · exact State.Canon.ite (.ite (.addCdReg (.ite (.addCdReg hs) hs)) (.ite (.addCdReg hs) hs))
        (.convertPiece (.ite (.addCdReg (.ite (.addCdReg hs) hs)) (.ite (.addCdReg hs) hs)))
    · exact State.Canon.ite (.addCdReg (.ite (.addCdReg hs) hs)) (.ite (.addCdReg hs) hs)
  · exact hs

theorem Leaves.execReturnMessage (hs : s.Canon) : Leaves (execReturnMessage s) := by
  unfold Machine.execReturnMessage
  split
  · split
    · exact hs
    · exact .homeFree (.ite (.noteWrite (.toDie hs)) (.toDie hs))
  · exact hs

theorem Leaves.execCount (hs : s.Canon) : Leaves (execCount s) := by
  unfold Machine.execCount
  split
  · exact .updHome hs
  · exact hs

theorem Leaves.execPending (hs : s.Canon) : Leaves (execPending s) := by
  unfold Machine.execPending
  split
  · split
    · exact hs
    · exact .ite (State.Canon.ite (.l1Flush (.ite (.mapSlot (.updEntry hs)) hs)) (.ite (.mapSlot (.updEntry hs)) hs)) hs
  · exact hs

theorem Leaves.execReclaim (hs : s.Canon) : Leaves (execReclaim s) := by
  unfold Machine.execReclaim
  split
  · exact .ite (.homeGrants (.updHome hs)) (.homeReclaim hs)
  · exact hs

theorem Leaves.execLost (hs : s.Canon) : Leaves (execLost s) := by
  unfold Machine.execLost
  split
  · split
    · exact .ite (.returnPieces (.updEntry hs)) hs
    · exact hs
  · exact hs

theorem Leaves.execRetack (hs : s.Canon) : Leaves (execRetack s) := by
  unfold Machine.execRetack
  split
  · split
    · exact .ite (.ite (.tellRefused (.freeEntry hs)) (.updEntry hs)) hs
    · exact hs
  · exact hs

theorem Leaves.execEopDiscard (hs : s.Canon) : Leaves (execEopDiscard s) := by
  unfold Machine.execEopDiscard
  split
  · exact .bump hs
  · exact hs

theorem Leaves.execCleanAfterRelease (hs : s.Canon) : Leaves (execCleanAfterRelease s) := by
  unfold Machine.execCleanAfterRelease
  split
  · split
    · exact .ite (.updEntry hs) (.post hs)
    · exact hs
  · exact hs

theorem State.Canon.hostClear {m : Nat} {v : DWord} (hs : s.Canon) : (s.hostClear m v).Canon := .ite (.homeFree hs) hs

theorem Leaves.execHclr (hs : s.Canon) : Leaves (execHclr s) := by
  unfold Machine.execHclr
  split
  · exact .hostClear hs
  · exact hs

theorem State.Canon.linkFault {a b : DieId} {m kind : Nat} (hs : s.Canon) : (s.linkFault a b m kind).Canon :=
  .ite (.ite (.declareDown hs) (.ite (.bump (.bump (.setMod hs))) (.declareDown hs))) hs

theorem State.Canon.countCrc {h : Hop} (hs : s.Canon) : (s.countCrc h).Canon := .ite (.linkFault hs) hs

theorem State.Canon.nak {h : Hop} {f : Flit} (hs : s.Canon) : (s.nak h f).Canon := .sendAck (.updStream hs)

theorem State.Canon.ackFull {h : Hop} (hs : s.Canon) : (s.ackFull h).Canon := .ite (.sendAck hs) hs

theorem State.Canon.oldFlit {h : Hop} {f : Flit} (hs : s.Canon) : (s.oldFlit h f).Canon :=
  .ite (.foldl (fun _ hs => .deliver hs) (.updStream hs)) hs

theorem Leaves.execFlitReceive (hs : s.Canon) : Leaves (execFlitReceive s) := by
  unfold Machine.execFlitReceive
  split
  · exact .ite hs (.ite (State.Canon.ite (.nak (.ite (.linkFault (.countCrc hs)) (.countCrc hs)))
      (.ite (.linkFault (.countCrc hs)) (.countCrc hs))) (.ite (.oldFlit hs)
        (.ite (State.Canon.ite (.replay (.takeAck hs)) (.takeAck hs))
          (.ite (.ackFull (.drainEarly (.foldl (fun _ hs => .deliver hs)
            (.updStream (.ite (.replay (.takeAck hs)) (.takeAck hs))))))
              (.ite (.updStream (.ite (.replay (.takeAck hs)) (.takeAck hs)))
                (State.Canon.ite (.replay (.takeAck hs)) (.takeAck hs)))))))
  · exact hs

theorem Leaves.execAckOnlyFlit (hs : s.Canon) : Leaves (execAckOnlyFlit s) := by
  unfold Machine.execAckOnlyFlit
  split
  · exact .ite hs (.ite (.countCrc hs) (.ite hs (State.Canon.ite (.replay (.takeAck hs)) (.takeAck hs))))
  · exact hs

theorem Leaves.execTrainingEnd (hs : s.Canon) : Leaves (execTrainingEnd s) := by
  unfold Machine.execTrainingEnd
  split
  · split
    · exact .ite hs (.ite (.enterL0 hs) (.ite (.enterL0 hs) (.declareDown hs)))
    · exact hs
  · exact hs

theorem State.Canon.resync {a b : DieId} (hs : s.Canon) : (s.resync a b).Canon := .updStream hs

theorem Leaves.execRetrainEnd (hs : s.Canon) : Leaves (execRetrainEnd s) := by
  unfold Machine.execRetrainEnd
  split
  · split
    · exact .ite hs (.ite (.enterL0 (.resync (.resync hs))) (.declareDown hs))
    · exact hs
  · exact hs

theorem Leaves.execWakeTimeout (hs : s.Canon) : Leaves (execWakeTimeout s) := by
  unfold Machine.execWakeTimeout
  split
  · split
    · exact State.Canon.ite (.declareDown hs) hs
    · exact hs
  · exact hs

theorem Leaves.execUnresponsiveTimeout (hs : s.Canon) : Leaves (execUnresponsiveTimeout s) := by
  unfold Machine.execUnresponsiveTimeout
  split
  · split
    · exact State.Canon.ite (.declareDown hs) hs
    · exact hs
  · exact hs

theorem Leaves.execTakeDown (hs : s.Canon) : Leaves (execTakeDown s) := by
  unfold Machine.execTakeDown
  split
  · split
    · exact State.Canon.ite (.declareDown hs) hs
    · exact hs
  · exact hs

theorem State.Canon.portDown {s0 : State} {port : Nat} (hs : s0.Canon) : (s0.portDown port).Canon :=
  .ringPut (.cutLoads (.foldl (fun _ hs => .cutRequest hs) (.lostEvents
    (.foldl (fun _ hs => .homeLost hs) (.foldl (fun _ hs => .dieLost hs) (.updMd hs))))))

theorem State.Canon.resendFrames {port : Nat} (hs : s.Canon) : (s.resendFrames port).Canon :=
  .ite (.portDown hs) (.foldl (fun _ hs => .emit (.bump hs)) (.updMd hs))

theorem Leaves.execReplayTimeout (hs : s.Canon) : Leaves (execReplayTimeout s) := by
  unfold Machine.execReplayTimeout
  split
  · split
    · exact State.Canon.ite hs (.resendFrames hs)
    · exact State.Canon.ite hs (.replay hs)
  · exact hs

theorem State.Canon.sendFrameAck {port dst : Nat} {nak : Bool} (hs : s.Canon) : (s.sendFrameAck port dst nak).Canon :=
  .emit (.updMd hs)

theorem State.Canon.takeFrame {port : Nat} {f : Frame} (hs : s.Canon) : (s.takeFrame port f).Canon :=
  .foldl (fun _ hs => .deliver hs) (.updMd (.ite (.bump hs) hs))

theorem State.Canon.drainFrames {port n : Nat} (hs : s.Canon) : (s.drainFrames port n).Canon := by
  induction n generalizing s with
  | zero => exact hs
  | succ n ih =>
    unfold State.drainFrames
    split
    · exact hs
    · exact ih (.takeFrame (.updMd hs))

theorem State.Canon.takeFrameAck {port : Nat} {ack : Option Nat} (hs : s.Canon) : (s.takeFrameAck port ack).Canon := by
  unfold State.takeFrameAck
  split
  · exact .drainPort (.updMd hs)
  · exact hs

theorem Leaves.execScaleUpFrame (hs : s.Canon) : Leaves (execScaleUpFrame s) := by
  unfold Machine.execScaleUpFrame
  split
  · exact .ite hs (.ite (.ite (.bump hs) (.sendFrameAck (.updMd (.bump hs))))
      (.ite (State.Canon.ite (.resendFrames (.takeFrameAck hs)) (.takeFrameAck hs))
        (.ite (State.Canon.ite (.sendFrameAck (.drainFrames (.takeFrame
          (.updMd (.ite (.resendFrames (.takeFrameAck hs)) (.takeFrameAck hs))))))
            (.drainFrames (.takeFrame (.updMd (.ite (.resendFrames (.takeFrameAck hs)) (.takeFrameAck hs))))))
              (.ite (.updMd (.ite (.resendFrames (.takeFrameAck hs)) (.takeFrameAck hs)))
                (State.Canon.ite (.resendFrames (.takeFrameAck hs)) (.takeFrameAck hs))))))
  · exact hs

theorem Leaves.execAckTimer (hs : s.Canon) : Leaves (execAckTimer s) := by
  unfold Machine.execAckTimer
  split
  · split
    · exact State.Canon.ite (.sendFrameAck hs) hs
    · exact State.Canon.ite hs (.sendAck hs)
  · exact hs

/-! ## Machine/Regions.lean -/

theorem State.Canon.returnBorrow {b : Block} {g : Region} {user : EntryUser} (hs : s.Canon) :
    (s.returnBorrow b g user).Canon :=
  .ite hs (.ite (.localRelease hs) (.releaseSlot (.returnCaches hs)))

theorem State.Canon.countBack {blk : Nat} {g : Region} (hs : s.Canon) : (s.countBack blk g).2.Canon := by
  unfold State.countBack
  split
  · exact hs
  · exact .ite_snd (.ite_snd (.updBlk hs) (.updBlk hs)) (.ite_snd (.updBlk hs) hs)

theorem State.Canon.dropRegister {blk warp r n : Nat} (hs : s.Canon) : (s.dropRegister blk warp r n).Canon := by
  induction n generalizing s warp r with
  | zero => exact hs
  | succ n ih =>
    unfold State.dropRegister
    split
    · exact hs
    refine .ite hs (.ite ?_ (.returnBorrow (.updBlk hs)))
    split
    next he => exact ih (.of_snd (.countBack (.updBlk hs)) he)
    next he => exact .of_snd (.countBack (.updBlk hs)) he

theorem State.Canon.giveBack {blk : Nat} {g : Region} (hs : s.Canon) : (s.giveBack blk g).Canon := by
  unfold State.giveBack
  split
  next he => exact .dropRegister (.of_snd (.countBack hs) he)
  next he => exact .of_snd (.countBack hs) he

theorem State.Canon.dropRegions {blk warp : Nat} (hs : s.Canon) : (s.dropRegions blk warp).Canon := by
  unfold State.dropRegions
  split
  · exact hs
  · exact .foldl (fun _ hs => .dropRegister hs) (.updBlk hs)

/-! ## Machine/Barriers.lean -/

theorem State.Canon.pmcCount {core event n : Nat} (hs : s.Canon) : (s.pmcCount core event n).Canon := .ite (.updCore hs) hs

theorem State.Canon.updBar {bk : Nat} {b : Block} {lev n : Nat} {f : Barrier → Barrier} (hs : s.Canon) :
    (s.updBar bk b lev n f).Canon := by
  unfold State.updBar
  split
  · exact .updBlk hs
  · exact hs
  · exact hs
  · exact hs

theorem State.Canon.swapBanks {b : Block} (hs : s.Canon) : (s.swapBanks b).Canon := hs

theorem State.Canon.settle {bk : Nat} {b : Block} {lev n : Nat} (hs : s.Canon) : (s.settle bk b lev n).Canon := by
  unfold State.settle
  split
  · exact hs
  · exact .ite hs (.ite (.ite (.swapBanks (.updBar hs)) (.updBar hs)) hs)

theorem State.Canon.barEntry {bk : Nat} {b : Block} {n : Nat} (hs : s.Canon) : (s.barEntry bk b n).Canon := by
  unfold State.barEntry
  split
  · exact hs
  refine .ite (.updBlk hs) (.ite ?_ ?_)
  · refine .pmcCount (.addCdReg (.ite ?_ (.updBlk hs)))
    split
    · exact .updBlk (.updBlk hs)
    · exact .updBlk hs
  refine .ite ?_ (.updBlk hs)
  split
  · exact .updBlk (.updBlk hs)
  · exact .updBlk hs

theorem State.Canon.useBar {t : ThreadRef} {b : Block} {lev n : Nat} (hs : s.Canon) : (s.useBar t b lev n).Canon :=
  .ite (.barEntry hs) hs

theorem State.Canon.arrive {t : ThreadRef} {b : Block} {lev n : Nat} (hs : s.Canon) : (s.arrive t b lev n).2.Canon :=
  .settle (.updBar (.useBar hs))

theorem State.Canon.exitBars {bk : Nat} {b : Block} {front : Bool} (hs : s.Canon) : (s.exitBars bk b front).Canon :=
  .ite (.foldl (fun _ hs => .settle hs) (.foldl (fun _ hs => .settle hs)
    (.foldl (fun _ hs => .settle hs) (.foldl (fun _ hs => .settle hs) hs)))) (.foldl (fun _ hs => .settle hs) hs)

theorem State.Canon.breakBars {b : Block} (hs : s.Canon) : (s.breakBars b).Canon := hs

/-! ## Machine/Frame.lean -/

theorem State.Canon.keyWrite {k : Nat} {bs : List Byte} (hs : s.Canon) : (s.keyWrite k bs).Canon :=
  .ite (.sharedPut hs) (.homeWrite hs)

theorem State.Canon.outerBack {b : Block} (hs : s.Canon) : (s.outerBack b).Canon := .ite hs (.ite hs hs)

/-! ## Machine/Work.lean -/

theorem State.Canon.owePage {die : Nat} {d : CtxDesc} {ctx : BitVec 16} {va engine : Nat} {e : Event} (hs : s.Canon) :
    (s.owePage die d ctx va engine e).Canon :=
  .ite (.post hs) (.ringPut (.updCd hs))

theorem State.Canon.unitReads {die : Nat} {d : CtxDesc} {va n : Nat} (hs : s.Canon) : (s.unitReads die d va n).Canon := by
  unfold State.unitReads
  refine .foldl (fun _ hs => ?_) (.walkRange hs)
  split
  · exact .cacheLine (.touch hs)
  · exact hs

theorem State.Canon.unitReadsPa {die pa n : Nat} (hs : s.Canon) : (s.unitReadsPa die pa n).Canon := by
  unfold State.unitReadsPa
  refine .foldl (fun _ hs => ?_) hs
  split
  · exact .cacheLine (.touch hs)
  · exact hs

theorem State.Canon.updPool {ix : Nat} {f : Pool → Pool} (hs : s.Canon) : (s.updPool ix f).Canon := hs

theorem State.Canon.updTask {ix e : Nat} {f : Task → Task} (hs : s.Canon) : (s.updTask ix e f).Canon := .updPool hs

theorem State.Canon.poolPut {p : Pool} {off : Nat} {bs : List Byte} (hs : s.Canon) : (s.poolPut p off bs).Canon := by
  unfold State.poolPut
  split
  · exact .homeWrite hs
  · exact hs

theorem State.Canon.syncRows {ix : Nat} {es : List Nat} (hs : s.Canon) : (s.syncRows ix es).Canon := by
  unfold State.syncRows
  split
  · exact hs
  · exact .foldl (fun _ hs => .poolPut hs) (.poolPut hs)

theorem State.Canon.syncPool {ix e : Nat} (hs : s.Canon) : (s.syncPool ix e).Canon := .syncRows hs

theorem State.Canon.offerWork {ix : Nat} (hs : s.Canon) : (s.offerWork ix).Canon := by
  unfold State.offerWork
  split
  · exact hs
  · exact .postAll hs

theorem State.Canon.queueTask {ix e : Nat} (hs : s.Canon) : (s.queueTask ix e).Canon := by
  unfold State.queueTask
  split
  · exact hs
  extract_lets +onlyGivenNames owe empty link
  have hlink {s : State} (hs : s.Canon) (t : Tr) (rec_ v : Nat) : (link s t rec_ v).Canon := by
    unfold link
    split
    · exact .homeWrite hs
    · exact .ringPut hs
  split
  · exact .owePage hs
  · exact .owePage hs
  · exact .owePage hs
  · exact .owePage hs
  split
  next he =>
    have hu := State.Canon.of_snd (p := s.takeFresh) hs he
    extract_lets s₁ s₂ s₃ s₄
    have h₂ : s₂.Canon := hlink (.updTask hu) _ _ _
    have h₃ : s₃.Canon := .ite h₂ (hlink h₂ _ _ _)
    exact .offerWork (.syncPool (s := s₄) h₃)

theorem State.Canon.queueLate {ix : Nat} (hs : s.Canon) : (s.queueLate ix).Canon :=
  .foldl (fun _ hs => .queueTask hs) (.updPool hs)

theorem State.Canon.of_unlinkTask {ix : Nat} {p : Pool} {k : Task} {u : State} (hs : s.Canon)
    (he : s.unlinkTask ix p k = .ok u) : u.Canon := by
  unfold State.unlinkTask at he
  split at he
  · cases he
  · cases he
    exact hs
  · cases he
    exact hs
  · split at he
    · cases he
      exact .homeWrite hs
    · cases he
      exact hs
    · cases he

theorem State.Canon.updPark {k : Nat} {f : List (Nat × ObjOp × Waiter) → List (Nat × ObjOp × Waiter)} (hs : s.Canon) :
    (s.updPark k f).Canon :=
  .ite (.updCd hs) (.updMd hs)

theorem State.Canon.wakeAll {k : Nat} (hs : s.Canon) : (s.wakeAll k).Canon := .postAll (.updPark hs)

theorem State.Canon.fillFuture {k : Nat} {err : Bool} {value : DWord} (hs : s.Canon) : (s.fillFuture k err value).Canon :=
  .ite hs (.wakeAll (.keyWrite hs))

theorem State.Canon.succStep {die k : Nat} (hs : s.Canon) : (s.succStep die k).2.Canon := by
  unfold State.succStep
  dsimp only
  split
  · exact hs
  split
  · exact .keyWrite hs
  split
  · exact .ite_snd (.queueTask (.keyWrite hs)) (.keyWrite hs)
  · exact .keyWrite hs

theorem State.Canon.register {op : ObjOp} {k : Nat} {w : Waiter} {owner : Option Word} {setW : State → State}
    (hs : s.Canon) (hsetW : ∀ {a : State}, a.Canon → (setW a).Canon) : (s.register op k w owner setW).2.Canon :=
  .ite_snd (hsetW hs) (.ite_snd hs (.updPark (hsetW hs)))

theorem State.Canon.objectStep {op : ObjOp} {k : Nat} {args : List DWord} {w : Waiter} (hs : s.Canon) :
    (s.objectStep op k args w).2.Canon := by
  unfold State.objectStep
  split
  · exact .ite_snd hs (.register hs (fun hs => .keyWrite hs))
  · exact .fillFuture hs
  · exact .ite_snd (.keyWrite hs) hs
  · exact .keyWrite hs
  · exact .ite_snd (.keyWrite hs) (.ite_snd hs (.register hs (fun hs => .keyWrite hs)))
  · exact .ite_snd hs (.ite_snd hs (.wakeAll (.keyWrite hs)))
  · exact .ite_snd (.keyWrite hs) (.ite_snd hs (.register hs (fun hs => .keyWrite hs)))
  · exact .succStep hs

theorem State.Canon.pushStep {die k : Nat} {v : DWord} (hs : s.Canon) : (s.pushStep die k v).2.Canon :=
  .ite_snd hs (.ite_snd (.wakeAll (.keyWrite (.keyWrite (.keyWrite hs)))) (.keyWrite (.keyWrite hs)))

theorem State.Canon.clearSlots {bk : Nat} (hs : s.Canon) : (s.clearSlots bk).Canon := by
  unfold State.clearSlots
  split
  · exact hs
  · exact .foldl (fun _ hs => .framePut hs) hs

theorem State.Canon.giveB0 {bk : Nat} (hs : s.Canon) : (s.giveB0 bk).Canon := by
  unfold State.giveB0
  split
  · exact hs
  · exact .ite hs (.updBlk (.updCore (.takeFree hs)))

theorem State.Canon.packetGone {pk : Nat} {p : Packet} (hs : s.Canon) : (s.packetGone pk p).Canon :=
  .post (.post (.postAll hs))

theorem State.Canon.countDone {pk : Nat} (hs : s.Canon) : (s.countDone pk).Canon := by
  unfold State.countDone
  split
  · exact hs
  refine .ite (.packetGone hs) ?_
  split
  · exact .packetGone (.homeWrite (.homeWatch (.walkRange hs)))
  · exact .packetGone hs
  · exact .post (.postAll (.ite hs (.ringPut hs)))

theorem State.Canon.packetEnd {pk code where_ ndone : Nat} (hs : s.Canon) : (s.packetEnd pk code where_ ndone).Canon := by
  unfold State.packetEnd
  split
  · exact hs
  refine .countDone ?_
  split
  · exact .homeWrite hs
  · exact hs

theorem State.Canon.blockEnded {pk : Nat} {killed : Bool} (hs : s.Canon) : (s.blockEnded pk killed).Canon := by
  unfold State.blockEnded
  split
  · exact hs
  · exact .ite (.packetEnd hs) hs

theorem State.Canon.freeBlock {bk : Nat} (hs : s.Canon) : (s.freeBlock bk).Canon := by
  unfold State.freeBlock
  split <;> exact hs

theorem State.Canon.flushBlock {bk : Nat} (hs : s.Canon) : (s.flushBlock bk).Canon := by
  unfold State.flushBlock
  split
  · exact hs
  · exact .foldl (fun _ hs => .l1Flush hs) hs

theorem State.Canon.dropBlockLines {bk : Nat} (hs : s.Canon) : (s.dropBlockLines bk).Canon := by
  unfold State.dropBlockLines
  split
  · exact hs
  · exact .foldl (fun _ hs => .l1Drop hs) hs

theorem State.Canon.enterScratch {bk : Nat} (hs : s.Canon) : (s.enterScratch bk).Canon := by
  unfold State.enterScratch
  split
  · exact hs
  · exact .updBlk (.foldl_snd (fun _ hs => .ite_snd hs (.updCore (.takeFree hs))) hs)

theorem State.Canon.putPages {keys : List Nat} {bs : List Byte} (hs : s.Canon) : (s.putPages keys bs).Canon := by
  unfold State.putPages
  refine .foldl (fun _ hs => ?_) hs
  split
  · exact .putAll hs
  · exact hs

theorem State.Canon.clearHead {b : Block} (hs : s.Canon) : (s.clearHead b).Canon :=
  .foldl (fun _ hs => .ite hs (.framePut hs)) hs

theorem State.Canon.putHead {b : Block} {off : Nat} {bs : List Byte} (hs : s.Canon) : (s.putHead b off bs).Canon :=
  .foldl (fun _ hs => .framePut hs) hs

theorem Saved.Canon.readBack {bk : Nat} (hs : s.Canon) : (s.readBack bk).Canon := by
  unfold State.readBack
  split
  · exact hs
  extract_lets
  split
  · trivial
  · trivial
  · trivial
  · exact .outerBack (.updBlk hs)

theorem Saved.Canon.readFrames {l : List Nat} (hs : s.Canon) : (s.readFrames l).Canon := by
  induction l generalizing s with
  | nil => exact hs
  | cons bk l ih =>
    have hb : (s.readBack bk).Canon := .readBack hs
    unfold State.readFrames
    split
    next he => exact ih (.of_saved hb he)
    · exact hb

theorem State.Canon.rehome {bk core slot scr : Nat} {ix : Word} (hs : s.Canon) : (s.rehome bk core slot scr ix).Canon := by
  unfold State.rehome
  extract_lets
  split
  · exact .dropBlockLines (.enterScratch (.updCd (.updBlk hs)))
  · exact .postAll (.updCore (.dropBlockLines (.enterScratch (.updCd (.updBlk hs)))))

theorem State.Canon.markQueues {p : Pool} {ix : Nat} {placed : Bool} (hs : s.Canon) : (s.markQueues p ix placed).Canon := by
  unfold State.markQueues
  refine .foldl (fun _ hs => ?_) hs
  split
  · exact .ite (.keyWrite hs) hs
  · exact hs

theorem State.Canon.endPool {ix : Nat} (hs : s.Canon) : (s.endPool ix).Canon := by
  unfold State.endPool
  split
  · exact hs
  · exact .packetEnd (.markQueues hs)

theorem State.Canon.poolCheck {ix : Nat} (hs : s.Canon) : (s.poolCheck ix).Canon := .ite (.endPool hs) hs

theorem State.Canon.resumeBelow {b : Block} (hs : s.Canon) : (s.resumeBelow b).Canon := by
  unfold State.resumeBelow
  split
  · exact hs
  refine .ite hs ?_
  split
  next here u he =>
    have hu : u.Canon := by
      refine .of_snd (.ite_snd hs ?_) he
      split
      next v hv => exact .rehome (.of_saved (.readBack hs) hv)
      · exact hs
      · exact .startKill (.ringPut hs)
    split
    · exact .ite (.syncPool hu) (.offerWork (.syncPool hu))
    · exact hu

theorem State.Canon.taskGone {ix e : Nat} {killed : Bool} (hs : s.Canon) : (s.taskGone ix e killed).Canon :=
  .syncPool (.updPool hs)

theorem State.Canon.taskFinish {ix : Nat} {p : Pool} {e : Nat} {k : Task} {f u : EndKey} {ctx : BitVec 16} {value : DWord}
    {killed : Option Nat} (hs : s.Canon) : (s.taskFinish ix p e k f u ctx value killed).Canon := by
  unfold State.taskFinish
  refine .taskGone ?_
  split
  · refine .succStep ?_
    split
    · split <;> exact .fillFuture hs
    · exact .ringPut hs
    · exact hs
  · refine .ringPut ?_
    split
    · split <;> exact .fillFuture hs
    · exact .ringPut hs
    · exact hs
  split
  · split <;> exact .fillFuture hs
  · exact .ringPut hs
  · exact hs

theorem State.Canon.offerAll (hs : s.Canon) : s.offerAll.Canon := .foldl (fun _ hs => .offerWork hs) hs

theorem State.Canon.leaveSlot {bk : Nat} {b : Block} {ix : Nat} (hs : s.Canon) : (s.leaveSlot bk b ix).Canon :=
  .offerAll (.poolCheck (.resumeBelow (.freeBlock hs)))

theorem State.Canon.taskEnd {bk : Nat} {value : DWord} {killed : Option Nat} (hs : s.Canon) :
    (s.taskEnd bk value killed).Canon := by
  unfold State.taskEnd
  split
  · exact hs
  split
  · exact .offerAll (.resumeBelow (.freeBlock hs))
  split
  · exact .owePage hs
  · exact .ite (.post hs) (.leaveSlot (.taskFinish hs))

theorem State.Canon.killPool {ix : Nat} (hs : s.Canon) : (s.killPool ix).Canon := by
  unfold State.killPool
  split
  · exact hs
  refine .poolCheck (.foldl (fun _ hs => ?_) (.updPool hs))
  split
  · exact .ite (.startKill hs) (.taskGone hs)
  · exact .taskGone hs

theorem State.Canon.blockCheck {bk : Nat} (hs : s.Canon) : (s.blockCheck bk).Canon := by
  unfold State.blockCheck
  split
  · exact hs
  · exact .ite (.ite (.taskEnd hs) (.blockEnded (.freeBlock hs))) hs

/-! ## Machine/Path.lean -/

theorem State.Canon.pushEntry {t : ThreadRef} {e : StackEntry} (hs : s.Canon) : (s.pushEntry t e).Canon := by
  unfold State.pushEntry
  split
  · exact hs
  refine .updBlk ?_
  split
  · exact .framePut hs
  · exact hs

theorem State.Canon.popEntry {t : ThreadRef} {log : LogStack} (hs : s.Canon) : (s.popEntry t log).Canon := .updBlk hs

theorem State.Canon.orphanRecord {t : ThreadRef} (hs : s.Canon) : (s.orphanRecord t).Canon := by
  unfold State.orphanRecord
  split
  · exact .foldl (fun _ hs => .ringPut hs) (.updThread hs)
  · exact hs

theorem State.Canon.exitWarp {blk warp : Nat} (hs : s.Canon) : (s.exitWarp blk warp).Canon := by
  unfold State.exitWarp
  extract_lets
  split
  · exact .blockCheck (.exitBars (.dropRegions (.updBlk (.orphanRecord (.orphanRecord hs)))))
  · exact .dropRegions (.updBlk (.orphanRecord (.orphanRecord hs)))

theorem State.Canon.exitFront {blk : Nat} (hs : s.Canon) : (s.exitFront blk).Canon := by
  unfold State.exitFront
  extract_lets
  split
  · exact .blockCheck (.exitBars (.dropRegions (.updFront (.orphanRecord hs))))
  · exact .dropRegions (.updFront (.orphanRecord hs))

theorem State.Canon.mergeArms {blk warp : Nat} (hs : s.Canon) : (s.mergeArms blk warp).Canon := by
  unfold State.mergeArms
  split
  · exact hs
  refine .ite ?_ hs
  split
  · exact hs
  refine .ite (.exitWarp (.popEntry (.updBlk hs))) (.ite ?_ ?_)
  · refine .post (.updBlk ?_)
    split
    · exact .ringPut (.popEntry (.updBlk hs))
    · exact .popEntry (.updBlk hs)
  refine .updBlk ?_
  split
  · exact .ringPut (.popEntry (.updBlk hs))
  · exact .popEntry (.updBlk hs)

theorem State.Canon.endPath {t : ThreadRef} {n : Nat} (hs : s.Canon) : (s.endPath t n).Canon := by
  induction n generalizing s with
  | zero => exact hs
  | succ n ih =>
    unfold State.endPath
    split
    · dsimp only
      split
      · exact .ite (.exitWarp hs) (.mergeArms hs)
      split
      · refine .ite hs (.ite (ih hs) ?_)
        split
        · exact .ite (ih hs) hs
        · exact hs
      · refine .ite (ih hs) ?_
        split
        · exact .ite (ih hs) hs
        · exact hs
      · exact ih hs
      · exact ih hs
    · exact hs

theorem State.Canon.goTo {t : ThreadRef} {pc : BitVec 56} (hs : s.Canon) : (s.goTo t pc).Canon := by
  unfold State.goTo
  extract_lets
  split
  · exact .ite (.endPath (.updThread hs)) (.updThread hs)
  · exact .updThread hs

theorem State.Canon.exitThread {t : ThreadRef} (hs : s.Canon) : (s.exitThread t).Canon := by
  unfold State.exitThread
  refine .ite (.exitFront hs) ?_
  split
  · exact hs
  · exact .endPath (.updThread (.updWarp hs))

/-! ## Machine/Operands.lean -/

theorem State.Canon.mixLanes {old new : List DWord} (hs : s.Canon) : (mixLanes s old new).2.Canon := .takeFree hs

theorem State.Canon.mixReads {c : Ctx} {sp : Spec} (hs : s.Canon) : (Machine.mixReads s c sp).2.Canon := by
  refine .foldl_snd (fun _ hs => ?_) hs
  split <;> exact hs

theorem State.Canon.mixInto {mixed : RegId → Bool} {ws : List RegWrite} (hs : s.Canon) : (s.mixInto mixed ws).2.Canon :=
  .ite_snd (.takeFree hs) hs

theorem State.Canon.mixWrites {c : Ctx} {ws : List RegWrite} (hs : s.Canon) : (mixWrites s c ws).2.Canon :=
  .ite_snd hs (.mixInto (.updThread hs))

theorem State.Canon.retire {c : Ctx} {sp : Spec} {nx : Next} (hs : s.Canon) : (s.retire c sp nx).Canon := by
  unfold State.retire
  split
  · exact hs
  · exact .goTo (.updThread hs)
  · exact .goTo (.updThread hs)

theorem State.Canon.passWord {c : Ctx} {sp : Spec} (hs : s.Canon) : (s.passWord c sp).Canon := .retire hs

theorem State.Canon.refuseWith {c : Ctx} {r : FaultRec} (hs : s.Canon) : (s.refuseWith c r).Canon := by
  unfold State.refuseWith
  refine .takeTrap (.setHold ?_)
  split
  · exact .updBlk hs
  · exact hs

theorem State.Canon.refuse {c : Ctx} {code addr : Nat} {lanes : Word} (hs : s.Canon) : (s.refuse c code addr lanes).Canon :=
  .refuseWith hs

theorem State.Canon.popEntryOf {sp : Spec} {c : Ctx} {fresh : Bool} (hs : s.Canon) : (s.popEntryOf sp c fresh).Canon :=
  .ite (.updThread (.updBlk hs)) hs

theorem State.Canon.countIssue {c : Ctx} (hs : s.Canon) : (s.countIssue c).Canon := .pmcCount hs

theorem State.Canon.uncountIssue {c : Ctx} (hs : s.Canon) : (s.uncountIssue c).Canon := .pmcCount hs

theorem State.Canon.complete {sp : Spec} {c : Ctx} {fresh : Bool} {ws : List RegWrite} {nx : Next} (hs : s.Canon) :
    (s.complete sp c fresh ws nx).Canon :=
  .retire (.applyWrites (.mixWrites (.popEntryOf hs)))

theorem State.Canon.finish {s0 : State} {i : Instr} {sp : Spec} {c : Ctx} {fresh : Bool} {r : Res} (hs : s0.Canon)
    (hr : r.Canon) : (finish s0 i sp c fresh r).Canon := by
  unfold Machine.finish
  split
  · exact .refuse hs
  · exact .refuseWith (.ite (.uncountIssue hr) hr)
  · exact .updThread (.popEntryOf (.ite (.uncountIssue hr) hr))
  · exact .complete (.ite hr (.countIssue hr))

theorem Gate.Canon.gate {c : Ctx} {i : Instr} {sp : Spec} (hs : s.Canon) : (gate s c i sp).Canon := by
  unfold Machine.gate
  dsimp only
  split
  · trivial
  · exact .ite trivial (.ite trivial (.ite trivial (.ite (.ite trivial (State.Canon.mixReads hs)) hs)))

theorem Res.Canon.judged {c : Ctx} {r : Res} (hs : r.Canon) : (judged c r).Canon := by
  unfold Machine.judged
  split
  · trivial
  · exact hs
  · exact hs
  · exact hs
  trivial

theorem Leaves.issue {i : Instr} {sp : Spec} {body : Ctx → State → Res} (hs : s.Canon) (hbody : ∀ {s} c, s.Canon →
    (body c s).Canon) : Leaves (issue s i sp body) := by
  unfold Machine.issue
  split
  · trivial
  next c _ =>
    refine .ite (.finish hs (.ite (.judged (hbody c hs)) (hbody c hs))) ?_
    have hgate : (gate s c i sp).Canon := .gate hs
    split
    · exact .refuse hs
    · exact .passWord hs
    · exact .setHold hs
    next he =>
      rw [he] at hgate
      exact .finish hs (hbody _ (.countIssue hgate))
    · exact .finish hs (.judged (hbody _ (.countIssue hs)))

theorem Leaves.issueRegs {i : Instr} {sp : Spec} {f : Ctx → List RegWrite} (hs : s.Canon) : Leaves (issueRegs s i sp f) :=
  .issue hs (fun _ hs => hs)

theorem State.Canon.mixReturn {t : ThreadRef} {id : Nat} {ws : List RegWrite} (hs : s.Canon) :
    (s.mixReturn t id ws).2.Canon := by
  unfold State.mixReturn
  split
  · exact hs
  · exact .mixInto hs

/-! ## Machine/Flags.lean -/

theorem State.Canon.addFlags {t : ThreadRef} {fl : Nat} (hs : s.Canon) : (s.addFlags t fl).Canon := .ite hs (.updThread hs)

theorem State.Canon.setK {t : ThreadRef} {k : Nat} {act new : Word} (hs : s.Canon) : (s.setK t k act new).Canon :=
  .updWarp hs

/-! ## Machine/Sched.lean -/

theorem State.Canon.stampReady (hs : s.Canon) : s.stampReady.Canon := hs

theorem State.Canon.passOver {l : List (ThreadRef × Block × Thread)} {t : ThreadRef} (hs : s.Canon) :
    (s.passOver l t).Canon :=
  .updThread (.foldl (fun _ hs => .ite hs (.updThread hs)) hs)

theorem State.Canon.of_choose {u : State} {t : ThreadRef} (hs : s.Canon) (he : s.choose = some (t, u)) : u.Canon := by
  unfold State.choose at he
  dsimp only at he
  split at he
  · cases he
  · obtain ⟨_, _, he⟩ := Option.map_eq_some_iff.1 he
    cases he
    exact .updCore (.passOver hs)
  · obtain ⟨_, _, he⟩ := Option.map_eq_some_iff.1 he
    cases he
    exact .updCore (.passOver hs)

theorem State.Canon.fetchRead {b : Block} {th : Thread} (hs : s.Canon) : (s.fetchRead b th).Canon := by
  unfold State.fetchRead
  extract_lets
  split
  · exact .cacheLine (.touch (.walkRange hs))
  · exact .walkRange hs

theorem State.Canon.fetchFault {t : ThreadRef} {b : Block} {th : Thread} (hs : s.Canon) : (s.fetchFault t b th).Canon :=
  .setHold (.ringPut hs)

theorem State.Canon.fetchRefused {t : ThreadRef} {th : Thread} (hs : s.Canon) : (s.fetchRefused t th).Canon := .takeTrap hs

theorem State.Canon.countClocks (hs : s.Canon) : s.countClocks.Canon :=
  .foldl (fun _ hs => .ite (.pmcCount (.ite (.pmcCount (.pmcCount hs)) (.pmcCount hs)))
    (.ite (.pmcCount (.pmcCount hs)) (.pmcCount hs))) hs

theorem State.Canon.timedSteps {t u : Nat} (hs : s.Canon) : (s.timedSteps t u).Canon :=
  .ite (.post (.postAll (.ite (.postAll (.ite (.postAll hs) hs)) (.ite (.postAll hs) hs))))
    (.postAll (.ite (.postAll (.ite (.postAll hs) hs)) (.ite (.postAll hs) hs)))

theorem State.Canon.advanceTime {n : Nat} (hs : s.Canon) : (s.advanceTime n).Canon := .timedSteps (.setPkg hs)

theorem State.Canon.runTime (hs : s.Canon) : s.runTime.Canon := .advanceTime (.setPkg hs)

theorem State.Canon.tick (hs : s.Canon) : s.tick.Canon :=
  .ite (.runTime (.stampReady (.countClocks hs))) (.stampReady (.countClocks hs))

/-! ## Machine/MaskOps.lean -/

theorem Leaves.maskOp {i : Instr} {d a b : BitVec 3} {f : Word → Word → Word} (hs : s.Canon) :
    Leaves (maskOp i d a b f s) := by
  unfold Machine.maskOp
  exact .issue hs fun _ hs => .setK hs

theorem Leaves.execKand {d a b : BitVec 3} (hs : s.Canon) : Leaves (execKand d a b s) := by
  unfold Machine.execKand
  exact .maskOp hs

theorem Leaves.execKor {d a b : BitVec 3} (hs : s.Canon) : Leaves (execKor d a b s) := by
  unfold Machine.execKor
  exact .maskOp hs

theorem Leaves.execKxor {d a b : BitVec 3} (hs : s.Canon) : Leaves (execKxor d a b s) := by
  unfold Machine.execKxor
  exact .maskOp hs

theorem Leaves.execKandn {d a b : BitVec 3} (hs : s.Canon) : Leaves (execKandn d a b s) := by
  unfold Machine.execKandn
  exact .maskOp hs

theorem Leaves.execKnot {d a : BitVec 3} (hs : s.Canon) : Leaves (execKnot d a s) := by
  unfold Machine.execKnot
  exact .maskOp hs

theorem Leaves.execKmov {d a : BitVec 3} (hs : s.Canon) : Leaves (execKmov d a s) := by
  unfold Machine.execKmov
  exact .maskOp hs

theorem Leaves.execKset {d : BitVec 3} {a : BitVec 7} (hs : s.Canon) : Leaves (execKset d a s) := by
  unfold Machine.execKset
  exact .issue hs fun _ hs => .setK hs

theorem Leaves.execKrest {a : BitVec 7} (hs : s.Canon) : Leaves (execKrest a s) := by
  unfold Machine.execKrest
  exact .issue hs fun _ hs => .foldl (fun _ hs => .setK hs) hs

theorem Leaves.execExmset {a : BitVec 7} (hs : s.Canon) : Leaves (execExmset a s) := by
  unfold Machine.execExmset
  exact .issue hs fun _ hs => .ite trivial (.updThread hs)

/-! ## Machine/FlowOps.lean -/

theorem State.Canon.cleared {t : ThreadRef} (hs : s.Canon) : (s.cleared t).Canon := .updThread hs

theorem Res.Canon.releasing {c : Ctx} {r : Res} (hs : s.Canon) (hr : r.Canon) : (releasing c s r).Canon := .ite hr hs

theorem Leaves.execBra {off : BitVec 25} (hs : s.Canon) : Leaves (execBra off s) := by
  unfold Machine.execBra
  exact .issue hs fun _ hs => hs

theorem Leaves.execBru {d : BitVec 7} {cond : BitVec 2} {off : BitVec 16} (hs : s.Canon) : Leaves (execBru d cond off s) :=
    by
  unfold Machine.execBru
  exact .issue hs fun _ hs => hs

theorem Leaves.execCall {off : BitVec 25} (hs : s.Canon) : Leaves (execCall off s) := by
  unfold Machine.execCall
  exact .issue hs fun _ hs => .ite (.pushEntry hs) trivial

theorem Leaves.execRet (hs : s.Canon) : Leaves (execRet s) := by
  unfold Machine.execRet
  refine .issue hs fun _ hs => ?_
  split
  · exact .ite (State.Canon.ite (.popEntry hs) (.updThread (.popEntry hs))) trivial
  trivial

theorem Leaves.execJmpi {a : BitVec 7} (hs : s.Canon) : Leaves (execJmpi a s) := by
  unfold Machine.execJmpi
  exact .issue hs fun _ hs => .ite trivial hs

theorem Leaves.execNop (hs : s.Canon) : Leaves (execNop s) := by
  unfold Machine.execNop
  exact .issue hs fun _ hs => hs

theorem Res.Canon.diverge {c : Ctx} {t rest : Word} {tgt rpc : BitVec 56} (hs : s.Canon) :
    (diverge c s t rest tgt rpc).Canon :=
  .ite (.ite trivial (.goTo (.goTo (.updWarp (.cleared (.pushEntry hs))))))
    (.ite trivial (.goTo (.updThread (.cleared (.pushEntry (.pushEntry hs))))))

theorem Leaves.execBrd {k : BitVec 3} {rec_ tgt : BitVec 11} (hs : s.Canon) : Leaves (execBrd k rec_ tgt s) := by
  unfold Machine.execBrd
  exact .issue hs fun _ hs => .ite hs (.ite hs (.ite trivial (.diverge hs)))

theorem Leaves.execRcv (hs : s.Canon) : Leaves (execRcv s) := by
  unfold Machine.execRcv
  refine .issue hs fun _ hs => ?_
  split
  · exact .endPath (.cleared hs)
  trivial

theorem Leaves.execExit (hs : s.Canon) : Leaves (execExit s) := by
  unfold Machine.execExit
  refine .issue hs fun _ hs => ?_
  split
  · exact hs
  · exact .exitThread (.cleared hs)

theorem Leaves.execYield (hs : s.Canon) : Leaves (execYield s) := by
  unfold Machine.execYield
  exact .issue hs fun _ hs => .updThread (.goTo (.updThread hs))

/-! ## Machine/Launch.lean -/

theorem State.Canon.ringBell {die q : Nat} (hs : s.Canon) : (s.ringBell die q).Canon := by
  unfold State.ringBell
  split
  · exact hs
  · exact .ite hs (.post (.ite hs (.ite (.updCd hs) (.updCd hs))))

theorem State.Canon.trimActive {die : Nat} (hs : s.Canon) : (s.trimActive die).Canon := .updCd hs

theorem State.Canon.takePacket {die q : Nat} {d : QueueDesc} {pa : Nat} {bs : List Byte} {bad : Option Nat} (hs : s.Canon)
    : (s.takePacket die q d pa bs bad).Canon := by
  unfold State.takePacket
  refine .ite (.updCd (.keyWrite hs)) ?_
  split
  next u he =>
    have hu : u.Canon := .of_snd (.takeFresh (.updCd (.keyWrite hs))) he
    extract_lets
    split
    · exact .packetEnd (.ite (.walkRange (.walkRange (.unitReadsPa (.unitReadsPa (.unitReadsPa hu)))))
        (.unitReads (.walkRange (.walkRange (.unitReadsPa (.unitReadsPa (.unitReadsPa hu)))))))
    · exact .ite (.packetEnd (.ite (.walkRange (.walkRange (.unitReadsPa (.unitReadsPa (.unitReadsPa hu)))))
        (.unitReads (.walkRange (.walkRange (.unitReadsPa (.unitReadsPa (.unitReadsPa hu))))))))
          (.post (.takeFresh (.ite (.walkRange (.walkRange (.unitReadsPa (.unitReadsPa (.unitReadsPa hu)))))
            (.unitReads (.walkRange (.walkRange (.unitReadsPa (.unitReadsPa (.unitReadsPa hu)))))))))

theorem State.Canon.fetchPacket {die : Nat} (hs : s.Canon) : (s.fetchPacket die).Canon := by
  unfold State.fetchPacket
  refine .ite hs ?_
  extract_lets
  split
  · refine .post (.takePacket (.foldl (fun _ hs => ?_) (.trimActive hs)))
    split
    · exact .ringPut (.updCd hs)
    · exact hs
  refine .foldl (fun _ hs => ?_) (.trimActive hs)
  split
  · exact .ringPut (.updCd hs)
  · exact hs

theorem Leaves.execPacketFetch (hs : s.Canon) : Leaves (execPacketFetch s) := by
  unfold Machine.execPacketFetch
  split
  · exact .fetchPacket hs
  · exact hs

theorem Leaves.execDependencePoll (hs : s.Canon) : Leaves (execDependencePoll s) := by
  unfold Machine.execDependencePoll
  split
  · exact State.Canon.ite hs (.fetchPacket hs)
  · exact hs

theorem Leaves.execLqbell (hs : s.Canon) : Leaves (execLqbell s) := by
  unfold Machine.execLqbell
  split
  · exact .ringBell hs
  · exact hs

theorem State.Canon.pushPacket {die q pa : Nat} (hs : s.Canon) : (s.pushPacket die q pa).2.Canon := by
  unfold State.pushPacket
  split
  · exact hs
  split
  · exact hs
  split
  · exact hs
  split
  · exact hs
  · exact .ringBell (.keyWrite (.keyWrite hs))

/-! ## Machine/BorrowOps.lean -/

theorem Res.Canon.borrowLocal {c : Ctx} {d : BitVec 5} {b : BitVec 7} {kind space base len : Nat} {tr : Bool}
    (hs : s.Canon) : (borrowLocal c s d b kind space base len tr).Canon := by
  unfold Machine.borrowLocal
  extract_lets
  split
  next u he =>
    have hu : u.Canon := .of_snd (.takeFresh hs) he
    split
    next u he =>
      have hu : u.Canon := .of_snd (.takeFree hu) he
      split
      · exact .ite hu (.waitRoom hu)
      · exact .ite (.localHold (.updLocal (.leaveRoom hu))) (.ite (.leaveRoom hu)
          (.localPending (.updLocal (.leaveRoom hu))))

theorem State.Canon.unqueue {die : Nat} {t : ThreadRef} (hs : s.Canon) : (s.unqueue die t).Canon := .updCd (.leaveRoom hs)

theorem State.Canon.queueBehind {die o : Nat} {t : ThreadRef} (hs : s.Canon) : (s.queueBehind die o t).Canon :=
  .ite hs (.updCd (.unqueue hs))

theorem Res.Canon.borrowGlobal {c : Ctx} {d : BitVec 5} {b : BitVec 7} {kind base len : Nat} {tr : Bool} (hs : s.Canon) :
    (borrowGlobal c s d b kind base len tr).Canon := by
  unfold Machine.borrowGlobal
  extract_lets +onlyGivenNames die
  split
  · exact .ringPut hs
  · trivial
  extract_lets +onlyGivenNames ps
  refine .ite trivial (.ite (.countSeam hs) ?_)
  split
  next he =>
    have hu := State.Canon.of_snd (.takeFresh (.walkRange hs)) he
    extract_lets +onlyGivenNames e
    split
    next he => exact State.Canon.setRegion (.l1Drop (.unqueue (.of_snd (.askGlobal hu) he)))
    next he =>
      have hv := State.Canon.of_snd (.askGlobal hu) he
      exact .ite hv (State.Canon.queueBehind hv)
    next he =>
      have hv := State.Canon.of_snd (.askGlobal hu) he
      exact .ite hv (State.Canon.waitRoom hv)
    next he => exact State.Canon.unqueue (.of_snd (.askGlobal hu) he)

theorem Leaves.execBorrow {d : BitVec 5} {a b : BitVec 7} {tr : BitVec 1} {k : BitVec 2} (hs : s.Canon) :
    Leaves (execBorrow d a b tr k s) := by
  unfold Machine.execBorrow
  refine .issue hs fun _ hs => .ite hs ?_
  extract_lets
  split
  · trivial
  · exact .ite (.borrowGlobal hs) (.borrowLocal hs)

theorem State.Canon.askArgs {bk argBase argLen : Nat} (hs : s.Canon) : (s.askArgs bk argBase argLen).Canon := by
  unfold State.askArgs
  split
  · exact hs
  refine .ite (.updBlk (.begin hs)) ?_
  split
  · exact .updBlk (.ringPut hs)
  · exact .updBlk (.begin (.ringPut hs))
  refine .ite (.updBlk (.begin (.ringPut hs))) (.ite (.updBlk (.begin (.ringPut hs))) (.ite hs ?_))
  split
  next u he =>
    have hu : u.Canon := .of_snd (.takeFresh (.walkRange hs)) he
    extract_lets
    split
    next he => exact .updBlk (.begin (.updBlk (.l1Drop (.unqueue (.of_snd (.askGlobal hu) he)))))
    next he => exact .updBlk (.unqueue (.of_snd (.askGlobal hu) he))
    next he => exact .queueBehind (.of_snd (.askGlobal hu) he)
    next he => exact .waitRoom (.of_snd (.askGlobal hu) he)

theorem State.Canon.convert {die ix want : Nat} {t : ThreadRef} {r : Nat} (hs : s.Canon) :
    (s.convert die ix want t r).Canon := by
  unfold State.convert
  extract_lets
  split
  · exact .toHome (.updEntry hs)
  · exact .updEntry hs

theorem State.Canon.convertLocal {c : Ctx} {g : Region} {kind : Nat} (hs : s.Canon) : (s.convertLocal c g kind).Canon :=
  .localGrants (.localNotice (.ite (.mapSlot (.updLocal hs)) (.mapScratchSlot (.updLocal hs))))

theorem Leaves.execReborrowS {d : BitVec 5} {b : BitVec 7} (hs : s.Canon) : Leaves (execReborrowS d b s) := by
  unfold Machine.execReborrowS
  refine .issue hs fun _ hs => .ite hs ?_
  split
  · trivial
  · exact .ite hs (.ite hs (.ite hs (.ite (.convert (.returnCaches hs)) (.convertLocal (.returnCaches hs)))))

theorem Leaves.execReborrowE {d : BitVec 5} {b : BitVec 7} (hs : s.Canon) : Leaves (execReborrowE d b s) := by
  unfold Machine.execReborrowE
  refine .issue hs fun _ hs => .ite hs ?_
  split
  · trivial
  refine .ite hs (.ite ?_ (.ite (.convertLocal hs) hs))
  split
  · exact .ite hs (.convert hs)
  · exact hs

theorem State.Canon.handOut {c : Ctx} {d a : BitVec 5} {g : Region} {share : Bool} {kids : List (Nat × Nat × Nat)}
    (hs : s.Canon) : (s.handOut c d a g share kids).Canon :=
  .setRegion (.foldl (fun _ hs => .updBlk hs) hs)

theorem Leaves.execSplit {d a : BitVec 5} {b : BitVec 7} {eq : BitVec 1} {n : BitVec 3} (hs : s.Canon) :
    Leaves (execSplit d a b eq n s) := by
  unfold Machine.execSplit
  refine .issue hs fun _ hs => .ite trivial (.ite trivial (.ite trivial ?_))
  split
  · trivial
  · exact .ite hs (.handOut hs)

theorem Leaves.execShare {d a : BitVec 5} {b : BitVec 7} (hs : s.Canon) : Leaves (execShare d a b s) := by
  unfold Machine.execShare
  exact .issue hs fun _ hs => .ite trivial (.ite trivial (.ite trivial (.ite trivial (.ite hs (.handOut hs)))))

theorem Leaves.execGive {a : BitVec 5} (hs : s.Canon) : Leaves (execGive a s) := by
  unfold Machine.execGive
  exact .issue hs fun _ hs => .ite (.giveBack hs) (.ite trivial
    (.ite trivial (.ite trivial (.ite (.setRegion hs) (.giveBack (.setRegion hs))))))

theorem Leaves.execJoin {a : BitVec 5} (hs : s.Canon) : Leaves (execJoin a s) := by
  unfold Machine.execJoin
  exact .issue hs fun _ hs => .ite trivial (.ite hs (.ite (.setRegion hs) hs))

theorem Res.Canon.returnGo {c : Ctx} {g : Region} (hs : s.Canon) : (returnGo c s g).Canon :=
  .ite (.returnBorrow hs) (.returnBorrow hs)

theorem Leaves.execReturnR {a : BitVec 5} (hs : s.Canon) : Leaves (execReturnR a s) := by
  unfold Machine.execReturnR
  exact .issue hs fun _ hs => .ite hs (.ite (.returnGo hs) (.ite trivial
    (.ite trivial (.ite trivial (.ite trivial (.ite (.setRegion hs) (.returnGo (.setRegion hs))))))))

theorem Leaves.execRgmov {d a : BitVec 5} (hs : s.Canon) : Leaves (execRgmov d a s) := by
  unfold Machine.execRgmov
  exact .issue hs fun _ hs => .ite trivial (.ite hs (.ite trivial (.updBlk hs)))

theorem Leaves.execRgclr {a : BitVec 5} (hs : s.Canon) : Leaves (execRgclr a s) := by
  unfold Machine.execRgclr
  exact .issue hs fun _ hs => .ite trivial (.ite (.setRegion hs)
    (State.Canon.ite (.l1Drop (.setRegion hs)) (.freeEntry (.l1Drop (.setRegion hs)))))

theorem Leaves.execRgclrTaint {a : BitVec 5} (hs : s.Canon) : Leaves (execRgclrTaint a s) := by
  unfold Machine.execRgclrTaint
  refine .issue hs fun _ hs => .ite trivial (.ite ?_ (.entryFreed (.updCd (.setRegion hs))))
  split
  · exact .foldl (fun _ hs => .toHome hs) (.setRegion hs)
  · exact .setRegion hs

/-! ## Machine/IntOps.lean -/

theorem Res.Canon.divBody {d a b : BitVec 7} {ty : BitVec 3} {f : ℤ → ℤ → ℤ} {c : Ctx} (hs : s.Canon) :
    (divBody d a b ty f c s).Canon :=
  .ite trivial hs

theorem Leaves.execDiv {d a b : BitVec 7} {la : BitVec 4} (hs : s.Canon) : Leaves (execDiv d a b la s) := by
  unfold Machine.execDiv
  exact .issue hs fun _ hs => .divBody hs

theorem Leaves.execDivn {d a b : BitVec 7} {la : BitVec 4} (hs : s.Canon) : Leaves (execDivn d a b la s) := by
  unfold Machine.execDivn
  exact .issue hs fun _ hs => .divBody hs

theorem Leaves.execRem {d a b : BitVec 7} {la : BitVec 4} (hs : s.Canon) : Leaves (execRem d a b la s) := by
  unfold Machine.execRem
  exact .issue hs fun _ hs => .divBody hs

theorem Leaves.execRemn {d a b : BitVec 7} {la : BitVec 4} (hs : s.Canon) : Leaves (execRemn d a b la s) := by
  unfold Machine.execRemn
  exact .issue hs fun _ hs => .divBody hs

theorem Leaves.execCmp {cond : BitVec 4} {k : BitVec 3} {a b : BitVec 7} {ty : BitVec 3} (hs : s.Canon) :
    Leaves (execCmp cond k a b ty s) := by
  unfold Machine.execCmp
  exact .issue hs fun _ hs => .setK hs

theorem Leaves.execCmpi {cond : BitVec 4} {k : BitVec 3} {a : BitVec 7} {imm : BitVec 11} (hs : s.Canon) :
    Leaves (execCmpi cond k a imm s) := by
  unfold Machine.execCmpi
  exact .issue hs fun _ hs => .setK hs

/-! ## Machine/SyncOps.lean -/

theorem Leaves.execDqpush {a b : BitVec 7} (hs : s.Canon) : Leaves (execDqpush a b s) := by
  unfold Machine.execDqpush
  exact .issue hs fun _ hs => .ite hs (.ite hs (.releasing hs (.updBlk (.takeFresh hs))))

theorem Leaves.execSrput {b : BitVec 3} (hs : s.Canon) : Leaves (execSrput b s) := by
  unfold Machine.execSrput
  refine .issue hs fun _ hs => ?_
  extract_lets
  split
  · trivial
  · exact .ite hs (.releasing hs (.updThread (.updBlk hs)))

theorem Leaves.execSrwaitC {d : BitVec 7} {b : BitVec 3} (hs : s.Canon) : Leaves (execSrwaitC d b s) := by
  unfold Machine.execSrwaitC
  refine .issue hs fun _ hs => ?_
  extract_lets
  split
  · trivial
  · exact .ite hs hs

theorem Leaves.execSrwaitP {d : BitVec 7} {b : BitVec 3} (hs : s.Canon) : Leaves (execSrwaitP d b s) := by
  unfold Machine.execSrwaitP
  refine .issue hs fun _ hs => ?_
  extract_lets
  split
  · trivial
  · exact .ite hs hs

theorem Leaves.execSrrel {b : BitVec 3} (hs : s.Canon) : Leaves (execSrrel b s) := by
  unfold Machine.execSrrel
  refine .issue hs fun _ hs => ?_
  extract_lets
  split
  · trivial
  · exact .ite hs (.releasing hs (.updThread (.updBlk hs)))

theorem Res.Canon.arriving {c : Ctx} {lev n : Nat} {go : Word → State → Res} (hs : s.Canon) (hgo : ∀ {a : State}
    (a_1 : Word), a.Canon → (go a_1 a).Canon) : (arriving c s lev n go).Canon :=
  .ite hs (.ite hs (hgo _ (.arrive hs)))

theorem Res.Canon.phaseWait {c : Ctx} {lev n : Nat} {tok : Word} (hs : s.Canon) : (phaseWait c s lev n tok).Canon := by
  unfold Machine.phaseWait
  split
  · exact .ite hs (.ite trivial hs)
  · exact hs

theorem Leaves.execBarArr {d : BitVec 7} {lev : BitVec 2} {n : BitVec 4} (hs : s.Canon) : Leaves (execBarArr d lev n s) := by
  unfold Machine.execBarArr
  refine .issue hs fun _ hs => ?_
  split
  · trivial
  · exact .arriving hs fun _ hs => hs

theorem Leaves.execBarWait {a : BitVec 7} {lev : BitVec 2} {n : BitVec 4} (hs : s.Canon) :
    Leaves (execBarWait a lev n s) := by
  unfold Machine.execBarWait
  refine .issue hs fun _ hs => .ite (.phaseWait hs) ?_
  split
  · trivial
  · exact .phaseWait (.useBar hs)

theorem Leaves.execBarSync {d : BitVec 7} {lev : BitVec 2} {n : BitVec 4} (hs : s.Canon) :
    Leaves (execBarSync d lev n s) := by
  unfold Machine.execBarSync
  refine .issue hs fun _ hs => .ite (.phaseWait hs) ?_
  split
  · trivial
  · exact .arriving hs fun _ hs => .phaseWait (.applyWrites hs)

theorem Leaves.execBarSet {a : BitVec 7} {n : BitVec 4} (hs : s.Canon) : Leaves (execBarSet a n s) := by
  unfold Machine.execBarSet
  refine .issue hs fun _ hs => ?_
  extract_lets
  split
  · trivial
  · exact .ite trivial (.updBar (.barEntry hs))

theorem Leaves.execCntWait {a : BitVec 7} {n : BitVec 4} (hs : s.Canon) : Leaves (execCntWait a n s) := by
  unfold Machine.execCntWait
  exact .issue hs fun _ hs => .ite hs hs

theorem Leaves.execCntClr {n : BitVec 4} (hs : s.Canon) : Leaves (execCntClr n s) := by
  unfold Machine.execCntClr
  exact .issue hs fun _ hs => .updBlk hs

theorem Leaves.execPerf {d a : BitVec 7} (hs : s.Canon) : Leaves (execPerf d a s) := by
  unfold Machine.execPerf
  exact .issue hs fun _ hs => .ite trivial hs

/-! ## Machine/TrapOps.lean -/

theorem Leaves.execTrap {n : BitVec 14} (hs : s.Canon) : Leaves (execTrap n s) := by
  unfold Machine.execTrap
  exact .issue hs fun _ hs => trivial

theorem Leaves.execSvc {n : BitVec 14} (hs : s.Canon) : Leaves (execSvc n s) := by
  unfold Machine.execSvc
  exact .issue hs fun _ hs => trivial

theorem Leaves.execBrk {n : BitVec 14} (hs : s.Canon) : Leaves (execBrk n s) := by
  unfold Machine.execBrk
  exact .issue hs fun _ hs => trivial

theorem State.Canon.exitOwner {t : ThreadRef} (hs : s.Canon) : (s.exitOwner t).Canon :=
  .ite (.exitFront (.updThread (.updThread hs))) (.exitWarp (.updThread (.updThread hs)))

theorem State.Canon.dueRecord {t : ThreadRef} (hs : s.Canon) : (s.dueRecord t).Canon := .ite (.post hs) hs

theorem Leaves.execRft (hs : s.Canon) : Leaves (execRft s) := by
  unfold Machine.execRft
  refine .issue hs fun _ hs => .ite trivial (.ite hs ?_)
  refine .ite ?_ (State.Canon.ite (.dueRecord (.goTo (.leaveTrap (.cleared hs))))
    (.dueRecord (.dueRecord (.goTo (.leaveTrap (.cleared hs))))))
  refine .ite hs ?_
  split
  · exact hs
  · exact .exitOwner (.leaveTrap (.cleared hs))

theorem State.Canon.killBlock {bk : Nat} {killer : DWord} (hs : s.Canon) : (s.killBlock bk killer).Canon := by
  unfold State.killBlock
  split
  · exact hs
  · exact .ite hs (.startKill (.ringPut hs))

theorem Leaves.execKillb {d a : BitVec 7} (hs : s.Canon) : Leaves (execKillb d a s) := by
  unfold Machine.execKillb
  refine .issue hs fun _ hs => .ite hs (.ite trivial (.ite (.killBlock hs) ?_))
  split
  · exact hs
  · exact hs
  · exact .killBlock hs
  split
  · exact hs
  split
  · exact .ringPut hs
  refine State.Canon.poolCheck (.taskFinish (.ringPut ?_))
  split
  next he => exact .of_unlinkTask hs he
  · exact hs

theorem Leaves.execPblk {k n : BitVec 3} {pat : BitVec 8} (hs : s.Canon) : Leaves (execPblk k n pat s) := by
  unfold Machine.execPblk
  exact .issue hs fun _ hs => .goTo (.updThread (.cleared hs))

theorem Leaves.execIllegalInstruction {w : Word} (hs : s.Canon) : Leaves (execIllegalInstruction w s) := by
  unfold Machine.execIllegalInstruction
  exact .issue hs fun _ hs => trivial

theorem Leaves.execTrapEntry (hs : s.Canon) : Leaves (execTrapEntry s) := by
  unfold Machine.execTrapEntry
  split
  · split
    · refine .ite hs (.ite (.orphanRecord hs) (.ite hs ?_))
      extract_lets
      split
      · exact hs
      refine .ite (.post hs) ?_
      split
      · exact .enterTrap hs
      · exact hs
    · exact hs
  · exact hs

theorem Leaves.execFaultReport (hs : s.Canon) : Leaves (execFaultReport s) := by
  unfold Machine.execFaultReport
  split
  · split
    · exact .postFault hs
    · exact .ringPut hs
  · exact hs

/-! ## Machine/LoadStore.lean -/

theorem State.Canon.watchCount {die n : Nat} (hs : s.Canon) : (s.watchCount die n).Canon := .setCdReg hs

theorem Pass.Canon.pass {c : Ctx} {g : Region} {acc : Access} {accs : List Acc} (hs : s.Canon) :
    (pass c s g acc accs).Canon := by
  unfold Machine.pass
  extract_lets
  split
  · trivial
  refine .ite trivial ?_
  split
  · exact .post hs
  trivial

theorem State.Canon.reportPages {c : Ctx} {g : Region} {accs : List Acc} {engine : Nat} (hs : s.Canon) :
    (s.reportPages c g accs engine).Canon :=
  .foldl (fun _ hs => .ringPut hs) hs

theorem State.Canon.imprecise {c : Ctx} {code : Nat} {bad : List (Nat × Nat)} (hs : s.Canon) :
    (s.imprecise c code bad).Canon := by
  unfold State.imprecise
  split
  · exact hs
  · exact .postFault hs

theorem State.Canon.reportDown {c : Ctx} {g : Region} {bad : List Acc} (hs : s.Canon) : (s.reportDown c g bad).Canon :=
  .imprecise (.foldl (fun _ hs => .countSeam hs) hs)

theorem State.Canon.readAll {c : Ctx} {id : Nat} {g : Region} {fill : Bool} {accs : List Acc} (hs : s.Canon) :
    (readAll c s id g fill accs).2.Canon :=
  .foldl_snd (fun _ hs => .readAt hs) hs

theorem State.Canon.loadNow {c : Ctx} {g : Region} {fill : Bool} {regs : List RegId} {accs : List Acc}
    {result : Nat → List Byte → List RegWrite} (hs : s.Canon) : (s.loadNow c g fill regs accs result).Canon :=
  .post (.reportDown (.imprecise (.foldl_snd (fun _ hs => .readAt hs)
    (.ite (.updThread (.ite (.pmcCount hs) hs)) (.updThread (.updThread (.ite (.pmcCount hs) hs)))))))

theorem Res.Canon.loadBody {c : Ctx} {rg : BitVec 5} {bounds odd accs : List Acc} {nofill : Bool} {regs : List RegId}
    {result : Nat → List Byte → List RegWrite} (hs : s.Canon) :
    (loadBody c s rg bounds odd accs nofill regs result).Canon := by
  unfold Machine.loadBody
  extract_lets +onlyGivenNames g
  split
  · trivial
  split
  · trivial
  next he => exact .of_pass (.pass hs) he
  split
  next he => exact .of_watched hs he
  split
  · exact .reportPages hs
  split
  · exact hs
  refine .ite hs (.ite hs ?_)
  split
  · exact State.Canon.ite hs (.pmcCount hs)
  · exact hs
  · exact .loadNow hs

theorem Leaves.load {i : Instr} {sp : Spec} {rg : BitVec 5} {idx : BitVec 7} {sc : BitVec 2} {size : Nat} {nofill : Bool}
    {put : Ctx → Nat → Nat → List RegWrite} (hs : s.Canon) : Leaves (load i sp rg idx sc size nofill put s) := by
  unfold Machine.load
  exact .issue hs fun _ hs => .loadBody hs

theorem Leaves.execLd32 {d : BitVec 7} {rg : BitVec 5} {idx : BitVec 7} {sc : BitVec 2} {la : BitVec 4} (hs : s.Canon) :
    Leaves (execLd32 d rg idx sc la s) := by
  unfold Machine.execLd32
  exact .load hs

theorem Leaves.execLd64 {d : BitVec 7} {rg : BitVec 5} {idx : BitVec 7} {sc : BitVec 2} {la : BitVec 4} (hs : s.Canon) :
    Leaves (execLd64 d rg idx sc la s) := by
  unfold Machine.execLd64
  exact .load hs

theorem Leaves.loadNarrow {i : Instr} {d : BitVec 7} {rg : BitVec 5} {idx : BitVec 7} {sc : BitVec 2} {la : BitVec 4}
    {size : Nat} {signed : Bool} (hs : s.Canon) : Leaves (loadNarrow i d rg idx sc la size signed s) := by
  unfold Machine.loadNarrow
  exact .load hs

theorem Leaves.execLdI8 {d : BitVec 7} {rg : BitVec 5} {idx : BitVec 7} {sc : BitVec 2} {la : BitVec 4} (hs : s.Canon) :
    Leaves (execLdI8 d rg idx sc la s) := by
  unfold Machine.execLdI8
  exact .loadNarrow hs

theorem Leaves.execLdN8 {d : BitVec 7} {rg : BitVec 5} {idx : BitVec 7} {sc : BitVec 2} {la : BitVec 4} (hs : s.Canon) :
    Leaves (execLdN8 d rg idx sc la s) := by
  unfold Machine.execLdN8
  exact .loadNarrow hs

theorem Leaves.execLdI16 {d : BitVec 7} {rg : BitVec 5} {idx : BitVec 7} {sc : BitVec 2} {la : BitVec 4} (hs : s.Canon) :
    Leaves (execLdI16 d rg idx sc la s) := by
  unfold Machine.execLdI16
  exact .loadNarrow hs

theorem Leaves.execLdN16 {d : BitVec 7} {rg : BitVec 5} {idx : BitVec 7} {sc : BitVec 2} {la : BitVec 4} (hs : s.Canon) :
    Leaves (execLdN16 d rg idx sc la s) := by
  unfold Machine.execLdN16
  exact .loadNarrow hs

theorem Leaves.execLdn {d : BitVec 7} {rg : BitVec 5} {idx : BitVec 7} {sc : BitVec 2} {la : BitVec 4} (hs : s.Canon) :
    Leaves (execLdn d rg idx sc la s) := by
  unfold Machine.execLdn
  exact .load hs

theorem Leaves.execLdbp {d : BitVec 7} {rg : BitVec 5} {idx : BitVec 7} {sc : BitVec 2} {la : BitVec 4} (hs : s.Canon) :
    Leaves (execLdbp d rg idx sc la s) := by
  unfold Machine.execLdbp
  exact .issue hs fun _ hs => .loadBody hs

theorem State.Canon.putElem {bk : Nat} {b : Block} {g : Region} {o n : Nat} {data en : DWord} {priv fill : Bool}
    {who : Who} {pc : BitVec 56} (hs : s.Canon) : (s.putElem bk b g o n data en priv fill who pc).Canon :=
  .ite hs (.ite (.writeAt hs) (.writeAt (.peekAt hs)))

theorem State.Canon.storeLanes {c : Ctx} {g : Region} {size : Nat} {fill : Bool} {lanes : List (Nat × Nat × DWord × DWord)}
    (hs : s.Canon) : (storeLanes c s g size fill lanes).Canon :=
  .seen (.foldl (fun _ hs => .putElem hs) hs)

theorem State.Canon.logPut {c : Ctx} {i : Instr} {g : Region} {lanes : List (Nat × Nat × DWord × DWord)}
    {counter : Option Nat} {gone : List Acc} (hs : s.Canon) : (s.logPut c i g lanes counter gone).Canon :=
  .ite (.post (.reportPages (.pmcCount (.updCore (.takeFresh hs))))) (.reportPages (.pmcCount (.updCore (.takeFresh hs))))

theorem Res.Canon.loggable {c : Ctx} {i : Instr} {g : Region} {kind : Nat} {all accs : List Acc} {lanes : List
    (Nat × Nat × DWord × DWord)} {go : State → List Acc → Res} (hs : s.Canon) (hgo : ∀ {a : State} (a_1 : List Acc),
    a.Canon → (go a a_1).Canon) : (loggable c s i g kind all accs lanes go).Canon := by
  unfold Machine.loggable
  split
  · trivial
  next he => exact .of_pass (.pass hs) he
  split
  next he => exact .of_watched hs he
  refine .ite (.ite hs (.logPut hs)) ?_
  split
  · exact hs
  · exact hgo _ hs

theorem State.Canon.storeNow {c : Ctx} {g : Region} {size : Nat} {fill : Bool} {lanes : List (Nat × Nat × DWord × DWord)}
    {down : List Acc} (hs : s.Canon) : (s.storeNow c g size fill lanes down).Canon :=
  .reportDown (.storeLanes (.ite (.pmcCount hs) hs))

theorem Res.Canon.storeBody {c : Ctx} {i : Instr} {rg : BitVec 5} {idx : BitVec 7} {sc : BitVec 2} {size : Nat}
    {nofill : Bool} {data enables : Nat → DWord} (hs : s.Canon) :
    (storeBody c s i rg idx sc size nofill data enables).Canon := by
  unfold Machine.storeBody
  extract_lets
  split
  · trivial
  · exact .loggable hs fun _ hs => .storeNow hs

theorem Leaves.store {i : Instr} {streams : Streams} {roles : List Role} {d : BitVec 7} {rg : BitVec 5} {idx : BitVec 7}
    {sc : BitVec 2} {la : BitVec 4} {size : Nat} {nofill : Bool} (hs : s.Canon) :
    Leaves (store i streams roles d rg idx sc la size nofill s) := by
  unfold Machine.store
  exact .issue hs fun _ hs => .storeBody hs

theorem Leaves.execSt32 {d : BitVec 7} {rg : BitVec 5} {idx : BitVec 7} {sc : BitVec 2} {la : BitVec 4} (hs : s.Canon) :
    Leaves (execSt32 d rg idx sc la s) := by
  unfold Machine.execSt32
  exact .store hs

theorem Leaves.execSt64 {d : BitVec 7} {rg : BitVec 5} {idx : BitVec 7} {sc : BitVec 2} {la : BitVec 4} (hs : s.Canon) :
    Leaves (execSt64 d rg idx sc la s) := by
  unfold Machine.execSt64
  exact .store hs

theorem Leaves.execSt8 {d : BitVec 7} {rg : BitVec 5} {idx : BitVec 7} {sc : BitVec 2} {la : BitVec 4} (hs : s.Canon) :
    Leaves (execSt8 d rg idx sc la s) := by
  unfold Machine.execSt8
  exact .store hs

theorem Leaves.execSt16 {d : BitVec 7} {rg : BitVec 5} {idx : BitVec 7} {sc : BitVec 2} {la : BitVec 4} (hs : s.Canon) :
    Leaves (execSt16 d rg idx sc la s) := by
  unfold Machine.execSt16
  exact .store hs

theorem Leaves.execStn {d : BitVec 7} {rg : BitVec 5} {idx : BitVec 7} {sc : BitVec 2} {la : BitVec 4} (hs : s.Canon) :
    Leaves (execStn d rg idx sc la s) := by
  unfold Machine.execStn
  exact .store hs

theorem Leaves.execStbe {d : BitVec 7} {rg : BitVec 5} {idx : BitVec 7} {sc : BitVec 2} {la : BitVec 4} (hs : s.Canon) :
    Leaves (execStbe d rg idx sc la s) := by
  unfold Machine.execStbe
  exact .issue hs fun _ hs => .storeBody hs

theorem State.Canon.dataReturn {t : ThreadRef} {id : Nat} {ws : List RegWrite} (hs : s.Canon) :
    (s.dataReturn t id ws).Canon := by
  unfold State.dataReturn
  extract_lets +onlyGivenNames paid
  split
  next he =>
    have hu := State.Canon.of_snd (.mixReturn hs) he
    extract_lets +onlyGivenNames s₁ wake
    have h₁ : s₁.Canon := .updThread (.updThread (.applyWrites hu))
    have hwake {s : State} (hs : s.Canon) (t : ThreadRef) : (wake s t).Canon := by
      unfold wake
      split
      · exact hs
      split
      · split
        · exact .ite (.unhold hs) hs
        · exact .ite (.endPath hs) hs
        · exact .mergeArms hs
        · exact hs
      · exact hs
    exact .ite (hwake h₁ _) (hwake (hwake h₁ _) _)

theorem Leaves.execLoadDataReturn (hs : s.Canon) : Leaves (execLoadDataReturn s) := by
  unfold Machine.execLoadDataReturn
  split
  · exact .dataReturn hs
  · exact hs

theorem State.Canon.updCopy {core id : Nat} {f : CopyCmd → CopyCmd} (hs : s.Canon) : (s.updCopy core id f).Canon :=
  .updCore hs

theorem State.Canon.updLog {core id : Nat} {f : LogEntry → LogEntry} (hs : s.Canon) : (s.updLog core id f).Canon :=
  .updCore hs

theorem Leaves.execPageWalk (hs : s.Canon) : Leaves (execPageWalk s) := by
  have hwoken {w : WalkReq} {u : State} {f : Thread → Thread} (hu : u.Canon) : Leaves (match w.who with
      | .thread t => .next (u.updThread t f)
      | .copy core id => .next (u.post (.copyLanding core id))
      | .log core id => .next (u.post (.sideLogReplay core id))) := by
    split
    · exact State.Canon.updThread hu
    · exact State.Canon.post hu
    · exact State.Canon.post hu
  unfold Machine.execPageWalk
  split
  · refine .ite (.post hs) ?_
    generalize s.walk _ _ _ _ _ = r
    cases r with
    | leaf e => exact hwoken (.tlbFill (.walkHome hs))
    | _ => exact hwoken (.walkHome hs)
  · exact hs

/-! ## Machine/CopyPath.lean -/

theorem State.Canon.startCopy {c : Ctx} {i : Instr} {src dst : Region} {moves : List (Nat × Nat × Nat)} {vals : List
    (Nat × DWord)} {op ty target : Nat} {counter : Option Nat} {presence : Bool} {lanes : optParam (List
    (Nat × Nat × Nat × Nat)) []} (hs : s.Canon) :
    (s.startCopy c i src dst moves vals op ty target counter presence lanes).Canon :=
  .post (.updCore (.updBlk (.takeFresh hs)))

theorem Res.Canon.afterOwn {c : Ctx} {r : State → Res} (hs : s.Canon) (hr : ∀ {a : State}, a.Canon → (r a).Canon) :
    (afterOwn c s r).Canon :=
  .ite (hr hs) hs

theorem Leaves.execCpy {d a : BitVec 5} {b : BitVec 7} (hs : s.Canon) : Leaves (execCpy d a b s) := by
  unfold Machine.execCpy
  refine .issue hs fun _ hs => .ite trivial ?_
  split
  · trivial
  · exact .ite trivial (.ite trivial (.ite trivial (.afterOwn hs (fun hs => .startCopy hs))))

theorem Leaves.execCpyg {d a : BitVec 5} {b : BitVec 7} (hs : s.Canon) : Leaves (execCpyg d a b s) := by
  unfold Machine.execCpyg
  refine .issue hs fun _ hs => .ite trivial ?_
  split
  · trivial
  · exact .afterOwn hs fun hs => .startCopy hs

theorem Leaves.execXst {d a : BitVec 5} {b : BitVec 7} (hs : s.Canon) : Leaves (execXst d a b s) := by
  unfold Machine.execXst
  refine .issue hs fun _ hs => .ite trivial (.ite trivial ?_)
  split
  · trivial
  · exact .ite trivial (.ite trivial (.ite trivial (.afterOwn hs (fun hs => .startCopy (.takeFresh hs)))))

theorem Leaves.execDupd {d : BitVec 5} {a b : BitVec 7} (hs : s.Canon) : Leaves (execDupd d a b s) := by
  unfold Machine.execDupd
  refine .issue hs fun _ hs => .ite trivial ?_
  split
  · trivial
  dsimp only
  split
  next he => exact .of_pass (.pass hs) he
  · exact .ite (.ite hs (.logPut hs)) (.afterOwn hs (fun hs => .startCopy hs))

theorem State.Canon.copyWatch {core : Nat} {b : Block} {x : CopyCmd} {g : Region} {kind o n : Nat} (hs : s.Canon) :
    (s.copyWatch core b x g kind o n).Canon := by
  unfold State.copyWatch
  refine .ite hs (.foldl (fun _ hs => ?_) hs)
  split
  · exact hs
  · exact .ite hs (.postFault (.updCopy (.watchCount hs)))

theorem State.Canon.copyRead {b : Block} {x : CopyCmd} {o n : Nat} (hs : s.Canon) : (s.copyRead b x o n).2.2.Canon := by
  unfold State.copyRead
  split
  · split
    · exact hs
    · exact .ite hs (.mismatch (.updBlk hs))
  · exact .foldl_snd_snd (fun _ hs => .readAt hs) hs

theorem State.Canon.copyPoison {bk : Nat} {b : Block} {g : Region} {o n : Nat} {priv : Bool} (hs : s.Canon) :
    (s.copyPoison bk b g o n priv).Canon := by
  unfold State.copyPoison
  refine .ite (.updBlk hs) ?_
  extract_lets
  split
  · exact .l1Upd hs
  refine .ite (.updCd hs) ?_
  split
  · split
    · exact hs
    · exact .addPoison hs
  · exact hs

theorem State.Canon.copyWrite {b : Block} {x : CopyCmd} {o : Nat} {bs : List Byte} {poison : Bool} (hs : s.Canon) :
    (s.copyWrite b x o bs poison).Canon :=
  .ite (.updBlk hs) (.ite (.copyPoison (.ite (.updBlk hs) (.writeAt hs))) (.ite (.updBlk hs) (.writeAt hs)))

theorem State.Canon.settleLines {core id : Nat} (hs : s.Canon) : (s.settleLines core id).Canon := by
  unfold State.settleLines
  split
  · exact hs
  · exact .updCopy (.updBlk hs)

theorem State.Canon.copyDone {core : Nat} {x : CopyCmd} (hs : s.Canon) : (s.copyDone core x).Canon := by
  unfold State.copyDone
  extract_lets s₁ s₂ s₃
  have h₁ : s₁.Canon := .settleLines (.updCopy hs)
  have h₂ : s₂.Canon := by
    unfold s₂
    split
    · exact .updBlk h₁
    · exact h₁
  have h₃ : s₃.Canon := .updCore h₂
  split
  · exact .postAll h₃
  · exact h₃

theorem State.Canon.copyStop {core : Nat} {b : Block} {x : CopyCmd} {code addr : Nat} {m : Word} (hs : s.Canon) :
    (s.copyStop core b x code addr m).Canon :=
  .copyDone (.postFault hs)

theorem State.Canon.landWait {core : Nat} {b : Block} {x : CopyCmd} {acc : Access} {src : Bool} {m : Word} {n : Land}
    (hs : s.Canon) : (s.landWait core b x acc src m n).Canon := by
  unfold State.landWait
  split
  · exact hs
  · exact .post hs
  · exact .post hs
  · exact .ringPut (.updCopy hs)
  · exact .copyStop (.ite (.countSeam hs) hs)

theorem State.Canon.landMove {core : Nat} {b : Block} {x : CopyCmd} (hs : s.Canon) : (s.landMove core b x).Canon := by
  unfold State.landMove
  split
  next he =>
    have hu := State.Canon.of_snd (.takeFree hs) he
    split
    · exact .copyDone hu
    extract_lets +onlyGivenNames src dst
    clear_value src dst
    split
    · split
      · extract_lets +onlyGivenNames s₁
        split
        next he =>
          have hv := State.Canon.of_snd_snd (.copyRead (.copyWatch hu)) he
          extract_lets s₂ s₃ s₄
          have h₄ : s₄.Canon := .settleLines (.updCopy (.copyWrite (.ite hv (.copyWatch hv))))
          exact .ite (.copyDone h₄) (.post h₄)
      · exact .landWait hu
    · exact .landWait hu

theorem State.Canon.updateElem {bk : Nat} {b : Block} {x : CopyCmd} {op : MemOp} {ty : ElemTy} {o : Nat} {v : DWord}
    (hs : s.Canon) : (s.updateElem bk b x op ty o v).Canon := by
  unfold State.updateElem
  extract_lets +onlyGivenNames f poison
  have hpoison {s : State} (hs : s.Canon) (addr : Nat) : (poison s addr).Canon := .postFault hs
  refine .ite ?_ ?_
  · split
    · exact hs
    · exact .ite (.mismatch (.updBlk hs)) (.ite (hpoison hs _) (.updBlk hs))
  extract_lets +onlyGivenNames a key s₁
  have h₁ : s₁.Canon := by
    unfold s₁
    split
    · exact .l1Back hs
    · exact hs
  clear_value key s₁
  refine .ite (.ite (.mismatch (.updCd h₁)) (.ite (hpoison h₁ _) (.sharedPut h₁))) ?_
  split
  · exact h₁
  refine .ite ?_ ?_
  · split
    next he =>
      have hu := State.Canon.of_snd_snd (.lineRead h₁) he
      extract_lets +onlyGivenNames bad s₂ s₃
      have h₃ : s₃.Canon := .mismatch (.ite hu (.poisonLine hu))
      exact .ite h₃ (.ite (hpoison h₃ _) (.ite (.homeWrite (.lineWrite h₃)) (.lineWrite h₃)))
  extract_lets +onlyGivenNames s₂
  split
  next he =>
    have hu := State.Canon.of_snd_snd (.homeRead (.homeWatch h₁)) he
    extract_lets +onlyGivenNames bad s₃
    have h₃ : s₃.Canon := .mismatch (.addPoison hu)
    exact .ite h₃ (.ite (hpoison h₃ _) (.homeWrite h₃))

theorem State.Canon.landUpdate {core : Nat} {b : Block} {x : CopyCmd} (hs : s.Canon) : (s.landUpdate core b x).Canon := by
  unfold State.landUpdate
  split
  · split
    · exact .ite (.copyDone (.updCopy (.updateElem (.copyWatch hs)))) (.post (.updCopy (.updateElem (.copyWatch hs))))
    · exact .landWait hs
  · exact .copyDone hs

theorem State.Canon.resolveList {core : Nat} {b : Block} {x : CopyCmd} (hs : s.Canon) : (s.resolveList core b x).Canon := by
  unfold State.resolveList
  split
  · exact .copyDone hs
  · exact .ite (.post hs) (.ite (.copyDone (.postFault hs)) (.post (.updCopy hs)))

theorem Leaves.execCopyLanding (hs : s.Canon) : Leaves (execCopyLanding s) := by
  unfold Machine.execCopyLanding
  split
  · split
    · exact hs
    split
    · exact .copyDone hs
    refine .ite hs ?_
    show State.Canon _
    split
    · exact .landUpdate hs
    · exact .ite (.resolveList hs) (.landMove hs)
    · exact .landMove hs
  · exact hs

theorem State.Canon.dropHint {b : Block} {cause va : Nat} (hs : s.Canon) : (s.dropHint b cause va).Canon :=
  .pmcCount (.setCdReg (.addCdReg hs))

theorem State.Canon.askSlice {die line : Nat} (hs : s.Canon) : (s.askSlice die line).Canon := .post hs

theorem State.Canon.prefetch {b : Block} {g : Region} {o n level : Nat} {priv : Bool} (hs : s.Canon) :
    (s.prefetch b g o n level priv).Canon := by
  unfold State.prefetch
  refine .foldl (fun _ hs => ?_) hs
  refine .ite (.ite (.lineFor hs) hs) ?_
  split
  · refine .ite hs (.ite (.cacheLine (.touch hs)) (.ite (.askSlice hs) ?_))
    split
    · exact hs
    · exact .l1Add (.mismatch (.lineRead (.l1Alias hs)))
  · exact hs

theorem Leaves.execPref {a : BitVec 5} {b : BitVec 7} (hs : s.Canon) : Leaves (execPref a b s) := by
  unfold Machine.execPref
  refine .issue hs fun _ hs => .ite trivial ?_
  split
  · trivial
  refine .ite hs (.ite hs (.ite (.prefetch hs) (State.Canon.foldl (fun _ hs => ?_) hs)))
  extract_lets
  split
  · exact .ite (.dropHint hs) (.prefetch hs)
  · exact .dropHint hs
  · exact .dropHint hs

theorem Leaves.execRes {a : BitVec 5} {b : BitVec 7} (hs : s.Canon) : Leaves (execRes a b s) := by
  unfold Machine.execRes
  refine .issue hs fun _ hs => .ite trivial ?_
  split
  · trivial
  refine .ite hs (State.Canon.foldl (fun _ hs => ?_) hs)
  extract_lets
  split
  · exact .ite (.dropHint hs) (.ite hs (.ite (.ite (.dropHint hs) (.updMd (.updMd hs))) (.updMd hs)))
  · exact .dropHint hs
  · exact .dropHint hs

theorem Leaves.execPwait {a : BitVec 5} {b : BitVec 7} (hs : s.Canon) : Leaves (execPwait a b s) := by
  unfold Machine.execPwait
  refine .issue hs fun _ hs => .ite trivial (.ite trivial ?_)
  split
  · trivial
  · exact .ite hs hs

/-! ## Machine/Atomics.lean -/

theorem Res.Canon.releaseAt {c : Ctx} {scope : Nat} {r : Res} (hs : s.Canon) (hr : r.Canon) :
    (releaseAt c s scope r).Canon := by
  unfold Machine.releaseAt
  refine .ite hs ?_
  split
  · exact .ite hs hr
  · exact hr

theorem State.Canon.updPlace {n : Nat} {f : ScPlace → ScPlace} (hs : s.Canon) : (s.updPlace n f).Canon := hs

theorem State.Canon.performAccess {r : Request} (hs : s.Canon) : (s.performAccess r).2.Canon := by
  unfold State.performAccess
  split
  · exact .ite_snd (.ite_snd (.ite hs (.mismatch (.updCd hs))) (.ite (.ite hs (.mismatch (.updCd hs)))
      (.sharedPut (.ite hs (.mismatch (.updCd hs)))))) (.ite_snd
        (.foldl (fun _ hs => .report hs) (.addPoison (.homeWatch hs)))
          (.ite (.cacheLine (.touch (.foldl (fun _ hs => .report hs) (.addPoison (.homeWatch hs)))))
            (.homeWrite (.foldl (fun _ hs => .report hs) (.addPoison (.homeWatch hs))))))
  · exact hs

theorem State.Canon.replyTo {here : DieId} {r : Request} {vals : List DWord} {poison : Bool} (hs : s.Canon) :
    (s.replyTo here r vals poison).Canon := by
  unfold State.replyTo
  refine .ite (.sendOrTake (.noteSeen hs)) ?_
  split
  · exact .sendFrame (.noteSeen hs)
  · exact .noteSeen hs

theorem State.Canon.performReply {here : DieId} {r : Request} (hs : s.Canon) : (s.performReply here r).Canon := by
  unfold State.performReply
  split
  next he => exact .replyTo (.of_snd (.performAccess hs) he)

theorem State.Canon.advance {p n : Nat} (hs : s.Canon) : (s.advance p n).Canon := by
  induction n generalizing s with
  | zero => exact hs
  | succ n ih =>
    unfold State.advance
    dsimp only
    split
    · refine .ite (.ite hs (ih (.foldl (fun _ hs => .performReply hs) hs))) ?_
      split
      · exact hs
      · exact ih (.performReply (.updPlace hs))
    · split
      · exact hs
      · exact ih (.performReply (.updPlace hs))

theorem State.Canon.advanceAll {n : Nat} (hs : s.Canon) : (s.advanceAll n).Canon := .advance hs

theorem State.Canon.atPlace {n : Nat} {r : Request} (hs : s.Canon) : (s.atPlace n r).Canon := by
  unfold State.atPlace
  split
  · split
    · exact .performReply hs
    · exact .ite (.advanceAll (.updPlace hs)) (.performReply hs)
    · exact .ite (.performReply hs) (.updPlace hs)
  · exact hs

theorem State.Canon.ticketed {r : Request} (hs : s.Canon) : (s.ticketed r).Canon := hs

theorem Leaves.execScTicket (hs : s.Canon) : Leaves (execScTicket s) := by
  unfold Machine.execScTicket
  split
  · split
    · extract_lets
      split
      · exact State.Canon.ite (.sendFrame (.ticketed (.setPkg hs))) (.send (.ticketed (.setPkg hs)))
      · exact State.Canon.ite (.atPlace (.ite (.updPlace (.ticketed (.setPkg hs))) (.ticketed (.setPkg hs))))
          (.send (.ite (.updPlace (.ticketed (.setPkg hs))) (.ticketed (.setPkg hs))))
    · exact hs
  · exact hs

theorem Leaves.execWindowMark (hs : s.Canon) : Leaves (execWindowMark s) := by
  unfold Machine.execWindowMark
  split
  · exact .foldl (fun _ hs => .ite hs (.sendOrTake (.updPlace hs))) hs
  · exact hs

theorem Leaves.execSystemScPerform (hs : s.Canon) : Leaves (execSystemScPerform s) := by
  unfold Machine.execSystemScPerform
  split
  · exact .advanceAll hs
  · exact hs

theorem State.Canon.of_viaPort {here : DieId} {r : Request} {k : Nat} {body : Nat → ReqBody} {u : State} (hs : s.Canon)
    (he : s.viaPort here r k body = .error u) : u.Canon := by
  unfold State.viaPort at he
  split at he
  · cases he
    exact hs
  split at he
  · cases he
    exact .sendFrame hs
  split at he
  · split at he
    · dsimp only at he
      split at he
      · cases he
      · cases he
        exact .send hs
    · cases he
      exact hs
  · cases he
    exact hs

theorem State.Canon.perform {here : DieId} {r : Request} (hs : s.Canon) : (s.perform here r).Canon := by
  unfold State.perform
  extract_lets +onlyGivenNames stall
  have hstall (k : Nat) : (stall k).Canon := .updMd hs
  split
  · refine .ite (hstall _) ?_
    split
    · exact .atPlace hs
    · exact hs
  · refine .ite (hstall _) ?_
    extract_lets s₁
    split
    next he => exact .replyTo (.of_snd (.objectStep (.homeWatch hs)) he)
  · refine .ite (hstall _) ?_
    extract_lets s₁
    split
    next he => exact .replyTo (.of_snd (.pushStep (.homeWatch hs)) he)
  split
  · split
    next he => exact .replyTo (.of_snd (.pushPacket hs) he)
  · exact hs

theorem State.Canon.receive {here : DieId} {r : Request} (hs : s.Canon) : (s.receive here r).Canon := by
  unfold State.receive
  refine .ite (.post hs) ?_
  dsimp only
  split
  next he =>
    split at he
    · split at he
      · exact .of_viaPort hs he
      · cases he
    · split at he
      · exact .of_viaPort hs he
      · cases he
    · split at he
      · exact .of_viaPort hs he
      · cases he
    · cases he
  · exact .perform hs

theorem Leaves.execRequestDelivery (hs : s.Canon) : Leaves (execRequestDelivery s) := by
  unfold Machine.execRequestDelivery
  split
  · split
    · show State.Canon _
      split
      · exact .replyTo (.bump hs)
      · exact .bump hs
    · exact .receive (.noteSeen hs)
  · exact hs

theorem State.Canon.sendAtom {c : Ctx} {g : Region} {op : MemOp} {d : BitVec 7} {w : BitVec 2} {sc : ScKind} {grp : Nat}
    {mates : List (Nat × Nat × Nat)} {x : Acc} (hs : s.Canon) : (sendAtom c s g op d w sc grp mates x).Canon := by
  unfold Machine.sendAtom
  extract_lets
  split
  · exact hs
  · exact .ite (.performReply hs) (.sendOrTake hs)

theorem State.Canon.atomNow {c : Ctx} {g : Region} {op : MemOp} {d : BitVec 7} {w : BitVec 2} {sc : ScKind}
    {accs down : List Acc} (hs : s.Canon) : (s.atomNow c g op d w sc accs down).Canon :=
  .reportDown (.foldl (fun _ hs => .sendAtom hs) (.takeFresh hs))

theorem Leaves.atom {i : Instr} {op : MemOp} {d : BitVec 7} {w : BitVec 2} {rg : BitVec 5} {ord scope : BitVec 3}
    (hs : s.Canon) : Leaves (atom i op d w rg ord scope s) := by
  unfold Machine.atom
  refine .issue hs fun c hs => .ite hs ?_
  extract_lets +onlyGivenNames g accs
  split
  · trivial
  split
  · trivial
  next he => exact .of_pass (.pass hs) he
  · exact .reportPages hs
  split
  · trivial
  split
  next he => exact .of_watched hs he
  extract_lets +onlyGivenNames sc down u go
  have hu : u.Canon := .atomNow hs
  have hgo : go.Canon := .ite hu hu
  split
  · exact hs
  · exact .ite (.releaseAt hs hgo) hgo

theorem Leaves.execAtomAdd {d : BitVec 7} {w : BitVec 2} {rg : BitVec 5} {ord scope : BitVec 3} (hs : s.Canon) :
    Leaves (execAtomAdd d w rg ord scope s) := by
  unfold Machine.execAtomAdd
  exact .atom hs

theorem Leaves.execAtomFadd {d : BitVec 7} {w : BitVec 2} {rg : BitVec 5} {ord scope : BitVec 3} (hs : s.Canon) :
    Leaves (execAtomFadd d w rg ord scope s) := by
  unfold Machine.execAtomFadd
  exact .atom hs

theorem Leaves.execAtomSwap {d : BitVec 7} {w : BitVec 2} {rg : BitVec 5} {ord scope : BitVec 3} (hs : s.Canon) :
    Leaves (execAtomSwap d w rg ord scope s) := by
  unfold Machine.execAtomSwap
  exact .atom hs

theorem Leaves.execAtomCas {d : BitVec 7} {w : BitVec 2} {rg : BitVec 5} {ord scope : BitVec 3} (hs : s.Canon) :
    Leaves (execAtomCas d w rg ord scope s) := by
  unfold Machine.execAtomCas
  exact .atom hs

theorem Leaves.execAtomAnd {d : BitVec 7} {w : BitVec 2} {rg : BitVec 5} {ord scope : BitVec 3} (hs : s.Canon) :
    Leaves (execAtomAnd d w rg ord scope s) := by
  unfold Machine.execAtomAnd
  exact .atom hs

theorem Leaves.execAtomOr {d : BitVec 7} {w : BitVec 2} {rg : BitVec 5} {ord scope : BitVec 3} (hs : s.Canon) :
    Leaves (execAtomOr d w rg ord scope s) := by
  unfold Machine.execAtomOr
  exact .atom hs

theorem Leaves.execAtomXor {d : BitVec 7} {w : BitVec 2} {rg : BitVec 5} {ord scope : BitVec 3} (hs : s.Canon) :
    Leaves (execAtomXor d w rg ord scope s) := by
  unfold Machine.execAtomXor
  exact .atom hs

theorem Leaves.execAtomMin {d : BitVec 7} {w : BitVec 2} {rg : BitVec 5} {ord scope : BitVec 3} (hs : s.Canon) :
    Leaves (execAtomMin d w rg ord scope s) := by
  unfold Machine.execAtomMin
  exact .atom hs

theorem Leaves.execAtomMax {d : BitVec 7} {w : BitVec 2} {rg : BitVec 5} {ord scope : BitVec 3} (hs : s.Canon) :
    Leaves (execAtomMax d w rg ord scope s) := by
  unfold Machine.execAtomMax
  exact .atom hs

theorem Leaves.execAtomMinn {d : BitVec 7} {w : BitVec 2} {rg : BitVec 5} {ord scope : BitVec 3} (hs : s.Canon) :
    Leaves (execAtomMinn d w rg ord scope s) := by
  unfold Machine.execAtomMinn
  exact .atom hs

theorem Leaves.execAtomMaxn {d : BitVec 7} {w : BitVec 2} {rg : BitVec 5} {ord scope : BitVec 3} (hs : s.Canon) :
    Leaves (execAtomMaxn d w rg ord scope s) := by
  unfold Machine.execAtomMaxn
  exact .atom hs

theorem Leaves.execAtomLd {d : BitVec 7} {w : BitVec 2} {rg : BitVec 5} {ord scope : BitVec 3} (hs : s.Canon) :
    Leaves (execAtomLd d w rg ord scope s) := by
  unfold Machine.execAtomLd
  exact .atom hs

theorem Leaves.execAtomSt {d : BitVec 7} {w : BitVec 2} {rg : BitVec 5} {ord scope : BitVec 3} (hs : s.Canon) :
    Leaves (execAtomSt d w rg ord scope s) := by
  unfold Machine.execAtomSt
  exact .atom hs

theorem State.Canon.redLane {t : ThreadRef} {b : Block} {g : Region} {op : MemOp} {w : BitVec 2} {o : Nat} {v : DWord}
    {priv : Bool} (hs : s.Canon) : (s.redLane t b g op w o v priv).Canon := by
  unfold State.redLane
  extract_lets
  split
  · exact .ite (.l1Upd hs) (.ite (.l1Upd hs) (.l1Upd (.combine hs)))
  · exact .l1Add (.ite hs (.l1Alias hs))

theorem State.Canon.redNow {c : Ctx} {g : Region} {op : MemOp} {w : BitVec 2} {lanes : List (Nat × Nat × DWord × DWord)}
    {down : List Acc} (hs : s.Canon) : (s.redNow c g op w lanes down).Canon :=
  .reportDown (.foldl (fun _ hs => .ite hs (.redLane hs)) hs)

theorem Leaves.red {i : Instr} {op : MemOp} {d : BitVec 7} {w : BitVec 2} {rg : BitVec 5} {ord scope : BitVec 3}
    (hs : s.Canon) : Leaves (red i op d w rg ord scope s) := by
  unfold Machine.red
  refine .issue hs fun c hs => ?_
  dsimp only
  split
  · trivial
  split
  · trivial
  next he => exact .of_pass (.pass hs) he
  split
  · trivial
  refine .ite ?_ (.loggable hs fun _ hs => .redNow hs)
  split
  · exact .releaseAt hs (.loggable hs fun _ hs => .redNow hs)
  · exact .loggable hs fun _ hs => .redNow hs

theorem Leaves.execRedAdd {d : BitVec 7} {w : BitVec 2} {rg : BitVec 5} {ord scope : BitVec 3} (hs : s.Canon) :
    Leaves (execRedAdd d w rg ord scope s) := by
  unfold Machine.execRedAdd
  exact .red hs

theorem Leaves.execRedFadd {d : BitVec 7} {w : BitVec 2} {rg : BitVec 5} {ord scope : BitVec 3} (hs : s.Canon) :
    Leaves (execRedFadd d w rg ord scope s) := by
  unfold Machine.execRedFadd
  exact .red hs

theorem Leaves.execRedMin {d : BitVec 7} {w : BitVec 2} {rg : BitVec 5} {ord scope : BitVec 3} (hs : s.Canon) :
    Leaves (execRedMin d w rg ord scope s) := by
  unfold Machine.execRedMin
  exact .red hs

theorem Leaves.execRedMax {d : BitVec 7} {w : BitVec 2} {rg : BitVec 5} {ord scope : BitVec 3} (hs : s.Canon) :
    Leaves (execRedMax d w rg ord scope s) := by
  unfold Machine.execRedMax
  exact .red hs

theorem Leaves.execRedFmin {d : BitVec 7} {w : BitVec 2} {rg : BitVec 5} {ord scope : BitVec 3} (hs : s.Canon) :
    Leaves (execRedFmin d w rg ord scope s) := by
  unfold Machine.execRedFmin
  exact .red hs

theorem Leaves.execRedFmax {d : BitVec 7} {w : BitVec 2} {rg : BitVec 5} {ord scope : BitVec 3} (hs : s.Canon) :
    Leaves (execRedFmax d w rg ord scope s) := by
  unfold Machine.execRedFmax
  exact .red hs

theorem Leaves.execRedAnd {d : BitVec 7} {w : BitVec 2} {rg : BitVec 5} {ord scope : BitVec 3} (hs : s.Canon) :
    Leaves (execRedAnd d w rg ord scope s) := by
  unfold Machine.execRedAnd
  exact .red hs

theorem Leaves.execRedOr {d : BitVec 7} {w : BitVec 2} {rg : BitVec 5} {ord scope : BitVec 3} (hs : s.Canon) :
    Leaves (execRedOr d w rg ord scope s) := by
  unfold Machine.execRedOr
  exact .red hs

theorem Leaves.execRedXor {d : BitVec 7} {w : BitVec 2} {rg : BitVec 5} {ord scope : BitVec 3} (hs : s.Canon) :
    Leaves (execRedXor d w rg ord scope s) := by
  unfold Machine.execRedXor
  exact .red hs

theorem Leaves.execRedMinn {d : BitVec 7} {w : BitVec 2} {rg : BitVec 5} {ord scope : BitVec 3} (hs : s.Canon) :
    Leaves (execRedMinn d w rg ord scope s) := by
  unfold Machine.execRedMinn
  exact .red hs

theorem Leaves.execRedMaxn {d : BitVec 7} {w : BitVec 2} {rg : BitVec 5} {ord scope : BitVec 3} (hs : s.Canon) :
    Leaves (execRedMaxn d w rg ord scope s) := by
  unfold Machine.execRedMaxn
  exact .red hs

theorem Leaves.execFence {scope : BitVec 3} (hs : s.Canon) : Leaves (execFence scope s) := by
  unfold Machine.execFence
  exact .issue hs fun _ hs => .releaseAt hs hs

theorem Leaves.execHeatHalving (hs : s.Canon) : Leaves (execHeatHalving s) := by
  unfold Machine.execHeatHalving
  split
  · exact .updMd hs
  · exact hs

theorem Leaves.execHeatSample (hs : s.Canon) : Leaves (execHeatSample s) := by
  unfold Machine.execHeatSample
  split
  · exact .updMd hs
  · exact hs

theorem State.Canon.serveSlice {die pa : Nat} (hs : s.Canon) : (s.serveSlice die pa).Canon := by
  -- unfolded as a function: the kernel must not evaluate the bounds of `paKey`
  generalize hf : @State.serveSlice = f
  delta State.serveSlice at hf
  subst hf
  beta_reduce
  split
  · exact .ite hs (.mismatch (.lineRead hs))
  · exact hs

theorem Leaves.execSliceBounce (hs : s.Canon) : Leaves (execSliceBounce s) := by
  unfold Machine.execSliceBounce
  split
  · exact .ite (.post (.addCdReg hs)) (.serveSlice hs)
  · exact hs

/-! ## Machine/Replay.lean -/

theorem State.Canon.logDone {core : Nat} {e : LogEntry} {performed : Bool} (hs : s.Canon) :
    (s.logDone core e performed).Canon := by
  unfold State.logDone
  refine .postAll ?_
  split
  · exact .updBlk (.updCore hs)
  · exact .updCore hs

theorem State.Canon.logPerform {b : Block} {e : LogEntry} {lanes : List (Nat × Nat × DWord × DWord)} (hs : s.Canon) :
    (s.logPerform b e lanes).Canon := by
  unfold State.logPerform
  split
  · refine .foldl (fun _ hs => ?_) hs
    split
    · exact .updateElem hs
    · exact hs
  · exact .foldl (fun _ hs => .redLane hs) hs
  · exact .seen (.foldl (fun _ hs => .putElem hs) hs)

theorem State.Canon.logReplay {core : Nat} {b : Block} {e : LogEntry} (hs : s.Canon) : (s.logReplay core b e).Canon := by
  unfold State.logReplay
  extract_lets unit down s₁ gone s₂
  split
  · exact .post hs
  · exact .post hs
  · exact .ringPut (.updLog hs)
  · exact .logDone (.postFault hs)
  have h₁ : s₁.Canon := .logPerform hs
  have h₂ : s₂.Canon := by
    unfold s₂
    clear_value down
    split
    · exact h₁
    · exact .postFault (.foldl (fun _ hs => .countSeam hs) h₁)
  exact .logDone h₂

theorem Leaves.execSideLogReplay (hs : s.Canon) : Leaves (execSideLogReplay s) := by
  unfold Machine.execSideLogReplay
  split
  · split
    · exact hs
    refine .ite hs (.ite (.post hs) ?_)
    split
    · exact .logDone hs
    · exact .logReplay hs
  · exact hs

/-! ## Machine/Place.lean -/

theorem State.Canon.spawn {ix rec_ : Nat} (hs : s.Canon) : (s.spawn ix rec_).2.Canon := by
  unfold State.spawn
  split
  · exact hs
  split
  · exact hs
  · split
    · exact hs
    split
    · dsimp only
      split <;> exact hs
    dsimp only
    split
    · exact hs
    · exact hs
    · exact hs
    · exact hs
    · exact hs
    split
    · exact .objectStep (.ite (.syncPool (.updPool hs)) (.queueTask (.updPool hs)))
    · exact .ite (.syncPool (.updPool hs)) (.queueTask (.updPool hs))
  · exact hs

theorem State.Canon.makeBlock {pk : Nat} {p : Packet} {core slot scr ix frameVa : Nat} {keys : List Nat} (hs : s.Canon) :
    (s.makeBlock pk p core slot scr ix frameVa keys).Canon :=
  .askArgs (.giveB0 (.clearSlots (.takeFresh hs)))

theorem State.Canon.makeBars {pk : Nat} {p : Packet} {plan : List (Nat × Nat × Nat)} {first : Nat} (hs : s.Canon) :
    (s.makeBars pk p plan first).Canon :=
  .ite hs hs

theorem State.Canon.gangPage {g die unit va : Nat} {asid : BitVec 16} {d : CtxDesc} (hs : s.Canon) :
    (s.gangPage g die unit va asid d).Canon :=
  .ite (.post hs) (.ringPut hs)

theorem State.Canon.gangProt {g die unit va : Nat} {asid : BitVec 16} (hs : s.Canon) :
    (s.gangProt g die unit va asid).Canon :=
  .ringPut hs

theorem State.Canon.placeGrid {g pk : Nat} {p : Packet} {plan : List (Nat × Nat × Nat)} (hs : s.Canon) :
    (s.placeGrid g pk p plan).Canon := by
  unfold State.placeGrid
  extract_lets
  split
  · exact .gangPage hs
  · exact .gangProt hs
  · exact hs
  · exact .ite (.takeFresh (.foldl (fun _ hs => .makeBlock hs) (.makeBars hs)))
      (.post (.foldl (fun _ hs => .makeBlock hs) (.makeBars hs)))

theorem State.Canon.placePool {g pk : Nat} {p : Packet} {plan : List (Nat × Nat × Nat)} (hs : s.Canon) :
    (s.placePool g pk p plan).Canon := by
  unfold State.placePool
  extract_lets
  split
  · extract_lets
    split
    · exact .packetEnd hs
    split
    · exact .gangPage hs
    · exact .packetEnd hs
    · exact .gangPage hs
    · exact .gangProt hs
    · exact .post (.offerWork (.foldl (fun _ hs => .spawn hs) (.markQueues
        (.syncRows (.foldl (fun _ hs => .unitReads hs) (.unitReads hs))))))
  · exact hs
  · exact .packetEnd hs
  · exact .gangPage hs

theorem Leaves.execGangPlacement (hs : s.Canon) : Leaves (execGangPlacement s) := by
  unfold Machine.execGangPlacement
  extract_lets
  split
  · refine State.Canon.foldl (fun _ hs => ?_) hs
    split
    · exact .askArgs hs
    · exact hs
  refine State.Canon.ite ?_ ?_
  · refine .post (.foldl (fun _ hs => ?_) hs)
    split
    · exact .askArgs hs
    · exact hs
  refine .post (.ite ?_ ?_)
  · refine .placePool (.foldl (fun _ hs => ?_) hs)
    split
    · exact .askArgs hs
    · exact hs
  refine .placeGrid (.foldl (fun _ hs => ?_) hs)
  split
  · exact .askArgs hs
  · exact hs

theorem Leaves.execSeniorGang (hs : s.Canon) : Leaves (execSeniorGang s) := by
  unfold Machine.execSeniorGang
  split
  · split
    · split
      · exact .post (.takeFresh hs)
      · exact hs
    · exact hs
  · exact hs

/-! ## Machine/Save.lean -/

theorem State.Canon.leaveQueues {bk : Nat} {b : Block} (hs : s.Canon) : (s.leaveQueues bk b).Canon := .updCore (.updCd hs)

theorem State.Canon.endWaits {bk : Nat} {b : Block} (hs : s.Canon) : (s.endWaits bk b).Canon :=
  .localGrants (.foldl (fun _ hs => .updEntry hs) (.leaveQueues hs))

theorem Saved.Canon.saveBlock {bk : Nat} {hold nest : Bool} (hs : s.Canon) : (s.saveBlock bk hold nest).Canon := by
  unfold State.saveBlock
  split
  · exact hs
  extract_lets
  split
  · trivial
  · trivial
  · trivial
  · exact .updCd (.updCore (.updBlk (.foldl (fun _ hs => .putPages hs)
      (.foldl (fun _ hs => .putHead hs) (.clearHead (.endWaits (.flushBlock hs)))))))

theorem State.Canon.preempt {die : Nat} {v : DWord} (hs : s.Canon) : (s.preempt die v).Canon := by
  unfold State.preempt
  refine .ite hs ?_
  split
  · exact hs
  · exact .ite hs (.post (.updCd (.setCdReg hs)))

theorem Leaves.execPreempt (hs : s.Canon) : Leaves (execPreempt s) := by
  unfold Machine.execPreempt
  split
  · exact .preempt hs
  · exact hs

theorem Saved.Canon.saveAll {hold : Bool} {l : List Nat} (hs : s.Canon) : (s.saveAll hold l).Canon := by
  induction l generalizing s with
  | nil => exact hs
  | cons bk l ih =>
    have hb : (s.saveBlock bk hold false).Canon := .saveBlock hs
    unfold State.saveAll
    split
    next he => exact ih (.of_saved hb he)
    · exact hb

theorem State.Canon.parkPool {blks : List Nat} {ix : Nat} (hs : s.Canon) : (s.parkPool blks ix).Canon := by
  unfold State.parkPool
  refine .updPool ?_
  split
  · refine .markQueues (.foldl (fun _ hs => ?_) hs)
    split
    · exact .syncPool (.updTask (.takeFresh hs))
    · exact hs
  refine .foldl (fun _ hs => ?_) hs
  split
  · exact .syncPool (.updTask (.takeFresh hs))
  · exact hs

theorem Leaves.execPreemptSave (hs : s.Canon) : Leaves (execPreemptSave s) := by
  unfold Machine.execPreemptSave
  split
  · dsimp only
    split
    · exact .setCdReg (.updCd hs)
    refine .ite (.post hs) ?_
    split
    next u _ he _ =>
      have hu : u.Canon := .of_saved (.saveAll hs) he
      refine State.Canon.post (.setCdReg (.updCd ?_))
      split
      · exact .parkPool (.takeFresh hu)
      · exact .takeFresh hu
    · exact .owePage hs
    · exact .post (.startKill (.ringPut hs))
    · exact hs
  · exact hs

theorem State.Canon.resume {die : Nat} {v : DWord} (hs : s.Canon) : (s.resume die v).Canon := by
  unfold State.resume
  split
  · exact hs
  · exact .ite hs (.post hs)

theorem Leaves.execResume (hs : s.Canon) : Leaves (execResume s) := by
  unfold Machine.execResume
  split
  · exact .resume hs
  · exact hs

theorem State.Canon.renumber {bk die : Nat} (hs : s.Canon) : (s.renumber bk die).Canon := by
  unfold State.renumber
  split
  · exact .ite hs hs
  · exact hs

theorem State.Canon.rescanTask {ix e : Nat} (hs : s.Canon) :
    (s.rescanTask ix e).Canon := by
  unfold State.rescanTask
  split
  · exact hs
  · extract_lets
    split
    · refine .ite (.syncPool (.updTask hs)) ?_
      split
      next u he =>
        have hu : u.Canon := .of_snd (.objectStep hs) he
        exact .syncPool (.updTask hu)
      next u _ he =>
        have hu : u.Canon := .of_snd (.objectStep hs) he
        exact hu
    · exact .syncPool (.updTask hs)

theorem State.Canon.replacePool {ix : Nat} {plan : List (Nat × Nat × Nat)} {keys : List Nat} (hs : s.Canon) :
    (s.replacePool ix plan keys).Canon := by
  unfold State.replacePool
  split
  · exact hs
  · exact .offerWork (.ite (.foldl (fun _ hs => .rescanTask hs) (.markQueues (.syncRows hs))) (.markQueues (.syncRows hs)))

theorem Leaves.execRestore (hs : s.Canon) : Leaves (execRestore s) := by
  unfold Machine.execRestore
  split
  · split
    · exact hs
    split
    · exact hs
    split
    · exact hs
    refine .ite (.ringPut hs) (.ite ?_ ?_)
    · split
      · split
        · exact .post (.replacePool hs)
        · exact .gangPage hs
        · exact .gangProt hs
      · exact hs
    extract_lets
    split
    · exact .gangPage hs
    · exact .gangProt hs
    · exact hs
    extract_lets
    split
    · exact .gangPage hs
    · exact .gangProt hs
    next he =>
      exact .post (.foldl (fun _ hs => .rehome hs) (.of_saved (.readFrames (.foldl (fun _ hs => .updBlk (.renumber hs)) hs))
        he))
  · exact hs

theorem State.Canon.unpickEntry {die ix : Nat} {e : DieEntry} (hs : s.Canon) : (s.unpickEntry die ix e).Canon := by
  unfold State.unpickEntry
  split
  · exact .ite (.ite (.updCd (.l1Drop (.ite (.l1Flush hs) hs))) (.localRelease (.l1Drop (.ite (.l1Flush hs) hs))))
      (.freeEntry (.foldl (fun _ hs => .toHome hs) (.ite (.foldl (fun _ hs => .l2Walk hs) (.l1Drop (.ite (.l1Flush hs) hs)))
        (.l1Drop (.ite (.l1Flush hs) hs)))))
  · exact .ite (.localGrants (.updEntry hs)) (.updEntry hs)
  · exact .freeEntry hs
  · exact hs

theorem State.Canon.unpickProxies {b : Block} (hs : s.Canon) : (s.unpickProxies b).Canon := by
  unfold State.unpickProxies
  refine .foldl (fun _ hs => ?_) hs
  split
  · exact .ite (.releaseSlot (.l1Drop hs)) hs
  · exact hs

theorem State.Canon.unpick {bk : Nat} {b : Block} {code : Nat} (hs : s.Canon) : (s.unpick bk b code).Canon := by
  unfold State.unpick
  extract_lets s₁ s₂ s₃ s₄ s₅ s₆ had s₇
  have h₁ : s₁.Canon := .foldl (fun _ hs => .orphanRecord hs) hs
  have h₂ : s₂.Canon := .unpickProxies h₁
  have h₅ : s₅.Canon := .foldl (fun _ hs => .unpickEntry hs) (.leaveQueues (s := s₃) h₂)
  have h₇ : s₇.Canon := State.Canon.breakBars (b := b) h₅
  exact .ite (.taskEnd h₇) (.blockEnded (.freeBlock h₇))

theorem Leaves.execUnpickerPass (hs : s.Canon) : Leaves (execUnpickerPass s) := by
  unfold Machine.execUnpickerPass
  split
  · refine State.Canon.ite ?_ ?_
    · refine .updCd (.foldl (fun _ hs => .ite hs (.blockCheck hs)) ?_)
      refine .foldl (fun _ hs => ?_) (.foldl (fun _ hs => .ite hs (.localRelease (.updCd hs))) hs)
      split
      · exact .ite (.unpick hs) hs
      · exact hs
    · refine .post (.updCd (.foldl (fun _ hs => .ite hs (.blockCheck hs)) ?_))
      refine .foldl (fun _ hs => ?_) (.foldl (fun _ hs => .ite hs (.localRelease (.updCd hs))) hs)
      split
      · exact .ite (.unpick hs) hs
      · exact hs
  · exact hs

/-! ## Machine/Tasks.lean -/

theorem State.Canon.resultItems {c : Ctx} {d : BitVec 7} {n : Nat} {vals : List DWord} (hs : s.Canon) :
    (resultItems c s d n vals).2.Canon :=
  .takeFree hs

theorem Res.Canon.answerWith {c : Ctx} {d : BitVec 7} {n : Nat} {vals : List DWord} (hs : s.Canon) :
    (answerWith c s d n vals).Canon :=
  .ite_snd hs (.resultItems hs)

theorem State.Canon.countNoFrame {b : Block} (hs : s.Canon) : (s.countNoFrame b).Canon := by
  unfold State.countNoFrame
  split
  · exact .syncPool (.updPool hs)
  · exact hs

theorem Res.Canon.checkAnswer {c : Ctx} {d : BitVec 7} {n : Nat} {ans : List DWord} (hs : s.Canon) :
    (checkAnswer c s d n ans).Canon := by
  unfold Machine.checkAnswer
  split
  · exact hs
  · exact .ite (.answerWith hs) (.ite (.answerWith hs) (.ite hs
      (.ite (State.Canon.ite (.post hs) hs) (State.Canon.ite (.countNoFrame hs) hs))))

theorem Res.Canon.sendObject {c : Ctx} {d : BitVec 7} {n k : Nat} {body : ReqBody} {addr : Nat} (hs : s.Canon) :
    (sendObject c s d n k body addr).Canon := by
  unfold Machine.sendObject
  extract_lets
  split
  next u he =>
    have hu : u.Canon := .of_snd (.newId hs) he
    extract_lets
    split
    · exact .ite (.checkAnswer (.objectStep hu)) (.ite (.imprecise (.countSeam hu)) (.sendOrTake hu))
    · exact .ite (.imprecise (.countSeam hu)) (.sendOrTake hu)

theorem Leaves.objectInstr {i : Instr} {d : BitVec 7} {a : BitVec 5} {b : BitVec 7} {nB nD : Nat} {ctl : List
    (Nat × DWord)} {size : Ctx → Nat} {op : Ctx → ObjOp} {args : Ctx → List DWord} {rel : Bool} (hs : s.Canon) :
    Leaves (objectInstr i d a b nB nD ctl size op args rel s) := by
  unfold Machine.objectInstr
  refine .issue hs fun c hs => .ite (.checkAnswer hs) (.ite trivial ?_)
  split
  · trivial
  refine .ite trivial ?_
  split
  · trivial
  next he => exact .of_pass (.ite (x := .go) trivial (.pass hs)) he
  · exact .reportPages hs
  split
  · exact hs
  refine .ite trivial ?_
  split
  next he => exact .of_watched hs he
  · exact .ite (.releaseAt hs (.sendObject hs)) (.sendObject hs)

theorem Leaves.execFwait {d : BitVec 7} {a : BitVec 5} {b : BitVec 7} (hs : s.Canon) : Leaves (execFwait d a b s) := by
  unfold Machine.execFwait
  exact .objectInstr hs

theorem Leaves.execFfill {d : BitVec 7} {a : BitVec 5} {b : BitVec 7} (hs : s.Canon) : Leaves (execFfill d a b s) := by
  unfold Machine.execFfill
  exact .objectInstr hs

theorem Leaves.execFown {d : BitVec 7} {a : BitVec 5} {b : BitVec 7} (hs : s.Canon) : Leaves (execFown d a b s) := by
  unfold Machine.execFown
  exact .objectInstr hs

theorem Leaves.execLock {d : BitVec 7} {a : BitVec 5} {b : BitVec 7} (hs : s.Canon) : Leaves (execLock d a b s) := by
  unfold Machine.execLock
  exact .objectInstr hs

theorem Leaves.execUnlock {d : BitVec 7} {a : BitVec 5} {b : BitVec 7} (hs : s.Canon) : Leaves (execUnlock d a b s) := by
  unfold Machine.execUnlock
  exact .objectInstr hs

theorem Leaves.execQpop {d : BitVec 7} {a : BitVec 5} {b : BitVec 7} (hs : s.Canon) : Leaves (execQpop d a b s) := by
  unfold Machine.execQpop
  exact .objectInstr hs

theorem Leaves.execSucc {d : BitVec 7} {a : BitVec 5} {b : BitVec 7} (hs : s.Canon) : Leaves (execSucc d a b s) := by
  unfold Machine.execSucc
  exact .objectInstr hs

theorem Leaves.execQpush {d a b : BitVec 7} (hs : s.Canon) : Leaves (execQpush d a b s) := by
  unfold Machine.execQpush
  refine .issue hs fun _ hs => .ite ?_ ?_
  · split
    · exact hs
    · exact .ite trivial (.answerWith hs)
  · refine .ite trivial (.releaseAt hs ?_)
    split
    · exact .answerWith hs
    · exact .ite trivial (.sendObject hs)

theorem Leaves.execTspawn {d a b : BitVec 7} (hs : s.Canon) : Leaves (execTspawn d a b s) := by
  unfold Machine.execTspawn
  refine .issue hs fun _ hs => .ite trivial (.ite trivial (.releaseAt hs ?_))
  split
  · exact .answerWith hs
  refine .ite (.answerWith hs) ?_
  split
  next he => exact .answerWith (.of_snd (.spawn hs) he)
  next he => exact .answerWith (.of_snd (.spawn hs) he)
  next he => exact .ite (.answerWith (.of_snd (.spawn hs) he)) trivial
  next he => exact .ringPut (.of_snd (.spawn hs) he)

theorem State.Canon.emptyBlock {bk : Nat} {b : Block} (hs : s.Canon) : (s.emptyBlock bk b).Canon :=
  .foldl (fun _ hs => .dropRegions hs) (.updBlk (.foldl (fun _ hs => .orphanRecord hs) hs))

theorem Leaves.execTret {a : BitVec 7} (hs : s.Canon) : Leaves (execTret a s) := by
  unfold Machine.execTret
  refine .issue hs fun _ hs => ?_
  split
  · trivial
  refine .ite (.updBlk hs) ?_
  split
  · exact .ringPut hs
  split
  · exact hs
  · exact .exitBars (.leaveSlot (.taskFinish (.emptyBlock hs)))

theorem State.Canon.startTask {ix e : Nat} {p : Pool} {k : Task} {core slot scr j f : Nat} {below : Option Nat}
    {bs : List Byte} {keys : List Nat} (hs : s.Canon) : (s.startTask ix e p k core slot scr j f below bs keys).Canon := by
  unfold State.startTask
  split
  · exact hs
  · exact .syncPool (.askArgs (.giveB0 (.clearSlots (.updTask (.takeFresh hs)))))

theorem Saved.Canon.takeChain {ix e bk core slot scr j : Nat} {keys : List (Nat × List Nat)} (hs : s.Canon) :
    (s.takeChain ix e bk core slot scr j keys).Canon := by
  unfold State.takeChain
  extract_lets
  split
  next he => exact .syncPool (.updTask (.rehome (.of_saved (.readBack (.foldl (fun _ hs => .updBlk (.renumber hs)) hs)) he)))
  · exact .readBack (.foldl (fun _ hs => .updBlk (.renumber hs)) hs)

theorem State.Canon.startRefused {p : Pool} {e : Nat} {k : Task} {va ix : Nat} (hs : s.Canon) :
    (s.startRefused p e k va ix).Canon := by
  unfold State.startRefused
  extract_lets s₁ s₂
  have h₂ : s₂.Canon := by
    unfold s₂
    split
    next he => exact .of_unlinkTask (.ringPut hs) he
    · exact .ringPut hs
  split <;> exact .poolCheck (.taskFinish h₂)

theorem State.Canon.upsetHeader {ix : Nat} (hs : s.Canon) : (s.upsetHeader ix).Canon := by
  unfold State.upsetHeader
  split
  · exact hs
  split
  · exact hs
  · exact .ite hs (.syncRows (.ite (.takeFree hs) (.updPool (.takeFree hs))))

theorem State.Canon.upset {ix : Nat} (hs : s.Canon) : (s.upset ix).Canon := by
  unfold State.upset
  extract_lets
  split
  · exact .upsetHeader hs
  refine .syncPool ?_
  split
  · exact .upsetHeader hs
  · exact .updPool (.upsetHeader hs)
  · exact .queueTask (.upsetHeader hs)

theorem State.Canon.takeWork {ix j : Nat} {p : Pool} (hs : s.Canon) : (s.takeWork ix j p).Canon := by
  unfold State.takeWork
  split
  · extract_lets
    split
    · extract_lets
      split
      · split
        next he => exact .of_saved (.takeChain hs) he
        · exact .owePage hs
        · exact .startKill (.ringPut hs)
      · exact .owePage hs
      · exact .startKill (.ringPut hs)
      · exact hs
    split
    · split
      · exact .startTask (.updPool hs)
      · exact .owePage hs
      · exact .offerWork (.startRefused hs)
    · exact .owePage hs
    · exact hs

theorem Leaves.execTaskStart (hs : s.Canon) : Leaves (execTaskStart s) := by
  unfold Machine.execTaskStart
  split
  · extract_lets
    split
    · exact .upset (.queueLate hs)
    · exact State.Canon.ite (.upset (.queueLate hs)) (.takeWork (.upset (.queueLate hs)))
  · exact hs

theorem State.Canon.setTask {b : Block} {f : Task → Task} (hs : s.Canon) : (s.setTask b f).Canon := by
  unfold State.setTask
  split
  · exact .syncPool (.updTask hs)
  · exact hs

theorem State.Canon.parked {t : ThreadRef} {b : Block} {waits : Bool} (hs : s.Canon) : (s.parked t b waits).Canon :=
  .offerAll (.setTask (.takeFresh hs))

/-- Adoption of a task: whichever way, the block that adopts is first saved where it must be. -/
theorem State.Canon.adopt {t : ThreadRef} {b : Block} {owner : Word} {ch : Choice} {waits : Bool} (hs : s.Canon) :
    (s.adopt t b owner ch waits).Canon := by
  have hsave (nest : Bool) (go : State → State) (hgo : ∀ {s}, s.Canon → (go s).Canon) :
      (match s.saveBlock t.blk false nest with
        | .done s => go s
        | .absent va => s.owePage b.die b.desc b.ctx va 0 (.adoption t owner)
        | .prot bk va => (s.ringPut b.die (s.unitRecord b.die 23 4 va 0 b.ctx)).startKill bk 23).Canon := by
    split
    next he => exact hgo (.of_saved (.saveBlock hs) he)
    · exact .owePage hs
    · exact .startKill (.ringPut hs)
  unfold State.adopt
  split
  · exact hs
  · exact hsave _ _ .parked
  · split
    · refine hsave _ _ fun hs => .startTask (.setTask (.pmcCount ?_))
      split
      next he => exact .of_unlinkTask hs he
      · exact hs
    · exact .owePage hs
    · exact .post (.startRefused hs)
    · exact .owePage hs
  split
  · exact hs
  dsimp only
  split
  · refine hsave _ _ fun hu => ?_
    split
    next he => exact .updBlk (.of_saved (.takeChain (.setTask (.pmcCount hu))) he)
    · exact .owePage hs
    · exact .startKill (.ringPut hs)
  · exact .owePage hs
  · exact .startKill (.ringPut hs)

theorem Leaves.execAdoption (hs : s.Canon) : Leaves (execAdoption s) := by
  unfold Machine.execAdoption
  split
  · split
    · refine .ite (.updCd hs) ?_
      split
      · exact .countNoFrame (.updThread (.updCd hs))
      · exact .ite (.adopt (.ite hs (.updCd hs))) (.post (.ite hs (.updCd hs)))
    · exact hs
  · exact hs

theorem State.Canon.release {t : ThreadRef} (hs : s.Canon) : (s.release t).Canon := .updThread hs

theorem Leaves.execWake (hs : s.Canon) : Leaves (execWake s) := by
  unfold Machine.execWake
  split
  · split
    · exact State.Canon.ite (.release hs) hs
    refine .ite (.syncRows (.updPool hs)) ?_
    split
    · exact .offerWork (.syncPool (.updTask (.takeFresh hs)))
    · exact State.Canon.ite (.release hs) hs
    · exact hs
  · exact hs

theorem Leaves.execParkRetry (hs : s.Canon) : Leaves (execParkRetry s) := by
  unfold Machine.execParkRetry
  split
  · exact .updThread hs
  · exact hs

theorem Leaves.execLaunch {d a b : BitVec 7} (hs : s.Canon) : Leaves (execLaunch d a b s) := by
  unfold Machine.execLaunch
  refine .issue hs fun _ hs => .ite ?_ (.ite trivial (.ite trivial (.releaseAt hs ?_)))
  · split
    · exact hs
    · exact .answerWith hs
  · split
    · split
      · exact .answerWith hs
      dsimp only
      exact .ite (.answerWith (.pushPacket hs)) (.ite (State.Canon.imprecise (.countSeam hs)) (State.Canon.sendOrTake hs))
    · trivial
    · exact .ringPut hs

/-! ## Machine/SysRegs.lean -/

theorem State.Canon.fltReplay {die : Nat} {v : DWord} (hs : s.Canon) : (s.fltReplay die v).Canon := by
  unfold State.fltReplay
  extract_lets part s₁ asidOf homeOf s₂ due s₃ s₄ asked s₅ s₆
  have h₄ : s₄.Canon := .foldl (fun _ hs => .countDone hs) (show s₃.Canon from hs)
  have h₆ : s₆.Canon := .foldl (fun _ hs => .ite hs hs) (show s₅.Canon from h₄)
  exact h₆

theorem Leaves.execFltreplay (hs : s.Canon) : Leaves (execFltreplay s) := by
  unfold Machine.execFltreplay
  split
  · exact .fltReplay hs
  · exact hs

theorem State.Canon.writeHeat {m : Nat} {v : DWord} (hs : s.Canon) : (s.writeHeat m v).Canon := .updMd hs

theorem Leaves.execHeatctlClr (hs : s.Canon) : Leaves (execHeatctlClr s) := by
  unfold Machine.execHeatctlClr
  split
  · exact .updMd hs
  · exact hs

theorem State.Canon.timeStep {n : Word} (hs : s.Canon) : (s.timeStep n).Canon := .ite hs (.advanceTime hs)

theorem Leaves.execTimeStep (hs : s.Canon) : Leaves (execTimeStep s) := by
  unfold Machine.execTimeStep
  split
  · exact .timeStep hs
  · exact hs

theorem State.Canon.writeCd {d n : Nat} {v : DWord} (hs : s.Canon) : (s.writeCd d n v).Canon :=
  .ite (.ite (.updCd hs) hs) (.ite (.postAll hs) (.ite (.ite (.setCdReg hs) hs)
    (.ite (.ringDrain (.setCdReg hs)) (.ite (.fltReplay hs) (.ite (.preempt hs)
      (.ite (.resume hs) (.ite (.post (.setCdReg hs)) (.ite (.ringBell hs) (.ite (.setCdReg hs) hs)))))))))

theorem State.Canon.writeMd {m n : Nat} {v : DWord} (hs : s.Canon) : (s.writeMd m n v).Canon :=
  .ite (.postAll hs) (.ite (.writeHeat hs) (.ite (.updMd hs) hs))

theorem State.Canon.writePartcmd {v : DWord} (hs : s.Canon) : (s.writePartcmd v).Canon := by
  unfold State.writePartcmd
  refine .ite hs ?_
  split
  · exact .post (.setPkg hs)
  · exact hs

theorem State.Canon.writePkg {n : Nat} {v : DWord} (hs : s.Canon) : (s.writePkg n v).Canon :=
  .ite (.setPkg hs) (.ite (.setPkg hs) (.ite (.writePartcmd hs)
    (.ite (.ite (.setPkg hs) hs) (.ite (.ite (.setPkg hs) hs) (.ite (.timeStep (.setPkg hs)) hs)))))

theorem State.Canon.writeReg {r : RegPlace} {v : DWord} (hs : s.Canon) : (s.writeReg r v).Canon := by
  unfold State.writeReg
  split
  · exact .writeCd hs
  · exact .writeMd hs
  · exact .writePkg hs
  · exact .updCore hs
  · exact .updCore hs
  · exact .updCd hs

theorem Leaves.execRegisterWrite (hs : s.Canon) : Leaves (execRegisterWrite s) := by
  unfold Machine.execRegisterWrite
  split
  · exact State.Canon.ite (.writeReg hs) hs
  · exact hs

theorem State.Canon.csrWrite {c : Ctx} {n : Nat} {v : DWord} (hs : s.Canon) : (csrWrite s c n v).Canon :=
  .ite (.updThread hs) (.ite (.updThread hs) (.ite hs (.ite (.foldl (fun _ hs => .writeHeat hs) hs) (.writeReg hs))))

/-! ## Machine/Control.lean -/

theorem State.Canon.hostRead {pa len : Nat} (hs : s.Canon) : (s.hostRead pa len).Canon :=
  .emit (.foldl_snd_snd (fun _ hs => .addPoison (.foldl (fun _ hs => .report hs) (.homeRead (.homeWatch hs)))) hs)

theorem State.Canon.keepRes (hs : s.Canon) : s.keepRes.Canon := .foldl (fun _ hs => .markQueues hs) hs

theorem State.Canon.hostWrite {pa : Nat} {data : List Byte} {poisoned : Bool} (hs : s.Canon) :
    (s.hostWrite pa data poisoned).Canon :=
  .keepRes (.foldl (fun _ hs => .ite (.addPoison (.homeWrite (.homeWatch hs))) (.homeWrite (.homeWatch hs))) hs)

theorem State.Canon.hostAtomic {op : MemOp} {ty : ElemTy} {pa : Nat} {v c : DWord} (hs : s.Canon) :
    (s.hostAtomic op ty pa v c).Canon := by
  unfold State.hostAtomic
  extract_lets +onlyGivenNames size
  split
  · refine .ite ?_ hs
    extract_lets +onlyGivenNames r
    split
    next he => exact .emit (.of_snd (.performAccess hs) he)
  · exact hs

theorem State.Canon.mailPut {off : Nat} {data : List Byte} (hs : s.Canon) : (s.mailPut off data).Canon :=
  .ite (.post (.setPkg hs)) (.setPkg hs)

theorem State.Canon.takeDirty {m chunk : Nat} (hs : s.Canon) : (s.takeDirty m chunk).Canon := .emit (.updMd hs)

theorem State.Canon.readBulk {x : BulkPlace} (hs : s.Canon) : (s.readBulk x).Canon := by
  unfold State.readBulk
  split
  · exact .emit hs
  · exact .emit hs
  · exact .takeDirty hs
  · exact .emit hs

theorem State.Canon.bar0Read {off len : Nat} (hs : s.Canon) : (s.bar0Read off len).Canon := by
  unfold State.bar0Read
  refine .ite ?_ ?_
  · split
    · exact .ite (.readBulk hs) hs
    · exact .emit hs
  · split
    · exact .ite (.emit hs) hs
    · exact .emit hs

theorem State.Canon.bar0Write {off : Nat} {v : DWord} (hs : s.Canon) : (s.bar0Write off v).Canon := by
  unfold State.bar0Write
  split
  · exact .ite (.writeReg hs) hs
  · exact .ite (.hostClear hs) hs

theorem State.Canon.outsideWrite {k : Nat} {data : List Byte} {poisoned : Bool} (hs : s.Canon) :
    (s.outsideWrite k data poisoned).Canon :=
  .ite (.addPoison (.putAll hs)) (.putAll hs)

theorem Leaves.execHostAccess (hs : s.Canon) : Leaves (execHostAccess s) := by
  unfold Machine.execHostAccess
  split
  · split
    · exact State.Canon.ite hs (.ite (.post hs) (.hostRead hs))
    · exact State.Canon.ite hs (.ite (.post hs) (.hostWrite hs))
    · exact State.Canon.ite hs (.ite (.post hs) (.hostAtomic hs))
    · exact State.Canon.ite (.emit hs) hs
    · exact State.Canon.ite hs (.readBulk hs)
    · exact State.Canon.ite hs (.readBulk hs)
    · exact State.Canon.ite hs (.readBulk hs)
    · exact .bar0Read hs
    · exact .bar0Write hs
    · exact hs
    · exact hs
    · exact .mailPut hs
    · exact .outsideWrite hs
    · exact .outsideWrite hs
    next die ix _ =>
      cases h : s.poolAt die ix with
      | none => exact hs
      | some x => exact State.Canon.killPool hs
  · exact hs

theorem Leaves.execDirtyBitmapReadClear (hs : s.Canon) : Leaves (execDirtyBitmapReadClear s) := by
  unfold Machine.execDirtyBitmapReadClear
  split
  · exact State.Canon.ite hs (.takeDirty hs)
  · exact hs

theorem State.Canon.retryHeld {m : Nat} {held : List (Nat × List Byte × Option ThreadRef)} (hs : s.Canon) :
    (s.retryHeld m held).Canon :=
  .advanceAll (.foldl (fun _ hs => .perform hs) (.updMd (.foldl (fun _ hs => .settleWrite hs) hs)))

theorem Leaves.execChunkDescriptorWrite (hs : s.Canon) : Leaves (execChunkDescriptorWrite s) := by
  unfold Machine.execChunkDescriptorWrite
  split
  · exact .ite hs (.retryHeld (.updMd hs))
  · exact hs

theorem State.Canon.partEnd {res : Nat} (hs : s.Canon) : (s.partEnd res).Canon := .setPkg hs

theorem Leaves.execQuiesce (hs : s.Canon) : Leaves (execQuiesce s) := by
  unfold Machine.execQuiesce
  split
  · exact .ite (.partEnd hs) (.ite (.partEnd hs) (.partEnd (.setPkg (.foldl (fun _ hs => .updCd hs) hs))))
  · exact hs

theorem State.Canon.applyStaged {d : Nat} (hs : s.Canon) : (s.applyStaged d).Canon := by
  have hregs : ((s.cd d).staged.foldl (fun s x => s.setCdReg d x.1 x.2) s).Canon := .foldl (fun _ hs => hs) hs
  exact hregs

theorem Leaves.execCommit (hs : s.Canon) : Leaves (execCommit s) := by
  unfold Machine.execCommit
  split
  · refine .ite (.partEnd hs) ?_
    split
    · exact .partEnd hs
    · exact .ite (.partEnd (.foldl (fun _ hs => .updMd hs) (.foldl (fun _ hs => .l2Drop hs) hs)))
        (.partEnd (.setPkg (.foldl (fun _ hs => .applyStaged hs)
          (.foldl (fun _ hs => .updMd hs) (.foldl (fun _ hs => .l2Drop hs) hs)))))
  · exact hs

theorem State.Canon.unquiet {cols : BitVec 4} (hs : s.Canon) : (s.unquiet cols).Canon :=
  .offerAll (.post (.setPkg (.foldl (fun _ hs => .post (.updCd hs)) hs)))

theorem Leaves.execRelease (hs : s.Canon) : Leaves (execRelease s) := by
  unfold Machine.execRelease
  split
  · exact .ite (.partEnd hs) (.partEnd (.unquiet hs))
  · exact hs

theorem Leaves.execAbort (hs : s.Canon) : Leaves (execAbort s) := by
  unfold Machine.execAbort
  split
  · exact .ite (.partEnd hs) (.partEnd (.unquiet hs))
  · exact hs

theorem State.Canon.bootWrite {f : Pkg → Pkg} (hs : s.Canon) : (s.bootWrite f).Canon := .setPkg hs

theorem State.Canon.cutWrite (hs : s.Canon) : s.cutWrite.Canon := .setPkg hs

theorem State.Canon.stopped {ph : Phase} (hs : s.Canon) : (s.stopped ph).Canon := Cells.wf_filter _ hs

theorem Leaves.execFundamentalReset (hs : s.Canon) : Leaves (execFundamentalReset s) := by
  unfold Machine.execFundamentalReset
  split
  · exact .stopped hs
  · exact hs

theorem Leaves.execPowerLoss (hs : s.Canon) : Leaves (execPowerLoss s) := by
  unfold Machine.execPowerLoss
  split
  · exact .stopped (.ite (.cutWrite (.takeFree hs)) (.takeFree hs))
  · exact hs

theorem State.Canon.startFail {reason unit : Nat} (hs : s.Canon) : (s.startFail reason unit).Canon :=
  .setPkg (.bootWrite (.stopped hs))

theorem Leaves.execThermalTrip (hs : s.Canon) : Leaves (execThermalTrip s) := by
  unfold Machine.execThermalTrip
  split
  · exact .setPkg (.bootWrite (.stopped hs))
  · exact hs

theorem State.Canon.startFirst {i : StartInputs} (hs : s.Canon) : (s.startFirst i).Canon :=
  .ite (.bootWrite (.ite (.bootWrite hs) hs)) (.startFail (.bootWrite (.ite (.bootWrite hs) hs)))

theorem State.Canon.startVerify {i : StartInputs} (hs : s.Canon) : (s.startVerify i).Canon :=
  .ite (.startFail hs) (.ite (.startFail hs) (.ite (.startFail hs) (.setPkg (.bootWrite hs))))

theorem State.Canon.startSelf {i : StartInputs} (hs : s.Canon) : (s.startSelf i).Canon := by
  unfold State.startSelf
  refine .ite (.ite (.startFail hs) (.ite (.startFail hs) hs)) ?_
  split
  · exact .startFail hs
  · exact .ite (.startFail hs) (.ite (.startFail hs) hs)

theorem State.Canon.trainLinks {ls : List (DieId × DieId)} (hs : s.Canon) : (s.trainLinks ls).Canon :=
  .foldl (fun _ hs => .foldl (fun _ hs => .toL0 hs) hs) hs

theorem State.Canon.startTrain {i : StartInputs} (hs : s.Canon) : (s.startTrain i).Canon := by
  unfold State.startTrain
  extract_lets
  split
  · exact .startFail hs
  · exact .startFail hs
  · exact .ite (.trainLinks hs) (.trainLinks hs)

theorem State.Canon.startInit (hs : s.Canon) : s.startInit.Canon :=
  .ite (.setCdReg (.setCdReg (.setCdReg (.setCdReg (.setPkg hs))))) (.setPkg hs)

theorem State.Canon.startReady (hs : s.Canon) : s.startReady.Canon := .emit (.setPkg (.bootWrite hs))

theorem Leaves.execStart (hs : s.Canon) : Leaves (execStart s) := by
  unfold Machine.execStart
  split
  · refine .ite hs (State.Canon.ite ?_ ?_)
    · refine .post ?_
      split
      · exact .startFirst (.setPkg hs)
      · exact .startVerify (.setPkg hs)
      · exact .startSelf (.setPkg hs)
      · exact .startTrain (.setPkg hs)
      · exact .startInit (.setPkg hs)
      · exact .startReady hs
    · split
      · exact .startFirst (.setPkg hs)
      · exact .startVerify (.setPkg hs)
      · exact .startSelf (.setPkg hs)
      · exact .startTrain (.setPkg hs)
      · exact .startInit (.setPkg hs)
      · exact .startReady hs
  · exact hs

theorem Leaves.execStartStepTimeout (hs : s.Canon) : Leaves (execStartStepTimeout s) := by
  unfold Machine.execStartStepTimeout
  split
  · exact State.Canon.ite (.startFail hs) hs
  · exact hs

theorem State.Canon.mailEnd {st : Nat} (hs : s.Canon) : (s.mailEnd st).Canon := .emit (.setPkg hs)

theorem State.Canon.mail {f : State → State} (hs : s.Canon) (hf : ∀ {a : State}, a.Canon → (f a).Canon) : (s.mail f).Canon :=
  .ite (.emit (.setPkg hs)) (hf hs)

theorem Leaves.execRestart (hs : s.Canon) : Leaves (execRestart s) := by
  unfold Machine.execRestart
  split
  · exact .mailEnd (.setPkg (.stopped hs))
  · exact hs

theorem Leaves.execClearfail (hs : s.Canon) : Leaves (execClearfail s) := by
  unfold Machine.execClearfail
  split
  · exact .mail hs fun hs => .mailEnd (.bootWrite hs)
  · exact hs

theorem Leaves.execAttest (hs : s.Canon) : Leaves (execAttest s) := by
  unfold Machine.execAttest
  split
  · exact .ite (.ite (.mailEnd (.putAll hs)) hs) (.mail hs (fun hs => .ite (.mailEnd hs) (.post (.setPkg hs))))
  · exact hs

theorem Leaves.execGetcert (hs : s.Canon) : Leaves (execGetcert s) := by
  unfold Machine.execGetcert
  split
  · exact .mail hs fun hs => .ite (.mailEnd hs) (.mailEnd (.putAll hs))
  · exact hs

theorem Leaves.execRaisefloor (hs : s.Canon) : Leaves (execRaisefloor s) := by
  unfold Machine.execRaisefloor
  split
  · exact .mail hs fun hs => .ite (.mailEnd hs) (.mailEnd (.setPkg hs))
  · exact hs

theorem Leaves.execBadCommand (hs : s.Canon) : Leaves (execBadCommand s) := by
  unfold Machine.execBadCommand
  split
  · exact .mail hs fun hs => .mailEnd hs
  · exact hs

theorem Leaves.execPowerWindow (hs : s.Canon) : Leaves (execPowerWindow s) := by
  unfold Machine.execPowerWindow
  split
  · exact .setPkg (.takeFree hs)
  · exact hs

/-! ## Machine/FloatOps.lean -/

theorem Leaves.floatOp {i : Instr} {sp : Spec} {ty : BitVec 2} {d : BitVec 7} {ops : List (BitVec 7)}
    {f : Fmt → Nat → List Nat → Nat × Nat} (hs : s.Canon) : Leaves (floatOp i sp ty d ops f s) := by
  unfold Machine.floatOp
  exact .issue hs fun _ hs => .addFlags hs

theorem Leaves.execFadd {d a b : BitVec 7} {ty : BitVec 2} (hs : s.Canon) : Leaves (execFadd d a b ty s) := by
  unfold Machine.execFadd
  exact .floatOp hs

theorem Leaves.execFsub {d a b : BitVec 7} {ty : BitVec 2} (hs : s.Canon) : Leaves (execFsub d a b ty s) := by
  unfold Machine.execFsub
  exact .floatOp hs

theorem Leaves.execFmul {d a b : BitVec 7} {ty : BitVec 2} (hs : s.Canon) : Leaves (execFmul d a b ty s) := by
  unfold Machine.execFmul
  exact .floatOp hs

theorem Leaves.execFfma {d a b : BitVec 7} {ty : BitVec 2} (hs : s.Canon) : Leaves (execFfma d a b ty s) := by
  unfold Machine.execFfma
  exact .floatOp hs

theorem Leaves.execFmin {d a b : BitVec 7} {ty : BitVec 2} (hs : s.Canon) : Leaves (execFmin d a b ty s) := by
  unfold Machine.execFmin
  exact .floatOp hs

theorem Leaves.execFmax {d a b : BitVec 7} {ty : BitVec 2} (hs : s.Canon) : Leaves (execFmax d a b ty s) := by
  unfold Machine.execFmax
  exact .floatOp hs

theorem Leaves.execFabs {d a : BitVec 7} {ty : BitVec 2} (hs : s.Canon) : Leaves (execFabs d a ty s) := by
  unfold Machine.execFabs
  exact .floatOp hs

theorem Leaves.execFneg {d a : BitVec 7} {ty : BitVec 2} (hs : s.Canon) : Leaves (execFneg d a ty s) := by
  unfold Machine.execFneg
  exact .floatOp hs

theorem Leaves.execFdivF32 {d a b : BitVec 7} {la : BitVec 4} (hs : s.Canon) : Leaves (execFdivF32 d a b la s) := by
  unfold Machine.execFdivF32
  exact .floatOp hs

theorem Leaves.execFdivF64 {d a b : BitVec 7} {la : BitVec 4} (hs : s.Canon) : Leaves (execFdivF64 d a b la s) := by
  unfold Machine.execFdivF64
  exact .floatOp hs

theorem Leaves.execFscale {d a b : BitVec 7} {ty : BitVec 2} (hs : s.Canon) : Leaves (execFscale d a b ty s) := by
  unfold Machine.execFscale
  exact .issue hs fun _ hs => .addFlags hs

theorem Leaves.execFrnd {d a : BitVec 7} {ty : BitVec 2} (hs : s.Canon) : Leaves (execFrnd d a ty s) := by
  unfold Machine.execFrnd
  exact .floatOp hs

theorem Leaves.execFcmp {cond : BitVec 4} {k : BitVec 3} {a b : BitVec 7} {ty : BitVec 2} (hs : s.Canon) :
    Leaves (execFcmp cond k a b ty s) := by
  unfold Machine.execFcmp
  exact .issue hs fun _ hs => .setK (.addFlags hs)

theorem Leaves.rootOp {i : Instr} {d a : BitVec 7} {ty : BitVec 2} {la : BitVec 4} {f : Fmt → Nat → FVal → Nat × Nat}
    (hs : s.Canon) : Leaves (rootOp i d a ty la f s) := by
  unfold Machine.rootOp
  exact .floatOp hs

theorem Leaves.execFrcp {d a : BitVec 7} {ty : BitVec 2} {la : BitVec 4} (hs : s.Canon) : Leaves (execFrcp d a ty la s) := by
  unfold Machine.execFrcp
  exact .rootOp hs

theorem Leaves.execFrsq {d a : BitVec 7} {ty : BitVec 2} {la : BitVec 4} (hs : s.Canon) : Leaves (execFrsq d a ty la s) := by
  unfold Machine.execFrsq
  exact .rootOp hs

theorem Leaves.execFsqrt {d a : BitVec 7} {ty : BitVec 2} {la : BitVec 4} (hs : s.Canon) :
    Leaves (execFsqrt d a ty la s) := by
  unfold Machine.execFsqrt
  exact .rootOp hs

theorem Leaves.execFexp2 {d a : BitVec 7} {ty : BitVec 2} {la : BitVec 4} (hs : s.Canon) :
    Leaves (execFexp2 d a ty la s) := by
  unfold Machine.execFexp2
  exact .rootOp hs

theorem Leaves.execFlog2 {d a : BitVec 7} {ty : BitVec 2} {la : BitVec 4} (hs : s.Canon) :
    Leaves (execFlog2 d a ty la s) := by
  unfold Machine.execFlog2
  exact .rootOp hs

theorem Leaves.execFsin {d a : BitVec 7} {ty : BitVec 2} {la : BitVec 4} (hs : s.Canon) : Leaves (execFsin d a ty la s) := by
  unfold Machine.execFsin
  exact .rootOp hs

theorem Leaves.execFcos {d a : BitVec 7} {ty : BitVec 2} {la : BitVec 4} (hs : s.Canon) : Leaves (execFcos d a ty la s) := by
  unfold Machine.execFcos
  exact .rootOp hs

/-! ## Machine/FormatOps.lean -/

theorem Leaves.execFcvt {d a : BitVec 7} {sat : BitVec 1} {dfmt sfmt : BitVec 4} (hs : s.Canon) :
    Leaves (execFcvt d a sat dfmt sfmt s) := by
  unfold Machine.execFcvt
  exact .issue hs fun _ hs => .addFlags hs

theorem Leaves.execIcvt {d a : BitVec 7} {dfmt : BitVec 4} {ty : BitVec 3} (hs : s.Canon) :
    Leaves (execIcvt d a dfmt ty s) := by
  unfold Machine.execIcvt
  exact .issue hs fun _ hs => .addFlags hs

theorem Leaves.execFtoi {d a : BitVec 7} {ty : BitVec 3} {sfmt : BitVec 4} (hs : s.Canon) :
    Leaves (execFtoi d a ty sfmt s) := by
  unfold Machine.execFtoi
  exact .issue hs fun _ hs => .addFlags hs

/-! ## Machine/Engines.lean -/

theorem State.Canon.enterEngine {c : Ctx} {eng : Engine} {held : List (Nat × Nat × Nat)} {o : EngineOp} (hs : s.Canon) :
    (s.enterEngine c eng held o).Canon :=
  .post (.updCore (.updBlk (.takeFresh hs)))

theorem Res.Canon.enqueue {c : Ctx} {eng : Engine} {needs : List (Nat × Nat)} {held : List (Nat × Nat × Nat)}
    {o : EngineOp} (hs : s.Canon) : (enqueue c s eng needs held o).Canon := by
  unfold Machine.enqueue
  split
  · exact hs
  · exact .ite hs (.enterEngine hs)

theorem State.Canon.putTile {bk t : Nat} {dirty : Bool} {f : Nat → Nat → Nat} (hs : s.Canon) :
    (s.putTile bk t dirty f).Canon :=
  .updBlk hs

theorem State.Canon.putScratch {bk pos : Nat} {bs : List Byte} (hs : s.Canon) : (s.putScratch bk pos bs).Canon := .updBlk hs

theorem State.Canon.engineFault {b : Block} {o : EngineOp} {unit code addr : Nat} (hs : s.Canon) :
    (s.engineFault b o unit code addr).Canon :=
  .postFault hs

theorem State.Canon.poisonFault {b : Block} {o : EngineOp} {unit : Nat} (hs : s.Canon) : (s.poisonFault b o unit).Canon := by
  unfold State.poisonFault
  extract_lets
  split
  · exact .engineFault (.foldl (fun _ hs => .engineFault hs) hs)
  · exact .foldl (fun _ hs => .engineFault hs) hs

theorem State.Canon.startWaiting {core : Nat} (hs : s.Canon) : (s.startWaiting core).Canon := .postAll hs

theorem Leaves.execEngineStart (hs : s.Canon) : Leaves (execEngineStart s) := by
  unfold Machine.execEngineStart
  split
  · split
    · exact hs
    refine .ite hs ?_
    split
    · exact hs
    · exact .post (.updCore (.updBlk hs))
  · exact hs

theorem State.Canon.leaveEngine {core : Nat} {eng : Engine} {o : EngineOp} (hs : s.Canon) :
    (s.leaveEngine core eng o).Canon :=
  .startWaiting (.updCore (.updBlk hs))

/-! ## Machine/Matrix.lean -/

theorem Res.Canon.productIssue {c : Ctx} {i : Instr} {t : BitVec 5} {d : DWord} {shape : Bool} {row k8 n : Nat}
    (hs : s.Canon) : (productIssue c s i t d shape row k8 n).Canon := by
  unfold Machine.productIssue
  refine .ite trivial ?_
  split
  · trivial
  · exact .enqueue hs

theorem Leaves.execMma {d : BitVec 5} {c : BitVec 7} {sat : BitVec 1} {la : BitVec 4} (hs : s.Canon) :
    Leaves (execMma d c sat la s) := by
  unfold Machine.execMma
  exact .issue hs fun _ hs => .productIssue hs

theorem Leaves.execMmas {d : BitVec 5} {c : BitVec 7} {la : BitVec 4} (hs : s.Canon) : Leaves (execMmas d c la s) := by
  unfold Machine.execMmas
  exact .issue hs fun _ hs => .productIssue hs

theorem Leaves.execMbp {d : BitVec 5} {c : BitVec 7} {mid sat : BitVec 1} {la : BitVec 4} (hs : s.Canon) :
    Leaves (execMbp d c mid sat la s) := by
  unfold Machine.execMbp
  exact .issue hs fun _ hs => .productIssue hs

theorem Leaves.execMtrn {d src : BitVec 5} {la : BitVec 4} (hs : s.Canon) : Leaves (execMtrn d src la s) := by
  unfold Machine.execMtrn
  exact .issue hs fun _ hs => .ite trivial (.enqueue hs)

theorem Leaves.execMperm {d src : BitVec 5} {c : BitVec 7} {la : BitVec 4} (hs : s.Canon) :
    Leaves (execMperm d src c la s) := by
  unfold Machine.execMperm
  refine .issue hs fun _ hs => .ite trivial ?_
  split
  · trivial
  · exact .enqueue hs

theorem Leaves.execMrsum {d src : BitVec 5} {c : BitVec 7} {la : BitVec 4} (hs : s.Canon) :
    Leaves (execMrsum d src c la s) := by
  unfold Machine.execMrsum
  exact .issue hs fun _ hs => .ite trivial (.enqueue hs)

theorem Leaves.execMzero {d : BitVec 5} {la : BitVec 4} (hs : s.Canon) : Leaves (execMzero d la s) := by
  unfold Machine.execMzero
  exact .issue hs fun _ hs => .ite trivial (.ite trivial (.enqueue hs))

theorem Leaves.execMld {d n : BitVec 5} {c : BitVec 7} {la : BitVec 4} (hs : s.Canon) : Leaves (execMld d n c la s) := by
  unfold Machine.execMld
  refine .issue hs fun _ hs => .ite trivial ?_
  split
  · trivial
  · exact .ite trivial (.enqueue hs)

theorem Leaves.execMst {n src : BitVec 5} {c : BitVec 7} {la : BitVec 4} (hs : s.Canon) : Leaves (execMst n src c la s) := by
  unfold Machine.execMst
  refine .issue hs fun _ hs => .ite trivial ?_
  split
  · trivial
  · exact .enqueue hs

theorem Leaves.execMcpy {d src : BitVec 5} {la : BitVec 4} (hs : s.Canon) : Leaves (execMcpy d src la s) := by
  unfold Machine.execMcpy
  exact .issue hs fun _ hs => .ite trivial (.ite trivial (.enqueue hs))

theorem Leaves.execMcvt {n src : BitVec 5} {c : BitVec 7} {la : BitVec 4} (hs : s.Canon) :
    Leaves (execMcvt n src c la s) := by
  unfold Machine.execMcvt
  refine .issue hs fun _ hs => .ite trivial ?_
  split
  · trivial
  · exact .enqueue hs

/-- What MRDY answers once its phase has ended, or waits for. -/
theorem Leaves.execMrdy {b : BitVec 5} (hs : s.Canon) : Leaves (execMrdy b s) := by
  unfold Machine.execMrdy
  refine .issue hs fun c hs => ?_
  extract_lets settled
  have hsettled {r : Res} (hr : r.Canon) : (settled r).Canon := by
    unfold settled
    split
    · exact .ite hr hr
    · exact hr
  refine .ite hs (.ite (hsettled (.phaseWait hs)) ?_)
  split
  · trivial
  · exact .arriving hs fun _ hs => hsettled (.phaseWait hs)

theorem Leaves.execMwait {d : BitVec 5} (hs : s.Canon) : Leaves (execMwait d s) := by
  unfold Machine.execMwait
  exact .issue hs fun _ hs => .ite trivial (.ite hs (.updBlk hs))

theorem Leaves.execMstat {e : BitVec 5} {c : BitVec 7} {la : BitVec 4} (hs : s.Canon) : Leaves (execMstat e c la s) := by
  unfold Machine.execMstat
  exact .issue hs fun _ hs => hs

theorem State.Canon.putRows {b : Block} {o : EngineOp} {t : Nat} {f : Nat → Nat → Nat} (hs : s.Canon) :
    (s.putRows b o t f).Canon :=
  .poisonFault (.putTile hs)

theorem State.Canon.matrixDone {b : Block} {o : EngineOp} (hs : s.Canon) : (s.matrixDone b o).Canon := by
  unfold State.matrixDone
  split
  next u he =>
    have hu : u.Canon := .of_snd (.takeFree hs) he
    extract_lets
    split
    · exact .putRows hu
    · exact .putRows hu
    · exact .putRows hu
    · exact .putTile hu
    · exact .putRows hu
    · exact .putTile hu
    · exact .foldl (fun _ hs => .putScratch hs) hu
    · exact .foldl (fun _ hs => .putScratch hs) hu
    · exact .putTile hu
    · exact .putRows hu
    · exact .putTile hu
    · exact hu

/-! ## Machine/Rank.lean -/

theorem Leaves.execRank {d src : BitVec 5} {c : BitVec 7} {ty : BitVec 2} {la : BitVec 4} (hs : s.Canon) :
    Leaves (execRank d src c ty la s) := by
  unfold Machine.execRank
  refine .issue hs fun _ hs => .ite trivial ?_
  split
  · trivial
  · exact .ite trivial (.enqueue hs)

theorem Leaves.execRmma {d src : BitVec 5} {c : BitVec 7} {tie : BitVec 1} {la : BitVec 4} (hs : s.Canon) :
    Leaves (execRmma d src c tie la s) := by
  unfold Machine.execRmma
  refine .issue hs fun _ hs => .ite trivial (.ite trivial (.ite trivial ?_))
  split
  · trivial
  · exact .enqueue hs

theorem Leaves.execRtv {d src : BitVec 5} {c : BitVec 7} {la : BitVec 4} (hs : s.Canon) : Leaves (execRtv d src c la s) := by
  unfold Machine.execRtv
  refine .issue hs fun _ hs => .ite trivial ?_
  split
  · trivial
  · exact .enqueue hs

theorem Leaves.execRlst {d src : BitVec 5} {c : BitVec 7} {la : BitVec 4} (hs : s.Canon) :
    Leaves (execRlst d src c la s) := by
  unfold Machine.execRlst
  refine .issue hs fun _ hs => .ite trivial (.ite trivial ?_)
  split
  · trivial
  refine .ite trivial ?_
  split
  · exact hs
  · exact .afterOwn hs fun hs => .startCopy (.takeFresh hs)

theorem Res.Canon.tableIssue {x : Ctx} {i : Instr} {eng : Engine} {src : BitVec 5} {m : DWord} (hs : s.Canon) :
    (tableIssue x s i eng src m).Canon := by
  unfold Machine.tableIssue
  refine .ite trivial ?_
  split
  · trivial
  · exact .enqueue hs

theorem Res.Canon.markUsed {t : ThreadRef} {f : Block → Block} {r : Res} (hs : r.Canon) : (markUsed t f r).Canon := by
  unfold Machine.markUsed
  split
  · exact .updBlk hs
  · exact hs

theorem Leaves.execRatl {src : BitVec 5} {c : BitVec 7} {la : BitVec 4} (hs : s.Canon) : Leaves (execRatl src c la s) := by
  unfold Machine.execRatl
  exact .issue hs fun _ hs => .markUsed (.tableIssue hs)

theorem Leaves.execRrcl {src : BitVec 5} {c : BitVec 7} {la : BitVec 4} (hs : s.Canon) : Leaves (execRrcl src c la s) := by
  unfold Machine.execRrcl
  exact .issue hs fun _ hs => .markUsed (.tableIssue hs)

theorem State.Canon.rankDone {b : Block} {o : EngineOp} {ty : BitVec 2} (hs : s.Canon) : (s.rankDone b o ty).Canon :=
  .ite (.poisonFault (.putScratch (.takeFree hs))) (.putScratch hs)

theorem State.Canon.rmmaDone {core : Nat} {b : Block} {o : EngineOp} {d : Nat} {split : Bool} (hs : s.Canon) :
    (s.rmmaDone core b o d split).Canon :=
  .poisonFault (.foldl (fun _ hs => .engineFault hs) (.putTile hs))

theorem State.Canon.rtvDone {core : Nat} {b : Block} {o : EngineOp} (hs : s.Canon) : (s.rtvDone core b o).Canon := by
  unfold State.rtvDone
  refine .ite (.poisonFault (.putScratch (.takeFree hs))) ?_
  split
  · exact .ite (.engineFault (.putScratch hs)) (.putScratch hs)
  · exact .engineFault (.putScratch hs)

theorem Leaves.execEngineComplete (hs : s.Canon) : Leaves (execEngineComplete s) := by
  unfold Machine.execEngineComplete
  split
  · split
    · exact hs
    split
    · exact hs
    refine State.Canon.leaveEngine ?_
    split
    · exact .rankDone hs
    · exact .rmmaDone hs
    · exact .rtvDone hs
    · exact .poisonFault (.updCore hs)
    · exact .poisonFault (.updCore hs)
    · exact .matrixDone hs
  · exact hs

/-! ## Machine/SysOps.lean -/

theorem Leaves.execWin {k : BitVec 11} (hs : s.Canon) : Leaves (execWin k s) := by
  unfold Machine.execWin
  exact .issue hs fun _ hs => .ite trivial (.updWarp (.ite_snd (.takeFree hs) hs))

theorem Leaves.execSwin {b : BitVec 2} (hs : s.Canon) : Leaves (execSwin b s) := by
  unfold Machine.execSwin
  exact .issue hs fun _ hs => .updFront hs

theorem Leaves.execYset {n : BitVec 3} {a : BitVec 7} (hs : s.Canon) : Leaves (execYset n a s) := by
  unfold Machine.execYset
  exact .issue hs fun _ hs => .releasing hs (.updBlk hs)

theorem Res.Canon.settled {c : Ctx} {r : Res} (hs : s.Canon) (hr : r.Canon) : (settled c s r).Canon := .ite hr hs

theorem Leaves.execSetf {a b : BitVec 7} (hs : s.Canon) : Leaves (execSetf a b s) := by
  unfold Machine.execSetf
  exact .issue hs fun _ hs => .settled hs (.ite (.updThread hs) trivial)

theorem Leaves.execGetf {d : BitVec 7} (hs : s.Canon) : Leaves (execGetf d s) := by
  unfold Machine.execGetf
  exact .issue hs fun _ hs => .settled hs hs

theorem Leaves.execFlags {d a : BitVec 7} (hs : s.Canon) : Leaves (execFlags d a s) := by
  unfold Machine.execFlags
  exact .issue hs fun _ hs => .settled hs (.updThread hs)

theorem Leaves.execCsrr {d : BitVec 7} {n : BitVec 12} (hs : s.Canon) : Leaves (execCsrr d n s) := by
  unfold Machine.execCsrr
  exact .issue hs fun _ hs => .settled hs hs

theorem Leaves.csrw {i : Instr} {d : BitVec 7} {n : BitVec 12} {f : DWord → DWord → DWord} (hs : s.Canon) :
    Leaves (csrw i d n f s) := by
  unfold Machine.csrw
  exact .issue hs fun _ hs => .settled hs (.csrWrite hs)

theorem Leaves.execCsrw {d : BitVec 7} {n : BitVec 12} (hs : s.Canon) : Leaves (execCsrw d n s) := by
  unfold Machine.execCsrw
  exact .csrw hs

theorem Leaves.execCsrwSet {d : BitVec 7} {n : BitVec 12} (hs : s.Canon) : Leaves (execCsrwSet d n s) := by
  unfold Machine.execCsrwSet
  exact .csrw hs

theorem Leaves.execCsrwClr {d : BitVec 7} {n : BitVec 12} (hs : s.Canon) : Leaves (execCsrwClr d n s) := by
  unfold Machine.execCsrwClr
  exact .csrw hs

theorem Leaves.execLwake {a : BitVec 7} (hs : s.Canon) : Leaves (execLwake a s) := by
  unfold Machine.execLwake
  exact .issue hs fun _ hs => .ite trivial (State.Canon.ite (.wakeRoute hs) hs)

theorem State.Canon.tlbInvalidate {die typ : Nat} {asid : BitVec 16} {va len : Nat} (hs : s.Canon) :
    (s.tlbInvalidate die typ asid va len).Canon :=
  .foldl (fun _ hs => .l1Back hs) hs

theorem Leaves.execTlbinv {a b : BitVec 7} (hs : s.Canon) : Leaves (execTlbinv a b s) := by
  unfold Machine.execTlbinv
  exact .issue hs fun _ hs => .ite trivial (.ite trivial (.ite hs (.tlbInvalidate hs)))

/-! ## Machine/Dispatch.lean -/

theorem Leaves.exec {i : Instr} (hs : s.Canon) : Leaves (exec i s) := by
  cases i with
  | add | sub | addi | neg | abs | mul | mulh | mulhn | mad | madw | min | max | minn | maxn | and | or | xor | andn
  | not | shl | shr | sar | rot | shli | shri | sari | bfx | bfxn | bfi | popc | clz | ctz | brev | mov | movi | movh
  | sel | lea | fclass | pack | unpk | bpsplit | bpjoin | bpdot | kget | ksave | exmget | shflIdx | shflUp | shflDn
  | shflXor | voteAny | voteAll | voteBal | rds | rginfo | dqpop | cntRd | time | winw => exact .issueRegs hs
  | div => exact .execDiv hs
  | divn => exact .execDivn hs
  | rem => exact .execRem hs
  | remn => exact .execRemn hs
  | cmp => exact .execCmp hs
  | cmpi => exact .execCmpi hs
  | fadd => exact .execFadd hs
  | fsub => exact .execFsub hs
  | fmul => exact .execFmul hs
  | ffma => exact .execFfma hs
  | fmin => exact .execFmin hs
  | fmax => exact .execFmax hs
  | fabs => exact .execFabs hs
  | fneg => exact .execFneg hs
  | fcmp => exact .execFcmp hs
  | frcp => exact .execFrcp hs
  | frsq => exact .execFrsq hs
  | fsqrt => exact .execFsqrt hs
  | fexp2 => exact .execFexp2 hs
  | flog2 => exact .execFlog2 hs
  | fsin => exact .execFsin hs
  | fcos => exact .execFcos hs
  | fdivF32 => exact .execFdivF32 hs
  | fdivF64 => exact .execFdivF64 hs
  | fscale => exact .execFscale hs
  | frnd => exact .execFrnd hs
  | fcvt => exact .execFcvt hs
  | icvt => exact .execIcvt hs
  | ftoi => exact .execFtoi hs
  | kand => exact .execKand hs
  | kor => exact .execKor hs
  | kxor => exact .execKxor hs
  | kandn => exact .execKandn hs
  | knot => exact .execKnot hs
  | kmov => exact .execKmov hs
  | kset => exact .execKset hs
  | krest => exact .execKrest hs
  | exmset => exact .execExmset hs
  | bra => exact .execBra hs
  | brd => exact .execBrd hs
  | rcv => exact .execRcv hs
  | call => exact .execCall hs
  | ret => exact .execRet hs
  | jmpi => exact .execJmpi hs
  | exit => exact .execExit hs
  | nop => exact .execNop hs
  | bru => exact .execBru hs
  | win => exact .execWin hs
  | setf => exact .execSetf hs
  | getf => exact .execGetf hs
  | flags => exact .execFlags hs
  | yset => exact .execYset hs
  | swin => exact .execSwin hs
  | csrr => exact .execCsrr hs
  | csrw => exact .execCsrw hs
  | csrwSet => exact .execCsrwSet hs
  | csrwClr => exact .execCsrwClr hs
  | lwake => exact .execLwake hs
  | tlbinv => exact .execTlbinv hs
  | ld32 => exact .execLd32 hs
  | ld64 => exact .execLd64 hs
  | ldI8 => exact .execLdI8 hs
  | ldN8 => exact .execLdN8 hs
  | ldI16 => exact .execLdI16 hs
  | ldN16 => exact .execLdN16 hs
  | st32 => exact .execSt32 hs
  | st64 => exact .execSt64 hs
  | st8 => exact .execSt8 hs
  | st16 => exact .execSt16 hs
  | ldn => exact .execLdn hs
  | stn => exact .execStn hs
  | ldbp => exact .execLdbp hs
  | stbe => exact .execStbe hs
  | cpy => exact .execCpy hs
  | cpyg => exact .execCpyg hs
  | xst => exact .execXst hs
  | dupd => exact .execDupd hs
  | pref => exact .execPref hs
  | res => exact .execRes hs
  | pwait => exact .execPwait hs
  | borrow => exact .execBorrow hs
  | reborrowS => exact .execReborrowS hs
  | reborrowE => exact .execReborrowE hs
  | split => exact .execSplit hs
  | share => exact .execShare hs
  | give => exact .execGive hs
  | join => exact .execJoin hs
  | returnR => exact .execReturnR hs
  | rgmov => exact .execRgmov hs
  | rgclr => exact .execRgclr hs
  | rgclrTaint => exact .execRgclrTaint hs
  | atomAdd => exact .execAtomAdd hs
  | atomFadd => exact .execAtomFadd hs
  | atomSwap => exact .execAtomSwap hs
  | atomCas => exact .execAtomCas hs
  | atomAnd => exact .execAtomAnd hs
  | atomOr => exact .execAtomOr hs
  | atomXor => exact .execAtomXor hs
  | atomMin => exact .execAtomMin hs
  | atomMax => exact .execAtomMax hs
  | atomMinn => exact .execAtomMinn hs
  | atomMaxn => exact .execAtomMaxn hs
  | atomLd => exact .execAtomLd hs
  | atomSt => exact .execAtomSt hs
  | redAdd => exact .execRedAdd hs
  | redFadd => exact .execRedFadd hs
  | redMin => exact .execRedMin hs
  | redMax => exact .execRedMax hs
  | redFmin => exact .execRedFmin hs
  | redFmax => exact .execRedFmax hs
  | redAnd => exact .execRedAnd hs
  | redOr => exact .execRedOr hs
  | redXor => exact .execRedXor hs
  | redMinn => exact .execRedMinn hs
  | redMaxn => exact .execRedMaxn hs
  | fence => exact .execFence hs
  | mma => exact .execMma hs
  | mmas => exact .execMmas hs
  | mbp => exact .execMbp hs
  | mzero => exact .execMzero hs
  | mld => exact .execMld hs
  | mst => exact .execMst hs
  | mcpy => exact .execMcpy hs
  | mcvt => exact .execMcvt hs
  | mtrn => exact .execMtrn hs
  | mperm => exact .execMperm hs
  | mrsum => exact .execMrsum hs
  | mrdy => exact .execMrdy hs
  | mwait => exact .execMwait hs
  | mstat => exact .execMstat hs
  | rank => exact .execRank hs
  | rmma => exact .execRmma hs
  | rtv => exact .execRtv hs
  | rlst => exact .execRlst hs
  | ratl => exact .execRatl hs
  | rrcl => exact .execRrcl hs
  | tspawn => exact .execTspawn hs
  | tret => exact .execTret hs
  | fwait => exact .execFwait hs
  | ffill => exact .execFfill hs
  | fown => exact .execFown hs
  | lock => exact .execLock hs
  | unlock => exact .execUnlock hs
  | qpush => exact .execQpush hs
  | qpop => exact .execQpop hs
  | succ => exact .execSucc hs
  | launch => exact .execLaunch hs
  | yield => exact .execYield hs
  | dqpush => exact .execDqpush hs
  | srput => exact .execSrput hs
  | srwaitC => exact .execSrwaitC hs
  | srwaitP => exact .execSrwaitP hs
  | srrel => exact .execSrrel hs
  | barArr => exact .execBarArr hs
  | barWait => exact .execBarWait hs
  | barSync => exact .execBarSync hs
  | barSet => exact .execBarSet hs
  | cntWait => exact .execCntWait hs
  | cntClr => exact .execCntClr hs
  | perf => exact .execPerf hs
  | trap => exact .execTrap hs
  | svc => exact .execSvc hs
  | rft => exact .execRft hs
  | brk => exact .execBrk hs
  | killb => exact .execKillb hs
  | pblk => exact .execPblk hs
  | illegalInstruction => exact .execIllegalInstruction hs
  | loadDataReturn => exact .execLoadDataReturn hs
  | pageWalk => exact .execPageWalk hs
  | sideLogReplay => exact .execSideLogReplay hs
  | copyLanding => exact .execCopyLanding hs
  | engineStart => exact .execEngineStart hs
  | engineComplete => exact .execEngineComplete hs
  | trapEntry => exact .execTrapEntry hs
  | faultReport => exact .execFaultReport hs
  | packetFetch => exact .execPacketFetch hs
  | dependencePoll => exact .execDependencePoll hs
  | gangPlacement => exact .execGangPlacement hs
  | seniorGang => exact .execSeniorGang hs
  | taskStart => exact .execTaskStart hs
  | adoption => exact .execAdoption hs
  | wake => exact .execWake hs
  | parkRetry => exact .execParkRetry hs
  | preemptSave => exact .execPreemptSave hs
  | restore => exact .execRestore hs
  | unpickerPass => exact .execUnpickerPass hs
  | req => exact .execReq hs
  | grant => exact .execGrant hs
  | returnMessage => exact .execReturnMessage hs
  | count => exact .execCount hs
  | pending => exact .execPending hs
  | reclaim => exact .execReclaim hs
  | lost => exact .execLost hs
  | retack => exact .execRetack hs
  | eopDiscard => exact .execEopDiscard hs
  | requestDelivery => exact .execRequestDelivery hs
  | sliceBounce => exact .execSliceBounce hs
  | heatHalving => exact .execHeatHalving hs
  | heatSample => exact .execHeatSample hs
  | scTicket => exact .execScTicket hs
  | windowMark => exact .execWindowMark hs
  | systemScPerform => exact .execSystemScPerform hs
  | cleanAfterRelease => exact .execCleanAfterRelease hs
  | flitReceive => exact .execFlitReceive hs
  | ackOnlyFlit => exact .execAckOnlyFlit hs
  | ackTimer => exact .execAckTimer hs
  | replayTimeout => exact .execReplayTimeout hs
  | errorInterval => exact .execErrorInterval hs
  | scaleUpFrame => exact .execScaleUpFrame hs
  | trainingEnd => exact .execTrainingEnd hs
  | retrainEnd => exact .execRetrainEnd hs
  | l0nIdle => exact .execL0nIdle hs
  | l1sIdle => exact .execL1sIdle hs
  | wakeComplete => exact .execWakeComplete hs
  | wakeTimeout => exact .execWakeTimeout hs
  | unresponsiveTimeout => exact .execUnresponsiveTimeout hs
  | hostAccess => exact .execHostAccess hs
  | train => exact .execTrain hs
  | takeDown => exact .execTakeDown hs
  | lqbell => exact .execLqbell hs
  | fltreplay => exact .execFltreplay hs
  | preempt => exact .execPreempt hs
  | resume => exact .execResume hs
  | timeStep => exact .execTimeStep hs
  | heatctlClr => exact .execHeatctlClr hs
  | hclr => exact .execHclr hs
  | dirtyBitmapReadClear => exact .execDirtyBitmapReadClear hs
  | quiesce => exact .execQuiesce hs
  | commit => exact .execCommit hs
  | release => exact .execRelease hs
  | abort => exact .execAbort hs
  | registerWrite => exact .execRegisterWrite hs
  | restart => exact .execRestart hs
  | clearfail => exact .execClearfail hs
  | attest => exact .execAttest hs
  | getcert => exact .execGetcert hs
  | raisefloor => exact .execRaisefloor hs
  | start => exact .execStart hs
  | startStepTimeout => exact .execStartStepTimeout hs
  | powerWindow => exact .execPowerWindow hs
  | thermalTrip => exact .execThermalTrip hs
  | fundamentalReset => exact .execFundamentalReset hs
  | powerLoss => exact .execPowerLoss hs
  | chunkDescriptorWrite => exact .execChunkDescriptorWrite hs
  | badCommand => exact .execBadCommand hs

/-! ## Machine/Step.lean -/

theorem Leaves.runThread {t : ThreadRef} (hs : s.Canon) : Leaves (s.runThread t) := by
  unfold State.runThread
  split
  next b th _ _ =>
    split
    · exact .exec hs
    extract_lets u
    have hu : u.Canon := hs
    split
    · exact .fetchFault hu
    · exact .fetchRefused hu
    split <;> exact .exec (.fetchRead hu)
  · exact hs

theorem State.Canon.screened (hs : s.Canon) : s.screened.Canon := by
  unfold State.screened
  refine .foldl (fun _ hs => ?_) hs
  refine .ite ?_ hs
  split
  · exact .setHold hs
  · exact hs

theorem State.Canon.opening (hs : s.Canon) : s.opening.Canon := .screened (.tick hs)

theorem State.Canon.of_takeEvent {u : State} {e : Event} (hs : s.Canon) (he : s.takeEvent = some (e, u)) : u.Canon := by
  unfold State.takeEvent at he
  split at he
  · cases he
  · cases he
    exact hs
  · cases he
    exact hs

theorem Leaves.runEvent {e : Event} (hs : s.Canon) : Leaves (s.runEvent e) := by
  unfold State.runEvent
  exact .exec hs

theorem Leaves.step (hs : s.Canon) : Leaves (step s) := by
  unfold Machine.step
  extract_lets u
  have hu : u.Canon := .opening hs
  split
  · split
    · exact hu
    next he => exact .runEvent (.of_takeEvent hu he)
  next he =>
    have hv := State.Canon.of_choose hu he
    refine .ite (.runThread hv) (.ite (.runThread hv) ?_)
    split
    · exact hu
    next he =>
      refine .runEvent (.of_takeEvent ?_ he)
      exact hu
  /-- Settles O57: memory changes by `State.memPut` alone, which keeps the form. -/
  theorem memoryStaysCanonical : Obligations.MemoryStaysCanonical := by
    intro s t h he
    have hstep := Leaves.step (s := s) h
    rwa [he] at hstep

end Sys2Proof.Machine

/-!
What an atomic does at its place (O29): an access within one unit of a level reads and writes that unit alone.
-/
namespace Sys2Proof.Machine

/-! ## Accesses within one unit -/

theorem chunks_within {unit a n : Nat} (fuel : Nat) (h0 : 0 < n) (h : a % unit + n ≤ unit) : chunks unit (fuel + 2) a n = [(a, n)] := by
  rw [chunks, if_neg h0.ne']
  dsimp only
  rw [min_eq_left (by omega), Nat.sub_self, chunks, if_pos rfl]

/-- An aligned element lies within one line. -/
theorem within_of_aligned {size k : Nat} (hs : size = 4 ∨ size = 8) (hk : k % size = 0) : 0 < size ∧ k % 128 + size ≤ 128 := by
  obtain rfl | rfl := hs <;> omega

/-! ## Die-shared memory (09 R216) -/

theorem sharedAt_add {a i : Nat} (h : a % 128 + i < 128) : sharedAt (a + i) = sharedAt a + i := by
  rw [sharedAt, sharedAt, show (a + i) / 128 = a / 128 by omega, show (a + i) % 128 = a % 128 + i by omega, ← Nat.add_assoc]

theorem sharedAt_inj {a b : Nat} (ha : a < 192 * 2 ^ 20) (hb : b < 192 * 2 ^ 20) (h : sharedAt a = sharedAt b) : a = b := by
  unfold sharedAt at h
  omega

theorem State.sharedRead_within (s : State) (die : Nat) {a n : Nat} (h0 : 0 < n) (h : a % 128 + n ≤ 128) :
    s.sharedRead die a n = cread (s.cd die).shared (sharedAt a) n := by
  rw [State.sharedRead, chunks_within _ h0 h, List.flatMap_singleton]

theorem State.sharedPut_within {s : State} {die a : Nat} {bs : List Byte} (hd : die < s.cds.length) (h0 : 0 < bs.length)
    (h : a % 128 + bs.length ≤ 128) : ((s.sharedPut die a bs).cd die).shared = cwrite (s.cd die).shared (sharedAt a) bs := by
  rw [State.sharedPut, State.cd_updCd_self hd, chunks_within _ h0 h]
  simp

/-- What is written to die-shared memory is read back. -/
theorem State.sharedRead_sharedPut {s : State} {die a : Nat} {bs : List Byte} (hd : die < s.cds.length) (h0 : 0 < bs.length)
    (h : a % 128 + bs.length ≤ 128) : (s.sharedPut die a bs).sharedRead die a bs.length = bs := by
  rw [State.sharedRead_within _ _ h0 h, State.sharedPut_within hd h0 h, cread_cwrite]

/-- Every other byte of die-shared memory reads as before. -/
theorem State.sharedRead_sharedPut_outside {s : State} {die a j : Nat} {bs : List Byte} (hd : die < s.cds.length)
    (h0 : 0 < bs.length) (h : a % 128 + bs.length ≤ 128) (ha : a < 192 * 2 ^ 20) (hj : j < 192 * 2 ^ 20)
    (ho : j < a ∨ a + bs.length ≤ j) : (s.sharedPut die a bs).sharedRead die j 1 = s.sharedRead die j 1 := by
  have hne (hin : sharedAt a ≤ sharedAt j ∧ sharedAt j < sharedAt a + bs.length) : False := by
    obtain ⟨i, hi⟩ := Nat.exists_eq_add_of_le hin.1
    have hj' := sharedAt_inj (a := a + i) (b := j) (by omega) hj ((sharedAt_add (by omega)).trans hi.symm)
    omega
  rw [State.sharedRead_within _ _ one_pos (by omega), State.sharedRead_within _ _ one_pos (by omega),
    State.sharedPut_within hd h0 h]
  simp only [cread, List.range_one, List.map_singleton, Nat.add_zero, cget_cwrite, if_neg hne]

/-! ## Memory at its home -/

/-- No chunk and no held write stands in the way of a write at `k` (11 R291). -/
def State.Plain (s : State) (k : Nat) : Prop :=
  keyPlace k < 16 → (s.md (keyPlace k)).overflow = [] ∧ kget (s.md (keyPlace k)).chunks (chunkOf k) = none

theorem State.Plain.overflowed {s : State} {k : Nat} (h : s.Plain k) : s.overflowed k = false := by
  by_cases hk : keyPlace k < 16
  · simp [State.overflowed, (h hk).1]
  · simp [State.overflowed, hk]

theorem State.Plain.packGranule {s : State} {k : Nat} (h : s.Plain k) : s.packGranule k = (true, s) := by
  have hc : (if keyPlace k < 16 then kget (s.md (keyPlace k)).chunks (chunkOf k) else none) = none := by
    split
    next hk => exact (h hk).2
    next => rfl
  unfold State.packGranule
  dsimp only
  rw [hc]

theorem State.Plain.settleWrite {s : State} {k : Nat} (h : s.Plain k) (bs : List Byte) (who : Option ThreadRef) :
    (s.settleWrite k bs who).mem = cwrite s.mem k bs := by
  have he : s.settleWrite k bs who = ((s.cacheLine k true).memPut k bs).markDirty k := by
    unfold State.settleWrite
    dsimp only
    rw [h.overflowed, h.packGranule]
    rfl
  rw [he, (State.markDirty_homesOnly _ k).mem, State.memPut, (s.cacheLine_homesOnly k true).mem]

/-- A request that reaches a home changes its counters alone. -/
theorem State.md_touch_kept {α : Type} {p : Md → α} (hp : ∀ d n, p { d with accesses := n } = p d) (s : State) (k : Nat) :
    p ((s.touch k).md (keyPlace k)) = p (s.md (keyPlace k)) := by
  have hcount := State.md_updMd_kept (f := fun d => { d with accesses := d.accesses + 1 }) (fun d => hp d _) s (keyPlace k)
  unfold State.touch
  dsimp only
  split
  · split
    · split <;> split <;> exact hcount
    · exact hcount
  · rfl

theorem State.Plain.touch {s : State} {k : Nat} (h : s.Plain k) : (s.touch k).Plain k := fun hk =>
  ⟨(State.md_touch_kept (p := Md.overflow) (fun _ _ => rfl) s k).trans (h hk).1,
    (State.md_touch_kept (p := fun d => kget d.chunks (chunkOf k)) (fun _ _ => rfl) s k).trans (h hk).2⟩

theorem State.Plain.homeWriteLine {s : State} {k : Nat} (h : s.Plain k) (hk : keyPlace k < 18) (bs : List Byte) :
    (s.homeWriteLine k bs).mem = cwrite s.mem k bs := by
  have hsent : (s.touch k).sentFor k s.cur.toList = s.touch k := by
    rw [State.sentFor, if_neg (by simp [foreignKey]; omega)]
  rw [State.homeWriteLine, hsent, h.touch.settleWrite, (s.touch_homesOnly k).mem]

/-- There a write within one line is stored, and nothing else. -/
theorem State.Plain.homeWrite {s : State} {k : Nat} {bs : List Byte} (h : s.Plain k) (hk : keyPlace k < 18) (h0 : 0 < bs.length)
    (hw : k % 128 + bs.length ≤ 128) : (s.homeWrite k bs).mem = cwrite s.mem k bs := by
  rw [State.homeWrite, chunks_within _ h0 hw]
  simpa using h.homeWriteLine hk bs

theorem wpBytes_zero (addr : DWord) (a n : Nat) : wpBytes addr 0 a n = [] := by
  simp [wpBytes, bitOf]

theorem State.homeWatch_unwatched {s : State} {k : Nat} (h : keyPlace k < 16 → (s.md (keyPlace k)).wp = []) (n kind : Nat) (who : Who)
    (pc : BitVec 56) : s.homeWatch k n kind who pc = s := by
  unfold State.homeWatch
  dsimp only
  split
  next hk =>
    refine List.foldl_fixed' (fun w => ?_) _
    simp only [h hk, kget_nil, Option.getD_none, wpBytes_zero]
  · rfl

theorem State.failing_of_sums {s : State} (h : s.sums = []) (k n : Nat) : s.failing k n = [] := by
  simp [State.failing, h, checkFails, kget_nil]

theorem State.sharedFailing_of_sums {s : State} {die : Nat} (h : (s.cd die).shsums = []) (a n : Nat) :
    s.sharedFailing die a n = [] := by
  simp [State.sharedFailing, h, checkFails, kget_nil]

theorem State.addPoison_nil (s : State) : s.addPoison [] = s := by
  simp [State.addPoison]

/-! ## An atomic at its place (09 R241) -/

/-- What an atomic leaves of an element's bytes. -/
def atomBytes (op : MemOp) (ty : ElemTy) (size : Nat) (v c : DWord) (old : List Byte) : List Byte :=
  leBytes size (elemOp op ty size (BitVec.ofNat 64 (leNat old)) v c).toNat

theorem State.performAccess_shared {s : State} {r : Request} {op : MemOp} {ty : ElemTy} {size k die : Nat} {v c : DWord} {sc : ScKind}
    (hr : r.body = .access op ty size k v c sc) (hop : op ≠ .ld) (hd : keyPlace k = 512 + die) (hp : (s.cd die).shpoison = [])
    (hs : (s.cd die).shsums = []) : s.performAccess r = (([BitVec.ofNat 64 (leNat (s.sharedRead die (keyAddr k) size))], false),
      s.sharedPut die (keyAddr k) (atomBytes op ty size v c (s.sharedRead die (keyAddr k) size))) := by
  simp only [State.performAccess, hr, hd, Nat.le_add_right, if_true, Nat.add_sub_cancel_left, State.sharedFailing_of_sums hs,
    List.isEmpty_nil, hp, List.contains_nil, Bool.false_eq_true, if_false, hop, atomBytes]

theorem State.performAccess_home {s : State} {r : Request} {op : MemOp} {ty : ElemTy} {size k : Nat} {v c : DWord} {sc : ScKind}
    (hr : r.body = .access op ty size k v c sc) (hop : op ≠ .ld) (hk : keyPlace k < 18) (hp : s.poison = []) (hs : s.sums = [])
    (hw : keyPlace k < 16 → (s.md (keyPlace k)).wp = []) : s.performAccess r
      = (([BitVec.ofNat 64 (leNat (cread s.mem k size))], false), s.homeWrite k (atomBytes op ty size v c (cread s.mem k size))) := by
  simp only [State.performAccess, hr, if_neg (show ¬ 512 ≤ keyPlace k by omega), State.homeWatch_unwatched hw,
    State.failing_of_sums hs, State.addPoison_nil, List.foldl_nil, hp, List.contains_nil, Bool.false_eq_true, if_false, hop, atomBytes]

/-! ## Elements of 32 bits (09 R241, R236) -/

theorem toNat_elem32 (x : Word) : (x.setWidth 64).toNat % 2 ^ (8 * 4) = x.toNat := by
  simp [BitVec.toNat_setWidth, Nat.mod_eq_of_lt x.isLt]

theorem ofNat_elem32 (n : Nat) : BitVec.ofNat 64 (n % 2 ^ (8 * 4)) = (BitVec.ofNat 32 n).setWidth 64 := by
  apply BitVec.eq_of_toNat_eq
  simp
  
theorem elemOp_w32 (op : MemOp) (o v c : Word) (h : op ≠ .fadd ∧ op ≠ .fmul ∧ op ≠ .fmin ∧ op ≠ .fmax) :
    elemOp op .w32 4 (o.setWidth 64) (v.setWidth 64) (c.setWidth 64) = (match op with
      | .add => o + v
      | .swap | .st => v
      | .cas => if o = v then c else o
      | .and => o &&& v
      | .or => o ||| v
      | .xor => o ^^^ v
      | .min => if v.toInt < o.toInt then v else o
      | .max => if o.toInt < v.toInt then v else o
      | .minn => if v < o then v else o
      | .maxn => if o < v then v else o
      | _ => o).setWidth 64 := by
  have hkeep (a : Word) : BitVec.ofNat 32 a.toNat = a := by rw [BitVec.ofNat_toNat, BitVec.setWidth_eq]
  have hmin (a b : Word) : BitVec.ofNat 32 (min a.toNat b.toNat) = if b < a then b else a := by
    by_cases hlt : b < a
    · rw [if_pos hlt, min_eq_right (BitVec.lt_def.1 hlt).le, hkeep]
    · rw [if_neg hlt, min_eq_left (not_lt.1 (mt BitVec.lt_def.2 hlt)), hkeep]
  have hmax (a b : Word) : BitVec.ofNat 32 (max a.toNat b.toNat) = if a < b then b else a := by
    by_cases hlt : a < b
    · rw [if_pos hlt, max_eq_right (BitVec.lt_def.1 hlt).le, hkeep]
    · rw [if_neg hlt, max_eq_left (not_lt.1 (mt BitVec.lt_def.2 hlt)), hkeep]
  have hand (a b : Word) : BitVec.ofNat 32 (a.toNat &&& b.toNat) = a &&& b := by rw [← BitVec.toNat_and, hkeep]
  have hor (a b : Word) : BitVec.ofNat 32 (a.toNat ||| b.toNat) = a ||| b := by rw [← BitVec.toNat_or, hkeep]
  have hxor (a b : Word) : BitVec.ofNat 32 (a.toNat ^^^ b.toNat) = a ^^^ b := by rw [← BitVec.toNat_xor, hkeep]
  cases op
  case fadd | fmul | fmin | fmax => simp at h
  all_goals simp only [elemOp, toNat_elem32, ofNat_elem32, sgn_toNat, BitVec.ofNat_add, apply_ite (BitVec.setWidth 64),
    BitVec.toNat_inj, BitVec.ofNat_toNat, BitVec.setWidth_eq, hand, hor, hxor, hmin, hmax]

/-- Settles O29: an element lies within one line of its level. -/
theorem atomicAtItsPlace : Obligations.AtomicAtItsPlace := by
  refine ⟨?_, fun o v c => ?_⟩
  · intro s r op ty size k v c sc
    dsimp only
    intro hr hs hk hop
    refine ⟨?_, ?_⟩
    · intro die hd hdie hlen hp hsum ha
      rw [State.performAccess_shared hr hop hd hp hsum]
      obtain ⟨h0, hw⟩ := within_of_aligned (k := keyAddr k) hs (by unfold keyAddr; obtain rfl | rfl := hs <;> omega)
      generalize hb : atomBytes op ty size v c (s.sharedRead die (keyAddr k) size) = bs
      have hl : bs.length = size := hb ▸ leBytes_length _ _
      have hd' : die < s.cds.length := by omega
      subst hl
      exact ⟨rfl, (State.sharedRead_sharedPut hd' h0 hw).trans hb.symm,
        fun j ho hj => State.sharedRead_sharedPut_outside hd' h0 hw ha hj ho, fun _ => rfl⟩
    · intro hk18 hp hsum hmd
      rw [State.performAccess_home hr hop hk18 hp hsum fun h => (hmd h).1]
      obtain ⟨h0, hw⟩ := within_of_aligned hs hk
      generalize hb : atomBytes op ty size v c (cread s.mem k size) = bs
      have hl : bs.length = size := hb ▸ leBytes_length _ _
      subst hl
      have hmem := State.Plain.homeWrite (s := s) (fun h => (hmd h).2) hk18 h0 hw
      refine ⟨rfl, ?_, fun j ho => ?_⟩
      · exact (hmem ▸ cread_cwrite _ _ _).trans hb.symm
      · rw [hmem, cget_cwrite, if_neg (by omega)]
  · have h := fun op => elemOp_w32 op o v c
    exact ⟨h .add (by decide), h .swap (by decide), h .st (by decide), h .ld (by decide), h .cas (by decide), h .and (by decide),
      h .or (by decide), h .xor (by decide), h .min (by decide), h .max (by decide), h .minn (by decide), h .maxn (by decide)⟩

end Sys2Proof.Machine

/-!
Loads and stores (O21, O22): the ways out of `loadBody` and `storeBody`, and the instructions that are made of them.
-/
namespace Sys2Proof.Machine

/-! ## Refusals of accesses (08 R191, 09 R226) -/

theorem laneRefusal_nil (g : Region) (code : Nat) : laneRefusal g code [] = none := rfl

theorem laneRefusal_of_ne {g : Region} {code : Nat} {bad : List Acc} (h : bad ≠ []) :
    laneRefusal g code bad = some (code, g.addr ((bad.head?.map (·.2.1)).getD 0), maskOf (bad.map (·.1))) := by
  cases bad with
  | nil => exact absurd rfl h
  | cons a l => rfl

/-- A check that looks at no offset names every lane. -/
theorem checkRegion_rights {c : Ctx} {g : Region} {op : Right} {accs : List Acc} {code : Nat} (h : checkRights g op = some code)
    (hc : code ≠ 11) : checkRegion c g op accs = some (code, 0, c.allLanes) := by
  rw [checkRegion, h]
  exact congrArg (fun a => some (code, a, c.allLanes)) (if_neg hc)

theorem checkRegion_outside {c : Ctx} {g : Region} {op : Right} {accs : List Acc} (h : checkRights g op = none) :
    checkRegion c g op accs = laneRefusal g 10 (accs.filter (fun x => decide (g.bytes < x.2.1 + x.2.2))) := by
  rw [checkRegion, h]

/-- The accesses of elements of `size` bytes. -/
def elemAccs (x : Ctx) (idx : BitVec 7) (sc : BitVec 2) (size : Nat) : List Acc := x.lanes.map (fun l => (l, x.offset idx sc l, size))

theorem elemAccs_odd {x : Ctx} {idx : BitVec 7} {sc : BitVec 2} {size : Nat} (h : ∀ l ∈ x.lanes, x.offset idx sc l % size = 0) :
    (elemAccs x idx sc size).filter (fun a => a.2.1 % size != 0) = [] := by
  simpa [elemAccs, List.filter_eq_nil_iff] using h

/-! ## The ways out of a load -/

section
variable {c : Ctx} {s : State} {rg : BitVec 5} {bounds odd accs : List Acc} {nofill : Bool} {regs : List RegId}
  {result : Nat → List Byte → List RegWrite}

theorem loadBody_refused {code addr : Nat} {m : Word}
    (h : (checkRegion c (c.rg rg) .load bounds).orElse (fun _ => laneRefusal (c.rg rg) 12 odd) = some (code, addr, m)) :
    loadBody c s rg bounds odd accs nofill regs result = .refuse code addr m := by
  unfold loadBody
  dsimp only
  rw [h]

theorem loadBody_prot {va : Nat} {m : Word} (hg : Granted (c.rg rg) .load bounds) (ho : odd = [])
    (hp : pass c s (c.rg rg) .read accs = .prot va m) :
    loadBody c s rg bounds odd accs nofill regs result = .refuse 23 va m := by
  simp only [loadBody, checkRegion_granted hg, ho, laneRefusal_nil, Option.orElse, hp]

theorem covering_none (h : ∀ e ∈ (s.core c.b.coreIx).log, s.orderedBy c.t e.t e.id = true →
    ∀ a ∈ accs, e.covers (c.rg rg) a.2.1 a.2.2 = false) : covering c s (c.rg rg) accs = none := by
  rw [covering, Option.map_eq_none_iff, List.find?_eq_none]
  intro e he
  simp only [Bool.and_eq_true, List.any_eq_true, not_and, not_exists]
  exact fun ho a ha => by simp [h e he ho a ha]

theorem stamped_false {b : Block} {g : Region} (h : g.space = 0 → ((s.entry b.die g.tag).map (·.stamp)).getD 0 = 0) :
    s.stamped b g = false := by
  unfold State.stamped
  by_cases hg : g.space = 0#2
  · cases he : s.entry b.die g.tag with
    | none => simp
    | some e => simpa [he] using fun _ => h hg
  · simp [hg]

theorem loadBody_done (hg : Granted (c.rg rg) .load bounds) (ho : odd = []) (hu : Unhindered c s (c.rg rg) .read 62 accs)
    (hcov : covering c s (c.rg rg) accs = none) (hst : s.stamped c.b (c.rg rg) = false) (hown : ownAtomic c s (c.rg rg) accs = false) :
    loadBody c s rg bounds odd accs nofill regs result
      = .done (s.loadNow c (c.rg rg) (!(nofill && (c.rg rg).space == 0)) regs accs result) [] .seq := by
  simp only [loadBody, checkRegion_granted hg, ho, laneRefusal_nil, Option.orElse, hu.mapped, hu.unwatched, hcov, hst, hown,
    hu.present, Bool.false_eq_true, if_false]

end

/-- What a load of the claims finds in its way: nothing. -/
def LoadReady (rg : BitVec 5) (x : Ctx) (s : State) (bounds accs : List Acc) : Prop :=
  Granted (x.rg rg) .load bounds ∧ Unhindered x s (x.rg rg) .read 62 accs ∧
  (∀ e ∈ (s.core x.b.coreIx).log, s.orderedBy x.t e.t e.id = true → ∀ a ∈ accs, e.covers (x.rg rg) a.2.1 a.2.2 = false) ∧
  ((x.rg rg).space = 0 → ((s.entry x.b.die (x.rg rg).tag).map (·.stamp)).getD 0 = 0) ∧ ownAtomic x s (x.rg rg) accs = false

theorem LoadReady.loadBody {rg : BitVec 5} {x : Ctx} {s : State} {bounds odd accs : List Acc} (h : LoadReady rg x s bounds accs)
    (ho : odd = []) (nofill : Bool) (regs : List RegId) (result : Nat → List Byte → List RegWrite) :
    loadBody x s rg bounds odd accs nofill regs result
      = .done (s.loadNow x (x.rg rg) (!(nofill && (x.rg rg).space == 0)) regs accs result) [] .seq := by
  obtain ⟨hg, hu, hlog, hst, hown⟩ := h
  exact loadBody_done hg ho hu (covering_none hlog) (stamped_false hst) hown

/-- A load of one element per lane. -/
theorem load_completesWhen {i : Instr} {st : Streams} {dst : Opd} {roles : List Role} {rg : BitVec 5} {idx : BitVec 7} {sc : BitVec 2}
    {la : BitVec 4} {size : Nat} {nofill : Bool} {put put' : Ctx → Nat → Nat → List RegWrite} {fill : Ctx → Bool}
    (he : ∀ s, exec i s = load i (loadSpec st dst idx rg la roles) rg idx sc size nofill put s)
    (hfill : ∀ x, (!(nofill && (x.rg rg).space == 0)) = fill x) (hput : ∀ x l n, put x l n = put' x l n) :
    CompletesWhen i { plain st [dst, .src idx.toNat, .region rg.toNat] with la := some la.toNat, roles := roles }
      (fun x s => LoadReady rg x s (elemAccs x idx sc size) (elemAccs x idx sc size) ∧ ∀ l ∈ x.lanes, x.offset idx sc l % size = 0)
      (changing fun x s => s.loadNow x (x.rg rg) (fill x)
        ((x.writeIds { plain st [dst, .src idx.toNat, .region rg.toNat] with la := some la.toNat, roles := roles }).dedup)
        (elemAccs x idx sc size) (fun l bs => put' x l (leNat bs))) := by
  obtain rfl : put = put' := by
    funext x l n
    exact hput x l n
  refine completesWhen_of he fun x s _ ⟨hr, ha⟩ => ?_
  have hb := hr.loadBody (elemAccs_odd ha) nofill ((x.writeIds (loadSpec st dst idx rg la roles)).dedup) (fun l bs => put x l (leNat bs))
  rw [hfill] at hb
  exact hb

/-! What the bytes of a narrow load become (09 R225). -/

theorem narrow_signed (w n : Nat) : BitVec.ofNat 32 (wrap 32 (asInt w true n)) = (BitVec.ofNat w n).signExtend 32 :=
  (ofNat_wrap 32 _).trans (congrArg (BitVec.ofInt 32) (sgn_eq_toInt w n))

theorem narrow_natural (w n : Nat) : BitVec.ofNat 32 (wrap 32 (asInt w false n)) = (BitVec.ofNat w n).setWidth 32 :=
  (ofNat_wrap 32 _).trans ((BitVec.ofInt_natCast 32 (n % 2 ^ w)).trans (BitVec.eq_of_toNat_eq (by simp)))

theorem loadNarrow_completesWhen {i : Instr} {d idx : BitVec 7} {rg : BitVec 5} {sc : BitVec 2} {la : BitVec 4} {size : Nat}
    {signed : Bool} {v : Nat → Word} (he : ∀ s, exec i s = loadNarrow i d rg idx sc la size signed s)
    (hv : ∀ n, BitVec.ofNat 32 (wrap 32 (asInt (8 * size) signed n)) = v n) :
    CompletesWhen i { plain .warp [.dst d.toNat, .src idx.toNat, .region rg.toNat] with la := some la.toNat, roles := ldRoles }
      (fun x s => LoadReady rg x s (elemAccs x idx sc size) (elemAccs x idx sc size) ∧ ∀ l ∈ x.lanes, x.offset idx sc l % size = 0)
      (changing fun x s => s.loadNow x (x.rg rg) true ((x.writeIds { plain .warp [.dst d.toNat, .src idx.toNat, .region rg.toNat] with
        la := some la.toNat, roles := ldRoles }).dedup) (elemAccs x idx sc size)
        (fun l bs => x.w32 d.toNat l false (v (leNat bs)))) :=
  load_completesWhen (put' := fun x l n => x.w32 d.toNat l false (v n)) he (fun _ => rfl)
    fun x l n => congrArg (x.w32 d.toNat l false) (hv n)

/-! ## The ways out of a store -/

section
variable {c : Ctx} {s : State} {i : Instr} {rg : BitVec 5} {idx : BitVec 7} {sc : BitVec 2} {size : Nat} {nofill : Bool}
  {data enables : Nat → DWord}

theorem storeBody_refused {code addr : Nat} {m : Word} (h : (checkRegion c (c.rg rg) .store (elemAccs c idx sc size)).orElse
      (fun _ => laneRefusal (c.rg rg) 12 ((elemAccs c idx sc size).filter (fun x => x.2.1 % size != 0))) = some (code, addr, m)) :
    storeBody c s i rg idx sc size nofill data enables = .refuse code addr m := by
  unfold elemAccs at h
  unfold storeBody
  dsimp only
  rw [h]

theorem storeBody_prot {va : Nat} {m : Word} (hg : Granted (c.rg rg) .store (elemAccs c idx sc size))
    (ho : (elemAccs c idx sc size).filter (fun x => x.2.1 % size != 0) = [])
    (hp : pass c s (c.rg rg) .write (elemAccs c idx sc size) = .prot va m) :
    storeBody c s i rg idx sc size nofill data enables = .refuse 23 va m := by
  unfold elemAccs at hg ho hp
  simp only [storeBody, checkRegion_granted hg, ho, laneRefusal_nil, Option.orElse, loggable, hp]

theorem loggable_go {g : Region} {kind : Nat} {all accs : List Acc} {lanes : List (Nat × Nat × DWord × DWord)}
    {go : State → List Acc → Res} (hp : pass c s g .write accs = .go) (hw : watched c s g kind all = none)
    (ho : ownEntry c s g = false) (hh : heldUp c s g .write accs = none) :
    loggable c s i g kind all accs lanes go = go s (downAccs c s g .write accs) := by
  simp only [loggable, hp, hw, ho, hh, List.isEmpty_nil, Bool.not_true, Bool.or_false, Bool.false_eq_true, if_false]

theorem storeBody_done (hg : Granted (c.rg rg) .store (elemAccs c idx sc size))
    (hu : Unhindered c s (c.rg rg) .write 61 (elemAccs c idx sc size)) (ho : ownEntry c s (c.rg rg) = false)
    (ha : ∀ l ∈ c.lanes, c.offset idx sc l % size = 0) :
    storeBody c s i rg idx sc size nofill data enables
      = .done (s.storeNow c (c.rg rg) size (!(nofill && (c.rg rg).space == 0))
          (c.lanes.map (fun l => (l, c.offset idx sc l, data l, enables l)))
          (downAccs c s (c.rg rg) .write (elemAccs c idx sc size))) [] .seq := by
  have hodd := elemAccs_odd ha
  have hlanes : (elemAccs c idx sc size).map (fun x => (x.1, x.2.1, data x.1, enables x.1))
      = c.lanes.map (fun l => (l, c.offset idx sc l, data l, enables l)) := by
    rw [elemAccs, List.map_map]
    rfl
  rw [← hlanes]
  have hgo := loggable_go (i := i) (lanes := (elemAccs c idx sc size).map (fun x => (x.1, x.2.1, data x.1, enables x.1)))
    (go := fun s down => .done (s.storeNow c (c.rg rg) size (!(nofill && (c.rg rg).space == 0))
      ((elemAccs c idx sc size).map (fun x => (x.1, x.2.1, data x.1, enables x.1))) down) [] .seq)
    hu.mapped hu.unwatched ho hu.present
  unfold elemAccs at *
  simp only [storeBody, checkRegion_granted hg, hodd, laneRefusal_nil, Option.orElse, hgo]

end

/-- A store of one element per lane. -/
theorem storeBody_completesWhen {i : Instr} {sp : Spec} {rg : BitVec 5} {idx : BitVec 7} {sc : BitVec 2} {size : Nat} {nofill : Bool}
    {fill : Ctx → Bool} {data data' enables : Ctx → Nat → DWord}
    (he : ∀ s, exec i s = issue s i sp fun c s => storeBody c s i rg idx sc size nofill (data c) (enables c))
    (hfill : ∀ x, (!(nofill && (x.rg rg).space == 0)) = fill x) (hdata : ∀ x l, data x l = data' x l) :
    CompletesWhen i sp
      (fun x s => Granted (x.rg rg) .store (elemAccs x idx sc size) ∧ Unhindered x s (x.rg rg) .write 61 (elemAccs x idx sc size) ∧
        ownEntry x s (x.rg rg) = false ∧ ∀ l ∈ x.lanes, x.offset idx sc l % size = 0)
      (changing fun x s => s.storeNow x (x.rg rg) size (fill x)
        (x.lanes.map (fun l => (l, x.offset idx sc l, data' x l, enables x l)))
        (downAccs x s (x.rg rg) .write (elemAccs x idx sc size))) := by
  obtain rfl : data = data' := by
    funext x l
    exact hdata x l
  refine completesWhen_of he fun x s _ ⟨hg, hu, ho, ha⟩ => ?_
  rw [storeBody_done hg hu ho ha, hfill]
  rfl

/-- Settles O22: the plain stores and STBE are `storeBody` of their operands. -/
theorem storesComplete : Obligations.StoresComplete := fun d idx rg sc la =>
  have whole : ∀ x : Ctx, (!(false && (x.rg rg).space == 0)) = true := fun _ => rfl
  ⟨storeBody_completesWhen (fun _ => rfl) whole fun _ _ => rfl,
    storeBody_completesWhen (fun _ => rfl) whole fun x l => by
      show BitVec.ofNat 64 ((x.r64 d.toNat l).toNat % 2 ^ 64) = _
      rw [Nat.mod_eq_of_lt (x.r64 d.toNat l).isLt, BitVec.ofNat_toNat, BitVec.setWidth_eq],
    storeBody_completesWhen (fun _ => rfl) whole fun _ _ => rfl,
    storeBody_completesWhen (fun _ => rfl) whole fun _ _ => rfl,
    storeBody_completesWhen (nofill := true) (fun _ => rfl) (fun _ => rfl) fun _ _ => rfl,
    storeBody_completesWhen (fun _ => rfl) whole fun _ _ => rfl⟩

/-! ## LDBP (09 R228) -/

/-- What LDBP of `p` planes names. -/
def ldbpSpec (d idx : BitVec 7) (rg : BitVec 5) (la : BitVec 4) (p : Nat) : Spec :=
  { plain .warp [.run d.toNat p true, .run idx.toNat 2 false, .region rg.toNat] with la := some la.toNat, roles := [.matrix, .vector] }

/-- Its accesses, plane by plane, their range as R191 checks it, and what a lane gets of its bytes. -/
def planeAccs (x : Ctx) (idx : BitVec 7) (sc : BitVec 2) (p : Nat) : List Acc :=
  x.lanes.flatMap (fun l => (List.range p).map (fun j => (l, x.offset idx sc l + j * (x.r32 (idx.toNat + 1) l).toNat, 4)))
def planeBounds (x : Ctx) (idx : BitVec 7) (sc : BitVec 2) (p : Nat) : List Acc :=
  x.lanes.map (fun l => (l, x.offset idx sc l, (p - 1) * (x.r32 (idx.toNat + 1) l).toNat + 4))
def planeWrites (x : Ctx) (d : BitVec 7) (p l : Nat) (bs : List Byte) : List RegWrite :=
  (List.range p).flatMap (fun j => x.w32 (d.toNat + j) l false (BitVec.ofNat 32 (leNat ((bs.drop (4 * j)).take 4))))

theorem exec_ldbp {d idx : BitVec 7} {rg : BitVec 5} {sc : BitVec 2} {la : BitVec 4} {s : State} {c : Ctx} {p : Nat}
    (hc : s.ctx? = some c) (hp : fmtPcnt c.th.fmt + 1 = p) :
    exec (.ldbp d rg idx sc la) s = issue s (.ldbp d rg idx sc la) (ldbpSpec d idx rg la p) (fun x s =>
      loadBody x s rg (planeBounds x idx sc p)
        ((planeBounds x idx sc p).filter (fun y => y.2.1 % 4 != 0 || (x.r32 (idx.toNat + 1) y.1).toNat % 4 != 0))
        (planeAccs x idx sc p) false ((x.writeIds (ldbpSpec d idx rg la p)).dedup) (planeWrites x d p)) := by
  subst hp
  have hf : s.curFmt = c.th.fmt := by rw [State.curFmt, hc]
  rw [← hf]
  rfl

theorem planeBounds_odd {x : Ctx} {idx : BitVec 7} {sc : BitVec 2} {p : Nat}
    (h : ∀ l ∈ x.lanes, x.offset idx sc l % 4 = 0 ∧ (x.r32 (idx.toNat + 1) l).toNat % 4 = 0) :
    (planeBounds x idx sc p).filter (fun y => y.2.1 % 4 != 0 || (x.r32 (idx.toNat + 1) y.1).toNat % 4 != 0) = [] := by
  simpa [planeBounds, List.filter_eq_nil_iff] using h

theorem ldbp_completes {d idx : BitVec 7} {rg : BitVec 5} {sc : BitVec 2} {la : BitVec 4} {s : State} {c x : Ctx} {p : Nat} {sp : Spec}
    (hp : fmtPcnt c.th.fmt + 1 = p) (hsp : ldbpSpec d idx rg la p = sp) (hx : c.operands sp = x)
    (hc : Clear s (.ldbp d rg idx sc la) sp c)
    (hr : LoadReady rg x (s.countIssue c) (planeBounds x idx sc p) (planeAccs x idx sc p))
    (ha : ∀ l ∈ x.lanes, x.offset idx sc l % 4 = 0 ∧ (x.r32 (idx.toNat + 1) l).toNat % 4 = 0) :
    exec (.ldbp d rg idx sc la) s = .next (((s.countIssue c).loadNow x (x.rg rg) true ((x.writeIds sp).dedup)
      (planeAccs x idx sc p) (planeWrites x d p)).done sp c [] .seq) := by
  rw [exec_ldbp hc.thread hp, hsp, issue_clear hc, hx, hr.loadBody (planeBounds_odd ha)]
  subst hx
  rfl

/-! ## What a load and a store refuse alike -/

/-- The lanes that a refusal names, and the address of the lowest. -/
def namedLanes (g : Region) (code : Nat) (bad : List Acc) : Nat × Nat × Word :=
  (code, g.addr ((bad.head?.map (·.2.1)).getD 0), maskOf (bad.map (·.1)))

theorem access_refusals {i : Instr} {sp : Spec} {rg : BitVec 5} {idx : BitVec 7} {sc : BitVec 2} {right : Right} {acc : Access}
    {body : Ctx → State → Res} (he : ∀ s, exec i s = issue s i sp body)
    (hr : ∀ {x s code addr m}, (checkRegion x (x.rg rg) right (elemAccs x idx sc 4)).orElse
      (fun _ => laneRefusal (x.rg rg) 12 ((elemAccs x idx sc 4).filter (fun a => a.2.1 % 4 != 0))) = some (code, addr, m) →
      body x s = .refuse code addr m)
    (hprot : ∀ {x s va m}, Granted (x.rg rg) right (elemAccs x idx sc 4) →
      (elemAccs x idx sc 4).filter (fun a => a.2.1 % 4 != 0) = [] → pass x s (x.rg rg) acc (elemAccs x idx sc 4) = .prot va m →
      body x s = .refuse 23 va m) (va : Nat) (m : Word) :
    let out := fun (x : Ctx) => (elemAccs x idx sc 4).filter (fun a => decide ((x.rg rg).bytes < a.2.1 + 4))
    let odd := fun (x : Ctx) => (elemAccs x idx sc 4).filter (fun a => decide (a.2.1 % 4 ≠ 0))
    RefusedWhen i sp (fun x _ => checkRights (x.rg rg) right = none ∧ out x ≠ []) (fun x _ => namedLanes (x.rg rg) 10 (out x)) ∧
    RefusedWhen i sp (fun x _ => Granted (x.rg rg) right (elemAccs x idx sc 4) ∧ odd x ≠ [])
      (fun x _ => namedLanes (x.rg rg) 12 (odd x)) ∧
    RefusedWhen i sp (fun x s => Granted (x.rg rg) right (elemAccs x idx sc 4) ∧ odd x = [] ∧
      pass x s (x.rg rg) acc (elemAccs x idx sc 4) = .prot va m) (fun _ _ => (23, va, m)) ∧
    RefusedWhen i sp (fun x _ => (x.rg rg).kind = 0) (fun x _ => (7, 0, x.allLanes)) ∧
    RefusedWhen i sp (fun x _ => (x.rg rg).kind ≠ 0 ∧ (x.rg rg).splitp) (fun x _ => (8, 0, x.allLanes)) ∧
    RefusedWhen i sp (fun x _ => (x.rg rg).kind ≠ 0 ∧ (x.rg rg).splitp = false ∧
      kindGrants (x.rg rg).kind (x.rg rg).space right = false) (fun x _ => (9, 0, x.allLanes)) := by
  have hodd (x : Ctx) : (elemAccs x idx sc 4).filter (fun a => a.2.1 % 4 != 0)
      = (elemAccs x idx sc 4).filter (fun a => decide (a.2.1 % 4 ≠ 0)) :=
    List.filter_congr fun a _ => by simp [bne, Bool.beq_eq_decide_eq]
  have hrights {p : Ctx → State → Prop} {code : Nat} (hc : code ≠ 11) (h : ∀ {x s}, p x s → checkRights (x.rg rg) right = some code) :
      RefusedWhen i sp p (fun x _ => (code, 0, x.allLanes)) :=
    refusedWhen_of he fun x s _ hp => hr (by rw [checkRegion_rights (h hp) hc]; rfl)
  refine ⟨refusedWhen_of he fun x s _ ⟨hg, ho⟩ => hr ?_, refusedWhen_of he fun x s _ ⟨hg, ho⟩ => hr ?_,
    refusedWhen_of he fun x s _ ⟨hg, ho, hp⟩ => hprot hg ((hodd x).trans ho) hp, hrights (by decide) fun h => ?_,
    hrights (by decide) fun h => ?_, hrights (by decide) fun h => ?_⟩
  · have hout : (elemAccs x idx sc 4).filter (fun a => decide ((x.rg rg).bytes < a.2.1 + a.2.2))
        = (elemAccs x idx sc 4).filter (fun a => decide ((x.rg rg).bytes < a.2.1 + 4)) :=
      List.filter_congr fun a ha => by
        obtain ⟨l, _, rfl⟩ := List.mem_map.1 ha
        rfl
    rw [checkRegion_outside hg, hout, laneRefusal_of_ne ho]
    rfl
  · rw [checkRegion_granted hg, hodd, laneRefusal_of_ne ho]
    rfl
  · exact if_pos h
  · obtain ⟨hk, hs⟩ := h
    exact (if_neg hk).trans (if_pos hs)
  · obtain ⟨hk, hs, hg⟩ := h
    simp [checkRights, hs, hg, show ¬ (_ : BitVec 3) = 0#3 from hk]

/-- Settles O21: a load is `loadBody` of its operands, and its refusals are those of a store. -/
theorem loadsComplete : Obligations.LoadsComplete := by
  refine ⟨fun d idx rg sc la => ?_, fun d idx rg sc la va m => ?_⟩
  · intro ok accs sp all one w32
    exact ⟨load_completesWhen (put' := w32) (fun _ => rfl) (fun _ => rfl) fun _ _ _ => rfl,
      load_completesWhen (put' := fun x l n => x.w64 d.toNat l (BitVec.ofNat 64 n)) (fun _ => rfl) (fun _ => rfl) fun _ _ _ => rfl,
      loadNarrow_completesWhen (v := fun n => (BitVec.ofNat 8 n).signExtend 32) (fun _ => rfl) (narrow_signed 8),
      loadNarrow_completesWhen (v := fun n => (BitVec.ofNat 8 n).setWidth 32) (fun _ => rfl) (narrow_natural 8),
      loadNarrow_completesWhen (v := fun n => (BitVec.ofNat 16 n).signExtend 32) (fun _ => rfl) (narrow_signed 16),
      loadNarrow_completesWhen (v := fun n => (BitVec.ofNat 16 n).setWidth 32) (fun _ => rfl) (narrow_natural 16),
      load_completesWhen (nofill := true) (put' := w32) (fun _ => rfl) (fun _ => rfl) fun _ _ _ => rfl,
      fun s c hc hr ha => ldbp_completes rfl rfl rfl hc hr ha⟩
  · intro spL spS accs out odd names io hio
    simp only [List.mem_cons, List.not_mem_nil, or_false] at hio
    obtain rfl | rfl := hio
    · exact access_refusals (fun _ => rfl) loadBody_refused (fun hg ho hp => loadBody_prot hg ho hp) va m
    · exact access_refusals (fun _ => rfl) storeBody_refused storeBody_prot va m

end Sys2Proof.Machine

/-!
Atomics, reductions and fences (O28, O30): what a release side waits for, and the bodies of ATOM and RED with nothing in their way.
-/
namespace Sys2Proof.Machine

/-! ## Release sides (10 R254, R261) -/

/-- A release side is met: the thread's operations are performed, and with scope .SYSTEM the second window after its last
write has come. -/
def Released (scope : BitVec 3) (x : Ctx) (s : State) : Prop :=
  s.allPerformed x.t = true ∧ (scope = 4 → ∀ m, x.th.sentWin = some m → m + 2 ≤ s.pkg.timeNs.toNat / 2 ^ s.winK)

theorem releaseAt_met {scope : BitVec 3} {x : Ctx} {s : State} (h : Released scope x s) (r : Res) :
    releaseAt x s scope.toNat r = r := by
  obtain ⟨hp, hw⟩ := h
  unfold releaseAt
  rw [hp]
  by_cases h4 : scope.toNat = 4
  · rw [if_pos h4]
    cases hm : x.th.sentWin with
    | none => rfl
    | some m =>
      have := hw (BitVec.eq_of_toNat_eq h4) m hm
      exact if_neg (not_lt.2 this)
  · rw [if_neg h4]
    rfl

theorem releaseAt_owing {x : Ctx} {s : State} (scope : Nat) (h : s.allPerformed x.t = false) (r : Res) :
    releaseAt x s scope r = .wait .performed x.stage s := by
  simp [releaseAt, h]

theorem releaseAt_early {x : Ctx} {s : State} {n : Nat} (hp : s.allPerformed x.t = true) (hm : x.th.sentWin = some n)
    (h : s.pkg.timeNs.toNat / 2 ^ s.winK < n + 2) (r : Res) :
    releaseAt x s 4 r = .wait (.window ((n + 2) * 2 ^ s.winK)) x.stage s := by
  have hw : s.window < n + 2 := h
  simp [releaseAt, hp, hm, hw]

/-! ## ATOM -/

/-- The accesses of an atomic or a reduction. -/
def slotAccs (x : Ctx) (d : BitVec 7) (w : BitVec 2) : List Acc := x.lanes.map (fun l => (l, x.slotOff d w l, atomSize w))

/-- What an atomic finds in its way: nothing. -/
def AtomReady (op : MemOp) (d : BitVec 7) (w : BitVec 2) (rg : BitVec 5) (ord scope : BitVec 3) (x : Ctx) (s : State) : Prop :=
  Granted (x.rg rg) .atom (slotAccs x d w) ∧ Unhindered x s (x.rg rg) .atom 60 (slotAccs x d w) ∧
  pathBad x s (x.rg rg) .atom false op w scope.toNat (slotAccs x d w) = [] ∧ (2 ≤ ord.toNat → Released scope x s)

/-- The state in which its requests are under way. -/
def atomSent (op : MemOp) (d : BitVec 7) (w : BitVec 2) (rg : BitVec 5) (ord scope : BitVec 3) (x : Ctx) (s : State) : State :=
  s.atomNow x (x.rg rg) op d w (scOf s ord.toNat scope.toNat) (slotAccs x d w) (downAccs x s (x.rg rg) .atom (slotAccs x d w) ++
    (if scOf s ord.toNat scope.toNat = .none ∨ s.routeUp (route (.cd x.b.die) (.md 0)) then [] else slotAccs x d w))

/-- What the body of ATOM comes to with nothing in its way, and once it goes on. -/
theorem atom_body (i : Instr) (op : MemOp) (d : BitVec 7) (w : BitVec 2) (rg : BitVec 5) (ord scope : BitVec 3) :
    ∃ body : Ctx → State → Res,
      (∀ s, atom i op d w rg ord scope s = issue s i { plain .both [.slots d.toNat (if op = .cas then 3 else 2) (w == 1) (op != .st),
        .region rg.toNat] with roles := [.vector] } body) ∧
      (∀ x s, x.stage = 0 → AtomReady op d w rg ord scope x s → body x s
        = if isAcquire ord.toNat then .wait .performed 2 (atomSent op d w rg ord scope x s)
          else .done (atomSent op d w rg ord scope x s) [] .seq) ∧
      ∀ x s, x.stage = 2 → body x s = .done s [] .seq := by
  refine ⟨_, fun _ => rfl, fun x s h0 ⟨hg, hu, hp, hr⟩ => ?_, fun x s h2 => if_pos h2⟩
  have hrel (r : Res) : (if isRelease ord.toNat then releaseAt x s scope.toNat r else r) = r := by
    split
    next hord =>
      refine releaseAt_met (hr ?_) r
      simp only [isRelease, Bool.or_eq_true, beq_iff_eq] at hord
      omega
    · rfl
  have hm := hu.mapped
  have hw := hu.unwatched
  have hh := hu.present
  unfold slotAccs at hg hm hw hh hp
  simp only [h0, checkRegion_granted hg, hm, hp, laneRefusal_nil, hw, hh, hrel, (by decide : (0 : Nat) ≠ 2), if_false]
  rfl

theorem atom_completes {i : Instr} {op : MemOp} {d : BitVec 7} {w : BitVec 2} {rg : BitVec 5} {ord scope : BitVec 3}
    (he : ∀ s, exec i s = atom i op d w rg ord scope s) :
    let sp := { plain .both [.slots d.toNat (if op = .cas then 3 else 2) (w == 1) (op != .st), .region rg.toNat] with
      roles := [.vector] }
    CompletesWhen i sp (fun x s => AtomReady op d w rg ord scope x s ∧ (ord = 0 ∨ ord = 2))
      (changing (atomSent op d w rg ord scope)) ∧
    WaitsWhen i sp (fun x s => AtomReady op d w rg ord scope x s ∧ (ord = 1 ∨ ord = 3 ∨ ord = 4))
      (fun x s => (atomSent op d w rg ord scope x s, .performed, 2)) ∧
    EndsWhen i sp (fun x _ => x.stage = 2) (fun _ s => (s, [], .seq)) := by
  obtain ⟨body, ha, hready, hlate⟩ := atom_body i op d w rg ord scope
  have he' (s : State) := (he s).trans (ha s)
  refine ⟨completesWhen_of he' fun x s h0 ⟨h, ho⟩ => ?_, waitsWhen_of he' fun x s h0 ⟨h, ho⟩ => ?_,
    endsWhen_of he' fun x s h2 => hlate x s h2⟩
  · rw [hready x s h0 h]
    obtain rfl | rfl := ho
    · rfl
    · rfl
  · rw [hready x s h0 h]
    obtain rfl | rfl | rfl := ho
    · rfl
    · rfl
    · rfl

/-- Settles O28: the thirteen operations share one body. -/
theorem atomicsComplete : Obligations.AtomicsComplete := by
  intro d w rg ord scope ops io hio
  have h (i : Instr) (op : MemOp) (he : ∀ s, exec i s = atom i op d w rg ord scope s) := atom_completes he
  simp only [ops, List.mem_cons, List.not_mem_nil, or_false] at hio
  obtain rfl | rfl | rfl | rfl | rfl | rfl | rfl | rfl | rfl | rfl | rfl | rfl | rfl := hio <;> exact h _ _ fun _ => rfl

/-! ## RED and FENCE -/

/-- What a reduction finds in its way: nothing. Only lines that are not in L1 are translated. -/
def RedReady (op : MemOp) (d : BitVec 7) (w : BitVec 2) (rg : BitVec 5) (ord scope : BitVec 3) (out : List Acc) (x : Ctx) (s : State) :
    Prop :=
  Granted (x.rg rg) .red (slotAccs x d w) ∧ pass x s (x.rg rg) .write out = .go ∧
  watched x s (x.rg rg) 60 (slotAccs x d w) = none ∧ heldUp x s (x.rg rg) .write out = none ∧
  pathBad x s (x.rg rg) .write true op w scope.toNat (slotAccs x d w) = [] ∧ ownEntry x s (x.rg rg) = false ∧
  (ord = 2 → Released scope x s)

/-- The accesses whose lines are not in L1. -/
def redOut (d : BitVec 7) (w : BitVec 2) (rg : BitVec 5) (x : Ctx) (s : State) : List Acc :=
  (slotAccs x d w).filter (fun y => (s.lineOf x.b (x.rg rg) ((x.rg rg).addr y.2.1)).isNone)

theorem red_completes {i : Instr} {op : MemOp} {d : BitVec 7} {w : BitVec 2} {rg : BitVec 5} {ord scope : BitVec 3}
    (he : ∀ s, exec i s = red i op d w rg ord scope s) :
    CompletesWhen i { plain .both [.slots d.toNat 2 (w == 1) false, .region rg.toNat] with roles := [.vector] }
      (fun x s => RedReady op d w rg ord scope (redOut d w rg x s) x s)
      (changing fun x s => s.redNow x (x.rg rg) op w
        (x.lanes.map (fun l => (l, x.slotOff d w l, x.slotVal d w 1 l, BitVec.ofNat 64 (2 ^ (8 * atomSize w) - 1))))
        (downAccs x s (x.rg rg) .write (redOut d w rg x s))) := by
  refine completesWhen_of he fun x s _ ⟨hg, hm, hw, hh, hp, ho, hr⟩ => ?_
  have hlanes : (slotAccs x d w).map (fun a => (a.1, a.2.1, x.slotVal d w 1 a.1, BitVec.ofNat 64 (2 ^ (8 * atomSize w) - 1)))
      = x.lanes.map (fun l => (l, x.slotOff d w l, x.slotVal d w 1 l, BitVec.ofNat 64 (2 ^ (8 * atomSize w) - 1))) := by
    rw [slotAccs, List.map_map]
    rfl
  dsimp only [changing]
  rw [← hlanes]
  unfold redOut slotAccs at *
  simp only [checkRegion_granted hg, hm, hp, laneRefusal_nil, loggable_go hm hw ho hh]
  split
  next hord => exact releaseAt_met (hr hord) _
  · rfl

/-- Settles O30: the twelve reductions share one body, and FENCE is a release side alone. -/
theorem reductionsComplete : Obligations.ReductionsComplete := by
  intro d w rg ord scope
  refine ⟨fun io hio => ?_, completesWhen_of (fun _ => rfl) fun x s _ h => releaseAt_met h _,
    endsWhen_of (fun _ => rfl) fun x s h => releaseAt_met h _, waitsWhen_of (fun _ => rfl) fun x s _ h => releaseAt_owing _ h _,
    fun n => waitsWhen_of (fun _ => rfl) fun x s _ ⟨hp, hm, h⟩ => releaseAt_early hp hm h _⟩
  have h (i : Instr) (op : MemOp) (he : ∀ s, exec i s = red i op d w rg ord scope s) := red_completes he
  simp only [List.mem_cons, List.not_mem_nil, or_false] at hio
  obtain rfl | rfl | rfl | rfl | rfl | rfl | rfl | rfl | rfl | rfl | rfl | rfl := hio <;> exact h _ _ fun _ => rfl

end Sys2Proof.Machine

/-!
Copy commands, hints and PWAIT (O25): the checks of each pass, and what is left is the command, the hint, or the wait.
-/
namespace Sys2Proof.Machine

/-! ## Fields and checks of a command -/

/-- The bits of a word from `lo` on, all below bit `lo + n`. -/
theorem fld_below {v : DWord} {hi lo : Nat} (h : v.toNat < 2 ^ (hi + 1)) (hl : lo ≤ hi + 1) : fld v hi lo = v.toNat / 2 ^ lo := by
  rw [fld, Nat.shiftRight_eq_div_pow, Nat.mod_eq_of_lt]
  rwa [Nat.div_lt_iff_lt_mul (by positivity), ← pow_add, show hi + 1 - lo + lo = hi + 1 by omega]

theorem fld_above {v : DWord} {hi lo : Nat} (h : v.toNat < 2 ^ lo) : fld v hi lo = 0 := by
  rw [fld, Nat.shiftRight_eq_div_pow, Nat.div_eq_of_lt h, Nat.zero_mod]

theorem fld_low (v : DWord) (hi : Nat) : fld v hi 0 = v.toNat % 2 ^ (hi + 1) := by
  rw [fld, Nat.shiftRight_zero, Nat.sub_zero]

theorem checkBoth_granted {c : Ctx} {gd gs : Region} {dst src : List Acc} (hd : Granted gd .store dst) (hs : Granted gs .load src) :
    checkBoth c gd gs dst src = none := by
  rw [checkBoth, checkRegion_granted hd]
  exact checkRegion_granted hs

theorem afterOwn_performed {c : Ctx} {s : State} (h : s.allPerformed c.t = true) (r : State → Res) : afterOwn c s r = r s := if_pos h

theorem rangesMeet_false {x y n : Nat} (h : x + n ≤ y ∨ y + n ≤ x) : rangesMeet x y n = false := by
  simp only [rangesMeet, Bool.and_eq_false_iff, decide_eq_false_iff_not]
  omega

/-! ## CPY, CPYG, XST and DUPD -/

/-- The operands of a command that R232 allows: offsets and length in 16-byte units, a length that is not 0, and no bit from
`limit` on. -/
def copySizes (x : Ctx) (b : BitVec 7) (limit : Nat) : Prop :=
  (x.item b.toNat 0).toNat % 16 = 0 ∧ (x.item b.toNat 1).toNat % 16 = 0 ∧ (x.item b.toNat 2).toNat % 2 ^ 32 % 16 = 0 ∧
  0 < (x.item b.toNat 2).toNat % 2 ^ 32 ∧ (x.item b.toNat 2).toNat % 2 ^ 32 ≤ 2 ^ 31 ∧ (x.item b.toNat 2).toNat < limit

/-- A command may store at its destination and load at its source, and its thread's operations are performed. -/
def copyReady (x : Ctx) (s : State) (gd gs : Region) (dst src : List Acc) : Prop :=
  Granted gd .store dst ∧ Granted gs .load src ∧ s.allPerformed x.t = true

/-- The range that an item gives the offset of. -/
def itemRange (x : Ctx) (b : BitVec 7) (j : Nat) : List Acc := [(x.low, (x.item b.toNat j).toNat, (x.item b.toNat 2).toNat % 2 ^ 32)]

theorem cpy_completes (d a : BitVec 5) (b : BitVec 7) :
    CompletesWhen (.cpy d a b) (copying .both [.region d.toNat, .region a.toNat, .items b.toNat 3 false])
      (fun x s => copyReady x s (x.rg d) (x.rg a) (itemRange x b 0) (itemRange x b 1) ∧ copySizes x b (2 ^ 36) ∧
        (d = a → (x.item b.toNat 0).toNat + (x.item b.toNat 2).toNat % 2 ^ 32 ≤ (x.item b.toNat 1).toNat ∨
          (x.item b.toNat 1).toNat + (x.item b.toNat 2).toNat % 2 ^ 32 ≤ (x.item b.toNat 0).toNat))
      (changing fun x s => s.startCopy x (.cpy d a b) (x.rg a) (x.rg d)
        [(x.b.pos (x.rg a) (x.item b.toNat 1).toNat, x.b.pos (x.rg d) (x.item b.toNat 0).toNat, (x.item b.toNat 2).toNat % 2 ^ 32)]
        [] 0 0 x.t.blk (some ((x.item b.toNat 2).toNat / 2 ^ 32)) true) := by
  refine completesWhen_of (fun _ => rfl) fun x s _ ⟨⟨hd, hs, hp⟩, ⟨h1, h2, h3, h4, h5, h6⟩, ho⟩ => ?_
  have hmeet : ¬ (d = a ∧ rangesMeet (x.item b.toNat 0).toNat (x.item b.toNat 1).toNat ((x.item b.toNat 2).toNat % 2 ^ 32) = true) := by
    rintro ⟨hda, hm⟩
    rw [rangesMeet_false (ho hda)] at hm
    cases hm
  have hc := checkBoth_granted (c := x) hd hs
  unfold itemRange at hc
  simp only [fld_low, fld_above h6, fld_below h6 (by decide : 32 ≤ 36), lane0, hc, h1, h2, h3, h4.ne', not_lt.2 h5, hmeet,
    afterOwn_performed hp, ne_eq, not_true_eq_false, or_self, if_false]
  rfl

theorem xst_completes (d a : BitVec 5) (b : BitVec 7) :
    CompletesWhen (.xst d a b) (copying .both [.region d.toNat, .region a.toNat, .items b.toNat 3 false])
      (fun x s => copyReady x s (x.rg d) (x.rg a) (itemRange x b 0) (itemRange x b 1) ∧ copySizes x b (2 ^ 40) ∧
        (x.rg d).space = 3 ∧ (x.item b.toNat 2).toNat / 2 ^ 36 < x.b.clusz)
      (changing fun x s => s.takeFresh.2.startCopy x (.xst d a b) (x.rg a) (x.rg d)
        [(x.b.pos (x.rg a) (x.item b.toNat 1).toNat, (x.rg d).addr (x.item b.toNat 0).toNat, (x.item b.toNat 2).toNat % 2 ^ 32)] [] 0 0
        ((s.clusterBlock x.b ((x.item b.toNat 2).toNat / 2 ^ 36)).getD s.fresh)
        (some ((x.item b.toNat 2).toNat / 2 ^ 32 % 16)) false) := by
  refine completesWhen_of (fun _ => rfl) fun x s _ ⟨⟨hd, hs, hp⟩, ⟨h1, h2, h3, h4, h5, h6⟩, hx, ht⟩ => ?_
  have hc := checkBoth_granted (c := x) hd hs
  have hn : fld (x.item b.toNat 2) 35 32 = (x.item b.toNat 2).toNat / 2 ^ 32 % 16 := by
    rw [fld, Nat.shiftRight_eq_div_pow]
    rfl
  unfold itemRange at hc
  simp only [fld_low, fld_above h6, hn, fld_below h6 (by decide : 36 ≤ 40), lane0, hc, h1, h2, h3, h4.ne', not_lt.2 h5, not_le.2 ht, hx,
    afterOwn_performed hp, ne_eq, not_true_eq_false, and_false, or_self, if_false]
  rfl

/-- The bytes of each lane's element, as a control word gives them. -/
def gatherSize (ctl : Nat) : Nat := [4, 8, 16, 128].getD (ctl % 4) 128

/-- CPYG's accesses through the register of offsets `r`. -/
def gatherAccs (x : Ctx) (size r : Nat) : List Acc := x.lanes.map (fun l => (l, (x.r32 r l).toNat, size))

theorem gatherAccs_odd {x : Ctx} {size r : Nat} (h : ∀ l ∈ x.lanes, (x.r32 r l).toNat % size = 0) :
    (gatherAccs x size r).filter (fun a => a.2.1 % size != 0) = [] := by
  simpa [gatherAccs, List.filter_eq_nil_iff] using h

theorem cpyg_completes (d a : BitVec 5) (b : BitVec 7) :
    let ctl := fun (x : Ctx) => (x.r32 (b.toNat + 2) x.low).toNat
    let size := fun (x : Ctx) => gatherSize (ctl x)
    let places := fun (x : Ctx) => topLanes (x.lanes.map (fun l =>
      (l, x.b.pos (x.rg a) (x.r32 (b.toNat + 1) l).toNat, x.b.pos (x.rg d) (x.r32 b.toNat l).toNat, size x)))
    CompletesWhen (.cpyg d a b) (copying .warp [.region d.toNat, .region a.toNat, .run b.toNat 3 false])
      (fun x s => copyReady x s (x.rg d) (x.rg a) (gatherAccs x (size x) b.toNat) (gatherAccs x (size x) (b.toNat + 1)) ∧
        ctl x < 256 ∧ ctl x / 4 % 4 = 0 ∧
        ∀ l ∈ x.lanes, (x.r32 b.toNat l).toNat % size x = 0 ∧ (x.r32 (b.toNat + 1) l).toNat % size x = 0)
      (changing fun x s => s.startCopy x (.cpyg d a b) (x.rg a) (x.rg d)
        ((places x).map (·.2)) [] 0 0 x.t.blk (some (ctl x / 16)) true (places x)) := by
  dsimp only
  refine completesWhen_of (fun _ => rfl) fun x s _ ⟨⟨hd, hs, hp⟩, h1, h2, h3⟩ => ?_
  have hc := checkBoth_granted (c := x) hd hs
  have hd' := gatherAccs_odd fun l hl => (h3 l hl).1
  have hs' := gatherAccs_odd fun l hl => (h3 l hl).2
  have hn : (x.r32 (b.toNat + 2) x.low).toNat / 16 % 16 = (x.r32 (b.toNat + 2) x.low).toNat / 16 := Nat.mod_eq_of_lt (by omega)
  have hctl : (x.r32 (b.toNat + 2) x.low).toNat % 4 = 0 ∨ (x.r32 (b.toNat + 2) x.low).toNat % 4 = 1 ∨
      (x.r32 (b.toNat + 2) x.low).toNat % 4 = 2 ∨ (x.r32 (b.toNat + 2) x.low).toNat % 4 = 3 := by omega
  rcases hctl with hctl | hctl | hctl | hctl
  all_goals
    simp only [gatherSize, gatherAccs, hctl, List.getD_cons_zero, List.getD_cons_succ] at hc hd' hs'
    simp only [gatherSize, hctl, List.getD_cons_zero, List.getD_cons_succ, h2, not_le.2 h1, hc, hd', hs', laneRefusal_nil, Option.orElse,
      afterOwn_performed hp, hn, changing, Function.comp_def, ne_eq, not_true_eq_false, or_self, if_false, List.zip_map', List.map_map]

theorem dupd_completes (d : BitVec 5) (v b : BitVec 7) :
    let ctl := fun (x : Ctx) => (x.r32 (b.toNat + 1) x.low).toNat
    CompletesWhen (.dupd d v b) (copying .warp [.region d.toNat, .run v.toNat 1 false, .run b.toNat 2 false])
      (fun x s => Granted (x.rg d) .update (gatherAccs x 4 b.toNat) ∧ s.allPerformed x.t = true ∧
        (∀ l ∈ x.lanes, (x.r32 b.toNat l).toNat % 4 = 0) ∧ ctl x < 4096 ∧ ctl x / 64 % 4 = 0 ∧
        (dupdOp (ctl x % 16) (ctl x / 16 % 4)).isSome ∧ pass x s (x.rg d) .write (gatherAccs x 4 b.toNat) = .go ∧
        ownEntry x s (x.rg d) = false)
      (changing fun x s => s.startCopy x (.dupd d v b) Region.empty (x.rg d) []
        (x.lanes.map (fun l => (x.b.pos (x.rg d) (x.r32 b.toNat l).toNat, (x.r32 v.toNat l).setWidth 64)))
        (ctl x % 16) (ctl x / 16 % 4) x.t.blk (some (ctl x / 256)) false
        (x.lanes.map (fun l => (l, 0, x.b.pos (x.rg d) (x.r32 b.toNat l).toNat, 4)))) := by
  dsimp only
  refine completesWhen_of (fun _ => rfl) fun x s _ ⟨hg, hp, ha, h1, h2, h3, hm, ho⟩ => ?_
  have hodd := gatherAccs_odd ha
  have hn : (x.r32 (b.toNat + 1) x.low).toNat / 256 % 16 = (x.r32 (b.toNat + 1) x.low).toNat / 256 := Nat.mod_eq_of_lt (by omega)
  have h3' := Option.isSome_iff_ne_none.1 h3
  unfold gatherAccs at hg hodd hm
  simp only [h2, not_le.2 h1, Option.isNone_iff_eq_none, h3', checkRegion_granted hg, hodd, laneRefusal_nil, Option.orElse, hm, ho,
    afterOwn_performed hp, hn, ne_eq, not_true_eq_false, or_self, if_false, List.isEmpty_nil, Bool.not_true,
    List.map_map]
  rfl

/-! ## Hints and presence (09 R237, R239) -/

theorem hintRefusal_granted {c : Ctx} {g : Region} {off len : Nat} (hg : Granted g .load [(c.low, off, len)]) (hk : g.kind ≠ 4) :
    hintRefusal c g off len = none := by
  unfold hintRefusal lane0
  rw [if_neg (fun h => hk h.2.2), checkRegion_granted hg]
  rfl

theorem entry_countIssue (s : State) (c : Ctx) (die k : Nat) : (s.countIssue c).entry die k = s.entry die k := by
  obtain ⟨cs, hcs⟩ : ∃ cs, s.countIssue c = { s with cores := cs } := s.pmcCount_eq _ _ _
  rw [hcs]
  rfl

theorem dropHint_mem (s : State) (b : Block) (cause va : Nat) : (s.dropHint b cause va).mem = s.mem := by
  obtain ⟨cs, hcs⟩ := ((s.addCdReg b.die 0x3E4).setCdReg b.die 0x3A0
    (BitVec.ofNat 64 (2 ^ 63 + cause * 2 ^ 60 + va % 2 ^ 56))).pmcCount_eq b.coreIx 10 1
  rw [State.dropHint, hcs]
  simp only [State.setCdReg_mem, State.addCdReg_mem]

theorem countIssue_mem (s : State) (c : Ctx) : (s.countIssue c).mem = s.mem := by
  obtain ⟨cs, hcs⟩ := s.countIssue_eq c
  rw [hcs]

/-- A fold keeps what each of its steps keeps. -/
theorem foldl_mem {α : Type} {f : State → α → State} (hf : ∀ s p, (f s p).mem = s.mem) (l : List α) (s : State) :
    (l.foldl f s).mem = s.mem := by
  induction l generalizing s with
  | nil => rfl
  | cons p l ih => rw [List.foldl_cons, ih, hf]

/-- What an instruction comes to whose body completes without a result. -/
theorem completes_with {i : Instr} {sp : Spec} {s : State} {c : Ctx} {body : Ctx → State → Res} {P : State → Prop}
    (he : ∀ s, exec i s = issue s i sp body) (hc : Clear s i sp c)
    (hb : ∃ t, body (c.operands sp) (s.countIssue c) = .done t [] .seq ∧ P t) :
    ∃ t, exec i s = .next (t.done sp c [] .seq) ∧ P t := by
  obtain ⟨t, ht, hP⟩ := hb
  refine ⟨t, ?_, hP⟩
  rw [he, issue_clear hc, ht]
  rfl

/-- What a hint or PWAIT names, and the range of its items. -/
def hintSpec (a : BitVec 5) (b : BitVec 7) : Spec := { plain .both [.region a.toNat, .items b.toNat 2 false] with roles := [.copy] }
def hintRange (x : Ctx) (b : BitVec 7) : List Acc := [(x.low, (x.item b.toNat 0).toNat, (x.item b.toNat 1).toNat % 2 ^ 32)]

theorem pref_completes {a : BitVec 5} {b : BitVec 7} {s : State} {c x : Ctx} (hc : Clear s (.pref a b) (hintSpec a b) c)
    (hx : c.operands (hintSpec a b) = x) (hg : Granted (x.rg a) .load (hintRange x b)) (hk : (x.rg a).kind ≠ 4)
    (hn : (x.item b.toNat 1).toNat < 3 * 2 ^ 32)
    (hst : (x.rg a).space = 0 → ((s.entry c.b.die (x.rg a).tag).map (·.stamp)).getD 0 = 0) :
    ∃ t, exec (.pref a b) s = .next (t.done (hintSpec a b) c [] .seq) ∧
      (2 ≤ (x.rg a).space.toNat → t = s.countIssue c) := by
  refine completes_with (fun _ => rfl) hc ?_
  have hstamp : (s.countIssue c).stamped x.b (x.rg a) = false := by
    refine stamped_false fun h0 => ?_
    rw [entry_countIssue, ← hx]
    rw [← hx] at hst h0
    exact hst h0
  have hlevel : fld (x.item b.toNat 1) 33 32 ≠ 3 := by
    rw [fld_below (by omega) (by decide)]
    omega
  rw [hx]
  simp only [fld_above (show (x.item b.toNat 1).toNat < 2 ^ 34 by omega), hlevel, fld_low, hintRefusal_granted hg hk, hstamp, ne_eq,
    not_true_eq_false, or_self, if_false, Bool.false_eq_true]
  by_cases h2 : 2 ≤ (x.rg a).space.toNat
  · exact ⟨_, if_pos h2, fun _ => rfl⟩
  · rw [if_neg h2]
    by_cases h1 : (x.rg a).space = 1
    · exact ⟨_, if_pos h1, fun h => absurd h h2⟩
    · exact ⟨_, if_neg h1, fun h => absurd h h2⟩

/-- RES changes what the memory-side caches hold, and its counters. -/
theorem res_completes {a : BitVec 5} {b : BitVec 7} {s : State} {c x : Ctx} (hc : Clear s (.res a b) (hintSpec a b) c)
    (hx : c.operands (hintSpec a b) = x) (hg : Granted (x.rg a) .load (hintRange x b)) (hk : (x.rg a).kind ≠ 4)
    (hn : (x.item b.toNat 1).toNat < 2 ^ 33) :
    ∃ t, exec (.res a b) s = .next (t.done (hintSpec a b) c [] .seq) ∧ t.mem = s.mem ∧
      ((x.rg a).space ≠ 0 → t = s.countIssue c) := by
  refine completes_with (fun _ => rfl) hc ?_
  rw [hx]
  simp only [fld_above hn, fld_low, hintRefusal_granted hg hk, ne_eq, not_true_eq_false, if_false]
  by_cases h0 : (x.rg a).space = 0
  · refine ⟨_, if_neg (not_not.2 h0), (foldl_mem (fun s p => ?_) _ _).trans (countIssue_mem s c), fun h => absurd h0 h⟩
    split
    · split
      · exact dropHint_mem _ _ _ _
      · split
        · rfl
        · split
          · split
            · exact dropHint_mem _ _ _ _
            · rw [State.updMd_mem, State.updMd_mem]
          · exact State.updMd_mem _ _ _
    · exact dropHint_mem _ _ _ _
    · exact dropHint_mem _ _ _ _
  · exact ⟨_, if_pos h0, countIssue_mem s c, fun _ => rfl⟩

/-- The first of the bytes of scratch that PWAIT's range names. -/
def pwaitAt (a : BitVec 5) (b : BitVec 7) (x : Ctx) : Nat := x.b.scratchOff (x.rg a).space.toNat ((x.rg a).addr (x.item b.toNat 0).toNat)

/-- What PWAIT asks of its operands, and whether a line of its range is absent. -/
def pwaitReady (a : BitVec 5) (b : BitVec 7) (absent : Bool) (x : Ctx) : Prop :=
  (x.item b.toNat 1).toNat < 2 ^ 32 ∧ 2 ≤ (x.rg a).space.toNat ∧ Granted (x.rg a) .load (hintRange x b) ∧
  x.b.absentIn (pwaitAt a b x) ((x.item b.toNat 1).toNat % 2 ^ 32) = absent

theorem pwait_completes (a : BitVec 5) (b : BitVec 7) :
    CompletesWhen (.pwait a b) (hintSpec a b) (fun x _ => pwaitReady a b false x) (fun _ s => (s, [], .seq)) := by
  refine completesWhen_of (fun _ => rfl) fun x s _ ⟨hn, hsp, hg, hpr⟩ => ?_
  have hc := checkRegion_granted (c := x) hg
  unfold hintRange at hc
  unfold pwaitAt at hpr
  simp only [fld_above hn, fld_low, lane0, hc, hpr, not_le.2 (Nat.lt_of_succ_le hsp), ne_eq, not_true_eq_false, and_false, if_false,
    Bool.false_eq_true]

theorem pwait_waits (a : BitVec 5) (b : BitVec 7) :
    WaitsWhen (.pwait a b) (hintSpec a b) (fun x _ => pwaitReady a b true x)
      (fun x s => (s, .lines (pwaitAt a b x / 128) ((pwaitAt a b x + (x.item b.toNat 1).toNat % 2 ^ 32 - 1) / 128), 0)) := by
  refine waitsWhen_of (fun _ => rfl) fun x s _ ⟨hn, hsp, hg, hpr⟩ => ?_
  have hc := checkRegion_granted (c := x) hg
  unfold hintRange at hc
  unfold pwaitAt at hpr ⊢
  simp only [fld_above hn, fld_low, lane0, hc, hpr, not_le.2 (Nat.lt_of_succ_le hsp), ne_eq, not_true_eq_false, and_false, if_false,
    if_true]

/-- Settles O25: each command passes its checks and starts, and each hint ends on either side of its space. -/
theorem copiesComplete : Obligations.CopiesComplete := by
  refine ⟨fun d a b v => ?_, fun a b => ?_⟩
  · exact ⟨cpy_completes d a b, cpyg_completes d a b, xst_completes d a b, dupd_completes d v b⟩
  · intro sp off ctl len ok line
    exact ⟨fun s c hc hok hn hst => pref_completes hc rfl hok.1 hok.2 hn hst,
      fun s c hc hok hn => res_completes hc rfl hok.1 hok.2 hn, pwait_completes a b, pwait_waits a b⟩

end Sys2Proof.Machine

/-!
The steps of homes and ownership tables (O46; 11 R273-R280): what a home's entry makes of a RETURN or a RECLAIM, and what a die's
entry makes of a GRANT, a PENDING, a LOST or a RETACK.
-/
namespace Sys2Proof.Machine

/-! ## The entry that a message names at its home (11 R273, R278) -/

section
variable {s : State} {h : Nat} {m : EopMsg} {x : HomeEntry} {l : KMap HomeEntry} {k : Nat}

theorem filter_held_some (hx : kget l k = some x) (hs : x.state = .held) :
    (kget l k).filter (fun e => e.state == .held) = some x := by
  simp [hx, hs]

theorem filter_held_none (hl : ∀ y, kget l k = some y → y.state ≠ .held) :
    (kget l k).filter (fun e => e.state == .held) = none := by
  simpa [Option.filter_eq_none_iff] using hl

theorem State.homeReclaim_notHeld (hl : ∀ y, kget (s.md h).home m.home = some y → y.state ≠ .held) : s.homeReclaim h m = s := by
  have hnone : (kget (s.md h).home m.home).any (fun e => e.state == .held) = false := by
    cases hk : kget (s.md h).home m.home with
    | none => rfl
    | some y => simpa using hl y hk
  simp [State.homeReclaim, hnone]

variable (hx : kget (s.md h).home m.home = some x) (hs : x.state = .held)
include hx hs

/-- A reclaim that meets a HELD entry rests on its taint flag, and one with taint on the room of the table. -/
theorem State.homeReclaim_held : s.homeReclaim h m =
    if m.flags.getLsbD 0 = false then s.homeFree h m.home
    else if homeSize ≤ (s.md h).home.length then s.updMd h (fun y => { y with port := y.port ++ [m] })
    else s.homeMark h m := by
  simp [State.homeReclaim, hx, hs]

theorem State.homeMark_held : s.homeMark h m =
    ((s.noteWrite h x.base x.lenm1 (s.writeWindow m)).updHome h (fun l =>
      kupd l m.home (fun y => { y with state := .taintmark, kind := 0, wp := false }))).homeGrantAll h := by
  rw [State.homeMark, filter_held_some hx hs]

/-- A RETURN is acknowledged, its write-back noted, and the entry freed (11 R278). -/
theorem exec_returnMessage_held (hdue : s.due = some (.returnMessage h m)) :
    let acked := s.toDie h x 8 0 0 m.home
    exec .returnMessage s = .next ((if m.flags.getLsbD 0 then acked.noteWrite h x.base x.lenm1 (acked.writeWindow m)
      else acked).homeFree h m.home) := by
  change execReturnMessage s = _
  simp only [execReturnMessage, hdue, filter_held_some hx hs]

end

theorem exec_returnMessage_notHeld {s : State} {h : Nat} {m : EopMsg} (hdue : s.due = some (.returnMessage h m))
    (hl : ∀ y, kget (s.md h).home m.home = some y → y.state ≠ .held) : exec .returnMessage s = .next s := by
  change execReturnMessage s = _
  simp only [execReturnMessage, hdue, filter_held_none hl]

theorem exec_reclaim {s : State} {h : Nat} {m : EopMsg} (hdue : s.due = some (.reclaim h m))
    (hf : m.flags.getLsbD 1 = false) : exec .reclaim s = .next (s.homeReclaim h m) := by
  change execReclaim s = _
  simp only [execReclaim, hdue, hf]
  rfl

/-- HCLR frees a LOST entry of the home that it names (16 R408). -/
theorem State.hostClear_lost {s : State} {h : Nat} {v : DWord} {x : HomeEntry} (hphase : s.pkg.phase = .ready)
    (hgo : v.getLsbD 63 = true) (hown : v.getLsbD 62 = false) (hzero : fld v 61 18 = 0)
    (hx : kget (s.md h).home (fld v 17 0) = some x) (hs : x.state = .lost) :
    s.hostClear h v = s.homeFree h (fld v 17 0) := by
  have hhome : (if bitOf v 62 then 16 else h) = h := if_neg (Bool.eq_false_iff.1 hown)
  unfold State.hostClear
  simp only [hhome]
  simp [bitOf, hphase, hgo, hown, hzero, hx, hs, -BitVec.getLsbD_eq_getElem]

/-! ## The entry that a message names at its die (11 R270, R277) -/

/-- A die's registers stand apart from its ownership table. -/
@[simp] theorem State.addCdReg_entry (s : State) (d num k ix : Nat) : (s.addCdReg d num).entry k ix = s.entry k ix := by
  unfold State.addCdReg State.setCdReg
  refine congrArg (kget · ix) (State.cd_updCd_kept (p := Cd.entries) ?_ s d k)
  exact fun _ => rfl

@[simp] theorem State.addCdReg_stampIn (s : State) (d num : Nat) (m : EopMsg) : (s.addCdReg d num).stampIn m = s.stampIn m := rfl

/-- A requesting entry after the grant of its piece `i`. -/
def DieEntry.grantedAt (e : DieEntry) (s : State) (m : EopMsg) (i : Nat) : DieEntry :=
  { e with stamp := max e.stamp (s.stampIn m),
           pieces := lset e.pieces i (fun p => { p with granted := true, ix := m.home }) }

section
variable {s : State} {d : Nat} {m : EopMsg} {e : DieEntry}

/-- A grant of the next piece is counted and entered; then the borrow is complete, or its next piece is asked for. -/
theorem exec_grant_granted (hdue : s.due = some (.grant d m)) (he : s.entry d m.dieIx = some e) (hs : e.state = .requesting)
    (h0 : m.status = 0) {i : Nat} (hi : nextPiece e.pieces = some i) :
    let t := (s.addCdReg d 0x3E7).updEntry d m.dieIx (fun _ => e.grantedAt s m i)
    exec .grant s = .next (if nextPiece (e.grantedAt s m i).pieces = none then t.grantDone d m.dieIx
      else t.requestNext d m.dieIx) := by
  have htaint : (e.taint || (0 : Nat) == 3) = e.taint := Bool.or_false _
  change execGrant s = _
  simp only [execGrant, hdue, h0, true_or, if_true, show ¬ (0 : Nat) = 3 by decide, if_false, State.addCdReg_entry, he, hs, hi,
    htaint, Option.isNone_iff_eq_none, State.addCdReg_stampIn, DieEntry.grantedAt]

theorem exec_grant_refused (hdue : s.due = some (.grant d m)) (he : s.entry d m.dieIx = some e) (hs : e.state = .requesting)
    (h0 : m.status ≠ 0) (h3 : m.status ≠ 3) :
    exec .grant s = .next ((s.updEntry d m.dieIx (fun y => { y with status := m.status })).returnPieces d m.dieIx false) := by
  change execGrant s = _
  simp only [execGrant, hdue, h0, h3, or_self, if_false, he, hs]

/-- A writer's notice marks a read entry that is held or asked for, and its registers (11 R276; log 78). -/
theorem exec_pending_marks (hdue : s.due = some (.pending d m)) (he : s.entry d m.dieIx = some e)
    (hs : e.state = .held ∨ e.state = .requesting) (hk : e.kind = 2 ∨ e.kind = 3) (hw : m.kind = 1)
    (hf : m.flags.getLsbD 0 = false) :
    exec .pending s = .next ((s.updEntry d m.dieIx (fun y => { y with wp := true })).mapSlot d m.dieIx markPending) := by
  have hreads : e.kind = 2 ∨ e.kind = 3 ∨ e.want = 5 := hk.imp_right .inl
  change execPending s = _
  simp only [execPending, hdue, he, hs, hreads, hw, hf]
  rfl

theorem exec_pending_discarded (hdue : s.due = some (.pending d m)) (he : s.entry d m.dieIx = some e)
    (hh : e.state ≠ .held) (hr : e.state ≠ .requesting) : exec .pending s = .next s := by
  change execPending s = _
  simp only [execPending, hdue, he, hh, hr, or_self, false_and, if_false]

theorem exec_lost_requesting (hdue : s.due = some (.lost d m)) (he : s.entry d m.dieIx = some e) (hs : e.state = .requesting) :
    exec .lost s = .next ((s.updEntry d m.dieIx (fun y => { y with status := 4 })).returnPieces d m.dieIx false) := by
  change execLost s = _
  simp only [execLost, hdue, he, hs, if_true]

/-- A RETACK brings one piece back; the last one frees the entry (11 R277). -/
theorem exec_retack_leaving (hdue : s.due = some (.retack d m)) (he : s.entry d m.dieIx = some e)
    (hs : e.state = .returning ∨ e.state = .abandoned) :
    exec .retack s = .next (if ∀ p ∈ pieceBack m e.pieces, p.gone = true then (s.freeEntry d m.dieIx).tellRefused d e
      else s.updEntry d m.dieIx (fun y => { y with pieces := pieceBack m e.pieces })) := by
  change execRetack s = _
  simp only [execRetack, hdue, he, hs, if_true, List.all_eq_true]
  split <;> rfl

end

theorem exec_cleanAfterRelease_passed {s : State} {d ix : Nat} {e : DieEntry} (hdue : s.due = some (.cleanAfterRelease d ix))
    (he : s.entry d ix = some e) (ht : e.stamp * 2 ^ fld s.pkg.wlen 3 0 ≤ s.pkg.timeNs.toNat) :
    exec .cleanAfterRelease s = .next (s.updEntry d ix (fun y => { y with stamp := 0 })) := by
  change execCleanAfterRelease s = _
  simp only [execCleanAfterRelease, hdue, he, ht, if_true]

/-- Settles O46: a message acts on the one entry that it names, at its home or at its die, as that entry's state says. -/
theorem ownershipStepsComplete : Obligations.OwnershipStepsComplete := by
  unfold Obligations.OwnershipStepsComplete
  intro s h d ix ctr m x e v goes homes mine put back held freed rest
  refine ⟨?reqBorrow, ?reqConvert, ?returnClean, ?returnDirty, ?returnNone, ?count, ?reclaimNone, ?reclaimClean, ?reclaimMark,
    ?reclaimFull, ?grantRefused, ?granted, ?pendingMarks, ?pendingDiscarded, ?lost, ?retackLast, ?retackOne, ?discard,
    ?cleanAfter, ?hclr⟩
  case reqBorrow =>
    intro hdue h5 h6
    change execReq s = _
    simp only [execReq, hdue, h5, h6, or_self, if_false]
  case reqConvert =>
    intro hdue hk
    change execReq s = _
    simp only [execReq, hdue, hk, if_true]
  case returnClean =>
    intro hdue hheld hf
    obtain ⟨hx, hs⟩ := hheld
    refine (exec_returnMessage_held hx hs hdue).trans ?_
    rw [hf]
    rfl
  case returnDirty =>
    intro hdue hheld hf
    obtain ⟨hx, hs⟩ := hheld
    refine (exec_returnMessage_held hx hs hdue).trans ?_
    rw [hf]
    rfl
  case returnNone => exact exec_returnMessage_notHeld
  case count =>
    intro hdue
    change execCount s = _
    simp only [execCount, hdue]
    rfl
  case reclaimNone =>
    intro hdue hf hl
    exact (exec_reclaim hdue hf).trans (congrArg Host.Outcome.next (State.homeReclaim_notHeld hl))
  case reclaimClean =>
    intro hdue hf hheld h0
    obtain ⟨hx, hs⟩ := hheld
    exact (exec_reclaim hdue hf).trans (congrArg Host.Outcome.next ((State.homeReclaim_held hx hs).trans (if_pos h0)))
  case reclaimMark =>
    intro hdue hf hheld h0 hroom
    obtain ⟨hx, hs⟩ := hheld
    have hmark : s.homeReclaim h m = s.homeMark h m := by
      rw [State.homeReclaim_held hx hs, if_neg (by simp [h0]), if_neg (Nat.not_le.2 hroom)]
    exact (exec_reclaim hdue hf).trans (congrArg Host.Outcome.next (hmark.trans (State.homeMark_held hx hs)))
  case reclaimFull =>
    intro hdue hf hheld h0 hfull
    obtain ⟨hx, hs⟩ := hheld
    refine (exec_reclaim hdue hf).trans (congrArg Host.Outcome.next ?_)
    rw [State.homeReclaim_held hx hs, if_neg (by simp [h0]), if_pos hfull]
  case grantRefused => exact exec_grant_refused
  case granted =>
    intro hdue he hs h0 i hi
    exact exec_grant_granted hdue he hs h0 hi
  case pendingMarks => exact exec_pending_marks
  case pendingDiscarded => exact exec_pending_discarded
  case lost => exact exec_lost_requesting
  case retackLast =>
    intro hdue he hs hgone
    exact (exec_retack_leaving hdue he hs).trans (congrArg Host.Outcome.next (if_pos hgone))
  case retackOne =>
    intro hdue he hs hout
    obtain ⟨p, hp, hkept⟩ := hout
    have hsome : ¬ ∀ q ∈ rest, q.gone = true := fun hall => Bool.eq_false_iff.1 hkept (hall p hp)
    exact (exec_retack_leaving hdue he hs).trans (congrArg Host.Outcome.next (if_neg hsome))
  case discard =>
    intro hdue
    refine ⟨s.bump ctr 4, ?_, (kget_kset ..).trans (if_pos rfl), rfl, rfl⟩
    change execEopDiscard s = _
    simp only [execEopDiscard, hdue]
  case cleanAfter => exact exec_cleanAfterRelease_passed
  case hclr =>
    intro hdue hphase hgo hown hzero hx hs
    change execHclr s = _
    simp only [execHclr, hdue]
    exact congrArg Host.Outcome.next (State.hostClear_lost hphase hgo hown hzero hx hs)

end Sys2Proof.Machine

/-!
The reset interleave of device memory (O59; 16 R413): the stack of an address is the XOR of the nibbles of its granule's number, so
the granule's upper nibbles and the stack give its lowest nibble back.
-/
namespace Sys2Proof.Machine

theorem nibbleXor_lt (n q : Nat) : nibbleXor n q < 16 := by
  induction n generalizing q with
  | zero => exact Nat.zero_lt_succ _
  | succ n ih => exact Nat.xor_lt_two_pow (n := 4) (Nat.mod_lt q (by decide)) (ih (q / 16))

/-- Numbers with the same upper nibbles and the same XOR of all nibbles are one. -/
theorem eq_of_nibbleXor {n q r : Nat} (hd : q / 16 = r / 16) (hx : nibbleXor (n + 1) q = nibbleXor (n + 1) r) : q = r := by
  simp only [nibbleXor, hd] at hx
  have hm : q % 16 = r % 16 := Nat.xor_left_injective hx
  omega

/-- The reset value of the interleave register: stack `i` at nibble `i`. -/
theorem reset_interleave : ∀ i < 16, fld 0xFEDCBA9876543210 63 0 >>> (4 * i) % 16 = i := by decide

theorem placeKey_inj {m n a b : Nat} (ha : a < 2 ^ 48) (hb : b < 2 ^ 48) (h : placeKey m a = placeKey n b) : m = n ∧ a = b := by
  unfold placeKey at h
  omega

/-- A granule's place in its stack, and an address's place in its granule. -/
theorem granule_inj {g p q : Nat} (h : ((p >>> g) / 16) <<< g + p % 2 ^ g = ((q >>> g) / 16) <<< g + q % 2 ^ g) :
    (p >>> g) / 16 = (q >>> g) / 16 ∧ p % 2 ^ g = q % 2 ^ g := by
  have hp := Nat.mod_lt p (Nat.two_pow_pos g)
  have hq := Nat.mod_lt q (Nat.two_pow_pos g)
  rw [Nat.shiftLeft_eq, Nat.shiftLeft_eq] at h
  have hlow : p % 2 ^ g = q % 2 ^ g := by rw [← Nat.mul_add_mod_of_lt hp, h, Nat.mul_add_mod_of_lt hq]
  rw [hlow] at h
  exact ⟨Nat.eq_of_mul_eq_mul_right (Nat.two_pow_pos g) (Nat.add_right_cancel h), hlow⟩

theorem State.paKey_reset {s : State} {d p : Nat} (hmin : s.pkg.minimal = false) (hcols : s.cols d = 15)
    (hmap : s.cdReg d 0x301 = 0xFEDCBA9876543210) (hp : p < 16 * 98048 * 2 ^ 20) :
    s.paKey d p = some (placeKey (nibbleXor 16 (p >>> s.granule d))
      (((p >>> s.granule d) / 16) <<< s.granule d + p % 2 ^ s.granule d)) := by
  have hn : s.mdCount d = 16 := by simp [State.mdCount, hmin, hcols, List.range_succ, Nat.testBit]
  have hx := nibbleXor_lt 16 (p >>> s.granule d)
  simp only [State.paKey, hn, if_pos hp, hmap, Nat.mod_eq_of_lt hx, reset_interleave _ hx]

/-- Settles O59: the stack and the place in it give the granule, and the granule the address. -/
theorem interleaveIsOneToOne : Obligations.InterleaveIsOneToOne := by
  intro s d p q k hmin hcols hmap hp hq hkp hkq
  rw [State.paKey_reset hmin hcols hmap hp] at hkp
  rw [State.paKey_reset hmin hcols hmap hq] at hkq
  have hkey := Option.some.inj (hkp.trans hkq.symm)
  generalize s.granule d = g at hkey
  have hle (a : Nat) (ha : a < 16 * 98048 * 2 ^ 20) : ((a >>> g) / 16) <<< g + a % 2 ^ g < 2 ^ 48 := by
    have := Nat.div_add_mod a (2 ^ g)
    have := Nat.mul_le_mul_left (2 ^ g) (Nat.div_le_self (a / 2 ^ g) 16)
    rw [Nat.shiftRight_eq_div_pow, Nat.shiftLeft_eq, Nat.mul_comm]
    omega
  obtain ⟨hstack, hplace⟩ := placeKey_inj (hle p hp) (hle q hq) hkey
  obtain ⟨hupper, hlow⟩ := granule_inj hplace
  have hnum := eq_of_nibbleXor hupper hstack
  rw [Nat.shiftRight_eq_div_pow, Nat.shiftRight_eq_div_pow] at hnum
  rw [← Nat.div_add_mod p (2 ^ g), ← Nat.div_add_mod q (2 ^ g), hnum, hlow]

end Sys2Proof.Machine

/-!
The phase of a block barrier (O39; 14 R353, R357): taking an entry of the core leaves a barrier as it is but for the entry's own
fields, so an arrival is the arrived set's.
-/
namespace Sys2Proof.Machine

/-- What a fold that keeps its choice or takes the next element comes to was chosen before, or is an element. -/
theorem foldl_choice_mem {α : Type} {f : Option α → α → Option α} (hf : ∀ a x, f a x = a ∨ f a x = some x) (l : List α)
    (a : Option α) {x : α} (h : l.foldl f a = some x) : a = some x ∨ x ∈ l := by
  induction l generalizing a with
  | nil => exact .inl h
  | cons y r ih =>
    rcases ih _ h with h | h
    · rcases hf a y with hy | hy
      · exact .inl (hy ▸ h)
      · exact .inr (List.mem_cons.2 (.inl (Option.some.inj (h.symm.trans hy))))
    · exact .inr (List.mem_cons_of_mem _ h)

/-- `s` holds block `k` as `b` but for its barriers, of which barrier `n` is `r`. -/
def State.HasBar (s : State) (k : Nat) (b : Block) (n : Nat) (r : Barrier) : Prop :=
  ∃ l, s.blk? k = some { b with bars := l } ∧ l[n]? = some r

section
variable {s : State} {k : Nat} {b : Block} {n : Nat} {r : Barrier}

theorem State.HasBar.of_blk (hb : s.blk? k = some b) (hr : b.bars[n]? = some r) : s.HasBar k b n r := ⟨b.bars, hb, hr⟩

theorem State.HasBar.blocks {u : State} (h : s.HasBar k b n r) (hu : u.blocks = s.blocks) : u.HasBar k b n r := by
  rwa [State.HasBar, State.blk?, hu]

/-- The barrier changes. -/
theorem State.HasBar.change (h : s.HasBar k b n r) (f : Barrier → Barrier) :
    (s.updBlk k (fun b => { b with bars := lset b.bars n f })).HasBar k b n (f r) := by
  obtain ⟨l, hl, hr⟩ := h
  exact ⟨lset l n f, by rw [State.blk?_updBlk_self, hl]; rfl, by simp [hr]⟩

/-- Another barrier changes. -/
theorem State.HasBar.other (h : s.HasBar k b n r) {i j : Nat} (hij : ¬ (i = k ∧ j = n)) (f : Barrier → Barrier) :
    (s.updBlk i (fun b => { b with bars := lset b.bars j f })).HasBar k b n r := by
  obtain ⟨l, hl, hr⟩ := h
  by_cases hi : i = k
  · subst hi
    exact ⟨lset l j f, by rw [State.blk?_updBlk_self, hl]; rfl, by simp [hr, show ¬ j = n from fun hj => hij ⟨rfl, hj⟩]⟩
  · exact ⟨l, (State.blk?_updBlk_other s _ (Ne.symm hi)).trans hl, hr⟩

theorem State.pmcCount_blocks (s : State) (core event n : Nat) : (s.pmcCount core event n).blocks = s.blocks := by
  obtain ⟨cs, h⟩ := s.pmcCount_eq core event n
  rw [h]

/-- Taking an entry of the core changes nothing of a barrier but its entry; a spill is another barrier's (14 R357). -/
theorem State.HasBar.barEntry (h : s.HasBar k b n r) (hr : b.bars[n]? = some r) :
    (s.barEntry k b n).HasBar k b n { r with entry := true, used := s.clock + 1 } := by
  unfold State.barEntry
  rw [hr]
  have h1 := h.change (fun r => { r with entry := true, used := s.clock + 1 })
  generalize s.updBlk k _ = u at h1
  dsimp only
  have hcount {v : State} (hv : v.HasBar k b n { r with entry := true, used := s.clock + 1 }) (p : Prop) [Decidable p] :
      (if p then (v.addCdReg b.die 0x3E6).pmcCount b.coreIx 8 1 else v).HasBar k b n
        { r with entry := true, used := s.clock + 1 } := by
    split
    · exact (hv.blocks rfl).blocks (State.pmcCount_blocks ..)
    · exact hv
  split
  · exact h1
  · refine hcount ?_ _
    split
    · split
      next i j hold =>
        refine h1.other ?_ _
        refine (foldl_choice_mem ?step _ _ hold).elim nofun ?old
        case old =>
          rintro hmem ⟨rfl, rfl⟩
          simp at hmem
        case step =>
          intro a x
          cases a with
          | none => exact .inr rfl
          | some y => exact (ite_eq_or_eq _ _ _).symm
      next => exact h1
    · exact h1

end

theorem State.HasBar.settle {s : State} {k : Nat} {b b' : Block} {n : Nat} {r : Barrier} (h : s.HasBar k b n r)
    (hb : s.blk? k = some b') (ha : r.arrived ≠ []) (hr : r.broken = false) :
    (s.settle k b' 0 n).HasBar k b n (if ∀ m ∈ r.members, m ∈ r.arrived ∨ b.ownerGone m = true then
      { r with c := r.c + 1, arrived := [], members := r.pending.getD r.members, pending := none } else r) := by
  obtain ⟨l, hl, hn⟩ := h
  obtain rfl : { b with bars := l } = b' := Option.some.inj (hl.symm.trans hb)
  have hall : (r.members.all fun m => r.arrived.contains m || s.memberGone { b with bars := l } 0 m) = true ↔
      ∀ m ∈ r.members, m ∈ r.arrived ∨ b.ownerGone m = true := by
    simp only [List.all_eq_true, Bool.or_eq_true, List.contains_iff_mem]
    rfl
  have hne : ¬ (r.arrived.isEmpty || r.broken) = true := by simp [ha, hr]
  have hbar : s.bar? { b with bars := l } 0 n = some r := hn
  unfold State.settle
  rw [hbar]
  simp only [if_neg hne, hall]
  split
  · exact State.HasBar.change ⟨l, hl, hn⟩ _
  · exact ⟨l, hl, hn⟩

theorem State.HasBar.bar {s : State} {k : Nat} {b : Block} {n : Nat} {r : Barrier} (h : s.HasBar k b n r) :
    (s.blk? k).bind (fun b => b.bars[n]?) = some r := by
  obtain ⟨l, hl, hn⟩ := h
  rw [hl]
  exact hn

/-- The arrived set with one more member. -/
def Barrier.arrivedWith (r : Barrier) (m : Nat) : List Nat := if m ∈ r.arrived then r.arrived else r.arrived ++ [m]

theorem Barrier.arrivedWith_ne_nil (r : Barrier) (m : Nat) : r.arrivedWith m ≠ [] := by
  unfold Barrier.arrivedWith
  split
  next h => exact List.ne_nil_of_mem h
  next => exact List.append_ne_nil_of_right_ne_nil _ (List.cons_ne_nil _ _)

/-- A barrier that a member joins. -/
def Barrier.join (m : Nat) (r : Barrier) : Barrier :=
  if r.arrived.contains m then r else { r with arrived := r.arrived ++ [m] }

theorem Barrier.join_eq (m : Nat) (r : Barrier) : r.join m = { r with arrived := r.arrivedWith m } := by
  unfold Barrier.join Barrier.arrivedWith
  simp only [List.contains_iff_mem]
  split <;> rfl

/-- The block's barrier `n` after an arrival, before its phase is looked at. -/
def State.joined (s : State) (t : ThreadRef) (b : Block) (n : Nat) : State :=
  (s.barEntry t.blk b n).updBlk t.blk (fun b => { b with bars := lset b.bars n (Barrier.join t.warp) })

theorem State.arrive_block (s : State) (t : ThreadRef) (b : Block) (n : Nat) :
    (s.arrive t b 0 n).2 = (s.joined t b n).settle t.blk (((s.joined t b n).blk? t.blk).getD b) 0 n := rfl

/-- An arrival at a block barrier: the member joins, and the phase ends with the last one. -/
theorem State.arrive_hasBar {s : State} {t : ThreadRef} {b : Block} {n : Nat} {r : Barrier} (hb : s.blk? t.blk = some b)
    (hr : b.bars[n]? = some r) (hbroken : r.broken = false) :
    (s.arrive t b 0 n).2.HasBar t.blk b n
      (if ∀ m ∈ r.members, m ∈ r.arrivedWith t.warp ∨ b.ownerGone m = true then
        { r with c := r.c + 1, arrived := [], members := r.pending.getD r.members, pending := none, entry := true,
                 used := s.clock + 1 }
      else { r with arrived := r.arrivedWith t.warp, entry := true, used := s.clock + 1 }) := by
  have hjoined : (s.joined t b n).HasBar t.blk b n _ := ((State.HasBar.of_blk hb hr).barEntry hr).change (Barrier.join t.warp)
  rw [Barrier.join_eq] at hjoined
  obtain ⟨l, hl, hn⟩ := hjoined
  have hsettled := State.HasBar.settle ⟨l, hl, hn⟩ hl (Barrier.arrivedWith_ne_nil _ _) hbroken
  rw [State.arrive_block, hl]
  exact hsettled

/-- Settles O39: the arrival is counted in the arrived set, and the phase ends when that is complete. -/
theorem barrierPhaseRule : Obligations.BarrierPhaseRule := by
  intro s t b n r hb hr hbroken p q set_ all_
  have hbar := (State.arrive_hasBar hb hr hbroken).bar
  refine ⟨?token, fun hall => ⟨s.clock + 1, true, ?ends⟩, fun hall => ⟨s.clock + 1, true, ?stays⟩⟩
  case token =>
    have htok : s.bar? b 0 n = some r := hr
    simp only [p, State.arrive, htok, Option.map_some, Option.getD_some]
  case ends => exact hbar.trans (congrArg some (if_pos hall))
  case stays => exact hbar.trans (congrArg some (if_neg hall))

end Sys2Proof.Machine

/-!
Barriers and copy-completion counters (O38; 14 R353, R356, R358, R359, R363): what refuses a barrier instruction, and what an arrival
and a wait come to.
-/
namespace Sys2Proof.Machine

section
variable {c : Ctx} {s : State} {lev n : Nat}

/-- A thread may act on barriers of level `lev`: block barriers, or as the front thread (14 R353). -/
def Ctx.mayReach (c : Ctx) (lev : Nat) : Prop := lev = 0 ∨ c.t.warp = 32

theorem barRefusal_reach (h : c.mayReach lev) : barRefusal c s lev n = match s.bar? c.b lev n with
    | none => some 16
    | some r => if !r.members.contains (memberOf c.b c.t lev) then some 16 else if r.broken then some 17 else none := by
  have hlev : ¬ (lev ≠ 0 ∧ (!c.front) = true) := by
    rintro ⟨h0, hf⟩
    exact Ctx.not_front_iff.1 (by simpa using hf) (h.resolve_left h0)
  unfold barRefusal
  exact if_neg hlev

/-- A member of a whole barrier is not refused. -/
theorem barRefusal_none {r : Barrier} (h : c.mayReach lev) (hr : s.bar? c.b lev n = some r) (hm : memberOf c.b c.t lev ∈ r.members)
    (hb : r.broken = false) : barRefusal c s lev n = none := by
  simp [barRefusal_reach h, hr, hm, hb]

/-- A member of a broken barrier. -/
theorem barRefusal_broken {r : Barrier} (h : c.mayReach lev) (hr : s.bar? c.b lev n = some r)
    (hm : memberOf c.b c.t lev ∈ r.members) (hb : r.broken = true) : barRefusal c s lev n = some 17 := by
  simp [barRefusal_reach h, hr, hm, hb]

/-- A thread that is no member, or may not act on barriers of the level. -/
theorem barRefusal_stranger (h : ¬ c.mayReach lev ∨ ∀ r, s.bar? c.b lev n = some r → memberOf c.b c.t lev ∉ r.members) :
    barRefusal c s lev n = some 16 := by
  by_cases hreach : c.mayReach lev
  · rw [barRefusal_reach hreach]
    cases hr : s.bar? c.b lev n with
    | none => rfl
    | some r => simp [h.resolve_left (not_not.2 hreach) r hr]
  · have hlev : lev ≠ 0 ∧ (!c.front) = true := by
      obtain ⟨h0, hw⟩ := not_or.1 hreach
      exact ⟨h0, by rw [Ctx.not_front_iff.2 hw]; rfl⟩
    rw [barRefusal, if_pos hlev]

/-- An arrival that nothing holds up (14 R354, R355). -/
theorem arriving_free {go : Word → State → Res} (hp : s.allPerformed c.t = true)
    (hl : lev = 1 → n = 0 → s.unlanded c.t.blk c.b = false) :
    arriving c s lev n go = go (s.arrive c.t c.b lev n).1 (s.arrive c.t c.b lev n).2 := by
  have hlanded : ¬ (lev = 1 ∧ n = 0 ∧ s.unlanded c.t.blk c.b = true) := by
    rintro ⟨h1, h0, hu⟩
    simp [hl h1 h0] at hu
  simp [arriving, hp, hlanded]

/-- A wait is over where the barrier's phase is not that of its token. -/
theorem phaseWait_over {tok : Word} (h : ∃ q, s.bar? ((s.blk? c.t.blk).getD c.b) lev n = some q ∧ q.c ≠ tok) :
    phaseWait c s lev n tok = .done s [] .seq := by
  obtain ⟨q, hq, hc⟩ := h
  exact phaseWait_past fun r hr => Option.some.inj (hq.symm.trans hr) ▸ hc

theorem phaseWait_runs {tok : Word} (h : ∃ q, s.bar? ((s.blk? c.t.blk).getD c.b) lev n = some q ∧ q.c = tok ∧ q.broken = false) :
    phaseWait c s lev n tok = .wait (.barrier lev n tok) 1 s := by
  obtain ⟨q, hq, rfl, hb⟩ := h
  exact phaseWait_within hq hb

end

/-- What BAR.SET makes of a barrier (14 R359). -/
def Barrier.setMembers (m : List Nat) (r : Barrier) : Barrier :=
  if r.arrived = [] then { r with members := m } else { r with pending := some m }

theorem updBar_setMembers (s : State) (bk : Nat) (b : Block) (n : Nat) (m : List Nat) :
    s.updBar bk b 0 n (fun r => if r.arrived.isEmpty then { r with members := m } else { r with pending := some m })
      = s.updBlk bk (fun b => { b with bars := lset b.bars n (Barrier.setMembers m) }) := by
  simp only [State.updBar, List.isEmpty_iff]
  rfl

theorem barSet_outside {m : DWord} {l : List Nat} {k : Nat} : (fld m 63 33 ≠ 0 ∨ l.isEmpty = true ∨
    (l.any fun i => i != 32 && decide (k ≤ i)) = true) ↔ (fld m 63 33 ≠ 0 ∨ l = [] ∨ ∃ i ∈ l, i ≠ 32 ∧ k ≤ i) := by
  simp

/-- Settles O38: an instruction passes the checks of R358 or is refused; then it arrives, waits, sets or reads. -/
theorem barriersComplete : Obligations.BarriersComplete := by
  intro d lev n tok r give take mine free now arrived token synced word used over_ runs mask members count
  have hpass : ∀ {x : Ctx} {s : State} {l : Nat}, mine x s l → barRefusal x s l n.toNat = none := by
    rintro x s l ⟨hl, hr, hm, hb⟩
    exact barRefusal_none hl hr hm hb
  have hgo : ∀ {x : Ctx} {s : State} {go : Word → State → Res}, free x s → arriving x s lev.toNat n.toNat go =
      go (arrived x s).1 (arrived x s).2 := by
    rintro x s go ⟨hp, hl⟩
    exact arriving_free hp fun h1 h0 => hl (BitVec.eq_of_toNat_eq h1) (BitVec.eq_of_toNat_eq h0)
  have hstart : ∀ {x : Ctx}, x.stage = 0 → ¬ x.stage = 1 := fun h => by rw [h]; decide
  refine ⟨?arr, ?waitDone, ?waitWaits, ?syncDone, ?syncWaits, ?ends, ?set_, ?refused, ?setMember, ?setBroken, ?rd, ?cntDone, ?cntWaits,
    ?cntEnds, ?clr⟩
  case arr =>
    refine completesWhen_of (fun _ => rfl) fun x s _ h => ?_
    obtain ⟨hmine, hfree⟩ := h
    simp only [hpass hmine, hgo hfree]
    rfl
  case waitDone =>
    refine completesWhen_of (fun _ => rfl) fun x s h0 h => ?_
    obtain ⟨hmine, hover⟩ := h
    simp only [if_neg (hstart h0), hpass hmine]
    exact phaseWait_over hover
  case waitWaits =>
    refine waitsWhen_of (fun _ => rfl) fun x s h0 h => ?_
    obtain ⟨hmine, hruns⟩ := h
    simp only [if_neg (hstart h0), hpass hmine]
    exact phaseWait_runs hruns
  case syncDone =>
    refine completesWhen_of (fun _ => rfl) fun x s h0 h => ?_
    obtain ⟨hmine, hfree, hover⟩ := h
    simp only [if_neg (hstart h0), hpass hmine, hgo hfree]
    exact phaseWait_over hover
  case syncWaits =>
    refine waitsWhen_of (fun _ => rfl) fun x s h0 h => ?_
    obtain ⟨hmine, hfree, hruns⟩ := h
    simp only [if_neg (hstart h0), hpass hmine, hgo hfree]
    exact phaseWait_runs hruns
  case ends =>
    intro i sp hi
    have hbody : ∀ x s, x.stage = 1 ∧ x.token = tok ∧ over_ x s tok → phaseWait x s lev.toNat n.toNat x.token = .done s [] .seq := by
      rintro x s ⟨-, rfl, hover⟩
      exact phaseWait_over hover
    simp only [List.mem_cons, Prod.mk.injEq, List.not_mem_nil, or_false] at hi
    obtain ⟨rfl, rfl⟩ | ⟨rfl, rfl⟩ := hi
    · exact endsWhen_of (fun _ => rfl) fun x s h => (if_pos h.1).trans (hbody x s h)
    · exact endsWhen_of (fun _ => rfl) fun x s h => (if_pos h.1).trans (hbody x s h)
  case set_ =>
    refine completesWhen_of (fun _ => rfl) fun x s _ h => ?_
    obtain ⟨hmine, hhi, hne, hin⟩ := h
    have hok : ¬ (fld (mask x) 63 33 ≠ 0 ∨ members x = [] ∨ ∃ i ∈ members x, i ≠ 32 ∧ x.b.warps.length ≤ i) := by
      rintro (h | h | ⟨i, hi, h32, hlen⟩)
      · exact h hhi
      · exact hne h
      · exact ((hin i hi).resolve_left h32).not_ge hlen
    simp only [hpass hmine, updBar_setMembers]
    exact if_neg (mt barSet_outside.1 hok)
  case refused =>
    intro i sp hi
    have hstranger : ∀ {x : Ctx} {s : State}, ((lev ≠ 0 ∧ x.t.warp ≠ 32) ∨ ∀ q, s.bar? x.b lev.toNat n.toNat = some q →
        memberOf x.b x.t lev.toNat ∉ q.members) → barRefusal x s lev.toNat n.toNat = some 16 := fun h =>
      barRefusal_stranger (h.imp_left fun ⟨hl, hw⟩ => not_or.2 ⟨fun h0 => hl (BitVec.eq_of_toNat_eq h0), hw⟩)
    have hbroken : ∀ {x : Ctx} {s : State}, ((lev = 0 ∨ x.t.warp = 32) ∧ ∃ q, s.bar? x.b lev.toNat n.toNat = some q ∧
        memberOf x.b x.t lev.toNat ∈ q.members ∧ q.broken = true) → barRefusal x s lev.toNat n.toNat = some 17 := by
      rintro x s ⟨hl, q, hq, hm, hb⟩
      exact barRefusal_broken (hl.imp_left fun h0 => congrArg BitVec.toNat h0) hq hm hb
    simp only [List.mem_cons, Prod.mk.injEq, List.not_mem_nil, or_false] at hi
    obtain ⟨rfl, rfl⟩ | ⟨rfl, rfl⟩ | ⟨rfl, rfl⟩ := hi
    · constructor
      · exact refusedWhen_of (fun _ => rfl) fun x s _ h => by simp only [hstranger h]
      · exact refusedWhen_of (fun _ => rfl) fun x s _ h => by simp only [hbroken h]
    · constructor
      · exact refusedWhen_of (fun _ => rfl) fun x s h0 h => by simp only [if_neg (hstart h0), hstranger h]
      · exact refusedWhen_of (fun _ => rfl) fun x s h0 h => by simp only [if_neg (hstart h0), hbroken h]
    · constructor
      · exact refusedWhen_of (fun _ => rfl) fun x s h0 h => by simp only [if_neg (hstart h0), hstranger h]
      · exact refusedWhen_of (fun _ => rfl) fun x s h0 h => by simp only [if_neg (hstart h0), hbroken h]
  case setMember =>
    refine refusedWhen_of (fun _ => rfl) fun x s _ h => ?_
    rcases h with h | ⟨hmine, hout⟩
    · simp only [barRefusal_stranger (.inr h)]
    · simp only [hpass hmine]
      exact if_pos (barSet_outside.2 hout)
  case setBroken =>
    refine refusedWhen_of (fun _ => rfl) fun x s _ h => ?_
    obtain ⟨q, hq, hm, hb⟩ := h
    simp only [barRefusal_broken (.inl rfl) hq hm hb]
  case rd => exact completes_of (fun _ => rfl) fun _ _ => rfl
  case cntDone => exact completesWhen_of (fun _ => rfl) fun x s _ h => if_pos h
  case cntWaits => exact waitsWhen_of (fun _ => rfl) fun x s _ h => if_neg (not_le.2 h)
  case cntEnds => exact endsWhen_of (fun _ => rfl) fun x s h => if_pos h
  case clr => exact completes_of (fun _ => rfl) fun _ _ => rfl

end Sys2Proof.Machine

/-!
The decision queue and the bobbins (O40; 12 R309-R311).
-/
namespace Sys2Proof.Machine

/-- A release side whose operations are performed holds nothing up. -/
theorem releasing_performed {c : Ctx} {s : State} (h : s.allPerformed c.t = true) (r : Res) : releasing c s r = r := if_pos h

theorem arriveSlot_fst (count n : Nat) : (arriveSlot count n).1 = if count + 1 = n then 0 else count + 1 := by
  unfold arriveSlot
  split <;> rfl

theorem arriveSlot_snd (count n : Nat) : (arriveSlot count n).2 = decide (count + 1 = n) := by
  unfold arriveSlot
  split <;> simp [*]

/-- An instruction of the decision queue in a block that has none (02 R50). -/
theorem exec_noQueue {s : State} {c : Ctx} {i : Instr} {sp : Spec} {body : Ctx → State → Res} (he : ∀ s, exec i s = issue s i sp body)
    (hi : usesDq i = true) (ht : s.ctx? = some c) (hf : c.resumed = false) (h0 : c.b.allot.dqd = 0) :
    exec i s = .next (s.refuse c 1 0 c.allLanes) := by
  rw [he]
  refine issue_refused ht hf ?_
  unfold staticRefusal
  rw [if_pos (by simp [hi, h0])]

/-- Settles O40: a block has the slot that a cursor names or not, and the slot's phases say whether its thread waits. -/
theorem queuesComplete : Obligations.QueuesComplete := by
  intro d a b n z ph i push give mask cursor next_ slot bits_ reads quorum upd
  refine ⟨?pushed, ?pushNone, ?pushWaits, ?noQueue, ?popped, ?put, ?rel, ?waitC, ?waitP, ?waitsC, ?waitsP, ?noPut, ?noRel, ?noWaitC,
    ?noWaitP⟩
  case pushed =>
    refine completesWhen_of (fun _ => rfl) fun x s _ h => ?_
    obtain ⟨hm, hroom, hp⟩ := h
    exact (if_neg hm).trans ((if_neg (not_le.2 hroom)).trans (releasing_performed hp _))
  case pushNone => exact completesWhen_of (fun _ => rfl) fun x s _ h => if_pos h
  case pushWaits =>
    refine waitsWhen_of (fun _ => rfl) fun x s _ h => ?_
    obtain ⟨hm, hfull⟩ := h
    exact (if_neg hm).trans (if_pos hfull)
  case noQueue =>
    intro s c i hi ht hf h0
    simp only [List.mem_cons, List.not_mem_nil, or_false] at hi
    obtain rfl | rfl := hi
    · exact exec_noQueue (sp := push) (fun _ => rfl) rfl ht hf h0
    · exact exec_noQueue (sp := plain .warp [.src64 121, .dst64 d.toNat]) (fun _ => rfl) rfl ht hf h0
  case popped => exact completes_of (fun _ => rfl) fun _ _ => rfl
  case put =>
    refine completesWhen_of (fun _ => rfl) fun x s _ h => ?_
    obtain ⟨hslot, he, hp⟩ := h
    have hb : x.b.bobAt n.toNat x.th.prodCur = some (z, ph) := hslot
    simp only [hb, he, bne_self_eq_false, Bool.false_eq_true, if_false, releasing_performed hp, arriveSlot_fst, arriveSlot_snd,
      decide_eq_true_eq]
    rfl
  case rel =>
    refine completesWhen_of (fun _ => rfl) fun x s _ h => ?_
    obtain ⟨hslot, hf, hp⟩ := h
    have hb : x.b.bobAt n.toNat x.th.consCur = some (z, ph) := hslot
    simp only [hb, beq_iff_eq, hf, if_false, releasing_performed hp, arriveSlot_fst, arriveSlot_snd, decide_eq_true_eq]
    rfl
  case waitC =>
    refine completesWhen_of (fun _ => rfl) fun x s _ h => ?_
    obtain ⟨hslot, hf⟩ := h
    have hb : x.b.bobAt n.toNat x.th.consCur = some (z, ph) := hslot
    simp only [hb, beq_iff_eq, hf, if_false]
    rfl
  case waitP =>
    refine completesWhen_of (fun _ => rfl) fun x s _ h => ?_
    obtain ⟨hslot, he⟩ := h
    have hb : x.b.bobAt n.toNat x.th.prodCur = some (z, ph) := hslot
    simp only [hb, bne_iff_ne, he, ne_eq, not_true_eq_false, if_false]
    rfl
  case waitsC =>
    refine waitsWhen_of (fun _ => rfl) fun x s h0 h => ?_
    obtain ⟨hslot, hf⟩ := h
    have hb : x.b.bobAt n.toNat x.th.consCur = some (z, ph) := hslot
    simp only [hb, beq_iff_eq, hf, if_true, h0]
    rfl
  case waitsP =>
    refine waitsWhen_of (fun _ => rfl) fun x s h0 h => ?_
    obtain ⟨hslot, he⟩ := h
    have hb : x.b.bobAt n.toNat x.th.prodCur = some (z, ph) := hslot
    simp only [hb, bne_iff_ne, he, ne_eq, not_false_eq_true, if_true, h0]
    rfl
  case noPut => exact refusedWhen_of (fun _ => rfl) fun x s _ h => by simp only [show x.b.bobAt n.toNat _ = none from h]
  case noRel => exact refusedWhen_of (fun _ => rfl) fun x s _ h => by simp only [show x.b.bobAt n.toNat _ = none from h]
  case noWaitC => exact refusedWhen_of (fun _ => rfl) fun x s _ h => by simp only [show x.b.bobAt n.toNat _ = none from h]
  case noWaitP => exact refusedWhen_of (fun _ => rfl) fun x s _ h => by simp only [show x.b.bobAt n.toNat _ = none from h]

end Sys2Proof.Machine

/-!
System registers, LWAKE, TLBINV, TIME, WINW and PERF (O20; 15 R379, R380, 16 R403, 11 R287, 14 R365, R366, R370).
-/
namespace Sys2Proof.Machine

/-! ## Fields of an operand -/

theorem fld_upper (v : DWord) {lo : Nat} (h : lo ≤ 64) : fld v 63 lo = v.toNat / 2 ^ lo := fld_below v.isLt h

theorem bitOf_eq (v : DWord) (n : Nat) : bitOf v n = decide (v.toNat / 2 ^ n % 2 = 1) := by
  rw [bitOf, ← BitVec.testBit_toNat, Nat.testBit_eq_decide_div_mod_eq]

/-- An item of LWAKE that names a compute die, and one that names a memory-side die (16 R403). -/
theorem wakeItem_cd {v : DWord} (h : v.toNat < 8) : fld v 63 5 = 0 ∧ bitOf v 4 = false ∧ fld v 3 0 = v.toNat := by
  rw [bitOf_eq, fld_low]
  exact ⟨fld_above (h.trans (by decide)), by simp; omega, Nat.mod_eq_of_lt (h.trans (by decide))⟩

theorem wakeItem_md {v : DWord} (h : 16 ≤ v.toNat) (h' : v.toNat < 32) :
    fld v 63 5 = 0 ∧ bitOf v 4 = true ∧ fld v 3 0 = v.toNat - 16 := by
  rw [bitOf_eq, fld_low]
  exact ⟨fld_above h', by simp; omega, by omega⟩

/-! ## Privilege (02 R45, 15 R379) -/

/-- Item 5 of R45 stands before item 6 and after every other. -/
theorem staticRefusal_priv {s : State} {c : Ctx} {i : Instr} {sp : Spec} (hc : c.priv = false)
    (h : ∀ code, staticRefusal s c i { sp with priv := false } false = some code → code = 6) :
    staticRefusal s c i { sp with priv := true } false = some 5 := by
  have n1 : ¬ _ := fun h1 => absurd (h 1 (if_pos h1)) (by decide)
  have hskip : ¬ false = true := Bool.false_ne_true
  have n3 : ¬ _ := fun h3 => absurd (h 3 ((if_neg n1).trans ((if_neg hskip).trans (if_pos h3)))) (by decide)
  have n2 : ¬ _ := fun h2 => absurd (h 2 ((if_neg n1).trans ((if_neg hskip).trans ((if_neg n3).trans (if_pos h2))))) (by decide)
  have n4 : ¬ _ := fun h4 =>
    absurd (h 4 ((if_neg n1).trans ((if_neg hskip).trans ((if_neg n3).trans ((if_neg n2).trans (if_pos h4)))))) (by decide)
  exact (if_neg n1).trans ((if_neg hskip).trans ((if_neg n3).trans ((if_neg n2).trans ((if_neg n4).trans (if_pos (by simp [hc]))))))

theorem trapReg_iff (n : BitVec 12) : trapReg n.toNat = decide (n = 0x100 ∨ n = 0x101) := by
  simp only [trapReg, ← BitVec.toNat_inj, Bool.decide_or]
  rfl

/-! ## PERF (14 R370) -/

theorem Ctx.perfCfg_eq (c : Ctx) (s : State) (a : BitVec 7) :
    c.perfCfg s a = (s.core c.b.coreIx).pmcfg.getD ((c.item a.toNat 0).toNat % 8) 0 := by
  rw [Ctx.perfCfg, fld_low]
  rfl

/-- What PERF does once its mode is looked at. -/
def perfBody (d a : BitVec 7) (c : Ctx) (s : State) : Res :=
  if fld (c.item a.toNat 0) 63 3 ≠ 0 then .refuse 1 0 c.allLanes
  else .done s (c.wItem d.toNat 0 (((s.core c.b.coreIx).pmc.getD (fld (c.item a.toNat 0) 2 0) 0).setWidth 64)) .seq

theorem exec_perf (d a : BitVec 7) (s : State) : exec (.perf d a) s = issue s (.perf d a)
    (privBy s (flow .both [.items d.toNat 1 true, .items a.toNat 1 false]) (.items a.toNat 1 false)
      (fun c => !bitOf (c.perfCfg s a) 62)) (perfBody d a) := rfl

theorem State.pmcfg_countIssue (s : State) (c : Ctx) (j : Nat) : ((s.countIssue c).core j).pmcfg = (s.core j).pmcfg :=
  State.core_pmcCount_kept (fun _ _ => rfl) _ _ _ _ _

theorem State.pkg_countIssue (s : State) (c : Ctx) : (s.countIssue c).pkg = s.pkg := by
  obtain ⟨cs, h⟩ := s.countIssue_eq c
  rw [h]

theorem ofNat_window (t : DWord) (k : Nat) : t >>> k = BitVec.ofNat 64 (t.toNat / 2 ^ k) := by
  apply BitVec.eq_of_toNat_eq
  rw [BitVec.toNat_ushiftRight, BitVec.toNat_ofNat, Nat.shiftRight_eq_div_pow,
    Nat.mod_eq_of_lt ((Nat.div_le_self _ _).trans_lt t.isLt)]

/-- Settles O20: CSRW names its registers by its thread, LWAKE its die by two fields of its item, and PERF its privilege by the
counter's configuration. -/
theorem systemRegistersComplete : Obligations.SystemRegistersComplete := by
  refine ⟨fun d a b n => ?registers, fun d a => ?counts⟩
  case registers =>
    intro trapReg' open_ csrr csrw write wake inval typ count
    have hcsrr : ∀ s, exec (.csrr d n) s = issue s (.csrr d n) csrr (fun x s =>
        settled x s (.done s (x.wItem d.toNat 0 (csrValue s x n.toNat)) .seq)) := by
      intro s
      simp only [csrr, open_, trapReg', ← trapReg_iff]
      rfl
    have hwrite : ∀ i f, (∀ s, exec i s = Machine.csrw i d n f s) → write i f := by
      intro i f he s c sp x h hp
      have hi := he s
      rw [Machine.csrw, State.frontCur_eq h.thread] at hi
      rw [hi, issue_clear (sp := sp) h, settled_none (x := c.operands sp) hp]
      rfl
    refine ⟨?csrr, ?csrrTrap, hwrite _ (fun _ v => v) fun _ => rfl,
      hwrite _ (fun old v => old ||| v) fun _ => rfl, hwrite _ (fun old v => old &&& ~~~v) fun _ => rfl, ?lwake, ?tlbinv⟩
    case csrr => exact completesWhen_of hcsrr fun x s _ h => settled_none h
    case csrrTrap =>
      intro s c ht hf hs htrap hout hitems
      have hpriv : csrr = { open_ with priv := true } := by simp only [csrr, decide_eq_true htrap]
      rw [hcsrr, hpriv]
      refine issue_refused ht hf ?_
      rw [hs]
      exact staticRefusal_priv (sp := open_) hout hitems
    case lwake =>
      refine completesWhen_of (fun _ => rfl) fun x s _ h => ?_
      by_cases hcd : (x.item a.toNat 0).toNat < 8
      · obtain ⟨hhi, hmd, hn⟩ := wakeItem_cd hcd
        simp [changing, wake, hhi, hmd, hn, hcd, Nat.not_le.2 hcd]
      · obtain ⟨hlo, hlt⟩ := h.resolve_left hcd
        obtain ⟨hhi, hmd, hn⟩ := wakeItem_md hlo hlt
        simp [changing, wake, hhi, hmd, hn, hcd]
    case tlbinv =>
      refine completesWhen_of (fun _ => rfl) fun x s _ h => ?_
      obtain ⟨hmid, hhi, hcount, hva, hp⟩ := h
      have hfields : ¬ (fld (x.item b.toNat 0) 31 18 ≠ 0 ∨ fld (x.item b.toNat 0) 63 48 ≠ 0 ∨ (typ x ≠ 0 ∧ count x ≠ 0) ∨
          (typ x = 0 ∧ count x = 0)) := by tauto
      have hpage : ¬ (typ x = 0 ∧ (x.item a.toNat 0).toNat % 2 ^ 14 ≠ 0) := fun h => h.2 (hva h.1)
      have hdone : ¬ (!s.allPerformed x.t) = true := by simp [hp]
      exact (if_neg hfields).trans ((if_neg hpage).trans (if_neg hdone))
  case counts =>
    intro sp perf v open_
    have hr : Opd.items a.toNat 1 false ∈ perf.opds := by simp [perf, flow, plain]
    have hp : popsDq { perf with opds := [.items a.toNat 1 false] } = popsDq perf := by
      simp [perf, popsDq, Opd.pops, flow, plain]
    have hbit : ∀ (x : Ctx) (s : State), (!bitOf (x.perfCfg s a) 62) = true ↔
        ((s.core x.b.coreIx).pmcfg.getD ((v x).toNat % 8) 0).getLsbD 62 = false := by
      intro x s
      rw [Ctx.perfCfg_eq, bitOf, Bool.not_eq_true']
    have hneeds : ∀ (x : Ctx) (s : State) (c : Ctx), open_ x (s.countIssue c) → (!bitOf (x.perfCfg s a) 62) = true → x.th.trap = true := by
      intro x s c hopen hn
      rw [hbit] at hn
      refine hopen.resolve_right ?_
      rw [State.pmcfg_countIssue, hn]
      exact Bool.false_ne_true
    have hopened : ∀ {s : State} {c : Ctx}, Clear s (.perf d a) perf c → open_ (c.operands perf) (s.countIssue c) →
        exec (.perf d a) s = .next (finish s (.perf d a) perf (c.operands perf) true
          (perfBody d a (c.operands perf) (s.countIssue c))) := by
      intro s c h hopen
      rw [exec_perf]
      exact issue_privBy_clear h hr hp (hneeds _ _ _ hopen)
    refine ⟨?time, ?winw, ?perf, ?perfRange, ?perfPriv⟩
    case time =>
      intro s c h
      change issueRegs s (.time d) sp (fun x => x.wItem d.toNat 0 s.pkg.timeNs) = _
      rw [issueRegs_clear h, ← State.pkg_countIssue s c]
    case winw =>
      intro s c h
      change issueRegs s (.winw d) (flow .both [.items d.toNat 2 true]) (fun x =>
        x.wItem d.toNat 0 (s.pkg.timeNs >>> s.winK) ++ x.wItem d.toNat 1 (BitVec.ofNat 64 s.winK)) = _
      rw [issueRegs_clear h, State.winK, ofNat_window, ← State.pkg_countIssue s c]
    case perf =>
      intro s c h hpx
      obtain ⟨h8, hopen⟩ := hpx
      have hhi : fld ((c.operands perf).item a.toNat 0) 63 3 = 0 := fld_above h8
      have hlo : fld ((c.operands perf).item a.toNat 0) 2 0 = ((c.operands perf).item a.toNat 0).toNat :=
        (fld_low _ _).trans (Nat.mod_eq_of_lt h8)
      rw [hopened h hopen, perfBody, if_neg (not_not.2 hhi), hlo]
      rfl
    case perfRange =>
      intro s c h hpx
      obtain ⟨h8, hopen⟩ := hpx
      have hhi : fld (v (c.operands perf)) 63 3 ≠ 0 := by
        rw [fld_upper _ (by decide)]
        omega
      rw [hopened h hopen, perfBody, if_pos hhi]
      rfl
    case perfPriv =>
      intro s c h hopen
      obtain ⟨htrap, hcfg⟩ := not_or.1 hopen
      exact exec_privBy_refused (exec_perf d a s) h hr hp
        ((hbit _ _).2 (Bool.eq_false_iff.2 hcfg)) (Bool.eq_false_iff.2 htrap)

end Sys2Proof.Machine

/-!
What reset leaves (O55; 16 R413, R414, 14 R364, R369): no register of a die, and no core, is listed, so each reads its reset value.
-/
namespace Sys2Proof.Machine

theorem State.cd_reset (d : Nat) : State.reset.cd d = Cd.reset :=
  List.getD_eq_getElem?_getD.trans (List.getElem?_getD_replicate_default_eq _ 8 d)

/-- A register of a compute die has its own reset value. -/
theorem State.cdReg_reset (d n : Nat) : State.reset.cdReg d n = cdRegReset n := by
  rw [State.cdReg, State.cd_reset]
  rfl

theorem cdRegReset_counter {n : Nat} (h : 0x3E4 ≤ n) : cdRegReset n = 0 := by
  unfold cdRegReset
  repeat rw [if_neg (by omega)]

/-- Settles O55: every list of the state is empty, and what is not listed reads as its reset value. -/
theorem resetValues : Obligations.ResetValues := by
  refine ⟨fun d _ => State.cdReg_reset d _, fun d _ => ?route, fun d n _ hlo _ => ?counters, fun c i => ?pmc, fun c i => ⟨rfl, rfl⟩, rfl,
    rfl, rfl, rfl, rfl, rfl, rfl⟩
  case route =>
    simp only [State.cdReg_reset]
    rfl
  case counters => rw [State.cdReg_reset, cdRegReset_counter hlo]
  case pmc =>
    have hzero {w : Nat} : (List.replicate 8 (0 : BitVec w)).getD i 0 = 0 :=
      List.getD_eq_getElem?_getD.trans (List.getElem?_getD_replicate_default_eq _ 8 i)
    exact ⟨hzero, hzero⟩

end Sys2Proof.Machine

/-!
Objects in die-shared memory (O36; 13 R322, R333-R338): what a write of an object's words leaves in them, in its park table and in the
inbox.
-/
namespace Sys2Proof.Machine

/-! ## Fields of a word -/

theorem fld_eq_extract (v : DWord) (hi lo : Nat) : fld v hi lo = (v.extractLsb' lo (hi + 1 - lo)).toNat :=
  (BitVec.extractLsb'_toNat ..).symm

theorem leNat_leBytes (n v : Nat) : leNat (leBytes n v) = v % 256 ^ n := by
  induction n generalizing v with
  | zero => simp [leBytes, leNat, Nat.mod_one]
  | succ n ih => rw [leBytes, leNat, ih, Nat.pow_succ', Nat.mod_mul, BitVec.toNat_ofNat]

/-- A number of three parts, one of them `n` bits from bit `lo`. -/
theorem testBit_parts {lo n low f : Nat} (high : Nat) (hl : low < 2 ^ lo) (hf : f < 2 ^ n) (i : Nat) :
    (2 ^ lo * (2 ^ n * high + f) + low).testBit i =
      if i < lo then low.testBit i else if i < lo + n then f.testBit (i - lo) else high.testBit (i - lo - n) := by
  rw [Nat.testBit_two_pow_mul_add _ hl]
  split
  · rfl
  next hi =>
    rw [Nat.testBit_two_pow_mul_add _ hf]
    simp only [show i - lo < n ↔ i < lo + n by omega]

/-- A field that is set reads its own bits, and the others stay. -/
theorem getLsbD_setFld (v : DWord) {hi lo : Nat} (x : Nat) (hl : lo ≤ hi) (hh : hi < 64) (i : Nat) :
    (setFld v hi lo x).getLsbD i = if lo ≤ i ∧ i ≤ hi then x.testBit (i - lo) else v.getLsbD i := by
  by_cases h64 : 64 ≤ i
  · rw [BitVec.getLsbD_of_ge _ _ h64, BitVec.getLsbD_of_ge _ _ h64, if_neg (by omega)]
  obtain ⟨n, hn⟩ : ∃ n, hi + 1 - lo = n := ⟨_, rfl⟩
  have hlow := Nat.mod_lt v.toNat (Nat.two_pow_pos lo)
  have hfld := Nat.mod_lt (v.toNat / 2 ^ lo) (Nat.two_pow_pos n)
  have hx := Nat.mod_lt x (Nat.two_pow_pos n)
  have hv : v.toNat = 2 ^ lo * (2 ^ n * (v.toNat / 2 ^ lo / 2 ^ n) + v.toNat / 2 ^ lo % 2 ^ n) + v.toNat % 2 ^ lo := by
    rw [Nat.div_add_mod, Nat.div_add_mod]
  have hset : v.toNat - (v.toNat / 2 ^ lo % 2 ^ n) * 2 ^ lo + (x % 2 ^ n) * 2 ^ lo
      = 2 ^ lo * (2 ^ n * (v.toNat / 2 ^ lo / 2 ^ n) + x % 2 ^ n) + v.toNat % 2 ^ lo := by
    rw [Nat.mul_add] at hv ⊢
    rw [Nat.mul_comm _ (2 ^ lo), Nat.mul_comm (x % 2 ^ n)]
    omega
  have hbit : v.getLsbD i = v.toNat.testBit i := (BitVec.testBit_toNat v).symm
  rw [setFld, fld, hn, Nat.shiftRight_eq_div_pow, Nat.shiftLeft_eq, Nat.shiftLeft_eq, hset, BitVec.getLsbD_ofNat,
    testBit_parts _ hlow hx, hbit]
  conv_rhs => rw [hv, testBit_parts _ hlow hfld]
  have hi64 : i < 64 := not_le.1 h64
  by_cases hi1 : i < lo
  · simp [hi1, hi64, show ¬ lo ≤ i by omega]
  · by_cases hi2 : i < lo + n
    · simp [hi1, hi2, hi64, show lo ≤ i by omega, show i ≤ hi by omega, Nat.testBit_mod_two_pow, show i - lo < n by omega]
    · simp [hi1, hi2, hi64, show ¬ i ≤ hi by omega]

/-! ## The words of an object (13 R322) -/

/-- The waiter bit of a future's word (13 R322). -/
theorem setFld_waiting (w : DWord) : setFld w 61 61 1 = w ||| 1 <<< 61 := by
  apply BitVec.eq_of_getLsbD_eq
  intro i hi
  rw [getLsbD_setFld _ _ (by decide) (by decide), BitVec.getLsbD_or]
  by_cases h : i = 61
  · subst h
    simp
  · have hbit : (1 <<< 61 : DWord).getLsbD i = false := by
      rw [show (1 <<< 61 : DWord) = BitVec.twoPow 64 61 by decide, BitVec.getLsbD_twoPow]
      simp [Ne.symm h]
    rw [if_neg (by omega), hbit, Bool.or_false]

/-- A word of three parts: a state of 2 bits, a flag, and the rest. -/
theorem setFld_filled (w : DWord) (n : Nat) :
    setFld (setFld w 63 62 n) 61 61 0 = BitVec.ofNat 2 n ++ 0#1 ++ w.extractLsb' 0 61 := by
  apply BitVec.eq_of_getLsbD_eq
  intro i hi
  rw [getLsbD_setFld _ _ (by decide) (by decide), getLsbD_setFld _ _ (by decide) (by decide), BitVec.getLsbD_append,
    BitVec.getLsbD_append]
  by_cases h61 : i < 61
  · simp [h61, show ¬ 61 ≤ i by omega, show ¬ 62 ≤ i by omega]
  · by_cases h62 : i = 61
    · subst h62; simp
    · simp [h61, show 62 ≤ i by omega, show i ≤ 63 by omega, show ¬ i ≤ 61 by omega, show ¬ i - 61 < 1 by omega,
        show i - 61 - 1 = i - 62 by omega,
        show i - 62 < 2 by omega, BitVec.getLsbD_ofNat, -BitVec.getLsbD_eq_getElem]

theorem setFld_owned (w : DWord) (n x : Nat) :
    setFld (setFld w 63 62 n) 31 0 x = BitVec.ofNat 2 n ++ w.extractLsb' 32 30 ++ BitVec.ofNat 32 x := by
  apply BitVec.eq_of_getLsbD_eq
  intro i hi
  rw [getLsbD_setFld _ _ (by decide) (by decide), getLsbD_setFld _ _ (by decide) (by decide), BitVec.getLsbD_append,
    BitVec.getLsbD_append]
  by_cases h32 : i < 32
  · simp [h32, show i ≤ 31 by omega, BitVec.getLsbD_ofNat, -BitVec.getLsbD_eq_getElem]
  · by_cases h62 : i < 62
    · simp [h32, show ¬ i ≤ 31 by omega, show ¬ 62 ≤ i by omega, show i - 32 < 30 by omega, show 32 + (i - 32) = i by omega]
    · simp [h32, show ¬ i ≤ 31 by omega, show 62 ≤ i by omega, show i ≤ 63 by omega, show ¬ i - 32 < 30 by omega,
        show i - 32 - 30 = i - 62 by omega,
        show i - 62 < 2 by omega, BitVec.getLsbD_ofNat, -BitVec.getLsbD_eq_getElem]

theorem setFld_locked (w : DWord) : setFld w 63 63 1 = setFld w 63 62 (2 ||| (w.extractLsb' 62 2 &&& 1#2)).toNat := by
  apply BitVec.eq_of_getLsbD_eq
  intro i hi
  rw [getLsbD_setFld _ _ (by decide) (by decide), getLsbD_setFld _ _ (by decide) (by decide)]
  by_cases h62 : i < 62
  · simp [show ¬ 63 ≤ i by omega, show ¬ 62 ≤ i by omega]
  · obtain rfl | rfl : i = 62 ∨ i = 63 := by omega
    · simp [-BitVec.getLsbD_eq_getElem, BitVec.testBit_toNat]
    · simp
      exact .inl (by decide)

/-! ## An object's place -/

/-- An object of at most 64 bytes at the key `k`, in the die-shared memory of a die. -/
structure State.SharedObject (s : State) (die k : Nat) : Prop where
  place   : keyPlace k = 512 + die
  aligned : k % 8 = 0
  inside  : keyAddr k + 64 ≤ 192 * 2 ^ 20
  die_lt  : die < s.cds.length

section
variable {s : State} {die k : Nat} (h : s.SharedObject die k)
include h

theorem State.SharedObject.addr {i : Nat} (hi : i < 64) : keyPlace (k + i) = 512 + die ∧ keyAddr (k + i) = keyAddr k + i := by
  have hp := h.place
  have ha := h.inside
  unfold keyPlace keyAddr at *
  omega

theorem State.SharedObject.keyRead {i : Nat} (hi : i < 64) (n : Nat) :
    s.keyRead (k + i) n = s.sharedRead die (keyAddr k + i) n := by
  obtain ⟨hp, ha⟩ := h.addr hi
  rw [State.keyRead, hp, ha, if_pos (Nat.le_add_right _ _), Nat.add_sub_cancel_left]

theorem State.SharedObject.keyWrite {i : Nat} (hi : i < 64) (bs : List Byte) :
    s.keyWrite (k + i) bs = s.sharedPut die (keyAddr k + i) bs := by
  obtain ⟨hp, ha⟩ := h.addr hi
  rw [State.keyWrite, hp, ha, if_pos (Nat.le_add_right _ _), Nat.add_sub_cancel_left]

theorem State.SharedObject.of_cds {t : State} (ht : t.cds.length = s.cds.length) : t.SharedObject die k :=
  { h with die_lt := ht ▸ h.die_lt }

/-- A number read at an object rests on the die's memory alone. -/
theorem State.SharedObject.numAt_congr {t : State} (ht : (t.cd die).shared = (s.cd die).shared) (hl : t.cds.length = s.cds.length)
    {i : Nat} (hi : i < 64) (n : Nat) : t.numAt (k + i) n = s.numAt (k + i) n := by
  simp only [State.numAt, h.keyRead hi, (h.of_cds hl).keyRead hi, State.sharedRead, ht]

/-- A word of an object that is written is read back. -/
theorem State.SharedObject.numAt_keyWrite {i n : Nat} (hi : i < 64) (hn : 0 < n) (hw : (keyAddr k + i) % 128 + n ≤ 128) (v : Nat) :
    (s.keyWrite (k + i) (leBytes n v)).numAt (k + i) n = v % 256 ^ n := by
  have hl : (s.keyWrite (k + i) (leBytes n v)).cds.length = s.cds.length := by
    rw [h.keyWrite hi, State.sharedPut, State.updCd_cds, lset_length]
  rw [State.numAt, (h.of_cds hl).keyRead hi, h.keyWrite hi]
  have := State.sharedRead_sharedPut (bs := leBytes n v) h.die_lt (by simpa using hn) (by simpa using hw)
  rw [leBytes_length] at this
  rw [this, leNat_leBytes]

end

/-! ## Two words at once -/

theorem cwrite_append {w : Nat} (m : Cells w) (j : Nat) (x y : List (BitVec w)) :
    cwrite m j (x ++ y) = cwrite (cwrite m j x) (j + x.length) y := by
  induction x generalizing m j with
  | nil => rfl
  | cons v r ih => rw [List.cons_append, cwrite, cwrite, ih, List.length_cons, Nat.add_assoc, Nat.add_comm 1]

/-- A write elsewhere changes nothing of what is read. -/
theorem cread_cwrite_apart {w : Nat} (m : Cells w) {j k n : Nat} {vs : List (BitVec w)}
    (h : ∀ i < n, ¬ (j ≤ k + i ∧ k + i < j + vs.length)) : cread (cwrite m j vs) k n = cread m k n := by
  refine List.map_congr_left fun i hi => ?_
  rw [cget_cwrite, if_neg (h i (List.mem_range.1 hi))]

/-- Words stand apart in the slices of a die (09 R216). -/
theorem sharedAt_words {a : Nat} (ha : a % 8 = 0) (hin : a + 16 ≤ 192 * 2 ^ 20) {i : Nat} (hi : i < 8) :
    ¬ (sharedAt (a + 8) ≤ sharedAt a + i ∧ sharedAt a + i < sharedAt (a + 8) + 8) := by
  rintro ⟨hlo, hhi⟩
  obtain ⟨j, hj⟩ := Nat.exists_eq_add_of_le hlo
  have hj8 : j < 8 := by omega
  rw [← sharedAt_add (by omega), ← sharedAt_add (i := j) (by omega)] at hj
  have := sharedAt_inj (by omega) (by omega) hj
  omega

/-- Two words are written one after the other, whether one line holds both or not. -/
theorem State.sharedPut_words {s : State} {die a : Nat} {x y : List Byte} (hd : die < s.cds.length) (ha : a % 8 = 0)
    (hx : x.length = 8) (hy : y.length = 8) : ((s.sharedPut die a (x ++ y)).cd die).shared =
      cwrite (cwrite (s.cd die).shared (sharedAt a) x) (sharedAt (a + 8)) y := by
  have hlen : (x ++ y).length = 16 := by simp [hx, hy]
  by_cases hline : a % 128 + 16 ≤ 128
  · rw [State.sharedPut_within hd (by omega) (by omega), cwrite_append, hx, sharedAt_add (by omega)]
  · have hchunks : chunks 128 (16 / 128 + 2) a 16 = [(a, 8), (a + 8, 8)] := by
      have h1 : 128 - a % 128 = 8 := by omega
      have h2 : 128 - (a + 8) % 128 = 128 := by omega
      simp [chunks, h1, h2]
    rw [State.sharedPut, State.cd_updCd_self hd, hlen, hchunks]
    simp only [List.foldl_cons, List.foldl_nil, Nat.sub_self, List.drop_zero, Nat.add_sub_cancel_left, List.take_left' hx,
      List.drop_left' hx, List.take_of_length_le hy.le]

section
variable {s : State} {die k : Nat} (h : s.SharedObject die k)
include h

theorem State.SharedObject.addr_mod {i : Nat} (hi8 : i % 8 = 0) : (keyAddr k + i) % 8 = 0 := by
  have := h.aligned
  unfold keyAddr
  omega

theorem State.SharedObject.numAt_word {t : State} (hl : t.cds.length = s.cds.length) {i : Nat} (hi : i < 64) (hi8 : i % 8 = 0) :
    t.numAt (k + i) 8 = leNat (cread (t.cd die).shared (sharedAt (keyAddr k + i)) 8) := by
  have := h.addr_mod hi8
  rw [State.numAt, (h.of_cds hl).keyRead hi, State.sharedRead_within _ _ (by decide) (by omega)]

/-- Both words of an object that are written together are read back. -/
theorem State.SharedObject.numAt_keyWrite_words (x y : DWord) :
    (s.keyWrite k (leBytes 8 x.toNat ++ leBytes 8 y.toNat)).numAt k 8 = x.toNat ∧
      (s.keyWrite k (leBytes 8 x.toNat ++ leBytes 8 y.toNat)).numAt (k + 8) 8 = y.toNat := by
  have hput : s.keyWrite k _ = s.sharedPut die (keyAddr k) (leBytes 8 x.toNat ++ leBytes 8 y.toNat) := h.keyWrite (i := 0) (by decide) _
  have hl : (s.keyWrite k (leBytes 8 x.toNat ++ leBytes 8 y.toNat)).cds.length = s.cds.length := by
    rw [hput, State.sharedPut, State.updCd_cds, lset_length]
  have ha : keyAddr k % 8 = 0 := h.addr_mod (i := 0) (by decide)
  have hin := h.inside
  have hnum (v : DWord) : leNat (leBytes 8 v.toNat) = v.toNat := (leNat_leBytes _ _).trans (Nat.mod_eq_of_lt v.isLt)
  have hcell (m : Cells 8) (a : Nat) (v : DWord) : cread (cwrite m a (leBytes 8 v.toNat)) a 8 = leBytes 8 v.toNat := by
    simpa using cread_cwrite m a (leBytes 8 v.toNat)
  constructor
  · have h0 : _ = leNat (cread _ (sharedAt (keyAddr k)) 8) := h.numAt_word hl (i := 0) (by decide) (by decide)
    rw [hput, State.sharedPut_words h.die_lt ha (leBytes_length _ _) (leBytes_length _ _),
      cread_cwrite_apart _ fun i hi => by rw [leBytes_length]; exact sharedAt_words ha (by omega) hi, hcell, hnum] at h0
    rw [hput]
    exact h0
  · have h8 := h.numAt_word hl (i := 8) (by decide) (by decide)
    rw [hput, State.sharedPut_words h.die_lt ha (leBytes_length _ _) (leBytes_length _ _), hcell, hnum] at h8
    rw [hput]
    exact h8

theorem State.SharedObject.cds_keyWrite {i : Nat} (hi : i < 64) (bs : List Byte) :
    (s.keyWrite (k + i) bs).cds.length = s.cds.length := by
  rw [h.keyWrite hi, State.sharedPut, State.updCd_cds, lset_length]

/-- Word 0 that is written is read back. -/
theorem State.SharedObject.word0_keyWrite (v : Nat) : BitVec.ofNat 64 ((s.keyWrite k (leBytes 8 v)).numAt k 8) = BitVec.ofNat 64 v := by
  have ha := h.addr_mod (i := 0) (by decide)
  rw [show (s.keyWrite k (leBytes 8 v)).numAt k 8 = v % 256 ^ 8 from h.numAt_keyWrite (i := 0) (by decide) (by decide) (by omega) v]
  apply BitVec.eq_of_toNat_eq
  simp

/-! ## The park table and the wakes (13 R338, R341) -/

theorem State.SharedObject.parkOf : s.parkOf k = (s.cd die).park := by
  rw [State.parkOf, h.place, if_pos (Nat.le_add_right _ _), Nat.add_sub_cancel_left]

theorem State.SharedObject.updPark (f : List (Nat × ObjOp × Waiter) → List (Nat × ObjOp × Waiter)) :
    s.updPark k f = s.updCd die (fun c => { c with park := f c.park }) := by
  rw [State.updPark, h.place, if_pos (Nat.le_add_right _ _), Nat.add_sub_cancel_left]

theorem State.SharedObject.parkSize : parkSize k = 4096 := by
  rw [Machine.parkSize, h.place, if_pos (Nat.le_add_right _ _)]

theorem State.SharedObject.park_updPark (f : List (Nat × ObjOp × Waiter) → List (Nat × ObjOp × Waiter)) :
    ((s.updPark k f).cd die).park = f (s.cd die).park := by
  rw [h.updPark, State.cd_updCd_self h.die_lt]

theorem State.SharedObject.numAt_updPark (f : List (Nat × ObjOp × Waiter) → List (Nat × ObjOp × Waiter)) {i : Nat} (hi : i < 64)
    (n : Nat) : (s.updPark k f).numAt (k + i) n = s.numAt (k + i) n := by
  rw [h.updPark]
  refine h.numAt_congr ?_ ?_ hi n
  · rw [State.cd_updCd_self h.die_lt]
  · rw [State.updCd_cds, lset_length]

/-- A write of an object's bytes leaves its park table and the inbox. -/
theorem State.SharedObject.park_keyWrite {i : Nat} (hi : i < 64) (bs : List Byte) :
    ((s.keyWrite (k + i) bs).cd die).park = (s.cd die).park ∧ (s.keyWrite (k + i) bs).inbox = s.inbox := by
  rw [h.keyWrite hi, State.sharedPut]
  exact ⟨State.cd_updCd_kept (p := Cd.park) (by intro d; rfl) _ _ _, rfl⟩

/-- Every registered waiter gets a wake, and its record goes; the object's bytes stay. -/
theorem State.SharedObject.wakeAll : ((s.wakeAll k).cd die).park = (s.cd die).park.filter (fun x => x.1 ≠ k) ∧
    (s.wakeAll k).inbox = s.inbox ++ ((s.cd die).park.filter (fun x => x.1 = k)).map (fun x => .wake x.2.2) := by
  have hp := h.park_updPark (fun l => l.filter (fun x => x.1 != k))
  unfold State.wakeAll
  rw [h.parkOf]
  refine ⟨hp.trans (List.filter_congr fun x _ => ?_), ?_⟩
  · rw [Bool.eq_iff_iff]
    simp
  · rw [h.updPark]
    refine congrArg (fun l => s.inbox ++ List.map (fun x : Nat × ObjOp × Waiter => Event.wake x.2.2) l) (List.filter_congr fun x _ => ?_)
    rw [Bool.eq_iff_iff]
    simp

theorem State.SharedObject.numAt_wakeAll {i : Nat} (hi : i < 64) (n : Nat) : (s.wakeAll k).numAt (k + i) n = s.numAt (k + i) n :=
  h.numAt_updPark _ hi n

section
variable {op : ObjOp} {w : Waiter} {o : Option Word} {setW : State → State}

theorem State.SharedObject.any_park :
    ((s.parkOf k).any (fun x => x.1 == k && x.2.2 == w)) = true ↔ ∃ op, (k, op, w) ∈ (s.cd die).park := by
  rw [h.parkOf]
  simp

/-- A waiter is recorded once (13 R338). -/
theorem State.SharedObject.register_again (hrec : ∃ op, (k, op, w) ∈ (s.cd die).park) :
    s.register op k w o setW = (.wait o, setW s) := if_pos (h.any_park.2 hrec)

theorem State.SharedObject.register_full (hrec : ¬ ∃ op, (k, op, w) ∈ (s.cd die).park) (hfull : 4096 ≤ (s.cd die).park.length) :
    s.register op k w o setW = (.full, s) :=
  (if_neg (mt h.any_park.1 hrec)).trans (if_pos (by rwa [h.parkSize, h.parkOf]))

theorem State.SharedObject.register_new (hrec : ¬ ∃ op, (k, op, w) ∈ (s.cd die).park) (hroom : (s.cd die).park.length < 4096) :
    s.register op k w o setW = (.wait o, (setW s).updPark k (fun l => l ++ [(k, op, w)])) :=
  (if_neg (mt h.any_park.1 hrec)).trans (if_neg (by rw [h.parkSize, h.parkOf]; omega))

end

end

theorem ownerOf_eq (w : DWord) : ownerOf w = if w.extractLsb' 0 32 = 0xFFFFFFFF then none else some (w.extractLsb' 0 32) := by
  unfold ownerOf
  rw [fld_eq_extract, BitVec.ofNat_toNat, BitVec.setWidth_eq]
  simp only [← BitVec.toNat_inj]
  rfl

/-- Settles O36: an operation writes whole words of its object, whose fields are those that R322 gives it. -/
theorem objectRules : Obligations.ObjectRules := by
  intro s die k args w hplace _ halign hin hdie hcds step_ w0 word0 state held owner named flag put park recorded woken
  have h : s.SharedObject die k := ⟨hplace, halign, hin, by omega⟩
  have hstate : fld w0 63 62 = state.toNat := fld_eq_extract _ _ _
  have howner : fld w0 31 0 = owner.toNat := fld_eq_extract _ _ _
  have hnamed : ownerOf w0 = named := ownerOf_eq w0
  have hwait (hst : state.toNat < 2) : ¬ 2 ≤ fld w0 63 62 := by omega
  have hkeep (bs : List Byte) : ((s.keyWrite k bs).cd die).park = park := (h.park_keyWrite (i := 0) (by decide) bs).1
  have hobj (bs : List Byte) : (s.keyWrite k bs).SharedObject die k := h.of_cds (h.cds_keyWrite (i := 0) (by decide) bs)
  have hread (v : DWord) : word0 (s.keyWrite k (leBytes 8 v.toNat)) = v := by
    rw [show word0 (s.keyWrite k (leBytes 8 v.toNat)) = _ from h.word0_keyWrite v.toNat, BitVec.ofNat_toNat, BitVec.setWidth_eq]
  have hwoken (bs : List Byte) : woken ((s.keyWrite k bs).wakeAll k) := by
    have hinbox : (s.keyWrite k bs).inbox = s.inbox := (h.park_keyWrite (i := 0) (by decide) bs).2
    have hw := (hobj bs).wakeAll
    rw [hkeep, hinbox] at hw
    exact hw
  have hmine : (fld w0 63 62 = 0 ∨ (fld w0 63 62 = 1 ∧ fld w0 31 0 = w.task.toNat)) ↔ (state = 0 ∨ (state = 1 ∧ owner = w.task)) := by
    rw [hstate, howner, BitVec.toNat_inj, ← BitVec.toNat_inj (x := state), ← BitVec.toNat_inj (x := state)]
    rfl
  have hlocked (hheld : held = true) : ¬ (!bitOf w0 63) = true := by rw [show bitOf w0 63 = true from hheld]; decide
  have hopen (hfree : held = false) : (!bitOf w0 63) = true := by rw [show bitOf w0 63 = false from hfree]; rfl
  refine ⟨?ready, ?waits, ?again, ?full, rfl, ?fillFull, ?fill, ?ownOld, ?own, ?ownNot, ?ownQ, ?lock, ?lockBusy, ?lockWaits, ?unlockFree,
    ?unlockOther, ?unlock, ?empty, ?pop⟩
  case ready =>
    intro hst
    have hval : ∀ x : BitVec 2, 2 ≤ x.toNat → BitVec.ofNat 64 (x.toNat - 2) = x.setWidth 64 - 2 := by decide
    rw [← hval state hst, ← hstate]
    exact if_pos (hstate ▸ hst)
  case waits =>
    intro hst hnew hroom
    have hs : step_ .fwait = _ := (if_neg (hwait hst)).trans (h.register_new hnew hroom)
    rw [hs]
    refine ⟨?_, ?_, ?_⟩
    · rw [hstate, hnamed]
      simp only [← BitVec.toNat_inj]
      rfl
    · exact ((hobj _).park_updPark _).trans (congrArg (· ++ _) (hkeep _))
    · refine (congrArg (BitVec.ofNat 64) ((hobj _).numAt_updPark _ (i := 0) (by decide) 8)).trans ((hread _).trans ?_)
      exact setFld_waiting w0
  case again =>
    intro hst hrec
    have hs : step_ .fwait = _ := (if_neg (hwait hst)).trans (h.register_again hrec)
    rw [hs]
    exact hkeep _
  case full =>
    intro hst hnew hfull
    exact (if_neg (hwait hst)).trans (h.register_full hnew hfull)
  case fillFull =>
    intro hst
    exact if_pos (hstate ▸ hst)
  case fill =>
    intro hst
    have hs : (step_ .ffill).2 =
        ((s.keyWrite k (leBytes 8 (setFld (setFld w0 63 62 (if bitOf (args.getD 1 0) 0 then 3 else 2)) 61 61 0).toNat
        ++ leBytes 8 (args.getD 0 0).toNat)).wakeAll k) := if_neg (hwait hst)
    obtain ⟨hfirst, hsecond⟩ := h.numAt_keyWrite_words (setFld (setFld w0 63 62 (if bitOf (args.getD 1 0) 0 then 3 else 2)) 61 61 0)
      (args.getD 0 0)
    rw [hs]
    refine ⟨?_, ?_, hwoken _⟩
    · refine (congrArg (BitVec.ofNat 64) (((hobj _).numAt_wakeAll (i := 0) (by decide) 8).trans hfirst)).trans ?_
      rw [BitVec.ofNat_toNat, BitVec.setWidth_eq, setFld_filled, show flag 1 = bitOf (args.getD 1 0) 0 from rfl]
      split <;> rfl
    · rw [(hobj _).numAt_wakeAll (by decide), hsecond, BitVec.ofNat_toNat, BitVec.setWidth_eq]
  case ownOld =>
    change (ite _ _ _ : Checked × State).1 = _
    split <;> rfl
  case own =>
    intro hst
    have hs : step_ .fown = _ := if_pos (hmine.2 hst)
    rw [hs]
    refine (hread _).trans ((setFld_owned _ _ _).trans ?_)
    rw [show bitOf (args.getD 0 0) 1 = (args.getD 0 0).getLsbD 1 from rfl]
    split
    · rfl
    · rw [BitVec.ofNat_toNat, BitVec.setWidth_eq]
      rfl
  case ownNot =>
    intro hst
    have hs : step_ .fown = _ := if_neg (mt hmine.1 hst)
    rw [hs]
  case ownQ =>
    intro _
    refine ⟨rfl, ?_⟩
    have ha := h.addr_mod (i := 16) (by decide)
    refine (h.numAt_keyWrite (i := 16) (n := 4) (by decide) (by decide) (by omega) _).trans ?_
    rw [show bitOf (args.getD 0 0) 1 = (args.getD 0 0).getLsbD 1 from rfl]
    split
    · rfl
    · exact Nat.mod_eq_of_lt w.task.isLt
  case lock =>
    intro hfree
    have hs : step_ .lock = _ := if_pos (hopen hfree)
    rw [hs]
    refine ⟨rfl, (hread _).trans ?_⟩
    rw [setFld_locked, setFld_owned, BitVec.ofNat_toNat, BitVec.setWidth_eq, BitVec.ofNat_toNat, BitVec.setWidth_eq]
    rfl
  case lockBusy =>
    intro hheld htry
    exact (if_neg (hlocked hheld)).trans (if_pos htry)
  case lockWaits =>
    intro hheld hstay hnew hroom
    have hs : step_ .lock = _ := (if_neg (hlocked hheld)).trans ((if_neg (Bool.eq_false_iff.1 hstay)).trans (h.register_new hnew hroom))
    rw [hs, hnamed]
  case unlockFree =>
    intro hfree
    exact if_pos (hopen hfree)
  case unlockOther =>
    intro hheld htask hother
    have hne : fld w0 31 0 ≠ w.task.toNat := by rwa [howner, ne_eq, BitVec.toNat_inj]
    exact (if_neg (hlocked hheld)).trans (if_pos ⟨htask, hne⟩)
  case unlock =>
    intro hheld hmay
    have hown : ¬ (w.task ≠ 0xFFFFFFFF ∧ fld w0 31 0 ≠ w.task.toNat) := by
      rw [howner, ne_eq, ne_eq, BitVec.toNat_inj]
      tauto
    have hs : step_ .unlock = _ := (if_neg (hlocked hheld)).trans (if_neg hown)
    rw [hs]
    refine ⟨rfl, ?_, hwoken _⟩
    refine (congrArg (BitVec.ofNat 64) ((hobj _).numAt_wakeAll (i := 0) (by decide) 8)).trans ((hread _).trans ?_)
    exact setFld_owned _ _ _
  case empty =>
    intro heq htry
    exact (if_neg (not_not.2 heq)).trans (if_pos htry)
  case pop =>
    intro hne
    have hs : step_ .qpop = _ := if_pos hne
    rw [hs]
    refine ⟨_, rfl, (h.word0_keyWrite _).trans ?_⟩
    rw [BitVec.ofNat_add]
    rfl

end Sys2Proof.Machine

/-!
Object instructions on an object of the own die (O35; 13 R326-R328, R332-R338): what their checks come to, and what an answer does.
-/
namespace Sys2Proof.Machine

/-- A release side of device scope waits for the thread's own operations alone (10 R254). -/
theorem releaseAt_device {c : Ctx} {s : State} (h : s.allPerformed c.t = true) (r : Res) : releaseAt c s 3 r = r :=
  releaseAt_met (scope := 3) ⟨h, fun h4 => absurd h4 (by decide)⟩ r

theorem answerWith_items {c : Ctx} {s : State} {d : BitVec 7} {n : Nat} {vals : List DWord} (h : n ≤ vals.length) :
    answerWith c s d n vals = .done s ((List.range n).flatMap (fun j => c.wItem d.toNat j (vals.getD j 0))) .seq := by
  simp [answerWith, h]

/-- An operation that was done writes its items (13 R338). -/
theorem checkAnswer_done {c : Ctx} {s : State} {d : BitVec 7} {n : Nat} {vals : List DWord} (h : n ≤ vals.length) :
    checkAnswer c s d n (0 :: vals) = .done s ((List.range n).flatMap (fun j => c.wItem d.toNat j (vals.getD j 0))) .seq :=
  answerWith_items h

/-- The first answer that an object is not ready makes the thread wait, a task's wait being the task unit's (13 R338, R339). -/
theorem checkAnswer_wait {c : Ctx} {s : State} {d : BitVec 7} {n : Nat} (o : Option Word) (hc : c.stage < 10) :
    checkAnswer c s d n (checkedWords (.wait o)) = .wait .object 0
      (if c.b.task.isSome then s.post (.adoption c.t (o.getD 0xFFFFFFFF)) else s) := by
  simp [checkAnswer, checkedWords, Nat.not_le.2 hc]

theorem and_not_one {v : DWord} (h : v.toNat ≤ 1) : (v &&& ~~~1 != 0) = false := by
  obtain ⟨m, hm, rfl⟩ : ∃ m ≤ 1, v = BitVec.ofNat 64 m := ⟨v.toNat, h, by simp⟩
  interval_cases m <;> rfl

theorem and_not_three {v : DWord} (h : v.toNat ≤ 3) : (v &&& ~~~3 != 0) = false := by
  obtain ⟨m, hm, rfl⟩ : ∃ m ≤ 3, v = BitVec.ofNat 64 m := ⟨v.toNat, h, by simp⟩
  interval_cases m <;> rfl

/-- The checks of an object instruction pass, and its object is one of the own die: an access of `size` bytes at `off` through the
region `g`, the object at the key `k` (13 R326, R327). -/
structure ObjectHere (x : Ctx) (s : State) (g : Region) (off size k : Nat) : Prop where
  granted   : Granted g .atom [(x.low, off, size)]
  aligned   : off % size = 0
  mapped    : pass x s g .atom [(x.low, off, size)] = .go
  unwatched : watched x s g 60 [(x.low, off, size)] = none
  key       : objectKey x s g off = some k
  notHost   : keyPlace k ≠ 16
  ownPkg    : foreignKey k = false
  ownDie    : s.keyDie x.b.die k = .cd x.b.die

section
variable {i : Instr} {d : BitVec 7} {a : BitVec 5} {b : BitVec 7} {nB nD : Nat} {ctl : List (Nat × DWord)} {size : Ctx → Nat}
  {op : Ctx → ObjOp} {args : Ctx → List DWord} {rel : Bool} {s : State} {c : Ctx}

/-- What an object instruction names. -/
def objectSpec (d : BitVec 7) (a : BitVec 5) (b : BitVec 7) (nB nD : Nat) : Spec :=
  { plain .both [.region a.toNat, .items b.toNat nB false, .items d.toNat nD true] with roles := [.vector] }

/-- The operation as its issuer asks for it, once the request has its number. -/
def State.objectAsked (s : State) (x : Ctx) (op : ObjOp) (k : Nat) (args : List DWord) : Checked × State :=
  (s.newId (.cd x.b.die)).2.objectStep op k args { task := x.taskId, t := x.t }

/-- An object of the own die is served at once. -/
theorem sendObject_here {x : Ctx} {s : State} {d : BitVec 7} {n k addr : Nat} {op : ObjOp} {args : List DWord} (h0 : x.stage = 0)
    (hd : s.keyDie x.b.die k = .cd x.b.die) :
    sendObject x s d n k (.object op k args { task := x.taskId, t := x.t }) addr =
      checkAnswer { x with stage := 4 } (s.objectAsked x op k args).2 d n (checkedWords (s.objectAsked x op k args).1) := by
  have hplace : (s.newId (.cd x.b.die)).2.keyDie x.b.die k = .cd x.b.die := hd
  unfold sendObject
  simp only [h0, hplace]
  rfl

/-- A fresh object instruction whose checks pass comes to the answer of its object. -/
theorem objectInstr_here {k : Nat} {x : Ctx} (h : Clear s i (objectSpec d a b nB nD) c) (hx : c.operands (objectSpec d a b nB nD) = x)
    (hctl : ctl.any (fun y => x.item b.toNat y.1 &&& ~~~y.2 != 0) = false)
    (hrel : rel = true → (s.countIssue c).allPerformed x.t = true)
    (hk : ObjectHere x (s.countIssue c) (x.rg a) (x.item b.toNat 0).toNat (size x) k) :
    objectInstr i d a b nB nD ctl size op args rel s = .next (finish s i (objectSpec d a b nB nD) x true
      (checkAnswer { x with stage := 4 } ((s.countIssue c).objectAsked x (op x) k (args x)).2 d nD
        (checkedWords ((s.countIssue c).objectAsked x (op x) k (args x)).1))) := by
  have h0 : x.stage = 0 := hx ▸ h.start
  refine (issue_clear h).trans ?_
  rw [hx]
  refine congrArg (fun r => Host.Outcome.next (finish s i (objectSpec d a b nB nD) x true r)) ?_
  have hstage : ¬ 4 ≤ x.stage := by omega
  have h2 : x.stage ≠ 2 := by omega
  refine (if_neg hstage).trans ?_
  have hsend : sendObject x (s.countIssue c) d nD k (.object (op x) k (args x) { task := x.taskId, t := x.t })
      ((x.rg a).addr (x.item b.toNat 0).toNat) = _ := sendObject_here h0 hk.ownDie
  simp only [hctl, Bool.false_eq_true, if_false, checkRegion_granted hk.granted, hk.aligned, ne_eq, not_true_eq_false, h2, hk.mapped,
    hk.key, hk.notHost, hk.unwatched, hsend]
  have hscope : objScope k = 3 := by simp [objScope, hk.ownPkg]
  cases rel with
  | true =>
    refine (if_pos rfl).trans ?_
    rw [hscope]
    exact releaseAt_device (hrel rfl) _
  | false => exact if_neg Bool.false_ne_true

/-- What it comes to where the operation is done, and where it waits. -/
theorem objectInstr_answers (he : ∀ s, exec i s = objectInstr i d a b nB nD ctl size op args rel s) {unused : Ctx → Prop}
    (hctl : ∀ x, unused x → ctl.any (fun y => x.item b.toNat y.1 &&& ~~~y.2 != 0) = false) {k : Nat} {vals : List DWord}
    {o : Option Word} :
    let ok := fun (x : Ctx) (s : State) => unused x ∧ ObjectHere x s (x.rg a) (x.item b.toNat 0).toNat (size x) k ∧
      (rel = true → s.allPerformed x.t = true)
    let r := fun (x : Ctx) (s : State) => s.objectAsked x (op x) k (args x)
    let out := fun (x : Ctx) => (List.range nD).flatMap (fun j => x.wItem d.toNat j (vals.getD j 0))
    CompletesWhen i (objectSpec d a b nB nD) (fun x s => ok x s ∧ (r x s).1 = .done vals ∧ nD ≤ vals.length)
      (fun x s => ((r x s).2, out x, .seq)) ∧
    WaitsWhen i (objectSpec d a b nB nD) (fun x s => ok x s ∧ (r x s).1 = .wait o) (fun x s =>
      (if x.b.task.isSome then (r x s).2.post (.adoption x.t (o.getD 0xFFFFFFFF)) else (r x s).2, .object, 0)) ∧
    EndsWhen i (objectSpec d a b nB nD) (fun x _ => 4 ≤ x.stage ∧ x.answer = some (0 :: vals) ∧ nD ≤ vals.length)
      (fun x s => (s, out x, .seq)) := by
  intro ok r out
  refine ⟨fun s c h hp => ?done, fun s c h hp => ?waits, endsWhen_of he fun x s hp => ?ends⟩
  case done =>
    obtain ⟨⟨hunused, hk, hrel⟩, hr, hn⟩ := hp
    rw [he, objectInstr_here h rfl (hctl _ hunused) hrel hk]
    have hr' : ((s.countIssue c).objectAsked (c.operands (objectSpec d a b nB nD)) (op (c.operands (objectSpec d a b nB nD))) k
        (args (c.operands (objectSpec d a b nB nD)))).1 = .done vals := hr
    rw [hr']
    exact congrArg (fun r => Host.Outcome.next (finish s i _ _ true r)) (checkAnswer_done hn)
  case waits =>
    obtain ⟨⟨hunused, hk, hrel⟩, hr⟩ := hp
    rw [he, objectInstr_here h rfl (hctl _ hunused) hrel hk]
    have hr' : ((s.countIssue c).objectAsked (c.operands (objectSpec d a b nB nD)) (op (c.operands (objectSpec d a b nB nD))) k
        (args (c.operands (objectSpec d a b nB nD)))).1 = .wait o := hr
    rw [hr']
    exact congrArg (fun r => Host.Outcome.next (finish s i _ _ true r)) (checkAnswer_wait o (show 4 < 10 by decide))
  case ends =>
    obtain ⟨h4, hans, hn⟩ := hp
    refine (if_pos h4).trans ?_
    rw [hans]
    exact checkAnswer_done hn

end

/-- What an instruction's form states, from the named checks. -/
theorem ObjectHere.intro {x : Ctx} {s : State} {g : Region} {off size k : Nat} {unused rel : Prop}
    (h : unused ∧ Granted g .atom [(x.low, off, size)] ∧ off % size = 0 ∧ pass x s g .atom [(x.low, off, size)] = .go ∧
      watched x s g 60 [(x.low, off, size)] = none ∧ objectKey x s g off = some k ∧ keyPlace k ≠ 16 ∧ foreignKey k = false ∧
      s.keyDie x.b.die k = .cd x.b.die ∧ (rel → s.allPerformed x.t = true)) :
    unused ∧ ObjectHere x s g off size k ∧ (rel → s.allPerformed x.t = true) := by
  obtain ⟨hu, hg, ha, hm, hw, hk, hh, hp, hd, hr⟩ := h
  exact ⟨hu, ⟨hg, ha, hm, hw, hk, hh, hp, hd⟩, hr⟩

/-- Settles O35: each form is the shared reading of an object instruction (`objectInstr_answers`), its control items' unused bits
being 0. -/
theorem objectInstructionsComplete : Obligations.ObjectInstructionsComplete := by
  unfold Obligations.ObjectInstructionsComplete
  intro d b a k vals o item q forms
  have step : ∀ {i : Instr} {nB nD : Nat} {ctl : List (Nat × DWord)} {unused : Ctx → Prop} {size : Ctx → Nat} {op : Ctx → ObjOp}
      {args : Ctx → List DWord} {rel : Bool} {relp : Prop}, (relp ↔ rel = true) →
      (∀ s, exec i s = objectInstr i d a b nB nD ctl size op args rel s) →
      (∀ x, unused x → ctl.any (fun y => x.item b.toNat y.1 &&& ~~~y.2 != 0) = false) →
      forms i nB nD unused size op args relp := by
    intro i nB nD ctl unused size op args rel relp hrel he hctl
    obtain ⟨hdone, hwait, hends⟩ := objectInstr_answers he hctl (k := k) (vals := vals) (o := o)
    refine ⟨fun s c h hp => hdone s c h ?done, fun s c h hp => hwait s c h ?waits, hends⟩
    case done =>
      obtain ⟨hok, hr, hn⟩ := hp
      exact ⟨(ObjectHere.intro hok).imp id (And.imp id (fun f hr => f (hrel.2 hr))), hr, hn⟩
    case waits =>
      obtain ⟨hok, hr⟩ := hp
      exact ⟨(ObjectHere.intro hok).imp id (And.imp id (fun f hr => f (hrel.2 hr))), hr⟩
  refine ⟨step (rel := false) (by simp) (fun _ => rfl) ?fwait, step (rel := true) (by simp) (fun _ => rfl) ?ffill,
    step (rel := false) (by simp) (fun _ => rfl) ?fown, step (rel := false) (by simp) (fun _ => rfl) ?lock,
    step (rel := true) (by simp) (fun _ => rfl) ?unlock, step (rel := false) (by simp) (fun _ => rfl) ?qpop,
    step (rel := true) (by simp) (fun _ => rfl) ?succ⟩
  case fwait | unlock | succ => exact fun _ _ => rfl
  case ffill | lock | qpop => exact fun x h => by simp only [List.any_cons, List.any_nil, Bool.or_false]; exact and_not_one h
  case fown => exact fun x h => by simp only [List.any_cons, List.any_nil, Bool.or_false]; exact and_not_three h

end Sys2Proof.Machine

/-!
Tasks and their queues (O37; 13 R329, R330, R336, 12 R314): the completions of TSPAWN, TRET, QPUSH and LAUNCH.
-/
namespace Sys2Proof.Machine

/-! ## TSPAWN (13 R329) -/

section
variable {d a b : BitVec 7} {x : Ctx} {s : State} {ix key : Nat} {p : Pool}

/-- What TSPAWN reads. -/
def tspawnSpec (d a b : BitVec 7) : Spec :=
  { plain .both [.items a.toNat 1 false, .items b.toNat 1 false, .items d.toNat 2 true] with roles := [.vector] }

/-- The index of the pool that a control word of TSPAWN names: 0x3FF is the pool of the issuer's own task. -/
def Ctx.spawnPool (x : Ctx) (ctl : DWord) : Option Nat :=
  if fld ctl 9 0 = 0x3FF then x.b.task.map (fun t => t.toNat / 2 ^ 22) else some (fld ctl 9 0)

theorem map_idPool (o : Option Word) : o.map idPool = o.map (fun t => t.toNat / 2 ^ 22) :=
  congrArg (o.map ·) (funext fun t => Nat.shiftRight_eq_div_pow t.toNat 22)

/-- The checks of TSPAWN pass: no reserved bit is set, the record is aligned, and the thread's operations are performed. -/
structure SpawnAsks (x : Ctx) (s : State) (ctl rec_ : DWord) : Prop where
  low       : fld ctl 15 10 = 0
  high      : fld ctl 63 17 = 0
  aligned   : rec_.toNat % 64 = 0
  performed : s.allPerformed x.t = true

/-- The pool that TSPAWN finds to take the record. -/
def State.spawnFinds (s : State) (x : Ctx) (ctl : DWord) : Option (Nat × Pool) :=
  ((x.spawnPool ctl).bind (s.poolAt x.b.die)).filter (fun y => y.2.placed && !y.2.killed)

theorem spawnFinds_some {ctl : DWord} (hpool : x.spawnPool ctl = some ix) (hat : s.poolAt x.b.die ix = some (key, p))
    (hplaced : p.placed = true) (hlive : p.killed = false) : s.spawnFinds x ctl = some (key, p) := by
  simp [State.spawnFinds, hpool, hat, hplaced, hlive]

theorem spawnFinds_none {ctl : DWord} (h : ∀ n, x.spawnPool ctl = some n → ∀ y, s.poolAt x.b.die n = some y →
    y.2.placed = false ∨ y.2.killed = true) : s.spawnFinds x ctl = none := by
  refine Option.filter_eq_none_iff.2 fun y hy => ?_
  obtain ⟨n, hn, hat⟩ := Option.bind_eq_some_iff.1 hy
  rcases h n hn y hat with hp | hk
  · simp [hp]
  · simp [hk]

/-- TSPAWN's answer of the pool that it finds. -/
def tspawnAnswer (d : BitVec 7) (c : Ctx) (s : State) (ctl rec_ : DWord) : Option (Nat × Pool) → Res
  | none => answerWith c s d 2 [2]
  | some (i, p) =>
    if 2 ^ 56 ≤ rec_.toNat then answerWith c s d 2 [3]
    else
      match s.spawn i rec_.toNat with
      | (.id w, s) => answerWith c s d 2 [0, w.setWidth 64]
      | (.malformed, s) => answerWith c s d 2 [3]
      | (.full, s) => if bitOf ctl 16 then answerWith c s d 2 [1] else .refuse 21 0 c.allLanes
      | (.absent va, s) =>
        .wait (.page p.die p.desc.asid) 0 (s.ringPut p.die
          (s.record c.t 22 2 c.th.pc va c.allLanes (5 * 4096 + p.die * 256)))

/-- What TSPAWN does. -/
def tspawnBody (d a b : BitVec 7) (c : Ctx) (s : State) : Res :=
  let ctl := c.item b.toNat 0
  let rec_ := c.item a.toNat 0
  if fld ctl 15 10 ≠ 0 ∨ fld ctl 63 17 ≠ 0 then .refuse 1 0 c.allLanes
  else if rec_.toNat % 64 ≠ 0 then .refuse 12 rec_.toNat (if c.front then 0 else laneBit c.low)
  else releaseAt c s 3 (tspawnAnswer d c s ctl rec_ (s.spawnFinds c ctl))

theorem exec_tspawn (s : State) : exec (.tspawn d a b) s = issue s (.tspawn d a b) (tspawnSpec d a b) (tspawnBody d a b) := by
  refine Eq.trans (b := execTspawn d a b s) rfl ?_
  unfold execTspawn
  refine congrArg _ (funext fun c => funext fun s => ?_)
  simp only [tspawnBody, State.spawnFinds, Ctx.spawnPool, map_idPool] <;> rfl

theorem tspawnBody_asks (h : SpawnAsks x s (x.item b.toNat 0) (x.item a.toNat 0)) :
    tspawnBody d a b x s = tspawnAnswer d x s (x.item b.toNat 0) (x.item a.toNat 0) (s.spawnFinds x (x.item b.toNat 0)) := by
  simp [tspawnBody, h.low, h.high, h.aligned, releaseAt_device h.performed]

/-- An answer with no ID: the item for the ID is a free value (log 2). -/
theorem answerWith_status (c : Ctx) (s : State) (d : BitVec 7) (st : DWord) :
    answerWith c s d 2 [st] =
      .done { s with free := s.free + 1 } (c.wItem d.toNat 0 st ++ c.wItem d.toNat 1 (Config.freeWord (nth s.free 1))) .seq := by
  simp [answerWith, resultItems, State.takeFree, List.range_succ]

theorem answerWith_one (c : Ctx) (s : State) (d : BitVec 7) (v : DWord) :
    answerWith c s d 1 [v] = .done s (c.wItem d.toNat 0 v) .seq := by
  simp [answerWith]

theorem answerWith_two (c : Ctx) (s : State) (d : BitVec 7) (v w : DWord) :
    answerWith c s d 2 [v, w] = .done s (c.wItem d.toNat 0 v ++ c.wItem d.toNat 1 w) .seq := by
  simp [answerWith, List.range_succ]


/-! ## The answers -/

theorem tspawnAnswer_id {ctl rec_ : DWord} {id : Word} (hr : rec_.toNat < 2 ^ 56) (hs : (s.spawn key rec_.toNat).1 = .id id) :
    tspawnAnswer d x s ctl rec_ (some (key, p)) =
      .done (s.spawn key rec_.toNat).2 (x.wItem d.toNat 0 0 ++ x.wItem d.toNat 1 (id.setWidth 64)) .seq := by
  rw [tspawnAnswer, if_neg (Nat.not_le.2 hr)]
  generalize s.spawn key rec_.toNat = r at hs
  obtain ⟨_, s'⟩ := r
  cases hs
  exact answerWith_two ..

theorem tspawnAnswer_full {ctl rec_ : DWord} (hr : rec_.toNat < 2 ^ 56) (hs : (s.spawn key rec_.toNat).1 = .full) :
    tspawnAnswer d x s ctl rec_ (some (key, p)) =
      if bitOf ctl 16 then answerWith x (s.spawn key rec_.toNat).2 d 2 [1] else .refuse 21 0 x.allLanes := by
  rw [tspawnAnswer, if_neg (Nat.not_le.2 hr)]
  generalize s.spawn key rec_.toNat = r at hs
  obtain ⟨_, s'⟩ := r
  cases hs
  rfl

theorem tspawnAnswer_malformed {ctl rec_ : DWord} {s' : State} (hr : rec_.toNat < 2 ^ 56)
    (hs : s.spawn key rec_.toNat = (.malformed, s')) :
    tspawnAnswer d x s ctl rec_ (some (key, p)) = answerWith x s' d 2 [3] := by
  rw [tspawnAnswer, if_neg (Nat.not_le.2 hr), hs]

end

/-! ## QPUSH and LAUNCH (13 R336, 12 R314) -/

/-- An instruction that goes on from its wait is refused from its own outcome. -/
theorem refusedLate_of {i : Instr} {sp : Spec} {body : Ctx → State → Res} {s : State} {c : Ctx} {code addr : Nat} {m : Word}
    (he : ∀ s, exec i s = issue s i sp body) (h : Resumed s i sp c) (hb : body c s = .refuse code addr m) :
    exec i s = .next (s.refuse c code addr m) := by
  rw [he, issue_resumed h, hb]
  rfl

/-- Settles O37: TSPAWN through `tspawnAnswer`, and the other three from their checks and the answer of their queue or task. -/
theorem tasksComplete : Obligations.TasksComplete := by
  unfold Obligations.TasksComplete
  intro d a b ix key e p id v r k f u spawn ret push launch A B one pool asks found dir
  have hasks : ∀ {x : Ctx} {s : State}, asks x s → SpawnAsks x s (B x) (A x) := fun ⟨hl, hh, ha, hp⟩ => ⟨hl, hh, ha, hp⟩
  have hfound : ∀ {x : Ctx} {s : State}, found x s → s.spawnFinds x (B x) = some (key, p) :=
    fun ⟨hn, hat, hp, hk⟩ => spawnFinds_some hn hat hp hk
  refine ⟨completesWhen_of exec_tspawn ?taken, refusedWhen_of exec_tspawn ?queueFull, fun st => completesWhen_of exec_tspawn ?noPool,
    fun st s' => completesWhen_of exec_tspawn ?refused, refusedWhen_of (fun _ => rfl) ?noTask, waitsWhen_of (fun _ => rfl) ?drains,
    endsWhen_of (fun _ => rfl) ?ended, completesWhen_of (fun _ => rfl) ?noQueue, endsWhen_of (fun _ => rfl) ?pushed, ?pushFull,
    fun qd pa t => completesWhen_of (fun _ => rfl) ?launched, endsWhen_of (fun _ => rfl) ?launchAnswered⟩
  case taken =>
    intro x s _ ⟨ha, hf, hr, hs⟩
    rw [tspawnBody_asks (hasks ha), hfound hf]
    exact tspawnAnswer_id hr hs
  case queueFull =>
    intro x s _ ⟨ha, hf, hr, hs, hctl⟩
    rw [tspawnBody_asks (hasks ha), hfound hf, tspawnAnswer_full hr hs]
    exact if_neg (Bool.not_eq_true _ ▸ hctl)
  case noPool =>
    intro x s _ ⟨ha, h⟩
    rw [tspawnBody_asks (hasks ha)]
    rcases h with ⟨rfl, hnone⟩ | ⟨rfl, hf, hr⟩
    · rw [spawnFinds_none hnone]
      exact answerWith_status ..
    · rw [hfound hf]
      exact (if_pos hr).trans (answerWith_status ..)
  case refused =>
    intro x s _ ⟨ha, hf, hr, h⟩
    rw [tspawnBody_asks (hasks ha), hfound hf]
    rcases h with ⟨rfl, hs⟩ | ⟨rfl, hs, hctl⟩
    · rw [tspawnAnswer_malformed hr hs]
      exact answerWith_status ..
    · rw [tspawnAnswer_full hr (hs ▸ rfl), hs]
      exact (if_pos hctl).trans (answerWith_status ..)
  case noTask =>
    intro x s _ hk
    simp only [hk]
  case drains =>
    intro x s h0 hk
    simp only [hk, h0, if_true]
  case ended =>
    intro x s ⟨h1, hk, hkeys, hheld⟩
    simp only [hk, h1, hkeys, hheld, Nat.one_ne_zero, if_false]
    rfl
  case noQueue =>
    intro x s h0 ⟨hctl, hperf, hq⟩
    have hstage : ¬ 4 ≤ x.stage := by omega
    change fld (x.item b.toNat 0) 63 1 = 0 at hctl
    change s.queueHeader x.b.die (x.item a.toNat 0) = none at hq
    simp only [hstage, hctl, hq, if_false, ne_eq, not_true_eq_false, Option.bind_none, Option.map_none, Option.getD_none]
    exact (releaseAt_device hperf _).trans (answerWith_one ..)
  case pushed =>
    intro x s ⟨h4, hans, hctl⟩
    have hfull : ¬ (v = 1 ∧ (!bitOf (B x) 0) = true) := fun ⟨hv, hb⟩ => by
      rw [show bitOf (B x) 0 = true from hctl hv] at hb
      exact absurd hb (by decide)
    simp only [h4, hans, Option.getD_some, if_true]
    exact (if_neg hfull).trans (answerWith_one ..)
  case pushFull =>
    intro s c h h4 hans hctl
    refine refusedLate_of (fun _ => rfl) h ?_
    change bitOf (c.item b.toNat 0) 0 = false at hctl
    simp only [h4, hans, hctl, Option.getD_some, if_true, Bool.not_false, and_self]
  case launched =>
    intro x s h0 ⟨hdir, hpa, hq, hhome⟩
    obtain ⟨ha, hb, hperf⟩ := hdir
    have hstage : ¬ 4 ≤ x.stage := by omega
    have haligned : (x.item a.toNat 0).toNat % 128 = 0 := by simpa [fld] using ha
    change fld (x.item b.toNat 0) 63 12 = 0 at hb
    change s.queueDesc x.b.die (fld (x.item b.toNat 0) 11 0) = some qd at hq
    obtain ⟨leaf, hp⟩ : ∃ leaf, s.pagePa x.b.die (clusterOf x.b.coreIx) x.b.desc (x.item a.toNat 0).toNat .read x.priv =
        (some (pa, t), leaf) := ⟨_, Prod.ext hpa rfl⟩
    simp only [hstage, haligned, hb, hp, hq, hhome, if_false, if_true, ne_eq, not_true_eq_false]
    exact (releaseAt_device hperf _).trans (answerWith_one ..)
  case launchAnswered =>
    intro x s ⟨h4, hans⟩
    simp only [h4, hans, Option.getD_some, if_true]
    exact answerWith_one ..

end Sys2Proof.Machine

/-!
The task unit (O60; 13 R338-R344): starting a task, adopting a chain, and waking one.
-/
namespace Sys2Proof.Machine

/-! ## Starting a task (13 R342) -/

/-- An idle slot takes the oldest READY chain before any queued task. -/
theorem takeWork_ready {s s2 : State} {ix j e bk core slot scr : Nat} {p : Pool} {k : Task} {b : Block} {rest : List (Nat × Block)}
    {ks : List (Nat × List Nat)} (hslot : p.slots[j]? = some (core, slot, scr)) (hready : p.oldestReady = some (e, k))
    (hchain : s.chainBlocks 8 k.blk = (bk, b) :: rest) (hkeys : s.chainKeys p.die ((bk, b) :: rest) [] = .ok ks)
    (htake : s.takeChain ix e bk core slot scr j ks = .done s2) : s.takeWork ix j p = s2 := by
  have hgetD : p.slots.getD j (0, 0, 0) = (core, slot, scr) := by simp [List.getD, hslot]
  simp only [State.takeWork, hgetD, hready, hchain, hkeys, htake]

theorem exec_taskStart {s : State} {n : Nat} {p : Pool} (hdue : s.due = some (.taskStart n))
    (hp : kget ((s.queueLate (n / 2 ^ 20)).upset (n / 2 ^ 20)).pools (n / 2 ^ 20) = some p) :
    exec .taskStart s = .next
      (if !(((s.queueLate (n / 2 ^ 20)).upset (n / 2 ^ 20)).idleSlots p).contains (n % 2 ^ 20) ∨
          (((s.queueLate (n / 2 ^ 20)).upset (n / 2 ^ 20)).cd p.die).quiet ∨ p.killed then
        (s.queueLate (n / 2 ^ 20)).upset (n / 2 ^ 20)
      else ((s.queueLate (n / 2 ^ 20)).upset (n / 2 ^ 20)).takeWork (n / 2 ^ 20) (n % 2 ^ 20) p) := by
  refine Eq.trans (b := execTaskStart s) rfl ?_
  unfold execTaskStart
  simp only [hdue, hp]

/-! ## Adoption (13 R339, R340) -/

/-- A wait of a task stands before the task unit, its block in its slot and in the list of those that it settles. -/
structure Settling (s : State) (t : ThreadRef) (owner : Word) (b : Block) (th : Thread) : Prop where
  due     : s.due = some (.adoption t owner)
  block   : s.blk? t.blk = some b
  thread  : s.thread? t = some th
  home    : b.home = true
  alive   : b.killed = none
  going   : b.ending = false
  unsaved : t.blk ∉ (s.cd b.die).saving
  parking : t.blk ∈ (s.cd b.die).parking

/-- Whether the wait is not over: no wake has come meanwhile. -/
def Thread.awaitsObject (th : Thread) : Bool := (th.hold.map (fun h => h.wait == .object)).getD false

theorem awaitsObject_iff (th : Thread) : th.awaitsObject = true ↔ th.hold.map (·.wait) = some .object := by
  cases h : th.hold <;> simp [Thread.awaitsObject, h]

section
variable {s : State} {t : ThreadRef} {owner : Word} {b : Block} {th : Thread}

/-- A wait that goes on, or whose chain is to be parked anyway, is settled once its block's work is done. -/
theorem exec_adoption_goes (h : Settling s t owner b th) (hw : (th.awaitsObject || s.parksAnyway t b owner) = true)
    (hch : s.chooseOwner b owner ≠ .noFrame) : exec .adoption s = .next (if s.quietBlock t.blk b none then
      s.adopt t b owner (s.chooseOwner b owner) th.awaitsObject else s.post (.adoption t owner)) := by
  refine Eq.trans (b := execAdoption s) rfl ?_
  unfold execAdoption
  simp only [h.due, h.block, h.thread, h.home, h.alive, h.going]
  refine (if_neg ?free).trans ?_
  case free =>
    have hw' : ((th.hold.map (fun h => h.wait == .object)).getD false || s.parksAnyway t b owner) = true := hw
    simp [h.unsaved, hw']
  have hparking : (s.cd b.die).parking.contains t.blk = true := List.contains_iff_mem.2 h.parking
  cases hc : s.chooseOwner b owner with
  | noFrame => exact absurd hc hch
  | park | fresh | saved =>
    simp only [hparking, if_true, apply_ite Host.Outcome.next]
    rfl

/-- A wait that is over leaves the list of those that the task unit settles. -/
theorem exec_adoption_over (h : Settling s t owner b th) (hw : (th.awaitsObject || s.parksAnyway t b owner) = false) :
    exec .adoption s = .next (s.updCd b.die (fun c => { c with parking := c.parking.filter (· != t.blk) })) := by
  refine Eq.trans (b := execAdoption s) rfl ?_
  unfold execAdoption
  simp only [h.due, h.block, h.thread, h.home, h.alive, h.going]
  exact if_pos (.inr (.inr (.inr (.inr (congrArg (!·) hw)))))

/-- The waiter's task is NESTED beneath the chain that is adopted. -/
def State.nestTask (s : State) (b : Block) : State :=
  (s.pmcCount b.coreIx 9 1).setTask b (fun k => { k with st := .nested })

variable {ix e f bk : Nat} {p : Pool} {k : Task} {o : Block} {bs : List Byte} {keys : List Nat} {s1 s2 u : State} {waits : Bool}

/-- A QUEUED owner starts in the waiter's slot, the waiter saved beneath it. -/
theorem adopt_fresh (hstart : s.startKeys p k.rec_ f = .ok bs keys) (hlinks : s.unlinkTask ix p k = .ok u)
    (hsave : s.saveBlock t.blk false true = .done s1) (hleaves : s1.unlinkTask ix p k = .ok s2) :
    s.adopt t b owner (.fresh ix e f p k) waits =
      (s2.nestTask b).startTask ix e p k b.coreIx b.slot b.scrBase b.blockIx.toNat f (some t.blk) bs keys := by
  simp only [State.adopt, hstart, hlinks, hsave, hleaves]
  rfl

/-- A saved owner's chain of one task is restored in the waiter's slot, the waiter saved beneath it. -/
theorem adopt_saved (hblk : s.blk? bk = some o) (hkeys : s.frameKeys b.die o.desc o.frameVa = .ok keys)
    (hsave : s.saveBlock t.blk false true = .done s1)
    (htake : (s1.nestTask b).takeChain ix e bk b.coreIx b.slot b.scrBase b.blockIx.toNat [(bk, keys)] = .done s2) :
    s.adopt t b owner (.saved ix e bk) waits = s2.updBlk bk (fun y => { y with below := some t.blk }) := by
  have htake' : State.takeChain ((s1.pmcCount b.coreIx 9 1).setTask b (fun k => { k with st := .nested })) ix e bk b.coreIx b.slot
      b.scrBase b.blockIx.toNat [(bk, keys)] = .done s2 := htake
  simp only [State.adopt, hblk, hkeys, hsave, htake']

end

/-! ## Wakes (13 R341, R344) -/

/-- What a wake does to a task of a placed pool, by the state of the task. -/
def State.wakeTask (s : State) (w : Waiter) (ix e : Nat) (k : Task) : State :=
  match k.st with
  | .parked =>
    ((s.takeFresh.2.updTask ix e (fun k => { k with st := .ready, order := s.takeFresh.1 })).syncPool ix e).offerWork ix
  | .running => if k.blk = some w.t.blk then s.release w.t else s
  | _ => s

/-- A wake of a live task, by its pool. -/
theorem exec_wake {s : State} {w : Waiter} {b : Block} {ix e : Nat} {p : Pool} {k : Task} (hdue : s.due = some (.wake w))
    (hblk : s.blk? w.t.blk = some b) (htask : s.task? b.die w.task = some (ix, p, e, k)) :
    exec .wake s = .next (if !p.placed then (s.updPool ix (fun p => { p with rescan := true })).syncRows ix []
      else s.wakeTask w ix e k) := by
  refine Eq.trans (b := execWake s) rfl ?_
  unfold execWake
  simp only [hdue, hblk, Option.bind_some, htask, apply_ite Host.Outcome.next, State.wakeTask]
  cases k.st <;> simp only [apply_ite Host.Outcome.next]

/-- Settles O60: each step is its equation above, with the conditions of its clause. -/
theorem taskUnitStepsComplete : Obligations.TaskUnitStepsComplete := by
  unfold Obligations.TaskUnitStepsComplete
  intro s n e px f bk core slot scr x p k b o t th owner bs keys rest ks s1 s2 u w goes ix j late waiting held nested woken
  have settling : waiting → Settling s t owner b th := fun ⟨hdue, hblk, hth, hhome, halive, hgoing, hsaving, hparking⟩ =>
    ⟨hdue, hblk, hth, hhome, halive, hgoing, hsaving, hparking⟩
  have awaits : held → th.awaitsObject = true := (awaitsObject_iff th).2
  have offered : woken → p.placed = true → exec .wake s = .next (s.wakeTask w px e k) := fun ⟨hdue, hblk, htask⟩ hp =>
    (exec_wake hdue hblk htask).trans (congrArg _ (if_neg (by rw [hp]; decide)))
  refine ⟨?ready, ?busy, ?fresh, ?saved, ?working, ?ended, ?unplaced, ?parked, ?running, ?dropped⟩
  case ready =>
    intro hdue hp hidle halive hquiet hslot hready hchain hkeys htake
    have hidle' : (late.idleSlots x).contains j = true := List.contains_iff_mem.2 hidle
    refine (exec_taskStart hdue hp).trans (congrArg _ ((if_neg ?_).trans (takeWork_ready hslot hready hchain hkeys htake)))
    simp only [hidle', hquiet, halive, Bool.not_true, Bool.false_eq_true, or_self, not_false_eq_true, late, ix, j] at *
  case busy =>
    intro hdue hp hidle
    refine (exec_taskStart hdue hp).trans (congrArg _ (if_pos (.inl ?_)))
    rw [Bool.not_eq_true', Bool.eq_false_iff]
    exact mt List.contains_iff_mem.1 hidle
  case fresh =>
    intro hw hheld hch hquiet hstart hlinks hsave hleaves
    refine (exec_adoption_goes (settling hw) (by rw [awaits hheld]; rfl) (hch ▸ Choice.noConfusion)).trans (congrArg _ ?_)
    rw [if_pos hquiet, hch]
    exact adopt_fresh hstart hlinks hsave hleaves
  case saved =>
    intro hw hheld hch hquiet hblk hkeys hsave htake
    refine (exec_adoption_goes (settling hw) (by rw [awaits hheld]; rfl) (hch ▸ Choice.noConfusion)).trans (congrArg _ ?_)
    rw [if_pos hquiet, hch]
    exact adopt_saved hblk hkeys hsave htake
  case working =>
    intro hw hheld hch hquiet
    refine (exec_adoption_goes (settling hw) (by rw [awaits hheld]; rfl) hch).trans (congrArg _ (if_neg ?_))
    simp [hquiet]
  case ended =>
    intro hw hheld hch
    have hdone : th.awaitsObject = false := Bool.eq_false_iff.2 (mt (awaitsObject_iff th).1 hheld)
    have hslot : s.parksAnyway t b owner = false := by
      unfold State.parksAnyway
      cases hc : s.chooseOwner b owner <;> simp_all
    refine (exec_adoption_over (settling hw) (by rw [hdone, hslot]; rfl)).trans ?_
    simp only [bne_eq, ne_eq, decide_not]
    rfl
  case unplaced =>
    intro ⟨hdue, hblk, htask⟩ hp
    exact (exec_wake hdue hblk htask).trans (congrArg _ (if_pos (by rw [hp]; rfl)))
  case parked =>
    intro hw hp hk
    refine (offered hw hp).trans ?_
    rw [State.wakeTask, hk]
    rfl
  case running =>
    intro hw hp hk hb
    refine (offered hw hp).trans ?_
    rw [State.wakeTask, hk]
    exact congrArg _ (if_pos hb)
  case dropped =>
    intro hw hp h
    refine (offered hw hp).trans ?_
    rw [State.wakeTask]
    rcases h with ⟨hk, hb⟩ | hk
    · rw [hk]
      exact congrArg _ (if_neg hb)
    · rw [hk]

end Sys2Proof.Machine

/-!
Links and ports (O49; 16 R394-R399, R409): flits and frames in order, early and failed, acknowledgements and replays, and the states of
a module.
-/
namespace Sys2Proof.Machine

theorem State.stream_updStream (s : State) (k : Nat) (f : Stream → Stream) : (s.updStream k f).stream k = f (s.stream k) := by
  simp [State.stream, State.updStream]

/-- A field of one bit. -/
theorem fld_bit (v : DWord) (n : Nat) : fld v n n = if bitOf v n then 1 else 0 := by
  rw [bitOf_eq, fld]
  simp only [Nat.add_sub_cancel_left, pow_one, Nat.shiftRight_eq_div_pow, decide_eq_true_eq]
  split <;> omega

/-! ## Flits (16 R394, R395) -/

section
variable {s : State} {h : Hop} {f : Flit}

theorem drainEarly_none (ctr n : Nat) (he : (s.stream (hopKey h.src h.dst)).early = []) : s.drainEarly h ctr n = s := by
  cases n <;> simp [State.drainEarly, he]

theorem ackFull_few (hn : (s.stream (hopKey h.src h.dst)).unacked < 16) : s.ackFull h = s := if_neg (Nat.not_le.2 hn)

theorem ackFull_full (hn : 16 ≤ (s.stream (hopKey h.src h.dst)).unacked) : s.ackFull h = s.sendAck h false := if_pos hn

/-- The failed flit that later ones are discarded after, once flit `f` has come. -/
def Stream.discardAfter (st : Stream) (f : Flit) : Option Nat := if st.discard = some f.seq then none else st.discard

/-- A flit in order enters the stream: it is counted as delivered. -/
def State.flitTaken (s : State) (h : Hop) (f : Flit) : State :=
  s.updStream (hopKey h.src h.dst) (fun st =>
    { st with rx := (st.rx + 1) % 256, discard := (s.stream (hopKey h.src h.dst)).discardAfter f, unacked := st.unacked + 1 })

/-- A flit arrives whole on a link that is up, under the numbering of its stream and with nothing of the other direction in it. -/
structure Arrives (s : State) (h : Hop) (f : Flit) : Prop where
  due    : s.due = some (.flitReceive h f true)
  linkUp : s.linkUp h.src h.dst = true
  noAck  : f.ack = none
  noNak  : f.nak = false
  epoch  : f.epoch = (s.stream (hopKey h.src h.dst)).epoch

/-- A failed flit before this one is to come again. -/
def State.discards (s : State) (h : Hop) (f : Flit) : Prop :=
  ((s.stream (hopKey h.src h.dst)).discard.map (seqAfter f.seq)).getD false = true

theorem exec_flit_discarded (ha : Arrives s h f) (hd : s.discards h f) : exec .flitReceive s = .next s := by
  refine Eq.trans (b := execFlitReceive s) rfl ?_
  have hd' : ((s.stream (hopKey h.src h.dst)).discard.map (seqAfter f.seq)).getD false = true := hd
  simp [execFlitReceive, ha.due, ha.linkUp, ha.noAck, ha.noNak, ha.epoch, State.takeAck, hd']

/-- One in order is delivered, and what was held early after it. -/
theorem exec_flit_next (ha : Arrives s h f) (hd : ¬ s.discards h f) (hseq : f.seq = (s.stream (hopKey h.src h.dst)).rx) :
    exec .flitReceive s = .next (((f.slots.foldl (fun s x => s.deliver h.dst (ctrKey h.dst (modOf h.dst h.src h.mod)) x)
      (s.flitTaken h f)).drainEarly h (ctrKey h.dst (modOf h.dst h.src h.mod)) 64).ackFull h) := by
  refine Eq.trans (b := execFlitReceive s) rfl ?_
  simp only [execFlitReceive, ha.due, ha.linkUp, ha.noAck, ha.noNak, ha.epoch, State.takeAck, Bool.not_true, Bool.false_eq_true,
    if_false, ne_eq, not_true_eq_false]
  exact (if_neg hd).trans (if_pos hseq)

/-- One that comes early is held. -/
theorem exec_flit_early (ha : Arrives s h f) (hd : ¬ s.discards h f) (hseq : f.seq ≠ (s.stream (hopKey h.src h.dst)).rx)
    (hnear : (f.seq + 256 - (s.stream (hopKey h.src h.dst)).rx) % 256 < 64) (he : (s.stream (hopKey h.src h.dst)).early = []) :
    exec .flitReceive s = .next (s.updStream (hopKey h.src h.dst) (fun st =>
      { st with early := st.early ++ [f], discard := (s.stream (hopKey h.src h.dst)).discardAfter f })) := by
  refine Eq.trans (b := execFlitReceive s) rfl ?_
  simp only [execFlitReceive, ha.due, ha.linkUp, ha.noAck, ha.noNak, ha.epoch, State.takeAck, Bool.not_true, Bool.false_eq_true,
    if_false, ne_eq, not_true_eq_false]
  exact (if_neg hd).trans ((if_neg hseq).trans (if_pos ⟨hnear, by simp [he]⟩))

/-- One that failed its CRC: the failure counts, the ninth is a link fault, and the NAK goes where the link is still up. -/
theorem exec_flit_failed (hdue : s.due = some (.flitReceive h f false)) (hup : s.linkUp h.src h.dst = true) {u : State}
    (hu : (if 9 ≤ f.tries ∧ (s.countCrc h).linkUp h.src h.dst = true then (s.countCrc h).linkFault h.src h.dst h.mod 1
      else s.countCrc h) = u) :
    exec .flitReceive s = .next (if u.linkUp h.src h.dst then u.nak h f else u) := by
  refine Eq.trans (b := execFlitReceive s) rfl ?_
  simp only [execFlitReceive, hdue, hup, hu, Bool.not_true, Bool.false_eq_true, if_false, Bool.not_false, if_true]

end

/-! ## Acknowledgements and timers (16 R394) -/

section
variable {s : State} {h : Hop} {port : Nat}

theorem exec_ackOnlyFlit {ack n : Nat} {nak : Bool} (hdue : s.due = some (.ackOnlyFlit h ack nak true n))
    (hup : s.linkUp h.src h.dst = true) : exec .ackOnlyFlit s = .next (if n ≠ (s.stream (hopKey h.dst h.src)).epoch then s
      else if nak then (s.takeAck h.dst h.src (some ack)).replay h.dst h.src else s.takeAck h.dst h.src (some ack)) := by
  refine Eq.trans (b := execAckOnlyFlit s) rfl ?_
  simp only [execAckOnlyFlit, hdue, hup, Bool.not_true, Bool.false_eq_true, if_false, apply_ite Host.Outcome.next]

theorem exec_ackTimer_stream (hdue : s.due = some (.ackTimer h)) (hne : h.src ≠ h.dst) :
    exec .ackTimer s = .next (if (s.stream (hopKey h.src h.dst)).unacked = 0 ∨ !s.linkUp h.src h.dst then s
      else s.sendAck h false) := by
  refine Eq.trans (b := execAckTimer s) rfl ?_
  simp only [execAckTimer, hdue, hne, decide_false]
  cases h.src <;> rfl

theorem exec_ackTimer_port (hdue : s.due = some (.ackTimer h)) (hsrc : h.src = .md port) (hdst : h.dst = .md port) :
    exec .ackTimer s = .next (if (s.md port).portUp ∧ (s.md port).portUnacked ≠ 0 then
      s.sendFrameAck port (s.md port).portPeer false else s) := by
  refine Eq.trans (b := execAckTimer s) rfl ?_
  simp only [execAckTimer, hdue, hsrc, hdst, decide_true]

theorem exec_replayTimeout_stream (hdue : s.due = some (.replayTimeout h)) (hne : h.src ≠ h.dst) :
    exec .replayTimeout s = .next (if (s.stream (hopKey h.src h.dst)).buf.isEmpty then s else s.replay h.src h.dst) := by
  refine Eq.trans (b := execReplayTimeout s) rfl ?_
  simp only [execReplayTimeout, hdue, hne, decide_false]
  cases h.src <;> rfl

theorem exec_replayTimeout_port (hdue : s.due = some (.replayTimeout h)) (hsrc : h.src = .md port) (hdst : h.dst = .md port) :
    exec .replayTimeout s = .next (if (s.md port).portBuf.isEmpty then s else s.resendFrames port) := by
  refine Eq.trans (b := execReplayTimeout s) rfl ?_
  simp only [execReplayTimeout, hdue, hsrc, hdst, decide_true]

end

/-! ## Frames (16 R409) -/

section
variable {s : State} {port : Nat} {fr : Frame}

/-- A frame that carries no slot says only what it acknowledges. -/
theorem exec_frame_empty (hdue : s.due = some (.scaleUpFrame port fr true)) (hup : (s.md port).portUp = true) (hslots : fr.slots = []) :
    exec .scaleUpFrame s = .next (if fr.nak then (s.takeFrameAck port fr.ack).resendFrames port else s.takeFrameAck port fr.ack) := by
  refine Eq.trans (b := execScaleUpFrame s) rfl ?_
  simp only [execScaleUpFrame, hdue, hup, hslots, Bool.not_true, Bool.false_eq_true, if_false, List.isEmpty_nil, true_or, if_true]

/-- The failed frame that a port discards after, once frame `seq` has failed: the earlier of two, and none that was delivered. -/
def Md.badFrame (d : Md) (seq : Nat) : Nat :=
  let q := if frameAfter d.portRx seq then d.portRx else seq
  match d.portBad with
  | some p => if frameAfter p q then q else p
  | none => q

/-- A failed frame is counted; one with slots starts the discard and the NAK. -/
theorem exec_frame_failed (hdue : s.due = some (.scaleUpFrame port fr false)) (hup : (s.md port).portUp = true) :
    exec .scaleUpFrame s = .next (if fr.slots.isEmpty then s.bump (512 + port) 0
      else ((s.bump (512 + port) 0).updMd port (fun d => { d with portBad := some (d.badFrame fr.seq) })).sendFrameAck port fr.src
        true) := by
  refine Eq.trans (b := execScaleUpFrame s) rfl ?_
  simp only [execScaleUpFrame, hdue, hup, Bool.not_true, Bool.false_eq_true, if_false, Bool.not_false, if_true,
    apply_ite Host.Outcome.next]
  rfl

/-- A frame with slots arrives whole at a port that is up and discards nothing. -/
structure FrameArrives (s : State) (port : Nat) (fr : Frame) : Prop where
  due    : s.due = some (.scaleUpFrame port fr true)
  portUp : (s.md port).portUp = true
  noAck  : fr.ack = none
  noNak  : fr.nak = false
  clean  : (s.md port).portBad = none
  slots  : fr.slots ≠ []

/-- What the port does with such a frame. -/
theorem exec_frame_whole (ha : FrameArrives s port fr) :
    exec .scaleUpFrame s = if fr.seq = (s.md port).portRx then
        .next (let u := ((s.updMd port (fun d => { d with portBad := none })).takeFrame port fr).drainFrames port 256
          if 16 ≤ (u.md port).portUnacked then u.sendFrameAck port fr.src false else u)
      else if (fr.seq + 65536 - (s.md port).portRx) % 65536 < 256 ∧ (s.md port).portEarly.length < 256 ∧
          !((s.md port).portEarly.any (fun g => g.seq == fr.seq)) then
        .next (s.updMd port (fun d => { d with portEarly := d.portEarly ++ [fr], portBad := none }))
      else .next s := by
  refine Eq.trans (b := execScaleUpFrame s) rfl ?_
  have hslots : ¬ (fr.slots.isEmpty = true ∨ ((none : Option Nat).map (frameAfter fr.seq)).getD false = true) := by
    simp [ha.slots]
  simp only [execScaleUpFrame, ha.due, ha.portUp, ha.noAck, ha.noNak, State.takeFrameAck, ha.clean, Bool.not_true, Bool.false_eq_true,
    if_false, reduceCtorEq]
  exact if_neg hslots

theorem drainFrames_none (n : Nat) (he : (s.md port).portEarly = []) : s.drainFrames port n = s := by
  cases n <;> simp [State.drainFrames, he]

/-- A frame of one request, in the window of its stamp or the next: its port takes it for another die to serve. -/
theorem takeFrame_request {r : Request} (hslots : fr.slots = [.request r])
    (htime : s.pkg.timeNs.toNat / 2 ^ fld s.pkg.wlen 3 0 ≤ fr.stamp + 1) :
    s.takeFrame port fr = (s.updMd port (fun q =>
      { q with portRx := (q.portRx + 1) % 65536, portUnacked := q.portUnacked + 1, portPeer := fr.src })).deliver (.md port)
        (512 + port) (.request { r with dst := .md port }) := by
  simp only [State.takeFrame, if_neg (Nat.not_lt.2 htime), hslots, List.map_cons, List.map_nil, List.foldl_cons, List.foldl_nil]

end

/-! ## Modules (16 R397, R399) -/

section
variable {s : State} {d p : DieId} {m : Nat}

theorem exec_train (hdue : s.due = some (.train d m)) (hp : linkPeer d (m / 2) = some p) (h0 : s.modState d m = 0) :
    exec .train s = .next (s.setMod d p (m % 2) 1) := by
  refine Eq.trans (b := execTrain s) rfl ?_
  simp only [execTrain, hdue, hp, h0, if_true]

theorem exec_takeDown (hdue : s.due = some (.takeDown d m)) (hp : linkPeer d (m / 2) = some p) (h0 : s.modState d m ≠ 0) :
    exec .takeDown s = .next (s.declareDown d p 6) := by
  refine Eq.trans (b := execTakeDown s) rfl ?_
  simp only [execTakeDown, hdue, hp, if_pos h0]

theorem exec_trainingEnd {lo hi : Bool} (hdue : s.due = some (.trainingEnd d m lo hi)) (hp : linkPeer d (m / 2) = some p)
    (h1 : s.modState d m = 1) : exec .trainingEnd s = .next (if lo && hi then s.enterL0 d p (m % 2) false none
      else if (lo || hi) && bitOf s.pkg.linkpol 63 then s.enterL0 d p (m % 2) true (some (if lo then 0 else 1))
      else s.declareDown d p 2) := by
  refine Eq.trans (b := execTrainingEnd s) rfl ?_
  simp only [execTrainingEnd, hdue, hp, h1, ne_eq, not_true_eq_false, if_false, apply_ite Host.Outcome.next]

theorem exec_retrainEnd {lo hi : Bool} (hdue : s.due = some (.retrainEnd d m lo hi)) (hp : linkPeer d (m / 2) = some p)
    (h6 : s.modState d m = 6) : exec .retrainEnd s = .next (if lo || hi then
      ((s.resync d p).resync p d).enterL0 d p (m % 2) true (some (if lo then 0 else 1)) else s.declareDown d p 5) := by
  refine Eq.trans (b := execRetrainEnd s) rfl ?_
  simp only [execRetrainEnd, hdue, hp, h6, ne_eq, not_true_eq_false, if_false, apply_ite Host.Outcome.next]

/-- A link with no slot to send. -/
def State.linkQuiet (s : State) (d p : DieId) : Prop :=
  (s.stream (hopKey d p)).queue = [] ∧ (s.stream (hopKey p d)).queue = []

theorem idle_l0n (hp : linkPeer d (m / 2) = some p) (hpol : fld ((kget s.idlePol (ctrKey d m)).getD 0) 47 40 ≠ 0)
    (hmode : s.modState d m = 2) (hfull : bitOf (s.lkst d m) 60 = false) (hq : s.linkQuiet d p) :
    s.idle d m 3 = s.setMod d p (m % 2) 3 := by
  obtain ⟨hout, hback⟩ := hq
  have hfld : fld (s.lkst d m) 60 60 = 0 := by simp [fld_bit, hfull]
  simp only [State.idle, hp, if_true]
  exact if_pos ⟨hpol, ⟨hmode, hfld⟩, by simp [hout, hback]⟩

theorem idle_l1s (hp : linkPeer d (m / 2) = some p) (hpol : fld ((kget s.idlePol (ctrKey d m)).getD 0) 39 32 ≠ 0)
    (hmode : s.modState d m = 2 ∨ s.modState d m = 3) (hq : s.linkQuiet d p) : s.idle d m 4 = s.setMod d p (m % 2) 4 := by
  obtain ⟨hout, hback⟩ := hq
  simp only [State.idle, hp, show ¬ (4 = 3) by decide, if_false]
  exact if_pos ⟨hpol, hmode, by simp [hout, hback]⟩

theorem exec_wakeComplete (hdue : s.due = some (.wakeComplete d m)) (hp : linkPeer d (m / 2) = some p) (h5 : s.modState d m = 5) :
    exec .wakeComplete s = .next (s.enterL0 d p (m % 2) (bitOf (s.lkst d m) 60) none) := by
  refine Eq.trans (b := execWakeComplete s) rfl ?_
  have hdeg : decide (fld (s.lkst d m) 60 60 = 1) = bitOf (s.lkst d m) 60 := by cases h : bitOf (s.lkst d m) 60 <;> simp [fld_bit, h]
  simp only [execWakeComplete, hdue, hp, h5, if_true, hdeg]

theorem exec_wakeTimeout (hdue : s.due = some (.wakeTimeout d m)) (hp : linkPeer d (m / 2) = some p) (h5 : s.modState d m = 5) :
    exec .wakeTimeout s = .next (s.declareDown d p 3) := by
  refine Eq.trans (b := execWakeTimeout s) rfl ?_
  simp only [execWakeTimeout, hdue, hp, if_pos h5]

theorem exec_unresponsiveTimeout (hdue : s.due = some (.unresponsiveTimeout d m)) (hp : linkPeer d (m / 2) = some p)
    (h0 : s.modState d m ≠ 0) (hbuf : (s.stream (hopKey d p)).buf ≠ []) :
    exec .unresponsiveTimeout s = .next (s.declareDown d p 4) := by
  refine Eq.trans (b := execUnresponsiveTimeout s) rfl ?_
  simp [execUnresponsiveTimeout, hdue, hp, h0, hbuf]

end

/-- Settles O49: each step is its equation above, with the conditions of its clause. -/
theorem linkStepsComplete : Obligations.LinkStepsComplete := by
  unfold Obligations.LinkStepsComplete
  intro s h f d p m ack port nak lo hi fr goes key st up sends plain_ acks fine late rest refused peer mode half pol quiet
  have arrives : s.due = some (.flitReceive h f true) → up → plain_ → Arrives s h f :=
    fun hdue hup ⟨hack, hnak, hepoch⟩ => ⟨hdue, hup, hack, hnak, hepoch⟩
  -- the stream once a flit in order has been taken
  have taken : (s.flitTaken h f).stream key = { st with rx := (st.rx + 1) % 256, discard := rest, unacked := st.unacked + 1 } :=
    s.stream_updStream ..
  have takenEarly : st.early = [] → ((s.flitTaken h f).stream key).early = [] := fun he => by rw [taken]; exact he
  refine ⟨?down, ?one, ?sixteenth, ?old, ?slot, ?discarded, ?early, ?failed, ?ninth, ?ackFailed, ?ackOld, ?acked, ?ackTimer, ?portTimer,
    ?replay, ?portReplay, ?interval, ?frameEmpty, ?frameAck, ?frameNak, ?frame, ?frameEarly, ?frameFailed, ?frameNaks, ?train,
    ?takeDown, ?trained, ?half, ?trainFails, ?retrained, ?retrainFails, ?l0n, ?l1s, ?woken, ?wakeFails, ?silent⟩
  case down =>
    intro hdue hup
    refine Eq.trans (b := execFlitReceive s) rfl ?_
    have hdown : s.linkUp h.src h.dst = false := Bool.eq_false_iff.2 hup
    simp [execFlitReceive, hdue, hdown]
  case one =>
    intro hdue hup hpl hlate hseq hslots he hn
    refine (exec_flit_next (arrives hdue hup hpl) hlate hseq).trans (congrArg _ ?_)
    rw [hslots, List.foldl_nil, drainEarly_none _ _ (takenEarly he), ackFull_few (by rw [taken]; exact Nat.succ_lt_succ hn)]
    rfl
  case sixteenth =>
    intro hdue hup hpl hlate hseq hslots he hn
    refine (exec_flit_next (arrives hdue hup hpl) hlate hseq).trans (congrArg _ ?_)
    rw [hslots, List.foldl_nil, drainEarly_none _ _ (takenEarly he), ackFull_full (by rw [taken]; exact Nat.succ_le_succ hn.ge)]
    rfl
  case old =>
    intro hdue hup hepoch
    refine Eq.trans (b := execFlitReceive s) rfl ?_
    have hup' : s.linkUp h.src h.dst = true := hup
    simp only [execFlitReceive, hdue, hup', Bool.not_true, Bool.false_eq_true, if_false]
    exact if_pos hepoch
  case slot =>
    intro x hdue hup hpl hlate hseq hslots u he hn
    refine (exec_flit_next (arrives hdue hup hpl) hlate hseq).trans (congrArg _ ?_)
    rw [hslots, List.foldl_cons, List.foldl_nil]
    exact (congrArg (State.ackFull · h) (drainEarly_none (s := u) _ _ he)).trans (ackFull_few hn)
  case discarded => exact fun hdue hup hpl hlate => exec_flit_discarded (arrives hdue hup hpl) hlate
  case early =>
    intro hdue hup hpl hlate hseq hnear he
    exact exec_flit_early (arrives hdue hup hpl) hlate hseq hnear he
  case failed =>
    intro hdue hup hstill htries
    exact (exec_flit_failed hdue hup (if_neg fun hc => absurd hc.1 (Nat.not_le.2 htries))).trans (congrArg _ (if_pos hstill))
  case ninth => exact fun hdue hup hstill htries => exec_flit_failed hdue hup (if_pos ⟨htries, hstill⟩)
  case ackFailed =>
    intro n hdue hup
    refine Eq.trans (b := execAckOnlyFlit s) rfl ?_
    have hup' : s.linkUp h.src h.dst = true := hup
    simp [execAckOnlyFlit, hdue, hup']
  case ackOld => exact fun n hdue hup hn => (exec_ackOnlyFlit hdue hup).trans (congrArg _ (if_pos hn))
  case acked => exact fun hdue hup => (exec_ackOnlyFlit hdue hup).trans (congrArg _ (if_neg (not_not.2 rfl)))
  case ackTimer =>
    intro hdue hne hup hn
    have hsends : ¬ (st.unacked = 0 ∨ (!s.linkUp h.src h.dst) = true) := by
      rintro (h0 | hd)
      · exact hn h0
      · rw [show s.linkUp h.src h.dst = true from hup] at hd
        exact absurd hd (by decide)
    exact (exec_ackTimer_stream hdue hne).trans (congrArg _ (if_neg hsends))
  case portTimer => exact fun hdue hsrc hdst hup hn => (exec_ackTimer_port hdue hsrc hdst).trans (congrArg _ (if_pos ⟨hup, hn⟩))
  case replay =>
    exact fun hdue hne hbuf => (exec_replayTimeout_stream hdue hne).trans (congrArg _ (if_neg (mt List.isEmpty_iff.1 hbuf)))
  case portReplay =>
    exact fun hdue hsrc hdst hbuf => (exec_replayTimeout_port hdue hsrc hdst).trans (congrArg _ (if_neg (mt List.isEmpty_iff.1 hbuf)))
  case interval =>
    intro hdue
    refine Eq.trans (b := execErrorInterval s) rfl ?_
    simp only [execErrorInterval, hdue]
  case frameEmpty | frameAck | frameNak =>
    intro hdue hup hack hnak hslots
    refine (exec_frame_empty hdue hup hslots).trans (congrArg _ ?_)
    rw [hnak, hack]
    rfl
  case frame =>
    intro r hdue ⟨hup, hack, hnak, hbad⟩ hslots hseq htime u he
    refine (exec_frame_whole ⟨hdue, hup, hack, hnak, hbad, hslots ▸ List.cons_ne_nil _ _⟩).trans ((if_pos hseq).trans (congrArg _ ?_))
    have hu : ((s.updMd port (fun d => { d with portBad := none })).takeFrame port fr).drainFrames port 256 = u := by
      rw [takeFrame_request hslots (by rw [State.updMd_pkg]; exact htime)]
      exact drainFrames_none _ he
    rw [hu]
    rfl
  case frameEarly =>
    intro hdue ⟨hup, hack, hnak, hbad⟩ hslots hseq hnear he
    refine (exec_frame_whole ⟨hdue, hup, hack, hnak, hbad, hslots⟩).trans ((if_neg hseq).trans (if_pos ⟨hnear, ?_⟩))
    simp [he]
  case frameFailed =>
    intro hdue hup hslots
    exact (exec_frame_failed hdue hup).trans (congrArg _ (if_pos (List.isEmpty_iff.2 hslots)))
  case frameNaks =>
    intro hdue hup hslots first
    exact (exec_frame_failed hdue hup).trans (congrArg _ (if_neg (mt List.isEmpty_iff.1 hslots)))
  case train => exact exec_train
  case takeDown => exact exec_takeDown
  case trained => exact fun hdue hp h1 => (exec_trainingEnd hdue hp h1).trans (congrArg _ (if_pos rfl))
  case half =>
    intro hdue hp h1 hne hdgp
    have hdgp' : bitOf s.pkg.linkpol 63 = true := hdgp
    have hone : (lo || hi) = true := (by decide : ∀ x y : Bool, x ≠ y → (x || y) = true) lo hi hne
    refine (exec_trainingEnd hdue hp h1).trans (congrArg _ ((if_neg ?_).trans (if_pos ?_)))
    · exact fun hb => hne (((Bool.and_eq_true_iff.1 hb).1).trans (Bool.and_eq_true_iff.1 hb).2.symm)
    · rw [hone, hdgp']
      rfl
  case trainFails =>
    intro hdue hp h1 hboth hno
    refine (exec_trainingEnd hdue hp h1).trans (congrArg _ ((if_neg ?_).trans (if_neg ?_)))
    · simpa using hboth
    · rcases hno with ⟨rfl, rfl⟩ | hdgp
      · exact Bool.false_ne_true
      · rw [show bitOf s.pkg.linkpol 63 = false from hdgp, Bool.and_false]
        decide
  case retrained => exact fun hdue hp h6 hone => (exec_retrainEnd hdue hp h6).trans (congrArg _ (if_pos (Bool.or_eq_true_iff.2 hone)))
  case retrainFails => exact fun hdue hp h6 => (exec_retrainEnd hdue hp h6).trans (congrArg _ (if_neg Bool.false_ne_true))
  case l0n =>
    intro hdue hp hpol hmode hfull hq
    refine Eq.trans (b := execL0nIdle s) rfl ?_
    simp only [execL0nIdle, hdue]
    exact congrArg _ (idle_l0n hp hpol hmode hfull hq)
  case l1s =>
    intro hdue hp hpol hmode hq
    refine Eq.trans (b := execL1sIdle s) rfl ?_
    simp only [execL1sIdle, hdue]
    exact congrArg _ (idle_l1s hp hpol hmode hq)
  case woken => exact exec_wakeComplete
  case wakeFails => exact exec_wakeTimeout
  case silent => exact exec_unresponsiveTimeout

end Sys2Proof.Machine

/-!
The host and the management unit (O50; 15 R380, 16 R404-R407, R417, 17 R418-R428, 14 R364).
-/
namespace Sys2Proof.Machine

/-! ## Writes to memory outside the package (16 R404) -/

theorem chunks_start {unit : Nat} (fuel : Nat) : ∀ {off len : Nat}, ∀ c ∈ chunks unit fuel off len, off ≤ c.1 := by
  induction fuel with
  | zero => exact fun c hc => absurd hc List.not_mem_nil
  | succ fuel ih =>
    intro off len c hc
    rw [chunks] at hc
    split at hc
    · exact absurd hc List.not_mem_nil
    · rcases List.mem_cons.1 hc with rfl | hc
      · exact le_rfl
      · exact (Nat.le_add_right ..).trans (ih c hc)

theorem keyPlace_mono {j k : Nat} (h : j ≤ k) : keyPlace j ≤ keyPlace k := Nat.div_le_div_right h

/-- A write within one line of a place that is no memory-side die is stored. -/
theorem homeWriteLine_outside {s : State} {k : Nat} (hk : 16 ≤ keyPlace k) (bs : List Byte) :
    (s.homeWriteLine k bs).mem = cwrite s.mem k bs := by
  have hplain : ((s.touch k).sentFor k s.cur.toList).Plain k := fun h => absurd hk (Nat.not_le.2 h)
  rw [State.homeWriteLine, hplain.settleWrite, ((s.touch k).sentFor_mem_mds k s.cur.toList).1, (s.touch_homesOnly k).mem]

/-- The bytes of a write that one of its parts stores. -/
def partOf (k : Nat) (bs : List Byte) (c : Nat × Nat) : List Byte := (bs.drop (c.1 - k)).take c.2

theorem mem_writeParts_outside {k : Nat} {bs : List Byte} (l : List (Nat × Nat)) : ∀ {s : State}, (∀ c ∈ l, 16 ≤ keyPlace c.1) →
    (l.foldl (fun s c => s.homeWriteLine c.1 ((bs.drop (c.1 - k)).take c.2)) s).mem =
      l.foldl (fun m c => cwrite m c.1 (partOf k bs c)) s.mem := by
  induction l with
  | nil => exact fun _ => rfl
  | cons c l ih =>
    intro s h
    rw [List.foldl_cons, List.foldl_cons, ih fun x hx => h x (List.mem_cons_of_mem _ hx),
      homeWriteLine_outside (h c List.mem_cons_self)]
    rfl

theorem State.Uncompressed.mem_writeParts {k : Nat} {bs : List Byte} (l : List (Nat × Nat)) : ∀ {s : State}, s.Uncompressed →
    (l.foldl (fun s c => s.homeWriteLine c.1 ((bs.drop (c.1 - k)).take c.2)) s).mem =
      l.foldl (fun m c => cwrite m c.1 (partOf k bs c)) s.mem := by
  induction l with
  | nil => exact fun _ => rfl
  | cons c l ih =>
    intro s h
    obtain ⟨hm, hu⟩ := h.homeWriteLine c.1 (partOf k bs c)
    rw [List.foldl_cons, List.foldl_cons, ← hm]
    exact ih hu

/-- Memory with nothing compressed in it. -/
theorem reset_uncompressed (m : Cells 8) : { State.reset with mem := m }.Uncompressed := fun d hd => by
  rw [List.eq_of_mem_replicate hd]
  exact ⟨rfl, rfl⟩

/-- What the host writes to its own memory stands there, and every other byte stays. -/
theorem cget_putAll_outside (s : State) {k : Nat} (hk : 16 ≤ keyPlace k) (bs : List Byte) (a : Nat) :
    cget (s.putAll k bs).mem a = if k ≤ a ∧ a < k + bs.length then bs.getD (a - k) 0 else cget s.mem a := by
  have hparts : ∀ c ∈ chunks 128 (bs.length / 128 + 2) k bs.length, 16 ≤ keyPlace c.1 :=
    fun c hc => hk.trans (keyPlace_mono (chunks_start _ c hc))
  have hmem : (s.homeWrite k bs).mem = ({ State.reset with mem := s.mem }.homeWrite k bs).mem :=
    (mem_writeParts_outside _ hparts).trans ((reset_uncompressed s.mem).mem_writeParts _).symm
  have hread := (reset_uncompressed s.mem).writeLines (k := k) (bs := bs) (bs.length / 128 + 2) (off := k) (len := bs.length) le_rfl
    le_rfl (by omega) a
  exact (congrArg (cget · a) hmem).trans hread

theorem cread_putAll_outside (s : State) {k : Nat} (hk : 16 ≤ keyPlace k) (bs : List Byte) :
    cread (s.putAll k bs).mem k bs.length = bs := by
  refine List.ext_getElem (by simp [cread]) fun i _ hi => ?_
  have hg := cget_putAll_outside s hk bs (k + i)
  rw [if_pos (by omega)] at hg
  simp [cread, hg, hi]

theorem sameOutside_putAll (s : State) {k : Nat} (hk : 16 ≤ keyPlace k) (bs : List Byte) :
    SameOutside s (s.putAll k bs) k bs.length :=
  fun a ha => (cget_putAll_outside s hk bs a).trans (if_neg (by omega))

theorem mem_poison_addPoison (s : State) {xs : List Nat} {x : Nat} (h : x ∈ xs) : x ∈ (s.addPoison xs).poison := by
  by_cases hx : x ∈ s.poison
  · exact List.mem_append_left _ hx
  · exact List.mem_append_right _ (List.mem_filter.2 ⟨h, by simpa using hx⟩)

/-! ## The mailbox (17 R426; log 67) -/

theorem foldl_cset {w : Nat} (vs : List (BitVec w)) : ∀ (m : Cells w) (k : Nat),
    ((List.range vs.length).map (fun i => (k + i, vs.getD i 0))).foldl (fun m x => cset m x.1 x.2) m = cwrite m k vs := by
  induction vs with
  | nil => exact fun _ _ => rfl
  | cons v vs ih =>
    intro m k
    have hstep : (fun i => (k + i, (v :: vs).getD i 0)) ∘ Nat.succ = fun i => (k + 1 + i, vs.getD i 0) := by
      funext i
      exact Prod.ext (by simp only [Function.comp_apply]; omega) rfl
    rw [List.length_cons, List.range_succ_eq_map, List.map_cons, List.map_map, hstep, List.foldl_cons, ih]
    rfl

/-- A write that stays within the command word, or within the payload, is stored whole. -/
theorem mailPut_within {s : State} {off : Nat} {data : List Byte} (h : off + data.length ≤ 8 ∨ (64 ≤ off ∧ off + data.length ≤ 4096)) :
    s.mailPut off data = if off = 0 ∧ data ≠ [] then
        (s.setPkg (fun p => { p with mail := cwrite s.pkg.mail off data })).post (mailCommand (cwrite s.pkg.mail off data))
      else s.setPkg (fun p => { p with mail := cwrite s.pkg.mail off data }) := by
  have hall : ((List.range data.length).map (fun i => (off + i, data.getD i 0))).filter (fun x =>
      x.1 < 8 || (64 ≤ x.1 && x.1 < 4096)) = (List.range data.length).map (fun i => (off + i, data.getD i 0)) := by
    refine List.filter_eq_self.2 fun x hx => ?_
    obtain ⟨i, hi, rfl⟩ := List.mem_map.1 hx
    have := List.mem_range.1 hi
    simp only [Bool.or_eq_true, Bool.and_eq_true, decide_eq_true_eq]
    omega
  unfold State.mailPut
  dsimp only
  rw [hall, foldl_cset]

theorem leBytes_eq_map (n v : Nat) : leBytes n v = (List.range n).map (fun i => BitVec.ofNat 8 (v / 2 ^ (8 * i))) := by
  induction n generalizing v with
  | zero => rfl
  | succ n ih =>
    rw [leBytes, ih, List.range_succ_eq_map, List.map_cons, List.map_map]
    refine congrArg₂ _ (by simp) (List.map_congr_left fun i _ => ?_)
    rw [Function.comp_apply, Nat.div_div_eq_div_mul, Nat.succ_eq_add_one, Nat.mul_add, Nat.pow_add, Nat.mul_comm]

/-- The status word of the mailbox reads back (17 R426). -/
theorem mailBytes_status (p : Pkg) : mailBytes p 8 8 = leBytes 8 p.mailStat := by
  rw [leBytes_eq_map]
  refine List.map_congr_left fun i hi => ?_
  have := List.mem_range.1 hi
  simp only [Nat.add_sub_cancel_left]
  exact if_pos (by omega)

/-- A command word names its step; RAISEFLOOR takes the floor from the payload (17 R426). -/
theorem mailCommand_raisefloor {m : Cells 8} (h : cread m 0 8 = leBytes 8 5) :
    mailCommand m = .raisefloor (BitVec.ofNat 64 (leNat (cread m 64 8))) := by
  have hword : leNat (cread m 0 8) = 5 := by rw [h, leNat_leBytes]; decide
  simp only [mailCommand, hword]

/-! ## Stops (17 R418-R425) -/

theorem kget_filter_key {α : Type} (p : Nat → Bool) (k : Nat) (m : KMap α) :
    kget (m.filter (fun c => p c.1)) k = if p k then kget m k else none := by
  induction m with
  | nil => simp
  | cons x m ih =>
    obtain ⟨j, v⟩ := x
    rw [List.filter_cons, kget]
    by_cases hjk : j = k
    · subst hjk
      by_cases hj : p j = true
      · simp [hj, kget]
      · simp [hj, ih]
    · by_cases hj : p j = true
      · simp [hj, kget, hjk, ih]
      · simp [hj, hjk, ih]

/-- What a stop leaves: nothing resident, nothing mapped or due, and of memory what stands outside the package (log 33). -/
structure Stopped (s : State) (ph : Phase) (t : State) : Prop where
  blocks  : t.blocks = []
  cores   : t.cores = []
  l1      : t.l1 = []
  l2      : t.l2 = []
  tlb     : t.tlb = []
  packets : t.packets = []
  inbox   : t.inbox = []
  phase   : t.pkg.phase = ph
  fuses   : t.pkg.fuses = s.pkg.fuses
  mem     : ∀ k, cget t.mem k = if 16 ≤ keyPlace k then cget s.mem k else 0

theorem stopped_stops (s : State) (ph : Phase) : Stopped s ph (s.stopped ph) where
  blocks := rfl
  cores := rfl
  l1 := rfl
  l2 := rfl
  tlb := rfl
  packets := rfl
  inbox := rfl
  phase := rfl
  fuses := rfl
  mem k := by
    have hk := kget_filter_key (fun k => decide (16 ≤ keyPlace k)) k s.mem
    rw [cget, State.stopped, hk]
    by_cases h : 16 ≤ keyPlace k <;> simp [h, cget]

/-- A write of the boot status block that is cut leaves the copy before it, where there is one (17 R422). -/
theorem boot_cutWrite (s : State) : (s.pkg.spare = none ∧ s.cutWrite = s) ∨ ∃ x, s.pkg.spare = some x ∧ s.cutWrite.pkg.boot = x := by
  unfold State.cutWrite
  cases h : s.pkg.spare with
  | none => exact .inl ⟨rfl, by simp [State.setPkg, h]⟩
  | some x => exact .inr ⟨x, rfl, by simp [State.setPkg, h, Pkg.boot]⟩

theorem cutWrite_fuses (s : State) : s.cutWrite.pkg.fuses = s.pkg.fuses := by
  unfold State.cutWrite State.setPkg
  dsimp only
  split <;> rfl

/-- A power loss stops the package, or first cuts the write of the boot status block that is under way. -/
theorem exec_powerLoss {s : State} (hdue : s.due = some .powerLoss) : ∃ u, exec .powerLoss s = .next (u.stopped .off) ∧
    (u = s.takeFree.2 ∨ (s.clock ≤ s.pkg.bootAt + 1 ∧ u = s.takeFree.2.cutWrite)) := by
  by_cases h : s.clock ≤ s.pkg.bootAt + 1 ∧ Config.freeBool (nth s.takeFree.1 0) = true
  · refine ⟨s.takeFree.2.cutWrite, ?_, .inr ⟨h.1, rfl⟩⟩
    refine Eq.trans (b := execPowerLoss s) rfl ?_
    simp only [execPowerLoss, hdue]
    exact congrArg (fun u => Host.Outcome.next (State.stopped u .off)) (if_pos h)
  · refine ⟨s.takeFree.2, ?_, .inl rfl⟩
    refine Eq.trans (b := execPowerLoss s) rfl ?_
    simp only [execPowerLoss, hdue]
    exact congrArg (fun u => Host.Outcome.next (State.stopped u .off)) (if_neg h)

/-- The package stops at a thermal trip, which its history records (17 R428). -/
theorem exec_thermalTrip {s : State} {unit : Nat} (hdue : s.due = some (.thermalTrip unit)) : exec .thermalTrip s =
    .next (((s.stopped .failed).bootWrite (fun p => { p.fail 9 (if s.pkg.step = 0 then 6 else s.pkg.step) unit with
      progress := false })).setPkg (fun p => { p with bootwhy := s.pkg.bootwhy })) := by
  refine Eq.trans (b := execThermalTrip s) rfl ?_
  simp only [execThermalTrip, hdue]

/-! ## The start (17 R418-R424) -/

/-- Step 1 of a start whose rails are up, after one that was finished. -/
theorem startFirst_clean {s : State} {i : StartInputs} (hp : s.pkg.progress = false) (hr : i.rails = true) :
    (s.startFirst i).pkg.step = 1 ∧ (s.startFirst i).pkg.progress = true ∧
      (s.startFirst i).pkg.minimal = (decide (3 ≤ s.pkg.fcnt) || s.pkg.wantMin) ∧ (s.startFirst i).pkg.phase = s.pkg.phase ∧
      (s.startFirst i).inbox = s.inbox := by
  simp [State.startFirst, hp, hr, State.bootWrite, State.setPkg]

/-! ## Reconfiguration (16 R417) -/

theorem mem_colDies {cols : BitVec 4} {d : Nat} : d ∈ colDies cols ↔ d < 8 ∧ cols.getLsbD (d % 4) = true := by
  simp [colDies]

theorem State.cd_updCd_of_ne (s : State) {d e : Nat} (h : d ≠ e) (f : Cd → Cd) : (s.updCd d f).cd e = s.cd e := by
  simp only [State.cd, State.updCd_cds, List.getD_eq_getElem?_getD, lset_get, if_neg h]

/-- Dies are quiesced. -/
def State.quietDies (s : State) (l : List Nat) : State := l.foldl (fun s d => s.updCd d (fun c => { c with quiet := true })) s

/-- The dies of the list are quiesced, and the others stay as they are. -/
theorem quiet_quietDies (l : List Nat) : ∀ {s : State} {d : Nat}, d < s.cds.length →
    ((s.quietDies l).cd d).quiet = (l.contains d || (s.cd d).quiet) := by
  induction l with
  | nil => exact fun _ => rfl
  | cons e l ih =>
    intro s d hd
    have hlen : d < (s.updCd e (fun c => { c with quiet := true })).cds.length := by simpa using hd
    rw [State.quietDies, List.foldl_cons, ← State.quietDies, ih hlen, List.contains_cons]
    by_cases he : d = e
    · subst he
      simp [State.cd_updCd_self hd]
    · have hne : (d == e) = false := beq_eq_false_iff_ne.2 he
      rw [State.cd_updCd_of_ne _ (Ne.symm he), hne, Bool.false_or]

theorem exec_quiesce {s : State} {cols : BitVec 4} (hdue : s.due = some (.quiesce cols)) (hstage : s.pkg.stage = 0)
    (hwhole : s.wholeParts cols = true) : exec .quiesce s =
      .next (((s.quietDies (colDies cols)).setPkg (fun p => { p with stage := 1, stageCols := cols })).partEnd 0) := by
  refine Eq.trans (b := execQuiesce s) rfl ?_
  simp only [execQuiesce, hdue, hstage, hwhole]
  rfl

/-! ## Power and time (17 R428, 14 R364) -/

theorem fld_lt (v : DWord) (hi lo : Nat) : fld v hi lo < 2 ^ (hi + 1 - lo) := Nat.mod_lt _ (Nat.two_pow_pos _)

/-- A window within the limits sets no duty and counts no event. -/
theorem exec_powerWindow_cool {s : State} {watts tj : Nat} (hdue : s.due = some (.powerWindow watts tj))
    (hwatts : watts ≤ fld s.pkg.pwrlim 15 0) (htj : tj ≤ 100) : exec .powerWindow s = .next (s.takeFree.2.setPkg (fun p =>
      { p with pwrstat := BitVec.ofNat 64 (watts % 2 ^ 16 * 2 ^ 48 + tj * 2 ^ 40 + fld s.pkg.pwrstat 31 0) })) := by
  refine Eq.trans (b := execPowerWindow s) rfl ?_
  have hcool : decide (fld s.pkg.pwrlim 15 0 < watts ∨ 100 < tj) = false := decide_eq_false (by omega)
  have hevents : fld s.pkg.pwrstat 31 0 % 2 ^ 32 = fld s.pkg.pwrstat 31 0 := Nat.mod_eq_of_lt (fld_lt ..)
  have hpkg : s.takeFree.2.pkg = s.pkg := rfl
  have htj' : tj % 256 = tj := Nat.mod_eq_of_lt (by omega)
  simp only [execPowerWindow, hdue]
  refine congrArg (fun n => Host.Outcome.next (s.takeFree.2.setPkg (fun p => { p with pwrstat := BitVec.ofNat 64 n }))) ?_
  rw [hcool, hpkg, htj', if_neg Bool.false_ne_true, if_neg Bool.false_ne_true, Nat.zero_mul, Nat.add_zero, Nat.add_zero, hevents]

theorem pkg_timedSteps (s : State) (t u : Nat) : (s.timedSteps t u).pkg = s.pkg := by
  simp only [State.timedSteps, apply_ite State.pkg, State.post_pkg, State.postAll_pkg, ite_self]

/-- What BAR0 exposes: every register once READY, and the package registers before (17 R418). -/
theorem exposed_of {s : State} {r : RegPlace} (h : s.pkg.phase = .ready ∨ ∃ n, r = .pkg n) : s.exposed r = true := by
  rcases h with h | ⟨n, rfl⟩
  · simp [State.exposed, h]
  · simp [State.exposed]

/-! ## Commands of the mailbox (17 R426, R427) -/

theorem mail_idle {s : State} (h : s.pkg.mailBusy = false) (f : State → State) : s.mail f = f s := if_neg (by rw [h]; decide)

theorem mail_busy {s : State} (h : s.pkg.mailBusy = true) (f : State → State) :
    s.mail f = (s.setPkg (fun p => { p with mailStat := 1 })).emit (.msix 9) := if_pos h

section
variable {s : State}

theorem exec_getcert {v : DWord} (hdue : s.due = some (.getcert v)) (hidle : s.pkg.mailBusy = false) :
    exec .getcert s = .next (if s.pkg.attKey = none ∨ fld v 63 48 ≠ 0 then s.mailEnd 3
      else (s.putAll (16 * 2 ^ 48 + fld v 47 0) (Config.identityCert ++ s.pkg.attCert)).mailEnd 0) := by
  refine Eq.trans (b := execGetcert s) rfl ?_
  simp only [execGetcert, hdue, mail_idle hidle, placeKey]

/-- An ATTEST that has not started. -/
theorem exec_attest_fresh {nonce : BitVec 256} {v : DWord} (hdue : s.due = some (.attest nonce v)) (hv : v.getLsbD 63 = false)
    (hidle : s.pkg.mailBusy = false) : exec .attest s = .next (if s.pkg.attKey = none ∨ fld v 63 48 ≠ 0 then s.mailEnd 3
      else (s.setPkg (fun p => { p with mailBusy := true, mailStat := 1 })).post (.attest nonce (v ||| 0x8000000000000000))) := by
  refine Eq.trans (b := execAttest s) rfl ?_
  have hmark : bitOf v 63 = false := hv
  simp only [execAttest, hdue, hmark, mail_idle hidle, Bool.false_eq_true, if_false]
  rfl

theorem exec_raisefloor {fl : DWord} (hdue : s.due = some (.raisefloor fl)) (hidle : s.pkg.mailBusy = false) :
    exec .raisefloor s = .next (if s.pkg.version < fl ∨ 64 < fl then s.mailEnd 3
      else (s.setPkg (fun p => { p with fuses := max p.fuses fl.toNat })).mailEnd 0) := by
  refine Eq.trans (b := execRaisefloor s) rfl ?_
  simp only [execRaisefloor, hdue, mail_idle hidle]

theorem exec_badCommand {code : DWord} (hdue : s.due = some (.badCommand code)) :
    exec .badCommand s = .next (s.mail (fun s => s.mailEnd 2)) := by
  refine Eq.trans (b := execBadCommand s) rfl ?_
  simp only [execBadCommand, hdue]

end

/-- Settles O50: each step from its conditions; a stop through `stopped_stops`, a write of the host through `cget_putAll_outside`. -/
theorem managementStepsComplete : Obligations.ManagementStepsComplete := by
  unfold Obligations.ManagementStepsComplete
  intro s a pa len data bad min cols r v fl nonce step_ unit watts tj i n code goes ends result idle ready stops booted boots
  have stopsOf : ∀ {ph : Phase} {u t : State}, Stopped u ph t → u.pkg.fuses = s.pkg.fuses → u.mem = s.mem → stops ph t :=
    fun h hf hm => ⟨h.blocks, h.cores, h.l1, h.l2, h.tlb, h.packets, h.inbox, h.phase, h.fuses.trans hf,
      fun k => hm ▸ h.mem k⟩
  refine ⟨?hostWrites, ?readsReg, ?writes, ?reads, ?notReady, ?payload, ?command, ?status, ?register, ?notWhole, ?outOfStep, ?quiesced,
    ?commitOutOfStep, ?undrained, ?committed, ?released, ?aborted, ?restarts, ?resets, ?powerLost, ?tripped, ?overran, ?readied, ?begun,
    ?cleared, ?raised, ?notRaised, ?certified, ?attests, ?noCert, ?noAttest, ?attested, ?badIdle, ?badBusy, ?power, ?time⟩
  case hostWrites =>
    intro hdue
    have hk : 16 ≤ keyPlace (16 * 2 ^ 48 + a) := by unfold keyPlace; omega
    refine ⟨s.outsideWrite (16 * 2 ^ 48 + a) data bad, ?_, ?_, ?_, ?_⟩
    · refine Eq.trans (b := execHostAccess s) rfl ?_
      simp only [execHostAccess, hdue, placeKey]
    · cases bad <;> exact cread_putAll_outside s hk data
    · cases bad <;> exact sameOutside_putAll s hk data
    · rintro rfl x hx
      exact mem_poison_addPoison _ hx
  case readsReg =>
    intro hdue hr
    have hexp : s.exposed r = true := exposed_of hr
    refine Eq.trans (b := execHostAccess s) rfl ?_
    simp only [execHostAccess, hdue, hexp, if_true]
  case writes =>
    intro hdue hready hheld
    have hphase : s.pkg.phase = .ready := hready
    refine Eq.trans (b := execHostAccess s) rfl ?_
    simp [execHostAccess, hdue, hphase, hheld]
  case reads =>
    intro hdue hready hheld
    have hphase : s.pkg.phase = .ready := hready
    refine Eq.trans (b := execHostAccess s) rfl ?_
    simp [execHostAccess, hdue, hphase, hheld]
  case notReady =>
    intro hdue hready
    have hphase : s.pkg.phase ≠ .ready := hready
    refine Eq.trans (b := execHostAccess s) rfl ?_
    simp [execHostAccess, hdue, hphase]
  case payload =>
    intro hdue hlen
    refine ⟨s.mailPut 64 data, ?_, ?_⟩
    · refine Eq.trans (b := execHostAccess s) rfl ?_
      simp only [execHostAccess, hdue]
    · rw [mailPut_within (.inr ⟨le_rfl, by omega⟩), if_neg (by omega)]
      exact ⟨cread_cwrite _ _ _, rfl, fun _ => rfl⟩
  case command =>
    intro hdue
    refine ⟨s.mailPut 0 (leBytes 8 5), ?_, ?_⟩
    · refine Eq.trans (b := execHostAccess s) rfl ?_
      simp only [execHostAccess, hdue]
    · have hword : cread (cwrite s.pkg.mail 0 (leBytes 8 5)) 0 8 = leBytes 8 5 := cread_cwrite ..
      have hpayload : cread (cwrite s.pkg.mail 0 (leBytes 8 5)) 64 8 = cread s.pkg.mail 64 8 :=
        cread_cwrite_apart _ fun i _ h => absurd h.2 (by simp [leBytes]; omega)
      rw [mailPut_within (.inl le_rfl), if_pos ⟨rfl, by simp [leBytes]⟩, mailCommand_raisefloor hword, hpayload]
      rfl
  case status =>
    intro hdue
    refine Eq.trans (b := execHostAccess s) rfl ?_
    simp only [execHostAccess, hdue, mailBytes_status]
  case register =>
    intro hdue hr
    have hexp : s.exposed r = true := exposed_of hr
    refine Eq.trans (b := execRegisterWrite s) rfl ?_
    simp only [execRegisterWrite, hdue, hexp, if_true]
  case notWhole =>
    intro hdue hstage hwhole
    refine Eq.trans (b := execQuiesce s) rfl ?_
    simp only [execQuiesce, hdue, hstage, hwhole]
    rfl
  case outOfStep =>
    intro hdue hstage
    refine Eq.trans (b := execQuiesce s) rfl ?_
    simp only [execQuiesce, hdue, if_pos hstage]
    rfl
  case quiesced =>
    intro hdue hstage hwhole hlen
    refine ⟨_, exec_quiesce hdue hstage hwhole, fun d hd => ?_, rfl, rfl, rfl⟩
    have hcd : ∀ (u : State) (f : Pkg → Pkg) (n : Nat), ((u.setPkg f).partEnd n).cd d = u.cd d := fun _ _ _ => rfl
    rw [hcd, quiet_quietDies _ (hlen ▸ hd)]
    refine congrArg (· || _) ?_
    rw [Bool.eq_iff_iff, List.contains_iff_mem, mem_colDies]
    exact and_iff_right hd
  case commitOutOfStep =>
    intro hdue h
    refine Eq.trans (b := execCommit s) rfl ?_
    simp only [execCommit, hdue, if_pos h]
    rfl
  case undrained =>
    intro hdue hstage hcols k hk
    refine Eq.trans (b := execCommit s) rfl ?_
    simp only [execCommit, hdue, hstage, hcols, hk, ne_eq, not_true_eq_false, or_self, if_false]
    rfl
  case committed =>
    intro hdue hstage hcols hk u w hok
    refine Eq.trans (b := execCommit s) rfl ?_
    simp only [execCommit, hdue, hstage, hcols, hk, ne_eq, not_true_eq_false, or_self, if_false]
    exact if_neg (by rw [hok]; decide)
  case released =>
    intro hdue hstage hcols
    refine Eq.trans (b := execRelease s) rfl ?_
    simp only [execRelease, hdue, hstage, hcols, ne_eq, not_true_eq_false, or_self, if_false]
    rfl
  case aborted =>
    intro hdue hstage hcols
    refine Eq.trans (b := execAbort s) rfl ?_
    simp only [execAbort, hdue, hstage, hcols, ne_eq, not_true_eq_false, or_self, if_false]
    rfl
  case restarts =>
    intro hdue
    refine ⟨((s.stopped .inReset).setPkg (fun p => { p with wantMin := min })).mailEnd 0, ?_, ?_, ⟨rfl, rfl, rfl⟩, rfl, rfl⟩
    · refine Eq.trans (b := execRestart s) rfl ?_
      simp only [execRestart, hdue]
    · exact ⟨rfl, rfl, rfl, rfl, rfl, rfl, rfl, rfl, rfl, (stopped_stops s .inReset).mem⟩
  case resets =>
    intro hdue
    refine ⟨s.stopped .inReset, ?_, stopsOf (stopped_stops s .inReset) rfl rfl, rfl, rfl, rfl⟩
    refine Eq.trans (b := execFundamentalReset s) rfl ?_
    simp only [execFundamentalReset, hdue]
  case powerLost =>
    intro hdue
    obtain ⟨u, hexec, hu⟩ := exec_powerLoss hdue
    refine ⟨u.stopped .off, hexec, ?_⟩
    rcases hu with rfl | ⟨hcut, rfl⟩
    · exact ⟨stopsOf (stopped_stops _ .off) rfl rfl, fun _ => ⟨rfl, rfl, rfl⟩, .inl ⟨rfl, rfl, rfl⟩⟩
    · refine ⟨stopsOf (stopped_stops _ .off) (cutWrite_fuses _) rfl, fun hlate => absurd hcut (Nat.not_le.2 hlate), ?_⟩
      rcases boot_cutWrite s.takeFree.2 with ⟨_, hsame⟩ | ⟨x, hx, hboot⟩
      · rw [hsame]
        exact .inl ⟨rfl, rfl, rfl⟩
      · exact .inr ⟨x, hx, hboot⟩
  case tripped => exact fun hdue => ⟨_, exec_thermalTrip hdue, rfl, rfl, rfl, rfl⟩
  case overran =>
    intro hdue hstep hne
    refine ⟨s.startFail 7 unit, ?_, rfl, ?_, rfl⟩
    · refine Eq.trans (b := execStartStepTimeout s) rfl ?_
      simp only [execStartStepTimeout, hdue, if_pos (And.intro hstep hne)]
    · rw [← hstep]
      rfl
  case readied =>
    intro hdue hphase hstep
    refine ⟨s.startReady, ?_, rfl, rfl, rfl, fun hmin => if_neg (Bool.eq_false_iff.1 hmin), rfl, rfl⟩
    refine Eq.trans (b := execStart s) rfl ?_
    simp only [execStart, hdue, hphase, hstep, ne_eq, not_true_eq_false, false_and, if_false]
    exact congrArg _ (if_neg (show Phase.ready ≠ .inReset by decide))
  case begun =>
    intro hdue hphase hstep hprogress hrails
    obtain ⟨hone, hbegun, hminimal, hstill, hinbox⟩ :=
      startFirst_clean (s := s.setPkg (fun p => { p with phase := .inReset })) hprogress hrails
    refine ⟨((s.setPkg (fun p => { p with phase := .inReset })).startFirst i).post (.start i), ?_, hone, hbegun, hminimal,
      congrArg (· ++ [_]) hinbox⟩
    refine Eq.trans (b := execStart s) rfl ?_
    simp only [execStart, hdue, hphase, hstep, ne_eq, not_true_eq_false, false_and, if_false]
    exact congrArg _ (if_pos hstill)
  case cleared =>
    intro hdue hidle
    refine Eq.trans (b := execClearfail s) rfl ?_
    simp only [execClearfail, hdue, mail_idle hidle]
    rfl
  case raised =>
    intro hdue hidle hver h64
    have hno : ¬ (s.pkg.version < fl ∨ 64 < fl) := not_or.2 ⟨BitVec.not_lt.2 hver, BitVec.not_lt.2 h64⟩
    exact (exec_raisefloor hdue hidle).trans (congrArg _ (if_neg hno))
  case notRaised => exact fun hdue hidle h => (exec_raisefloor hdue hidle).trans (congrArg _ (if_pos h))
  case certified =>
    intro hdue hidle hkey haddr
    exact (exec_getcert hdue hidle).trans (congrArg _ (if_neg (not_or.2 ⟨hkey, not_not.2 haddr⟩)))
  case attests =>
    intro hdue hv hidle hkey haddr
    exact (exec_attest_fresh hdue hv hidle).trans (congrArg _ (if_neg (not_or.2 ⟨hkey, not_not.2 haddr⟩)))
  case noCert => exact fun hdue hidle h => (exec_getcert hdue hidle).trans (congrArg _ (if_pos h))
  case noAttest => exact fun hdue hv hidle h => (exec_attest_fresh hdue hv hidle).trans (congrArg _ (if_pos h))
  case attested =>
    intro hdue hv hbusy
    have hmark : bitOf v 63 = true := hv
    refine Eq.trans (b := execAttest s) rfl ?_
    simp only [execAttest, hdue, hmark, hbusy, if_true]
    rfl
  case badIdle => exact fun hdue hidle => (exec_badCommand hdue).trans (congrArg _ (mail_idle hidle _))
  case badBusy => exact fun hdue hbusy => (exec_badCommand hdue).trans (congrArg _ (mail_busy hbusy _))
  case power => exact fun hdue hwatts htj => ⟨_, exec_powerWindow_cool hdue hwatts htj, rfl⟩
  case time =>
    intro hdue hn
    refine ⟨s.advanceTime n.toNat, ?_, congrArg Pkg.timeNs (pkg_timedSteps _ _ _)⟩
    refine Eq.trans (b := execTimeStep s) rfl ?_
    simp only [execTimeStep, hdue]
    exact congrArg _ (if_neg hn)

end Sys2Proof.Machine

/-!
Fetchers, placement, task units, pre-emption, the unpicker and the fault path (O48; 12 R299-R306, 13 R320, R338-R341, 15 R374-R377, R385,
R386).
-/
namespace Sys2Proof.Machine

/-! ## What a thread waits in -/

theorem State.thread?_updThread_self (s : State) (t : ThreadRef) (f : Thread → Thread) :
    (s.updThread t f).thread? t = (s.thread? t).map f := by
  simp only [State.thread?, State.updThread, State.blk?_updBlk_self, Option.bind_map, Function.comp_def, Block.thread?_updThread,
    Option.map_bind]

/-- Windows of sent writes aside, threads that are the same wait in the same. -/
theorem State.SameButSent.hold {s u : State} (h : s.SameButSent u) (t : ThreadRef) :
    (u.thread? t).map (·.hold) = (s.thread? t).map (·.hold) := by
  have key : ∀ v : State, (v.thread? t).map (·.hold) =
      ((v.blk? t.blk).map Block.unsent).bind (fun b => (b.thread? t.warp t.armE).map (·.hold)) := fun v => by
    cases hb : v.blk? t.blk with
    | none => simp [State.thread?, hb]
    | some b =>
      simp only [State.thread?, hb, Option.bind_some, Option.map_some, Block.thread?_unsent, Option.map_map]
      rfl
  rw [key u, key s, h.1 t.blk]

theorem State.sameButSent_poolPut (s : State) (p : Pool) (off : Nat) (bs : List Byte) : s.SameButSent (s.poolPut p off bs) := by
  unfold State.poolPut
  split
  next k _ => exact s.sameButSent_homeWrite _ bs
  next => exact .of_blocks rfl rfl

theorem State.sameButSent_syncRows (s : State) (ix : Nat) (es : List Nat) : s.SameButSent (s.syncRows ix es) := by
  unfold State.syncRows
  split
  next => exact .of_blocks rfl rfl
  next p _ =>
    exact (s.sameButSent_poolPut p 0 _).trans
      (State.sameButSent_foldl _ (fun (s : State) e => s.sameButSent_poolPut p (128 + 16 * e) (s.poolRow p e)) es _)

theorem State.sameButSent_countNoFrame (s : State) (b : Block) : s.SameButSent (s.countNoFrame b) := by
  unfold State.countNoFrame
  split
  next ix _ e _ _ => exact .trans (.of_blocks rfl rfl) (State.sameButSent_syncRows _ ix [e])
  next => exact .of_blocks rfl rfl

/-! ## Fetchers and placement (12 R299-R306) -/

section
variable {s : State}

/-- A bell of a queue that is not known to have work makes it active, where the fetcher has room (12 R302, R303). -/
theorem exec_lqbell_activates {die q : Nat} {d : QueueDesc} (hdue : s.due = some (.lqbell die q)) (hq : s.queueDesc die q = some d)
    (hen : d.en = true) (hhome : d.home = die) (hactive : q ∉ (s.cd die).active) (hbells : q ∉ (s.cd die).bells)
    (hroom : (s.cd die).active.length < 64) :
    exec .lqbell s = .next ((s.updCd die (fun c => { c with active := c.active ++ [q] })).post (.packetFetch die)) := by
  refine Eq.trans (b := execLqbell s) rfl ?_
  have hnew : ((s.cd die).active.contains q || (s.cd die).bells.contains q) = false := by simp [hactive, hbells]
  simp only [execLqbell, hdue, State.ringBell, hq, hen, hhome, hnew, hroom, Bool.not_true, Bool.false_eq_true, ne_eq,
    not_true_eq_false, or_self, if_false, if_true]

/-- The first waiting gang that fits (12 R305, R306). -/
def State.firstFit (s : State) : Option (Nat × Gang × Packet × List (Nat × Nat × Nat)) :=
  s.candidates.findSome? (fun x => match kget s.packets x.2.pkt with
    | some p => if p.owed then none else (s.planOf x.2 p).map (fun plan => (x.1, x.2, p, plan))
    | none => none)

/-- A gang that waits too long becomes senior, with its target (12 R306). -/
theorem exec_seniorGang {gk : Nat} {g : Gang} {p : Packet} (hdue : s.due = some (.seniorGang gk)) (hg : kget s.gangs gk = some g)
    (hnew : g.senior = none) (hhold : g.hold = false) (hp : kget s.packets g.pkt = some p) : exec .seniorGang s = .next
      (({ s.takeFresh.2 with
          gangs := kset s.takeFresh.2.gangs gk
            { g with senior := some s.takeFresh.1, target := s.takeFresh.2.seniorTarget p } }).post .gangPlacement) := by
  refine Eq.trans (b := execSeniorGang s) rfl ?_
  simp only [execSeniorGang, hdue, hg, hnew, hhold, hp, Option.isNone_none, Bool.not_false, and_self, if_true]

/-- With the arguments of every block asked for, that gang is placed, or its restore is due. -/
theorem exec_gangPlacement {gk : Nat} {g : Gang} {p : Packet} {plan : List (Nat × Nat × Nat)}
    (hsettled : ∀ y ∈ s.blocks, y.2.started = true) (hgang : s.firstFit = some (gk, g, p, plan)) :
    exec .gangPlacement s = .next (if s.isSaved g then s.post (.restore gk)
      else (if p.task then s.placePool gk g.pkt p plan else s.placeGrid gk g.pkt p plan).post .gangPlacement) := by
  refine Eq.trans (b := execGangPlacement s) rfl ?_
  have hlate : s.blocks.filter (fun x => x.2.home && !x.2.started && !x.2.argReq) = [] :=
    List.filter_eq_nil_iff.2 fun y hy => by simp [hsettled y hy]
  unfold execGangPlacement
  rw [hlate]
  dsimp only [List.foldl_nil]
  split
  next hnone => exact absurd (hgang.symm.trans hnone) (Option.some_ne_none _)
  next hsome =>
    cases Option.some.inj (hgang.symm.trans hsome)
    rfl

end

/-! ## The task unit (13 R320, R338-R342) -/

/-- An idle slot with no READY chain to take starts the head of the highest run queue, where a frame is free. -/
theorem takeWork_queued {s : State} {ix j e next core slot scr f : Nat} {p : Pool} {k : Task} {bs : List Byte} {keys : List Nat}
    (hslot : p.slots[j]? = some (core, slot, scr)) (hready : p.oldestReady = none) (hhead : s.headTask p = .task e k next)
    (hframe : p.freeFrame = some f) (hstart : s.startKeys p k.rec_ f = .ok bs keys) : s.takeWork ix j p =
      (s.updPool ix (fun y => y.afterHead k.prio next)).startTask ix e p k core slot scr j f none bs keys := by
  have hgetD : p.slots.getD j (0, 0, 0) = (core, slot, scr) := by simp [List.getD, hslot]
  simp only [State.takeWork, hgetD, hready, hhead, hframe, hstart]

section
variable {s : State} {t : ThreadRef} {owner : Word} {b : Block} {th : Thread}

/-- A wait whose owner cannot start for want of a frame is marked so, and counted. -/
theorem exec_adoption_noFrame (hdue : s.due = some (.adoption t owner)) (hblk : s.blk? t.blk = some b) (ht : s.thread? t = some th)
    (hhome : b.home = true) (halive : b.killed = none) (hgoing : b.ending = false) (hsaving : t.blk ∉ (s.cd b.die).saving)
    (hwaits : th.awaitsObject = true) (hch : s.chooseOwner b owner = .noFrame) : exec .adoption s = .next
      (((s.updCd b.die (fun c => { c with parking := c.parking.filter (· != t.blk) })).updThread t (fun th =>
        { th with hold := th.hold.map (fun h => { h with wait := .noFrame }) })).countNoFrame b) := by
  refine Eq.trans (b := execAdoption s) rfl ?_
  have hwaits' : (th.hold.map (fun h => h.wait == .object)).getD false = true := hwaits
  simp [execAdoption, hdue, hblk, ht, hhome, halive, hgoing, hsaving, hwaits', hch]

/-- There it waits. -/
theorem hold_noFrame (ht : s.thread? t = some th) (d : Nat) (f : Cd → Cd) :
    ((((s.updCd d f).updThread t (fun th => { th with hold := th.hold.map (fun h => { h with wait := .noFrame }) })).countNoFrame
      b).thread? t).map (·.hold) = some (th.hold.map (fun h => { h with wait := .noFrame })) := by
  have ht' : (s.updCd d f).thread? t = some th := ht
  rw [(State.sameButSent_countNoFrame _ b).hold t, State.thread?_updThread_self, ht']
  rfl

/-- A thread outside a task is woken in its slot (13 R341). -/
theorem exec_wake_noTask {w : Waiter} (hdue : s.due = some (.wake w)) (hno : w.task = 0xFFFFFFFF)
    (htask : (s.blk? w.t.blk).bind (fun b => s.task? b.die w.task) = none) : exec .wake s = .next (s.release w.t) := by
  refine Eq.trans (b := execWake s) rfl ?_
  simp only [execWake, hdue, htask, if_pos hno]

/-- A wait that found its park table full sends its check again (13 R338). -/
theorem exec_parkRetry (hdue : s.due = some (.parkRetry t)) : exec .parkRetry s = .next (s.updThread t (fun th =>
    { th with hold := th.hold.map (fun h => if h.wait = .parkRoom then { h with wait := .again, stage := 2, answer := none } else h)
      })) := by
  refine Eq.trans (b := execParkRetry s) rfl ?_
  simp only [execParkRetry, hdue]

end

/-! ## Pre-emption and restore (15 R385, R386) -/

section
variable {s : State} {die n : Nat} {b : Block}

/-- `BUSY` of PREEMPT, with `HOLD` where the write asked for it. -/
theorem preemptWord (v : DWord) :
    setFld (if bitOf v 1 then 2 else 0) 63 63 1 = if v.getLsbD 1 then 0x8000000000000002 else 0x8000000000000000 := by
  have hbit : bitOf v 1 = v.getLsbD 1 := rfl
  rw [hbit]
  cases v.getLsbD 1 <;> rfl

theorem exec_preempt {v : DWord} (hdue : s.due = some (.preempt die v)) (hgo : v.getLsbD 0 = true)
    (hbusy : (s.cdReg die 0x3B3).getLsbD 63 = false) (hctx : s.ctxBlock die (fld v 47 32) = some (n, b)) (hhome : b.home = true)
    (halive : b.killed = none) {u : State}
    (hu : s.setCdReg die 0x3B3 (if v.getLsbD 1 then 0x8000000000000002 else 0x8000000000000000) = u) :
    exec .preempt s = .next ((u.updCd die (fun c => { c with saving := c.saving ++ u.gangOf n b })).post (.preemptSave die)) := by
  refine Eq.trans (b := execPreempt s) rfl ?_
  have hgo' : bitOf v 0 = true := hgo
  have hbusy' : bitOf (s.cdReg die 0x3B3) 63 = false := hbusy
  simp only [execPreempt, hdue, State.preempt, hgo', hbusy', hctx, hhome, halive, preemptWord, hu, Bool.not_true, Bool.false_eq_true,
    Option.isSome_none, or_self, if_false]

/-- The last block of a request is saved: the gang waits for its restore, held where the request asked for that. -/
theorem exec_preemptSave_last {s' : State} (hdue : s.due = some (.preemptSave die)) (hsaving : (s.cd die).saving = [n])
    (hblk : s.blk? n = some b) (hhome : b.home = true) (halive : b.killed = none) (hquiet : s.quietBlock n b none = true)
    (hsave : s.saveBlock n (bitOf (s.cdReg die 0x3B3) 1) false = .done s') (hpools : s'.pools = []) :
    exec .preemptSave s = .next
      (((({ s'.takeFresh.2 with gangs := kset s'.gangs s'.fresh (savedGang s'.takeFresh.2 b.pkt [n]
        (bitOf (s.cdReg die 0x3B3) 1)) }).updCd die (fun c => { c with saving := c.saving.filter (· ≠ n) })).setCdReg die 0x3B3
        0).post .gangPlacement) := by
  refine Eq.trans (b := execPreemptSave s) rfl ?_
  have hmine : [n].filter (fun bk => ((s.blk? bk).map (fun b => b.home && b.killed.isNone)).getD false) = [n] := by
    simp [hblk, hhome, halive]
  have hall : [n].all (fun k => ((s.blk? k).map (fun b => s.quietBlock k b none)).getD true) = true := by simp [hblk, hquiet]
  have hsaved : s.saveAll (bitOf (s.cdReg die 0x3B3) 1) [n] = .done s' := by simp only [State.saveAll, hsave]
  have hpool : s'.takeFresh.2.pools.find? (fun p => p.2.pkt == b.pkt) = none := by
    rw [show s'.takeFresh.2.pools = [] from hpools]
    rfl
  have hleft : (fun k : Nat => !([n] : List Nat).contains k) = fun k => decide (k ≠ n) := by
    funext k
    simp
  simp only [execPreemptSave, hdue, hsaving, hmine, hall, hsaved, hblk, hpool, hleft, Bool.not_true, Bool.false_eq_true, if_false,
    Option.isSome_none]
  rfl

theorem exec_resume {v : DWord} (hdue : s.due = some (.resume die v)) : exec .resume s = .next (s.resume die v) := by
  refine Eq.trans (b := execResume s) rfl ?_
  simp only [execResume, hdue]

/-- A context that every waiting gang holds: all of them may be restored (15 R386). -/
theorem resume_all {v : DWord} (hctx : s.ctxBlock die (fld v 47 32) = some (n, b)) (haway : b.home = false)
    (hall : ∀ y ∈ s.gangs, n ∈ y.2.blocks) : s.resume die v =
      { s with gangs := s.gangs.map (fun (y : Nat × Gang) =>
        (y.1, { y.2 with hold := false, since := if y.2.hold then s.pkg.timeNs.toNat else y.2.since })) }.post .gangPlacement := by
  simp only [State.resume, hctx, haway, Bool.false_eq_true, if_false]
  refine congrArg (fun l => State.post { s with gangs := l } .gangPlacement) (List.map_congr_left fun y hy => ?_)
  exact if_pos (Bool.or_eq_true_iff.2 (.inl (List.contains_iff_mem.2 (hall y hy))))

end

/-! ## The unpicker and the fault path (15 R373-R377, R382) -/

section
variable {s : State}

/-- The one dead block of a die, its work done, is ended. -/
theorem exec_unpickerPass_last {die n : Nat} {b : Block} {u : State} (hdue : s.due = some (.unpickerPass die))
    (hmarks : (s.cd die).marks = []) (hdead : (s.cd die).dead = [n]) (hblk : s.blk? n = some b) (hhome : b.home = true)
    (hquiet : s.quietBlock n b none = true) (hpage : s.endWaitsPage die b = false) (hu : s.unpick n b (b.killed.getD 33) = u)
    (hgone : u.blk? n = none) (hstill : (u.cd die).dead = [n]) (hlive : ∀ y ∈ u.blocks, y.2.over = false) :
    exec .unpickerPass s = .next (u.updCd die (fun c => { c with dead := [] })) := by
  refine Eq.trans (b := execUnpickerPass s) rfl ?_
  have hover : u.blocks.filter (fun x => x.2.die == die && x.2.killed.isNone && x.2.home && x.2.over) = [] :=
    List.filter_eq_nil_iff.2 fun y hy => by simp [hlive y hy]
  have hfirst : (([n] : List Nat).filter (fun k => (s.blk? k).isSome)).take 16 = [n] := by simp [hblk]
  have hrest : ([n] : List Nat).filter (fun k => (u.blk? k).isSome) = [] := by simp [hgone]
  simp only [execUnpickerPass, hdue, hmarks, List.foldl_nil, hdead, hfirst, List.foldl_cons, hblk, hhome, hquiet, hpage, Bool.not_true,
    Bool.false_or, Bool.not_false, Bool.and_self, if_true, hu, hover, hstill, hrest, List.all_nil]

/-- A report of a live thread with none before it becomes the thread's record. -/
theorem postFault_first {t : ThreadRef} {th : Thread} {r : FaultRec} (ht : s.thread? t = some th) (hlive : th.live = true)
    (hrecord : th.record = none) (hlater : th.later = none) (halive : (s.blk? t.blk).bind (·.killed) = none) :
    s.postFault t r = (s.updThread t (fun y => { y with record := some r })).post (.trapEntry t) := by
  have hhere : s.threadGone t = false := by simp [State.threadGone, ht, hlive, halive]
  simp only [State.postFault, ht, hhere, hrecord, hlater, Bool.false_eq_true, if_false, Option.isSome_none, Bool.or_self]

/-- A record that nothing stands before enters its handler. -/
theorem exec_trapEntry {t : ThreadRef} {b : Block} {th : Thread} {r : FaultRec} (hdue : s.due = some (.trapEntry t))
    (hblk : s.blk? t.blk = some b) (ht : s.thread? t = some th) (hhome : b.home = true) (hlive : th.live = true)
    (halive : b.killed = none) (hrecord : th.record = some r) (hsaved : s.beingSaved t.blk = false) (hother : b.otherInTrap t = false)
    (hquiet : b.quietWarp t.warp = true) (hfirst : s.firstRecord t th = t) : exec .trapEntry s = .next (s.enterTrap t r) := by
  refine Eq.trans (b := execTrapEntry s) rfl ?_
  simp only [execTrapEntry, hdue, hblk, ht, hhome, hlive, halive, hrecord, hsaved, hother, hquiet, hfirst, Option.isNone_some,
    Option.isSome_none, Bool.not_true, Bool.false_eq_true, Bool.or_self, or_self, if_false]

end

/-- Settles O48: each step is its equation above, with the conditions of its clause; TASK_START, ADOPTION and WAKE are those of O60. -/
theorem workStepsComplete : Obligations.WorkStepsComplete := by
  unfold Obligations.WorkStepsComplete
  intro s die q n gk d g p plan t th b w x e next_ k v r owner f bs keys goes gang settled ix late hold
  refine ⟨exec_lqbell_activates, ?quiesced, ?fetches, ?polls, ?restoreDue, ?grid, ?pool, ?senior, ?started, ?parks, ?noFrame, ?woken,
    ?retries, fun hdue hgo hbusy hctx hhome halive => exec_preempt hdue hgo hbusy hctx hhome halive rfl, ?allSaved, ?saved, ?resumes,
    ?restores, ?unpicks, ?replays, ?reports, ?rings, exec_trapEntry⟩
  case quiesced =>
    intro hdue hquiet
    refine Eq.trans (b := execPacketFetch s) rfl ?_
    simp only [execPacketFetch, hdue]
    exact congrArg _ (if_pos (.inl hquiet))
  case fetches =>
    intro hdue
    refine Eq.trans (b := execPacketFetch s) rfl ?_
    simp only [execPacketFetch, hdue]
  case polls =>
    intro hdue hwork
    refine Eq.trans (b := execDependencePoll s) rfl ?_
    simp only [execDependencePoll, hdue]
    refine congrArg _ (if_neg fun h => ?_)
    obtain ⟨ha, hb⟩ := Bool.and_eq_true_iff.1 h
    exact hwork.elim (· (List.isEmpty_iff.1 ha)) (· (List.isEmpty_iff.1 hb))
  case restoreDue => exact fun hs hg hsaved => (exec_gangPlacement hs hg).trans (congrArg _ (if_pos hsaved))
  case grid =>
    intro hs hg hsaved htask
    refine (exec_gangPlacement hs hg).trans ?_
    rw [hsaved, htask]
    rfl
  case pool =>
    intro hs hg hsaved htask
    refine (exec_gangPlacement hs hg).trans ?_
    rw [hsaved, htask]
    rfl
  case senior => exact fun hdue hg hnew hhold hp => exec_seniorGang hdue hg hnew hhold hp
  case started =>
    intro hdue hp hidle halive hquiet hready hhead hframe hstart core slot scr hslot
    have hidle' : (late.idleSlots x).contains (n % 2 ^ 20) = true := List.contains_iff_mem.2 hidle
    refine (exec_taskStart hdue hp).trans (congrArg _ ((if_neg ?_).trans (takeWork_queued hslot hready hhead hframe hstart)))
    simp only [hidle', hquiet, halive, Bool.not_true, Bool.false_eq_true, or_self, not_false_eq_true, late, ix] at *
  case parks =>
    intro hdue hblk ht hhome halive hgoing hsaving hwaits hparking hch hquiet
    have hawaits : th.awaitsObject = true := (awaitsObject_iff th).2 hwaits
    refine (exec_adoption_goes ⟨hdue, hblk, ht, hhome, halive, hgoing, hsaving, hparking⟩ (by rw [hawaits]; rfl)
      (hch ▸ Choice.noConfusion)).trans (congrArg _ ?_)
    rw [if_pos hquiet, hch, hawaits]
  case noFrame =>
    intro hdue hblk ht hhome halive hgoing hsaving hwaits hch
    exact ⟨_, exec_adoption_noFrame hdue hblk ht hhome halive hgoing hsaving ((awaitsObject_iff th).2 hwaits) hch, hold_noFrame ht ..⟩
  case woken => exact exec_wake_noTask
  case retries =>
    intro hdue ht hwaits
    refine ⟨_, exec_parkRetry hdue, ?_⟩
    rw [State.thread?_updThread_self, ht]
    refine congrArg some (Option.map_congr fun y hy => if_pos ?_)
    rw [hy] at hwaits
    exact Option.some.inj hwaits
  case allSaved =>
    intro hdue hsaving
    refine Eq.trans (b := execPreemptSave s) rfl ?_
    simp only [execPreemptSave, hdue, hsaving, List.filter_nil]
  case saved =>
    intro s' hdue hsaving hblk hhome halive hquiet hsave hpools
    exact exec_preemptSave_last hdue hsaving hblk hhome halive hquiet hsave hpools
  case resumes =>
    intro hdue hctx haway hall
    exact (exec_resume hdue).trans (congrArg _ (resume_all hctx haway hall))
  case restores =>
    intro hdue hg hhold hstuck hp hplan hshort htask ks hks moved s2 s3 hread
    refine Eq.trans (b := execRestore s) rfl ?_
    simp only [s2, moved] at hread
    simp only [execRestore, hdue, hg, hhold, hstuck, hp, hplan, hshort, htask, hks, hread, Bool.false_eq_true, or_self, if_false]
    rfl
  case unpicks =>
    intro hdue hmarks hdead hblk hhome hquiet hpage u hgone hstill hlive
    exact exec_unpickerPass_last hdue hmarks hdead hblk hhome hquiet hpage rfl hgone hstill hlive
  case replays =>
    intro hdue
    refine Eq.trans (b := execFltreplay s) rfl ?_
    simp only [execFltreplay, hdue]
  case reports =>
    intro hdue ht hlive hrecord hlater halive
    refine Eq.trans (b := execFaultReport s) rfl ?_
    simp only [execFaultReport, hdue]
    exact congrArg _ (postFault_first ht hlive hrecord hlater halive)
  case rings =>
    intro hdue
    refine Eq.trans (b := execFaultReport s) rfl ?_
    simp only [execFaultReport, hdue]

end Sys2Proof.Machine
